-- ==== Sys2Proof/Word.lean ====
section
/-! DEFINITION. The word types of the LD-2 (R11, R35), the sparse table that holds every numbered
collection of like units, and the two enumerations every chapter uses: operand formats (R41) and status
codes (R436). -/

namespace Sys2Proof

abbrev Byte := BitVec 8
abbrev W16 := BitVec 16
abbrev W32 := BitVec 32
abbrev W64 := BitVec 64
/-- A 48-bit address register or ward virtual address (R25, R117). -/
abbrev Addr := BitVec 48

/-- A sparse table: keys strictly rising, no entry equal to the table's default.
The operations are in `Sys2Proof.Machine.Tab`. -/
abbrev Tab (β : Type) := List (Nat × β)

/-- The four B-formats (R41). -/
inductive Fmt where
  | b1 | b2 | b4 | b8
deriving DecidableEq, Repr, Inhabited

/-- Rounding mode: nearest even, or stochastic (R52, R130). -/
inductive Rnd where
  | rne | sr
deriving DecidableEq, Repr, Inhabited

/-- Status codes (R436).
`job` holds the job-defined codes 0x80 to 0xFF. -/
inductive St where
  | ok | adapterWithdrawn | tierFail | poison | overlap | scaleSkew | shardBad | slotTaken
  | nonfinite | beatOverrun | busyShutdown | keyRetired | supply | armTimeout | witnessFence
  | translation | protection | divergent | preempted | absent
  | job (c : Byte)
deriving DecidableEq, Repr, Inhabited

/-- The 8-bit code of a status (R436). -/
def St.code : St → Byte
  | .ok => 0x00 | .adapterWithdrawn => 0x01 | .tierFail => 0x02 | .poison => 0x03
  | .overlap => 0x04 | .scaleSkew => 0x05 | .shardBad => 0x06 | .slotTaken => 0x07
  | .nonfinite => 0x08 | .beatOverrun => 0x09 | .busyShutdown => 0x0A | .keyRetired => 0x0B
  | .supply => 0x0C | .armTimeout => 0x0D | .witnessFence => 0x0E | .translation => 0x0F
  | .protection => 0x10 | .divergent => 0x11 | .preempted => 0x12 | .absent => 0x13
  | .job c => c

/-- The three variants of the module (R1, R2). -/
inductive Variant where
  | full | half | serve
deriving DecidableEq, Repr, Inhabited

end Sys2Proof
end

