-- ==== Sys2Proof/Syntax/Operands.lean ====
section
/-! DEFINITION. The operand records of the LD-2's commands: the fields of the tile instructions as
chapter 05 draws them, the header of a host command (R424), the parsed job program, the training record
(R331 to R333), the configuration image (R507 to R510), the package manifest (R323, R457) and the inputs
that a physical event brings with it. -/

namespace Sys2Proof

/-! ### Tile instructions (chapter 05) -/

/-- LATCH (R127). `rows` and `cols` are the counts, 1 to 256. -/
structure LatchF where
  as : Nat
  vs : Nat
  fmt : Fmt
  blk : Bool
  trd : Bool
  half : Bool
  rows : Nat
  cols : Nat
deriving DecidableEq, Repr, Inhabited

/-- PASS and PASST (R130). `wc` is the well count c of R105, 1 to 512; P is `2 ^ pi`. -/
structure PassF where
  as : Nat
  vs : Nat
  vcnt : Nat
  wb : Nat
  wc : Nat
  pi : Nat
  rnd : Rnd
  wit : Bool
  seed : Nat
deriving DecidableEq, Repr, Inhabited

/-- WZERO (R132). `wc` is the number of wells, 1 to 512. -/
structure WzeroF where
  wb : Nat
  wc : Nat
deriving DecidableEq, Repr, Inhabited

/-- DRAIN (R133). `ofmt` is 0 FP32, 1 BF16, 2 B-format; `afmt` is true for BF16 add-in rows. -/
structure DrainF where
  wb : Nat
  wc : Nat
  ofmt : Nat
  half : Bool
  ad : Nat
  vd : Nat
  cw : W16
  aie : Bool
  afmt : Bool
  aa : Nat
  va : Nat
  sa : Nat
deriving DecidableEq, Repr, Inhabited

/-- CHAIN (R137). `rows` is 1 to 8,192. -/
structure ChainF where
  ad : Nat
  rows : Nat
deriving DecidableEq, Repr, Inhabited

/-- KICK (R138). -/
structure KickF where
  ad : Nat
  hp : Bool
  ch : Nat
  ks : Bool
  ki : Nat
  cnt : Nat
deriving DecidableEq, Repr, Inhabited

/-- TAG (R140). -/
structure TagF where
  ac : Nat
  bmask : W32
deriving DecidableEq, Repr, Inhabited

/-- STAT (R143). `ns` is the number of sites, 1 to 64. -/
structure StatF where
  ad : Nat
  site : Nat
  ns : Nat
  clr : Bool
deriving DecidableEq, Repr, Inhabited

/-- SIG (R147). -/
structure SigF where
  tgt : Nat
  fmask : W16
deriving DecidableEq, Repr, Inhabited

/-- WAITF (R148). `any` is MODE 1. -/
structure WaitfF where
  fmask : W16
  any : Bool
  clr : Bool
deriving DecidableEq, Repr, Inhabited

/-- LOOP (R149). `src` true uses k[K] as it stands. -/
structure LoopF where
  k : Nat
  src : Bool
  count : Nat
  fin : Nat
deriving DecidableEq, Repr, Inhabited

/-- JMP (R151). -/
structure JmpF where
  cond : Nat
  k : Nat
  pop : Nat
  target : Nat
  fmask : W16
deriving DecidableEq, Repr, Inhabited

/-- SETA (R153). `ext` is bits [47:0] of the extension word in mode 0. -/
structure SetaF where
  ad : Nat
  mode : Nat
  as : Nat
  imm : W16
  ext : Addr
deriving DecidableEq, Repr, Inhabited

/-- ADDA (R154). -/
structure AddaF where
  ad : Nat
  mode : Nat
  as : Nat
  at' : Nat
  k : Nat
  imm : W16
deriving DecidableEq, Repr, Inhabited

/-- SETK (R155). -/
structure SetkF where
  kd : Nat
  mode : Nat
  ks : Nat
  as : Nat
  imm : BitVec 24
deriving DecidableEq, Repr, Inhabited

/-- A physical error at one check point (R80): `lane` and `main` disturb one lane's partial of the main
path, `wit` disturbs the witness sum. No error is all zero. -/
structure CellErr where
  lane : Nat := 0
  main : Int := 0
  wit : Int := 0
deriving DecidableEq, Repr, Inhabited

/-- A physical error in the replay of a proof run at recorded check point `point` (R84). -/
structure ReplayErr where
  point : Nat
  main : Int := 0
  wit : Int := 0
deriving DecidableEq, Repr, Inhabited

/-- What the checkers of the chain engine report for a row (R219, R220). -/
inductive ChainCheck where
  | good | residue | parity
deriving DecidableEq, Repr, Inhabited

/-! ### Host commands (R424) -/

/-- The header of a command: the ring it was fetched from, its flags, and its TAG. `func` 0 is PF0,
1 to 8 are VF1 to VF8; `port` 0 is A, 1 is B. -/
structure Src where
  port : Nat
  func : Nat
  ring : Nat
  relay : Bool := false
  wait : Bool := false
  force : Bool := false
  ward : Nat := 0
  dest : Nat := 0
  tag : W64 := 0
deriving DecidableEq, Repr, Inhabited

/-- The requester of a register access (R36). -/
structure Req where
  port : Nat
  func : Nat
deriving DecidableEq, Repr, Inhabited

/-- One register access on the bus (R35): offset in the register space, size in bytes, written value. -/
structure RegW where
  off : Nat
  size : Nat
  val : W64
deriving DecidableEq, Repr, Inhabited

/-! ### Job program -/

/-- One tile of a job program: relative die, tile, entry, CODE_END and the words of its store. -/
structure TileProg where
  rdie : Nat
  tile : Nat
  entry : Nat
  codeEnd : Nat
  words : Tab W64
  /-- Context-table positions of the micro-batches whose vectors the tile streams (R86). -/
  feeds : List Nat := []
  /-- Some chain program of its quad names the tile (R217). -/
  chained : Bool := false
deriving DecidableEq, Repr, Inhabited

/-- A rank slot that the program declares (R301, ADP_RSLOTn of R327). -/
structure RankSlot where
  valid : Bool := false
  imgMib : Nat := 0
  rmax : Nat := 0
  mats : W16 := 0
deriving DecidableEq, Repr, Inhabited

/-- A stage: its dies by relative index, and its residence in beats (R185, R186). -/
structure Stage where
  rdies : List Nat
  res : Nat
deriving DecidableEq, Repr, Inhabited

/-- A job program as parsed (its container format is the toolchain's): what chapters 05, 06, 10 and 11
say the program fixes. -/
structure JobProg where
  dies : Nat := 1
  mask : Option (BitVec 8) := none
  spares : List (Nat × Nat) := []
  tiles : List TileProg := []
  groups : Nat := 0
  positions : Nat := 0
  vectors : Nat := 1
  training : List Nat := []
  stages : List Stage := []
  rslots : List RankSlot := []
  xlayers : List Nat := []
  run : Nat := 0
  nrep : Nat := 1
  index : Nat := 0
  modules : List Nat := []
  /-- Ward of the job on each of its modules (R29). -/
  peerWards : Tab Nat := []
  /-- The modules of each replica of the run, in the same order for every replica: link address and ward (R29, R336). -/
  replicas : List (List (Nat × Nat)) := []
  /-- The longest latency of a marker path that this module does not measure (R182). -/
  lat : Nat := 0
  /-- KIND and PFMT of what a block frame holds (R273, R286). -/
  fkind : Nat := 1
  ffmt : Nat := 2
  /-- The two address sets of the base (R319, R322). -/
  bases : List Addr := []
  /-- Entries of the prefetch schedule whose output is a skewed run (R277): the entry has no field that says so. -/
  skews : List Nat := []
deriving DecidableEq, Repr, Inhabited

/-! ### Training record (R331 to R333) -/

structure TrainGroup where
  rule : Nat
  sites : List Nat
  lrm : W32
  b1 : W32
  b2 : W32
  eps : W32
  wd : W32
  da : W32
  dr : W32
deriving DecidableEq, Repr, Inhabited

structure Tensor where
  die : Nat
  group : Nat
  role : Nat
  partner : Nat
  rows : Nat
  cols : Nat
  off : Nat
  goff : Nat
  ioff : Nat
  cw : W16
deriving DecidableEq, Repr, Inhabited

/-- The fields of the 1,024-byte record and of its tensor table. `reservedZero` says every reserved byte is zero. -/
structure TrainRec where
  pub : Bool := false
  pubWait : Bool := false
  steer : Bool := false
  d : Nat := 0
  c : Nat := 32
  pubn : Nat := 1
  clip : W32 := 0
  smin : W32 := 0
  ks : W32 := 0
  tt : Addr := 0
  loss : Addr := 0
  nloss : Nat := 1
  half : Nat := 0
  acc : Nat := 0
  img : Nat := 0
  start : Nat := 0
  report : Addr := 0
  state : Tab Addr := []
  groups : List TrainGroup := []
  tensors : List Tensor := []
  reservedZero : Bool := true
deriving DecidableEq, Repr, Inhabited

/-! ### Package manifest (R323, R457) -/

structure Shard where
  digest : BitVec 256
  dest : W64
  offset : Addr
  len : Nat
  src : Nat
deriving DecidableEq, Repr, Inhabited

/-- A manifest as the reader reads it (R457): its bytes before the signature, none where they could not be read; whether the
signature verifies under the key that KEYID names, and whether that is the owner key or a publisher key of the owner record
(R458); and what the package's host memory holds. -/
structure Manifest where
  sigOk : Bool
  keyKnown : Bool
  bytes : List Byte
  seen : List (Nat × Byte) := []
deriving DecidableEq, Repr, Inhabited

/-! ### Configuration image (R507 to R510) -/

structure RouteEnt where
  valid : Bool := false
  loc : Bool := false
  ports : BitVec 48 := 0
deriving DecidableEq, Repr, Inhabited

structure TkoRow where
  m : Nat
  s : Nat
  ent : RouteEnt
deriving DecidableEq, Repr, Inhabited

/-- What a configuration image says, once read (R507 to R510); `routes` and the entries of `tko` are this module's. -/
structure Image where
  nmax : Nat := 64
  pinMbps : Nat := 6400
  refresh : Nat := 0
  plan : Tab (Nat × Nat) := []
  planOf : Tab (Tab (Nat × Nat)) := []
  designW : Nat := 4200
  peakW : Nat := 4800
  dieW : Tab Nat := []
  vlan : Nat := 0
  port : Nat := 0
  cport : Nat := 0
  family : Nat := 6
  plen4 : Nat := 8
  collector : BitVec 128 := 0
  prefix6 : W64 := 0
  addr4 : Tab W32 := []
  fwMin : Nat := 0
  fwPin : BitVec 256 := 0
  tjThrottle : Nat := 95
  outThrottle : Nat := 65
  domainSize : Nat := 1
  autoLoss : Bool := false
  lossMs : Nat := 0
  tko : List TkoRow := []
  devmap : Tab (BitVec 256) := []
  routes : Tab RouteEnt := []
  variants : BitVec 8 := 0x0E
  secver : Nat := 0
  keyid : BitVec 256 := 0
deriving DecidableEq, Repr, Inhabited

/-- One checked copy of a flash item (R505): whether its check passed and, if not, the reason of R512. -/
structure CopyCheck where
  ok : Bool := true
  reason : Byte := 0
  idx : Nat := 0
deriving DecidableEq, Repr, Inhabited

/-- One copy of an image as the flash gives it (R507): its bytes where it can be read, those that are not zero by offset;
whether its signature verifies, a configuration image's under the key that KEYID names and is in effect (R441), a firmware
image's under the key it holds, whose SHA-256 the boot ROM holds; its digest. -/
structure ImgCopy where
  bytes : Option (Tab Byte) := some []
  sigOk : Bool := true
  digest : BitVec 256 := 0
deriving DecidableEq, Repr, Inhabited

/-- A staged image of a flash write (R506): whether the host tier gives its bytes, its signature check and its digest. -/
structure StagedIn where
  readOk : Bool := true
  sigOk : Bool := true
  digest : BitVec 256 := 0
deriving DecidableEq, Repr, Inhabited

/-- The inputs of a boot (R511, R512): what the flash reads and the checks give. -/
structure BootIn where
  flashC0 : Bool := true
  flashC4 : Bool := true
  slow : Bool := false
  ident : CopyCheck × CopyCheck := ({}, {})
  ownerErased : Bool := true
  owner : CopyCheck × CopyCheck := ({}, {})
  ownerId : BitVec 256 := 0
  ownerVer : Nat := 0
  cfg : ImgCopy × ImgCopy := ({}, {})
  fw : ImgCopy × ImgCopy := ({}, {})
  deviceId : BitVec 256 := 0
  badStack : Option Nat := none
  jrnBoot : W64 := 0
deriving DecidableEq, Repr, Inhabited

/-! ### Links and domains -/

/-- The header of a flit (R371). -/
structure Flit where
  type : Nat
  vc : Nat
  dst : Nat
  src : Nat
  ward : Nat
  last : Bool
  len : Nat
  ctx : Nat
  epoch : W16
  seq : Nat
  ack : Nat
  nak : Bool
  crvc : Nat
  crcnt : Nat
  tree : Nat
  xid : BitVec 28
deriving DecidableEq, Repr, Inhabited

/-- What the receive path finds of a flit before its header is used (R376, R377). -/
structure FlitCheck where
  crcOk : Bool := true
  tagOk : Bool := true
  corrected : Nat := 0
deriving DecidableEq, Repr, Inhabited

/-- A marker's payload (R391). -/
structure Marker where
  jobward : Nat
  master : Nat
  beat : W64
  cmds : List (Nat × Nat) := []
deriving DecidableEq, Repr, Inhabited

/-- A roll-call record (R399). -/
structure RollRec where
  addr : Nat
  selfBad : Bool
  tg : Nat
  tick : Nat
  img : BitVec 256
  dom : BitVec 256
  jobs : Tab (Nat × BitVec 256) := []
deriving DecidableEq, Repr, Inhabited

/-- What link training finds (R368, R369, R452). -/
structure TrainedLink where
  lanesOk : Bool
  two : Bool := false
  lat : Nat := 0
  peerAddr : Nat := 0
  peerLink : Nat := 0
  match' : Bool := true
  certOk : Bool := true
  peerId : BitVec 256 := 0
deriving DecidableEq, Repr, Inhabited

/-- A replica's vote of pass one, or its report of pass two (R341, R342). `poison`: a gradient element is poisoned;
`master`: poison was read from the state (R344). NORM and CF go to the replica's own modules. -/
structure VoteIn where
  pass : Nat
  replica : Nat
  /-- The module that sends it. -/
  addr : Nat := 0
  finite : Bool
  poison : Bool := false
  master : Bool := false
  norm : W32 := 0
  cf : W32 := 0x3F800000
  loss : W32
  lr : W32
  steer : Tab (Nat × Nat × Nat) := []
  group : Nat := 0xFF
  tensor : Nat := 0xFFFFFFFF
  elem : Nat := 0
deriving DecidableEq, Repr, Inhabited

/-- What pass one found on a die of another module of the replica, as its die controller tells the lowest one (R341, R350). -/
structure PartIn where
  addr : Nat
  die : Nat
  n2 : W32 := 0
  bad : Option (Nat × Nat × Nat × Bool) := none
  master : Bool := false
  steer : Tab (Nat × Nat × Nat) := []
deriving DecidableEq, Repr, Inhabited

/-- The context of a step, and what pass one found on the dies of the replica's other modules, as far as it has come. -/
structure PassOneIn where
  ctx : Nat
  parts : List PartIn := []
deriving DecidableEq, Repr, Inhabited

/-- The digests of a step that a replica sends (R352). -/
structure DigestIn where
  replica : Nat
  step : Nat
  dig : BitVec 256
  dies : List (Nat × BitVec 256)
deriving DecidableEq, Repr, Inhabited

/-- The digests that a second hash is compared with: the other replica's, and those of this replica's other modules, by die
(R354). -/
structure RehashIn where
  peer : DigestIn
  parts : List (Nat × BitVec 256) := []
deriving DecidableEq, Repr, Inhabited

/-! ### Faults, errors, sensors -/

/-- Why an access failed for lack of a completion (R260), or because of poison or a bad address. -/
inductive AccErr where
  | translate (va : Addr) (write : Bool)
  | noCompletion (va : Addr)
  | poisoned (va : Addr)
  | metaPoison (va : Addr) (what : Nat)
  | pageTable (va : Addr)
  | storeWord (va : Addr)
  | completionWrite
deriving DecidableEq, Repr, Inhabited

/-- An access of a channel that failed, and the host and peer bytes that the channel had read before it. -/
structure AccFault where
  err : AccErr
  seen : List (Nat × Byte) := []
deriving DecidableEq, Repr, Inhabited

/-- The address of an access that has no completion, and the host and peer bytes that its unit had read before it. -/
structure LostAccess where
  va : Addr
  seen : List (Nat × Byte) := []
deriving DecidableEq, Repr, Inhabited

/-- A read of one sector that the HBM reports on (R477). -/
structure HbmRep where
  sector : Nat
  uncorr : Bool := false
  corrected : Nat := 0
deriving DecidableEq, Repr, Inhabited

/-- What the reads of an operation bring: the host and peer bytes, and what the HBM reports of the others. -/
structure Arrived where
  seen : List (Nat × Byte) := []
  reports : List HbmRep := []
deriving DecidableEq, Repr, Inhabited

/-- A host command with its arguments (R426, R446), beside its header: what a ring fetches and what the
control channel relays (R389). Addresses are given as the 64-bit words they arrive in; `pairs`, `bytes`,
`prog` and `m` are what the module reads at those addresses, `none` where the copy fails. -/
inductive HostOp where
  | wardEnable (dies port vf : Nat)
  | wardDisable
  | wardReset
  | jobStart (program : Addr) (len : Nat) (prog : JobProg)
  | jobEnd
  | map (va pa : W64) (count size rights kslot : Nat)
  | unmap (va : W64) (count size : Nat)
  | register (c kslot rslot rank mats image : Nat) (negVa negLen : W64)
  | withdraw (c : Nat)
  | claim (c count : Nat) (list : W64) (pairs : Option (List (Nat × Nat)))
  | unclaim (c count : Nat) (list : W64) (pairs : Option (List (Nat × Nat)))
  | submit (idx c prompt maxtok : Nat) (cookie out job : W64) (bytes : Option (List Byte))
  | cancel (idx : Nat)
  | prepare (target : Nat) (source length : W64)
  | switch (target wait : Nat)
  | distribute (target : Nat) (package length alt : W64) (m : Manifest)
  | trainStart (c mode : Nat) (record : W64)
  | trainStop (c : Nat)
  | rollback (c : Nat)
  | takeover (m s : Nat)
  | rollcallClear
  | linkRetrain (die link : Nat)
  | journalRead (first : W64) (count : Nat) (dst : W64)
  | keyAlloc (c : Nat)
  | keyRetire (slot : Nat)
  | keyShare (slot c : Nat)
  | attest (c outlen : Nat) (request out : W64) (keyOk : Bool) (nonce : BitVec 256)
  | ownerSet (record : W64) (length : Nat) (sigOk : Bool) (secver : Nat) (ownerId : BitVec 256)
  | certRead (out : W64) (outlen : Nat)
  | ideKey (port stream : Nat) (request : W64) (wrapOk : Bool)
deriving DecidableEq, Repr, Inhabited

/-- A command relayed over the control channel (R389): its target ward, its TAG, its FORCE and WAIT
flags, and the command itself. -/
structure Relayed where
  ward : Nat
  tag : W64
  wait : Bool := false
  force : Bool := false
  op : HostOp
deriving DecidableEq, Repr, Inhabited

/-- A double-bit error on die `tile / 64` (R470): of tile `tile`, word `at'` of the tile store or the instruction store, or
pair `at'` of well elements (128 pairs to a well); or a flit of the package fabric that brings 32 bytes to unit `at'` of the
tile's store, as typed elements or not, or data to sector `at'` of the die's stacks. -/
inductive UpsetKind where
  | store | code | well
  | fabric (typed : Bool)
  | fabricStack
deriving DecidableEq, Repr, Inhabited

structure Upset where
  tile : Nat
  kind : UpsetKind
  at' : Nat
deriving DecidableEq, Repr, Inhabited

/-- A heartbeat: its tick (R474), and the errors in the memories of the die's tiles since the last one (R470). -/
structure Beat where
  tick : Nat
  upsets : List Upset := []
deriving DecidableEq, Repr, Inhabited

/-- Operands of a unit that waits for a completion: a DMA channel key, a developer's die, or the ward whose distribution
reads its package. -/
inductive Waiter where
  | chan (c : Nat)
  | dev (d : Nat)
  | reader (w : Nat)
deriving DecidableEq, Repr, Inhabited

end Sys2Proof
end

