-- ==== Sys2Proof/Syntax.lean ====
section
/-! DEFINITION. The commands of the LD-2, one constructor for each row of the opcode table, with the row's
operands: the unit it happens at, the instruction's fields, the command's arguments, and what a physical
event brings with it (log entry 3). -/

namespace Sys2Proof

inductive Instr where
  /-- LATCH (R128). Tile instruction that starts loading plates from a view into the shadow latch. -/
  | latch (t : Nat) (f : LatchF)
  /-- LATCH_COMPLETE (R67). The latch unit writes the last row of a LATCH into the shadow latch, together with its witness sums. -/
  | latchComplete (t : Nat)
  /-- SWAP (R129). Tile instruction that exchanges the active and shadow latches along the streamed wavefront. -/
  | swap (t : Nat)
  /-- PASS (R131). Tile instruction that checks and queues a forward pass of a skewed run and adds its promotions to the well scoreboards. -/
  | pass (t : Nat) (f : PassF)
  /-- PASST (R131). Tile instruction that checks and queues a transposed pass on a square-plate latch. -/
  | passt (t : Nat) (f : PassF)
  /-- PASS_STREAM_START (R77). A queued pass takes the array input and begins streaming its vectors, after any orientation turn. -/
  | passStreamStart (t : Nat)
  /-- PROMOTION (R102). A running sum is promoted into its target well element and the well's scoreboard count falls by one. -/
  | promotion (t : Nat) (e : CellErr)
  /-- PROOF_RUN_START (R83). Once the partner tile has finished streaming its current pass, it begins replaying the failing pass. -/
  | proofRunStart (t : Nat)
  /-- PROOF_VERDICT (R84). The replay's last recorded check point completes and the verdict is reached. -/
  | proofVerdict (t : Nat) (errs : List ReplayErr)
  /-- WZERO (R132). Tile instruction that clears wells and closes their open carries, once the scoreboards and earlier drains allow it. -/
  | wzero (t : Nat) (f : WzeroF)
  /-- WZERO_COMPLETE (R132). The background clear of the wells named by a WZERO completes. -/
  | wzeroComplete (t : Nat)
  /-- DRAIN (R135). Tile instruction that reads wells and converts them into the tile store, with an optional add-in. -/
  | drain (t : Nat) (f : DrainF)
  /-- DRAIN_COMPLETE (R135). The last output byte of a drain lands in the tile store. -/
  | drainComplete (t : Nat)
  /-- CHAIN (R137). Tile instruction that queues a chain program on its quad's chain engine. -/
  | chain (t : Nat) (f : ChainF)
  /-- CHAIN_PROGRAM_START (R214). The chain engine starts its next queued program once every output of the previous program has been written, and reads and checks the descriptor. -/
  | chainProgramStart (q : Nat)
  /-- CHAIN_ROW (R215). One row enters the chain engine, or the engine stalls for a cycle because an access was not served. -/
  | chainRow (q : Nat) (served : Bool) (chk : ChainCheck)
  /-- CHAIN_PROGRAM_COMPLETE (R214). The last write of a chain program, main output or span result, lands. -/
  | chainProgramComplete (q : Nat)
  /-- KICK (R139). Tile instruction that starts a DMA run on a die or host-port channel once the channel is idle. -/
  | kick (t : Nat) (f : KickF)
  /-- TAG (R141). Tile instruction that retags tile-store banks, clearing on retag, after this tile's earlier accesses to them complete. -/
  | tag (t : Nat) (f : TagF)
  /-- TAG_CLEAR_COMPLETE (R141). A retagged bank finishes its 128 cy clear and serves accesses again. -/
  | tagClearComplete (t bank : Nat)
  /-- STAT (R143). Tile instruction that copies, and optionally zeroes, statistics sites into the tile store. -/
  | stat (t : Nat) (f : StatF)
  /-- STAT_COMPLETE (R143). The last statistics record of a STAT is written to the tile store. -/
  | statComplete (t : Nat)
  /-- BEAT (R145). Tile instruction that waits for the next beat boundary of the ward. -/
  | beat (t : Nat)
  /-- FENCE (R146). Tile instruction that stalls until the earlier operations of the named classes complete. -/
  | fence (t : Nat) (cls : Byte)
  /-- SIG (R147). Tile instruction that sends event flags to a target tile. -/
  | sig (t : Nat) (f : SigF)
  /-- FLAG_ARRIVE (R147). Flags sent by a SIG become set at the target tile after the fabric delay. -/
  | flagArrive (src tgt : Nat)
  /-- WAITF (R148). Tile instruction that waits on event flags. -/
  | waitf (t : Nat) (f : WaitfF)
  /-- WAITF_WAKE (R148). The awaited flag condition holds, so the sequencer wakes and clears the flags when CLR is set. -/
  | waitfWake (t : Nat)
  /-- LOOP (R150). Tile instruction that pushes a loop entry or skips the body. -/
  | loop (t : Nat) (f : LoopF)
  /-- ENDL (R150). Tile instruction that counts down and either repeats or pops a loop. -/
  | endl (t : Nat)
  /-- JMP (R151). Tile instruction that jumps, conditionally or always, and pops loop entries. -/
  | jmp (t : Nat) (f : JmpF)
  /-- HALT (R152). Tile instruction that stops issue for the rest of the job. -/
  | halt (t : Nat)
  /-- SETA (R153). Tile instruction that sets an address register from an immediate, an offset or a tile-store load. -/
  | seta (t : Nat) (f : SetaF)
  /-- ADDA (R154). Tile instruction that performs address-register arithmetic. -/
  | adda (t : Nat) (f : AddaF)
  /-- SETK (R155). Tile instruction that sets a loop counter. -/
  | setk (t : Nat) (f : SetkF)
  /-- BEAT_STEP_POINT (R176). At E and each later 256 cy step point, the beat's closing is tested: it is held, closed or overrun. -/
  | beatStepPoint (w : Nat)
  /-- MASTER_DECIDE (R181). At S_k − C/2 the beat master sends BOUNDARY or HOLD. -/
  | masterDecide (w : Nat)
  /-- VERDICT_APPLY (R181). A module applies the master's verdict when the master's count reaches S_k. -/
  | verdictApply (w : Nat) (late : Bool)
  /-- MARKER_LOST (R183). No verdict arrives within 256 cy of its application time, so the module treats the beat as held. -/
  | markerLost (w : Nat)
  /-- BEAT_BOUNDARY (R179). The ward applies a beat boundary: beat number, job faults, spares, snapshots, serving actions, ownership, and tile resume. -/
  | beatBoundary (w : Nat) (ns : W32)
  /-- DMA_START (R227). A write to DMA_START with a non-zero count starts a run, or updates the held half. -/
  | dmaStart (r : Req) (c : Nat) (a : RegW)
  /-- DMA_DESCRIPTOR_FETCH (R228). A channel's descriptor and shape records arrive and pass the fetch-time checks. -/
  | dmaDescriptorFetch (c : Nat) (seen : List (Nat × Byte))
  /-- DMA_DESCRIPTOR_COMPLETE (R228). Every write of a descriptor lands: the completion word is written, the count falls, and at zero the run ends with its interrupt. -/
  | dmaDescriptorComplete (c : Nat) (seen : List (Nat × Byte)) (reports : List HbmRep)
  /-- DMA_ACCESS_ERROR (R258). An access of a descriptor fails translation, protection, poison or tier checks. -/
  | dmaAccessError (c : Nat) (e : AccFault)
  /-- SQUASH_COMPLETE (R262). Accesses issued before a squash have completed and the channel enters SQUASHED. -/
  | squashComplete (c : Nat)
  /-- DEVELOP (R278). The developer decodes and checks a negative frame by frame into plates or elements. -/
  | develop (d : Nat) (seen : List (Nat × Byte)) (reports : List HbmRep)
  /-- QUANT (R277). The developer converts FP32 or BF16 elements into plates. -/
  | quant (d : Nat) (x : Arrived)
  /-- MOVE (R277). The developer re-lays plates through a shape record. -/
  | move (d : Nat) (x : Arrived)
  /-- ENCODE (R279). The developer writes plates or FP32 elements as a negative. -/
  | encode (d : Nat) (x : Arrived)
  /-- DEV_OPERATION_COMPLETE (R277). A developer operation finishes, and a load, spill, restore or prefetch it served is done. -/
  | devOperationComplete (d : Nat)
  /-- PEER_TIMEOUT (R285). A peer-tier read gets no last data flit within the peer timeout. -/
  | peerTimeout (u : Waiter) (x : LostAccess)
  /-- HOST_COMPLETION_TIMEOUT (R260). A host-tier read hits the PCIe completion timeout. -/
  | hostCompletionTimeout (u : Waiter) (x : LostAccess)
  /-- STAT_SNAP_REQUEST (R60). A write to WRD_STAT_CTL requests a statistics snapshot, optionally with clear, at the next boundary. -/
  | statSnapRequest (r : Req) (w : Nat) (a : RegW)
  /-- STAT_SNAPSHOT_COMPLETE (R62). The last die writes its records, so WRD_STAT_BEAT is set, or the snapshot fails. -/
  | statSnapshotComplete (w : Nat)
  /-- WARD_ENABLE (R412). Command that enables and places a ward on dies and a WARD key slot. -/
  | wardEnable (src : Src) (dies port vf : Nat)
  /-- WARD_DISABLE (R415). Command that shuts a ward down, or cancels a placing enable. -/
  | wardDisable (src : Src)
  /-- WARD_RESET (R416). Command that resets a ward's private state while it keeps its dies. -/
  | wardReset (src : Src)
  /-- WARD_SCRUB_COMPLETE (R415). A ward's scrub finishes: its reset completes, or its last boundary frees its dies and pending or placing enables are placed. -/
  | wardScrubComplete (w : Nat)
  /-- JOB_START (R417). Command that checks, measures and starts a job program. -/
  | jobStart (src : Src) (program : Addr) (len : Nat) (prog : JobProg) (seen : List (Nat × Byte))
  /-- JOB_END (R418). Command that ends a job, normally or forced. -/
  | jobEnd (src : Src)
  /-- MAP (R428). Command that writes leaf page-table entries. -/
  | map (src : Src) (va : W64) (pa : W64) (count size rights kslot : Nat)
  /-- UNMAP (R428). Command that invalidates leaf page-table entries. -/
  | unmap (src : Src) (va : W64) (count size : Nat)
  /-- REGISTER (R312). Command that registers an adapter in a registry entry. -/
  | register (src : Src) (c kslot rslot rank mats image : Nat) (negVa negLen : W64)
  /-- WITHDRAW (R315). Command that starts a normal or forced withdrawal of an adapter. -/
  | withdraw (src : Src) (c : Nat)
  /-- CLAIM (R302). Command that atomically claims extra-expert slots. -/
  | claim (src : Src) (c count : Nat) (list : W64) (pairs : Option (List (Nat × Nat)))
  /-- UNCLAIM (R303). Command that atomically frees extra-expert slots. -/
  | unclaim (src : Src) (c count : Nat) (list : W64) (pairs : Option (List (Nat × Nat)))
  /-- SUBMIT (R312). Command that queues a new sequence. -/
  | submit (src : Src) (idx c prompt maxtok : Nat) (cookie out job : W64) (bytes : Option (List Byte))
  /-- CANCEL (R312). Command that ends a sequence as cancelled. -/
  | cancel (src : Src) (idx : Nat)
  /-- PREPARE (R319). Command that builds a second copy for the next generation. -/
  | prepare (src : Src) (target : Nat) (source length : W64)
  /-- SWITCH (R320). Command that arms a hinge switch. -/
  | switch (src : Src) (target : Nat) (wait : Nat)
  /-- DISTRIBUTE (R324). Command that reads, checks and multicasts a weight package. -/
  | distribute (src : Src) (target : Nat) (package length alt : W64) (m : Manifest)
  /-- SHARD_ARRIVE (R324). A receiver hashes an arriving shard, writes it and marks it good or bad. -/
  | shardArrive (w shard : Nat) (bytes : List Byte) (tagOk : Bool)
  /-- END_OF_PASS (R324). The reader announces the end of its pass, and receivers request missing or bad shards again. -/
  | endOfPass (w : Nat)
  /-- DISTRIBUTE_TIMEOUT (R325). ADP_DIST_TMO expires with a shard not good, so the second copy is discarded. -/
  | distributeTimeout (w : Nat)
  /-- TRAIN_START (R361). Command that starts training for a context, fresh or from a peer. -/
  | trainStart (src : Src) (c mode : Nat) (record : W64) (seen : List (Nat × Byte))
  /-- TRAIN_STOP (R361). Command that stops training after the current step. -/
  | trainStop (src : Src) (c : Nat)
  /-- ROLLBACK (R361). Command that rolls a training run back to its verified checkpoint at the next boundary. -/
  | rollback (src : Src) (c : Nat)
  /-- UPD_STEP (R340). A write to UPD_STEP posts a step number and captures the step size, or is refused. -/
  | updStep (r : Req) (d : Nat) (a : RegW)
  /-- GRADIENT_REDUCTION_COMPLETE (R337). The ring reduction of an armed step completes and pass one begins. -/
  | gradientReductionComplete (w c : Nat)
  /-- PASS_ONE_COMPLETE (R341). Pass one forms norms, factors and finiteness, and the replica sends its vote. -/
  | passOneComplete (w : Nat) (x : PassOneIn)
  /-- VOTE (R341). A replica's vote arrives, and when all have arrived the vote passes or fails. -/
  | vote (w c : Nat) (v : VoteIn)
  /-- PASS_TWO_COMPLETE (R342). Pass two writes the alternate half and image, or stops on a non-finite value. -/
  | passTwoComplete (w c : Nat)
  /-- DIGEST_EXCHANGE (R352). A replica's digests of a step arrive on the control channel. -/
  | digestExchange (w c : Nat) (x : DigestIn)
  /-- REHASH_COMPLETE (R354). A two-replica re-hash from read-back completes and is compared. -/
  | rehashComplete (w c : Nat) (x : RehashIn)
  /-- CHECKPOINT_COPY_COMPLETE (R355). The copy of the committed half into a checkpoint slot completes. -/
  | checkpointCopyComplete (w c : Nat)
  /-- ROLLBACK_RESTORE_COMPLETE (R356). The checkpoint copy and image regeneration of a rollback finish, and the context re-enters ACCUM. -/
  | rollbackRestoreComplete (w c : Nat)
  /-- PEER_CHECKPOINT_ARRIVE (R357). A die of a restarted replica receives and checks a checkpoint copy from a majority replica. -/
  | peerCheckpointArrive (w c d : Nat) (fromReplica : Nat) (bytes : List Byte)
  /-- ARM_TIMEOUT (R339). UPD_ARM_TIMEOUT expires, so the context enters FAULTED with ST_ARM_TIMEOUT. -/
  | armTimeout (w c : Nat)
  /-- LINK_TRAINED (R369). Link training completes, with latency measured, addresses checked and a session set up, or the link stays down. -/
  | linkTrained (l : Nat) (x : TrainedLink)
  /-- LINK_TRAIN_RETRY (R511). The 10 ms retry of initial link training expires. -/
  | linkTrainRetry (l : Nat)
  /-- LANE_ALIGNMENT_LOSS (R377). A link loses lane alignment and goes down to retrain. -/
  | laneAlignmentLoss (l : Nat)
  /-- LINK_RETRAIN_COMPLETE (R377). A retrain ends, restoring the link, or after the third failure leaving it DOWN. -/
  | linkRetrainComplete (l : Nat) (x : TrainedLink)
  /-- FLIT_DATA (R376). A DATA flit arrives and is checked for CRC, sequence, tag and epoch, then relayed or written. -/
  | flitData (l : Nat) (f : Flit) (chk : FlitCheck) (hdr : Option (Addr × Nat)) (payload : List Byte)
  /-- FLIT_READ_REQ (R380). A READ_REQ flit arrives and is served or refused at the target. -/
  | flitReadReq (l : Nat) (f : Flit) (chk : FlitCheck) (hdr : Addr × Nat)
  /-- FLIT_RESP (R380). A RESP flit arrives at the requester with data or a status. -/
  | flitResp (l : Nat) (f : Flit) (chk : FlitCheck) (status : St) (payload : List Byte)
  /-- FLIT_REDUCE (R392). A REDUCE flit arrives and its elements are added or copied into the stack tier. -/
  | flitReduce (l : Nat) (f : Flit) (chk : FlitCheck) (hdr : Option (Addr × Nat)) (copy : Bool) (payload : List Byte)
  /-- FLIT_MCAST (R393). An MCAST flit arrives and is written locally and copied along the tree. -/
  | flitMcast (l : Nat) (f : Flit) (chk : FlitCheck) (hdr : Option (Addr × Nat)) (payload : List Byte)
  /-- FLIT_IDLE (R372). An IDLE flit arrives carrying acknowledgements and credits. -/
  | flitIdle (l : Nat) (f : Flit) (chk : FlitCheck)
  /-- SESSION_REKEY (R379). A link session's flit count nears 2^48, so a new key exchange replaces it. -/
  | sessionRekey (l : Nat) (atSeq : Nat)
  /-- MARKER_READY (R391). The beat master receives a READY marker. -/
  | markerReady (w : Nat) (src : Nat) (m : Marker)
  /-- MARKER_BOUNDARY (R391). A module receives a BOUNDARY marker with attached commands. -/
  | markerBoundary (w : Nat) (m : Marker)
  /-- MARKER_HOLD (R391). A module receives a HOLD marker. -/
  | markerHold (w : Nat) (m : Marker)
  /-- MARKER_START (R391). A module receives a START marker and begins the multi-module job. -/
  | markerStart (w : Nat) (m : Marker)
  /-- RELAYED_COMMAND (R389). A command relayed over the control channel arrives, is journalled and is executed at the target. -/
  | relayedCommand (origin : Nat) (jseq : Nat) (cmd : Relayed)
  /-- RELAY_COMPLETION (R389). The completion of a relayed command returns and is posted on the originating ring. -/
  | relayCompletion (jseq : Nat) (status : St) (detail : W32)
  /-- RELAY_TIMEOUT (R390). LNK_CTL_TMO expires on a relayed command, which completes with ST_TIER_FAIL. -/
  | relayTimeout (jseq : Nat)
  /-- TAKEOVER (R394). Command that asks the coordinator to give a logical identity to a standby. -/
  | takeover (src : Src) (m s : Nat)
  /-- TKO (R396). A module or standby receives TKO, rewrites its route entry or identity, faults spanning jobs and acknowledges. -/
  | tko (m s tg : Nat) (verdict : Bool)
  /-- TKO_ACK (R396). The coordinator receives an acknowledgement, and sends TKO_DONE once all have arrived. -/
  | tkoAck (addr tg : Nat)
  /-- TKO_DONE (R396). A module receives TKO_DONE and releases held transfers to the new route. -/
  | tkoDone (m tg : Nat)
  /-- TKO_ACK_TIMEOUT (R397). After 10 ms the coordinator completes the takeover without a silent module. -/
  | tkoAckTimeout (tg : Nat)
  /-- LOSS_TIMEOUT (R394). With AUTO_LOSS set, all ports to a module have been down for LOSS_MS, so a takeover starts. -/
  | lossTimeout (m : Nat)
  /-- ROLLCALL_SEND (R399). Every 65,536 ticks a module sends its roll-call record. -/
  | rollcallSend
  /-- ROLLCALL_RECORD (R399). A roll-call record from another module arrives and is kept. -/
  | rollcallRecord (r : RollRec)
  /-- ROLLCALL_CLEAR (R401). Command that resumes a job held by roll call. -/
  | rollcallClear (src : Src)
  /-- LINK_RETRAIN (R378). Command that retrains a link that is down. -/
  | linkRetrain (src : Src) (die link : Nat)
  /-- STOP_MARKER (R520). A stop marker arrives, so ports to the sender are removed and spanning jobs fault. -/
  | stopMarker (sender : Nat) (ev : Byte)
  /-- JOURNAL_READ (R429). Command that copies journal records to host memory. -/
  | journalRead (src : Src) (first : W64) (count : Nat) (dst : W64)
  /-- ILLEGAL_COMMAND (R426). A fetched command with an unknown or reserved opcode, a bad bit or the wrong issuer completes with ST_PROTECTION. -/
  | illegalCommand (src : Src) (opc : Byte) (bytes : List Byte)
  /-- SQ_TAIL_WRITE (R423). A write of a ring's SQ tail lets the module fetch new commands. -/
  | sqTailWrite (r : Req) (ring : Nat) (v : W16)
  /-- CQ_HEAD_WRITE (R427). A write of a ring's CQ head frees room and lets held completions be posted. -/
  | cqHeadWrite (r : Req) (ring : Nat) (v : W16)
  /-- RING_CTL_WRITE (R423). A write of a ring's _CTL enables or disables the ring. -/
  | ringCtlWrite (r : Req) (ring : Nat) (v : W32)
  /-- MSIX_UNMASK (R410). Unmasking an MSI-X vector delivers its pending interrupt. -/
  | msixUnmask (r : Req) (vec : Nat)
  /-- VF_FLR (R420). A function-level reset of a VF stops its rings and starts a 1 ms drain. -/
  | vfFlr (port vf : Nat)
  /-- FLR_DRAIN_TIMEOUT (R420). After 1 ms the outstanding transfers are squashed and the reset is reported complete. -/
  | flrDrainTimeout (port vf drained : Nat)
  /-- PF0_FLR (R421). A function-level reset of PF0 resets its rings and MSI-X table on that port. -/
  | pf0Flr (port : Nat)
  /-- PERST (R515). PERST# of a port resets its functions and retrains its link. -/
  | perst (port : Nat)
  /-- ACCOUNTING_SECOND (R431). Each second the energy estimates are reconciled and the accounting table is flushed. -/
  | accountingSecond (railMj idleMj : Nat)
  /-- SEQ_PEEK_IDX (R326). A write copies a sequence-table entry into SEQ_PEEK_DATA. -/
  | seqPeekIdx (r : Req) (w : Nat) (v : W32)
  /-- UPD_PEEK_CTX (R366). A write copies a context's training status into UPD_PEEK_DATA. -/
  | updPeekCtx (r : Req) (d : Nat) (v : W32)
  /-- SEC_SLOT_PEEK_IDX (R467). A write copies a key slot's record into the peek registers. -/
  | secSlotPeekIdx (r : Req) (v : W32)
  /-- SAF_RING_IDX (R499). A write copies a fault-ring record into SAF_RING_DATA. -/
  | safRingIdx (r : Req) (v : W64)
  /-- KEY_ALLOC (R446). Command that allocates a LIVE key slot for a context. -/
  | keyAlloc (src : Src) (c : Nat)
  /-- KEY_RETIRE (R462). Command that retires a key slot, bumping its epoch, zeroing its key and squashing its contexts. -/
  | keyRetire (src : Src) (slot : Nat)
  /-- KEY_RETIRE_COMPLETE (R462). Squashes are done, the boundary work is applied and 1 ms has passed, so KEY_RETIRE completes. -/
  | keyRetireComplete (slot : Nat)
  /-- KEY_SHARE (R446). Command that adds a member context to a key slot. -/
  | keyShare (src : Src) (slot c : Nat)
  /-- ATTEST (R455). Command that signs an attestation certificate wrapping a context's slot key. -/
  | attest (src : Src) (c outlen : Nat) (request out : W64) (keyOk : Bool) (nonce : BitVec 256)
  /-- OWNER_SET (R442). Command that writes a new owner record to flash. -/
  | ownerSet (src : Src) (record : W64) (length : Nat) (sigOk : Bool) (secver : Nat) (ownerId : BitVec 256)
  /-- CERT_READ (R446). Command that writes the identity and AK certificates to host memory. -/
  | certRead (src : Src) (out : W64) (outlen : Nat)
  /-- IDE_KEY (R454). Command that installs keys for a selective IDE stream. -/
  | ideKey (src : Src) (port stream : Nat) (request : W64) (wrapOk : Bool)
  /-- QUARANTINE_EXPIRE (R445). A retired slot leaves QUARANTINE after 100 ms and becomes FREE. -/
  | quarantineExpire (slot : Nat)
  /-- HEARTBEAT (R474). Each module tick a die controller writes its heartbeat. -/
  | heartbeat (d : Nat) (b : Beat)
  /-- WATCHDOG_EXPIRE (R474). 16 heartbeats are missed, so the die is fenced. -/
  | watchdogExpire (d : Nat)
  /-- PATROL_CYCLE (R483). A patrol cycle begins a pass over the ward's read-only shared pages. -/
  | patrolCycle (w : Nat)
  /-- PATROL_READ (R484). A patrol read corrects or poisons a sector, and poison faults the job. -/
  | patrolRead (w : Nat) (rep : HbmRep)
  /-- SAFELIGHT_SEND (R489). Compact records gathered within 1 ms are sent in a record datagram. -/
  | safelightSend
  /-- COLLECTOR_ACK (R490). An acknowledgement datagram from the collector arrives and marks records acknowledged. -/
  | collectorAck (devid : W64) (ack : W64)
  /-- RESEND_TIMER (R490). A record unacknowledged for 1,000 ms is sent again with RESEND set. -/
  | resendTimer (seq : Nat)
  /-- ALIVE_EXPIRE (R490). No collector datagram arrives within ALIVE_MS, so the network is unreachable and fall-back begins. -/
  | aliveExpire
  /-- PCS_SYNC_LOSS (R490). The safelight PCS loses synchronisation. -/
  | pcsSyncLoss
  /-- PCS_SYNC (R490). The safelight PCS synchronises and auto-negotiation completes. -/
  | pcsSync
  /-- ENTDAA (R493). The I3C bus owner assigns the module's dynamic address. -/
  | entdaa (da : BitVec 7)
  /-- SET_ENDPOINT_ID (R493). MCTP control message that assigns the endpoint identifier. -/
  | setEndpointId (eid : Byte)
  /-- GET_ENDPOINT_ID (R493). MCTP control message that returns the endpoint identifier. -/
  | getEndpointId
  /-- GET_MESSAGE_TYPE_SUPPORT (R493). MCTP control message that returns the supported message types. -/
  | getMessageTypeSupport
  /-- PLDM_SENSOR_READ (R493). PLDM message that reads a numeric sensor. -/
  | pldmSensorRead (sensor : Nat)
  /-- READ_COMPACT_RECORDS (R493). Vendor-defined MCTP message that reads compact records by SEQ. -/
  | readCompactRecords (first count : Nat)
  /-- READ_STATUS_REGISTERS (R493). Vendor-defined MCTP message that reads MOD_HEALTH, SAF_STATE and SEC_STATE. -/
  | readStatusRegisters
  /-- POWER_ON (R511). The input rises above 42.5 V with the reference clock present, and the boot sequence runs. -/
  | powerOn (b : BootIn)
  /-- BOOT_FAIL_RESEND (R512). Every 10 s the boot-failure record is sent again. -/
  | bootFailResend
  /-- RESET_N_ASSERT (R515). RESET_N held low for 10 µs starts a module reset. -/
  | resetNAssert
  /-- RESET_N_RELEASE (R515). RESET_N is released and boot starts. -/
  | resetNRelease (b : BootIn)
  /-- FLASH_WRITE (R506). Writing GO to CFG_FLASH_CTL starts a checked image write to one flash copy. -/
  | flashWrite (r : Req) (a : RegW) (img : StagedIn) (other : ImgCopy)
  /-- FLASH_WRITE_COMPLETE (R506). A flash write ends as done, refused or failed. -/
  | flashWriteComplete (compareOk : Bool)
  /-- SUPPLY_SAMPLE (R517). Every 2 µs the input is sampled and filtered, setting N_SUPPLY and the stop timer. -/
  | supplySample (vin10mV : Nat)
  /-- POWER_LIMIT_TICK (R518). Power averages are compared with their limits and N_POWER is stepped. -/
  | powerLimitTick (avg10ms avg1s : Nat) (dies : Tab Nat) (hundred : Bool)
  /-- THERMAL_TICK (R522). Die and outlet temperatures step N_THERMAL. -/
  | thermalTick (dies : Tab Int) (inlet outlet : Int) (ten : Bool)
  /-- STOP_TIMER_EXPIRE (R519). The stop timer reaches 2 ms, so an ordered stop begins. -/
  | stopTimerExpire
  /-- OVERVOLTAGE_TIMEOUT (R519). The input stays above 60 V for 100 ms, so an ordered stop begins. -/
  | overvoltageTimeout
  /-- DIE_OVERTEMP (R519). A die stays at or above 110 °C for 1 ms, so an ordered stop begins. -/
  | dieOvertemp (d : Nat)
  /-- OUTLET_OVERTEMP (R519). The coolant outlet stays at or above 70 °C for 1 s, so an ordered stop begins. -/
  | outletOvertemp
  /-- RAIL_SWITCH_OFF (R517). The input falls below 33 V and every rail switches off at once. -/
  | railSwitchOff
  /-- AUTO_RESET (R521). Input and temperatures have been good for 100 ms after an ordered stop, so the module resets itself. -/
  | autoReset (b : BootIn)
  /-- REGISTER_WRITE (R35). A write to a register with no row of its own updates it under its access code and ownership check. -/
  | registerWrite (r : Req) (a : RegW)
  /-- REGISTER_READ_REFUSED (R36). A register read by a requester that does not own the block reads zero and is counted in SEC_CNT.REFUSED. -/
  | registerReadRefused (r : Req) (off : Nat)
  /-- PCIE_LINK_DOWN (R260). A host port's PCIe link goes down, and host-tier accesses on that port fail with ST_TIER_FAIL. -/
  | pcieLinkDown (port : Nat)
  /-- PCIE_LINK_UP (R407). A host port's PCIe link trains and comes up, at any rate and width. -/
  | pcieLinkUp (port : Nat) (rate width : Nat)
  /-- PERST_RELEASE (R515). PERST# of a port is released, so that port's link retrains. -/
  | perstRelease (port : Nat)
  /-- BUS_MASTER_ENABLE_WRITE (R420). The host sets or clears Bus Master Enable of a function, which decides whether that ward's host-tier accesses may be issued. -/
  | busMasterEnableWrite (r : Req) (on : Bool)
  /-- ARP_REQUEST (R488). An ARP request arrives at the safelight port and is answered. -/
  | arpRequest (targetMatches : Bool)
  /-- NEIGHBOUR_SOLICITATION (R488). An IPv6 neighbour-discovery message arrives at the safelight port and is answered. -/
  | neighbourSolicitation (targetMatches : Bool)
  /-- ICMP_ECHO (R488). An ICMP echo request arrives at the safelight port and is answered. -/
  | icmpEcho (ident seq : Nat) (data : List Byte)
  /-- RECORD_EVENT_ENABLE (R493). The baseboard controller enables or disables record events, which gate the I3C in-band interrupt for each new record. -/
  | recordEventEnable (on : Bool)
  /-- ATTESTATION_SIGNED (R455). The up to 150 ms signing of an attestation ends: the epoch is checked, the output is written and the next waiting ATTEST starts. -/
  | attestationSigned
  /-- OWNER_RECORD_WRITTEN (R442). The flash programming of both owner-record copies by OWNER_SET ends, setting OWNER_PENDING and completing the command. -/
  | ownerRecordWritten (ok0 ok1 : Bool)
  /-- SPILL_READ_COMPLETE (R288). The developers of every die have read a pre-empted block's frames, so the block may be freed at the next boundary, before the ENCODE's last write lands. -/
  | spillReadComplete (w seqIdx : Nat)
  /-- SHARD_REQUEST (R324). A receiver's request for a missing or bad shard reaches the reader, or a module that reports the shard good, which then sends it again. -/
  | shardRequest (w shard fromAddr : Nat)
  /-- CONTROLLER_MEMORY_ERROR (R474). An uncorrectable error in a die controller's instruction memory, data memory or firmware state fences the die. -/
  | controllerMemoryError (d : Nat)
deriving DecidableEq, Repr

end Sys2Proof
end

