-- ==== Sys2Proof/Decode.lean ====
section
/-! DEFINITION. The command that a word of the opcode table spells. The table of this block gives no row
any bits, so no word spells a command; the words of the tile instructions, which chapter 05 does give, are
decoded in Machine/Operands.lean, where the tile sequencer fetches them. -/

namespace Sys2Proof

/-- No row of the opcode table carries bits: no word spells a command. -/
def decodeTableWord (_nbits _w : Nat) : Option Instr := none

end Sys2Proof
end

