-- ==== Sys2Proof/Machine/Tab.lean ====
section
/-! DEFINITION. Operations on sparse tables: a key that is not listed reads as the default value; a write
keeps the keys strictly rising and lists no default value, so equal tables are equal data. -/

namespace Sys2Proof

/-- The value at key `i`, `d` where the key is not listed. -/
def Tab.getD {β : Type} (d : β) : Tab β → Nat → β
  | [], _ => d
  | (k, v) :: r, i => if k = i then v else if i < k then d else Tab.getD d r i

/-- The table with key `i` holding `v`; `d` is the value of an unlisted key. -/
def Tab.setD {β : Type} [DecidableEq β] (d : β) : Tab β → Nat → β → Tab β
  | [], i, v => if v = d then [] else [(i, v)]
  | (k, w) :: r, i, v =>
    if i < k then (if v = d then (k, w) :: r else (i, v) :: (k, w) :: r)
    else if i = k then (if v = d then r.dropWhile (fun e => e.1 ≤ i) else (i, v) :: r)
    else (k, w) :: Tab.setD d r i v

def Tab.get {β : Type} [Inhabited β] (t : Tab β) (i : Nat) : β := Tab.getD default t i

def Tab.set {β : Type} [Inhabited β] [DecidableEq β] (t : Tab β) (i : Nat) (v : β) : Tab β :=
  Tab.setD default t i v

def Tab.modify {β : Type} [Inhabited β] [DecidableEq β] (t : Tab β) (i : Nat) (f : β → β) : Tab β :=
  t.set i (f (t.get i))

/-- The listed keys. -/
def Tab.keys {β : Type} (t : Tab β) : List Nat := t.map (·.1)

/-- Keys strictly rising above `lo` and no entry equal to `d`. -/
def Tab.wfFrom {β : Type} [DecidableEq β] (d : β) : Option Nat → Tab β → Bool
  | _, [] => true
  | lo, (k, v) :: r => (match lo with | none => true | some l => decide (l < k)) && decide (v ≠ d)
      && Tab.wfFrom d (some k) r

/-- The canonical form of a table whose unlisted keys read as `d`. -/
def Tab.wf {β : Type} [DecidableEq β] (d : β) (t : Tab β) : Bool := Tab.wfFrom d none t

end Sys2Proof
end

