-- ==== Sys2Proof/Machine/Fp.lean ====
section
/-! DEFINITION. Exact binary arithmetic: a value is `m * 2 ^ e`; FP32 and BF16 (R45, R46), rounding to
nearest even and stochastic rounding (R102), and the lane generators (R107). -/

namespace Sys2Proof.Machine
open Sys2Proof

/-- An exact value `m * 2 ^ e`. -/
structure Dy where
  m : Int
  e : Int
deriving DecidableEq, Repr, Inhabited

def Dy.zero : Dy := ⟨0, 0⟩

/-- The integer `m * 2 ^ (e - g)` for `g` at most `e`. -/
def Dy.at (x : Dy) (g : Int) : Int := x.m * (2 ^ (x.e - g).toNat : Nat)

def Dy.add (x y : Dy) : Dy :=
  let g := min x.e y.e
  ⟨x.at g + y.at g, g⟩

def Dy.neg (x : Dy) : Dy := ⟨-x.m, x.e⟩

def Dy.sub (x y : Dy) : Dy := x.add y.neg

def Dy.mul (x y : Dy) : Dy := ⟨x.m * y.m, x.e + y.e⟩

def Dy.le (x y : Dy) : Bool :=
  let g := min x.e y.e
  decide (x.at g ≤ y.at g)

def Dy.lt (x y : Dy) : Bool := !(y.le x)

def Dy.abs (x : Dy) : Dy := ⟨x.m.natAbs, x.e⟩

/-- `t / 2 ^ d` rounded half to even. -/
def rneDiv (t : Int) (d : Nat) : Int :=
  let p : Int := (2 ^ d : Nat)
  let q := t / p
  let r := t % p
  if 2 * r < p then q else if p < 2 * r then q + 1 else if q % 2 = 0 then q else q + 1

/-- `floor (t / 2 ^ d + u / 8192)`, exact (R99). -/
def srDiv (t : Int) (d u : Nat) : Int :=
  (t * 8192 + (u * 2 ^ d : Nat)) / (2 ^ d * 8192 : Nat)

/-- R99: round(t, d, u). -/
def roundDiv (rnd : Rnd) (t : Int) (d u : Nat) : Int :=
  match rnd with
  | .rne => rneDiv t d
  | .sr => srDiv t d u

/-- `x` as `t / 2 ^ d` in units of `2 ^ q`. -/
def Dy.inUnits (x : Dy) (q : Int) : Int × Nat :=
  if q ≤ x.e then (x.at q, 0) else (x.m, (q - x.e).toNat)

/-! ### FP32 -/

def f32Poison : W32 := 0x7FC10000
def f32QNan : W32 := 0x7FC00000
def f32Inf (neg : Bool) : W32 := if neg then 0xFF800000 else 0x7F800000
def f32Zero (neg : Bool) : W32 := if neg then 0x80000000 else 0
def f32One : W32 := 0x3F800000

def f32Neg (w : W32) : Bool := w.toNat / 2 ^ 31 = 1
/-- Exponent and fraction bits. -/
def f32Mag (w : W32) : Nat := w.toNat % 2 ^ 31
def f32IsNan (w : W32) : Bool := 0x7F800000 < f32Mag w
def f32IsInf (w : W32) : Bool := f32Mag w = 0x7F800000
def f32Finite (w : W32) : Bool := f32Mag w < 0x7F800000
def f32IsZero (w : W32) : Bool := f32Mag w = 0

/-- The value of a finite FP32 number. -/
def f32Val (w : W32) : Dy :=
  let b := f32Mag w
  let ex := b / 2 ^ 23
  let fr := b % 2 ^ 23
  let a : Nat := if ex = 0 then fr else fr + 2 ^ 23
  let e : Int := (if ex = 0 then 1 else ex : Nat) - (150 : Int)
  ⟨if f32Neg w then -(a : Int) else a, e⟩

/-- The exponent of the unit in the last place of a non-zero value. -/
def f32Lsb (x : Dy) : Int := max ((x.m.natAbs.log2 : Int) + x.e) (-126) - 23

/-- The FP32 number `r * 2 ^ q`, `q` its last-place exponent, with the sign `neg`; infinity at or above
2 ^ 128. -/
def f32Pack (neg : Bool) (r : Nat) (q : Int) : W32 :=
  let bits := if r = 0 then 0 else (q + 149).toNat * 2 ^ 23 + r
  let bits := min bits 0x7F800000
  BitVec.ofNat 32 (bits + (if neg then 2 ^ 31 else 0))

/-- Round to nearest even; an exact zero gives +0; a result that rounds to zero keeps its sign. -/
def f32Rne (x : Dy) : W32 :=
  if x.m = 0 then 0
  else
    let q := f32Lsb x
    let (t, d) := x.inUnits q
    f32Pack (decide (x.m < 0)) (rneDiv t d).natAbs q

/-- Stochastic rounding of R102 with the draw `u`. -/
def f32Sr (x : Dy) (u : Nat) : W32 :=
  if x.m = 0 then 0
  else
    let q := f32Lsb x
    let (t, d) := x.inUnits q
    f32Pack (decide (x.m < 0)) (srDiv t d u).natAbs q

/-- The result of an operation with a NaN among its operands: the poison pattern where one of them holds it, else the
quiet NaN 0x7FC0_0000 (R207). -/
def nanOf (ops : List W32) : W32 := if ops.contains f32Poison then f32Poison else f32QNan

/-- IEEE 754 addition, round to nearest even; poison and NaN as R207 says. -/
def f32Add (a b : W32) : W32 :=
  if f32IsNan a || f32IsNan b then nanOf [a, b]
  else if f32IsInf a then (if f32IsInf b && a != b then f32QNan else a)
  else if f32IsInf b then b
  else
    let s := (f32Val a).add (f32Val b)
    if s.m = 0 then f32Zero (f32Neg a && f32Neg b) else f32Rne s

/-- IEEE 754 multiplication, round to nearest even; poison and NaN as R207 says. -/
def f32Mul (a b : W32) : W32 :=
  let neg := f32Neg a != f32Neg b
  if f32IsNan a || f32IsNan b then nanOf [a, b]
  else if f32IsInf a || f32IsInf b then
    (if f32IsZero a || f32IsZero b then f32QNan else f32Inf neg)
  else
    let p := (f32Val a).mul (f32Val b)
    if p.m = 0 then f32Zero neg else f32Rne p

/-- The number with its sign turned; a NaN as R207 says. -/
def f32Flip (a : W32) : W32 := if f32IsNan a then nanOf [a] else a ^^^ 0x80000000
def f32Abs (a : W32) : W32 := BitVec.ofNat 32 (f32Mag a)

/-- IEEE 754 fused multiply-add, one rounding; poison and NaN as R207 says. -/
def f32Fma (a b c : W32) : W32 :=
  let neg := f32Neg a != f32Neg b
  if f32IsNan a || f32IsNan b || f32IsNan c then nanOf [a, b, c]
  else if f32IsInf a || f32IsInf b then
    if f32IsZero a || f32IsZero b then f32QNan
    else if f32IsInf c && f32Neg c != neg then f32QNan
    else f32Inf neg
  else if f32IsInf c then c
  else
    let p := (f32Val a).mul (f32Val b)
    let s := p.add (f32Val c)
    if s.m = 0 then f32Zero (if p.m = 0 then neg && f32Neg c else false) else f32Rne s

/-- `a / b` rounded to nearest even, IEEE 754. -/
def f32Div (a b : W32) : W32 :=
  let neg := f32Neg a != f32Neg b
  if f32IsNan a || f32IsNan b then nanOf [a, b]
  else if f32IsInf a then (if f32IsInf b then f32QNan else f32Inf neg)
  else if f32IsInf b then f32Zero neg
  else if f32IsZero b then (if f32IsZero a then f32QNan else f32Inf neg)
  else if f32IsZero a then f32Zero neg
  else
    let x := f32Val a
    let y := f32Val b
    -- 200 more quotient bits and a sticky bit decide the rounding
    let n := x.m.natAbs * 2 ^ 200
    let q := n / y.m.natAbs
    let st : Nat := if n % y.m.natAbs = 0 then 0 else 1
    let v : Int := q * 2 + st
    f32Rne ⟨if neg then -v else v, x.e - y.e - 201⟩

/-- Square root rounded to nearest even of a finite number that is not negative. -/
def f32Sqrt (a : W32) : W32 :=
  if f32IsNan a then nanOf [a]
  else if f32IsZero a then a
  else if f32Neg a then f32QNan
  else if f32IsInf a then a
  else
    let x := f32Val a
    -- an even exponent and 2 ^ 80 more bits, with a sticky bit
    let odd : Bool := x.e % 2 != 0
    let m := (if odd then 2 * x.m.natAbs else x.m.natAbs) * 2 ^ 160
    let e := (if odd then x.e - 1 else x.e) - 160
    let r := Nat.sqrt m
    let st : Nat := if r * r = m then 0 else 1
    f32Rne ⟨(r * 2 + st : Nat), e / 2 - 1⟩

/-- Order of two numbers neither of which is NaN: `a < b`; the zeros are equal. -/
def f32Lt (a b : W32) : Bool :=
  let k (w : W32) : Int := if f32Neg w then -(f32Mag w : Int) else f32Mag w
  decide (k a < k b)

/-! ### BF16 (R45, R46) -/

def bf16Poison : W16 := 0x7FC1

def bf16ToF32 (h : W16) : W32 := BitVec.ofNat 32 (h.toNat * 2 ^ 16)

def f32ToBf16 (w : W32) : W16 :=
  if w = f32Poison then bf16Poison
  else if f32IsNan w then
    let h := BitVec.ofNat 16 (w.toNat / 2 ^ 16) ||| 0x0040
    if h = bf16Poison then 0x7FC0 else h
  else BitVec.ofNat 16 ((rneDiv (f32Mag w) 16).toNat + (if f32Neg w then 2 ^ 15 else 0))

/-! ### Lane generators (R107) -/

/-- One step of the Galois register. -/
def genStep (s : W32) : W32 :=
  let r := s >>> 1
  if s.toNat % 2 = 1 then r ^^^ 0x80200003 else r

def genSteps : Nat → W32 → W32
  | 0, s => s
  | n + 1, s => genSteps n (genStep s)

/-- draw(): 13 bits, and the generator after it. -/
def genDraw (s : W32) : Nat × W32 := (s.toNat % 8192, genSteps 13 s)

/-- The state of generator `j`: an unlisted generator holds 1, the state 0 never occurs. -/
def genOf (t : Tab W32) (j : Nat) : W32 :=
  let s := t.get j
  if s = 0 then 1 else s

/-- Generator `j` takes state `s`; the state 1 is stored as no entry. -/
def setGen (t : Tab W32) (j : Nat) (s : W32) : Tab W32 := Tab.set t j (if s = 1 then 0 else s)

/-- One draw from generator `j`. -/
def drawFrom (t : Tab W32) (j : Nat) : Nat × Tab W32 :=
  let (u, s) := genDraw (genOf t j)
  (u, setGen t j s)

/-- R109: the state of lane `j` after a reseed. -/
def laneSeed (seed : W32) (jobbeat j : Nat) : W32 :=
  let s := seed ^^^ BitVec.ofNat 32 jobbeat ^^^ BitVec.ofNat 32 (j * 0x9E3779B9)
  if s = 0 then 1 else s

def reseedAll (seed : W32) (jobbeat : Nat) : Tab W32 :=
  (List.range 256).foldl (fun t j => setGen t j (laneSeed seed jobbeat j)) []

end Sys2Proof.Machine
end

