-- ==== Sys2Proof/Machine/State.lean ====
section
/-! DEFINITION. The state of one LD-2 module as plain data: every register, store, queue, counter and
mode the spec gives it, the outcomes by which a step can stop, and the machine right after reset.
Collections of like units are sparse tables (`Tab`): an index that is not listed holds its type's
default value. -/

namespace Sys2Proof.Machine
open Sys2Proof

/-! ### Tile (chapters 03, 04, 05) -/

/-- STATE of TIL_SEQ_STATE (R162). -/
inductive SeqState where
  | idle | running | atBeat | atWait | stalled | halted | stopped | heldByProof
deriving DecidableEq, Repr, Inhabited

/-- HEALTH of TIL_ARRAY_STATE (R91). -/
inductive Health where
  | normal | degraded | fenced
deriving DecidableEq, Repr, Inhabited

/-- One loop-stack entry (R117). -/
structure LoopEnt where
  start : Nat
  fin : Nat
  k : Nat
deriving DecidableEq, Repr, Inhabited

/-- A latch of the grain array with its exponent store (R65 to R68). Cells outside `rows` and `cols`
are unused; an unlisted cell holds code 0. `noval` lists the cells that hold the pattern 0x80.
`exps` holds grid block (i, j) at 8 i + j for square plates, segment s of column n at 8 n + s for line
plates; an index not listed holds -126. Cell (k, n) has index 256 k + n. -/
structure Latch where
  fmt : Fmt := .b8
  square : Bool := false
  rows : Nat := 256
  cols : Nat := 256
  codes : Tab Int := []
  noval : List Nat := []
  exps : Tab Int := []
deriving DecidableEq, Repr, Inhabited

/-- A LATCH in progress: its fields and the store offsets of the plates it reads (R128). -/
structure LatchJob where
  f : LatchF
  offs : List Nat
deriving DecidableEq, Repr, Inhabited

/-- A running sum (R98); `empty` true makes m and e immaterial. -/
structure RunSum where
  empty : Bool := true
  m : Int := 0
  e : Int := 0
  poison : Bool := false
deriving DecidableEq, Repr, Inhabited

/-- A carry entry (R103). -/
structure Carry where
  well : Nat
  trans : Bool
  p : Nat
  segs : Nat
  rnd : Rnd
  sums : Tab RunSum
deriving DecidableEq, Repr, Inhabited

/-- What the carry entries will be once every issued pass is complete: the view that issue uses. -/
structure CarryPlan where
  well : Nat
  trans : Bool
  p : Nat
  segs : Nat
deriving DecidableEq, Repr, Inhabited

/-- A pass accepted by the pass queue (R131): the latch and its plate offsets and whether it is checked, both set when
its first vector enters the array (R85, R129), the offsets of its skew rows, the wells whose open carry it forces, the
seed and jobbeat its issue reseeded with (R109), and how far it has come (next vector, next check point). -/
structure PassRun where
  f : PassF
  trans : Bool
  latch : Latch
  latchSrc : Option LatchJob
  rows : List Nat
  forced : List Nat
  seed : Option (W32 × Nat) := none
  started : Bool := false
  vec : Nat := 0
  point : Nat := 0
  mismatched : Bool := false
  checked : Bool := false
  beat : W64 := 0
deriving DecidableEq, Repr, Inhabited

/-- One well: 256 FP32 elements and 256 poison bits (R105). -/
structure Well where
  vals : Tab W32 := []
  poison : BitVec 256 := 0
deriving DecidableEq, Repr, Inhabited

/-- Counts that a conversion adds to a statistics site (R57). -/
structure SiteDelta where
  total : Nat := 0
  saturated : Nat := 0
  vanished : Nat := 0
  overridden : Nat := 0
  marked : Nat := 0
  sqerr : List W32 := []
deriving DecidableEq, Repr, Inhabited

/-- A store write in flight: offset, byte; the banks into which it writes poison (R481), and the banks from which the
operation reads. -/
structure Landing where
  cells : List (Nat × Byte) := []
  site : Option Nat := none
  delta : SiteDelta := {}
  poisonAt : List Nat := []
  reads : List Nat := []
deriving DecidableEq, Repr, Inhabited

/-- A proof run (R82 to R84): the failing pass and what the signature buffer holds. -/
structure Proof where
  pass : PassRun
  sig : List (W16 × W16)
  firstPoint : Nat
  started : Bool := false
deriving DecidableEq, Repr, Inhabited

/-- TIL_LAST_PROOF (R94). -/
structure LastProof where
  valid : Bool := false
  verdict : Nat := 0
  point : Nat := 0
  sr : W16 := 0
  sw : W16 := 0
  sm : W16 := 0
deriving DecidableEq, Repr, Inhabited

/-- TIL_SEQ_FAULT (R164). -/
structure SeqFault where
  valid : Bool := false
  cause : Nat := 0
  pc : Nat := 0
  detail : W32 := 0
deriving DecidableEq, Repr, Inhabited

structure Tile where
  pc : Nat := 0
  st : SeqState := .idle
  entry : Nat := 0
  codeEnd : Nat := 0
  a : Tab Addr := []
  k : Tab (BitVec 24) := []
  flags : W16 := 0
  loops : List LoopEnt := []
  fault : SeqFault := {}
  faultBeat : W64 := 0
  stall : W32 := 0
  issued : W32 := 0
  waiting : Option WaitfF := none
  standIn : W16 := 0
  act : Latch := {}
  shd : Latch := {}
  actSrc : Option LatchJob := none
  shdSrc : Option LatchJob := none
  latching : Option LatchJob := none
  lastLatch : Option LatchJob := none
  passes : List PassRun := []
  carries : List Carry := []
  plan : List CarryPlan := []
  wells : Tab Well := []
  board : Tab Nat := []
  gens : Tab W32 := []
  draining : Option (DrainF × Landing) := none
  zeroing : List WzeroF := []
  tags : Tab W16 := []
  clearing : W32 := 0
  tagCnt : W32 := 0
  stats : List Landing := []
  sigs : List (Nat × W16) := []
  seeds : Tab W32 := []
  renorm : W32 := 0
  forcedCnt : W16 := 0
  nonfinite : W16 := 0
  health : Health := .normal
  spare : Bool := false
  remapped : Bool := false
  roleOf : Nat := 0
  proofs : List Proof := []
  held : List Nat := []
  cntBoth : W16 := 0
  cntMain : W16 := 0
  cntWitness : W16 := 0
  cntMismatch : W16 := 0
  skipped : W64 := 0
  last : LastProof := {}
  lastBeat : W64 := 0
  feeds : List Nat := []
  /-- Words of the tile store and of the instruction store with an uncorrectable error (R470), by number. -/
  badWords : List Nat := []
  badCode : List Nat := []
  /-- Wells into which an empty position has streamed: their results are discarded at drain (R186). -/
  skipWells : List Nat := []
  /-- A DRAIN has completed in this beat (R86). -/
  drained : Bool := false
  /-- The LATCH in progress is the re-run that ends a proof run on this tile as partner (R83, step 7). -/
  rerun : Bool := false
  /-- Registers loaded by the last instructions: a counter or an address register, its number, the instructions issued
  since (R156). -/
  loads : List (Bool × Nat × Nat) := []
deriving DecidableEq, Repr, Inhabited

/-! ### Chain engine (chapter 07) -/

/-- A queued chain program: issuing tile (quad-local), descriptor offset, rows (R137). -/
structure ChainProg where
  issuer : Nat
  off : Nat
  rows : Nat
deriving DecidableEq, Repr, Inhabited

/-- A stream record (R201). -/
structure ChainStream where
  tile : Nat := 0
  base : Nat := 0
  bf16 : Bool := false
  lmode : Nat := 0
  rstr : Int := 0
  sstr : Int := 0
deriving DecidableEq, Repr, Inhabited

/-- A stage record (R203). -/
structure ChainStage where
  fn : Nat
  xs : Nat
  ys : Nat
  zs : Nat
  cond : Nat
  sh : Int
  rmode : Nat
  rtf : Nat
  a : W32
  c : W32
deriving DecidableEq, Repr, Inhabited

/-- A decoded chain descriptor (R200 to R203). -/
structure ChainDesc where
  nstr : Nat
  span : Nat
  gl : Nat
  seed : Nat
  streams : List ChainStream
  oTile : Nat
  oBase : Nat
  oKind : Nat
  oRstr : Int
  qTile : Nat
  qBase : Nat
  qTile2 : Nat
  qBase2 : Nat
  stages : List ChainStage
deriving DecidableEq, Repr, Inhabited

/-- The accumulator of one lane group (R209, R210): value, softmax offset, and the marks that make the
result NaN or poison. -/
structure ChainAcc where
  v : W32 := 0
  m : W32 := 0
  nan : Bool := false
  poison : Bool := false
deriving DecidableEq, Repr, Inhabited

/-- The running program. `kept` holds the streams' last values (R199); `buf` the rows that a square-block QNT
has taken so far; `badSpan` that a row of the span failed a check (R220); `results` the words of the spans
that are over, by tile and offset; `clash` the byte ranges that R216 leaves undefined; `noted` the banks
whose poison writes have been noted. -/
structure ChainRun where
  issuer : Nat
  rows : Nat
  desc : ChainDesc
  row : Nat := 0
  kept : List (List W32) := []
  acc : Tab ChainAcc := []
  buf : List (List W32 × Bool) := []
  badSpan : Bool := false
  results : List (Nat × Nat × W32) := []
  clash : List (Nat × Nat × Nat) := []
  noted : List (Nat × Nat) := []
deriving DecidableEq, Repr, Inhabited

structure Quad where
  queue : List ChainProg := []
  run : Option ChainRun := none
  gens : Tab W32 := []
  fenced : Bool := false
  faultValid : Bool := false
  faultCause : Nat := 0
  faultIssuer : Nat := 0
  faultRecord : Nat := 0
  faultDetail : W32 := 0
  residue : W16 := 0
  parity : W16 := 0
  jobBad : W16 := 0
  rowsCnt : W32 := 0
  stallCnt : W32 := 0
deriving DecidableEq, Repr, Inhabited

/-! ### DMA channel (chapter 08) -/

inductive ChanState where
  | idle | running | stopped | squashed
deriving DecidableEq, Repr, Inhabited

/-- A shape record (R233): strides and counts of dimensions 0 to 4. -/
structure Shape where
  strs : List Int := [0, 0, 0, 0, 0]
  cnts : List Nat := [1, 1, 1, 1, 1]
deriving DecidableEq, Repr, Inhabited

/-- A fetched descriptor with its shape records (R231). -/
structure Desc where
  words : List W64
  sshape : Shape
  dshape : Shape
  dense : Bool
deriving DecidableEq, Repr, Inhabited

structure Chan where
  st : ChanState := .idle
  heldLo : W32 := 0
  heldHi : W32 := 0
  status : Byte := 0
  cause : Byte := 0
  remain : W16 := 0
  lost : Bool := false
  irqPend : Bool := false
  kicked : Bool := false
  kicker : Option Nat := none
  next : Addr := 0
  cur : Addr := 0
  faultVa : Addr := 0
  irqEn : Bool := false
  vec : BitVec 11 := 0
  confined : W16 := 0
  squashCnt : W16 := 0
  done : W32 := 0
  gen : W32 := 1
  desc : Option Desc := none
  pos : Nat := 0
  squashing : Option St := none
  /-- Blocks of the descriptor in progress that a snapshot has already counted (R62). -/
  counted : Nat := 0
deriving DecidableEq, Repr, Inhabited

/-! ### Developer (chapter 09) -/

/-- Whom a developer operation serves. -/
inductive DevFor where
  | prefetch (id : Nat)
  | load (c : Nat)
  | build (c : Nat)
  | spill (seqIdx ord : Nat)
  | restore (seqIdx ord : Nat)
  | swapOut (c part : Nat)
  | swapIn (c part : Nat)
deriving DecidableEq, Repr, Inhabited

inductive DevKind where
  | develop | quant | move | encode
deriving DecidableEq, Repr, Inhabited

/-- A developer operation: its input and output addresses, the units it handles (all of them for
DEVELOP, which reads the count from the negative), the destination shape, the conversion control word,
the table set, the plate kind and format of ENCODE, and its context. -/
structure DevOp where
  kind : DevKind
  src : Addr
  dst : Addr
  shp : Option Shape := none
  cw : W16 := 0
  tbl : Nat := 0
  units : Nat := 0
  pkind : Nat := 0
  pfmt : Nat := 2
  bf16 : Bool := false
  ctx : Nat := 0
  ward : Nat := 0
  use : DevFor
  /-- Chunks that hold the source, or take the output; `src`, `dst` are then byte offsets into them. -/
  srcChunks : List Nat := []
  dstChunks : List Nat := []
  /-- The source lies in the spill area, not in the hot cache. -/
  spillSrc : Bool := false
  /-- DEVELOP writes only the units from image offset `skip` on (R307). -/
  skip : Nat := 0
  /-- The output is a skewed run (R277). -/
  skew : Bool := false
  /-- The working image that a publication copies (R343). -/
  half : Nat := 0
deriving DecidableEq, Repr, Inhabited

/-- How a finished developer operation ended (R278); whether an access of it got no data (R260, R285), and whether it read
poison (R480). -/
structure DevEnd where
  status : St := .ok
  cause : Nat := 0
  frame : Nat := 0
  lost : Bool := false
  poison : Bool := false
deriving DecidableEq, Repr, Inhabited

structure Dev where
  queue : List DevOp := []
  /-- RAW copies of the prefetch schedule, which the tier manager makes and not the developer (R280). -/
  copies : List DevOp := []
  ended : Option DevEnd := none
  /-- Blocks of the first operation that a snapshot has already counted (R62). -/
  counted : Nat := 0
  gen : W32 := 1
  faultValid : Bool := false
  faultStatus : Byte := 0
  faultCause : Byte := 0
  faultCtx : W16 := 0
  faultFrame : W16 := 0
  fails : W16 := 0
  outBytes : Nat := 0
deriving DecidableEq, Repr, Inhabited

/-! ### Update engine (chapter 11) -/

inductive UpdWork where
  | idle | acc | pass1 | pass2 | ckpt | restore | rehash | image
deriving DecidableEq, Repr, Inhabited

/-- The per-die part of the update engine (R363) and the step registers of the ward's lowest die
(R364, R366). -/
structure Upd where
  work : UpdWork := .idle
  ctx : Nat := 0
  /-- Blocks of the image writes of pass two in progress that a snapshot has already counted (R62). -/
  counted : Nat := 0
  slices : W32 := 0
  updated : Nat := 0
  armTmo : W32 := 0
  stepLr : W32 := 0
  stepLo : W32 := 0
  refused : Bool := false
  err : Nat := 0
  peekCtx : W16 := 0
  peek : List Byte := []
deriving DecidableEq, Repr, Inhabited

inductive StepState where
  | off | accum | armed | reduce | pass1 | pass2 | commit | rollback | runHeld | faulted
deriving DecidableEq, Repr, Inhabited

/-- The scalars of a step in progress (R341, R345, R350, R351). -/
structure StepScal where
  lr : W32 := 0
  norm : W32 := 0
  cf : W32 := 0x3F800000
  loss : W32 := 0
  sMin : W32 := 0x3F800000
  damped : Nat := 0
  fallback : Nat := 0
  firstFb : W32 := 0xFFFFFFFF
  badGroup : Nat := 0xFF
  badTensor : W32 := 0
  badElem : W32 := 0
  published : Bool := false
  digest : Bool := false
  ckpt : Bool := false
  /-- Pass-one results per tensor: row sums, column sums, Gram matrix (R347, R348). -/
  rs : Tab (List W32) := []
  cs : Tab (List W32) := []
  gram : Tab (List W32) := []
deriving DecidableEq, Repr, Inhabited

/-- One negative of a spill or a swap: the die, the block's ordinal or the part, where it begins in the chunks, its length. -/
structure SpillNeg where
  die : Nat
  ord : Nat
  at' : Nat
  len : Nat
deriving DecidableEq, Repr, Inhabited

/-- A training context (R328, R339, R352 to R358, R366). -/
structure Train where
  record : TrainRec := {}
  st : StepState := .off
  sh : Bool := false
  stepDone : Nat := 0
  lastSt : Byte := 0
  posted : Option (Nat × W32) := none
  k0Step : Nat := 0
  k1Step : Nat := 0
  k0Ver : Bool := false
  k1Ver : Bool := false
  k0Valid : Bool := false
  k1Valid : Bool := false
  armBeat : W64 := 0
  lastDies : List Nat := []
  votes1 : List VoteIn := []
  votes2 : List VoteIn := []
  /-- Reports of pass two of the modules of this replica, at the lowest of them. -/
  own2 : List VoteIn := []
  passed1 : Bool := false
  passed2 : Bool := false
  /-- Bytes of each chunk of the reduction in progress that have arrived, by die, chunk and operation (R337). -/
  redGot : Tab Nat := []
  scal : StepScal := {}
  /-- Site counts taken at the last arming, per group: saturated, vanished, total (R350). -/
  steer : Tab (Nat × Nat × Nat) := []
  digests : List DigestIn := []
  /-- Rounds that are held and not decided, oldest first (R352). -/
  pendRounds : List Nat := []
  lastUnan : Option Nat := none
  starting : Bool := false
  /-- A position of the current step has been placed. -/
  begun : Bool := false
  rehash : Bool := false
  /-- The step whose round is run again after a rollback (R353, R354). -/
  repeatStep : Option Nat := none
  /-- The digests of the step that pass two has written, as streamed (R342). -/
  streamed : Option DigestIn := none
  /-- The state lies in the host tier (R358): H(SH) and the newest verified checkpoint, per die. -/
  swapped : Bool := false
  /-- The negatives of a swap in the spill area: chunks, bytes used, where each lies, operations that still run, and
  whether one failed. -/
  swapChunks : List Nat := []
  swapPtr : Nat := 0
  swapNegs : List SpillNeg := []
  swapWait : Nat := 0
  swapFail : Option St := none
  /-- A checkpoint copy: slot, half, step (R355). -/
  copying : Option (Nat × Nat × Nat) := none
  rollbackDue : Option Byte := none
  /-- RUN_HELD follows the rollback. -/
  runHold : Bool := false
  abandonDue : Option St := none
  stopping : Bool := false
  stops : List Nat := []
  peerGot : List Nat := []
  /-- Copies that failed their check, per die. -/
  peerTries : Tab Nat := []
  peerMode : Bool := false
  /-- Replicas that hold the target checkpoint of a held run (R357). -/
  holders : List Nat := []
  kept : Tab (Nat × Nat × Nat) := []
  startJseq : Option Nat := none
deriving DecidableEq, Repr, Inhabited

/-! ### Links and domains (chapter 12) -/

inductive LinkState where
  | untrained | up | retraining | down | missing
deriving DecidableEq, Repr, Inhabited

structure Link where
  st : LinkState := .untrained
  lat : W16 := 0
  peerAddr : Nat := 0
  peerLink : Nat := 0
  peerId : BitVec 256 := 0
  two : Bool := false
  session : Nat := 0
  rxCount : Nat := 0
  txCount : Nat := 0
  rxNext : Nat := 0
  txNext : Nat := 0
  nakDue : Bool := false
  retry : List (Flit × List Byte) := []
  /-- Flits that wait for a credit, for room in the retry buffer, or for the link. -/
  txq : List (Flit × List Byte) := []
  /-- Flits of the reduce and bulk channels sent so far, for the weights of LNK_ARB. -/
  turn : Nat := 0
  credits : List Nat := [32, 320, 128, 32]
  owed : List Nat := [0, 0, 0, 0]
  replays : Nat := 0
  replaySeq : Nat := 0
  tries : Nat := 0
  corrected : W32 := 0
  crc : W16 := 0
  retrains : Byte := 0
  epoch : W16 := 0
  noward : W16 := 0
  auth : W16 := 0
  badaddr : W16 := 0
  rxXfer : Tab (Addr × Nat) := []
  cmdJseq : Option Nat := none
  /-- Removed from every route entry by a stop marker (R520). -/
  stopped : Bool := false
deriving DecidableEq, Repr, Inhabited

/-- A multicast tree (R393). -/
structure Tree where
  loc : Bool := false
  ports : BitVec 48 := 0
  busy : Bool := false
deriving DecidableEq, Repr, Inhabited

/-- A takeover in progress, at the coordinator and at every module (R395, R396). -/
structure Takeover where
  m : Nat
  s : Nat
  coord : Bool
  acks : List Nat := []
  jseq : Option Nat := none
deriving DecidableEq, Repr, Inhabited

/-- A transfer of the bulk or reduce channel under way through this module, and the link it leaves on (R371). -/
structure XferPath where
  src : Nat
  xid : Nat
  dst : Nat
  port : Nat
deriving DecidableEq, Repr, Inhabited

/-- A peer-tier read that waits for its data (R285): the requester's channel, the address read in the ward and at
the peer, its length, and the bytes that have arrived. -/
structure PeerRead where
  xid : Nat
  chan : Nat
  va : Nat
  peer : Nat
  pva : Nat
  len : Nat
  got : Nat := 0
deriving DecidableEq, Repr, Inhabited

/-- A transfer held for an address under takeover (R396). -/
structure HeldXfer where
  addr : Nat
  flit : Flit
  payload : List Byte
  own : Option Nat := none
deriving DecidableEq, Repr, Inhabited

/-! ### HBM, statistics -/

inductive TagKind where
  | plain | poison | fresh
deriving DecidableEq, Repr, Inhabited

/-- The integrity tag of a sector (R448, R449, R477): its kind and the identity of the key it was made
under. Identity 0 is the mark of a sector that nothing has written since module reset. -/
structure SecTag where
  kind : TagKind := .plain
  key : Nat := 0
deriving DecidableEq, Repr, Inhabited

structure Hbm where
  corrected : BitVec 24 := 0
  uncorr : W16 := 0
  tag : BitVec 7 := 0
  overflow : Bool := false
  list : List Nat := []
deriving DecidableEq, Repr, Inhabited

/-- A statistics site (R57). -/
structure Site where
  total : W64 := 0
  saturated : W64 := 0
  vanished : W64 := 0
  overridden : W64 := 0
  marked : W64 := 0
  sqerr : W32 := 0
deriving DecidableEq, Repr, Inhabited

/-! ### Ward (chapters 06, 10, 13) -/

inductive WardState where
  | disabled | placing | idle | running | shutting | enablePending | resetting
deriving DecidableEq, Repr, Inhabited

/-- HOT and RES of a registry entry (R300). -/
inductive Hot where
  | cold | loading | hot
deriving DecidableEq, Repr, Inhabited

inductive Res where
  | out | resident | inward | outward
deriving DecidableEq, Repr, Inhabited

inductive RegState where
  | free | registered | withdrawing | forced
deriving DecidableEq, Repr, Inhabited

/-- A registry entry (R300), with what the die controllers keep beside it: the copies' image length in
chunks, the open commands, and the build in progress. -/
structure RegEnt where
  st : RegState := .free
  hot : Hot := .cold
  res : Res := .out
  train : Bool := false
  nxt : Bool := false
  nxtReady : Bool := false
  swArmed : Bool := false
  swWait : Bool := false
  kslot : Nat := 0
  rslot : Nat := 0
  xcount : Nat := 0
  gen : W16 := 0
  pins : Nat := 0
  oldmb : Nat := 0
  negVa : Addr := 0
  negLen : Nat := 0
  copy0 : Addr := 0
  copy1 : Addr := 0
  lastUse : W64 := 0
  blocked : W64 := 0
  rank : Nat := 0
  mats : W16 := 0
  image : Nat := 0
  nxtSrc : Addr := 0
  nxtWaits : Bool := false
  /-- The second copy is a publication of this image half (R343). -/
  pub : Option Nat := none
  withdraws : List Nat := []
  prepareJseq : Option Nat := none
  chunks0 : List Nat := []
  chunks1 : List Nat := []
  loaded : Bool := false
deriving DecidableEq, Repr, Inhabited

inductive SqState where
  | free | queued | running | preempted | restoring
deriving DecidableEq, Repr, Inhabited

/-- A sequence-table entry (R309), with the ring and journal number of its SUBMIT, the prompt length,
the mark to end, what a spill or restore still waits for, whether it holds a vector position (`placed`) and
computes in the group's current token step (`inStep`), and its spill chunks with what they hold. -/
structure Sq where
  st : SqState := .free
  lastSt : Byte := 0
  ctx : Nat := 0
  bg : Nat := 0
  pos : Nat := 0
  vec : Nat := 0
  defer : Bool := false
  endc : Nat := 0
  maxtok : W32 := 0
  tokens : W32 := 0
  bcnt : Nat := 0
  first : Nat := 0xFFFFFF
  submit : W64 := 0
  start : W64 := 0
  started : Bool := false
  spill : Addr := 0
  cookie : W64 := 0
  out : Addr := 0
  job : List Byte := []
  prompt : Nat := 0
  mark : Option (St × Nat) := none
  ring : Nat := 0
  jseq : Nat := 0
  spilling : Nat := 0
  spillFail : Bool := false
  restoreWait : Nat := 0
  restored : Bool := false
  placed : Bool := false
  inStep : Bool := false
  chunks : List Nat := []
  spillPtr : Nat := 0
  negs : List SpillNeg := []
deriving DecidableEq, Repr, Inhabited

/-- A block-map entry (R286). STATE 0 free, 1 in use, 2 spilling, 3 restoring. -/
structure Blk where
  st : Nat := 0
  seqIdx : Nat := 0
  ord : Nat := 0
  next : Nat := 0xFFFFFF
  read : Bool := false
  /-- The context that owns the block (R287). -/
  ctx : Nat := 0
deriving DecidableEq, Repr, Inhabited

/-- A context-table entry (R311). -/
structure CtxEnt where
  ctx : Nat := 0
  gen : W16 := 0
  bgen : W16 := 0
  vecs : Nat := 0
  /-- Contents lost to poison, to a lower tier or to a fence: the results are discarded. -/
  lost : Bool := false
deriving DecidableEq, Repr, Inhabited

/-- A prefetch entry (R280) as read at job start. -/
structure PfEnt where
  due : Nat
  lead : Nat
  op : Nat
  smode : Nat
  pos : Nat
  die : Nat
  cw : W16
  src : Addr
  tbl : Nat
  dst : Addr
  dshp : Addr
deriving DecidableEq, Repr, Inhabited

/-- A prefetch entry in flight: its array index, context, beat group, the beat whose closing it holds,
and the operations it still waits for, which carry its number; `due` is the beat at whose start the output is to be there. -/
structure PfRun where
  id : Nat := 0
  idx : Nat
  ctx : Nat
  pos : Nat
  bg : Nat
  closes : W64
  waits : Nat
  smode : Nat
  due : W64 := 0
deriving DecidableEq, Repr, Inhabited

/-- An update-table entry (R335). -/
structure SliceEnt where
  phase : Nat
  pos : Nat
  tile : Nat
  last : Bool
  rows : Nat
  tensor : Nat
  elem : Nat
  off : Nat
deriving DecidableEq, Repr, Inhabited

/-- A shard's state at this module (R324). -/
inductive ShardState where
  | waiting | good | bad
deriving DecidableEq, Repr, Inhabited

/-- A DISTRIBUTE in progress. -/
structure Dist where
  target : Nat
  package : Addr
  alt : Addr
  shards : List Shard
  st : Tab ShardState
  tries : Tab Nat
  reader : Bool
  jseq : Nat
  /-- Receivers that have not reported, and the multicast trees in use (R393). -/
  waits : Nat := 0
  trees : List Nat := []
  /-- The old copy of the last switch is still held: the build has not started (R319). -/
  held : Bool := false
  /-- Requests that the reader has had, by shard and module; and whether it reads through the second port. -/
  asked : Tab Nat := []
  onAlt : Bool := false
  /-- The manifest, and the port and function whose host memory holds the package. -/
  manifest : List Byte := []
  port : Nat := 0
  func : Nat := 0
deriving DecidableEq, Repr, Inhabited

/-- The unit last to finish (R195). -/
structure LastHold where
  steps : W16 := 0
  unit : Nat := 0
  die : Nat := 0
  idx : Nat := 0
  beatLo : W32 := 0
deriving DecidableEq, Repr, Inhabited

/-- The job a ward runs. -/
structure Job where
  prog : JobProg
  program : Addr
  len : Nat
  jseq : Nat
  ring : Nat
  tag : W64 := 0
  firstBeat : W64 := 0
  began : Bool := false
  ending : Bool := false
  ends : List Nat := []
  forced : Bool := false
  fault : Option St := none
  remaps : Tab Nat := []
  sparesFree : List Nat := []
  schedule : List PfEnt := []
  slices : Tab (List SliceEnt) := []
  pending : List PfRun := []
  pfNext : Nat := 0
deriving DecidableEq, Repr, Inhabited

/-- A flit of the next beat that waits in the receive buffer of its link (R183): its transfer header, and COPY of a REDUCE. -/
structure EarlyFlit where
  link : Nat
  flit : Flit
  hdr : Option (Addr × Nat)
  copy : Bool
  payload : List Byte
deriving DecidableEq, Repr, Inhabited

/-- Multi-module beat state (R181): the READYs held by the master, the
verdict received and not yet applied. -/
structure MultiBeat where
  readySent : Bool := false
  ready : List Nat := []
  verdict : Option (Bool × W64) := none
  cmds : List (Nat × Nat) := []
  /-- Commands that the verdict names, applied at the boundary that begins (R389). -/
  due : List (Nat × Nat) := []
  lostMark : Bool := false
  rollHeld : Bool := false
  /-- A takeover or a stop marker ends the job at the next step point (R398, R520). -/
  dead : Bool := false
  modules : List Nat := []
  /-- The unit that had not finished at S_k − C: die, class, index (R178, R195). -/
  late : Option (Nat × Nat × Nat) := none
  early : List EarlyFlit := []
deriving DecidableEq, Repr, Inhabited

/-- One context's accounting entry (R432). -/
structure Acct where
  tileCy : Nat := 0
  chainCy : Nat := 0
  updCy : Nat := 0
  stackRd : Nat := 0
  stackWr : Nat := 0
  peerRd : Nat := 0
  peerWr : Nat := 0
  hostRd : Nat := 0
  hostWr : Nat := 0
  energyMj : Nat := 0
  /-- The part of a millijoule carried to the next second: `fnum / (fdec + 1)`. -/
  fnum : Nat := 0
  fdec : Nat := 0
  tick : Nat := 0
  flush : Nat := 0
deriving DecidableEq, Repr, Inhabited

/-- A command on a job that spans modules, held until the boundary whose marker names it (R389): the module that
accepted it, its number there, its number here; or one that only keeps its place in journal order behind such a command
(R39): `waits`. -/
structure HeldOp where
  origin : Nat
  oseq : Nat
  jseq : Nat
  force : Bool
  op : HostOp
  waits : Bool := false
  wait : Bool := false
  port : Nat := 0
  func : Nat := 0
deriving DecidableEq, Repr, Inhabited

/-- A WARD_ENABLE that waits (R412, R413). -/
structure OpenEnable where
  dies : Nat
  port : Nat
  vf : Nat
  wait : Bool
  jseq : Nat
deriving DecidableEq, Repr, Inhabited

structure Ward where
  st : WardState := .disabled
  port : Nat := 0
  vf : Nat := 0
  dies : Byte := 0
  busySd : W16 := 0
  lastJobSt : Byte := 0
  /-- Software registers of the ward block (RW, RWL), by ward-block offset, whole words. -/
  regs : Tab W64 := []
  enable : Option OpenEnable := none
  disables : List Nat := []
  resetJseq : Option Nat := none
  scrubDue : Bool := false
  -- beat (R189 to R196)
  num : W64 := 0
  jobBeat : Nat := 0
  holdSteps : Nat := 0
  closed : Bool := false
  holding : Bool := false
  heldBeats : W32 := 0
  heldSteps : W32 := 0
  lastHold : LastHold := {}
  skewLate : Bool := false
  markerLost : Bool := false
  overrun : Bool := false
  masterId : Nat := 0
  master : Bool := false
  multi : Bool := false
  period : W32 := 0
  closeMin : Nat := 0
  newLen : Option (BitVec 13) := none
  mb : MultiBeat := {}
  job : Option Job := none
  heldOps : List HeldOp := []
  -- statistics snapshot (R59 to R63)
  statFailed : Bool := false
  statClear : Bool := false
  statSnap : Bool := false
  /-- The snapshot in progress zeroed the accumulators. -/
  statZeroed : Bool := false
  statBeat : W64 := 0
  snap : Option (W64 × Tab Site) := none
  /-- The accumulators as they would stand without the zeroing of the snapshot in progress (R63). -/
  statKept : Tab Site := []
  -- translation (R248, R270)
  l1 : Tab W64 := []
  l2 : Tab W64 := []
  xlatMiss : W32 := 0
  xlatFaults : W16 := 0
  -- adapters and sequences
  registry : Tab RegEnt := []
  seqs : Tab Sq := []
  ctxTab : Tab CtxEnt := []
  blocks : Tab Blk := []
  hotOwner : Tab Nat := []
  spillOwner : Tab Nat := []
  /-- Owners of the extra-expert slots (R302): 0 where the layer has none, else the owner plus 1. -/
  xclaim : Tab Nat := []
  rslots : Tab RankSlot := []
  baseState : Nat := 0
  baseArmed : Bool := false
  baseGen : W16 := 0
  baseOld : Nat := 0
  basePrepJseq : Option Nat := none
  dist : Option Dist := none
  poolLow : Nat := 0
  poolFree : Nat := 0
  evDeferred : W16 := 0
  evNoAdm : W16 := 0
  evEnded : W32 := 0
  loads : W16 := 0
  evicts : W16 := 0
  swapIns : W16 := 0
  swapOuts : W16 := 0
  distRetries : W16 := 0
  distPeer : W16 := 0
  distPort : W16 := 0
  distFailed : W16 := 0
  tieLate : W16 := 0
  tieFail : W16 := 0
  tieSkew : W16 := 0
  tieSpills : W16 := 0
  peekIdx : Nat := 0
  peekSeq : List Byte := []
  -- training
  trains : Tab Train := []
  rounds : W16 := 0
  split : W16 := 0
  rollbacks : W16 := 0
  recheck : Byte := 0
  replSwap : Bool := false
  modsFenced : Byte := 0
  -- accounting, function-level reset, keys, patrol
  acct : Tab Acct := []
  acctTile : W64 := 0
  acctChain : W64 := 0
  acctEnergy : W64 := 0
  flrs : W16 := 0
  flrDev : Byte := 0
  flrDma : W16 := 0
  flrDrained : W16 := 0
  keySlot : Nat := 0
  jobDigest : BitVec 256 := 0
  patPasses : W32 := 0
  patCorrected : W16 := 0
  patPoisoned : Byte := 0
  patLate : Bool := false
  patBusy : Bool := false
  patNext : Nat := 0
  patDue : Bool := false
  resetStatus : Byte := 0
  -- positions lost in this beat (R86, R283, R482): context, beat group, position where only one is lost, status
  lostPos : List (Nat × Nat × Option Nat × St) := []
  /-- A die controller has met an uncorrectable error in the ward's control structures: the ward is to be reset (R480). -/
  structBad : Bool := false
  /-- Positions that stream as empty while the group stays in the stage (R283): stage, beat group, position, from which beat. -/
  emptyPos : List (Nat × Nat × Nat × W64) := []
deriving DecidableEq, Repr, Inhabited

/-! ### Host functions (chapter 13) -/

/-- A completion record (R427). -/
structure Cpl where
  tag : W64
  jseq : Nat
  beat : W64
  status : Byte
  kind : Nat
  detail : W32
deriving DecidableEq, Repr, Inhabited

structure Ring where
  sqBase : W64 := 0
  cqBase : W64 := 0
  en : Bool := false
  sqLog : Nat := 6
  cqLog : Nat := 6
  vec : BitVec 11 := 0
  sqTail : W16 := 0
  cqHead : W16 := 0
  sqHead : W16 := 0
  cqTail : W16 := 0
  phase : Bool := true
  lost : Byte := 0
  err : Nat := 0
  st : Nat := 0
  unposted : List Cpl := []
deriving DecidableEq, Repr, Inhabited

/-- A function: Bus Master Enable, MSI-X masks and pending bits by vector, the other words of its MSI-X table (address and
data of each vector, by word of the table), and whether it is in a function-level reset. Every vector is masked after
reset: `unmasked` lists the others. -/
structure Func where
  bme : Bool := false
  unmasked : List Nat := []
  pend : List Nat := []
  vtab : Tab W32 := []
  inFlr : Bool := false
deriving DecidableEq, Repr, Inhabited

/-- A PCIe port: link state, and whether its PERST# is held. -/
structure Port where
  up : Bool := false
  rate : Nat := 0
  width : Nat := 0
  perst : Bool := false
  detect : Bool := true
  streams : List Nat := []
deriving DecidableEq, Repr, Inhabited

/-- A journal record (R434). `done` 0 pending, 1 done, 2 relayed. -/
structure JRec where
  seq : Nat := 0
  beat : W64 := 0
  digest : BitVec 128 := 0
  port : Nat := 0
  func : Nat := 0
  ring : Nat := 0xFF
  ward : Nat := 0xFF
  opc : Byte := 0
  status : Byte := 0
  st : Nat := 0
  tag : W64 := 0
  doneBeat : W64 := 0
  origin : W64 := 0
deriving DecidableEq, Repr, Inhabited

/-! ### Keys (chapter 14) -/

inductive SlotState where
  | free | live | quarantine | ward | modul
deriving DecidableEq, Repr, Inhabited

/-- A key slot (R445). `key` is the identity of its 512-bit key, 0 when zeroed. `waits` and `mayFree`
belong to a KEY_RETIRE in progress. -/
structure Slot where
  st : SlotState := .free
  ward : Nat := 0
  epoch : W32 := 0
  members : List Nat := []
  key : Nat := 0
deriving DecidableEq, Repr, Inhabited

/-- A KEY_RETIRE that has not completed (R462). -/
structure Retire where
  slot : Nat
  ward : Nat
  members : List Nat
  jseq : Nat
  boundaryDone : Bool := false
deriving DecidableEq, Repr, Inhabited

/-- An ATTEST that waits or is being signed (R455). -/
structure Att where
  ward : Nat
  ctx : Nat
  slot : Nat
  epoch : W32
  nonce : BitVec 256
  out : Addr
  jseq : Nat
deriving DecidableEq, Repr, Inhabited

/-! ### Faults and the safelight port (chapter 15) -/

/-- A full fault record (R485). -/
structure FRec where
  seq : Nat := 0
  stamp : W64 := 0
  cycle : W32 := 0
  cls : Nat := 0
  scope : Nat := 0
  status : Byte := 0
  ward : Nat := 0xFF
  ctx : Nat := 0
  unit : Nat := 0
  die : Nat := 0
  idx : Nat := 0
  src : Nat := 3
  tsrc : Bool := false
  cause : Nat := 0
  logical : Nat := 0
  akind : Nat := 0
  op : W32 := 0
  addr : W64 := 0
  detail : BitVec 128 := 0
  tick : Nat := 0
  temp : W16 := 0
  vin : W16 := 0
  vcore : W16 := 0
  jseq : Nat := 0
deriving DecidableEq, Repr, Inhabited

/-- What the module sends to the outside. -/
inductive Output where
  | msix (port func vec : Nat)
  /-- A record datagram: its flags, RING_FROM and SEQ numbers, and the bytes that leave (R489). -/
  | records (flags : Byte) (ringFrom : Nat) (recs : List Nat) (bytes : List Byte)
  | flit (link : Nat) (f : Flit) (payload : List Byte)
  | marker (addr kind ward : Nat) (beat : W64) (cmds : List (Nat × Nat))
  | relay (addr jseq : Nat) (bytes : List Byte)
  | relayDone (addr jseq : Nat) (status : Byte) (detail : W32)
  | tko (addr m s tg : Nat)
  | tkoAck (addr tg : Nat)
  | tkoDone (addr m tg : Nat)
  | rollcall (addr : Nat) (r : RollRec)
  | vote (c : Nat) (v : VoteIn)
  | digest (c : Nat) (x : DigestIn)
  | part (c : Nat) (x : PartIn)
  | shardReq (addr shard : Nat)
  | shardSend (shard : Nat) (dest : W64)
  | arpReply | naReply | echoReply (ident seq : Nat) (data : List Byte)
  | i3cIbi (seq : Nat)
  | mctpEid (eid : Byte)
  | mctpTypes (types : List Nat)
  | pldm (sensor : Nat) (v : Int)
  /-- A PLDM event message for a record of class 0x10 or 0x11 (R493). -/
  | pldmEvent (seq : Nat)
  /-- Compact records: their SEQ numbers and bytes (R487). -/
  | compact (recs : List Nat) (bytes : List Byte)
  | status (health safe sec : W64)
  | abort (port : Nat)
  /-- An event of a die controller with its timestamp: beat number or module tick, and the cycle within it (R37, R38). -/
  | event (die what arg : Nat) (status : Byte) (beat : W64) (cycle : W32)
deriving DecidableEq, Repr, Inhabited

/-- A compact record held until it is acknowledged (R490). -/
structure Compact where
  seq : Nat
  sent : Bool := false
  /-- The 32 bytes of the record (R487). -/
  bytes : List Byte := []
deriving DecidableEq, Repr, Inhabited

structure Saf where
  eid : Byte := 0
  da : BitVec 7 := 0
  fallback : Bool := false
  reachable : Bool := false
  pcsUp : Bool := false
  image : Bool := false
  aliveMs : W16 := 0x0BB8
  ringAlways : Bool := false
  mirrorAEn : Bool := false
  mirrorBEn : Bool := false
  mirrorA : W64 := 0
  mirrorB : W64 := 0
  seqNext : Nat := 1
  acked : W64 := 0
  resent : W16 := 0
  discarded : W16 := 0
  mirrorFail : W16 := 0
  notes : W16 := 0
  ringIdx : W64 := 0
  ringData : List Byte := []
  unacked : List Compact := []
  discardedFrom : Bool := false
  recEvents : Bool := false
deriving DecidableEq, Repr, Inhabited

/-! ### Boot, clocks, supply (chapter 16) -/

/-- Whether the module serves: off before power-on, up, in the boot-failed state, in an ordered stop's
end state, halted (R476), or held in reset by RESET_N. -/
inductive Life where
  | off | up | bootFailed | stopping | halted | reset
deriving DecidableEq, Repr, Inhabited

/-- An episode of slowed clock or clamping (R523). -/
structure Episode where
  on : Bool := false
  nmin : Nat := 64
  sensor : Nat := 0xFF
  vin : Nat := 0
  tmax : Int := 0
  us : Nat := 0
deriving DecidableEq, Repr, Inhabited

structure Pwr where
  samples : List Nat := []
  vin : Nat := 0
  pin : Nat := 0
  stopping : Bool := false
  timer : Bool := false
  clamp : Bool := false
  nSupply : Nat := 64
  nPower : Nat := 64
  nThermal : Nat := 64
  nmax : Nat := 64
  n : Nat := 16
  slowMs : W32 := 0
  changes : W32 := 0
  peakW : Nat := 0
  designW : Nat := 0
  dieW : Tab Nat := []
  energyMj : W64 := 0
  sagCnt : W16 := 0
  powerCnt : W16 := 0
  thermalCnt : W16 := 0
  clampCnt : W16 := 0
  temps : Tab Int := []
  tj : Nat := 0
  outT : Nat := 0
  epSupply : Episode := {}
  epPower : Episode := {}
  epThermal : Episode := {}
  epClamp : Episode := {}
deriving DecidableEq, Repr, Inhabited

structure Boot where
  stage : Nat := 0
  item : Byte := 0
  reason : Byte := 0
  index : W16 := 0
  slow : Bool := false
  c4 : Bool := false
  fwCopy : Bool := false
  cfgCopy : Bool := false
  ownCopy : Bool := false
  failCopy : Nat := 0
deriving DecidableEq, Repr, Inhabited

inductive FlashState where
  | idle | busy | done | refused | failed
deriving DecidableEq, Repr, Inhabited

/-- Flash: the write registers (R525), the write in progress, and which copies pass their check (two of
identity, owner record, configuration, firmware; `true` is a copy that passes). -/
structure Flash where
  src : W64 := 0
  ctlLo : W32 := 0
  ctlHi : W32 := 0
  st : FlashState := .idle
  reason : Byte := 0
  target : Option (Nat × Bool) := none
  copies : Tab Bool := []
  /-- OWNER_SETs whose record is being written, in order: journal number and security version. -/
  ownerSets : List (Nat × Nat) := []
deriving DecidableEq, Repr, Inhabited

structure Sec where
  owner : Bool := false
  ownerPending : Bool := false
  akReady : Bool := false
  pufOk : Bool := false
  bootVerified : Bool := false
  fwDigest : BitVec 256 := 0
  cfgDigest : BitVec 256 := 0
  ownerId : BitVec 256 := 0
  deviceId : BitVec 256 := 0
  ownerVer : Nat := 0
  refused : W16 := 0
  integrity : W16 := 0
  retires : W16 := 0
  attests : W16 := 0
  peekIdx : W16 := 0
  peekData : W64 := 0
  peekMem : W64 := 0
deriving DecidableEq, Repr, Inhabited

/-- A command relayed from here (R389): where its completion goes. -/
structure RelayOut where
  jseq : Nat
  dest : Nat
deriving DecidableEq, Repr, Inhabited

/-- A command that completes later: the ring and TAG of its completion, by journal number. -/
structure OpenCmd where
  ring : Nat
  tag : W64
  ward : Nat
  origin : Option Nat := none
deriving DecidableEq, Repr, Inhabited

/-- The machine. `pending` is the queue of commands, first in, first out; `fresh` counts the free values
taken so far (the model's own field); everything else is the spec's. -/
structure State where
  pending : List Instr := []
  fresh : Nat := 0
  variant : Variant := .full
  life : Life := .off
  image : Image := {}
  linkAddr : Nat := 0
  standby : Bool := false
  tick : Nat := 0
  mem : List Host.Cell := []
  secTags : Tab SecTag := []
  keyNext : Nat := 1
  tiles : Tab Tile := []
  quads : Tab Quad := []
  chans : Tab Chan := []
  devs : Tab Dev := []
  upds : Tab Upd := []
  tblRegs : Tab W64 := []
  links : Tab Link := []
  arbs : Tab W32 := []
  hbms : Tab Hbm := []
  sites : Tab Site := []
  wards : Tab Ward := []
  dieFenced : Byte := 0
  modFenced : Bool := false
  beats : Tab Nat := []
  funcs : Tab Func := []
  ports : Tab Port := []
  rings : Tab Ring := []
  opens : Tab (Option OpenCmd) := []
  journal : Tab JRec := []
  jrnNext : Nat := 1
  jrnBoot : W64 := 0
  relays : List RelayOut := []
  routes : Tab RouteEnt := []
  tg : Nat := 0
  tko : Option Takeover := none
  tkoQueue : List (Nat × Option Nat × Option Nat × Bool) := []
  heldXfers : List HeldXfer := []
  /-- The port after the one that the last transfer to an address took (R385). -/
  rot : Tab Nat := []
  xferPaths : List XferPath := []
  xidNext : Nat := 0
  /-- Transfers of DMA runs that a register write started: no beat's closing waits for them (R175). -/
  uncounted : List Nat := []
  peerReads : List PeerRead := []
  trees : Tab Tree := []
  /-- Flits of multicast trees that wait for a credit on every port, oldest first (R393). -/
  mcWait : List (List Nat × Flit × List Byte) := []
  /-- Takeovers applied: identity and standby. -/
  tkoLog : List (Nat × Nat) := []
  rollSends : Nat := 0
  rollAt : Tab Nat := []
  rollRounds : W32 := 0
  rollHeld : Byte := 0
  rollSelfDiv : Bool := false
  rollSelfBad : Bool := false
  rollDiv : W64 := 0
  rollSilent : W64 := 0
  rollRecs : Tab RollRec := []
  ctlTmo : W32 := 0x64
  slots : Tab Slot := []
  retires : List Retire := []
  atts : List Att := []
  faults : Tab FRec := []
  saf : Saf := {}
  pwr : Pwr := {}
  boot : Boot := {}
  flash : Flash := {}
  sec : Sec := {}
  sent : List Output := []
deriving DecidableEq, Repr, Inhabited

/-- Why a step stops. No command of this block faults: what the spec says an access error does is a
next state. The one constructor is kept for an absent unit index that no command of the table can
name; nothing raises it. Safe. -/
inductive Fault where
  | noSuchUnit
deriving DecidableEq, Repr

/-- Why a command has no meaning yet. -/
inductive Refusal where
  /-- Raised by `exec` for a command whose meaning has not been written. Safe. -/
  | notModelled (mnemonic : String)
deriving DecidableEq, Repr

/-- The module with power just applied and its boot not yet run (R511): every field at its reset value. -/
def State.reset : State := {}

end Sys2Proof.Machine
end

