-- ==== Sys2Proof/Machine/Convert.lean ====
section
/-! DEFINITION. B-formats, scale bytes, plates (R41 to R51) and conversion to a B-format with its
statistics (R52 to R58). -/

namespace Sys2Proof

/-- Bits of a code (R41). -/
def Fmt.width : Fmt → Nat
  | .b1 => 1 | .b2 => 2 | .b4 => 4 | .b8 => 8

def Fmt.codemax : Fmt → Nat
  | .b1 => 1 | .b2 => 1 | .b4 => 7 | .b8 => 127

def Fmt.ofBits : Nat → Fmt
  | 0 => .b1 | 1 => .b2 | 2 => .b4 | _ => .b8

end Sys2Proof

namespace Sys2Proof.Machine
open Sys2Proof

/-! ### Little-endian bytes (R46) -/

def leNat : List Byte → Nat
  | [] => 0
  | b :: r => b.toNat + 256 * leNat r

/-- The `n` low bytes of `v`, lowest first. -/
def toLE : Nat → Nat → List Byte
  | 0, _ => []
  | n + 1, v => BitVec.ofNat 8 v :: toLE n (v / 256)

/-! ### Codes (R41, R42) -/

/-- The value of a bit pattern; `none` for a reserved pattern. -/
def codeOf (f : Fmt) (p : Nat) : Option Int :=
  match f with
  | .b1 => some (if p = 0 then -1 else 1)
  | .b2 => if p = 2 then none else some (if p = 3 then -1 else p)
  | .b4 => if p = 8 then none else some (if p < 8 then p else (p : Int) - 16)
  | .b8 => if p = 128 then none else some (if p < 128 then p else (p : Int) - 256)

/-- The bit pattern of a code. -/
def patternOf (f : Fmt) (c : Int) : Nat :=
  match f with
  | .b1 => if c < 0 then 0 else 1
  | .b2 => (c % 4).toNat
  | .b4 => (c % 16).toNat
  | .b8 => (c % 256).toNat

/-- The no-value marker of B4 and B8. -/
def markerOf (f : Fmt) : Nat := match f with | .b4 => 8 | .b8 => 128 | _ => 0

/-- The exponent of a scale byte (R43); `none` is a poisoned block. -/
def scaleExp (b : Byte) : Option Int :=
  if b.toInt ≤ -127 then none else some b.toInt

/-- Pattern of element `j` of packed code bytes (R47). -/
def patternAt (f : Fmt) (rd : Nat → Byte) (j : Nat) : Nat :=
  let per := 8 / f.width
  ((rd (j / per)).toNat / 2 ^ (f.width * (j % per))) % 2 ^ f.width

/-- Patterns packed from the low-order bits of each byte (R47). -/
def packPatterns (f : Fmt) (ps : List Nat) : List Byte :=
  let per := 8 / f.width
  (List.range ((ps.length + per - 1) / per)).map fun i =>
    BitVec.ofNat 8 (((List.range per).map fun k =>
      (ps.getD (per * i + k) 0) * 2 ^ (f.width * k)).sum)

/-- Bytes of a line plate (R47) and of a square plate (R48). -/
def linePlateSize (f : Fmt) : Nat := 16 + 64 * f.width
def squarePlateSize (f : Fmt) : Nat := 16 + 128 * f.width
def plateSize (square : Bool) (f : Fmt) : Nat := if square then squarePlateSize f else linePlateSize f

/-- The elements of one block of `n` elements starting at element `first` of a plate's codes, with scale
byte `sc`: `none` is an element without a value (R41 to R43). -/
def blockElems (f : Fmt) (sc : Byte) (rd : Nat → Byte) (first n : Nat) : List (Option Int) :=
  let ps := (List.range n).map fun j => patternAt f rd (first + j)
  let bad := (scaleExp sc).isNone || (decide (f = .b2) && ps.contains 2)
  ps.map fun p => if bad then none else codeOf f p

/-- R44: the FP32 value of a code. -/
def expandCode (c : Option Int) (sc : Byte) : W32 :=
  match c with
  | none => f32Poison
  | some v => if v = 0 then 0 else f32Rne ⟨v, sc.toInt⟩

/-! ### The conversion control word (R52) -/

structure Cw where
  fmt : Fmt
  square : Bool
  supplied : Bool
  guard : Bool
  rnd : Rnd
  site : Nat
deriving DecidableEq, Repr, Inhabited

def cwOf (w : W16) : Cw :=
  let n := w.toNat
  { fmt := Fmt.ofBits (n / 2 ^ 14), square := n / 2 ^ 13 % 2 = 1, supplied := n / 2 ^ 12 % 2 = 1,
    guard := n / 2 ^ 11 % 2 = 1, rnd := if n / 2 ^ 10 % 2 = 1 then .sr else .rne, site := n % 1024 }

/-- Square blocks exist in B4 and B8 only (R52). -/
def Cw.legal (c : Cw) : Bool := !(c.square && (c.fmt == .b1 || c.fmt == .b2))

/-! ### Choosing the exponent (R53, R54) -/

/-- R53. Elements that are `none` are pad positions, which count as zeros. -/
def presentExp (f : Fmt) (xs : List (Option W32)) : Int :=
  let mx := xs.foldl (fun a x => match x with
    | some w => if f32Finite w then max a (f32Mag w) else a
    | none => a) 0
  if mx = 0 then -126
  else
    let v := f32Val (BitVec.ofNat 32 mx)
    let l := (v.m.natAbs.log2 : Int) + v.e
    let e := ((List.range 8).map fun (i : Nat) => l - 6 + (i : Int)).find? fun e => v.le ⟨f.codemax, e⟩
    min (max (e.getD (l + 1)) (-126)) 127

/-- What the conversion of a block gives: its scale byte, the patterns of its codes, and what it adds to
its site. -/
structure Conv where
  scale : Int
  codes : List Nat
  delta : SiteDelta
deriving DecidableEq, Repr, Inhabited

def SiteDelta.add (a b : SiteDelta) : SiteDelta :=
  { total := a.total + b.total, saturated := a.saturated + b.saturated, vanished := a.vanished + b.vanished,
    overridden := a.overridden + b.overridden, marked := a.marked + b.marked, sqerr := a.sqerr ++ b.sqerr }

def sumDeltas (ds : List SiteDelta) : SiteDelta := ds.foldl SiteDelta.add {}

/-- What the elements of a block have given so far. -/
structure ConvAcc where
  codes : List Nat := []
  delta : SiteDelta := {}
  sq : W32 := 0
  bad : Bool := false
deriving DecidableEq, Repr, Inhabited

/-- R55: one element with the block exponent `e` and the draw `u`. -/
def convElem (f : Fmt) (rnd : Rnd) (e : Int) (a : ConvAcc) (x : Option W32) (u : Nat) : ConvAcc :=
  match x with
  | none => { a with codes := a.codes ++ [if f = .b1 then 1 else 0] }
  | some w =>
    if !f32Finite w then
      if f = .b4 || f = .b8 then
        { a with codes := a.codes ++ [markerOf f], delta := { a.delta with marked := a.delta.marked + 1 } }
      else { a with codes := a.codes ++ [0], bad := true }
    else
      let v := f32Val w
      let cm : Int := f.codemax
      let (t, d) := v.inUnits e
      let c0 : Int := if f = .b1 then (if f32Neg w then -1 else 1) else roundDiv rnd t d u
      let c := max (min c0 cm) (-cm)
      let err := v.sub ⟨c, e⟩
      { codes := a.codes ++ [patternOf f c], bad := a.bad,
        sq := f32Add a.sq (f32Rne (err.mul err)),
        delta := { a.delta with
          total := a.delta.total + 1,
          saturated := a.delta.saturated + (if cm < c0 ∨ c0 < -cm then 1 else 0),
          vanished := a.delta.vanished + (if c = 0 ∧ v.m ≠ 0 then 1 else 0) } }

/-- A block whose supplied exponent poisons it (R54). -/
def Cw.poisons (c : Cw) (es : Int) : Bool := c.supplied && decide (es ≤ -127)

/-- R56: the element takes a rounded code, and so a draw. -/
def Cw.draws (c : Cw) (es : Int) (x : Option W32) : Bool :=
  c.rnd == .sr && c.fmt != .b1 && !c.poisons es && (match x with | some w => f32Finite w | none => false)

/-- R53 to R56: one block. `es` is the supplied exponent; `us` the elements' draws. -/
def convBlock (c : Cw) (es : Int) (us : List Nat) (xs : List (Option W32)) : Conv :=
  if c.poisons es then
    { scale := -128, codes := xs.map fun _ => 0,
      delta := { total := (xs.filter fun x => match x with | some w => f32Finite w | none => false).length } }
  else
    let ep := presentExp c.fmt xs
    let ovr := c.supplied && c.guard && decide (3 < (ep - es).natAbs)
    let e := if c.supplied && !ovr then es else ep
    let a := (xs.zipIdx).foldl (fun a (x, k) => convElem c.fmt c.rnd e a x (us.getD k 0)) {}
    if a.bad then
      { scale := -128, codes := xs.map fun _ => 0, delta := { a.delta with overridden := if ovr then 1 else 0 } }
    else
      { scale := e, codes := a.codes, delta := { a.delta with overridden := if ovr then 1 else 0, sqerr := [a.sq] } }

/-- Draws of a block from one generator, in element order (R56); an element that takes none gets 0. -/
def drawBlock (c : Cw) (es : Int) (g : W32) (xs : List (Option W32)) : List Nat × W32 :=
  xs.foldl (fun (us, g) x => if c.draws es x then let (u, g) := genDraw g; (us ++ [u], g) else (us ++ [0], g)) ([], g)

/-- The conversion put poison into its block: a no-value marker or scale byte 0x80 (R481). -/
def Conv.poison (c : Conv) : Bool := c.scale == -128 || decide (0 < c.delta.marked)

/-! ### Statistics sites (R57, R58) -/

def satAdd (w a b : Nat) : Nat := min (a + b) (2 ^ w - 1)

def incSat {w : Nat} (c : BitVec w) (n : Nat := 1) : BitVec w := BitVec.ofNat w (satAdd w c.toNat n)

/-- The block sums are added to SQERR in order; counters stop at their maximum. -/
def Site.apply (s : Site) (d : SiteDelta) : Site :=
  { total := incSat s.total d.total, saturated := incSat s.saturated d.saturated,
    vanished := incSat s.vanished d.vanished, overridden := incSat s.overridden d.overridden,
    marked := incSat s.marked d.marked, sqerr := d.sqerr.foldl f32Add s.sqerr }

/-- The 48-byte record of a site. -/
def Site.bytes (s : Site) : List Byte :=
  toLE 8 s.total.toNat ++ toLE 8 s.saturated.toNat ++ toLE 8 s.vanished.toNat ++ toLE 8 s.overridden.toNat
    ++ toLE 8 s.marked.toNat ++ toLE 4 s.sqerr.toNat ++ toLE 4 0

end Sys2Proof.Machine
end

