-- ==== Sys2Proof/Config.lean ====
section
/-! DEFINITION. What the spec fixes per variant (R1, R2), and the free values: constants without a body
for what the spec leaves open, and the cryptographic functions, of which the model uses nothing but that
equal inputs give equal outputs. -/

namespace Sys2Proof.Config
open Sys2Proof

/-- Whether die Cn is fitted (R1). -/
def dieFitted (v : Variant) (n : Nat) : Bool :=
  match v with
  | .half => n = 0 || n = 1 || n = 4 || n = 5
  | _ => n < 8

/-- Whether the variant has update engines (R1). -/
def updFitted (v : Variant) : Bool := v != .serve

/-- VARIANT of MOD_CAP_UNITS (R2). -/
def variantCode : Variant → Nat
  | .full => 1 | .half => 2 | .serve => 3

/-- SHA-256 (R440); byte 0 of the digest is the least significant byte of the number. -/
opaque sha256 : List Byte → BitVec 256

/-- AES-256-XTS of one 64-byte line under a key identity, at a module physical line address (R447). -/
opaque xtsEnc : Nat → Nat → List Byte → List Byte
opaque xtsDec : Nat → Nat → List Byte → List Byte

/-- The certificates that ATTEST and CERT_READ write, as DER bytes: the identity certificate of a device identifier (R438);
the AK certificate, of the device identifier, the firmware and the configuration digest, as the `n`-th boot signs it (R439);
an attestation certificate, of the device identifier, its subject's commonName and the bytes of its extensions, with the
`n`-th serial number and signature (R456). -/
opaque identityCert : BitVec 256 → List Byte
opaque akCert : BitVec 256 → BitVec 256 → BitVec 256 → Nat → List Byte
opaque attestCert : BitVec 256 → String → List (List Byte) → Nat → List Byte

/-- What the chain engine answers for function code `fn` of R204 on an operand: within the accuracy of the
table, any value. -/
opaque approx : Nat → W32 → W32

/-- How far the binary64 evaluation of the bias correction 1 / (1 - beta^t) of R345, which the spec does not lay down, ends
from the exact value; and its value for a beta outside [0, 1). -/
opaque biasCorr : W32 → Nat → W32

/-- The signature over a package's manifest verifies under a key that R458 admits. -/
opaque packageSigned : List Byte → Bool

/-- The plaintext of a shard (R457): of a manifest, an entry index and the stored ciphertext. -/
opaque shardPlain : List Byte → Nat → List Byte → List Byte

/-- Free values: the `n`-th value taken is whatever it is. -/
opaque freeByte : Nat → Byte
opaque freeW16 : Nat → W16
opaque freeW32 : Nat → W32
opaque freeW64 : Nat → W64

end Sys2Proof.Config
end

