-- ==== Sys2Proof/Machine/RegTab.lean ====
section
/-! DEFINITION. The software registers of a ward block (R32): offset, width, which bits are RW and which are
RWL (R12), and the reset value; and the getters of their fields that the units use. -/

namespace Sys2Proof.Machine
open Sys2Proof

/-- A register that software writes: `rw` bits are writable at any time, `rwl` bits only while no job of
the owner runs. -/
structure RegDef where
  off : Nat
  wide : Bool
  rw : Nat
  rwl : Nat
  reset : Nat
deriving DecidableEq, Repr, Inhabited

/-- Bits [hi:lo]. -/
def bitsMask (hi lo : Nat) : Nat := 2 ^ (hi + 1) - 2 ^ lo

def field (v hi lo : Nat) : Nat := v / 2 ^ lo % 2 ^ (hi + 1 - lo)

def oWrdStatBase : Nat := 0x200
def oAcctBase : Nat := 0x300
def oPatrol : Nat := 0x500
def oBeaLen : Nat := 0x10000
def oBeaHoldMax : Nat := 0x10004
def oBeaClose : Nat := 0x10008
def oSeqAdmit : Nat := 0x20008
def oSeqCtxt : Nat := 0x20010
def oSeqEnd : Nat := 0x20018
def oAdpReg : Nat := 0x30000
def oAdpHot : Nat := 0x30008
def oAdpHotSize : Nat := 0x30010
def oAdpCtx : Nat := 0x30018
def oDistTmo : Nat := 0x30024
def oPfBase : Nat := 0x40000
def oPfCtl : Nat := 0x40008
def oTieLate : Nat := 0x40010
def oPeerTmo : Nat := 0x40014
def oPool : Nat := 0x40018
def oPoolBase : Nat := 0x40020
def oBmap : Nat := 0x40030
def oSpillBase : Nat := 0x40038
def oSpillSize : Nat := 0x40040
def oEncTbl : Nat := 0x40048

/-- The RW and RWL registers of a ward block (R59, R189 to R191, R292, R326, R327, R432, R502). -/
def wardRegs : List RegDef :=
  [⟨oWrdStatBase, true, 0, bitsMask 47 16, 0⟩,
   ⟨oAcctBase, true, 0, bitsMask 47 23, 0⟩,
   ⟨oPatrol, true, 0, bitsMask 16 0, 0x3C⟩,
   ⟨oBeaLen, false, 0, bitsMask 12 0, 0x200⟩,
   ⟨oBeaHoldMax, false, 0, bitsMask 15 0, 0⟩,
   ⟨oBeaClose, false, 0, bitsMask 5 0, 0⟩,
   ⟨oSeqAdmit, false, 0, bitsMask 23 0, 0⟩,
   ⟨oSeqCtxt, true, 0, bitsMask 47 16, 0⟩,
   ⟨oSeqEnd, true, 0, bitsMask 47 12, 0⟩,
   ⟨oAdpReg, true, 0, bitsMask 47 22, 0⟩,
   ⟨oAdpHot, true, 0, bitsMask 47 21, 0⟩,
   ⟨oAdpHotSize, true, 0, bitsMask 31 0, 0⟩] ++
  [⟨oAdpCtx, false, 0, bitsMask 15 15 + bitsMask 12 0, 0⟩,
   ⟨oDistTmo, false, 0, bitsMask 15 0, 0⟩,
   ⟨oPfBase, true, 0, bitsMask 47 5, 0⟩,
   ⟨oPfCtl, true, 0, bitsMask 51 32 + bitsMask 31 12, 0⟩,
   ⟨oTieLate, false, 0, bitsMask 15 0, 0⟩,
   ⟨oPeerTmo, false, 0, bitsMask 15 0, 0x100⟩,
   ⟨oPool, true, 0, bitsMask 63 40 + bitsMask 31 0, 0⟩,
   ⟨oPoolBase, true, 0, bitsMask 47 42, 0⟩,
   ⟨oBmap, true, 0, bitsMask 47 12, 0⟩,
   ⟨oSpillBase, true, 0, bitsMask 47 21, 0⟩,
   ⟨oSpillSize, true, 0, bitsMask 63 60 + bitsMask 39 21, 0⟩,
   ⟨oEncTbl, true, 0, bitsMask 47 13, 0⟩]

def wardRegDef (off : Nat) : Option RegDef := wardRegs.find? fun d => d.off = off

def wardRegReset (off : Nat) : W64 :=
  match wardRegDef off with
  | some d => BitVec.ofNat 64 d.reset
  | none => 0

/-- The value of a ward register. -/
def Ward.reg (w : Ward) (off : Nat) : Nat := (Tab.getD (wardRegReset off) w.regs off).toNat

def Ward.setReg (w : Ward) (off : Nat) (v : W64) : Ward :=
  { w with regs := Tab.setD (wardRegReset off) w.regs off v }

/-! ### Fields the units use -/

/-- BEAT_LEN in units of 256 cy, BEA_HOLD_MAX and the marker lead in steps (R172, R189 to R191). -/
def Ward.beatLen (w : Ward) : Nat := w.reg oBeaLen
def Ward.holdMax (w : Ward) : Nat :=
  let v := w.reg oBeaHoldMax
  if v = 0 then 8 * w.beatLen else v
def Ward.closeSteps (w : Ward) : Nat := w.reg oBeaClose
/-- R282, R292: the abandonment point in steps; 0 selects half the hold limit. -/
def Ward.lateSteps (w : Ward) : Nat :=
  let v := w.reg oTieLate
  if v = 0 then w.holdMax / 2 else v
def Ward.nblk (w : Ward) : Nat := field (w.reg oPool) 63 40
def Ward.frame (w : Ward) : Nat := field (w.reg oPool) 31 0
def Ward.poolBase (w : Ward) : Nat := w.reg oPoolBase
def Ward.bmapBase (w : Ward) : Nat := w.reg oBmap
def Ward.spillBase (w : Ward) : Nat := w.reg oSpillBase
def Ward.spillChunks (w : Ward) : Nat := field (w.reg oSpillSize) 39 21
def Ward.spillTbl (w : Ward) : Nat := field (w.reg oSpillSize) 63 60
def Ward.hotBase (w : Ward) : Nat := w.reg oAdpHot
def Ward.regBase (w : Ward) : Nat := w.reg oAdpReg
def Ward.ctxtBase (w : Ward) : Nat := w.reg oSeqCtxt
def Ward.endBase (w : Ward) : Nat := w.reg oSeqEnd
def Ward.noHot (w : Ward) : Bool := field (w.reg oAdpCtx) 15 15 = 1
/-- R327: context slots; 0 selects 256. -/
def Ward.ctxLimit (w : Ward) : Nat :=
  let v := field (w.reg oAdpCtx) 12 0
  if v = 0 then 256 else v

end Sys2Proof.Machine
end

