-- ==== Sys2Proof/Machine/Units.lean ====
section
/-! DEFINITION. Access to the units of the module: getters, updates, and the units of a ward. -/

namespace Sys2Proof.Machine
open Sys2Proof

/-- Insertion sort; equal elements keep their order. -/
def insertBy {α : Type} (le : α → α → Bool) (a : α) : List α → List α
  | [] => [a]
  | b :: r => if le a b then a :: b :: r else b :: insertBy le a r

def sortBy {α : Type} (le : α → α → Bool) (l : List α) : List α := l.foldr (insertBy le) []

/-! ### Units -/

def State.modTile (s : State) (i : Nat) (f : Tile → Tile) : State := { s with tiles := Tab.modify s.tiles i f }
def State.modQuad (s : State) (i : Nat) (f : Quad → Quad) : State := { s with quads := Tab.modify s.quads i f }
def State.modChan (s : State) (i : Nat) (f : Chan → Chan) : State := { s with chans := Tab.modify s.chans i f }
def State.modDev (s : State) (i : Nat) (f : Dev → Dev) : State := { s with devs := Tab.modify s.devs i f }
def State.modUpd (s : State) (i : Nat) (f : Upd → Upd) : State := { s with upds := Tab.modify s.upds i f }
def State.modLink (s : State) (i : Nat) (f : Link → Link) : State := { s with links := Tab.modify s.links i f }
def State.modHbm (s : State) (i : Nat) (f : Hbm → Hbm) : State := { s with hbms := Tab.modify s.hbms i f }
def State.modWard (s : State) (i : Nat) (f : Ward → Ward) : State := { s with wards := Tab.modify s.wards i f }
def State.modRing (s : State) (i : Nat) (f : Ring → Ring) : State := { s with rings := Tab.modify s.rings i f }
def State.modFunc (s : State) (i : Nat) (f : Func → Func) : State := { s with funcs := Tab.modify s.funcs i f }
def State.modPort (s : State) (i : Nat) (f : Port → Port) : State := { s with ports := Tab.modify s.ports i f }
def State.modSlot (s : State) (i : Nat) (f : Slot → Slot) : State := { s with slots := Tab.modify s.slots i f }
def State.modSite (s : State) (i : Nat) (f : Site → Site) : State := { s with sites := Tab.modify s.sites i f }

def State.tile (s : State) (i : Nat) : Tile := s.tiles.get i
def State.quad (s : State) (i : Nat) : Quad := s.quads.get i
def State.chan (s : State) (i : Nat) : Chan := s.chans.get i
def State.dev (s : State) (i : Nat) : Dev := s.devs.get i
def State.upd (s : State) (i : Nat) : Upd := s.upds.get i
def State.link (s : State) (i : Nat) : Link := s.links.get i
def State.ward (s : State) (i : Nat) : Ward := s.wards.get i
def State.ring (s : State) (i : Nat) : Ring := s.rings.get i
def State.func (s : State) (i : Nat) : Func := s.funcs.get i
def State.port (s : State) (i : Nat) : Port := s.ports.get i
def State.slot (s : State) (i : Nat) : Slot := s.slots.get i

def State.emit (s : State) (o : Output) : State := { s with sent := s.sent ++ [o] }

/-- The next free value's number, and the counter after it (log entry 4). -/
def State.takeFresh (s : State) : Nat × State := (s.fresh, { s with fresh := s.fresh + 1 })

/-- Fitted dies of the module (R1). -/
def State.dies (s : State) : List Nat := (List.range 8).filter fun n => Config.dieFitted s.variant n

def State.updFitted (s : State) : Bool := Config.updFitted s.variant

/-- Dies a ward holds, ascending. -/
def Ward.dieList (w : Ward) : List Nat := (List.range 8).filter fun n => w.dies.getLsbD n

def Ward.holds (w : Ward) (n : Nat) : Bool := decide (n < 8) && w.dies.getLsbD n

/-- The tile of a job program, by module-wide index (R28, R417). -/
def Ward.progTile (y : Ward) (r t : Nat) : Nat := 64 * (y.dieList.getD r 0) + t

/-- The ward that holds die `n` (R21). -/
def State.wardOfDie (s : State) (n : Nat) : Option Nat :=
  (List.range 8).find? fun w => (s.ward w).holds n

/-- The ward runs a job; a job that a ward reset ends runs until the boundary that stops it (R416, R419). -/
def Ward.running (w : Ward) : Bool := (w.st == .running || w.st == .resetting) && w.job.isSome

/-- The beat number within the ward's job (R109), 0 where no job runs. -/
def Ward.jb (x : Ward) : Nat := if x.running then x.jobBeat else 0

/-- A ward has a beat unless it is disabled or placing (R415). -/
def Ward.hasBeat (w : Ward) : Bool := w.st != .disabled && w.st != .placing

/-- Item 6 of R179: a BEAT_LEN that waits takes effect (R189). -/
def Ward.takeLen (x : Ward) : Ward :=
  match x.newLen with
  | some v => { (x.setReg oBeaLen (v.setWidth 64)) with newLen := none }
  | none => x

/-- The die controller that serves the ward: its lowest die. -/
def Ward.lowDie (w : Ward) : Nat := w.dieList.headD 0

/-- R38, R427: the ward's beat number, or the module tick where there is no beat. -/
def State.stamp (s : State) (w : Nat) : W64 :=
  if w < 8 && (s.ward w).hasBeat then (s.ward w).num else BitVec.ofNat 64 s.tick

/-- The module tick as a timestamp (R38). -/
def State.tickStamp (s : State) : W64 := BitVec.ofNat 64 s.tick

/-- MOD_HEALTH: die `n` fenced (R474, R500). -/
def State.dieFencedAt (s : State) (n : Nat) : Bool := s.dieFenced.getLsbD n

def Ward.tiles (w : Ward) : List Nat :=
  w.dieList.flatMap fun n => (List.range 64).map fun m => 64 * n + m
def Ward.quads (w : Ward) : List Nat :=
  w.dieList.flatMap fun n => (List.range 16).map fun q => 16 * n + q
/-- Channel keys: 64 n + c for die channels, 64 n + 32 + c for the host-port channels of C0 and C4. -/
def chansOfDie (n : Nat) : List Nat :=
  (List.range (if n = 0 || n = 4 then 40 else 32)).map fun c => 64 * n + c
def Ward.chans (w : Ward) : List Nat := w.dieList.flatMap chansOfDie

/-- Apply `f` to each of the units named. -/
def forEach {α : Type} (xs : List α) (s : State) (f : State → α → State) : State := xs.foldl f s

end Sys2Proof.Machine
end

