-- ==== Sys2Proof/Machine/LinkTx.lean ====
section
/-! DEFINITION. What leaves on the links: routes (R384 to R386), credits and priorities (R373), the retry buffer
(R375), and the flits of a transfer (R370, R371). -/

namespace Sys2Proof.Machine
open Sys2Proof

/-! ### Routes -/

def State.routeOf (s : State) (a : Nat) : RouteEnt := s.routes.get a

/-- The effective port set of an entry: its up links, ascending. -/
def State.portsTo (s : State) (a : Nat) : List Nat :=
  if (s.routeOf a).valid then (List.range 48).filter fun k => (s.routeOf a).ports.getLsbD k && (s.link k).st == .up && !(s.link k).stopped else []

def State.reachable (s : State) (a : Nat) : Bool := !(s.portsTo a).isEmpty

/-- The ports that traffic of ward `own` may take: links act only for the ward that holds their die (R21). Relayed and
management traffic, `none`, takes any. -/
def State.portsOf (s : State) (own : Option Nat) (a : Nat) : List Nat :=
  (s.portsTo a).filter fun k => match own with
    | some w => (s.ward w).holds (k / 6)
    | none => true

/-- Ward `w` can send to `a`. -/
def State.wardReaches (s : State) (w a : Nat) : Bool := !(s.portsOf (some w) a).isEmpty

/-- The fixed path of control and beat flits. -/
def State.ctrlPort (s : State) (a : Nat) : Option Nat := (s.portsTo a).head?

/-! ### One link -/

/-- Receive buffer of each virtual channel (R373): 0 control, 1 bulk, 2 reduce, 3 beat. -/
def vcSize (v : Nat) : Nat := ([32, 320, 128, 32] : List Nat).getD v 0

/-- A flit of the channel waits and holds a credit. -/
def Link.can (l : Link) (v : Nat) : Bool := (l.txq.any fun e => e.1.vc = v) && decide (0 < l.credits.getD v 0)

/-- The channel whose flit leaves next: beat, then control, then reduce and bulk by their weights (R373, R404). -/
def Link.pick (l : Link) (arb : W32) : Option Nat :=
  let wr := max 1 (field arb.toNat 15 8)
  let wb := max 1 (field arb.toNat 7 0)
  let (a, b) := if l.turn % (wr + wb) < wr then (2, 1) else (1, 2)
  [3, 0, a, b].find? l.can

/-- The channel whose credits go back on the next flit. -/
def Link.owedVc (l : Link) : Nat := ([3, 0, 2, 1].find? fun v => decide (0 < l.owed.getD v 0)).getD 0

/-- A header as it leaves: SEQ, acknowledgement and credits are rebuilt (R372). -/
def Link.stamp (l : Link) (f : Flit) : Flit :=
  { f with seq := l.txNext, ack := (l.rxNext + 4095) % 4096, nak := l.nakDue, crvc := l.owedVc, crcnt := min 31 (l.owed.getD l.owedVc 0) }

/-- What a flit takes with it. -/
def Link.gave (l : Link) : Link :=
  { l with nakDue := false, txCount := l.txCount + 1, owed := l.owed.set l.owedVc (l.owed.getD l.owedVc 0 - min 31 (l.owed.getD l.owedVc 0)) }

/-- The first waiting flit of channel `v`, and the queue without it. -/
def takeVc (v : Nat) : List (Flit × List Byte) → Option ((Flit × List Byte) × List (Flit × List Byte))
  | [] => none
  | e :: r => if e.1.vc = v then some (e, r) else (takeVc v r).map fun x => (x.1, e :: x.2)

/-- One flit leaves, where one may. -/
def State.sendOne (s : State) (k : Nat) : Option State :=
  let l := s.link k
  if l.st ≠ .up ∨ 256 ≤ l.retry.length then none
  else match l.pick (s.arbs.get k) with
    | none => none
    | some v => match takeVc v l.txq with
      | none => none
      | some (e, rest) =>
        let f := l.stamp e.1
        some ((s.modLink k fun l =>
          { l.gave with txq := rest, retry := l.retry ++ [(f, e.2)], txNext := (l.txNext + 1) % 4096,
                        credits := l.credits.set v (l.credits.getD v 0 - 1), turn := if v = 1 ∨ v = 2 then l.turn + 1 else l.turn }).emit
          (.flit k f e.2))

def State.pumpN : Nat → State → Nat → State
  | 0, s, _ => s
  | n + 1, s, k => match s.sendOne k with
    | some s' => State.pumpN n s' k
    | none => s

/-- Everything that may leave on the link leaves. -/
def State.pump (s : State) (k : Nat) : State := s.pumpN (s.link k).txq.length k

/-- An IDLE flit carries what is due, where no other flit left (R372). -/
def State.idleFlit (s : State) (k : Nat) : State :=
  let l := s.link k
  if l.st ≠ .up then s
  else
    let f := { l.stamp { type := 0, vc := 0, dst := l.peerAddr, src := s.linkAddr, ward := 0, last := false, len := 0, ctx := 0, epoch := 0, seq := 0,
                         ack := 0, nak := false, crvc := 0, crcnt := 0, tree := 0, xid := 0 } with seq := l.txNext }
    (s.modLink k fun l => l.gave).emit (.flit k f [])

def State.enqueue (s : State) (k : Nat) (f : Flit) (p : List Byte) : State :=
  (s.modLink k fun l => { l with txq := l.txq ++ [(f, p)] }).pump k

/-- The port can take a flit of the channel at once. -/
def State.portFree (s : State) (v k : Nat) : Bool :=
  let l := s.link k
  l.st == .up && (l.txq.all fun e => e.1.vc != v) && decide (0 < l.credits.getD v 0) && decide (l.retry.length < 256)

/-- Multicast flits leave in order, each when every port of its tree that is up holds a credit, so the slowest branch paces the
tree (R393). -/
def State.mcPump : Nat → State → State
  | 0, s => s
  | n + 1, s =>
    match s.mcWait with
    | [] => s
    | (ports, f, p) :: r =>
      let up := ports.filter fun k => (s.link k).st == .up
      if up.all (s.portFree f.vc) then State.mcPump n (forEach up { s with mcWait := r } fun s k => s.enqueue k f p) else s

/-- A flit for the ports of a tree. -/
def State.mcSend (s : State) (ports : List Nat) (f : Flit) (p : List Byte) : State :=
  State.mcPump (s.mcWait.length + 1) { s with mcWait := s.mcWait ++ [(ports, f, p)] }

/-! ### Transfers -/

/-- The next up port in rotation. -/
def State.nextPort (s : State) (own : Option Nat) (a : Nat) : Option Nat :=
  let ps := s.portsOf own a
  match ps.find? fun k => decide (s.rot.get a ≤ k) with
  | some k => some k
  | none => ps.head?

/-- The link on which a flit leaves: control and beat by the fixed path, a transfer on the link it began on (a link that
retrains keeps its transfers, R377). -/
def State.portOf (s : State) (own : Option Nat) (f : Flit) : Option Nat × State :=
  if f.vc = 0 ∨ f.vc = 3 then (s.ctrlPort f.dst, s)
  else
    let drop := if f.last then s.xferPaths.filter (fun x => !(x.src = f.src && x.xid = f.xid.toNat && x.dst = f.dst)) else s.xferPaths
    match s.xferPaths.find? fun x => x.src = f.src && x.xid = f.xid.toNat && x.dst = f.dst with
    | some x => (some x.port, { s with xferPaths := drop })
    | none => match s.nextPort own f.dst with
      | none => (none, s)
      | some k =>
        let s := { s with rot := s.rot.set f.dst (k + 1) }
        (some k, if f.last then s else { s with xferPaths := s.xferPaths ++ [{ src := f.src, xid := f.xid.toNat, dst := f.dst, port := k }] })

/-- A flit of ward `own`, or one of no ward, leaves for its destination; new transfers to an identity under takeover are
held (R396). -/
def State.route (s : State) (f : Flit) (p : List Byte) (own : Option Nat := none) : State :=
  let under := match s.tko with | some t => t.m == f.dst | none => false
  if under && !(s.xferPaths.any fun x => x.src = f.src && x.xid = f.xid.toNat && x.dst = f.dst) then
    { s with heldXfers := s.heldXfers ++ [{ addr := f.dst, flit := f, payload := p, own := own }] }
  else match s.portOf own f with
    | (some k, s) => s.enqueue k f p
    | (none, s) => s

/-- What a run does that no beat's closing waits for (R175): the transfers that `t` began after `s` are marked. -/
def State.uncount (s t : State) : State :=
  { t with uncounted := t.uncounted ++ (List.range (t.xidNext - s.xidNext)).map fun k => (s.xidNext + k) % 2 ^ 28 }

/-- Marked transfers of which a flit is still on its way. -/
def State.pruneUncounted (s : State) : State :=
  { s with uncounted := s.uncounted.filter fun x => s.links.any fun l => (l.2.txq ++ l.2.retry).any fun e => e.1.src == s.linkAddr && e.1.xid.toNat == x }

def State.nextXid (s : State) : BitVec 28 × State := (BitVec.ofNat 28 s.xidNext, { s with xidNext := s.xidNext + 1 })

/-- A transfer identifier, ward, context and epoch under which this module sends, and the ward of this module for which it
does. -/
structure Sender where
  dst : Nat
  own : Option Nat := none
  ward : Nat := 0
  ctx : Nat := 0
  epoch : W16 := 0
  xid : BitVec 28 := 0
  tree : Nat := 0
deriving DecidableEq, Repr, Inhabited

def State.flitOf (s : State) (x : Sender) (type vc : Nat) (last : Bool) (len : Nat) : Flit :=
  { type := type, vc := vc, dst := x.dst, src := s.linkAddr, ward := x.ward, last := last, len := len, ctx := x.ctx, epoch := x.epoch, seq := 0,
    ack := 0, nak := false, crvc := 0, crcnt := 0, tree := x.tree, xid := x.xid }

/-- Bytes cut into payloads of 224. -/
def cut224 (bs : List Byte) : List (List Byte) := (List.range (max 1 ((bs.length + 223) / 224))).map fun j => (bs.drop (224 * j)).take 224

/-- Send the bytes of one transfer. -/
def State.sendXfer (s : State) (x : Sender) (type vc : Nat) (bs : List Byte) : State :=
  let ps := cut224 bs
  forEach ps.zipIdx s fun s (p, j) => s.route (s.flitOf x type vc (j + 1 == ps.length) p.length) p x.own

/-- The transfer header (R371). -/
def xferHeader (addr len : Nat) : List Byte := toLE 8 addr ++ toLE 8 len ++ toLE 16 0

/-- The LIVE slot of context `c` in ward `w` (R445, R446). -/
def State.ctxSlot (s : State) (w c : Nat) : Option Nat :=
  (s.slots.find? fun e => e.2.st == .live && e.2.ward == w && e.2.members.contains c).map (·.1)

/-- EPOCH of a flit of context `c`. -/
def State.epochOf (s : State) (w c : Nat) : W16 :=
  if c = 0 then 0 else match s.ctxSlot w c with
    | some k => (s.slot k).epoch.setWidth 16
    | none => 0

/-- The ward of module `m` that runs a part of the same job, or a replica of the same run (R29). -/
def Ward.peerWard (x : Ward) (m : Nat) : Nat := match x.job with
  | some j => if j.prog.modules.contains m then j.prog.peerWards.get m
    else ((j.prog.replicas.flatten.find? fun e => e.1 == m).map (·.2)).getD (j.prog.peerWards.get m)
  | none => 0

/-- How ward `w` addresses its peer ward on module `m` under context `c`. -/
def State.sender (s : State) (w c m : Nat) : Sender × State :=
  let (xid, s) := s.nextXid
  ({ dst := m, own := some w, ward := (s.ward w).peerWard m, ctx := c, epoch := s.epochOf w c, xid := xid }, s)

/-- A peer-tier write. -/
def State.sendWrite (s : State) (w c m va : Nat) (bs : List Byte) : State :=
  let (x, s) := s.sender w c m
  s.sendXfer x 1 1 (xferHeader va bs.length ++ bs)

/-- A peer-tier read of channel `ch`, whose data go to the ward's address `at'`. -/
def State.sendRead (s : State) (w c ch at' m va n : Nat) : State :=
  let (x, s) := s.sender w c m
  { s.sendXfer x 2 1 (xferHeader va n) with
    peerReads := s.peerReads ++ [{ xid := x.xid.toNat, chan := ch, va := at', peer := m, pva := va, len := n }] }

/-- A flit of the control channel whose payload the spec does not lay out: LEN is a free value. -/
def State.ctlFlit (s : State) (a : Nat) : State :=
  if a = s.linkAddr then s
  else
    let (n, s) := s.takeFresh
    let (xid, s) := s.nextXid
    s.route (s.flitOf { dst := a, xid := xid } 7 0 true ((Config.freeByte n).toNat % 225)) []

/-- A message of the control channel. -/
def State.ctl (s : State) (a : Nat) (o : Output) : State := (s.emit o).ctlFlit a

/-- A control message whose payload the spec lays out. -/
def State.ctlBytes (s : State) (a : Nat) (o : Output) (bs : List Byte) : State :=
  let s := s.emit o
  if a = s.linkAddr then s
  else
    let (xid, s) := s.nextXid
    s.sendXfer { dst := a, xid := xid } 7 0 bs

/-- A beat marker (R391). -/
def State.sendMarker (s : State) (a kind ward master : Nat) (beat : W64) (cmds : List (Nat × Nat)) : State :=
  let p := toLE 1 kind ++ toLE 1 ward ++ toLE 1 master ++ toLE 1 cmds.length ++ toLE 4 0 ++ toLE 8 beat.toNat ++
    cmds.flatMap fun (m, q) => toLE 8 (m * 2 ^ 58 + q % 2 ^ 58)
  let s := s.emit (.marker a kind ward beat cmds)
  let (xid, s) := s.nextXid
  s.route (s.flitOf { dst := a, xid := xid } 4 3 true p.length) p

/-- A stop marker on every link that is up (R520). -/
def State.stopMarkers (s : State) (ev : Nat) : State :=
  let p := toLE 1 0x53 ++ toLE 1 ev ++ toLE 6 0 ++ toLE 8 s.tick
  forEach ((List.range 48).filter fun k => (s.link k).st == .up) s fun s k =>
    let (xid, s) := s.nextXid
    s.enqueue k (s.flitOf { dst := (s.link k).peerAddr, xid := xid } 7 0 true p.length) p

end Sys2Proof.Machine
end

