-- ==== Sys2Proof/Machine/Ops.lean ====
section
/-! DEFINITION. The named operations the commands share: the job's schedule, interrupts,
the journal, completions, fault records, host memory. -/

namespace Sys2Proof.Machine
open Sys2Proof

/-! ### The job's schedule (R185, R186; log entry 12) -/

end Sys2Proof.Machine

namespace Sys2Proof

def JobProg.res0 (p : JobProg) : Nat := ((p.stages.head?).map (·.res)).getD 0

/-- Beats from one token boundary of a group to its next. -/
def JobProg.period (p : JobProg) : Nat := max ((p.stages.map (·.res)).sum) (p.groups * p.res0)

/-- The beat group whose token boundary begins beat `t` of the job. -/
def JobProg.tokenGroup (p : JobProg) (t : Nat) : Option Nat :=
  if p.period = 0 then none
  else (List.range p.groups).find? fun b => b * p.res0 ≤ t && (t - b * p.res0) % p.period = 0

/-- The beat group resident in stage `k` in beat `t` of the job. -/
def JobProg.groupIn (p : JobProg) (k t : Nat) : Option Nat :=
  if p.period = 0 then none
  else
    let off := ((p.stages.take k).map (·.res)).sum
    let len := ((p.stages[k]?).map (·.res)).getD 0
    (List.range p.groups).find? fun b => b * p.res0 ≤ t &&
      (let x := (t - b * p.res0) % p.period; off ≤ x && x < off + len)

/-- The beat group that ends its token step (leaves the last stage) at the boundary that begins beat `t`. -/
def JobProg.leaving (p : JobProg) (t : Nat) : Option Nat :=
  if p.period = 0 then none
  else (List.range p.groups).find? fun b =>
    b * p.res0 < t && (t - b * p.res0) % p.period = (p.stages.map (·.res)).sum % p.period

end Sys2Proof

namespace Sys2Proof.Machine
open Sys2Proof

/-- The stage of die `n` in the job of ward `w`: dies are named by relative index (R417). -/
def Ward.stageOf (w : Ward) (n : Nat) : Option Nat :=
  match w.job with
  | none => none
  | some j =>
    let r := w.dieList.idxOf n
    (List.range j.prog.stages.length).find? fun k => ((j.prog.stages[k]?).map fun x => x.rdies.contains r).getD false

/-- The beat group resident in the stage of die `n` now. -/
def Ward.groupAt (w : Ward) (n : Nat) : Option Nat :=
  match w.job, w.stageOf n with
  | some j, some k => j.prog.groupIn k w.jobBeat
  | _, _ => none

/-! ### Physical memory -/

def hostBase (port addr : Nat) : Nat := 2 ^ 48 + port * 2 ^ 47 + addr % 2 ^ 47
def tileBase (i : Nat) : Nat := 2 ^ 42 + i * 2 ^ 22
def carveOut : Nat := 0x473EE00000
def isStack (pa : Nat) : Bool := decide (pa < 2 ^ 42)
/-- Mappable bytes of a die window (R26). -/
def dieBytes : Nat := 0x482D600000

def State.rdByte (s : State) (pa : Nat) : Byte := Tab.get (β := Byte) s.mem pa
def State.wrByte (s : State) (pa : Nat) (b : Byte) : State := { s with mem := Tab.set (β := Byte) s.mem pa b }
def State.rdBytes (s : State) (pa n : Nat) : List Byte := (List.range n).map fun k => s.rdByte (pa + k)

def wrCells (mem : List Host.Cell) : Nat → List Byte → List Host.Cell
  | _, [] => mem
  | pa, b :: r => wrCells (Tab.set (β := Byte) mem pa b) (pa + 1) r

def State.wrBytes (s : State) (pa : Nat) (bs : List Byte) : State := { s with mem := wrCells s.mem pa bs }

/-- Bytes that arrived from the host tier or the peer tier with a command. -/
def State.seen (s : State) (cells : List (Nat × Byte)) : State :=
  { s with mem := cells.foldl (fun m (a, b) => if (2 ^ 48 ≤ a && a < 2 ^ 49) || (2 ^ 50 ≤ a && a < 2 ^ 50 + 2 ^ 48) then Tab.set (β := Byte) m a b else m) s.mem }

/-- Tile-store bytes of tile `i` (R28). -/
def State.rdStore (s : State) (i off : Nat) : Byte := s.rdByte (tileBase i + off)
def State.rdStores (s : State) (i off n : Nat) : List Byte := s.rdBytes (tileBase i + off) n

/-- Some word of the tile store that the range meets has an uncorrectable error (R470). -/
def State.storeBad (s : State) (i off n : Nat) : Bool := (s.tile i).badWords.any fun k => decide (8 * k < off + n) && decide (off < 8 * k + 8)

/-- Offsets of the scale bytes of plates of `size` bytes at `offs` whose block holds such a word: they read 0x80 (R470). -/
def State.softScales (s : State) (i : Nat) (square : Bool) (size : Nat) (offs : List Nat) : List Nat :=
  if (s.tile i).badWords = [] then []
  else offs.flatMap fun o =>
    if square then (if s.storeBad i o size then [o] else [])
    else
      let n := (size - 16) / 16
      (List.range 16).filterMap fun j => if s.storeBad i (o + j) 1 || s.storeBad i (o + 16 + n * j) n then some (o + j) else none

/-- The same of a skewed run whose rows start at `rows` (R51). -/
def State.softRows (s : State) (i : Nat) (rows : List Nat) : List Nat :=
  if (s.tile i).badWords = [] then []
  else (rows.zipIdx).flatMap fun (o, r) =>
    if s.storeBad i o 272 then
      ((List.range 8).filterMap fun j => if s.storeBad i (o + j) 1 then some (o + j) else none) ++
      ((List.range 256).filterMap fun k =>
        if k ≤ r ∧ s.storeBad i (o + 16 + k) 1 then some (rows.getD (r - k + k / 32 * 32) 0 + k / 32) else none)
    else []

/-- Bytes of the tile store with the scale bytes named read as 0x80. -/
def State.rdSpoiled (s : State) (i : Nat) (soft : List Nat) (off : Nat) : Byte := if soft.contains off then 0x80 else s.rdStore i off

/-- Words of the tile store that are written whole hold good code again. -/
def State.mendStore (s : State) (i off n : Nat) : State :=
  if (s.tile i).badWords = [] then s
  else s.modTile i fun t => { t with badWords := t.badWords.filter fun k => !(decide (off ≤ 8 * k) && decide (8 * k + 8 ≤ off + n)) }

def State.wrStore (s : State) (i off : Nat) (bs : List Byte) : State := (s.wrBytes (tileBase i + off) bs).mendStore i off bs.length

/-- A landing's bytes, cell by cell; words of which every byte lands are good again. -/
def State.wrStoreCells (s : State) (i : Nat) (cells : List (Nat × Byte)) : State :=
  let s' := { s with mem := cells.foldl (fun m (o, b) => Tab.set (β := Byte) m (tileBase i + o) b) s.mem }
  if (s.tile i).badWords = [] then s'
  else s'.modTile i fun t => { t with badWords := t.badWords.filter fun k => !((List.range 8).all fun j => cells.any fun c => c.1 = 8 * k + j) }

/-- Word `k` of the instruction store of tile `i`. -/
def State.istWord (s : State) (i k : Nat) : W64 :=
  BitVec.ofNat 64 (leNat (s.rdBytes (tileBase i + 0x300000 + 8 * k) 8))

/-- Remove every listed byte of the range. -/
def State.clearRange (s : State) (pa n : Nat) : State :=
  { s with mem := s.mem.filter fun c => !(decide (pa ≤ c.1) && decide (c.1 < pa + n)) }

/-! ### Interrupts (R410) -/

def funcKey (port func : Nat) : Nat := port * 9 + func
def ringKey (port func r : Nat) : Nat := funcKey port func * 16 + r
def srcKey (x : Src) : Nat := ringKey x.port x.func x.ring

/-- An interrupt aimed at a masked vector sets its pending bit. -/
def State.msix (s : State) (port func vec : Nat) : State :=
  let k := funcKey port func
  if (s.func k).unmasked.contains vec then s.emit (.msix port func vec)
  else s.modFunc k fun f => { f with pend := if f.pend.contains vec then f.pend else f.pend ++ [vec] }

/-! ### Host memory -/

/-- Whether the port can issue a host-tier access of a function (R260, R420). -/
def State.canIssue (s : State) (port func : Nat) : Bool :=
  (s.port port).up && (s.func (funcKey port func)).bme && !(s.func (funcKey port func)).inFlr

/-- A posted host-tier write; `none` where the port cannot issue it. -/
def State.hostWrite (s : State) (port func addr : Nat) (bs : List Byte) : Option State :=
  if s.canIssue port func then some (s.wrBytes (hostBase port addr) bs) else none

/-! ### The journal (R434, R435) -/

def jrnSize : Nat := 4194304

def JRec.bytes (r : JRec) : List Byte :=
  toLE 8 r.seq ++ toLE 8 r.beat.toNat ++ toLE 16 r.digest.toNat ++
  toLE 1 r.port ++ toLE 1 r.func ++ toLE 1 r.ring ++ toLE 1 r.ward ++ toLE 1 r.opc.toNat ++
  toLE 1 r.status.toNat ++ toLE 1 r.st ++ toLE 1 0 ++
  toLE 8 r.tag.toNat ++ toLE 8 r.doneBeat.toNat ++ toLE 8 r.origin.toNat

def State.jrnOldest (s : State) : Nat := max 1 (s.jrnNext - jrnSize)

def State.jrnGet (s : State) (seq : Nat) : JRec := s.journal.get ((seq - 1) % jrnSize)

/-- Write the record of the next number. -/
def State.jrnAdd (s : State) (r : JRec) : State :=
  { s with journal := s.journal.set ((s.jrnNext - 1) % jrnSize) { r with seq := s.jrnNext },
           jrnNext := s.jrnNext + 1 }

/-- Write the outcome into the record of `seq`, where it is still held. -/
def State.jrnDone (s : State) (seq : Nat) (status : Byte) (st : Nat) (beat : W64) : State :=
  let r := s.jrnGet seq
  if r.seq = seq then
    { s with journal := s.journal.set ((seq - 1) % jrnSize) { r with status := status, st := st, doneBeat := beat } }
  else s

/-- First 16 bytes of SHA-256 (R434). -/
def digest16 (bs : List Byte) : BitVec 128 := (Config.sha256 bs).setWidth 128

/-! ### Fault records (R485 to R492) -/

def FRec.bytes (r : FRec) : List Byte :=
  toLE 8 r.seq ++ toLE 8 r.stamp.toNat ++ toLE 4 r.cycle.toNat ++ toLE 1 r.cls ++ toLE 1 r.scope ++
  toLE 1 r.status.toNat ++ toLE 1 r.ward ++ toLE 2 r.ctx ++ toLE 1 r.unit ++ toLE 1 r.die ++
  toLE 2 r.idx ++ toLE 1 r.src ++ toLE 1 (if r.tsrc then 1 else 0) ++ toLE 1 r.cause ++
  toLE 1 r.logical ++ toLE 1 r.akind ++ toLE 1 0 ++ toLE 4 r.op.toNat ++ toLE 8 r.addr.toNat ++
  toLE 16 r.detail.toNat ++ toLE 8 r.tick ++ toLE 2 r.temp.toNat ++ toLE 2 r.vin.toNat ++
  toLE 2 r.vcore.toNat ++ toLE 2 0 ++ toLE 8 r.jseq ++ List.replicate 40 0

/-- The compact record of a full one (R487): SEQ[31:0], CLASS to CTX, UNIT and DIE, IDX, CAUSE, TSRC, STAMP, CYCLE, TEMP and
VIN. -/
def FRec.compact (r : FRec) : List Byte :=
  ([(0, 4), (20, 8), (28, 2), (32, 1), (31, 1), (8, 8), (16, 4), (72, 4)] : List (Nat × Nat)).flatMap fun (k, n) => (r.bytes.drop k).take n

def faultRing : Nat := 131072

/-- The fault ring still holds record `q`. -/
def State.faultHeld (s : State) (q : Nat) : Bool :=
  decide (1 ≤ q) && decide (q < s.saf.seqNext) && (s.faults.get ((q - 1) % faultRing)).seq == q

/-- VEC, BASE and LOG of a mirror register (R498). -/
def mirrorLog (v : W64) : Nat :=
  let l := field v.toNat 4 0
  if 6 ≤ l && l ≤ 17 then l else 0
def mirrorBase (v : W64) : Nat := field v.toNat 46 12 * 4096
def mirrorVec (v : W64) : Nat := field v.toNat 63 53

/-- One port's mirror of a record (R492). -/
def State.mirrorTo (s : State) (port : Nat) (en : Bool) (reg : W64) (r : FRec) : State :=
  if en && mirrorLog reg != 0 then
    match s.hostWrite port 0 (mirrorBase reg + (r.seq - 1) % 2 ^ mirrorLog reg * 128) r.bytes with
    | some s' => s'.msix port 0 (mirrorVec reg)
    | none => { s with saf := { s.saf with mirrorFail := incSat s.saf.mirrorFail } }
  else s

/-- Keep at most 4,096 compact records; the oldest are discarded and counted (R490, R491). -/
def Saf.trim (f : Saf) : Saf :=
  if 4096 < f.unacked.length then
    let d := f.unacked.length - 4096
    { f with unacked := f.unacked.drop d, discarded := incSat f.discarded d, discardedFrom := true }
  else f

/-- Compose, number and store one full record, mirror and note it in fall-back, hold its compact form.
The caller gives what R485 takes from the event; the rest is filled in here. -/
def State.report (s : State) (r : FRec) : State :=
  let beat := decide (r.ward < 8) && (s.ward r.ward).hasBeat
  let (n, s) := s.takeFresh
  let noted := s.saf.fallback || s.saf.ringAlways
  let r := { r with
    seq := s.saf.seqNext,
    stamp := s.stamp r.ward,
    tsrc := !beat,
    cycle := if beat then Config.freeW32 n else 0,
    logical := s.linkAddr,
    tick := s.tick,
    temp := BitVec.ofInt 16 (Tab.getD (-32768) s.pwr.temps r.die),
    vin := BitVec.ofNat 16 s.pwr.vin,
    vcore := Config.freeW16 n,
    jseq := if noted && r.jseq = 0 then s.jrnNext else r.jseq }
  let s := { s with
    faults := s.faults.set ((r.seq - 1) % faultRing) r,
    saf := Saf.trim { s.saf with seqNext := r.seq + 1, unacked := s.saf.unacked ++ [{ seq := r.seq, bytes := r.compact : Compact }] } }
  let s := if s.saf.recEvents then s.emit (.i3cIbi r.seq) else s
  let s := if (r.cls = 0x10 ∨ r.cls = 0x11) ∧ s.saf.da ≠ 0 then s.emit (.pldmEvent r.seq) else s
  if noted then
    let s := s.jrnAdd { port := 3, func := 0, ring := 0xFF, ward := r.ward, opc := 0xFF, status := r.status,
                        st := 1, tag := BitVec.ofNat 64 r.seq, digest := digest16 r.bytes, beat := s.stamp r.ward }
    let s := { s with saf := { s.saf with notes := incSat s.saf.notes } }
    let s := s.mirrorTo 0 s.saf.mirrorAEn s.saf.mirrorA r
    s.mirrorTo 1 s.saf.mirrorBEn s.saf.mirrorB r
  else s

/-- The record of each word with an uncorrectable error that a unit meets in the ranges (R486). -/
def State.noteSoft (s : State) (i : Nat) (rs : List (Nat × Nat)) : State :=
  forEach ((s.tile i).badWords.filter fun k => rs.any fun (o, n) => decide (8 * k < o + n) && decide (o < 8 * k + 8)) s fun s k =>
    s.report { cls := 8, scope := 0, ward := (s.wardOfDie (i / 64)).getD 0xFF, unit := 0, die := i / 64, idx := i % 64, src := 3,
               detail := BitVec.ofNat 128 k }

/-! ### Completions (R427) -/

def Cpl.bytes (c : Cpl) (phase : Bool) : List Byte :=
  toLE 8 c.tag.toNat ++ toLE 8 c.jseq ++ toLE 8 c.beat.toNat ++ toLE 1 c.status.toNat ++ toLE 1 c.kind ++
  toLE 1 (if phase then 1 else 0) ++ toLE 1 0 ++ toLE 4 c.detail.toNat

/-- The CQ is full when one more record would make its tail equal the head (log entry 15). -/
def Ring.cqFull (r : Ring) : Bool := (r.cqTail.toNat + 1) % 2 ^ r.cqLog = r.cqHead.toNat % 2 ^ r.cqLog

/-- Write one record at the CQ tail; a write that the port cannot issue puts the ring into error and
raises its vector (R423). -/
def State.cqWrite (s : State) (k : Nat) (c : Cpl) : State :=
  let r := s.ring k
  let port := k / 16 / 9
  let func := k / 16 % 9
  match s.hostWrite port func (r.cqBase.toNat + r.cqTail.toNat * 32) (c.bytes r.phase) with
  | some s' =>
    let t := (r.cqTail.toNat + 1) % 2 ^ r.cqLog
    (s'.modRing k fun r => { r with cqTail := BitVec.ofNat 16 t, phase := if t = 0 then !r.phase else r.phase }).msix
      port func r.vec.toNat
  | none => (s.modRing k fun r => { r with st := 2, err := 2 }).msix port func r.vec.toNat

/-- The timestamp of a record on ring `k` (R38): a ring of a VF serves its ward, one of PF0 serves none. -/
def State.ringStamp (s : State) (k : Nat) (beat : W64) : W64 := if k / 16 % 9 = 0 then s.tickStamp else beat

/-- Post a record on ring `k`: written at once where there is room and nothing waits, else held; a KIND 1
record that finds 1,024 records held is dropped and counted. A ring that is not running takes none. -/
def State.post (s : State) (k : Nat) (c : Cpl) : State :=
  let r := s.ring k
  let c := { c with beat := s.ringStamp k c.beat }
  if r.st ≠ 1 then s
  else if r.unposted = [] ∧ r.cqFull = false then s.cqWrite k c
  else if c.kind = 1 ∧ 1024 ≤ r.unposted.length then
    s.modRing k fun r => { r with lost := BitVec.ofNat 8 (satAdd 8 r.lost.toNat 1) }
  else s.modRing k fun r => { r with unposted := r.unposted ++ [c] }

/-- Post held records while there is room. -/
def State.drainCq : Nat → State → Nat → State
  | 0, s, _ => s
  | n + 1, s, k =>
    let r := s.ring k
    match r.unposted with
    | [] => s
    | c :: rest =>
      if r.st ≠ 1 ∨ r.cqFull then s
      else State.drainCq n ((s.modRing k fun r => { r with unposted := rest }).cqWrite k c) k

/-- A command is done: its journal record takes the outcome, and its completion is posted, or returned to
the module that relayed it (R389, R427, R435). -/
def State.complete (s : State) (jseq : Nat) (st : St) (detail : W32 := 0) : State :=
  match s.opens.get jseq with
  | none => s
  | some o =>
    let beat := s.stamp o.ward
    let s := { s with opens := s.opens.set jseq none }
    let s := s.jrnDone jseq st.code (max 1 (s.jrnGet jseq).st) beat
    match o.origin with
    | some dest => s.ctl dest (.relayDone dest (field (s.jrnGet jseq).origin.toNat 57 0) st.code detail)
    | none => s.post o.ring { tag := o.tag, jseq := jseq, beat := beat, status := st.code, kind := 0, detail := detail }

/-! ### Job faults (R179, R419) -/

/-- A job fault decided in this beat takes effect at the next boundary; the first decided status stays
(log entry 13). -/
def State.jobFault (s : State) (w : Nat) (st : St) : State :=
  s.modWard w fun x =>
    match x.job with
    | none => x
    | some j => { x with job := some { j with fault := some (j.fault.getD st) } }

/-- The job fault of the ward that holds die `n`. -/
def State.jobFaultDie (s : State) (n : Nat) (st : St) : State :=
  match s.wardOfDie n with
  | some w => s.jobFault w st
  | none => s

/-- R86, R283, R482: the positions of context `c` in beat group `b`, or the one named, are lost with status `st`. -/
def State.losePositions (s : State) (w c b : Nat) (st : St) (pos : Option Nat := none) : State :=
  s.modWard w fun x => { x with lostPos := if x.lostPos.contains (c, b, pos, st) then x.lostPos else x.lostPos ++ [(c, b, pos, st)] }

/-- Detail of a poison-write record (R542). -/
def poisonDetail (bank tile : Nat) (tag : W16) (bg : Option Nat) : BitVec 128 :=
  BitVec.ofNat 128 (bank + tile * 2 ^ 8 + tag.toNat * 2 ^ 16 + (bg.getD 0xFFFF) * 2 ^ 32)

/-- R480, R481: a poison write into bank `bank` of tile `i` made by unit class `unit`, number `idx`. -/
def State.notePoison (s : State) (i bank unit idx : Nat) : State :=
  let n := i / 64
  match s.wardOfDie n with
  | none => s
  | some w =>
    let tag := (s.tile i).tags.get bank
    let bg := (s.ward w).groupAt n
    let r : FRec := { cls := 9, scope := if tag = 0 then 4 else 2, status := St.poison.code, ward := w,
                      ctx := tag.toNat, unit := unit, die := n, idx := idx, src := 3,
                      detail := poisonDetail bank (i % 64) tag bg }
    let s := s.report r
    if tag = 0 then s.jobFault w .poison
    else match bg with
      | some b => s.losePositions w tag.toNat b .poison
      | none => s

/-- A change of accumulator `i`, and of what a failed snapshot would put back for it (R63). -/
def State.onSite (s : State) (i : Nat) (f : Site → Site) : State :=
  let s := s.modSite i f
  match s.wardOfDie (i / 1024) with
  | some w => if (s.ward w).statZeroed then s.modWard w fun x => { x with statKept := x.statKept.modify i f } else s
  | none => s

/-- Conversions of die `n` are added to site `k` (R57). -/
def State.addSite (s : State) (n k : Nat) (d : SiteDelta) : State := s.onSite (n * 1024 + k) fun x => x.apply d

end Sys2Proof.Machine
end

