-- ==== Sys2Proof/Machine/Operands.lean ====
section
/-! DEFINITION. The operand forms of the tile instructions: their words (R125 to R155), the checks of a job
start (R126), views (R122 to R124), and the tile's registers. -/

namespace Sys2Proof.Machine
open Sys2Proof

/-! ### Instruction words -/

def wf (w : W64) (hi lo : Nat) : Nat := field w.toNat hi lo
def wbit (w : W64) (i : Nat) : Bool := wf w i i = 1

/-- Words of an instruction by its first word: 2 for DRAIN and SETA mode 00 (R125). -/
def wordsOf (w : W64) : Nat :=
  let op := wf w 63 58
  if op = 0x06 ∨ (op = 0x11 ∧ wf w 52 51 = 0) then 2 else 1

/-- One check of a field: cause ILL_FIELD where it fails. -/
def need (b : Bool) (i : Instr) : Except Nat Instr := if b then .ok i else .error 0x02

/-- The instruction of tile `t` that words `w` and `x` (extension) spell: cause 0x01 for an illegal opcode,
0x02 for a reserved bit or an illegal field value (R126). -/
def decodeTile (t : Nat) (w x : W64) : Except Nat Instr :=
  match wf w 63 58 with
  | 0x01 =>
    let f : LatchF := { as := wf w 57 53, vs := wf w 52 41, fmt := Fmt.ofBits (wf w 40 39), blk := wbit w 38,
                        trd := wbit w 37, half := wbit w 36, rows := wf w 35 28 + 1, cols := wf w 27 20 + 1 }
    need (wf w 19 0 = 0 && !(f.blk && (f.fmt == .b1 || f.fmt == .b2)) && !(f.trd && !f.blk) && !(f.half && f.blk))
      (.latch t f)
  | 0x02 => need (wf w 57 0 = 0) (.swap t)
  | 0x05 => need (wf w 39 0 = 0) (.wzero t { wb := wf w 57 49, wc := wf w 48 40 + 1 })
  | 0x06 =>
    let f : DrainF := { wb := wf w 57 49, wc := wf w 48 40 + 1, ofmt := wf w 39 38, half := wbit w 37,
                        ad := wf w 36 32, vd := wf w 31 20, cw := BitVec.ofNat 16 (wf w 15 0),
                        aie := wbit x 63, afmt := wbit x 62, aa := wf x 61 57, va := wf x 56 45, sa := wf x 44 40 }
    let c := cwOf f.cw
    need (wf w 19 16 = 0 && f.ofmt != 3 && wf x 39 0 = 0 &&
      (f.ofmt == 2 || f.cw &&& 0xFBFF == 0) &&
      (f.aie || (!f.afmt && f.aa == 0 && f.va == 0)) &&
      ((f.ofmt == 2 && c.supplied) || f.sa == 0) &&
      (!f.half || (f.ofmt == 2 && !c.square)) &&
      (f.ofmt != 2 || c.legal) &&
      (!(f.ofmt == 2 && c.square) || f.wc % 32 == 0)) (.drain t f)
  | 0x07 => need (wf w 39 0 = 0) (.chain t { ad := wf w 57 53, rows := wf w 52 40 + 1 })
  | 0x08 =>
    let f : KickF := { ad := wf w 57 53, hp := wbit w 52, ch := wf w 51 47, ks := wbit w 46, ki := wf w 45 43,
                       cnt := wf w 42 27 }
    need (wf w 26 0 = 0 && (!f.hp || decide (f.ch < 8)) &&
      (if f.ks then f.cnt == 0 else f.ki == 0 && f.cnt != 0)) (.kick t f)
  | 0x09 => need (wf w 57 0 = 0) (.beat t)
  | 0x0A => need (wf w 49 0 = 0 && wf w 57 50 != 0) (.fence t (BitVec.ofNat 8 (wf w 57 50)))
  | 0x0B => need (wf w 32 0 = 0 && wf w 48 33 != 0) (.sig t { tgt := wf w 57 49, fmask := BitVec.ofNat 16 (wf w 48 33) })
  | 0x0C => need (wf w 39 0 = 0 && wf w 57 42 != 0)
      (.waitf t { fmask := BitVec.ofNat 16 (wf w 57 42), any := wbit w 41, clr := wbit w 40 })
  | 0x0D =>
    let f : LoopF := { k := wf w 57 55, src := wbit w 54, count := wf w 53 30, fin := wf w 29 17 }
    need (wf w 16 0 = 0 && (!f.src || f.count == 0)) (.loop t f)
  | 0x0E => need (wf w 57 0 = 0) (.endl t)
  | 0x0F =>
    let f : JmpF := { cond := wf w 57 55, k := wf w 54 52, pop := wf w 51 49, target := wf w 48 36,
                      fmask := BitVec.ofNat 16 (wf w 35 20) }
    need (wf w 19 0 = 0 && decide (f.cond < 6) && decide (f.pop < 5) &&
      (f.cond == 1 || f.cond == 2 || f.cond == 5 || f.k == 0) &&
      ((f.cond == 3 || f.cond == 4) == (f.fmask != 0))) (.jmp t f)
  | 0x10 => need (wf w 57 0 = 0) (.halt t)
  | 0x11 =>
    let f : SetaF := { ad := wf w 57 53, mode := wf w 52 51, as := wf w 50 46, imm := BitVec.ofNat 16 (wf w 45 30),
                       ext := if wf w 52 51 = 0 then BitVec.ofNat 48 (wf x 47 0) else 0 }
    need (wf w 29 0 = 0 && f.mode != 3 && (f.mode != 0 || (f.as == 0 && f.imm == 0 && wf x 63 48 == 0))) (.seta t f)
  | 0x12 =>
    let f : AddaF := { ad := wf w 57 53, mode := wf w 52 51, as := wf w 50 46, at' := wf w 45 41, k := wf w 40 38,
                       imm := BitVec.ofNat 16 (wf w 37 22) }
    need (wf w 21 0 = 0 && f.mode != 3 && (if f.mode = 2 then f.at' == 0 else f.k == 0 && f.imm == 0)) (.adda t f)
  | 0x13 =>
    let f : SetkF := { kd := wf w 57 55, mode := wf w 54 53, ks := wf w 52 50, as := wf w 49 45,
                       imm := BitVec.ofNat 24 (wf w 44 21) }
    need (wf w 20 0 = 0 && (f.mode == 1 || f.ks == 0) && (decide (2 ≤ f.mode) || f.as == 0) &&
      (decide (f.mode < 2) || f.imm == 0)) (.setk t f)
  | 0x14 => need (wf w 20 0 = 0 && wf w 52 21 != 0) (.tag t { ac := wf w 57 53, bmask := BitVec.ofNat 32 (wf w 52 21) })
  | 0x15 =>
    let f : StatF := { ad := wf w 57 53, site := wf w 52 43, ns := wf w 42 37 + 1, clr := wbit w 36 }
    need (wf w 35 0 = 0 && decide (f.site + f.ns ≤ 1024)) (.stat t f)
  | op =>
    if op = 0x03 ∨ op = 0x04 then
      let f : PassF := { as := wf w 57 53, vs := wf w 52 41, vcnt := wf w 40 28, wb := wf w 27 19, wc := wf w 18 10 + 1,
                         pi := wf w 9 7, rnd := if wbit w 6 then .sr else .rne, wit := wbit w 5, seed := wf w 4 2 }
      need (wf w 1 0 = 0 && decide (1 ≤ f.vcnt) && decide (f.vcnt ≤ 7455) && f.pi != 7 &&
        (decide (f.pi ≤ 3) || decide (f.vcnt ≤ f.wc)))
        (if op = 0x03 then .pass t f else .passt t f)
    else .error 0x01

/-! ### Views (R122 to R124) -/

structure View where
  cnt : List Nat
  str : List Int
  trp : Bool
  reserved : Bool
deriving DecidableEq, Repr, Inhabited

def viewOf (w0 w1 : W64) : View :=
  { cnt := [wf w0 35 24 + 1, wf w0 63 52 + 1, wf w1 35 24 + 1, wf w1 63 52 + 1],
    str := [(BitVec.ofNat 16 (wf w0 23 8)).toInt, (BitVec.ofNat 16 (wf w0 51 36)).toInt,
            (BitVec.ofNat 16 (wf w1 23 8)).toInt, (BitVec.ofNat 16 (wf w1 51 36)).toInt],
    trp := wbit w0 0, reserved := wf w0 7 1 != 0 || wf w1 7 0 != 0 }

/-- View slot `k` of tile `i`: two words of the instruction store (R119). -/
def State.view (s : State) (i k : Nat) : View := viewOf (s.istWord i (2 * k)) (s.istWord i (2 * k + 1))

def View.units (v : View) : Nat := (v.cnt.getD 0 1) * (v.cnt.getD 1 1) * (v.cnt.getD 2 1) * (v.cnt.getD 3 1)

/-- Displacement, in view units, of the `n`-th unit of the walk (R124). -/
def View.at (v : View) (n : Nat) : Int :=
  let c0 := v.cnt.getD 0 1
  let c1 := v.cnt.getD 1 1
  let c2 := v.cnt.getD 2 1
  let o := n % (c0 * c1)
  let r := n / (c0 * c1)
  let i2 := r % c2
  let i3 := r / c2
  let (i0, i1) := if v.trp then (o / c1, o % c1) else (o % c0, o / c0)
  i0 * v.str.getD 0 0 + i1 * v.str.getD 1 0 + i2 * v.str.getD 2 0 + i3 * v.str.getD 3 0

/-- The views of an instruction: address register, slot, unit size and number of units (R123). -/
def viewsOf : Instr → List (Nat × Nat × Nat × Nat)
  | .latch _ f =>
    [(f.as, f.vs, plateSize f.blk f.fmt,
      if f.blk then ((f.rows + 31) / 32) * ((f.cols + 31) / 32) else f.cols)]
  | .pass _ f => [(f.as, f.vs, 272, f.vcnt + 255)]
  | .passt _ f => [(f.as, f.vs, 272, f.vcnt + 255)]
  | .drain _ f =>
    let c := cwOf f.cw
    let d := if f.ofmt = 0 then (f.ad, f.vd, 1024, f.wc)
      else if f.ofmt = 1 then (f.ad, f.vd, 512, f.wc)
      else if c.square then (f.ad, f.vd, squarePlateSize c.fmt, f.wc / 32 * 8)
      else (f.ad, f.vd, linePlateSize c.fmt, (f.wc + (if f.half then 1 else 0) + 1) / 2)
    d :: (if f.aie then [(f.aa, f.va, if f.afmt then 512 else 1024, f.wc)] else [])
  | _ => []

def storeBytes : Nat := 0x200000

/-- Value of an address register; a0 reads 0 (R117). -/
def Tile.areg (t : Tile) (n : Nat) : Addr := if n = 0 then 0 else t.a.get n
def Tile.setA (t : Tile) (n : Nat) (v : Addr) : Tile := if n = 0 then t else { t with a := t.a.set n v }
def Tile.kreg (t : Tile) (n : Nat) : BitVec 24 := t.k.get n
def Tile.setK (t : Tile) (n : Nat) (v : BitVec 24) : Tile := { t with k := t.k.set n v }

/-- Offsets of the first `n` units of a view, exact (R124). -/
def viewOffs (v : View) (base : Addr) (unit n : Nat) : List Int :=
  (List.range n).map fun k => ((base.toNat / 16 * 16 : Nat) : Int) + v.at k * unit

/-- The lowest byte of a unit that does not lie in the store (R164); one below it counts modulo 2^48. -/
def lowestBad (offs : List Int) (unit : Nat) : Option Nat :=
  let bad := offs.filter fun (o : Int) => decide (o < 0) || decide ((storeBytes : Int) < o + unit)
  if bad = [] then none
  else some ((bad.map fun (o : Int) => if o < 0 then (o % (2 ^ 48 : Nat)).toNat else max o.toNat storeBytes).foldl min (2 ^ 48))

/-- A base register with bits above bit 20 is refused, wherever the access lies (R159): the offending offset is that of
the access, or the base where the access lies in the store. -/
def baseBad (base : Nat) (o : Option Nat) : Option Nat := if storeBytes ≤ base then some (o.getD base) else o

/-- Offsets of a view of tile `i`, or the offending offset (VIEW_RANGE). -/
def State.walkView (s : State) (i areg slot unit n : Nat) : Except Nat (List Nat) :=
  let base := (s.tile i).areg areg
  let offs := viewOffs (s.view i slot) base unit n
  match baseBad base.toNat (lowestBad offs unit) with
  | some o => .error o
  | none => .ok (offs.map Int.toNat)

/-- A plain byte range of the store: the first byte outside it, if any. -/
def rangeBad (off n : Nat) : Option Nat :=
  if off + n ≤ storeBytes then none else some (max off storeBytes)

/-! ### Load results (R156) -/

/-- Address registers and counters that an instruction reads. -/
def regReads : Instr → List Nat × List Nat
  | .latch _ f => ([f.as], [])
  | .pass _ f => ([f.as], [])
  | .passt _ f => ([f.as], [])
  | .drain _ f => ([f.ad] ++ (if f.aie then [f.aa] else []) ++ (if (cwOf f.cw).supplied then [f.sa] else []), [])
  | .chain _ f => ([f.ad], [])
  | .kick _ f => ([f.ad], if f.ks then [f.ki] else [])
  | .tag _ f => ([f.ac], [])
  | .stat _ f => ([f.ad], [])
  | .loop _ f => ([], if f.src then [f.k] else [])
  | .jmp _ f => ([], if f.cond = 1 ∨ f.cond = 2 ∨ f.cond = 5 then [f.k] else [])
  | .seta _ f => (if f.mode = 0 then [] else [f.as], [])
  | .adda _ f => if f.mode = 2 then ([f.as], [f.k]) else ([f.as, f.at'], [])
  | .setk _ f => (if 2 ≤ f.mode then [f.as] else [], if f.mode = 1 then [f.ks] else [])
  | _ => ([], [])

/-- The register that an instruction loads from the store: a counter or an address register, and its number. -/
def regLoad : Instr → Option (Bool × Nat)
  | .seta _ f => if f.mode = 2 ∧ f.ad ≠ 0 then some (false, f.ad) else none
  | .setk _ f => if f.mode = 2 then some (true, f.kd) else none
  | _ => none

/-- An instruction reads a register loaded by one of the last: it waits for the result. An ENDL reads the counter of the
top of the loop stack. -/
def Tile.waitsLoad (t : Tile) (c : Instr) : Bool :=
  let (a, k) := regReads c
  let k := match c, t.loops with
    | .endl _, l :: _ => [l.k]
    | _, _ => k
  t.loads.any fun (isK, r, _) => if isK then k.contains r else r ≠ 0 && a.contains r

/-- The loads whose results may still be outstanding after `c` has issued: a load is over 4 cy after its issue, at most
one instruction issues in a cycle, and an instruction that waited for one load waited for those before it. -/
def Tile.loadsAfter (t : Tile) (c : Instr) : List (Bool × Nat × Nat) :=
  let l := if t.waitsLoad c then [] else (t.loads.map fun (b, r, n) => (b, r, n + 1)).filter fun e => e.2.2 < 3
  match regLoad c with
  | some (b, r) => l ++ [(b, r, 0)]
  | none => l

/-! ### Checks of a job start (R126) -/

/-- Addresses of the first words of the instructions of a code of `n` words. -/
def firstWords (word : Nat → W64) (n : Nat) : Nat → Nat → List Nat
  | 0, _ => []
  | fuel + 1, k => if n ≤ k then [] else k :: firstWords word n fuel (k + wordsOf (word k))

/-- Causes that one instruction at word `k` fails. -/
def instrCauses (word : Nat → W64) (n : Nat) (firsts : List Nat) (k : Nat) : List Nat :=
  let w := word k
  let straddle := wordsOf w = 2 ∧ n ≤ k + 1
  let d := decodeTile 0 w (if straddle then 0 else word (k + 1))
  match d with
  | .error e => [e]
  | .ok i =>
    let tgt := match i with
      | .jmp _ f => if firsts.contains f.target then [] else [0x03]
      | .loop _ f => if k < f.fin ∧ firsts.contains f.fin ∧ wf (word f.fin) 63 58 = 0x0E then [] else [0x03]
      | _ => []
    let vs := (viewsOf i).flatMap fun (_, slot, _, need) =>
      let v := viewOf (word (2 * slot)) (word (2 * slot + 1))
      (if slot < (n + 1) / 2 || v.reserved then [0x04] else []) ++ (if v.units < need then [0x05] else [])
    tgt ++ vs ++ (if straddle then [0x06] else [])

/-- The first failing word and its lowest cause, for a tile of a job program (R126). -/
def checkCode (word : Nat → W64) (entry n : Nat) : Option (Nat × Nat) :=
  let firsts := firstWords word n 8192 0
  let bad := firsts.filterMap fun k =>
    match instrCauses word n firsts k with
    | [] => none
    | c :: cs => some (k, cs.foldl min c)
  let ent := if n = 0 then (if entry = 0 then [] else [(entry, 3)])
    else if firsts.contains entry then [] else [(entry, 3)]
  (bad ++ ent).foldl (fun a (k, c) => match a with
    | none => some (k, c)
    | some (k', c') => if k < k' ∨ (k = k' ∧ c < c') then some (k, c) else a) none

end Sys2Proof.Machine

namespace Sys2Proof
open Machine

def TileProg.word (p : TileProg) (k : Nat) : W64 := p.words.get k

/-- Some word of the code is a CHAIN. -/
def TileProg.chains (p : TileProg) : Bool :=
  (firstWords p.word p.codeEnd 8192 0).any fun k => wf (p.word k) 63 58 = 0x07

end Sys2Proof
end

