-- ==== Sys2Proof/Machine/Array.lean ====
section
/-! DEFINITION. The grain array: latches (R65 to R68), segment partials (R73, R74, R96, R97), the running
sum (R98 to R100), promotion (R101, R102) and the witness (R79, R80). -/

namespace Sys2Proof.Machine
open Sys2Proof

/-! ### Latch contents (R67, R68, R128) -/

/-- The element that a LATCH places in cell (k, n); `none` is an element without a value. -/
def latchElem (rd : Nat → Byte) (f : LatchF) (offs : List Nat) (k n : Nat) : Option Int :=
  if f.blk then
    let off := offs.getD (k / 32 * ((f.cols + 31) / 32) + n / 32) 0
    let (r, c) := if f.trd then (n % 32, k % 32) else (k % 32, n % 32)
    match scaleExp (rd off) with
    | none => none
    | some _ => codeOf f.fmt (patternAt f.fmt (fun b => rd (off + 16 + b)) (32 * r + c))
  else
    let off := offs.getD n 0
    let e := (if f.half then 256 else 0) + k
    let pat := fun j => patternAt f.fmt (fun b => rd (off + 16 + b)) j
    match scaleExp (rd (off + e / 32)) with
    | none => none
    | some _ =>
      if f.fmt = .b2 ∧ (List.range 32).any (fun j => pat (e / 32 * 32 + j) = 2) then none
      else codeOf f.fmt (pat e)

/-- The exponent store of a latch: grid blocks for square plates, segments of columns for line plates. -/
def latchExps (rd : Nat → Byte) (f : LatchF) (offs : List Nat) : Tab Int :=
  let ent (key : Nat) (b : Byte) : Option (Nat × Int) :=
    match scaleExp b with
    | some e => if e = -126 then none else some (key, e)
    | none => none
  if f.blk then
    (List.range 64).filterMap fun g =>
      if g / 8 < (f.rows + 31) / 32 ∧ g % 8 < (f.cols + 31) / 32 then
        ent g (rd (offs.getD (g / 8 * ((f.cols + 31) / 32) + g % 8) 0))
      else none
  else
    (List.range (8 * f.cols)).filterMap fun x =>
      if x % 8 * 32 < f.rows then ent x (rd (offs.getD (x / 8) 0 + (if f.half then 8 else 0) + x % 8)) else none

/-- What a LATCH writes into the shadow latch. -/
def loadLatch (rd : Nat → Byte) (j : LatchJob) : Latch :=
  let cells := (List.range j.f.rows).flatMap fun k => (List.range j.f.cols).map fun n =>
    (256 * k + n, latchElem rd j.f j.offs k n)
  { fmt := j.f.fmt, square := j.f.blk, rows := j.f.rows, cols := j.f.cols,
    codes := cells.filterMap fun (i, c) => match c with | some v => if v = 0 then none else some (i, v) | none => none,
    noval := cells.filterMap fun (i, c) => match c with | some _ => none | none => some i,
    exps := latchExps rd j.f j.offs }

/-- A PASST is legal on a latch loaded from square plates in B4 or B8 (R72). -/
def Latch.turnable (l : Latch) : Bool := l.square && (l.fmt == .b4 || l.fmt == .b8)

/-! ### Streamed vectors (R51, R74) -/

/-- Element `k` of vector `v` of a skewed run whose rows start at `rows`. -/
def runElem (rd : Nat → Byte) (rows : List Nat) (v k : Nat) : Option Int :=
  match scaleExp (rd (rows.getD (v + k / 32 * 32) 0 + k / 32)) with
  | none => none
  | some _ => codeOf .b8 (rd (rows.getD (v + k) 0 + 16 + k)).toNat

/-- Streamed exponent of segment `s` of vector `v`. -/
def runExp (rd : Nat → Byte) (rows : List Nat) (v s : Nat) : Int :=
  (scaleExp (rd (rows.getD (v + 32 * s) 0 + s))).getD 0

/-- A vector as the array sees it: 256 elements. -/
def runVec (rd : Nat → Byte) (rows : List Nat) (v : Nat) : List (Option Int) :=
  (List.range 256).map fun k => runElem rd rows v k

/-! ### Segment partials (R73) -/

/-- Lane and streamed index of cell `i` in an orientation (R71). -/
def laneOf (trans : Bool) (i : Nat) : Nat := if trans then i / 256 else i % 256
def streamOf (trans : Bool) (i : Nat) : Nat := if trans then i % 256 else i / 256

/-- Stationary exponent of lane `j`, segment `s`. -/
def Latch.expOf (l : Latch) (trans : Bool) (j s : Nat) : Int :=
  Tab.getD (-126) l.exps
    (if l.square then (if trans then 8 * (j / 32) + s else 8 * s + j / 32) else 8 * j + s)

/-- One partial: its value and whether it is poisoned. -/
def partialOf (l : Latch) (trans : Bool) (x : List (Option Int)) (j s : Nat) : Int × Bool :=
  let p := (l.codes.filter fun c => laneOf trans c.1 = j ∧ streamOf trans c.1 / 32 = s).foldl
    (fun a c => a + c.2 * ((x.getD (streamOf trans c.1) none).getD 0)) 0
  let bad := l.noval.any (fun i => laneOf trans i = j ∧ streamOf trans i / 32 = s) ||
    (List.range 32).any fun k => (x.getD (32 * s + k) none).isNone
  (p, bad)

/-! ### The running sum (R99, R100) -/

/-- Add one partial; answers the running sum, the generator, and the renormalisations. -/
def addPartial (rnd : Rnd) (r : RunSum) (g : W32) (p f : Int) (bad : Bool) : RunSum × W32 × Nat :=
  let r := { r with poison := r.poison || bad }
  if p = 0 then (r, g, 0)
  else if r.empty then ({ r with empty := false, m := p, e := f }, g, 0)
  else
    let lo := min r.e f
    let t := r.m * (2 ^ (r.e - lo).toNat : Nat) + p * (2 ^ (f - lo).toNat : Nat)
    let e1 := max r.e f
    let (u, g) := match rnd with | .rne => (0, g) | .sr => genDraw g
    let m := roundDiv rnd t (e1 - lo).toNat u
    if 2097151 < m ∨ m < -2097152 then
      ({ r with m := roundDiv rnd t (e1 + 1 - lo).toNat u, e := e1 + 1 }, g, 1)
    else ({ r with m := m, e := e1 }, g, 0)

/-! ### Promotion (R102) -/

/-- Promote a running sum into an element; the third component counts a non-finite result (R115). -/
def promoteElem (rnd : Rnd) (r : RunSum) (w : W32) (g : W32) : W32 × W32 × Nat :=
  if r.empty then (w, g, 0)
  else if f32IsInf w then (w, g, 1)
  else
    let v := (f32Val w).add ⟨r.m, r.e⟩
    if v.m = 0 then (0, g, 0)
    else
      let (x, g) := match rnd with
        | .rne => (f32Rne v, g)
        | .sr => let (u, g) := genDraw g; (f32Sr v u, g)
      (x, g, if f32Finite x then 0 else 1)

/-- What a promotion or a run of partials leaves: generators, counts of R115. -/
structure ArrAcc where
  gens : Tab W32
  renorm : Nat := 0
  nonfin : Nat := 0
deriving DecidableEq, Repr, Inhabited

/-- Lane `j`: the partials of segments `segs` of vector `x` go into the running sum `r`. `err` disturbs
the first of them. -/
def sumLane (l : Latch) (trans : Bool) (rnd : Rnd) (x : List (Option Int)) (es : Nat → Int) (segs : List Nat)
    (j : Nat) (err : Int) (r : RunSum) (a : ArrAcc) : RunSum × ArrAcc :=
  let (r, g, n) := segs.foldl (fun (r, g, n) s =>
      let (p, bad) := partialOf l trans x j s
      let p := if segs.head? = some s then p + err else p
      let (r, g, k) := addPartial rnd r g p (es s + l.expOf trans j s) bad
      (r, g, n + k)) (r, genOf a.gens j, 0)
  (r, { a with gens := setGen a.gens j g, renorm := a.renorm + n })

/-- Promote the running sums of all lanes into a well. -/
def promoteWell (rnd : Rnd) (sums : Tab RunSum) (w : Well) (a : ArrAcc) : Well × ArrAcc :=
  sums.foldl (fun (w, a) (j, r) =>
    let (v, g, k) := promoteElem rnd r (w.vals.get j) (genOf a.gens j)
    ({ vals := w.vals.set j v, poison := if r.poison then w.poison ||| (1#256 <<< j) else w.poison },
     { a with gens := setGen a.gens j g, nonfin := a.nonfin + k })) (w, a)

/-- The running sums of the 256 lanes after the partials of `segs`. -/
def sumLanes (l : Latch) (trans : Bool) (rnd : Rnd) (x : List (Option Int)) (es : Nat → Int) (segs : List Nat)
    (e : CellErr) (sums : Tab RunSum) (a : ArrAcc) : Tab RunSum × ArrAcc :=
  (List.range 256).foldl (fun (t, a) j =>
    let (r, a) := sumLane l trans rnd x es segs j (if e.lane = j then e.main else 0) (sums.get j) a
    (t.set j r, a)) ([], a)

/-! ### The witness (R79, R80) -/

/-- S_k, or T_n in transposed orientation: the sum of the latched codes that streamed element `k` meets. -/
def Latch.witSum (l : Latch) (trans : Bool) (k : Nat) : Int :=
  (l.codes.filter fun c => streamOf trans c.1 = k).foldl (fun a c => a + c.2) 0

/-- sm and sw of a check point. -/
def checkSums (l : Latch) (trans : Bool) (x : List (Option Int)) (segs : List Nat) : Int × Int :=
  ((segs.map fun s => ((List.range 256).map fun j => (partialOf l trans x j s).1).sum).sum,
   (segs.map fun s => ((List.range 32).map fun k =>
      ((x.getD (32 * s + k) none).getD 0) * l.witSum trans (32 * s + k)).sum).sum)

def mod16 (v : Int) : W16 := BitVec.ofInt 16 v

/-- Check points per vector (R80) and the segments of check point `i` of a pass. -/
def PassRun.interval (p : PassRun) : Nat := 2 ^ p.f.pi
def PassRun.perVec (p : PassRun) : Nat := if p.interval ≤ 8 then 8 / p.interval else 1
def PassRun.points (p : PassRun) : Nat := p.f.vcnt * p.perVec
def PassRun.segsOf (p : PassRun) (i : Nat) : List Nat :=
  if p.interval ≤ 8 then (List.range p.interval).map fun s => i % p.perVec * p.interval + s else List.range 8
/-- Target well of vector `v` (R105, R131). -/
def PassRun.wellOf (p : PassRun) (v : Nat) : Nat := (p.f.wb + v % p.f.wc) % 512
/-- Wells named by the pass. -/
def PassRun.wells (p : PassRun) : List Nat := (List.range (min p.f.vcnt p.f.wc)).map p.wellOf

end Sys2Proof.Machine
end

