-- ==== Sys2Proof/Machine/Xlate.lean ====
section
/-! DEFINITION. Translation and protection (R22, R28 to R30, R248 to R254, R541), integrity tags and
encryption (R447 to R450, R477, R478), and accesses by ward virtual address. -/

namespace Sys2Proof.Machine
open Sys2Proof

/-! ### Page tables (R249) -/

/-- A leaf entry as found by the walk. -/
structure Leaf where
  pa : Nat
  kslot : Nat
  alloc : Bool
  prog : Bool
  wr : Bool
  rd : Bool
deriving DecidableEq, Repr, Inhabited

/-- Reserved bits of a leaf entry. -/
def leafReserved (e : Nat) : Bool := field e 49 48 != 0 || field e 16 6 != 0

def mkLeaf (e pa : Nat) : Leaf :=
  { pa := pa, kslot := field e 63 50, alloc := field e 5 5 = 1, prog := field e 4 4 = 1,
    wr := field e 3 3 = 1, rd := field e 2 2 = 1 }

/-- The walk of R249; `none` is ST_TRANSLATION. -/
def Ward.walk (w : Ward) (va : Nat) : Option Leaf :=
  let e := (w.l1.get (va / 2 ^ 30)).toNat
  if e % 2 = 0 ∨ 2 ^ 48 ≤ va then none
  else if field e 1 1 = 1 then
    if leafReserved e || field e 25 17 != 0 then none
    else some (mkLeaf e (field e 47 17 * 2 ^ 21 + va % 2 ^ 30))
  else
    let t := field e 27 14
    if e ≠ t * 2 ^ 14 + 1 ∨ 15871 < t then none
    else
      let e2 := (w.l2.get (t * 512 + va / 2 ^ 21 % 512)).toNat
      if e2 % 2 = 0 || field e2 1 1 = 0 || leafReserved e2 then none
      else some (mkLeaf e2 (field e2 47 17 * 2 ^ 21 + va % 2 ^ 21))

/-! ### Allocation units (R253) -/

/-- Hot-cache chunks; 0 selects a quarter of the mappable stack tier of the ward's dies (R304, R327). -/
def Ward.hotChunks (w : Ward) : Nat :=
  let v := w.reg oAdpHotSize
  if v = 0 then ((w.dieList.map fun n => 147819 - (if n = 0 then 1908 else 0)).sum) / 4 else v

/-- The owner of the allocation unit at `va`: `none` outside the three ranges, `some 0` for no owner. -/
def Ward.unitOwner (w : Ward) (va : Nat) : Option Nat :=
  let d := va - w.poolBase
  if w.poolBase ≤ va ∧ 0 < w.frame ∧ d / 2 ^ 39 < 8 ∧ w.holds (d / 2 ^ 39) ∧
      d % 2 ^ 39 / w.frame < w.nblk then
    let b := w.blocks.get (d % 2 ^ 39 / w.frame)
    some (if b.st = 0 then 0 else b.ctx)
  else if w.hotBase ≤ va ∧ (va - w.hotBase) / 2 ^ 21 < w.hotChunks then
    some (w.hotOwner.get ((va - w.hotBase) / 2 ^ 21))
  else if w.spillBase ≤ va ∧ (va - w.spillBase) / 2 ^ 21 < w.spillChunks then
    some (w.spillOwner.get ((va - w.spillBase) / 2 ^ 21))
  else none

/-! ### Key slots (R252, R541) -/

/-- R541: the slot is retired for ward `w`. -/
def State.slotRetired (s : State) (w slot : Nat) : Bool :=
  let x := s.slot slot
  match x.st with
  | .live => x.ward != w
  | .ward => x.ward != w
  | _ => true

/-- The contexts that own a page keyed by `slot`; empty is owner 0. -/
def State.slotMembers (s : State) (slot : Nat) : List Nat :=
  let x := s.slot slot
  if x.st = .live then x.members else []

/-! ### The checks of R251 -/

inductive LocKind where
  | stack | store | host | peer
deriving DecidableEq, Repr, Inhabited

/-- Where an access goes: module physical address (for the store tier the tile and the offset in its
window), and the key slot that encrypts it. -/
structure Loc where
  kind : LocKind
  pa : Nat
  slot : Nat
  tile : Nat := 0
deriving DecidableEq, Repr, Inhabited

/-- Tile windows of a fenced tile are redirected to the spare that took its role (R86). -/
def Ward.redirect (w : Ward) (i : Nat) : Nat :=
  match w.job with
  | none => i
  | some j => let r := j.remaps.get i; if r = 0 then i else r - 1

/-- The ward has a peer ward on logical identity `m`: its job spans that module (R29, R417). -/
def Ward.hasPeer (w : Ward) (m : Nat) : Bool :=
  match w.job with
  | some j => j.prog.modules.contains m
  | none => false

/-- The owner's rule of R252. -/
def ownerAllows (owners : List Nat) (c : Nat) (wr : Bool) : Bool :=
  if wr then (if owners = [] then c = 0 else owners.contains c)
  else owners = [] || owners.contains c

/-- Checks 4, 5 and 7 for a store-tier address. -/
def State.checkStore (s : State) (w c : Nat) (l : Leaf) (wr : Bool) : Except St Loc :=
  let i0 := (l.pa - 2 ^ 42) / 2 ^ 22
  let off := l.pa % 2 ^ 22
  let x := s.ward w
  if !x.holds (i0 / 64) then .error .protection
  else if !(decide (off < 0x200000) || (decide (0x300000 ≤ off) && decide (off < 0x310000))) then .error .translation
  else
    let i := x.redirect i0
    if (s.tile i).health = .fenced then .error .witnessFence
    else if 0x300000 ≤ off then
      (if wr then .error .protection else .ok ⟨.store, tileBase i + off, 0, i⟩)
    else
      let tag := ((s.tile i).tags.get (off / 2 ^ 16)).toNat
      if ownerAllows (if tag = 0 then [] else [tag]) c wr then .ok ⟨.store, tileBase i + off, 0, i⟩
      else .error .protection

/-- Checks 6 and 7 for a page outside the store tier. -/
def State.checkKeyed (s : State) (w c va : Nat) (l : Leaf) (wr : Bool) (kind : LocKind) : Except St Loc :=
  let x := s.ward w
  if l.alloc then
    match x.unitOwner va with
    | none => .error .translation
    | some 0 => .error .protection
    | some o =>
      let slot := (x.registry.get o).kslot
      if s.slotRetired w slot then .error .keyRetired
      else if ownerAllows [o] c wr then .ok ⟨kind, l.pa, slot, 0⟩ else .error .protection
  else if s.slotRetired w l.kslot then .error .keyRetired
  else if ownerAllows (s.slotMembers l.kslot) c wr then .ok ⟨kind, l.pa, l.kslot, 0⟩
  else .error .protection

/-- Checks 1 and 2, and the part of check 1 that R253 adds. -/
def State.checkLeaf (s : State) (w va : Nat) (wr : Bool) : Except St Leaf :=
  let x := s.ward w
  match x.walk va with
  | none => .error .translation
  | some l =>
    if l.alloc && (l.kslot != x.keySlot || (x.unitOwner va).isNone) then .error .translation
    else if (if wr then l.wr else l.rd) then .ok l
    else .error .protection

/-- A stack-tier address of the ward's own dies. -/
def State.checkStack (s : State) (w : Nat) (pa : Nat) : Except St Unit :=
  let n := pa / 2 ^ 39
  if !(s.ward w).holds n then .error .protection
  else if dieBytes ≤ pa % 2 ^ 39 ∨ (n = 0 ∧ carveOut ≤ pa) then .error .translation
  else .ok ()

/-- The stack-tier page to which an address of a peer ward leads (R29): a page of any other kind, and one on a die that the
ward does not hold or in the carve-out, answers ST_TRANSLATION. -/
def State.peerLeaf (s : State) (w va : Nat) (wr : Bool) : Except St Leaf :=
  match s.checkLeaf w va wr with
  | .error e => .error e
  | .ok l => match isStack l.pa, s.checkStack w l.pa with
    | true, .ok _ => .ok l
    | _, _ => .error .translation

/-- R251 for one access of ward `w` under context `c`; `port` is the port of the issuing host-port
channel, `none` for a die channel or the developer. -/
def State.xlate (s : State) (w c va : Nat) (wr : Bool) (port : Option Nat := none) : Except St Loc :=
  match s.checkLeaf w va wr with
  | .error e => .error e
  | .ok l =>
    if isStack l.pa then
      match s.checkStack w l.pa with
      | .error e => .error e
      | .ok _ => s.checkKeyed w c va l wr .stack
    else if l.pa < 2 ^ 42 + 512 * 2 ^ 22 then s.checkStore w c l wr
    else if 2 ^ 48 ≤ l.pa ∧ l.pa < 2 ^ 49 then
      if field l.pa 47 47 ≠ (port.getD (s.ward w).port) ∨ field l.pa 47 47 ≠ (s.ward w).port then .error .translation
      else s.checkKeyed w c va l wr .host
    else if 2 ^ 50 ≤ l.pa ∧ l.pa < 2 ^ 50 + 2 ^ 48 then
      let m := field l.pa 47 42
      if m = s.linkAddr ∧ s.standby = false then
        -- the module's own identity: the page's own slot, then the ward's own tables again (R29)
        match s.checkKeyed w c va l wr .peer with
        | .error e => .error e
        | .ok _ => match s.peerLeaf w (field l.pa 41 0) wr with
          | .error e => .error e
          | .ok l2 => s.checkKeyed w c (field l.pa 41 0) l2 wr .stack
      else if (s.ward w).hasPeer m then s.checkKeyed w c va l wr .peer
      else .error .translation
    else .error .translation

/-! ### Integrity tags (R448, R449, R477, R478) -/

/-- The stack of a stack-tier address: 2 KiB granules rotate across the die's four stacks (R26). -/
def stackOf (pa : Nat) : Nat := 4 * (pa / 2 ^ 39) + pa / 2048 % 4

def Hbm.enlist (h : Hbm) (sec : Nat) : Hbm :=
  if h.list.contains sec then h
  else if h.list.length < 4096 then { h with list := h.list ++ [sec] }
  else { h with overflow := true }

/-- The sector takes a poison tag under key `key` and is listed. -/
def State.poisonSec (s : State) (sec key : Nat) : State :=
  { s with secTags := s.secTags.set sec { kind := .poison, key := key } }.modHbm (stackOf (sec * 256)) fun h => h.enlist sec

/-- The record of an uncorrectable read or a tag mismatch (R486). -/
def State.hbmRecord (s : State) (cls sec ward ctx : Nat) : State :=
  let st := stackOf (sec * 256)
  let listed := (s.hbms.get st).list.contains sec
  s.report { cls := cls, scope := if ctx = 0 then 4 else 2, status := St.poison.code, ward := ward, ctx := ctx,
             unit := 9, die := st / 4, idx := st % 4, src := 3, akind := 1, addr := BitVec.ofNat 64 (sec * 256),
             detail := BitVec.ofNat 128 (sec + st * 2 ^ 48 + (if listed then 2 ^ 63 else 0)) }

/-- What a read of a sector gives. -/
inductive SecRead where
  | data | zeros | poison
deriving DecidableEq, Repr, Inhabited

/-- Check of a sector's tag on a read under key `key` (R449), with the report of the HBM (R477). -/
def State.readTag (s : State) (sec key ward ctx : Nat) (uncorr : Bool) : State × SecRead :=
  let t := s.secTags.get sec
  if uncorr then
    let s := (s.poisonSec sec key).modHbm (stackOf (sec * 256)) fun h => { h with uncorr := incSat h.uncorr }
    (s.hbmRecord 6 sec ward ctx, .poison)
  else if t = default then (s, .data)
  else if t.key = key then
    match t.kind with
    | .plain => (s, .data)
    | .poison => (s, .poison)
    | .fresh => (s, .zeros)
  else
    let s := { s with sec := { s.sec with integrity := incSat s.sec.integrity } }
    let s := (s.poisonSec sec key).modHbm (stackOf (sec * 256)) fun h => { h with tag := incSat h.tag }
    (s.hbmRecord 7 sec ward ctx, .poison)

/-- A write within one sector (R478, R449). -/
def State.writeSec (s : State) (key pa : Nat) (bs : List Byte) (ward ctx : Nat) : State :=
  let sec := pa / 256
  if bs.length = 256 then
    ({ s with secTags := s.secTags.set sec { kind := .plain, key := key } }.modHbm (stackOf pa)
      fun h => { h with list := h.list.filter (· ≠ sec) }).wrBytes pa bs
  else
    let (s, r) := s.readTag sec key ward ctx false
    match r with
    | .data => { s with secTags := s.secTags.set sec { kind := .plain, key := key } }.wrBytes pa bs
    | .zeros => ({ s with secTags := s.secTags.set sec { kind := .plain, key := key } }.clearRange (sec * 256) 256).wrBytes pa bs
    | .poison => s.wrBytes pa bs

/-! ### Host-tier lines (R450) -/

/-- A host-tier page is encrypted when its slot is LIVE, or in the spill area. -/
def State.hostKeyed (s : State) (slot : Nat) : Bool := (s.slot slot).st == .live

def State.rdHost (s : State) (slot pa n : Nat) : List Byte :=
  if s.hostKeyed slot then
    (List.range n).map fun k =>
      let a := pa + k
      (Config.xtsDec (s.slot slot).key (a / 64) (s.rdBytes (a / 64 * 64) 64)).getD (a % 64) 0
  else s.rdBytes pa n

/-- One line of a keyed page: read, merge, write. -/
def State.wrHostLine (s : State) (slot line : Nat) (upd : List (Nat × Byte)) : State :=
  let k := (s.slot slot).key
  let old := Config.xtsDec k line (s.rdBytes (line * 64) 64)
  let new := (List.range 64).map fun i => match upd.find? fun u => u.1 = i with
    | some u => u.2
    | none => old.getD i 0
  s.wrBytes (line * 64) ((List.range 64).map fun i => (Config.xtsEnc k line new).getD i 0)

def State.wrHost (s : State) (slot pa : Nat) (bs : List Byte) : State :=
  if s.hostKeyed slot then
    forEach (List.range ((pa % 64 + bs.length + 63) / 64)) s fun s j =>
      let line := pa / 64 + j
      s.wrHostLine slot line ((bs.zipIdx).filterMap fun (b, k) =>
        if (pa + k) / 64 = line then some ((pa + k) % 64, b) else none)
  else s.wrBytes pa bs

/-! ### Accesses by ward virtual address -/

/-- Pieces of a byte range that do not cross a 256-byte boundary. -/
def pieces (va n : Nat) : List (Nat × Nat) :=
  if n = 0 then []
  else (List.range ((va % 256 + n + 255) / 256)).map fun j =>
    let lo := max va (va / 256 * 256 + 256 * j)
    let hi := min (va + n) (va / 256 * 256 + 256 * j + 256)
    (lo, hi - lo)

/-- A byte range cut at multiples of `g`: start and length. -/
def cuts (g p n : Nat) : List (Nat × Nat) :=
  if n = 0 then []
  else (List.range ((p % g + n + g - 1) / g)).map fun j =>
    let lo := max p (p / g * g + g * j)
    let hi := min (p + n) (p / g * g + g * j + g)
    (lo, hi - lo)

/-- The first failing check over a byte range, with its address. -/
def State.checkRange (s : State) (w c va n : Nat) (wr : Bool) (port : Option Nat := none) : Option (St × Nat) :=
  (pieces va n).findSome? fun (a, _) =>
    match s.xlate w c a wr port with
    | .ok _ => none
    | .error e => some (e, a)

/-- What a read gives: the bytes, for each byte whether its sector is poisoned, and whether its word of a tile store has an
uncorrectable error (R470). -/
structure RdOut where
  bytes : List Byte := []
  bad : List Bool := []
  soft : List Bool := []
deriving DecidableEq, Repr, Inhabited

/-- Uncorrectable sectors that came with the command. -/
def badSectors (reps : List HbmRep) : List Nat := (reps.filter (·.uncorr)).map (·.sector)

/-- One more piece of a read. -/
def RdOut.more (o : RdOut) (bs : List Byte) (bad : Bool := false) (soft : List Bool := List.replicate bs.length false) : RdOut :=
  { bytes := o.bytes ++ bs, bad := o.bad ++ List.replicate bs.length bad, soft := o.soft ++ soft }

/-- Read `n` bytes at `va` for ward `w`, context `c`; a piece whose check fails reads zero. -/
def State.readVa (s : State) (w c va n : Nat) (uncorr : List Nat := []) : State × RdOut :=
  (pieces va n).foldl (fun (s, o) (a, len) =>
    match s.xlate w c a false with
    | .error _ => (s, o.more (List.replicate len 0))
    | .ok l =>
      match l.kind with
      | .stack =>
        let (s, r) := s.readTag (l.pa / 256) (s.slot l.slot).key w c (uncorr.contains (l.pa / 256))
        let b := match r with | .zeros => List.replicate len 0 | _ => s.rdBytes l.pa len
        (s, o.more b (r == .poison))
      | .host => (s, o.more (s.rdHost l.slot l.pa len))
      | .peer => (s, o.more (s.rdBytes l.pa len))
      | .store =>
        let off := l.pa - tileBase l.tile
        (s, o.more (s.rdBytes l.pa len) false ((List.range len).map fun k => s.storeBad l.tile (off + k) 1))) (s, {})

/-- Write bytes at `va`; a piece whose check fails is not written. Peer-tier bytes leave on a link. -/
def State.writeVa (s : State) (w c va : Nat) (bs : List Byte) : State :=
  (pieces va bs.length).foldl (fun s (a, len) =>
    let b := (bs.drop (a - va)).take len
    match s.xlate w c a true with
    | .error _ => s
    | .ok l =>
      match l.kind with
      | .stack => s.writeSec (s.slot l.slot).key l.pa b w c
      | .host => s.wrHost l.slot l.pa b
      | .peer => s.sendWrite w c (field l.pa 47 42) (field l.pa 41 0) b
      | .store => s.wrStore l.tile (l.pa - tileBase l.tile) b) s

/-- The die controllers' own writes of structures that software can read: under context 0, by the ward's
translation without the right to write (software maps them with W = 0: R286, R299, R311). A part of a sector is read first:
poison met there is an error in the ward's control structures (R480). -/
def State.wrStruct (s : State) (w va : Nat) (bs : List Byte) : State :=
  (pieces va bs.length).foldl (fun s (a, len) =>
    let b := (bs.drop (a - va)).take len
    match (s.ward w).walk a with
    | none => s
    | some l =>
      if isStack l.pa && (match s.checkStack w l.pa with | .ok _ => true | .error _ => false) then
        let key := (s.slot l.kslot).key
        let t := s.writeSec key l.pa b w 0
        if len ≠ 256 ∧ (s.readTag (l.pa / 256) key w 0 false).2 = .poison then t.modWard w fun x => { x with structBad := true } else t
      else s) s

/-- Fresh-tag every sector of a byte range of the stack tier for context `c` (R449, R479). -/
def State.freshTag (s : State) (w c va n : Nat) : State :=
  (pieces va n).foldl (fun s (a, _) =>
    match (s.ward w).walk a with
    | none => s
    | some l =>
      if isStack l.pa then
        let sec := l.pa / 256
        { s with secTags := s.secTags.set sec { kind := .fresh, key := (s.slot ((s.ward w).registry.get c).kslot).key } }.modHbm
          (stackOf l.pa) fun h => { h with list := h.list.filter (· ≠ sec) }
      else s) s

/-- R270: an access refused at checks 1 to 7 is counted. -/
def State.countFault (s : State) (w : Nat) : State := s.modWard w fun x => { x with xlatFaults := incSat x.xlatFaults }

end Sys2Proof.Machine
end

