-- ==== Sys2Proof/Machine/TileOps.lean ====
section
/-! DEFINITION. What the tile instructions share: the fetch that a tile instruction must match, stalls,
dynamic exceptions (R159, R160), stand-in flags (R539), fences and scrubs (R86 to R88, R461). -/

namespace Sys2Proof.Machine
open Sys2Proof

/-! ### Register images (R162 to R164, R94) -/

def SeqState.code : SeqState → Nat
  | .idle => 0 | .running => 1 | .atBeat => 2 | .atWait => 3 | .stalled => 4
  | .halted => 5 | .stopped => 6 | .heldByProof => 7

/-- STATE as it reads: a tile that a pending verdict keeps from issuing reads 7 (R82, R162). -/
def Tile.state (t : Tile) : SeqState :=
  if t.proofs ≠ [] ∧ (t.st = .running ∨ t.st = .stalled) then .heldByProof else t.st

def SeqFault.word (f : SeqFault) : W64 :=
  BitVec.ofNat 64 (f.detail.toNat + f.pc % 2 ^ 13 * 2 ^ 32 + f.cause % 256 * 2 ^ 48 + (if f.valid then 2 ^ 63 else 0))

def LastProof.word (p : LastProof) : W64 :=
  BitVec.ofNat 64 (p.sm.toNat + p.sw.toNat * 2 ^ 16 + p.sr.toNat * 2 ^ 32 + min p.point 0xFFF * 2 ^ 48 +
    p.verdict % 8 * 2 ^ 60 + (if p.valid then 2 ^ 63 else 0))

/-- Partner tile (R16). -/
def partner (i : Nat) : Nat := if i % 2 = 0 then i + 1 else i - 1

/-- The tile serves as partner in a proof run that has begun (R83). -/
def State.replaying (s : State) (i : Nat) : Bool :=
  match (s.tile (partner i)).proofs with
  | [] => false
  | p :: _ => p.started

/-! ### Scrub (R88, R461) -/

/-- The tile's state after a scrub: the registers that survive it, its seeds and its code (R91, R164). -/
def Tile.scrubbed (t : Tile) : Tile :=
  { entry := t.entry, codeEnd := t.codeEnd, fault := t.fault, faultBeat := t.faultBeat, stall := t.stall,
    issued := t.issued, tagCnt := t.tagCnt, seeds := t.seeds, health := t.health, spare := t.spare,
    remapped := t.remapped, roleOf := t.roleOf, cntBoth := t.cntBoth, cntMain := t.cntMain,
    cntWitness := t.cntWitness, cntMismatch := t.cntMismatch, skipped := t.skipped, last := t.last,
    lastBeat := t.lastBeat, feeds := t.feeds }

/-- R89: a proof run pending on the tile is abandoned. -/
def Tile.abandonProof (t : Tile) : Tile :=
  if t.proofs = [] then t
  else { t with proofs := [], held := [], last := if t.last.verdict = 7 then { t.last with verdict := 4 } else t.last }

/-- PROOF_BUSY (R91): a proof run involves the tile as failing tile, or as partner until its own LATCH has run again. -/
def State.proofBusy (s : State) (i : Nat) : Bool :=
  !(s.tile i).proofs.isEmpty || !(s.tile (partner i)).proofs.isEmpty || (s.tile i).rerun

def State.scrubTile (s : State) (i : Nat) : State :=
  ((s.modTile i fun t => t.abandonProof.scrubbed).clearRange (tileBase i) storeBytes).mendStore i 0 storeBytes

/-! ### Stand-in flags (R539) -/

/-- Words that may be reached next from the instruction at `k`. -/
def nextWords (word : Nat → W64) (n : Nat) (firsts : List Nat) (k : Nat) : List Nat :=
  let w := word k
  let seq := k + wordsOf w
  match wf w 63 58 with
  | 0x09 => []
  | 0x10 => []
  | 0x0F => if wf w 57 55 = 0 then [wf w 48 36] else [wf w 48 36, seq]
  | 0x0D => [seq, wf w 29 17 + 1]
  | 0x0E => (firsts.filter fun l => wf (word l) 63 58 = 0x0D ∧ wf (word l) 29 17 = k).map (fun l => l + 1) ++ [seq]
  | _ => if n ≤ seq then [] else [seq]

/-- Every instruction reached from the words in `work`. -/
def reachWords (word : Nat → W64) (n : Nat) (firsts : List Nat) : Nat → List Nat → List Nat → List Nat
  | 0, _, seen => seen
  | _, [], seen => seen
  | fuel + 1, k :: work, seen =>
    if n ≤ k ∨ seen.contains k then reachWords word n firsts fuel work seen
    else reachWords word n firsts fuel (nextWords word n firsts k ++ work) (k :: seen)

/-- The SIGs reached from the first instruction that tile `i` has not issued: target and flags. -/
def State.standIns (s : State) (i : Nat) : List (Nat × W16) :=
  let t := s.tile i
  let word := s.istWord i
  let firsts := firstWords word t.codeEnd 8192 0
  ((reachWords word t.codeEnd firsts 65536 [t.pc] []).filter fun k => wf (word k) 63 58 = 0x0B).map
    fun k => (wf (word k) 57 49, BitVec.ofNat 16 (wf (word k) 48 33))

def Tile.setFlags (t : Tile) (m : W16) : Tile := { t with flags := t.flags ||| m }

/-- The die controller raises the stand-in flags of tile `i` at tiles of dies the ward holds. -/
def State.raiseStandIns (s : State) (w i : Nat) : State :=
  forEach (s.standIns i) s fun s (tgt, m) =>
    if (s.ward w).holds (tgt / 64) then
      s.modTile ((s.ward w).redirect tgt) fun t => { t.setFlags m with standIn := t.standIn ||| m }
    else s

/-! ### Fences (R86 to R88) -/

/-- The micro-batches that the tile streams and whose results it has not drained in this beat are lost: all of them where
no DRAIN of the tile has completed in the beat, else which ones is a free value, since the program does not say which
micro-batches a DRAIN serves last (R86; log entry 16). -/
def State.loseFeeds (s : State) (w i : Nat) : State :=
  match (s.ward w).groupAt (i / 64) with
  | none => s
  | some b => forEach (s.tile i).feeds s fun s p =>
      let c := ((s.ward w).ctxTab.get (1024 * b + p)).ctx
      let (n, s) := s.takeFresh
      if c = 0 ∨ (s.tile i).drained ∧ (Config.freeByte n).getLsbD 0 then s else s.losePositions w c b .witnessFence (some p)

/-- R217: the engine drops what tile `i` queued and stops its running program. -/
def State.dropChain (s : State) (i : Nat) : State :=
  s.modQuad (i / 4) fun x =>
    { x with queue := x.queue.filter (fun p => p.issuer ≠ i % 4),
             run := match x.run with | some r => if r.issuer = i % 4 then none else some r | none => none }

/-- The tile still has instructions to issue in this beat. -/
def Tile.issuing (t : Tile) : Bool := t.st == .running || t.st == .stalled || t.st == .atWait || t.st == .heldByProof

/-- Fence tile `i`: its micro-batches are lost, its stand-in flags rise, it is scrubbed at once. -/
def State.fenceTile (s : State) (i : Nat) : State :=
  let s := match s.wardOfDie (i / 64) with
    | some w => let s := s.loseFeeds w i
      if (s.tile i).issuing then s.raiseStandIns w i else s
    | none => s
  ((s.scrubTile i).dropChain i).modTile i fun t => { t with health := .fenced }

/-- The record of a witness mismatch or verdict (R95, R486), which `p` describes. -/
def State.proofRecord (s : State) (i : Nat) (scope : Nat) (st : Byte) (p : LastProof) : State :=
  s.report { cls := 1, scope := scope, status := st, ward := (s.wardOfDie (i / 64)).getD 0xFF, unit := 0,
             die := i / 64, idx := i % 64, src := 3, detail := p.word.setWidth 128 }

/-- What TIL_LAST_PROOF says of a mismatch with verdict `v`. -/
def Proof.last (p : Proof) (v : Nat) (sr : W16) : LastProof :=
  { valid := true, verdict := v, point := p.firstPoint, sr := sr, sw := (p.sig.headD (0, 0)).2, sm := (p.sig.headD (0, 0)).1 }

/-- A verdict on the first pending mismatch: TIL_LAST_PROOF takes it where no later mismatch is pending (R94). -/
def Tile.verdict (t : Tile) (l : LastProof) : Tile := if t.proofs.length ≤ 1 then { t with last := l } else t

/-- Tiles of the program whose role no healthy tile carries. -/
def State.lostRoles (s : State) (w : Nat) : List (Nat × TileProg) :=
  let x := s.ward w
  ((((x.job.map (·.prog.tiles)).getD []).map fun t => (x.progTile t.rdie t.tile, t)).filter fun e => (s.tile (x.redirect e.1)).health == .fenced)

/-- The lowest free spare of the die, in the same quad where the role issues or meets chain programs (R86, R217). -/
def State.spareFor (s : State) (free : List Nat) (e : Nat × TileProg) : Option Nat :=
  match (free.filter fun i => i / 64 = e.1 / 64 && (s.tile i).health != .fenced && (!(e.2.chains || e.2.chained) || i / 4 == e.1 / 4)) with
  | [] => none
  | a :: r => some (r.foldl min a)

/-- A spare for each lost role, in tile order; `none` where one has none. -/
def State.pickSpares (s : State) (w : Nat) : Option (List (Nat × TileProg × Nat)) :=
  (sortBy (fun (a b : Nat × TileProg) => decide (a.1 ≤ b.1)) (s.lostRoles w)).foldl (fun (o : Option (List (Nat × TileProg × Nat))) e =>
    match o with
    | none => none
    | some l =>
      match s.spareFor ((((s.ward w).job.map (·.sparesFree)).getD []).filter fun i => !l.any fun y => y.2.2 = i) e with
      | none => none
      | some i => some (l ++ [(e.1, e.2, i)])) (some [])

/-- An uncorrectable error in a store of tile `i` that is handled as a main-path failure (R470): structure 0 tile store, 1
instruction store, and the word (log entry 165). -/
def State.mainFault (s : State) (i struct word : Nat) : State :=
  if (s.tile i).health = .fenced then s
  else
    let scope := match s.wardOfDie (i / 64) with
      | some w => if ((s.modTile i fun t => { t with health := .fenced }).pickSpares w).isNone then 4 else 2
      | none => 2
    (s.report { cls := 8, scope := scope, status := St.witnessFence.code, ward := (s.wardOfDie (i / 64)).getD 0xFF, unit := 0, die := i / 64,
                idx := i % 64, src := 3, detail := BitVec.ofNat 128 (word + struct * 2 ^ 64) }).fenceTile i

/-- Verdict "main path at fault", or no replay target (R86, R87), as `l` describes it. The record's scope is the
micro-batches, or the job where no spare is left. A later mismatch that is pending is abandoned with the tile's scrub. -/
def State.verdictMain (s : State) (i : Nat) (l : LastProof) : State :=
  let s := s.modTile i fun t => (({ t with cntMain := incSat t.cntMain }).verdict l).abandonProof
  let scope := match s.wardOfDie (i / 64) with
    | some w => if ((s.modTile i fun t => { t with health := .fenced }).pickSpares w).isNone then 4 else 2
    | none => 2
  (s.proofRecord i scope St.witnessFence.code l).fenceTile i

/-- Both tiles are fenced and the job faults (R87). -/
def State.verdictBoth (s : State) (i : Nat) (both : Bool) (sr : W16) : State :=
  let mark (s : State) (i : Nat) (sr : W16) : State :=
    match (s.tile i).proofs with
    | [] => s
    | p :: _ =>
      (s.modTile i fun t => (({ t with cntBoth := incSat t.cntBoth }).verdict (p.last 2 sr)).abandonProof).proofRecord i 4
        St.witnessFence.code (p.last 2 sr)
  let s := mark s i sr
  let s := if both then mark s (partner i) 0 else s
  ((s.fenceTile i).fenceTile (partner i)).jobFaultDie (i / 64) .witnessFence

/-! ### Dynamic exceptions (R159, R160) -/

def sat32 (n : Nat) : W32 := BitVec.ofNat 32 (min n 0xFFFFFFFF)

/-- Tile `i` takes exception `cause` at its current instruction. -/
def State.takeExc (s : State) (w i cause : Nat) (detail : W32) : State :=
  let t := s.tile i
  let f : SeqFault := { valid := true, cause := cause, pc := t.pc, detail := detail }
  let op := if t.pc < t.codeEnd then (s.istWord i t.pc).toNat / 2 ^ 32 else 0
  let s := s.modTile i fun t => { t with fault := f, faultBeat := (s.ward w).num, st := .stopped }
  let s := s.report { cls := 2, scope := 4, status := St.protection.code, ward := w, unit := 0, die := i / 64,
                      idx := i % 64, src := 3, cause := cause, op := BitVec.ofNat 32 op,
                      detail := f.word.setWidth 128 }
  (s.raiseStandIns w i).jobFault w .protection

/-- A tile whose PC has reached CODE_END without a jump takes PC_RANGE (R121). -/
def State.checkPc (s : State) (w i : Nat) : State :=
  let t := s.tile i
  if t.st = .running ∧ t.codeEnd ≤ t.pc then s.takeExc w i 0x15 0 else s

/-! ### Issue -/

/-- What an instruction answers once fetched: it stalls, takes an exception, goes on to the next word, or
goes on at a word of its own. -/
inductive Issue where
  | stall
  | exc (cause : Nat) (detail : W32)
  | go (s : State)
  | jump (s : State) (pc : Nat)

/-- The ward whose job runs on tile `i`, where the tile may issue. -/
def State.issuer (s : State) (i : Nat) : Option Nat :=
  let t := s.tile i
  if s.life = .up ∧ i < 512 ∧ t.health ≠ .fenced ∧ (t.st = .running ∨ t.st = .stalled) ∧ t.proofs = [] then
    match s.wardOfDie (i / 64) with
    | some w =>
      let x := s.ward w
      if x.running ∧ ((x.job.map (·.began)).getD false) ∧ x.closed = false ∧ x.mb.lostMark = false then some w else none
    | none => none
  else none

/-- The instruction that tile `i` fetches (R121). -/
def State.fetched (s : State) (i : Nat) : Option Instr :=
  let t := s.tile i
  if t.pc < t.codeEnd then
    match decodeTile i (s.istWord i t.pc) (s.istWord i (t.pc + 1)) with
    | .ok c => some c
    | .error _ => none
  else none

/-- Bytes of the tile store that an instruction reads as it issues, as numbers (R470): a load, supplied exponents. -/
def Tile.scalarReads (t : Tile) : Instr → List (Nat × Nat)
  | .seta _ f => if f.mode < 2 then [] else [((t.areg f.as + (f.imm.signExtend 48) * 8).toNat / 8 * 8, 8)]
  | .setk _ f => if f.mode = 2 then [((t.areg f.as).toNat / 8 * 8, 8)] else []
  | .drain _ f =>
    if f.ofmt = 2 ∧ (cwOf f.cw).supplied then [((t.areg f.sa).toNat, if (cwOf f.cw).square then f.wc / 32 * 8 else 8 * f.wc)] else []
  | _ => []

/-- A word with an uncorrectable error that instruction `c` meets at issue (R470): structure 1, the instruction store, for its
own words and its views, else structure 0. -/
def State.softFetch (s : State) (i : Nat) (c : Instr) : Option (Nat × Nat) :=
  let t := s.tile i
  let code := (List.range (wordsOf (s.istWord i t.pc))).map (t.pc + ·) ++ (viewsOf c).flatMap fun v => [2 * v.2.1, 2 * v.2.1 + 1]
  match code.find? t.badCode.contains with
  | some k => some (1, k)
  | none => (t.badWords.find? fun k => (t.scalarReads c).any fun (o, n) => decide (8 * k < o + n) && decide (o < 8 * k + 8)).map fun k => (0, k)

/-- Issue instruction `c` on tile `i`: nothing happens unless the tile may issue and fetches `c`. A stall
leaves the tile at the instruction (log entry 6); one that reads a register just loaded stalls up to 4 cy first (R156). -/
def State.issue (s : State) (i : Nat) (c : Instr) (body : Nat → Issue) : State :=
  match s.issuer i with
  | none => s
  | some w =>
    if s.fetched i ≠ some c then s
    else match s.softFetch i c with
    | some (k, a) => s.mainFault i k a
    | none =>
      let pc := (s.tile i).pc
      let waits := (s.tile i).waitsLoad c
      let loads := (s.tile i).loadsAfter c
      let done (s : State) (pc : Nat) : State :=
        let s := if waits then
            let (n, s) := s.takeFresh
            s.modTile i fun t => { t with stall := t.stall + BitVec.ofNat 32 ((Config.freeW32 n).toNat % 5) }
          else s
        (s.modTile i fun t => { t with pc := pc, issued := t.issued + 1, loads := loads,
                                       st := if t.st = .stalled then .running else t.st }).checkPc w i
      match body w with
      | .stall =>
        let (n, s) := s.takeFresh
        s.modTile i fun t => { t with st := .stalled, stall := t.stall + Config.freeW32 n }
      | .exc cause d => s.takeExc w i cause d
      | .go s' => done s' (pc + wordsOf (s.istWord i pc))
      | .jump s pc => done s pc

/-- One of the banks is being cleared, and serves no access (R141). -/
def Tile.anyClearing (t : Tile) (banks : List Nat) : Bool := banks.any fun b => t.clearing.getLsbD b

/-- Banks that a list of byte ranges touches. -/
def banksOf (offs : List Nat) (unit : Nat) : List Nat :=
  (offs.flatMap fun o => [o / 65536, (o + unit - 1) / 65536]).dedup

/-- CHAIN programs of tile `i` that have not completed (R137). -/
def State.chainBusy (s : State) (i : Nat) : Bool :=
  let q := s.quad (i / 4)
  q.queue.any (fun p => p.issuer = i % 4) || (match q.run with | some r => r.issuer = i % 4 | none => false)

/-- Runs that tile `i` kicked and that still run (R139, R146). -/
def State.kickBusy (s : State) (i : Nat) : Bool :=
  (chansOfDie (i / 64)).any fun c => (s.chan c).kicker == some i && (s.chan c).st == .running

/-- Every operation that tile `i` issued has completed (R145). -/
def State.tileQuiet (s : State) (i : Nat) : Bool :=
  let t := s.tile i
  t.passes.isEmpty && t.latching.isNone && t.draining.isNone && t.zeroing.isEmpty && t.clearing == 0 &&
  t.stats.isEmpty && t.sigs.isEmpty && t.proofs.isEmpty && !s.replaying i && !s.chainBusy i && !s.kickBusy i

/-- The tile counts as finished for the beat (R145). -/
def State.tileDone (s : State) (i : Nat) : Bool :=
  let t := s.tile i
  t.health == .fenced ||
  ((t.st == .atBeat || t.st == .halted || t.st == .stopped || t.st == .idle) && s.tileQuiet i)

end Sys2Proof.Machine
end

