-- ==== Sys2Proof/Machine/Serving.lean ====
section
/-! DEFINITION. What the die controllers keep for serving: the tables and their words (R286, R300, R309,
R311), blocks and chunks (R287, R304), the ending of sequences (R313), loads and evictions (R305, R306),
pre-emption and restore (R288 to R290), and the serving actions of a boundary (R313 to R322). -/

namespace Sys2Proof

/-- Beat group `b` is in a stage in beat `t`. -/
def JobProg.inFlight (p : JobProg) (b t : Nat) : Bool :=
  decide (0 < p.period) && decide (b * p.res0 ≤ t) && decide ((t - b * p.res0) % p.period < (p.stages.map (·.res)).sum)

/-- Beats from `t` to the next token boundary of group `b`, 0 where one begins beat `t`. -/
def JobProg.untilToken (p : JobProg) (b t : Nat) : Nat :=
  if t ≤ b * p.res0 then b * p.res0 - t
  else (p.period - (t - b * p.res0) % p.period) % p.period

/-- R314: the group whose token boundary begins beat `t`, or else comes next. -/
def JobProg.target (p : JobProg) (t : Nat) : Option Nat :=
  if p.period = 0 then none
  else (List.range p.groups).foldl (fun a b => match a with
    | none => some b
    | some x => if p.untilToken b t < p.untilToken x t then some b else a) none

end Sys2Proof

namespace Sys2Proof.Machine
open Sys2Proof

/-! ### Words of the tables -/

def SqState.code : SqState → Nat
  | .free => 0 | .queued => 1 | .running => 2 | .preempted => 3 | .restoring => 4

def Sq.bytes (q : Sq) : List Byte :=
  toLE 8 ((if q.defer then 2 ^ 7 else 0) + q.endc * 2 ^ 4 + q.vec * 2 ^ 8 + q.pos * 2 ^ 16 + q.bg * 2 ^ 26 +
    q.ctx * 2 ^ 36 + q.lastSt.toNat * 2 ^ 52 + (if q.mark.isSome then 5 else q.st.code) * 2 ^ 60) ++
  toLE 8 (q.tokens.toNat + q.maxtok.toNat * 2 ^ 32) ++ toLE 8 (q.first + q.bcnt * 2 ^ 24) ++
  toLE 8 q.submit.toNat ++ toLE 8 q.start.toNat ++ toLE 8 q.spill.toNat ++ toLE 8 q.cookie.toNat ++
  toLE 8 q.out.toNat ++ (List.range 64).map fun k => q.job.getD k 0

/-- Entry `i` of the sequence table as it stands in memory: zero where nothing has been written since it was zeroed. -/
def Ward.seqBytes (y : Ward) (i : Nat) : List Byte := if y.seqs.get i = {} then List.replicate 128 0 else (y.seqs.get i).bytes

def RegState.code : RegState → Nat
  | .free => 0 | .registered => 1 | .withdrawing => 2 | .forced => 3
def Hot.code : Hot → Nat
  | .cold => 0 | .loading => 1 | .hot => 2
def Res.code : Res → Nat
  | .out => 0 | .resident => 1 | .inward => 2 | .outward => 3
def bit (b : Bool) (k : Nat) : Nat := if b then 2 ^ k else 0

def RegEnt.bytes (e : RegEnt) : List Byte :=
  toLE 8 (e.xcount * 2 ^ 20 + e.rslot * 2 ^ 34 + e.kslot * 2 ^ 38 + bit e.swWait 52 + bit e.swArmed 53 +
    bit e.nxtReady 54 + bit e.nxt 55 + bit e.train 56 + e.res.code * 2 ^ 57 + e.hot.code * 2 ^ 59 + e.st.code * 2 ^ 61) ++
  toLE 8 (e.oldmb * 2 ^ 4 + e.pins * 2 ^ 26 + e.gen.toNat * 2 ^ 48) ++ toLE 8 e.negVa.toNat ++ toLE 8 e.negLen ++
  toLE 8 e.copy0.toNat ++ toLE 8 e.copy1.toNat ++ toLE 8 e.lastUse.toNat ++ toLE 8 e.blocked.toNat

def Blk.bytes (b : Blk) : List Byte :=
  toLE 8 (b.next + b.ord * 2 ^ 29 + b.seqIdx * 2 ^ 41 + b.st * 2 ^ 62)

def CtxEnt.bytes (c : CtxEnt) : List Byte :=
  toLE 8 (c.vecs * 2 ^ 8 + c.bgen.toNat * 2 ^ 16 + c.gen.toNat * 2 ^ 32 + c.ctx * 2 ^ 48)

/-! ### Writing the tables: the die's copy, and the copy in the ward's pages -/

/-- A free block map entry reads as all zero in the table but for NEXT. -/
def blkFree : Blk := {}

def State.setReg (s : State) (w c : Nat) (f : RegEnt → RegEnt) : State :=
  let s := s.modWard w fun x => { x with registry := x.registry.modify c f }
  s.wrStruct w ((s.ward w).regBase + 64 * c) ((s.ward w).registry.get c).bytes

def State.setBlk (s : State) (w b : Nat) (f : Blk → Blk) : State :=
  let s := s.modWard w fun x => { x with blocks := x.blocks.modify b f }
  s.wrStruct w ((s.ward w).bmapBase + 8 * b) ((s.ward w).blocks.get b).bytes

def State.setSq (s : State) (w i : Nat) (f : Sq → Sq) : State :=
  s.modWard w fun x => { x with seqs := x.seqs.modify i f }

def State.setCtxEnt (s : State) (w k : Nat) (e : CtxEnt) : State :=
  let s := s.modWard w fun x => { x with ctxTab := x.ctxTab.set k e }
  s.wrStruct w ((s.ward w).ctxtBase + 8 * k) e.bytes

/-- An event of the controller of die `d`, of ward `w` (R37, R38). -/
def State.dieEvent (s : State) (w d what arg : Nat) (st : St := .ok) : State :=
  let (n, s) := s.takeFresh
  s.emit (.event d what arg st.code (s.stamp w) (Config.freeW32 n))

/-- Serving events of the lowest die's controller (R327). -/
def State.event (s : State) (w what arg : Nat) (st : St := .ok) : State := s.dieEvent w (s.ward w).lowDie what arg st

def Ward.live (x : Ward) : List (Nat × Sq) := x.seqs.filter fun e => e.2.st ≠ .free

/-- R302: owner of an extra-expert index, 0 where the slot is free; `none` where the layer has no slots. -/
def Ward.xowner (x : Ward) (i : Nat) : Option Nat := match x.xclaim.get i with | 0 => none | n + 1 => some n
def Ward.setXowner (x : Ward) (i : Nat) (v : Option Nat) : Ward :=
  { x with xclaim := x.xclaim.set i (match v with | none => 0 | some n => n + 1) }
/-- The field of ADP_XCLAIM. -/
def Ward.xownerWord (x : Ward) (i : Nat) : W16 := match x.xowner i with | none => 0xFFFF | some n => BitVec.ofNat 16 n
/-- Every claim of context `c` is freed. -/
def Ward.freeClaims (x : Ward) (c : Nat) : Ward :=
  (List.range 2048).foldl (fun x i => if x.xowner i = some c then x.setXowner i (some 0) else x) x

/-! ### Free units, lowest first (R287, R304; log entry 30) -/

/-- The `n` lowest numbers below `limit` that are not in `used`. -/
def lowestFree (used : List Nat) (limit n : Nat) : List Nat :=
  (((List.range (min limit (used.length + n))).filter fun k => !used.contains k)).take n

def Ward.usedBlocks (x : Ward) : List Nat := (x.blocks.filter fun e => e.2.st ≠ 0).map (·.1)
def Ward.freeBlocks (x : Ward) : Nat := x.nblk - x.usedBlocks.length
def Ward.spilling (x : Ward) : Nat := (x.blocks.filter fun e => e.2.st = 2).length
def Ward.freeHot (x : Ward) : Nat := x.hotChunks - x.hotOwner.length
def Ward.freeSpill (x : Ward) : Nat := x.spillChunks - x.spillOwner.length

def chunkBytes : Nat := 2 ^ 21

/-- Address of byte `p` of a run of chunks at `base`. -/
def chunkAddr (base : Nat) (chunks : List Nat) (p : Nat) : Nat :=
  base + (chunks.getD (p / chunkBytes) 0) * chunkBytes + p % chunkBytes

/-! ### Blocks -/

def Ward.frameVa (x : Ward) (n b : Nat) : Nat := x.poolBase + n * 2 ^ 39 + b * x.frame

/-- Blocks of a sequence, by ordinal. -/
def Ward.blocksOf (x : Ward) (i st : Nat) : List Nat :=
  (List.range 4096).filterMap fun o => (x.blocks.find? fun e => e.2.st = st && e.2.seqIdx = i && e.2.ord = o).map (·.1)

/-- Give block `b` to sequence `i` as its block `o`; its sectors are written fresh (R287, R449). -/
def State.giveBlock (s : State) (w i b o st : Nat) (prev : Option Nat) : State :=
  let c := ((s.ward w).seqs.get i).ctx
  let s := s.setBlk w b fun _ => { st := st, seqIdx := i, ord := o, ctx := c }
  let s := match prev with
    | some p => s.setBlk w p fun x => { x with next := b }
    | none => s.setSq w i fun q => { q with first := b }
  let x := s.ward w
  forEach x.dieList s fun s n => s.freshTag w c (x.frameVa n b) x.frame

/-- Give sequence `i` its blocks `o` to `o + n - 1`. -/
def State.giveBlocks (s : State) (w i o n st : Nat) : State :=
  let x := s.ward w
  let bs := lowestFree x.usedBlocks x.nblk n
  let last := if o = 0 then none else (x.blocks.find? fun e => e.2.st ≠ 0 && e.2.st ≠ 2 && e.2.seqIdx = i && e.2.ord = o - 1).map (·.1)
  (bs.foldl (fun (s, o, p) b => (s.giveBlock w i b o st p, o + 1, some b)) (s, o, last)).1

/-- Every block of sequence `i` in a state that `p` names becomes free. -/
def State.freeBlocksOf (s : State) (w i : Nat) (p : Nat → Bool) : State :=
  forEach (((s.ward w).blocks.filter fun e => e.2.st ≠ 0 && e.2.seqIdx = i && p e.2.st).map (·.1)) s
    fun s b => s.setBlk w b fun _ => blkFree

def State.freeSpillOf (s : State) (w i : Nat) : State :=
  let ch := ((s.ward w).seqs.get i).chunks
  (s.modWard w fun x => { x with spillOwner := ch.foldl (fun t k => Tab.set t k 0) x.spillOwner }).setSq w i fun q =>
    { q with chunks := [], spillPtr := 0, negs := [], spill := 0 }

/-! ### Developer operations -/

def State.devIssue (s : State) (d : Nat) (op : DevOp) : State := s.modDev d fun x => { x with queue := x.queue ++ [op] }

/-- R291: drop the waiting and running operations of the ward that `p` picks; answers how many as well. -/
def State.devDrop (s : State) (w : Nat) (p : DevOp → Bool) : State :=
  forEach (s.ward w).dieList s fun s d => s.modDev d fun x =>
    let run := match x.queue with | [] => false | o :: _ => p o
    { x with queue := x.queue.filter fun o => !p o, copies := x.copies.filter fun o => !p o, ended := if run then none else x.ended }

/-- A prefetch operation is over: entries whose operations are all done leave the list. -/
def State.pfDone (s : State) (w k : Nat) : State :=
  s.modWard w fun x => match x.job with
    | none => x
    | some j => { x with job := some { j with pending := (j.pending.map fun p => if p.id = k then { p with waits := p.waits - 1 } else p).filter fun p => p.waits ≠ 0 } }

def DevFor.ofSeq (i : Nat) : DevFor → Bool
  | .spill k _ => k = i
  | .restore k _ => k = i
  | _ => false

/-- R288, step 3: blocks of sequence `i` whose frames the developers of every die have read. -/
def State.noteRead (s : State) (w i : Nat) : State :=
  let unread (o : Nat) : Bool := (s.ward w).dieList.any fun d =>
    let x := s.dev d
    (if x.ended.isSome then x.queue.drop 1 else x.queue).any fun y => y.ward = w && y.use == .spill i o
  forEach (((s.ward w).blocks.filter fun e => e.2.st = 2 && e.2.seqIdx = i && !unread e.2.ord).map (·.1)) s
    fun s b => s.setBlk w b fun y => { y with read := true }

/-! ### The end of a sequence (R313, step 2) -/

/-- A sequence ends. After a failed spill write its blocks go free as those of any spill do (R289). -/
def State.endSeq (s : State) (w i : Nat) (st : St) (endc : Nat) : State :=
  let q := (s.ward w).seqs.get i
  if q.st = .free then s
  else
    let s := if q.spillFail then s else s.devDrop w fun o => o.use.ofSeq i
    let s := (s.freeBlocksOf w i fun k => !(q.spillFail && k = 2)).freeSpillOf w i
    let s := if q.st = .queued then s else s.setReg w q.ctx fun e => { e with pins := e.pins - 1 }
    let s := s.setSq w i fun q =>
      { q with st := .free, lastSt := st.code, endc := endc, bcnt := 0, first := 0xFFFFFF, mark := none, placed := false,
               inStep := false, restoreWait := 0, restored := false, spilling := 0, spillFail := false, defer := false }
    let s := s.modWard w fun x => { x with evEnded := x.evEnded + 1 }
    s.post q.ring { tag := q.cookie, jseq := q.jseq, beat := s.stamp w, status := st.code, kind := 1,
                    detail := BitVec.ofNat 32 endc }

/-- Mark a sequence to end; the first mark stays. `now` ends it at the next release. -/
def State.markSeq (s : State) (w i : Nat) (st : St) (endc : Nat) (now : Bool) : State :=
  s.setSq w i fun q => if q.st = .free then q else
    { q with mark := some (q.mark.getD (st, endc)), inStep := q.inStep && !now }

def State.markCtx (s : State) (w : Nat) (p : Sq → Bool) (st : St) (endc : Nat) (now : Bool) : State :=
  forEach (((s.ward w).live.filter fun e => p e.2).map (·.1)) s fun s i => s.markSeq w i st endc now

/-! ### The hot cache (R304 to R307) -/

def imageChunks (bytes : Nat) : Nat := (bytes + chunkBytes - 1) / chunkBytes

def State.allocHot (s : State) (w c n : Nat) : List Nat × State :=
  let x := s.ward w
  let ch := lowestFree (x.hotOwner.map (·.1)) x.hotChunks n
  let s := s.modWard w fun x => { x with hotOwner := ch.foldl (fun t k => Tab.set t k c) x.hotOwner }
  (ch, forEach ch s fun s k => s.freshTag w c (x.hotBase + k * chunkBytes) chunkBytes)

def State.freeHotList (s : State) (w : Nat) (ch : List Nat) : State :=
  s.modWard w fun x => { x with hotOwner := ch.foldl (fun t k => Tab.set t k 0) x.hotOwner }

/-- Free copy `k` of context `c`. -/
def State.freeCopy (s : State) (w c k : Nat) : State :=
  let e := (s.ward w).registry.get c
  (s.freeHotList w (if k = 0 then e.chunks0 else e.chunks1)).setReg w c fun e =>
    if k = 0 then { e with chunks0 := [], copy0 := 0 } else { e with chunks1 := [], copy1 := 0 }

def RegEnt.liveCopy (e : RegEnt) : Nat := e.gen.toNat % 2
def RegEnt.chunksOf (e : RegEnt) (k : Nat) : List Nat := if k = 0 then e.chunks0 else e.chunks1

/-- The chunk list that heads a copy: the address of each of its chunks, 8 bytes each (R304, log entry 174). -/
def State.writeList (s : State) (w c k : Nat) : State :=
  let x := s.ward w
  let ch := (x.registry.get c).chunksOf k
  s.writeVa w c (chunkAddr x.hotBase ch 0) ((ch.flatMap fun j => toLE 8 (x.hotBase + j * chunkBytes)).take chunkBytes)

/-- R480: poison found in the hot copy of context `c` evicts it. -/
def State.evictHot (s : State) (w c : Nat) : State :=
  let e := (s.ward w).registry.get c
  if e.hot = .hot then
    let s := (s.freeCopy w c e.liveCopy).setReg w c fun e => { e with hot := .cold, loaded := false }
    (s.modWard w fun x => { x with evicts := incSat x.evicts }).event w 6 c .poison
  else s

/-- R306. -/
def RegEnt.pinned (e : RegEnt) : Bool := decide (0 < e.pins) || (e.res == .resident && e.train) || e.nxt

/-- Unpinned hot adapters in the order of eviction. -/
def Ward.victims (x : Ward) : List Nat :=
  (sortBy (fun a b =>
    decide (a.2.lastUse.toNat < b.2.lastUse.toNat) || (a.2.lastUse == b.2.lastUse && decide (a.1 ≤ b.1)))
    (x.registry.filter fun e => e.2.hot = .hot && !e.2.pinned)).map (·.1)

/-- Evict adapters until `n` chunks are free or none is left. -/
def State.evictFor (w n : Nat) : List Nat → State → State
  | [], s => s
  | v :: r, s =>
    if n ≤ (s.ward w).freeHot then s
    else
      let s := (s.freeCopy w v ((s.ward w).registry.get v).liveCopy).setReg w v fun e => { e with hot := .cold }
      State.evictFor w n r ((s.modWard w fun x => { x with evicts := incSat x.evicts }).event w 6 v)

/-- Place the chunks of a copy and issue its DEVELOP; waits where chunks are short (R305, R306). -/
def State.tryCopy (s : State) (w c k : Nat) (src : Addr) (use : DevFor) : State :=
  let e := (s.ward w).registry.get c
  let n := imageChunks e.image
  let s := State.evictFor w n (s.ward w).victims s
  if (s.ward w).freeHot < n then s
  else
    let (ch, s) := s.allocHot w c n
    let base := BitVec.ofNat 48 ((s.ward w).hotBase + (ch.headD 0) * chunkBytes)
    let s := s.setReg w c fun e => if k = 0 then { e with chunks0 := ch, copy0 := base } else { e with chunks1 := ch, copy1 := base }
    s.devIssue (s.ward w).lowDie { kind := .develop, src := src, dst := 0, dstChunks := ch, ctx := c, ward := w, use := use }

/-- R305: a cold adapter starts to load. -/
def State.loadAdapter (s : State) (w c : Nat) : State :=
  let e := (s.ward w).registry.get c
  if e.hot ≠ .cold then s
  else
    let s := (s.setReg w c fun e => { e with hot := .loading, loaded := false }).modWard w fun x => { x with loads := incSat x.loads }
    (s.tryCopy w c e.liveCopy e.negVa (.load c)).event w 5 c

/-- Room in the hot cache for copy `k` of context `c`: unpinned adapters are evicted for it (R306); `none` where chunks are
short. -/
def State.roomCopy (s : State) (w c k : Nat) : Option (List Nat × State) :=
  let e := (s.ward w).registry.get c
  let n := imageChunks e.image
  let s := State.evictFor w n (s.ward w).victims s
  if (s.ward w).freeHot < n then none
  else
    let (ch, s) := s.allocHot w c n
    let base := BitVec.ofNat 48 ((s.ward w).hotBase + (ch.headD 0) * chunkBytes)
    some (ch, s.setReg w c fun e => if k = 0 then { e with chunks0 := ch, copy0 := base } else { e with chunks1 := ch, copy1 := base })

/-- The chunks of a publication, and its copy from image half `h` (R343); it waits as a build does (R319). -/
def State.tryPublish (s : State) (w c h : Nat) : State :=
  (s.roomCopy w c (1 - ((s.ward w).registry.get c).liveCopy)).elim s fun (ch, s) =>
    (s.devIssue (s.ward w).lowDie { kind := .move, src := 0, dst := 0, dstChunks := ch, ctx := c, ward := w, half := h,
                                    use := .build c }).setReg w c fun e => { e with nxtWaits := false }

/-- The ward distributes a package into the second copy of `c`. -/
def Ward.distTo (x : Ward) (c : Nat) : Bool := match x.dist with | some d => d.target == c | none => false

/-- Loads and builds that wait for chunks, or for an old copy, try again at each boundary (R306, R319). -/
def State.retryCopies (s : State) (w : Nat) : State :=
  forEach ((s.ward w).registry.map (·.1)) s fun s c =>
    let e := (s.ward w).registry.get c
    let s := if e.hot = .loading ∧ e.loaded = false ∧ e.chunksOf e.liveCopy = [] then s.tryCopy w c e.liveCopy e.negVa (.load c) else s
    let e := (s.ward w).registry.get c
    if e.nxtWaits ∧ !(s.ward w).distTo c ∧ e.oldmb = 0 ∧ e.chunksOf (1 - e.liveCopy) = [] then
      match e.pub with
      | some h => s.tryPublish w c h
      | none =>
        let s := s.tryCopy w c (1 - e.liveCopy) e.nxtSrc (.build c)
        s.setReg w c fun e => { e with nxtWaits := (e.chunksOf (1 - e.liveCopy)).isEmpty }
    else s

/-! ### Pre-emption (R288, R289) -/

def unitBytes (kind fmt : Nat) : Nat :=
  match kind with
  | 0 => linePlateSize (Fmt.ofBits fmt)
  | 1 => squarePlateSize (Fmt.ofBits fmt)
  | 2 => 4
  | _ => 2

def State.preempt (s : State) (w i : Nat) : State :=
  let x := s.ward w
  let q := x.seqs.get i
  let bs := x.blocksOf i 1
  let n := (x.dieList.length * q.bcnt * x.frame + chunkBytes - 1) / chunkBytes
  if x.freeSpill < n then s.endSeq w i .preempted 4
  else
    let ch := lowestFree (x.spillOwner.map (·.1)) x.spillChunks n
    let p := (x.job.map (·.prog)).getD {}
    let s := s.modWard w fun x => { x with spillOwner := ch.foldl (fun t k => Tab.set t k q.ctx) x.spillOwner, tieSpills := incSat x.tieSpills }
    let s := s.setSq w i fun q =>
      { q with st := .preempted, placed := false, inStep := false, defer := false, spillFail := false, chunks := ch, spillPtr := 0, negs := [],
               spill := BitVec.ofNat 48 (x.spillBase + (ch.headD 0) * chunkBytes), spilling := x.dieList.length * bs.length }
    let s := forEach bs s fun s b => s.setBlk w b fun y => { y with st := 2, read := false }
    let s := forEach (x.dieList.flatMap fun d => bs.map fun b => (d, b)) s fun s (d, b) =>
      s.devIssue d { kind := .encode, src := BitVec.ofNat 48 (x.frameVa d b), dst := 0, tbl := x.spillTbl,
                     units := x.frame / unitBytes p.fkind p.ffmt, pkind := p.fkind, pfmt := p.ffmt, ctx := q.ctx, ward := w,
                     use := .spill i ((s.ward w).blocks.get b).ord }
    s.event w 1 i .preempted

/-- R288, step 3: blocks whose frames every developer has read become free at the boundary. -/
def State.freeSpilled (s : State) (w : Nat) : State :=
  forEach (((s.ward w).blocks.filter fun e => e.2.st = 2 && e.2.read).map (·.1)) s fun s b => s.setBlk w b fun _ => blkFree

/-! ### The end of a token step -/

/-- Bit of a vector position in the end marks of a beat group (R326). -/
def State.endMark (s : State) (w b pos vec : Nat) : Bool :=
  let k := pos * 256 + vec
  let (_, o) := s.readVa w 0 ((s.ward w).endBase + 32768 * b + k / 8) 1
  ((o.bytes.headD 0)).getLsbD (k % 8)

/-- Group `b` leaves the last stage: its sequences gain their token, those that are over are marked, and its
micro-batches of an old generation count down (R313, R322; log entry 31). -/
def State.stepEnd (s : State) (w b : Nat) : State :=
  let s := forEach ((s.ward w).live.filter fun e => e.2.inStep && e.2.bg = b && e.2.mark.map (·.1) != some .poison) s fun s (i, q) =>
    let tok := if q.tokens = 0 then BitVec.ofNat 32 (max 1 q.prompt) else q.tokens + 1
    let s := s.setSq w i fun q => { q with tokens := tok }
    if s.endMark w b q.pos q.vec then s.markSeq w i .ok 0 true
    else if q.maxtok.toNat ≤ tok.toNat ∨ 262144 ≤ tok.toNat then s.markSeq w i .ok 1 true
    else s
  let x := s.ward w
  let rows := x.ctxTab.filter fun e => e.1 / 1024 = b && e.2.ctx ≠ 0
  let s := if x.baseState = 3 ∧ rows.any (fun r => r.2.bgen ≠ x.baseGen) then s.modWard w fun x => { x with baseOld := x.baseOld - 1 } else s
  let tr := (x.job.map (·.prog.training)).getD []
  forEach (rows.filter fun r => !tr.contains (r.1 % 1024)) s fun s (_, r) =>
    let e := (s.ward w).registry.get r.ctx
    if 0 < e.oldmb ∧ r.gen ≠ e.gen then s.setReg w r.ctx fun e => { e with oldmb := e.oldmb - 1 } else s

/-! ### Hinge switches (R320, R321) -/

/-- Rows of groups in flight, other than the one that leaves now. -/
def Ward.flying (x : Ward) (p : JobProg) (t : Nat) : List (Nat × CtxEnt) :=
  x.ctxTab.filter fun e => e.2.ctx ≠ 0 && p.inFlight (e.1 / 1024) t && p.tokenGroup t ≠ some (e.1 / 1024)

def State.hinges (s : State) (w : Nat) (p : JobProg) (t : Nat) : State :=
  let s := forEach (((s.ward w).registry.filter fun e => e.2.swArmed && e.2.nxtReady && (!e.2.swWait || e.2.pins == 0)).map (·.1)) s fun s c =>
    let n := ((s.ward w).flying p t).filter fun r =>
      r.2.ctx = c && r.2.gen = ((s.ward w).registry.get c).gen && !p.training.contains (r.1 % 1024)
    (s.setReg w c fun e => { e with gen := e.gen + 1, nxt := false, nxtReady := false, pub := none, swArmed := false, swWait := false,
                                    hot := .hot, oldmb := n.length }).event w 4 c
  let x := s.ward w
  if x.baseArmed ∧ x.baseState = 2 then
    let n := (((x.flying p t).map fun r => r.1 / 1024).dedup).length
    (s.modWard w fun x => { x with baseGen := x.baseGen + 1, baseArmed := false, baseState := 3, baseOld := n }).event w 4 0
  else s

/-! ### Release (R313, step 2) -/

/-- Old copies whose count is 0 are freed, and entries under withdrawal whose counts are 0 (R316, R322). -/
def State.freeOld (s : State) (w : Nat) : State :=
  let s := forEach ((s.ward w).registry.map (·.1)) s fun s c =>
    let e := (s.ward w).registry.get c
    let s := if e.oldmb = 0 ∧ (e.nxt = false ∨ e.nxtWaits) ∧ e.chunksOf (1 - e.liveCopy) ≠ [] then s.freeCopy w c (1 - e.liveCopy) else s
    if (e.st = .withdrawing ∨ e.st = .forced) ∧ e.pins = 0 ∧ e.oldmb = 0 ∧ e.train = false ∧
        ((s.ward w).live.all fun q => q.2.ctx ≠ c) then
      let s := s.devDrop w fun o => o.use = .load c
      let s := (s.freeCopy w c 0).freeCopy w c 1
      let s := s.modWard w fun x => x.freeClaims c
      let s := s.setReg w c fun _ => {}
      let s := s.event w 3 c
      forEach e.withdraws s fun s j => s.complete j .ok
    else s
  let x := s.ward w
  if x.baseState = 3 ∧ x.baseOld = 0 then s.modWard w fun x => { x with baseState := if x.basePrepJseq.isSome then 1 else 0 } else s

def State.release (s : State) (w : Nat) (g : Option Nat) : State :=
  let due := (s.ward w).live.filter fun e => e.2.mark.isSome && (!e.2.inStep || g = some e.2.bg)
  let s := forEach due s fun s (i, q) => match q.mark with
    | some (st, c) => s.endSeq w i st c
    | none => s
  s.freeOld w

/-! ### Growth (R313, step 3) -/

/-- `a` is older than `b` (R309). -/
def olderSq (a b : Nat × Sq) : Bool :=
  decide (a.2.start.toNat < b.2.start.toNat) || (a.2.start == b.2.start && decide (a.1 ≤ b.1))

def Ward.runningOf (x : Ward) (g : Nat) : List (Nat × Sq) :=
  sortBy olderSq (x.live.filter fun e => e.2.st = .running && e.2.placed && e.2.bg = g)

def Ward.needers (x : Ward) (g : Nat) : List (Nat × Sq) :=
  (x.runningOf g).filter fun e => e.2.tokens.toNat = 64 * e.2.bcnt

/-- Pre-empt the youngest until the needers fit in free and spilling blocks. -/
def State.squeeze (w g : Nat) : Nat → State → State
  | 0, s => s
  | n + 1, s =>
    let x := s.ward w
    if (x.needers g).length ≤ x.freeBlocks + x.spilling then s
    else match (x.runningOf g).getLast? with
      | none => s
      | some e => State.squeeze w g n (s.preempt w e.1)

def State.growOne (s : State) (w : Nat) (e : Nat × Sq) : State :=
  if 0 < (s.ward w).freeBlocks then
    (s.giveBlocks w e.1 e.2.bcnt 1 1).setSq w e.1 fun q => { q with bcnt := q.bcnt + 1, defer := false }
  else (s.setSq w e.1 fun q => { q with defer := true }).modWard w fun x => { x with evDeferred := incSat x.evDeferred }

/-- Answers whether admission may follow. -/
def State.growth (s : State) (w : Nat) (g : Option Nat) : Bool × State :=
  match g with
  | none => (true, s)
  | some g =>
    let x := s.ward w
    let short := x.freeBlocks < (x.needers g).length
    let s := if short then State.squeeze w g x.seqs.length s else s
    (!short, forEach ((s.ward w).needers g) s fun s e => s.growOne w e)

/-! ### Admission (R314) -/

/-- Queue order. -/
def queueSq (a b : Nat × Sq) : Bool :=
  decide (a.2.submit.toNat < b.2.submit.toNat) || (a.2.submit == b.2.submit && decide (a.1 ≤ b.1))

/-- A vector position of group `b` for context `c`: the lowest of a position of `c` with room, else of a free
serving position. -/
def Ward.place (x : Ward) (p : JobProg) (b c : Nat) : Option (Nat × Nat) :=
  let at' (k : Nat) := x.live.filter fun e => e.2.placed && e.2.bg = b && e.2.pos = k
  let ps := (List.range p.positions).filter fun k => !p.training.contains k
  let vec (k : Nat) := (List.range p.vectors).find? fun v => (at' k).all fun e => e.2.vec ≠ v
  match ps.findSome? fun k => if (at' k).any (fun e => e.2.ctx = c) then (vec k).map fun v => (k, v) else none with
  | some r => some r
  | none => (ps.find? fun k => (at' k).isEmpty).map fun k => (k, 0)

/-- A sequence takes a vector position; it computes from the group's token boundary on. -/
def State.seat (s : State) (w i b : Nat) (r : Nat × Nat) : State :=
  s.setSq w i fun q => { q with bg := b, pos := r.1, vec := r.2, placed := true, inStep := false }

/-- R290: fresh blocks, and one DEVELOP for each negative. -/
def State.restore (s : State) (w i : Nat) : State :=
  let q := (s.ward w).seqs.get i
  let s := s.giveBlocks w i 0 q.bcnt 3
  let s := s.setSq w i fun q => { q with st := .restoring, restored := false, restoreWait := (s.ward w).dieList.length * q.bcnt }
  let x := s.ward w
  let s := forEach (x.dieList.flatMap fun d => (x.blocksOf i 3).map fun b => (d, b)) s fun s (d, b) =>
    s.devIssue d { kind := .develop, src := 0, dst := BitVec.ofNat 48 (x.frameVa d b), ctx := q.ctx, ward := w,
                   use := .restore i (x.blocks.get b).ord }
  s

/-- Examine the sequences in queue order; a sequence that would break the reserve stops the rest. -/
def State.admitAll (w : Nat) (p : JobProg) (t : Nat) (ending : Bool) : List Nat → State → State
  | [], s => s
  | i :: r, s =>
    let x := s.ward w
    let q := x.seqs.get i
    let e := x.registry.get q.ctx
    let hot := x.noHot || e.hot == .hot
    if e.res ≠ .resident ∨ e.st ≠ .registered ∨ (e.swArmed && e.swWait) ∨ (ending && q.st == .queued) then
      State.admitAll w p t ending r s
    else if !hot then State.admitAll w p t ending r (s.loadAdapter w q.ctx)
    else
      match p.target t with
      | none => State.admitAll w p t ending r s
      | some b =>
        match x.place p b q.ctx with
        | none => State.admitAll w p t ending r s
        | some pv =>
          let need := if q.st = .queued then max 1 ((q.prompt + 63) / 64) else q.bcnt
          if x.freeBlocks < need + x.reg oSeqAdmit then s
          else if q.st = .queued then
            let s := s.giveBlocks w i 0 need 1
            let s := (s.setSq w i fun q => { q with st := .running, start := x.num, started := true, bcnt := need }).seat w i b pv
            State.admitAll w p t ending r (s.setReg w q.ctx fun e => { e with pins := e.pins + 1 })
          else State.admitAll w p t ending r (s.restore w i)

/-- Restored sequences take a position of the group whose token boundary comes next; their blocks come into use and their
spill chunks go free (R290, R314). -/
def State.joinRestored (s : State) (w : Nat) (p : JobProg) (t : Nat) : State :=
  forEach ((s.ward w).live.filter fun e => e.2.st = .restoring && e.2.restored && ((s.ward w).registry.get e.2.ctx).res == .resident) s fun s (i, q) =>
    match p.target (t + 1) with
    | none => s
    | some b =>
      match (s.ward w).place p b q.ctx with
      | none => s
      | some pv =>
        let s := forEach ((s.ward w).blocksOf i 3) s fun s k => s.setBlk w k fun y => { y with st := 1 }
        ((s.freeSpillOf w i).setSq w i fun q => { q with st := .running, restored := false }).seat w i b pv

def State.admission (s : State) (w : Nat) (p : JobProg) (t : Nat) (may : Bool) : State :=
  let s := s.joinRestored w p t
  if !may then s.modWard w fun x => { x with evNoAdm := incSat x.evNoAdm }
  else
    let cand := sortBy queueSq ((s.ward w).live.filter fun e => (e.2.st = .queued || e.2.st = .preempted) && e.2.mark.isNone)
    State.admitAll w p t ((((s.ward w).job.map (·.ending))).getD false) (cand.map (·.1)) s

/-! ### The row of the context table (R311, R329) -/

/-- Training contexts that may fill a position. -/
def Ward.trainers (x : Ward) : List Nat :=
  (x.trains.filter fun e => e.2.st = .accum && (!e.2.stopping || e.2.begun) &&
    (x.registry.get e.1).res == .resident && (x.registry.get e.1).st != .forced).map (·.1)

/-- The entry of position `k` of group `b` at its token boundary. -/
def Ward.rowEnt (x : Ward) (p : JobProg) (b k : Nat) : CtxEnt :=
  if p.training.contains k then
    match x.trainers[p.training.idxOf k]? with
    | none => {}
    | some c => { ctx := c, gen := BitVec.ofNat 16 ((x.trains.get c).stepDone + 1), bgen := x.baseGen, vecs := p.vectors - 1 }
  else
    let at' := x.live.filter fun e => e.2.placed && e.2.bg = b && e.2.pos = k && !e.2.defer && e.2.st = .running
    match at' with
    | [] => {}
    | (_, q) :: _ => { ctx := q.ctx, gen := (x.registry.get q.ctx).gen, bgen := x.baseGen, vecs := at'.length - 1 }

def State.writeRow (s : State) (w : Nat) (p : JobProg) (b : Nat) : State :=
  let s := forEach (List.range p.positions) s fun s k => s.setCtxEnt w (1024 * b + k) ((s.ward w).rowEnt p b k)
  let cs := ((s.ward w).ctxTab.filter fun e => e.1 / 1024 = b && e.2.ctx ≠ 0).map fun e => e.2.ctx
  let s := forEach cs.dedup s fun s c => s.setReg w c fun e => { e with lastUse := (s.ward w).num }
  let tr := (p.training.map fun k => ((s.ward w).ctxTab.get (1024 * b + k)).ctx).filter (· ≠ 0)
  let s := forEach tr.dedup s fun s c => s.modWard w fun x => { x with trains := x.trains.modify c fun t => { t with begun := true } }
  s.modWard w fun x => { x with seqs := x.seqs.map fun e =>
    if e.2.bg = b ∧ e.2.placed ∧ e.2.st = .running then (e.1, { e.2 with inStep := !e.2.defer }) else e }

/-! ### The serving actions of a boundary (R313) -/

/-- TIE_POOL_FREE (R292). -/
def State.poolMark (s : State) (w : Nat) : State :=
  s.modWard w fun x => { x with poolFree := x.freeBlocks, poolLow := min x.poolLow x.freeBlocks }

def State.hotLoads (s : State) (w : Nat) : State :=
  forEach (((s.ward w).registry.filter fun e => e.2.hot = .loading && e.2.loaded).map (·.1)) s fun s c =>
    s.setReg w c fun e => { e with hot := .hot, loaded := false }

/-- The first part of R313 for the boundary that begins beat `t` of the job: copies that became hot, the
tokens of the group that leaves the last stage, hinge switches. Commits of training follow it (R343). -/
def State.serveHinges (s : State) (w : Nat) (p : JobProg) (t : Nat) : State :=
  let s := (s.freeSpilled w).hotLoads w
  let s := match p.leaving t with
    | some b => s.stepEnd w b
    | none => s
  s.hinges w p t

end Sys2Proof.Machine
end

