-- ==== Sys2Proof/Machine/DmaData.lean ====
section
/-! DEFINITION. DMA descriptors (R231 to R237), what each kind moves (R235 to R241, R244, R261), and the
accesses a descriptor makes. -/

namespace Sys2Proof.Machine
open Sys2Proof

/-! ### Fields (R231) -/

def Desc.wd (d : Desc) (k : Nat) : W64 := d.words.getD k 0
def Desc.kind (d : Desc) : Nat := wf (d.wd 0) 63 60
def Desc.sel (d : Desc) : Nat := wf (d.wd 0) 59 57
def Desc.del (d : Desc) : Nat := wf (d.wd 0) 56 54
def Desc.pfmt (d : Desc) : Fmt := Fmt.ofBits (wf (d.wd 0) 53 52)
def Desc.esz (d : Desc) : Nat := wf (d.wd 0) 51 49
def Desc.pad (d : Desc) : Bool := wbit (d.wd 0) 48
def Desc.cf (d : Desc) : Bool := wbit (d.wd 0) 47
def Desc.xstage (d : Desc) : Bool := wbit (d.wd 0) 46
def Desc.fill (d : Desc) : W32 := BitVec.ofNat 32 (wf (d.wd 0) 31 0)
def Desc.src (d : Desc) : Nat := wf (d.wd 1) 47 0
def Desc.dst (d : Desc) : Nat := if d.kind = 3 then wf (d.wd 2) 47 0 / 16 * 16 else wf (d.wd 2) 47 0
def Desc.sshp (d : Desc) : Nat := wf (d.wd 3) 47 0
def Desc.dshp (d : Desc) : Nat := wf (d.wd 4) 47 0
def Desc.next (d : Desc) : Nat := wf (d.wd 5) 47 0
def Desc.xaddr (d : Desc) : Nat := wf (d.wd 6) 63 16
def Desc.cw (d : Desc) : Cw := cwOf (BitVec.ofNat 16 (wf (d.wd 6) 15 0))
def Desc.ctx (d : Desc) : Nat := wf (d.wd 7) 63 48
def Desc.caddr (d : Desc) : Nat := wf (d.wd 7) 47 3 * 8

/-- Size of one unit of element code `e` (0 RAW to 4 square plate). -/
def elemSize (e esz : Nat) (f : Fmt) : Nat :=
  match e with
  | 0 => 2 ^ esz
  | 1 => 4
  | 2 => 2
  | 3 => linePlateSize f
  | _ => squarePlateSize f

def Desc.dfmt (d : Desc) : Fmt := if d.kind = 1 then d.cw.fmt else d.pfmt
def Desc.sunit (d : Desc) : Nat := elemSize d.sel d.esz d.pfmt
def Desc.dunit (d : Desc) : Nat := if d.kind = 3 then 272 else elemSize d.del d.esz d.dfmt
def plateElem (e : Nat) : Bool := e = 3 || e = 4

/-! ### The walk (R234, R235) -/

/-- Index `n` of a walk over counts, dimension 0 fastest. -/
def unrank : List Nat → Nat → List Nat
  | [], _ => []
  | c :: r, n => n % c :: unrank r (n / c)

def Shape.units (x : Shape) : Nat := x.cnts.foldl (· * ·) 1

/-- Address of one unit, before any forced alignment. -/
def Shape.raw (x : Shape) (base : Nat) (i : List Nat) : Nat :=
  (((base : Int) + ((i.zip x.strs).map fun (a, b) => (a : Int) * b).sum) % 281474976710656).toNat

def Shape.at (x : Shape) (plate : Bool) (base : Nat) (i : List Nat) : Nat :=
  let a := x.raw base i
  if plate then a / 16 * 16 else a

/-- Every index lies below its count. -/
def Shape.holds (x : Shape) (i : List Nat) : Bool := (i.zip x.cnts).all fun (a, c) => decide (a < c)

/-- Dense strides over counts (R234). -/
def denseStrs (u : Nat) : List Nat → List Int
  | [] => []
  | c :: r => (u : Int) :: denseStrs (u * c) r

/-- Words of a shape record as a shape (R233). -/
def shapeOf (w : List W64) : Shape :=
  { strs := (List.range 5).map fun k => sgn48 (wf (w.getD k 0) 47 0),
    cnts := [wf (w.getD 5 0) 23 0 + 1, wf (w.getD 5 0) 47 24 + 1, wf (w.getD 6 0) 23 0 + 1, wf (w.getD 6 0) 47 24 + 1,
             wf (w.getD 7 0) 23 0 + 1] }
where sgn48 (v : Nat) : Int := if v < 2 ^ 47 then v else (v : Int) - 2 ^ 48

/-- Reserved bits of a shape record. -/
def shapeOk (w : List W64) : Bool :=
  ((List.range 7).all fun k => wf (w.getD k 0) 63 48 = 0) && wf (w.getD 7 0) 63 24 = 0

/-- The destination shape of a descriptor: its record, or the dense default. -/
def Desc.denseShape (d : Desc) : Shape :=
  let c := d.sshape.cnts
  let c := if d.kind = 4 then c.getD 1 1 :: c.getD 0 1 :: c.drop 2 else c
  { cnts := c, strs := denseStrs d.dunit c }

/-- Source index of a destination index (R241). -/
def Desc.srcIdx (d : Desc) (i : List Nat) : List Nat :=
  if d.kind = 4 then i.getD 1 0 :: i.getD 0 0 :: i.drop 2 else i

/-- Vectors of a SKEW (R239). -/
def Desc.vectors (d : Desc) : Nat := (d.sshape.cnts.drop 1).foldl (· * ·) 1

/-- Element extents of a plate side (R235). -/
def plateExtent (e : Nat) (c : List Nat) : List Nat :=
  match c with
  | a :: b :: r => if e = 3 then a * 512 :: b :: r else a * 32 :: b * 32 :: r
  | l => l

/-! ### What a descriptor accesses -/

/-- Source units read, as address and length. -/
def Desc.reads (d : Desc) : List (Nat × Nat) :=
  let u := d.sunit
  let sp := plateElem d.sel
  match d.kind with
  | 1 => -- PACK: the source elements that lie within the destination's extent
    let ext := plateExtent d.del d.dshape.cnts
    (List.range d.sshape.units).filterMap fun n =>
      let i := unrank d.sshape.cnts n
      if (i.zip ext).all fun (a, c) => decide (a < c) then some (d.sshape.at false d.src i, u) else none
  | 2 => -- UNPACK: the plates that hold a valid element
    (List.range d.sshape.units).filterMap fun n =>
      let i := unrank d.sshape.cnts n
      let lo := match i with
        | a :: b :: r => if d.sel = 3 then a * 512 :: b :: r else a * 32 :: b * 32 :: r
        | l => l
      if d.dshape.holds lo then some (d.sshape.at true d.src i, u) else none
  | 3 =>
    (List.range d.sshape.units).filterMap fun n =>
      let i := unrank d.sshape.cnts n
      if sp then some (d.sshape.at true d.src i + 0, u)
      else if i.getD 0 0 < 256 then some (d.sshape.at false d.src i, u) else none
  | _ =>
    (List.range d.dshape.units).filterMap fun n =>
      let i := d.srcIdx (unrank d.dshape.cnts n)
      if d.sshape.holds i then some (d.sshape.at sp d.src i, u) else none

/-- A plate of the destination holds a valid element (R236). -/
def Desc.packValid (d : Desc) (i : List Nat) : Bool :=
  d.sshape.holds (match i with
    | a :: b :: r => if d.del = 3 then a * 512 :: b :: r else a * 32 :: b * 32 :: r
    | l => l)

/-- Destination units written. -/
def Desc.writes (d : Desc) : List (Nat × Nat) :=
  let u := d.dunit
  match d.kind with
  | 1 => (List.range d.dshape.units).filterMap fun n =>
      let i := unrank d.dshape.cnts n
      if d.pad || d.packValid i then some (d.dshape.at true d.dst i, u) else none
  | 2 => (List.range d.dshape.units).filterMap fun n =>
      let i := unrank d.dshape.cnts n
      if d.pad || ((i.zip (plateExtent d.sel d.sshape.cnts)).all fun (a, c) => decide (a < c)) then some (d.dshape.at false d.dst i, u) else none
  | 3 => (List.range (d.vectors + 255)).map fun r => (d.dst + 272 * r, 272)
  | _ => (List.range d.dshape.units).filterMap fun n =>
      let i := unrank d.dshape.cnts n
      if d.pad || d.sshape.holds (d.srcIdx i) then some (d.dshape.at (plateElem d.del) d.dst i, u) else none

/-- Bytes of supplied exponents at XADDR (R240). -/
def Desc.supBytes (d : Desc) : Nat :=
  if !d.cw.supplied then 0
  else match d.kind with
    | 1 => d.dshape.units * (if d.del = 3 then 16 else 1)
    | 3 => 8 * d.vectors
    | _ => 0

/-- Bytes of the stage area (R247). -/
def Desc.stageBytes (d : Desc) : Nat :=
  if d.xstage then d.sshape.cnts.getD 0 1 * d.sshape.cnts.getD 0 1 * d.sunit else 0

/-- Every access of the descriptor: address, length, write. -/
def Desc.accesses (d : Desc) : List (Nat × Nat × Bool) :=
  d.reads.map (fun (a, n) => (a, n, false)) ++ d.writes.map (fun (a, n) => (a, n, true)) ++
  (if d.supBytes = 0 then [] else [(d.xaddr, d.supBytes, false)]) ++
  (if d.stageBytes = 0 then [] else [(d.xaddr, d.stageBytes, true)])

/-! ### What it writes -/

/-- One write: address, bytes, which bytes come from a poisoned sector of a RAW source, and whether it is a
poison write (R481). -/
structure DWr where
  va : Nat
  bytes : List Byte
  bad : List Bool := []
  typed : Bool := false
deriving DecidableEq, Repr, Inhabited

/-- The data effect of a descriptor as worked out: the state after its reads, its writes in walk order, what
it adds to its site block by block (R57, R62), the generator. -/
structure DOut where
  s : State
  ws : List DWr := []
  deltas : List SiteDelta := []
  gen : W32 := 1

/-- A plate in a B-format carries poison (R41 to R43, R481). -/
def platePoison (square : Bool) (f : Fmt) (bs : List Byte) : Bool :=
  ((List.range (if square then 1 else 16)).any fun k => bs.getD k 0 == 0x80) ||
  ((f = .b4 || f = .b8) &&
    (List.range (if square then 1024 else 512)).any fun j => patternAt f (fun b => bs.getD (16 + b) 0) j = markerOf f)

/-- The same plate with every scale byte 0x80 (R261). -/
def spoilPlate (square : Bool) (bs : List Byte) : List Byte :=
  let n := if square then 1 else 16
  List.replicate n 0x80 ++ bs.drop n

/-- A plate from a tile store: every block that holds a word with an uncorrectable error has scale byte 0x80 (R470). -/
def spoilBlocks (square : Bool) (bs : List Byte) (soft : List Bool) : List Byte :=
  if !soft.any id then bs
  else if square then 0x80 :: bs.drop 1
  else
    let n := (bs.length - 16) / 16
    ((List.range 16).map fun j =>
      if soft.getD j false || ((soft.drop (16 + n * j)).take n).any id then 0x80 else bs.getD j 0) ++ bs.drop 16

/-- A square plate as a unit writes it: bytes 1 to 15 are zero (R48). -/
def squareBytes (bs : List Byte) : List Byte := bs.take 1 ++ List.replicate 15 0 ++ bs.drop 16

/-- The zero plate (R236). -/
def zeroPlate (square : Bool) (f : Fmt) : List Byte :=
  (if square then (0x82 : Byte) :: List.replicate 15 0 else List.replicate 16 0x82) ++
  List.replicate (plateSize square f - 16) (if f = .b1 then 0xFF else 0)

/-- An FP32 or BF16 unit as FP32; poisoned where its sector is. -/
def elemVal (e : Nat) (o : RdOut) : W32 :=
  if o.bad.any id || o.soft.any id then f32Poison
  else if e = 1 then BitVec.ofNat 32 (leNat o.bytes) else bf16ToF32 (BitVec.ofNat 16 (leNat o.bytes))

def elemBytes (e : Nat) (v : W32) : List Byte := if e = 1 then toLE 4 v.toNat else toLE 2 (f32ToBf16 v).toNat

/-- R236: the fill of a pad unit. -/
def Desc.fillBytes (d : Desc) : List Byte :=
  match d.del with
  | 0 => (List.range d.dunit).map fun j => (toLE 4 d.fill.toNat).getD (j % 4) 0
  | 1 => toLE 4 d.fill.toNat
  | 2 => toLE 2 d.fill.toNat
  | e => zeroPlate (e = 4) d.dfmt

def Desc.fillPoison (d : Desc) : Bool :=
  (d.del = 1 && d.fill == f32Poison) || (d.del = 2 && d.fill.setWidth 16 == bf16Poison)

/-- COPY and TCOPY of one destination unit. -/
def copyUnit (w : Nat) (d : Desc) (un : List Nat) (o : DOut) (i : List Nat) : DOut :=
  let si := d.srcIdx i
  let va := d.dshape.at (plateElem d.del) d.dst i
  if !d.sshape.holds si then
    if d.pad then { o with ws := o.ws ++ [{ va := va, bytes := d.fillBytes, typed := d.fillPoison }] } else o
  else
    let (s, r) := o.s.readVa w d.ctx (d.sshape.at (plateElem d.sel) d.src si) d.sunit un
    let x : DWr := match d.sel with
      | 0 => { va := va, bytes := r.bytes, bad := r.bad }
      | 1 | 2 =>
        let v := elemVal d.sel r
        let bs := if d.sel = d.del ∧ v ≠ f32Poison then r.bytes else elemBytes d.del v
        { va := va, bytes := bs, typed := v == f32Poison }
      | e =>
        let bs := if r.bad.any id then spoilPlate (e = 4) r.bytes else spoilBlocks (e = 4) r.bytes r.soft
        let bs := if e = 4 then squareBytes bs else bs
        { va := va, bytes := bs, typed := platePoison (e = 4) d.pfmt bs }
    { o with s := s, ws := o.ws ++ [x] }

/-- The source elements of a PACK or SKEW block at the indices `is`; `none` is a pad position. -/
def packElems (w : Nat) (d : Desc) (un : List Nat) (s : State) (is : List (List Nat)) : State × List (Option W32) :=
  is.foldl (fun (s, xs) i =>
    if d.sshape.holds i then
      let (s, r) := s.readVa w d.ctx (d.sshape.at false d.src i) d.sunit un
      (s, xs ++ [some (elemVal d.sel r)])
    else (s, xs ++ [none])) (s, [])

/-- A supplied exponent of the descriptor. -/
def State.supAt (s : State) (w : Nat) (d : Desc) (k : Nat) : Int :=
  if d.cw.supplied then ((s.readVa w d.ctx (d.xaddr + k) 1).2.bytes.headD 0).toInt else 0

/-- Convert one block, drawing from the channel's generator (R240). -/
def packBlock (d : Desc) (es : Int) (g : W32) (xs : List (Option W32)) : Conv × W32 :=
  let (us, g) := drawBlock d.cw es g xs
  (convBlock d.cw es us xs, g)

/-- PACK of destination plate number `n` (R240). -/
def packPlate (w : Nat) (d : Desc) (un : List Nat) (o : DOut) (n : Nat) : DOut :=
  let i := unrank d.dshape.cnts n
  let va := d.dshape.at true d.dst i
  let sq : Bool := decide (d.del = 4)
  if !d.packValid i then
    if d.pad then { o with ws := o.ws ++ [{ va := va, bytes := zeroPlate sq d.dfmt }] } else o
  else
    let a := i.getD 0 0
    let b := i.getD 1 0
    let rest := i.drop 2
    let blocks := if sq then [(List.range 1024).map fun k => (32 * a + k % 32) :: (32 * b + k / 32) :: rest]
      else (List.range 16).map fun j => (List.range 32).map fun k => (512 * a + 32 * j + k) :: b :: rest
    let (s, cs, g) := (blocks.zipIdx).foldl (fun (s, cs, g) (is, j) =>
      let (s, xs) := packElems w d un s is
      let (c, g) := packBlock d (s.supAt w d (if sq then n else 16 * n + j)) g xs
      (s, cs ++ [c], g)) (o.s, [], o.gen)
    let scales := cs.map fun c => BitVec.ofInt 8 c.scale
    let bs := (if sq then scales ++ List.replicate 15 0 else scales) ++ packPatterns d.dfmt (cs.flatMap (·.codes))
    { s := s, gen := g, deltas := o.deltas ++ cs.map (·.delta),
      ws := o.ws ++ [{ va := va, bytes := bs, typed := cs.any (·.poison) }] }

/-- UNPACK of one destination element (R240). -/
def unpackElem (w : Nat) (d : Desc) (un : List Nat) (o : DOut) (i : List Nat) : DOut :=
  let va := d.dshape.at false d.dst i
  if !((i.zip (plateExtent d.sel d.sshape.cnts)).all fun (a, c) => decide (a < c)) then
    if d.pad then { o with ws := o.ws ++ [{ va := va, bytes := d.fillBytes, typed := d.fillPoison }] } else o
  else
    let sq := d.sel = 4
    let a := i.getD 0 0
    let b := i.getD 1 0
    let pi := if sq then a / 32 :: b / 32 :: i.drop 2 else a / 512 :: b :: i.drop 2
    let k := if sq then 32 * (b % 32) + a % 32 else a % 512
    let (s, r) := o.s.readVa w d.ctx (d.sshape.at true d.src pi) d.sunit un
    let first := if sq then 0 else k / 32 * 32
    let n := if sq then 1024 else 32
    let sc := if r.bad.any id then 0x80 else (spoilBlocks sq r.bytes r.soft).getD (if sq then 0 else k / 32) 0
    let c := (blockElems d.pfmt sc (fun j => r.bytes.getD (16 + j) 0) first n).getD (k - first) none
    let v := expandCode c sc
    { o with s := s, ws := o.ws ++ [{ va := va, bytes := elemBytes d.del v, typed := v == f32Poison }] }

/-- One vector of a SKEW: 8 scale bytes and 256 codes (R239). -/
def skewVec (w : Nat) (d : Desc) (un : List Nat) (o : DOut) (v : Nat) : DOut × (List Byte × List Byte × Bool) :=
  let tail := unrank (d.sshape.cnts.drop 1) v
  if d.sel = 3 then
    let a := d.sshape.raw d.src (0 :: tail)
    let h := a % 2
    let (s, r) := o.s.readVa w d.ctx (a / 16 * 16) d.sunit un
    let bs := if r.bad.any id then spoilPlate false r.bytes else spoilBlocks false r.bytes r.soft
    let sc := (bs.drop (8 * h)).take 8
    let co := (bs.drop (16 + 256 * h)).take 256
    ({ o with s := s }, sc, co, sc.contains 0x80 || co.contains 0x80)
  else
    let (o, sc, co, p) := (List.range 8).foldl (fun ((o : DOut), (sc : List Byte), (co : List Byte), (p : Bool)) j =>
      let (s, xs) := packElems w d un o.s ((List.range 32).map fun k => (32 * j + k) :: tail)
      if xs.all (·.isNone) then ({ o with s := s }, sc ++ [0], co ++ List.replicate 32 0, p)
      else
        let (c, g) := packBlock d (s.supAt w d (8 * v + j)) o.gen xs
        ({ o with s := s, gen := g, deltas := o.deltas ++ [c.delta] }, sc ++ [BitVec.ofInt 8 c.scale],
          co ++ c.codes.map (BitVec.ofNat 8), p || c.poison)) (o, [], [], false)
    (o, sc, co, p)

/-- The rows of a skewed run from its vectors (R51). -/
def skewRow (vs : List (List Byte × List Byte × Bool)) (r : Nat) : List Byte × Bool :=
  let at' (off : Nat) := if off ≤ r then vs[r - off]? else none
  let sc := (List.range 8).map fun j => match at' (32 * j) with | some (s, _, _) => s.getD j 0 | none => 0
  let co := (List.range 256).map fun k => match at' k with | some (_, c, _) => c.getD k 0 | none => 0
  (sc ++ List.replicate 8 0 ++ co, sc.contains 0x80 || co.contains 0x80)

/-- The data effect of a descriptor of ward `w`: `jb` is jobbeat, `un` the sectors that came back
uncorrectable. -/
def dmaPlan (s : State) (w : Nat) (d : Desc) (gen : W32) (jb : Nat) (un : List Nat) : DOut :=
  let seeded : Bool := decide (d.kind = 1 ∨ d.kind = 3) && d.cw.rnd == .sr && d.fill != 0
  let g := if seeded then (let v := d.fill ^^^ BitVec.ofNat 32 jb; if v = 0 then 1 else v) else gen
  let o : DOut := { s := s, gen := g }
  match d.kind with
  | 1 => (List.range d.dshape.units).foldl (packPlate w d un) o
  | 2 => (List.range d.dshape.units).foldl (fun o n => unpackElem w d un o (unrank d.dshape.cnts n)) o
  | 3 =>
    let (o, vs) := (List.range d.vectors).foldl (fun (o, vs) v =>
      let (o, x) := skewVec w d un o v
      (o, vs ++ [x])) (o, [])
    { o with ws := (List.range (d.vectors + 255)).map fun r =>
        let (bs, p) := skewRow vs r
        { va := d.dst + 272 * r, bytes := bs, typed := p } }
  | _ => (List.range d.dshape.units).foldl (fun o n => copyUnit w d un o (unrank d.dshape.cnts n)) o

/-- The descriptor adds to a statistics site (R57, R240). -/
def Desc.counts (d : Desc) : Bool := (d.kind = 1 || d.kind = 3) && (d.sel = 1 || d.sel = 2)

/-- Some byte that the accesses read lies in the host tier or the peer tier: the machine does not hold it. -/
def State.readsOut (s : State) (w c : Nat) (acc : List (Nat × Nat × Bool)) : Bool :=
  acc.any fun (a, n, wr) => !wr && (pieces a n).any fun (p, _) => match s.xlate w c p false with
    | .ok l => l.kind == .host || l.kind == .peer
    | .error _ => false

/-- What a block of unknown elements adds to its site: free values. -/
def freeDelta (n : Nat) : SiteDelta :=
  { total := (Config.freeW16 n).toNat, saturated := (Config.freeW16 (n + 1)).toNat, vanished := (Config.freeW16 (n + 2)).toNat,
    overridden := (Config.freeByte n).toNat % 2, marked := (Config.freeW16 (n + 3)).toNat, sqerr := [Config.freeW32 n] }

/-- Of an operation that is under way, some of its blocks are written: `n` to all of them, a free number (R62). `ds` are the
blocks' counts, free values where `out`. -/
def State.someBlocks (s : State) (n : Nat) (out : Bool) (ds : List SiteDelta) : State × Nat × SiteDelta :=
  let (k, s) := s.takeFresh
  let m := n + (Config.freeW32 k).toNat % (ds.length - n + 1)
  let part := (ds.take m).drop n
  if out then ({ s with fresh := s.fresh + 4 * part.length }, m, sumDeltas ((List.range part.length).map fun j => freeDelta (s.fresh + 4 * j)))
  else (s, m, sumDeltas part)

/-- The blocks that the descriptor in progress of channel `c` has written by now are added to its site (R57, R62). -/
def State.countPart (s : State) (c w : Nat) : State :=
  let x := s.chan c
  match x.desc with
  | none => s
  | some d =>
    if d.counts then
      let (s, m, dl) := s.someBlocks x.counted (s.readsOut w d.ctx d.accesses) (dmaPlan s w d x.gen (s.ward w).jb []).deltas
      (s.addSite (c / 64) d.cw.site dl).modChan c fun x => { x with counted := m }
    else s

/-! ### Writing -/

/-- Physical bytes that a descriptor reads, as ranges. -/
def State.physReads (s : State) (w : Nat) (d : Desc) : List (Nat × Nat) :=
  d.reads.flatMap fun (a, n) => (pieces a n).filterMap fun (a, n) =>
    match s.xlate w d.ctx a false with
    | .ok l => some (l.pa, n)
    | .error _ => none

/-- R256, R260, overlap: of each byte that `pick` names, either the old or the new value stays. -/
def State.mixBytes (s : State) (w c va : Nat) (bs : List Byte) (pick : Nat → Bool) : List Byte × State :=
  if (List.range bs.length).any pick then
    let old := (s.readVa w c va bs.length).2.bytes
    ((bs.zipIdx).map fun (b, k) => if pick k && (Config.freeByte (s.fresh + k)).getLsbD 0 then old.getD k 0 else b,
     { s with fresh := s.fresh + bs.length })
  else (bs, s)

/-- Writes that follow one another at rising addresses are one access. -/
def coalesce : List DWr → List DWr
  | [] => []
  | x :: r =>
    match coalesce r with
    | [] => [x]
    | y :: ys =>
      if y.va = x.va + x.bytes.length then
        let full (z : DWr) : List Bool := if z.bad = [] then List.replicate z.bytes.length false else z.bad
        { va := x.va, bytes := x.bytes ++ y.bytes, bad := if x.bad = [] ∧ y.bad = [] then [] else full x ++ full y,
          typed := x.typed || y.typed } :: ys
      else x :: y :: ys

/-- One write of a descriptor. `mix` leaves every byte open; `reads` are the bytes it also reads. -/
def State.dmaWrite (s : State) (w c : Nat) (mix : Bool) (reads : List (Nat × Nat)) (x : DWr) : State :=
  let hit (k : Nat) : Bool := mix || (reads.any fun (p, n) =>
    match s.xlate w c (x.va + k) true with
    | .ok l => decide (p ≤ l.pa) && decide (l.pa < p + n)
    | .error _ => false)
  let (bs, s) := if mix || !reads.isEmpty then s.mixBytes w c x.va x.bytes hit else (x.bytes, s)
  let s := s.writeVa w c x.va bs
  if x.bad.any id then
    forEach (List.range bs.length) s fun s k =>
      if x.bad.getD k false then
        match s.xlate w c (x.va + k) true with
        | .ok l => if l.kind = .stack then s.poisonSec (l.pa / 256) (s.slot l.slot).key else s
        | .error _ => s
      else s
  else s

/-- Tile-store banks into which a write puts typed poison. -/
def State.poisonBanks (s : State) (w c : Nat) (ws : List DWr) : List (Nat × Nat) :=
  ((ws.filter (·.typed)).flatMap fun x => (pieces x.va x.bytes.length).filterMap fun (a, _) =>
    match s.xlate w c a true with
    | .ok l => if l.kind = .store then some (l.tile, (l.pa - tileBase l.tile) / 65536) else none
    | .error _ => none).dedup

/-- A RAW source byte from a poisoned sector that its destination cannot carry (R261, last row). -/
def State.cannotCarry (s : State) (w c : Nat) (ws : List DWr) : Bool :=
  ws.any fun x => (List.range x.bytes.length).any fun k => x.bad.getD k false &&
    match s.xlate w c (x.va + k) true with
    | .ok l => l.kind != .stack
    | .error _ => false

end Sys2Proof.Machine
end

