-- ==== Sys2Proof/Machine/TrainMath.lean ====
section
/-! DEFINITION. The arithmetic of the update engine (R341, R345 to R350): sums in the order of R209, binary64
scalars, the rules M, A, F and P on the elements of one tensor. -/

namespace Sys2Proof.Machine
open Sys2Proof

/-! ### Sums (R209, R341) -/

/-- Neighbours added in pairs; a lone last element stands for itself plus nothing. -/
def pairUp : List W32 → List W32
  | a :: b :: r => f32Add a b :: pairUp r
  | l => l

def treeOf : Nat → List W32 → W32
  | 0, l => l.headD 0
  | n + 1, l => treeOf n (pairUp l)

/-- One run of 256 elements, a short run filled with +0 (log entry 40). -/
def runSum (l : List W32) : W32 := treeOf 8 (l ++ List.replicate (256 - l.length) 0)

/-- Runs of 256 in ascending order. -/
def runsSum (l : List W32) : W32 :=
  match (List.range ((l.length + 255) / 256)).map fun k => runSum ((l.drop (256 * k)).take 256) with
  | [] => 0
  | a :: r => r.foldl f32Add a

/-! ### Binary64 (R345, R350) -/

/-- Round to nearest even with 53 significant bits; every value here is in the normal range of binary64. -/
def rnd53 (x : Dy) : Dy :=
  let l := x.m.natAbs.log2
  if l < 53 then x else ⟨rneDiv x.m (2 ^ (l - 52)), x.e + (l - 52 : Nat)⟩

/-- The binary64 quotient of two naturals. -/
def div53 (a b : Nat) : Dy :=
  if a = 0 ∨ b = 0 then Dy.zero
  else
    let k : Int := 52 + (b.log2 : Int) - (a.log2 : Int)
    let n (k : Int) : Nat := if 0 ≤ k then a * 2 ^ k.toNat else a
    let d (k : Int) : Nat := if 0 ≤ k then b else b * 2 ^ (-k).toNat
    let k := if n k < d k * 2 ^ 52 then k + 1 else k
    ⟨rneDiv (n k) (d k), -k⟩

def f32OfNat (n : Nat) : W32 := f32Rne ⟨n, 0⟩

/-- Steering factor of a group (R350): counts of saturated, vanished and converted elements. -/
def steerOf (smin ks : W32) (n : Nat × Nat × Nat) : W32 :=
  let f := div53 (n.1 + n.2.1) n.2.2
  let v := rnd53 ((Dy.mk 1 0).sub (rnd53 ((f32Val ks).mul f)))
  if v.le (f32Val smin) then smin else f32Rne v

/-- lr of a group (R345). -/
def groupLr (lr lrm s : W32) : W32 :=
  if !f32Finite lrm then f32Mul (f32Mul lr lrm) s else
  f32Rne (rnd53 ((rnd53 ((f32Val lr).mul (f32Val lrm))).mul (f32Val s)))

/-- 1 - beta. -/
def oneMinus (b : W32) : W32 :=
  if !f32Finite b then f32Add f32One (f32Flip b) else f32Rne (rnd53 ((Dy.mk 1 0).sub (f32Val b)))

/-- Natural `n` parts of `d` as an FP32 value: the nearest, ties to even; of a value below the normal range no bit is kept
that the format has not. -/
def f32Ratio (n d : Nat) : W32 :=
  if n = 0 ∨ d = 0 then 0
  else
    let k : Int := 60 + (d.log2 : Int) - (n.log2 : Int)
    let a := if 0 ≤ k then n * 2 ^ k.toNat else n
    let b := if 0 ≤ k then d else d * 2 ^ (-k).toNat
    -- a sticky bit below 60 exact ones
    f32Rne ⟨2 * (a / b : Nat) + (if a % b = 0 then 0 else 1), -k - 1⟩

/-- The bias correction 1 / (1 - beta^t) of R345. What the binary64 evaluation rounds on its way is not laid down: the value
is that of an exponential a free amount away from the exact one, at most one part in 2^40 (log entry 84). -/
def biasCorr (b : W32) (t : Nat) : W32 :=
  if !f32Finite b || f32Neg b || !f32Lt b f32One then Config.biasCorr b t
  else
    let v := f32Val b
    let e := (-v.e).toNat
    let p := v.m.natAbs ^ t * 2 ^ 40
    let q := (2 ^ e) ^ t * 2 ^ 40
    let r := q - p
    -- 1 / (1 - beta^t) = q / (q - p)
    f32Ratio q (r - r / 2 ^ 40 + (Config.biasCorr b t).toNat % (2 * (r / 2 ^ 40) + 1))

/-- The scalars of one group for one step. -/
structure GroupScal where
  lr : W32
  b1 : W32
  b2 : W32
  eps : W32
  wd : W32
  da : W32
  dr : W32
  c1 : W32
  c2 : W32
  k1 : W32
  k2 : W32
deriving DecidableEq, Repr, Inhabited

/-- R345 for step `t`. -/
def groupScal (g : TrainGroup) (lr s : W32) (t : Nat) : GroupScal :=
  { lr := groupLr lr g.lrm s, b1 := g.b1, b2 := g.b2, eps := g.eps, wd := g.wd, da := g.da, dr := g.dr,
    c1 := oneMinus g.b1, c2 := oneMinus g.b2, k1 := biasCorr g.b1 t, k2 := biasCorr g.b2 t }

/-! ### Rules M and A (R346) -/

/-- w - lr * fma(wd, w, u). -/
def decay (c : GroupScal) (w u : W32) : W32 := f32Add w (f32Flip (f32Mul c.lr (f32Fma c.wd w u)))

def ruleM (c : GroupScal) (cf w m G : W32) : W32 × W32 :=
  let m := f32Fma c.b1 m (f32Mul cf G)
  (decay c w m, m)

def ruleA (c : GroupScal) (cf w m v G : W32) : W32 × W32 × W32 :=
  let g := f32Mul cf G
  let m := f32Fma c.b1 m (f32Mul c.c1 g)
  let v := f32Fma c.b2 v (f32Mul c.c2 (f32Mul g g))
  let u := f32Div (f32Mul m c.k1) (f32Add (f32Sqrt (f32Mul v c.k2)) c.eps)
  (decay c w u, m, v)

/-! ### Rule F (R347) -/

def sq (x : W32) : W32 := f32Mul x x

def rowsOf (n : Nat) (l : List W32) (rows : Nat) : List (List W32) :=
  (List.range rows).map fun i => (l.drop (i * n)).take n

/-- rs: each row's squares in the order of R209. -/
def rowSums (rows cols : Nat) (G : List W32) : List W32 := (rowsOf cols G rows).map fun r => runsSum (r.map sq)

/-- cs: each column's squares, rows ascending. -/
def colSums (rows cols : Nat) (G : List W32) : List W32 :=
  (rowsOf cols G rows).foldl (fun a r => (List.range cols).map fun j => f32Add (a.getD j 0) (sq (r.getD j 0)))
    (List.replicate cols 0)

/-- A factor of the second moment. -/
def factorF (c : GroupScal) (cf : W32) (n : Nat) (old sums : List W32) : List W32 :=
  (old.zip sums).map fun (r, x) => f32Fma c.b2 r (f32Mul c.c2 (f32Fma (f32Mul cf cf) (f32Div x (f32OfNat n)) c.eps))

def ruleF (c : GroupScal) (cf rm r k w m G : W32) : W32 × W32 :=
  let u := f32Div (f32Mul cf G) (f32Sqrt (f32Div (f32Mul r k) rm))
  let m := f32Fma c.b1 m (f32Mul c.c1 u)
  (decay c w m, m)

/-! ### Rule P (R348, R349) -/

/-- The Gram matrix of an r × n factor, row-major. -/
def gramOf (r n : Nat) (x : List W32) : List W32 :=
  let rs := rowsOf n x r
  rs.flatMap fun a => rs.map fun b => runsSum (List.zipWith f32Mul a b)

def dotTo (k : Nat) (a b : Nat → W32) : W32 := (List.range k).foldl (fun s i => f32Add s (f32Mul (a i) (b i))) 0

def maxDiag (r : Nat) (h : List W32) : W32 :=
  (List.range r).foldl (fun m a => let x := h.getD (a * r + a) 0; if f32Lt m x then x else m) (h.getD 0 0)

def fsub (a b : W32) : W32 := f32Add a (f32Flip b)

/-- Left-looking factorisation, column by column; inner sums in ascending k. -/
def cholesky (r : Nat) (h : List W32) (tau : W32) : Option (List W32) :=
  (List.range r).foldl (fun o j => match o with
    | none => none
    | some l =>
      let at' (i k : Nat) : W32 := l.getD (i * r + k) 0
      let p := fsub (h.getD (j * r + j) 0) (dotTo j (at' j) (at' j))
      if !f32Finite p || !f32Lt tau p then none
      else
        let d := f32Sqrt p
        some ((List.range (r * r)).map fun n =>
          if n % r = j then
            (if n / r = j then d
             else if j < n / r then f32Div (fsub (h.getD n 0) (dotTo j (at' (n / r)) (at' j))) d
             else 0)
          else l.getD n 0)) (some (List.replicate (r * r) 0))

/-- The damped factorisation of a Gram matrix: the factor, and whether the damping was raised. -/
def dampTry (r : Nat) (s : List W32) : Nat → W32 → Option (List W32)
  | 0, _ => none
  | n + 1, delta =>
    let h := (List.range (r * r)).map fun k => if k / r = k % r then f32Add (s.getD k 0) delta else s.getD k 0
    match cholesky r h (f32Mul 0x35800000 (maxDiag r h)) with
    | some l => some l
    | none => dampTry r s n (f32Mul delta (f32OfNat 10))

def firstDelta (c : GroupScal) (r : Nat) (s : List W32) : W32 :=
  let tr := (List.range r).foldl (fun a i => f32Add a (s.getD (i * r + i) 0)) 0
  let d := f32Add c.da (f32Mul c.dr (f32Div tr (f32OfNat r)))
  if f32IsZero d then f32Mul 0x33800000 (maxDiag r s) else d

/-- Forward then backward substitution on one column. -/
def solveCol (r : Nat) (l : List W32) (g : List W32) : List W32 :=
  let at' (i k : Nat) : W32 := l.getD (i * r + k) 0
  let y := (List.range r).foldl (fun y i => y ++ [f32Div (fsub (g.getD i 0) (dotTo i (at' i) fun k => y.getD k 0)) (at' i i)]) []
  (List.range r).foldl (fun x q =>
    let i := r - 1 - q
    let s := (List.range q).foldl (fun s j => f32Add s (f32Mul (at' (i + 1 + j) i) (x.getD j 0))) 0
    f32Div (fsub (y.getD i 0) s) (at' i i) :: x) []

/-- The preconditioned gradient of an r × n factor. -/
def precond (r n : Nat) (l : List W32) (g : List W32) : List W32 :=
  let cols := (List.range n).map fun j => solveCol r l ((List.range r).map fun i => g.getD (i * n + j) 0)
  (List.range r).flatMap fun i => cols.map fun c => c.getD i 0

def ruleP (c : GroupScal) (cf w m v G gp : W32) : W32 × W32 × W32 :=
  let g := f32Mul cf G
  let v := f32Fma c.b2 v (f32Mul c.c2 (f32Mul g g))
  let m := f32Fma c.b1 m (f32Mul c.c1 gp)
  (decay c w (f32Mul m c.k1), m, v)

/-! ### One tensor -/

def pad64 (n : Nat) : Nat := (n + 63) / 64 * 64

end Sys2Proof.Machine

namespace Sys2Proof

def Tensor.n (t : Tensor) : Nat := t.rows * t.cols

/-- Lengths of the state arrays of a tensor under a rule (R334). -/
def Tensor.arrays (t : Tensor) (rule : Nat) : List Nat :=
  match rule with
  | 0 => [t.n, t.n]
  | 2 => if 1 < t.rows ∧ 1 < t.cols then [t.n, t.n, t.rows, t.cols] else [t.n, t.n, t.n]
  | _ => [t.n, t.n, t.n]

/-- Bytes of the tensor's state, to the end of the last array. -/
def Tensor.stateBytes (t : Tensor) (rule : Nat) : Nat := ((t.arrays rule).map fun n => Machine.pad64 (4 * n)).sum

def TrainRec.rule (r : TrainRec) (t : Tensor) : Nat := ((r.groups[t.group]?).map (·.rule)).getD 0

end Sys2Proof

namespace Sys2Proof.Machine
open Sys2Proof

/-- What pass two makes of a tensor: its new state arrays. `gp` is the preconditioned gradient under rule P,
`none` for the fall-back of R349. -/
def newArrays (rule : Nat) (t : Tensor) (c : GroupScal) (cf : W32) (old : List (List W32)) (G : List W32)
    (rs cs : List W32) (gp : Option (List W32)) : List (List W32) :=
  let w := old.getD 0 []
  let m := old.getD 1 []
  let v := old.getD 2 []
  let cA := if rule = 2 then { c with k1 := f32One, k2 := f32One } else c
  let a := (List.range t.n).map fun i => ruleA cA cf (w.getD i 0) (m.getD i 0) (v.getD i 0) (G.getD i 0)
  match rule with
  | 0 =>
    let x := (List.range t.n).map fun i => ruleM c cf (w.getD i 0) (m.getD i 0) (G.getD i 0)
    [x.map (·.1), x.map (·.2)]
  | 2 =>
    if 1 < t.rows ∧ 1 < t.cols then
      let r := factorF c cf t.cols v rs
      let k := factorF c cf t.rows (old.getD 3 []) cs
      let rm := f32Div (runsSum r) (f32OfNat t.rows)
      let x := (List.range t.n).map fun i =>
        ruleF c cf rm (r.getD (i / t.cols) 0) (k.getD (i % t.cols) 0) (w.getD i 0) (m.getD i 0) (G.getD i 0)
      [x.map (·.1), x.map (·.2), r, k]
    else [a.map (·.1), a.map (·.2.1), a.map (·.2.2)]
  | 3 =>
    match gp with
    | some p =>
      let x := (List.range t.n).map fun i =>
        ruleP c cf (w.getD i 0) (m.getD i 0) (v.getD i 0) (G.getD i 0) (p.getD i 0)
      [x.map (·.1), x.map (·.2.1), x.map (·.2.2)]
    | none => [a.map (·.1), a.map (·.2.1), a.map (·.2.2)]
  | _ => [a.map (·.1), a.map (·.2.1), a.map (·.2.2)]

/-- The image of a tensor: plates of its weights, row-major, each row filled with code 0 to whole plates;
and what each block adds to the statistics. -/
def imagePlates (t : Tensor) (w : List W32) : List Byte × List SiteDelta :=
  let c := cwOf t.cw
  let el (i j : Nat) : Option W32 := if i < t.rows ∧ j < t.cols then some (w.getD (i * t.cols + j) 0) else none
  if c.square then
    (List.range ((t.rows + 31) / 32 * ((t.cols + 31) / 32))).foldl (fun (bs, d) n =>
      let pw := (t.cols + 31) / 32
      let x := convBlock c 0 [] ((List.range 1024).map fun k => el (n / pw * 32 + k / 32) (n % pw * 32 + k % 32))
      (bs ++ [BitVec.ofInt 8 x.scale] ++ List.replicate 15 0 ++ packPatterns c.fmt x.codes, d ++ [x.delta])) ([], [])
  else
    (List.range (t.rows * ((t.cols + 511) / 512))).foldl (fun (bs, d) n =>
      let pw := (t.cols + 511) / 512
      let xs := (List.range 16).map fun b =>
        convBlock c 0 [] ((List.range 32).map fun k => el (n / pw) (n % pw * 512 + 32 * b + k))
      (bs ++ xs.map (fun x => BitVec.ofInt 8 x.scale) ++ packPatterns c.fmt (xs.flatMap (·.codes)),
       d ++ xs.map (·.delta))) ([], [])

end Sys2Proof.Machine
end

