-- ==== Sys2Proof/Machine/TrainOps.lean ====
section
/-! DEFINITION. What the die controllers and update engines do for a training context: its windows (R334), the
accumulator (R335), pass one and pass two (R341, R342), digests and checkpoints (R352 to R356), the step
report (R351), the end of training (R359). -/

namespace Sys2Proof

/-! ### Windows (R334) -/

def TrainRec.win (r : TrainRec) (d : Nat) : Nat := (r.state.get d).toNat
def TrainRec.halfVa (r : TrainRec) (d h : Nat) : Nat := r.win d + h * r.half
def TrainRec.slotVa (r : TrainRec) (d k : Nat) : Nat := r.win d + (2 + k) * r.half
def TrainRec.accVa (r : TrainRec) (d : Nat) : Nat := r.win d + 4 * r.half
def TrainRec.imgVa (r : TrainRec) (d i : Nat) : Nat := r.win d + 4 * r.half + r.acc + i * r.img

/-- Tensors of die `d` with their indices, in table order. -/
def TrainRec.on (r : TrainRec) (d : Nat) : List (Nat × Tensor) :=
  (r.tensors.zipIdx).filterMap fun (t, k) => if t.die = d then some (k, t) else none

/-- Dies that hold tensors. -/
def TrainRec.dies (r : TrainRec) : List Nat := (List.range 8).filter fun d => r.tensors.any fun t => t.die = d

end Sys2Proof

namespace Sys2Proof.Machine
open Sys2Proof

def State.modTrain (s : State) (w c : Nat) (f : Train → Train) : State :=
  s.modWard w fun x => { x with trains := x.trains.modify c f }
def State.train (s : State) (w c : Nat) : Train := (s.ward w).trains.get c
/-- The number of the step in progress. -/
def Train.n (t : Train) : Nat := t.stepDone + 1

/-! ### FP32 arrays in the context's pages -/

/-- `n` FP32 values; a value from a poisoned sector is poison. -/
def State.rdF (s : State) (w c va n : Nat) : State × List W32 :=
  let (s, o) := s.readVa w c va (4 * n)
  (s, (List.range n).map fun k =>
    if ((o.bad.drop (4 * k)).take 4).any id then f32Poison
    else BitVec.ofNat 32 (leNat ((o.bytes.drop (4 * k)).take 4)))

def State.wrF (s : State) (w c va : Nat) (xs : List W32) : State :=
  s.writeVa w c va (xs.flatMap fun x => toLE 4 x.toNat)

def State.zeroVa (s : State) (w c va n : Nat) : State := s.writeVa w c va (List.replicate n 0)

/-- Bytes that hold no stated value afterwards. -/
def State.freeVa (s : State) (w c va n : Nat) : State :=
  let f := s.fresh
  ({ s with fresh := f + n }).writeVa w c va ((List.range n).map fun k => Config.freeByte (f + k))

def State.clearAcc (s : State) (w c : Nat) : State :=
  let r := (s.train w c).record
  forEach r.dies s fun s d => s.zeroVa w c (r.accVa d) r.acc

/-- The state arrays of a tensor, from half `h`. -/
def State.rdArrays (s : State) (w c : Nat) (base : Nat) (lens : List Nat) : State × List (List W32) :=
  let (s, xs, _) := lens.foldl (fun (s, xs, va) n =>
    let (s, x) := s.rdF w c va n
    (s, xs ++ [x], va + pad64 (4 * n))) (s, [], base)
  (s, xs)

def State.wrArrays (s : State) (w c : Nat) (base : Nat) (xs : List (List W32)) : State :=
  (xs.foldl (fun (s, va) x => (s.wrF w c va x, va + pad64 (4 * x.length))) (s, base)).1

/-! ### The step report (R351) -/

def reportBytes (n : Nat) (st : Byte) (flags : Nat) (x : StepScal) (beat : W64) : List Byte :=
  toLE 8 n ++ toLE 1 st.toNat ++ toLE 1 flags ++ toLE 1 x.badGroup ++ toLE 1 0 ++ toLE 4 x.badTensor.toNat ++
  toLE 4 x.badElem.toNat ++ toLE 4 x.loss.toNat ++ toLE 4 x.norm.toNat ++ toLE 4 x.cf.toNat ++ toLE 4 x.lr.toNat ++
  toLE 4 x.damped ++ toLE 4 x.fallback ++ toLE 4 x.firstFb.toNat ++ toLE 4 x.sMin.toNat ++ toLE 4 0 ++ toLE 8 beat.toNat

/-- Write the report of step `n`, remember its status, report the event of the replica's lowest die; an
abandonment is a fault record as well (R486). -/
def State.stepReport (s : State) (w c : Nat) (n : Nat) (st : Byte) (rolled : Bool) : State :=
  let t := s.train w c
  let x := t.scal
  let flags := (if x.cf = f32One then 0 else 1) + (if x.damped = 0 then 0 else 2) + (if x.fallback = 0 then 0 else 4) +
    bit x.digest 3 + bit x.ckpt 4 + bit x.published 5 + bit rolled 6 + bit (s.ward w).replSwap 7
  let bs := reportBytes n st flags x (s.ward w).num
  let s := s.writeVa w c (t.record.report.toNat + 64 * (n % 256)) bs
  let s := (s.modTrain w c fun t => { t with lastSt := st }).event w 9 c
  if st = 0 then s
  else s.report { cls := 0x0D, scope := 3, status := st, ward := w, ctx := c, unit := 4, die := (s.ward w).lowDie, src := 3,
                  detail := BitVec.ofNat 128 (leNat (bs.take 16)) }

/-! ### Abandonment and the end of training -/

/-- Update engines that work for the context become idle. -/
def State.updIdle (s : State) (w c : Nat) : State :=
  forEach (s.ward w).dieList s fun s d => if (s.upd d).ctx = c then s.modUpd d fun u => { u with work := .idle, ctx := 0 } else s

/-- Update engines of the context's dies take up `k`. -/
def State.updWork (s : State) (w c : Nat) (k : UpdWork) : State :=
  forEach ((s.train w c).record.dies.filter (s.ward w).holds) s fun s d => s.modUpd d fun u => { u with work := k, ctx := c, counted := 0 }

/-- Micro-batches of the context at training positions add nothing more (R359). -/
def State.dropRows (s : State) (w c : Nat) : State :=
  s.modWard w fun x =>
    { x with ctxTab := x.ctxTab.map fun e =>
        if e.2.ctx = c ∧ ((x.job.map fun j => j.prog.training.contains (e.1 % 1024)).getD false) then (e.1, { e.2 with lost := true }) else e }

def Train.rest (t : Train) : Train :=
  { t with votes1 := [], votes2 := [], own2 := [], passed1 := false, passed2 := false, streamed := none, redGot := [], lastDies := [], begun := false,
           scal := {}, steer := [], abandonDue := none }

/-- The chunks of a swap go free. -/
def State.freeSwap (s : State) (w c : Nat) : State :=
  let ch := (s.train w c).swapChunks
  (s.modWard w fun x => { x with spillOwner := ch.foldl (fun t k => Tab.set t k 0) x.spillOwner }).modTrain w c fun t =>
    { t with swapChunks := [], swapPtr := 0, swapNegs := [], swapWait := 0, swapFail := none }

/-- R361, R359: training is over; state and checkpoints stay in the context's pages. -/
def State.endTraining (s : State) (w c : Nat) : State :=
  let t := s.train w c
  let s := ((s.updIdle w c).freeSwap w c).modWard w fun x => { x with trains := x.trains.set c {} }
  let s := s.setReg w c fun e => { e with train := false }
  let s := match t.startJseq with | some j => s.complete j .divergent | none => s
  forEach t.stops s fun s j => s.complete j .ok

/-- R344: the step does not complete. The context returns to ACCUM for the same step with its accumulator clear,
or ends its training where it is to stop. -/
def State.abandonStep (s : State) (w c : Nat) (st : Byte) (rolled : Bool := false) : State :=
  let s := ((s.stepReport w c (s.train w c).n st rolled).updIdle w c).dropRows w c
  let s := (s.clearAcc w c).modTrain w c fun t => { t.rest with st := .accum }
  if (s.train w c).stopping ∧ !rolled then s.endTraining w c else s

/-- R339: FAULTED with status `st`. -/
def State.faultTraining (s : State) (w c : Nat) (st : St) : State :=
  let s := ((s.stepReport w c (s.train w c).n st.code false).updIdle w c).dropRows w c
  let s := (s.clearAcc w c).modTrain w c fun t => { t.rest with st := .faulted }
  if (s.train w c).stopping then s.endTraining w c else s

/-- R419, step 3: a job that ends takes the training with it. -/
def State.dropTraining (s : State) (w : Nat) (st : Byte) : State :=
  forEach ((s.ward w).trains.map (·.1)) s fun s c =>
    let t := s.train w c
    let s := if t.begun ∨ t.st = .armed ∨ t.st = .reduce ∨ t.st = .pass1 ∨ t.st = .pass2 ∨ t.st = .commit
      then s.stepReport w c t.n st false else s
    s.endTraining w c

/-! ### Pass one (R341) -/

/-- Modules of the replica that this ward is part of; the lowest leads. -/
def State.ownModules (s : State) (w : Nat) : List Nat := match (s.ward w).job with
  | some j => if j.prog.modules = [] then [s.linkAddr] else j.prog.modules
  | none => [s.linkAddr]
def State.leadModule (s : State) (w : Nat) : Nat := (s.ownModules w).foldl min 127
def State.leads (s : State) (w : Nat) : Bool := s.leadModule w == s.linkAddr
def State.otherModules (s : State) (w : Nat) : List Nat := (s.ownModules w).filter (· ≠ s.linkAddr)

/-- What pass one finds on this module: scalars and one part for each die. -/
structure PassOne where
  scal : StepScal
  parts : List PartIn

def gradOf (s : State) (w c : Nat) (r : TrainRec) (t : Tensor) : State × List W32 :=
  s.rdF w c (r.accVa t.die + t.goff) t.n

/-- The first element that is not finite: tensor, element, poisoned. -/
def firstBad (k : Nat) (g : List W32) : Option (Nat × Nat × Bool) :=
  ((g.zipIdx).find? fun (x, _) => !f32Finite x).map fun (x, i) => (k, i, x == f32Poison)

/-- Gradients of one die in accumulator order, and what its tensors give. -/
def State.passOneDie (s : State) (w c : Nat) (r : TrainRec) (h : Nat) (o : StepScal) (d : Nat) : State × StepScal × PartIn :=
  let ts := r.on d
  let (s, gs) := ts.foldl (fun (s, gs) (k, t) => let (s, g) := gradOf s w c r t; (s, gs ++ [(k, t, g)])) (s, [])
  let order := sortBy (fun a b => decide (a.2.1.goff ≤ b.2.1.goff)) gs
  let n2 := runsSum ((order.flatMap (·.2.2)).map fun g => sq (f32Mul g 0x1F800000))
  let bad := gs.findSome? fun (k, t, g) => (firstBad k g).map fun b => (t.group, b)
  let (s, x, m) := gs.foldl (fun ((s : State), (x : StepScal), (m : Bool)) (k, t, g) =>
    match r.rule t with
    | 2 => (s, { x with rs := x.rs.set k (rowSums t.rows t.cols g), cs := x.cs.set k (colSums t.rows t.cols g) }, m)
    | 3 =>
      let (s, a) := s.rdF w c (r.halfVa d h + t.off) t.n
      (s, { x with gram := x.gram.set k (gramOf t.rows t.cols a) }, m || a.contains f32Poison)
    | _ => (s, x, m)) (s, o, false)
  (s, x, { addr := s.linkAddr, die := d, n2 := n2, bad := bad, master := m })

/-- Pass one over the dies of this module; its steering counts go with the part of its lowest die. -/
def State.passOne (s : State) (w c : Nat) : State × PassOne :=
  let t := s.train w c
  let r := t.record
  let (s, x, ps) := r.dies.foldl (fun ((s : State), (x : StepScal), (ps : List PartIn)) d =>
    let (s, x, p) := s.passOneDie w c r (if t.sh then 1 else 0) x d
    (s, x, ps ++ [if ps = [] then { p with steer := t.steer } else p])) (s, t.scal, [])
  (s, { scal := x, parts := ps })

def addSteer (a b : Tab (Nat × Nat × Nat)) : Tab (Nat × Nat × Nat) :=
  b.foldl (fun a (g, y) => let x := a.get g; a.set g (x.1 + y.1, x.2.1 + y.2.1, x.2.2 + y.2.2)) a

/-- The lowest die controller combines the parts of its replica's dies, and the loss area (R341). -/
def State.combine (s : State) (w c : Nat) (ps : List PartIn) : State × VoteIn :=
  let t := s.train w c
  let r := t.record
  let ps := sortBy (fun a b => decide (8 * a.addr + a.die ≤ 8 * b.addr + b.die)) ps
  let n2 := ps.foldl (fun a p => f32Add a p.n2) 0
  let norm := f32Mul (f32Sqrt n2) 0x5F800000
  let cf := if f32IsZero r.clip || !f32Lt r.clip norm then f32One else f32Div r.clip norm
  let (s, ls) := s.rdF w c r.loss.toNat r.nloss
  let loss := ls.foldl f32Add 0
  let bad := ps.findSome? (·.bad)
  (s, { pass := 1, replica := ((s.ward w).job.map (·.prog.index)).getD 0, addr := s.linkAddr,
        finite := bad.isNone && f32Finite loss && f32Finite n2, poison := (match bad with | some b => b.2.2.2 | none => false),
        master := ps.any (·.master), norm := norm, cf := cf, loss := loss, lr := t.scal.lr,
        steer := ps.foldl (fun a p => addSteer a p.steer) [],
        group := (match bad with | some b => b.1 | none => 0xFF),
        tensor := (match bad with
          | some b => b.2.1
          | none => if !f32Finite loss then 0xFFFFFFFF else if !f32Finite n2 then 0xFFFFFFFE else 0),
        elem := (match bad with | some b => b.2.2.1 | none => 0) })

/-! ### Pass two (R342) -/

/-- The rank-r factorisation of a Gram matrix, with the number of raised dampings told. -/
def dampOf (c : GroupScal) (r : Nat) (g : List W32) : Option (List W32) × Bool :=
  let d := firstDelta c r g
  let h := (List.range (r * r)).map fun k => if k / r = k % r then f32Add (g.getD k 0) d else g.getD k 0
  let one := (cholesky r h (f32Mul 0x35800000 (maxDiag r h))).isSome
  (dampTry r g 4 d, !one)

/-- The pair of tensor `k` under rule P: its partner's factorisation, `none` where the pair falls back. -/
def pairFactor (x : StepScal) (c : GroupScal) (t : Tensor) (k : Nat) : Option (List W32) × Bool :=
  let a := dampOf c t.rows (x.gram.get t.partner)
  let b := dampOf c t.rows (x.gram.get k)
  (if a.1.isSome ∧ b.1.isSome then a.1 else none, a.2 || b.2)

/-- Pass two as far as it comes: the state, the scalars, the first value that is not finite. -/
structure PassTwo where
  s : State
  x : StepScal
  bad : Option (Nat × Nat × Nat) := none
  poison : Bool := false
  /-- What each block of the images adds: die, site, counts. -/
  blocks : List (Nat × Nat × SiteDelta) := []

/-- The first value that is not finite in the order of writing: the factors of rule F, then element by element. -/
def firstWrong (new : List (List W32)) : Option Nat :=
  let at' (a : List W32) : Option Nat := ((a.zipIdx).find? fun (v, _) => !f32Finite v).map (·.2)
  let least (l : List (List W32)) : Option Nat := (l.filterMap at').foldl (fun o k => some (min k (o.getD k))) none
  match new with
  | [w, m, r, c] => ((at' r).or (at' c)).or (least [w, m])
  | l => least l

def passTwoTensor (w c : Nat) (r : TrainRec) (h n : Nat) (sg : Nat → W32) (o : PassTwo) (p : Nat × Tensor) : PassTwo :=
  if o.bad.isSome ∨ o.poison then o
  else
    let (k, t) := p
    let g := r.groups.getD t.group default
    let sc := groupScal g o.x.lr (sg t.group) n
    let (s, G) := gradOf o.s w c r t
    let (s, old) := s.rdArrays w c (r.halfVa t.die h + t.off) (t.arrays g.rule)
    if old.any (·.contains f32Poison) then { o with s := s, poison := true }
    else
      let (lf, raised) := if g.rule = 3 then pairFactor o.x sc t k else (none, false)
      let first : Bool := decide (k < t.partner)
      let gp := match lf with
        | some l => some (precond t.rows t.cols l (G.map (f32Mul o.x.cf)))
        | none => none
      let new := newArrays g.rule t sc o.x.cf old G (o.x.rs.get k) (o.x.cs.get k) gp
      let x := if g.rule = 3 ∧ first then
          { o.x with damped := o.x.damped + (if raised then 1 else 0), fallback := o.x.fallback + (if lf.isNone then 1 else 0),
                     firstFb := if lf.isNone ∧ o.x.fallback = 0 then BitVec.ofNat 32 k else o.x.firstFb }
        else o.x
      let s := s.wrArrays w c (r.halfVa t.die (1 - h) + t.off) new
      match firstWrong new with
      | some e => { o with s := s, x := x, bad := some (t.group, k, e) }
      | none =>
        let (im, ds) := imagePlates t (new.headD [])
        let s := s.writeVa w c (r.imgVa t.die (1 - h) + t.ioff) im
        let s := s.modUpd t.die fun u => { u with updated := u.updated + t.n }
        { o with s := s, x := x, blocks := o.blocks ++ ds.map fun y => (t.die, (cwOf t.cw).site, y) }

/-- Pass two over the tensors of `ds`. -/
def State.passTwo (s : State) (w c : Nat) (sg : Nat → W32) (ds : List Nat) : PassTwo :=
  let t := s.train w c
  let r := t.record
  ds.foldl (fun o d => (r.on d).foldl (passTwoTensor w c r (if t.sh then 1 else 0) t.n sg) o) { s := s, x := t.scal }

/-- The counts of image blocks, but for the first `n` of a die. -/
def State.addBlocks (s : State) (d n : Nat) (bs : List (Nat × Nat × SiteDelta)) : State :=
  forEach ((bs.filter fun b => b.1 = d).drop n) s fun s b => s.addSite d b.2.1 b.2.2

/-! ### Digests (R352), images, checkpoints (R355, R356) -/

def State.dieDigest (s : State) (w c : Nat) (r : TrainRec) (base : Nat) (d : Nat) : BitVec 256 :=
  Config.sha256 ((r.on d).flatMap fun (_, t) => (s.readVa w c (base + t.off) (t.stateBytes (r.rule t))).2.bytes)

/-- The digests of a replica's dies, with the replica digest over them in ascending (logical identity, die) order. -/
def digestOf (j n : Nat) (ds : List (Nat × BitVec 256)) : DigestIn :=
  let ds := sortBy (fun a b => decide (a.1 ≤ b.1)) ds
  { replica := j, step := n, dies := ds, dig := Config.sha256 (toLE 8 n ++ ds.flatMap fun (_, x) => toLE 32 x.toNat) }

/-- The digests of half `h` for step `n`, of the dies of this module. -/
def State.stepDigest (s : State) (w c h n : Nat) : DigestIn :=
  let r := (s.train w c).record
  digestOf (((s.ward w).job.map (·.prog.index)).getD 0) n (r.dies.map fun d => (8 * s.linkAddr + d, s.dieDigest w c r (r.halfVa d h) d))

/-- The digests of two modules of a replica together. -/
def joinDigest (a b : DigestIn) : DigestIn :=
  digestOf a.replica a.step ((a.dies.filter fun x => b.dies.all fun y => y.1 ≠ x.1) ++ b.dies)

/-- It covers every module of this replica. -/
def State.wholeDigest (s : State) (w : Nat) (x : DigestIn) : Bool := (s.ownModules w).all fun m => x.dies.any fun y => y.1 / 8 == m

/-- R356, step 4: the image half of state half `h` from its weights. -/
def State.regenImage (s : State) (w c h : Nat) : State :=
  let r := (s.train w c).record
  forEach r.tensors s fun s t =>
    let (s, wts) := s.rdF w c (r.halfVa t.die h + t.off) t.n
    let (im, d) := imagePlates t wts
    (s.writeVa w c (r.imgVa t.die h + t.ioff) im).addSite t.die (cwOf t.cw).site (sumDeltas d)

/-- Copy `half` bytes between regions of every window; answers whether poison was read. -/
def State.copyRegion (s : State) (w c : Nat) (src dst : TrainRec → Nat → Nat) : State × Bool :=
  let r := (s.train w c).record
  r.dies.foldl (fun (s, p) d =>
    let (s, o) := s.readVa w c (src r d) r.half
    (s.writeVa w c (dst r d) o.bytes, p || o.bad.any id)) (s, false)

/-- The newest verified checkpoint. -/
def Train.newest (t : Train) : Option Nat :=
  match t.k0Valid && t.k0Ver, t.k1Valid && t.k1Ver with
  | true, true => some (if t.k0Step < t.k1Step then 1 else 0)
  | true, false => some 0
  | false, true => some 1
  | false, false => none

def Train.kStep (t : Train) (k : Nat) : Nat := if k = 0 then t.k0Step else t.k1Step

/-- Checkpoints of step `n` are verified. -/
def Train.verify (t : Train) (n : Nat) : Train :=
  { t with k0Ver := t.k0Ver || (t.k0Valid && t.k0Step == n), k1Ver := t.k1Ver || (t.k1Valid && t.k1Step == n),
           lastUnan := some n }

/-! ### Accumulate slices (R335) -/

/-- The phase of the prefetch schedule that begins beat `t` of the job (R280). -/
def Ward.pfPer (x : Ward) : Nat := field (x.reg oPfCtl) 31 12
def Ward.pfEntries (x : Ward) : Nat := field (x.reg oPfCtl) 51 32
def Ward.phaseAt (x : Ward) (t : Nat) : Nat := if x.pfPer = 0 then 0 else t % x.pfPer

/-- One slice of die `d`: nothing for an empty position or a context not in ACCUM; a range that it breaks abandons the
step and ends training. -/
def State.accSlice (s : State) (w d : Nat) (e : SliceEnt) : State :=
  let x := s.ward w
  let b := (x.groupAt d).getD 1024
  let row := x.ctxTab.get (1024 * b + e.pos)
  let c := row.ctx
  let t := s.train w c
  if c = 0 ∨ row.lost ∨ t.st ≠ .accum ∨ row.gen ≠ BitVec.ofNat 16 t.n then s
  else
    match t.record.tensors[e.tensor]? with
    | none => s.modTrain w c fun t => { t with abandonDue := some .protection, stopping := true }
    | some u =>
      let n := 256 * e.rows
      if u.die ≠ d ∨ u.n < e.elem + n ∨ 0x200000 < e.off + 4 * n then
        s.modTrain w c fun t => { t with abandonDue := some .protection, stopping := true }
      else
        let i := x.redirect (64 * d + e.tile)
        let bs := s.rdStores i e.off (4 * n)
        let va := t.record.accVa d + u.goff + 4 * e.elem
        let (s, old) := s.rdF w c va n
        -- poison from a word with an uncorrectable error (R470)
        let g (k : Nat) : W32 := if s.storeBad i (e.off + 4 * k) 4 then f32Poison else BitVec.ofNat 32 (leNat ((bs.drop (4 * k)).take 4))
        let new := (List.range n).map fun k => f32Add (old.getD k 0) (g k)
        let s := (s.wrF w c va new).modUpd d fun u => { u with slices := u.slices + 1 }
        if e.last then s.modTrain w c fun t => { t with lastDies := if t.lastDies.contains d then t.lastDies else t.lastDies ++ [d] }
        else s

/-- Slices that issue at the boundary that begins beat `t` of the job. -/
def State.accSlices (s : State) (w t : Nat) : State :=
  match (s.ward w).job with
  | none => s
  | some j =>
    let ph := (s.ward w).phaseAt t
    forEach (s.ward w).dieList s fun s d => forEach ((j.slices.get d).filter fun e => e.phase = ph) s fun s e => s.accSlice w d e

end Sys2Proof.Machine
end

