-- ==== Sys2Proof/Machine/Wards.lean ====
section
/-! DEFINITION. What ends work in a ward: squashes (R262, R291), the end of a job (R418, R419), ward scrub and
ward reset (R416, R461), key retirement (R462), placement and shut-down (R412 to R415). -/

namespace Sys2Proof.Machine
open Sys2Proof

/-! ### DMA channels -/

/-- A channel's interrupt (R230). -/
def State.chanIrq (s : State) (c : Nat) : State :=
  let x := s.chan c
  let s := s.modChan c fun x => { x with irqPend := true }
  match s.wardOfDie (c / 64) with
  | some w => if x.irqEn then s.msix (s.ward w).port (s.ward w).vf x.vec.toNat else s
  | none => s

/-- STATE of DMA_STATUS. -/
def ChanState.code : ChanState → Nat
  | .idle => 0 | .running => 1 | .stopped => 2 | .squashed => 3

/-- DMA_STATUS as it reads (R265). -/
def Chan.statusWord (x : Chan) : Nat :=
  x.status.toNat * 2 ^ 56 + x.cause.toNat * 2 ^ 48 + x.remain.toNat * 2 ^ 32 + bit x.lost 7 + bit x.irqPend 6 +
  bit x.kicked 5 + x.st.code

/-- A channel's event (R486): stop, confined failure or squash, with its status. -/
def State.chanRecord (s : State) (c w scope : Nat) (st : St) (cause ctx : Nat) (va : Nat) (word0 : W64) : State :=
  let hp : Bool := decide (32 ≤ c % 64)
  s.report { cls := 4, scope := scope, status := st.code, ward := w, ctx := ctx, unit := if hp then 3 else 2, die := c / 64,
             idx := if hp then c % 64 - 32 else c % 64, src := 1, cause := cause, akind := 2,
             op := BitVec.ofNat 32 (word0.toNat / 2 ^ 32), addr := BitVec.ofNat 64 va,
             detail := BitVec.ofNat 128 ((s.chan c).statusWord + (s.chan c).cur.toNat * 2 ^ 64) }

/-- Writes whose bytes the machine does not know: free values. -/
def State.openWrites (s : State) (ws : List DWr) : List DWr × State :=
  ws.foldl (fun (l, s) x =>
    (l ++ [{ x with bytes := (List.range x.bytes.length).map fun k => Config.freeByte (s.fresh + k) }], { s with fresh := s.fresh + x.bytes.length }))
    ([], s)

/-- The destination of the descriptor in progress holds an undefined mix of old and new bytes (R256, R260), and the stage area
of an in-place transpose any bytes (R247); the blocks written so far are counted at their site (R57, log entry 164); the
generator is left at any value. -/
def State.mixDesc (s : State) (c w : Nat) : State :=
  match (s.chan c).desc with
  | none => s
  | some d =>
    let o := dmaPlan s w d (s.chan c).gen (s.ward w).jb []
    let (ws, t) := if s.readsOut w d.ctx d.accesses then o.s.openWrites o.ws else (o.ws, o.s)
    let s := forEach ws (t.countPart c w) fun s x => s.dmaWrite w d.ctx true [] x
    let s := if d.stageBytes = 0 then s else s.freeVa w d.ctx d.xaddr d.stageBytes
    let (k, s) := s.takeFresh
    let g := Config.freeW32 k
    s.modChan c fun x => { x with counted := 0, gen := if d.kind = 1 ∨ d.kind = 3 then (if g = 0 then 1 else g) else x.gen }

/-- The descriptor in progress is over: the count falls, and at zero the run ends (R228). -/
def State.nextDesc (s : State) (c : Nat) : State :=
  let s := s.modChan c fun x =>
    { x with remain := x.remain - 1, pos := x.pos + 1, desc := none, counted := 0,
             next := match x.desc with | some d => BitVec.ofNat 48 (d.next / 64 * 64) | none => x.next,
             cur := match x.desc with
               | some d => if x.remain = 1 then x.cur else BitVec.ofNat 48 (d.next / 64 * 64)
               | none => x.cur }
  if (s.chan c).remain = 0 then (s.modChan c fun x => { x with st := .idle }).chanIrq c else s

/-- The descriptor in progress completes, with ST_OK or as a confined failure (R228, R269). -/
def State.doneDesc (s : State) (c : Nat) : State := (s.modChan c fun x => { x with done := x.done + 1 }).nextDesc c

/-- A squash of a run (R262): no further access; what was issued lands now, and SQUASH_COMPLETE ends the run. -/
def State.squashRun (s : State) (c w : Nat) (st : St) : State :=
  let x := s.chan c
  if x.st = .running ∧ x.squashing.isNone then
    (s.mixDesc c w).modChan c fun x => { x with squashing := some st, desc := none }
  else s

/-- R262: the run is squashed; its remaining descriptors are counted. -/
def State.squashDone (s : State) (c : Nat) : State :=
  (s.modChan c fun x =>
    { x with st := .squashed, squashing := none, squashCnt := incSat x.squashCnt x.remain.toNat, desc := none }).chanIrq c

/-- A squash of context `c` on channel `k`: its descriptor in progress is abandoned without a completion word. -/
def State.squashDesc (s : State) (k w c : Nat) (st : St) : State :=
  let x := s.chan k
  match x.desc with
  | some d =>
    if x.st = .running ∧ x.squashing.isNone ∧ d.ctx = c then
      let s := (s.mixDesc k w).modChan k fun x => { x with squashCnt := incSat x.squashCnt }
      (s.chanRecord k w 1 st 0 c d.src (d.wd 0)).nextDesc k
    else s
  | none => s

/-! ### Second copies (R316, R322, R419) -/

/-- The distribution of the ward is over; its command completes with a status (R325). -/
def State.clearDist (s : State) (w : Nat) (st : St) (detail : W32 := 0) : State :=
  match (s.ward w).dist with
  | none => s
  | some d =>
    let s := s.modWard w fun x => { x with dist := none }
    ({ s with trees := d.trees.foldl (fun t k => t.set k {}) s.trees }.event w 13 d.target st).complete d.jseq st detail

/-- Abandon the build of a second copy of context `c`, by PREPARE or by DISTRIBUTE, and its armed switch. A build that still
waits for the old copy has no copy of its own (R319). -/
def State.dropBuild (s : State) (w c : Nat) (st : St) : State :=
  let e := (s.ward w).registry.get c
  let s := if (s.ward w).distTo c then s.clearDist w st else s
  if !e.nxt ∧ !e.swArmed then s
  else
    let s := s.devDrop w fun o => o.use = .build c
    let s := if e.nxt ∧ !e.nxtWaits then s.freeCopy w c (1 - e.liveCopy) else s
    let s := s.setReg w c fun e => { e with nxt := false, nxtReady := false, pub := none, swArmed := false, swWait := false, nxtWaits := false,
                                            prepareJseq := none }
    match e.prepareJseq with
    | some j => s.complete j st
    | none => s

/-- The second copy of the base is discarded. -/
def State.dropBase (s : State) (w : Nat) (st : St) : State :=
  let s := if (s.ward w).distTo 0 then s.clearDist w st else s
  let x := s.ward w
  let s := s.modWard w fun x => { x with baseArmed := false, baseState := if x.baseState = 3 then 3 else 0, basePrepJseq := none }
  match x.basePrepJseq with
  | some j => s.complete j st
  | none => s

/-- A distribution ends with a status; its second copy is discarded where it failed (R325). -/
def State.endDist (s : State) (w : Nat) (st : St) (detail : W32 := 0) : State :=
  match (s.ward w).dist with
  | none => s
  | some d =>
    let s := s.clearDist w st detail
    if st = .ok then s
    else if d.target = 0 then s.dropBase w st
    else s.dropBuild w d.target st

/-! ### Squashes (R262, R291) -/

/-- What a developer operation that is dropped leaves behind, where its context goes on: an operation of a sequence ends the
sequence with `st`; a load, a build, a swap or a prefetch entry is over. -/
def State.devLost (s : State) (w : Nat) (st : St) (o : DevOp) : State :=
  match o.use with
  | .spill i _ => s.markSeq w i .tierFail 4 true
  | .restore i _ => s.markSeq w i st 4 true
  | .load c => (s.freeCopy w c ((s.ward w).registry.get c).liveCopy).setReg w c fun e => { e with hot := .cold }
  | .build c => s.dropBuild w c st
  | .swapOut c _ => (s.freeSwap w c).setReg w c fun e => { e with res := .resident }
  | .swapIn c _ => (s.modTrain w c fun t => { t with swapWait := 0 }).setReg w c fun e => { e with res := .out }
  | .prefetch k => s.pfDone w k

/-- A squash of context `c` in ward `w` (R262, R291): channels and developers. -/
def State.squashCtx (s : State) (w c : Nat) (st : St) : State :=
  let s := forEach (s.ward w).chans s fun s k => s.squashDesc k w c st
  let lost := ((s.ward w).dieList.flatMap fun d => (s.dev d).queue ++ (s.dev d).copies).filter fun o => o.ctx = c && c ≠ 0
  let s := s.devDrop w fun o => o.ctx = c && c ≠ 0
  forEach lost s fun s o => s.devLost w st o

/-! ### Ward scrub (R461) -/

def State.scrubWard (s : State) (w : Nat) : State :=
  let x := s.ward w
  let s := forEach x.tiles s fun s i => s.scrubTile i
  let s := forEach x.quads s fun s q => s.modQuad q fun y => { y with queue := [], run := none, gens := [] }
  let s := forEach x.chans s fun s c => s.modChan c fun y => { y with desc := none, gen := 1 }
  let s := forEach x.dieList s fun s d =>
    (s.modDev d fun y => { y with queue := [], copies := [], ended := none, gen := 1 }).modUpd d fun u => { u with work := .idle, ctx := 0 }
  { s with sites := s.sites.filter fun e => !x.holds (e.1 / 1024) }.modWard w fun y => { y with statKept := [] }

/-! ### The end of a job (R418, R419) -/

/-- Pages of the running job's program lose P (R428). -/
def Ward.setProg (x : Ward) (va len : Nat) (on : Bool) : Ward :=
  let set (e : W64) : W64 := if on then e ||| 0x10 else e &&& ~~~(0x10#64)
  (List.range ((va % 2 ^ 21 + len + 2 ^ 21 - 1) / 2 ^ 21)).foldl (fun x k =>
    let a := va / 2 ^ 21 * 2 ^ 21 + k * 2 ^ 21
    let e := x.l1.get (a / 2 ^ 30)
    if e.getLsbD 0 && e.getLsbD 1 then { x with l1 := x.l1.set (a / 2 ^ 30) (set e) }
    else if e.getLsbD 0 then
      let i := field e.toNat 27 14 * 512 + a / 2 ^ 21 % 512
      if (x.l2.get i).getLsbD 0 then { x with l2 := x.l2.modify i set } else x
    else x) x

/-- Flits of the next beat that still wait when the job ends are flits for a ward that runs no job (R381, R183). -/
def State.dropEarly (s : State) (w : Nat) : State :=
  forEach (s.ward w).mb.early s fun s e => s.modLink e.link fun l =>
    { l with noward := incSat l.noward, owed := l.owed.set e.flit.vc (l.owed.getD e.flit.vc 0 + 1) }

/-- Steps 1 to 6 of R419: sequences end with `seqSt`, END `endc`; the job with `st`. -/
def State.stopJob (s : State) (w : Nat) (st seqSt : St) (endc : Nat) : State :=
  match (s.ward w).job with
  | none => s
  | some j =>
    -- 1
    let s := forEach (s.ward w).chans s fun s c => s.squashRun c w st
    let lost := ((s.ward w).dieList.flatMap fun d => (s.dev d).queue ++ (s.dev d).copies).filter fun o => o.ward = w
    let s := s.devDrop w fun _ => true
    let s := forEach lost s fun s o => match o.use with
      | .spill .. => s
      | .restore .. => s
      | .build .. => s
      | _ => s.devLost w st o
    -- 2
    let s := forEach ((s.ward w).live.map (·.1)) s fun s i => s.endSeq w i seqSt endc
    -- 3
    let s := s.dropTraining w st.code
    -- 4
    let s := forEach ((s.ward w).registry.map (·.1)) s fun s c =>
      let s := s.dropBuild w c st
      let s := if ((s.ward w).registry.get c).oldmb = 0 then s
        else (s.freeCopy w c (1 - ((s.ward w).registry.get c).liveCopy)).setReg w c fun e => { e with oldmb := 0 }
      if ((s.ward w).registry.get c).hot = .loading then
        (s.freeCopy w c ((s.ward w).registry.get c).liveCopy).setReg w c fun e => { e with hot := .cold, loaded := false }
      else s
    let s := (s.endDist w st).dropBase w st
    -- 5
    let s := s.scrubWard w
    -- 6
    let s := (s.dropEarly w).modWard w fun x =>
      { (x.setProg j.program.toNat j.len false) with
          job := none, jobDigest := 0, st := if x.st = .running then .idle else x.st, lastJobSt := st.code, ctxTab := [], lostPos := [],
          baseState := 0, baseOld := 0, mb := {}, multi := false, master := false, closed := false, holding := false,
          markerLost := x.markerLost }
    let s := forEach (s.ward w).tiles s fun s i =>
      if (s.tile i).spare ∨ (s.tile i).remapped then s.modTile i fun t => { t with spare := false, remapped := false, roleOf := 0 } else s
    let s := { s with rollHeld := s.rollHeld &&& ~~~(1#8 <<< w) }
    -- commands on the job are refused; those that waited behind them take effect at this boundary (R39)
    let held := (s.ward w).heldOps.filter fun h => !h.waits
    let s := forEach held (s.modWard w fun x => { x with heldOps := x.heldOps.filter fun h => h.waits }) fun s h => s.complete h.jseq .protection
    let s := forEach j.ends (if j.began then s else s.complete j.jseq st) fun s k => s.complete k .ok
    let s := s.freeOld w
    s.post j.ring { tag := j.tag, jseq := j.jseq, beat := s.stamp w, status := st.code, kind := 2, detail := 0 }

/-- A fault of the job decided now, for a ward that another rule stops at once. -/
def State.faultNow (s : State) (w : Nat) (st : St) : State := s.stopJob w st st 4

/-! ### Key retirement (R462, R463) -/

/-- Steps 1 to 3 of R462. -/
def State.retireKey (s : State) (slot : Nat) : State :=
  let x := s.slot slot
  let s := s.modSlot slot fun x => { x with epoch := x.epoch + 1, key := 0, st := .quarantine }
  let s := { s with sec := { s.sec with retires := incSat s.sec.retires } }
  let s := forEach x.members s fun s c => s.squashCtx x.ward c .keyRetired
  let gone := s.atts.filter fun a => a.slot = slot
  let s := { s with atts := s.atts.filter fun a => a.slot ≠ slot }
  forEach gone s fun s a => s.complete a.jseq .keyRetired

/-- Step 4 of R462 for one retirement, at a boundary of the ward. -/
def State.retireStep (s : State) (r : Retire) : State :=
  let w := r.ward
  let s := forEach r.members s fun s c =>
    let s := forEach (((s.ward w).live.filter fun e => e.2.ctx = c).map (·.1)) s fun s i => s.endSeq w i .keyRetired 4
    let t := s.train w c
    let s := if t.begun ∨ (t.st ≠ .off ∧ t.st ≠ .accum) then s.stepReport w c t.n St.keyRetired.code false else s
    let s := s.endTraining w c
    let s := (s.dropRows w c).dropBuild w c .keyRetired
    let e := (s.ward w).registry.get c
    let s := (s.freeCopy w c 0).freeCopy w c 1
    let s := s.modWard w fun x =>
      { x.freeClaims c with
          ctxTab := x.ctxTab.map fun y => if y.2.ctx = c then (y.1, { y.2 with lost := true }) else y }
    let s := s.setReg w c fun _ => {}
    forEach e.withdraws s fun s j => s.complete j .ok
  forEach (s.ward w).tiles s fun s i =>
    forEach ((List.range 32).filter fun b => r.members.contains ((s.tile i).tags.get b).toNat) s fun s b =>
      ((s.modTile i fun t => { t with tags := t.tags.set b 0 }).clearRange (tileBase i + b * 65536) 65536).mendStore i (b * 65536) 65536

/-- Boundary work of every retirement of the ward. -/
def State.retireSteps (s : State) (w : Nat) : State :=
  let due := s.retires.filter fun r => r.ward = w && !r.boundaryDone
  let s := forEach due s fun s r => s.retireStep r
  { s with retires := s.retires.map fun r => if r.ward = w then { r with boundaryDone := true } else r }

/-! ### Ward reset (R416) -/

/-- Rewrite with zeros, and clear the poison of, a range of the carve-out. -/
def State.zeroCarve (s : State) (lo n : Nat) : State :=
  let inside (sec : Nat) : Bool := decide (lo / 256 ≤ sec) && decide (sec < (lo + n) / 256)
  let s := s.clearRange lo n
  { s with secTags := s.secTags.filter fun e => !inside e.1,
           hbms := s.hbms.map fun e => if e.1 < 4 then (e.1, { e.2 with list := e.2.list.filter fun x => !inside x }) else e }

/-- The range of sequence indices of ward `w` (R308, R326): first and count. -/
def State.seqRange (s : State) (w : Nat) : Nat × Nat := s.image.plan.get w

/-- The steps of a ward reset; `poison` where poison caused it. The scrub goes on until WARD_SCRUB_COMPLETE. -/
def State.wardLoss (s : State) (w : Nat) (poison : Bool) : State :=
  let st : St := if poison then .poison else .adapterWithdrawn
  let s := s.faultNow w st
  -- runs that a register write started in a ward without a job (R262)
  let s := forEach (s.ward w).chans s fun s c => s.squashRun c w st
  let s := forEach ((s.ward w).live.map (·.1)) s fun s i => s.endSeq w i st 4
  let s := s.dropTraining w st.code
  let open' := (s.ward w).registry.flatMap fun e => e.2.withdraws
  let s := forEach ((s.ward w).registry.map (·.1)) s fun s c => s.dropBuild w c st
  let s := (s.endDist w st).dropBase w st
  -- zero plaintext under the keys of the structures' pages
  let x := s.ward w
  let z (n : Nat) : List Byte := List.replicate n 0
  let s := if x.regBase = 0 then s else s.wrStruct w x.regBase (z (2 ^ 22))
  let s := if x.bmapBase = 0 then s else s.wrStruct w x.bmapBase (z (8 * x.nblk))
  let s := if x.ctxtBase = 0 then s else s.wrStruct w x.ctxtBase (z (2 ^ 23))
  let (f, n) := s.seqRange w
  let s := (s.zeroCarve (carveOut + 0x20000000 + w * 0x4000000) 0x4000000).zeroCarve (carveOut + 0x10000000 + 128 * f) (128 * n)
  -- losses
  let s := forEach ((s.slots.filter fun e => e.2.st = .live && e.2.ward = w).map (·.1)) s fun s k => s.retireKey k
  let s := s.modWard w fun x =>
    { x with l1 := [], l2 := [], registry := [], seqs := [], blocks := [], ctxTab := [], xclaim := [], trains := [],
             hotOwner := [], spillOwner := [], lostPos := [] }
  let s := s.scrubWard w
  let s := { s with retires := s.retires.map fun r => if r.ward = w then { r with boundaryDone := true } else r }
  let s := forEach open' s fun s j => s.complete j .ok
  s.modWard w fun x => { x with scrubDue := true }

/-- The ward enters RESETTING; a job that runs ends as a job fault, at the next boundary, and the losses follow then;
with no job they follow at once (R416, R419). -/
def State.startReset (s : State) (w : Nat) (poison : Bool) (jseq : Option Nat) : State :=
  let x := s.ward w
  let s := s.modWard w fun y => { y with st := .resetting, resetStatus := if poison then St.poison.code else 0, resetJseq := jseq }
  if x.job.isSome then s.jobFault w (if poison then .poison else .adapterWithdrawn) else s.wardLoss w poison

/-- An error in the ward's private control structures resets it (R416). -/
def State.resetByPoison (s : State) (w : Nat) : State :=
  let x := s.ward w
  if x.st = .idle ∨ x.st = .running then s.startReset w true none else s

/-- The sector lies in the ward's control structures: page tables, sequence-table range, registry, block map, context table
(R250, R286, R299, R480). -/
def State.ctrlSector (s : State) (w sec : Nat) : Bool :=
  let inside (lo n : Nat) : Bool := decide (lo ≤ sec * 256) && decide (sec * 256 < lo + n)
  let x := s.ward w
  let (f, n) := s.seqRange w
  inside (carveOut + 0x20000000 + w * 0x4000000) 0x4000000 || inside (carveOut + 0x10000000 + 128 * f) (128 * n) ||
  ([(x.regBase, 2 ^ 22), (x.bmapBase, 8 * x.nblk), (x.ctxtBase, 2 ^ 23)] : List (Nat × Nat)).any fun (b, n) =>
    b ≠ 0 && (cuts (2 ^ 21) b n).any fun (v, len) => match x.walk v with
      | some l => isStack l.pa && inside l.pa len
      | none => false

/-- Reports of uncorrectable reads of the ward's control structures reset it; `none` where there is no such report. -/
def State.ctrlError (s : State) (w : Nat) (reps : List HbmRep) : Option State :=
  match reps.filter fun r => r.uncorr && s.ctrlSector w r.sector with
  | [] => none
  | l => some ((forEach l s fun s r => (s.readTag r.sector (s.secTags.get r.sector).key w 0 true).1).resetByPoison w)

/-- An error that a die controller met while it wrote the ward's tables resets the ward. -/
def State.settle (s : State) (w : Nat) : State :=
  if (s.ward w).structBad then (s.modWard w fun x => { x with structBad := false }).resetByPoison w else s

/-- R415, steps 1 and 2. -/
def State.shutDown (s : State) (w : Nat) : State := (s.modWard w fun y => { y with st := .shutting }).wardLoss w false

/-! ### Placement (R412 to R415) -/

def State.freeDies (s : State) : List Nat :=
  s.dies.filter fun n => (s.wardOfDie n).isNone && !s.dieFencedAt n

/-- The lowest FREE key slot; slot 0 is MODULE (R445). -/
def State.freeSlot (s : State) : Option Nat :=
  (List.range (min 16384 (s.slots.length + 2))).find? fun k => decide (0 < k) && (s.slot k).st == .free

/-- A fresh key (log entry 44). -/
def State.freshKey (s : State) : Nat × State := (s.keyNext, { s with keyNext := s.keyNext + 1 })

def dieMask (ds : List Nat) : Byte := ds.foldl (fun m n => m ||| (1#8 <<< n)) 0

/-- Place ward `w` for an open enable; the caller has checked that it fits. -/
def State.placeWard (s : State) (w : Nat) (e : OpenEnable) (slot : Nat) : State :=
  let ds := s.freeDies.take e.dies
  let (k, s) := s.freshKey
  let s := s.modSlot slot fun x => { x with st := .ward, ward := w, members := [], key := k }
  let s := s.modWard w fun x =>
    { x with st := .idle, dies := dieMask ds, port := e.port, vf := e.vf, keySlot := slot, enable := none, num := 0,
             acct := [], acctTile := 0, acctChain := 0, acctEnergy := 0, flrs := 0, flrDev := 0, flrDma := 0,
             flrDrained := 0, disables := [], resetJseq := none }
  s.complete e.jseq .ok

def State.fits (s : State) (e : OpenEnable) : Bool := decide (e.dies ≤ s.freeDies.length) && s.freeSlot.isSome

/-- PLACING wards are placed in journal order; none passes one that does not fit. -/
def State.placeAll : Nat → State → State
  | 0, s => s
  | n + 1, s =>
    let cand := (List.range 8).filterMap fun w =>
      match (s.ward w).st, (s.ward w).enable with
      | .placing, some e => some (w, e)
      | _, _ => none
    match sortBy (fun a b => decide (a.2.jseq ≤ b.2.jseq)) cand with
    | [] => s
    | (w, e) :: _ =>
      match s.freeSlot with
      | some slot => if s.fits e then State.placeAll n (s.placeWard w e slot) else s
      | none => s

/-- An enable for a ward that holds nothing: placed, waiting, or refused (R412). -/
def State.tryEnable (s : State) (w : Nat) (e : OpenEnable) (waits : Bool) : State :=
  match s.freeSlot with
  | some slot =>
    if s.fits e && !waits then s.placeWard w e slot
    else if e.wait then s.modWard w fun x => { x with st := .placing, port := e.port, vf := e.vf, enable := some e }
    else s.complete e.jseq .protection
  | none =>
    if e.wait then s.modWard w fun x => { x with st := .placing, port := e.port, vf := e.vf, enable := some e }
    else s.complete e.jseq .protection 2

/-! ### The end of a scrub (R415, R416) -/

/-- Rings of a VF that leaves its ward stop (R408). -/
def State.dropRings (s : State) (port vf : Nat) : State :=
  forEach (List.range 16) s fun s r => { s with rings := s.rings.set (ringKey port vf r) {} }

/-- A snapshot that is due when the ward's pages are gone fails (R63, R415). -/
def State.failSnap (s : State) (w : Nat) : State :=
  let y := s.ward w
  if y.statSnap then (s.modWard w fun y => { y with statFailed := true, statSnap := false, snap := none, statZeroed := false, statKept := [] }).event w 11 0 .translation
  else s

/-- The ward's last boundary: items still due, dies freed, VF detached; a pending enable is placed. -/
def State.lastBoundary (s : State) (w : Nat) : State :=
  let x := s.ward w
  let s := ((s.failSnap w).retireSteps w).modWard w fun x => x.takeLen
  let s := forEach ((s.slots.filter fun e => e.2.st = .ward && e.2.ward = w).map (·.1)) s fun s k => s.retireKey k
  let s := s.dropRings x.port x.vf
  let pend := if x.st = .enablePending then x.enable else none
  let s := s.modWard w fun x =>
    { x with st := .disabled, dies := 0, vf := 0, port := 0, keySlot := 0, enable := none, disables := [], scrubDue := false,
             num := 0, heldOps := [] }
  let s := forEach x.heldOps s fun s h => s.complete h.jseq .protection
  let s := forEach x.disables s fun s j => s.complete j .ok
  let s := match pend with
    | some e => s.tryEnable w e false
    | none => s
  State.placeAll 8 s

/-- WARD_SCRUB_COMPLETE: a reset returns to IDLE (and a shut-down that waited for its job goes
on), a shut-down has its last boundary. -/
def execWardScrubComplete (w : Nat) (s : State) : Host.Outcome State Fault Refusal :=
  let x := s.ward w
  if x.scrubDue = false ∨ x.chans.any (fun c => (s.chan c).squashing.isSome) then .next s
  else match x.st with
    | .resetting =>
      let s := s.modWard w fun x => { x with st := .idle, scrubDue := false, resetJseq := none }
      let s := match x.resetJseq with
        | some j => s.complete j .ok
        | none => s
      .next (if x.disables ≠ [] then s.shutDown w else s)
    | .shutting => .next (s.lastBoundary w)
    | .enablePending => .next (s.lastBoundary w)
    | _ => .next s

end Sys2Proof.Machine
end

