-- ==== Sys2Proof/Machine/Access.lean ====
section
/-! DEFINITION. Register accesses (R12, R35, R36): who owns a block, which halves a write reaches; and host-tier
accesses of a ward (R260). -/

namespace Sys2Proof.Machine
open Sys2Proof

/-- The module answers register accesses and takes commands. -/
def State.live (s : State) : Bool := s.life == .up

/-- The requester is PF0 or the VF attached to ward `w` (R36, R408). -/
def State.owns (s : State) (r : Req) (w : Nat) : Bool :=
  r.func = 0 || (decide (w < 8) && (s.ward w).st != .disabled && (s.ward w).port == r.port && (s.ward w).vf == r.func)

def State.ownsDie (s : State) (r : Req) (d : Nat) : Bool :=
  r.func = 0 || (match s.wardOfDie d with | some w => s.owns r w | none => false)

/-- R36: a refused access is counted. -/
def State.refuse (s : State) : State := { s with sec := { s.sec with refused := incSat s.sec.refused } }

end Sys2Proof.Machine

namespace Sys2Proof

/-- R35: sizes of 4 and 8 bytes, naturally aligned. -/
def RegW.legal (a : RegW) : Bool := (a.size = 4 || a.size = 8) && a.off % a.size = 0

/-- The 64-bit value that a write leaves in a 64-bit register that holds `old`. -/
def RegW.into64 (a : RegW) (old : W64) : W64 :=
  if a.size = 8 then a.val
  else if a.off % 8 = 0 then BitVec.ofNat 64 (old.toNat / 2 ^ 32 * 2 ^ 32 + a.val.toNat % 2 ^ 32)
  else BitVec.ofNat 64 (old.toNat % 2 ^ 32 + a.val.toNat % 2 ^ 32 * 2 ^ 32)

/-- The upper half is written. -/
def RegW.hitsHi (a : RegW) : Bool := a.size = 8 || a.off % 8 = 4
def RegW.hitsLo (a : RegW) : Bool := a.size = 8 || a.off % 8 = 0
def RegW.lo (a : RegW) : W32 := a.val.setWidth 32

end Sys2Proof

namespace Sys2Proof.Machine
open Sys2Proof

/-- Whether the port can issue a host-tier access of the ward's function. -/
def State.wardCanIssue (s : State) (w : Nat) : Bool := s.canIssue (s.ward w).port (s.ward w).vf

/-- An access passes every check of R251, and the port can issue it where it goes to the host tier. -/
def State.accessOk (s : State) (w c va : Nat) (wr : Bool) (port : Option Nat) : Bool :=
  match s.xlate w c va wr port with
  | .ok l => l.kind != .host || s.wardCanIssue w
  | .error _ => false

def State.rangeOk (s : State) (w c va n : Nat) (wr : Bool) (port : Option Nat) : Bool :=
  (pieces va n).all fun (a, _) => s.accessOk w c a wr port

/-- HBM reports that come with an access: corrected errors are counted (R477, R501). -/
def State.hbmReports (s : State) (reps : List HbmRep) : State :=
  forEach reps s fun s r => s.modHbm (stackOf (r.sector * 256)) fun h => { h with corrected := incSat h.corrected r.corrected }

end Sys2Proof.Machine
end

