-- ==== Sys2Proof/Machine/ChainFn.lean ====
section
/-! DEFINITION. The stage functions of the chain engine (R204 to R207). ADD, SUB, MUL, FMA and the exact
functions are computed; of EXP2, LOG2, RCP, RSQ, TANH and SACT the table gives an accuracy, so their value is
a free one that lies within it (log entry 20). -/

namespace Sys2Proof.Machine
open Sys2Proof

/-! ### Enclosures of the mathematical functions, in units of 2^-300 -/

def fixOne : Nat := 2 ^ 300

/-- `x` in units of 2^-300, rounded down. -/
def Dy.fix (x : Dy) : Int := if -300 ≤ x.e then x.m * (2 ^ (x.e + 300).toNat : Nat) else x.m / (2 ^ (-300 - x.e).toNat : Nat)

/-- e^y for `y` from 0 to 100, both in units of 2^-300; the error is below 2^160 units. -/
def expFix (y : Nat) : Nat :=
  ((List.range 700).foldl (fun (acc, t) k => (acc + t, t * y / fixOne / (k + 1))) (0, fixOne)).1

/-- ln 2; the error is below 400 units. -/
def ln2Fix : Nat := ((List.range 310).map fun k => fixOne / ((k + 1) * 2 ^ (k + 1))).sum

/-- ln (1 + z) over 2 for z = a / b between 0 and 1, by the series of the inverse hyperbolic tangent. -/
def atanhFix (a b : Nat) : Nat :=
  let z := a * fixOne / b
  ((List.range 100).foldl (fun (acc, t) k => (acc + t / (2 * k + 1), t * z / fixOne * z / fixOne)) (0, z)).1

/-- An interval of exact values. -/
structure Encl where
  lo : Dy
  hi : Dy
deriving DecidableEq, Repr, Inhabited

def enclOf (lo hi : Int) : Encl := ⟨⟨lo, -300⟩, ⟨hi, -300⟩⟩

/-- 2^x for `x` from -151 to 128. -/
def exp2Encl (x : Dy) : Encl :=
  let f := x.fix
  let n := f / (fixOne : Int)
  let r := (f % (fixOne : Int)).toNat
  let e : Int := expFix (r * ln2Fix / fixOne)
  ⟨⟨e - 2 ^ 161, n - 300⟩, ⟨e + 2 ^ 161, n - 300⟩⟩

/-- log2 x for `x` above 0. -/
def log2Encl (x : Dy) : Encl :=
  let a := x.m.natAbs
  let k := a.log2
  let l : Int := 2 * atanhFix (a - 2 ^ k) (a + 2 ^ k) * fixOne / ln2Fix
  let n : Int := ((k : Int) + x.e) * fixOne
  enclOf (n + l - 2 ^ 20) (n + l + 2 ^ 20)

/-- 1 / √x for `x` above 0. -/
def rsqEncl (x : Dy) : Encl :=
  let odd := x.e % 2 != 0
  let m := if odd then 2 * x.m.natAbs else x.m.natAbs
  let e := if odd then x.e - 1 else x.e
  let r : Int := Nat.sqrt (2 ^ 600 / m)
  ⟨⟨r, -300 - e / 2⟩, ⟨r + 1, -300 - e / 2⟩⟩

/-- tanh |x| for |x| below 10. -/
def tanhEncl (x : Dy) : Encl :=
  let e : Int := expFix (2 * x.abs.fix).toNat
  let at' (e : Int) : Int := (e - fixOne) * fixOne / (e + fixOne)
  let s (v : Int) : Int := if x.m < 0 then -v else v
  let a := at' (e - 2 ^ 161) - 1
  let b := at' (e + 2 ^ 161) + 1
  if x.m < 0 then enclOf (s b) (s a) else enclOf a b

/-- The formula of SACT for `x` from -9 up. -/
def sactEncl (x : Dy) : Encl :=

  let cube := (x.mul (x.mul x)).fix * 44715 / 1000000
  let v := (x.fix + cube) * 7978845608 / 10000000000
  let y := 2 * v.natAbs
  let r : Int × Int :=
    if 100 * fixOne < y then ((fixOne : Int) - 2 ^ 170, fixOne)
    else
      let e : Int := expFix y
      let lo := e - 2 ^ 162
      let hi := e + 2 ^ 162
      if v < 0 then ((fixOne : Int) * fixOne / (hi + fixOne) - 1, (fixOne : Int) * fixOne / (lo + fixOne) + 1)
      else (lo * fixOne / (lo + fixOne) - 1, hi * fixOne / (hi + fixOne) + 1)
  let a : Dy := ⟨x.m * r.1, x.e - 300⟩
  let b : Dy := ⟨x.m * r.2, x.e - 300⟩
  if x.m < 0 then ⟨b, a⟩ else ⟨a, b⟩

/-! ### Accuracy (R204) -/

/-- One unit in the last place of `r`, times `k`. -/
def ulps (r : W32) (k : Nat) : Dy :=
  let v := f32Val r
  ⟨k, if v.m = 0 then -149 else f32Lsb v⟩

/-- `v` is no NaN and lies within `d` of `r`; an infinity counts as 2^128. -/
def nearBy (r : Dy) (d : Dy) (v : W32) : Bool := !f32IsNan v && ((f32Val v).sub r).abs.le d

/-- The free value of function `fn` on `x` where it keeps within `k` ulp of the exactly rounded value of the
enclosure; else that value. -/
def withinUlps (fn k : Nat) (x : W32) (e : Encl) : W32 :=
  let a := f32Rne e.lo
  let b := f32Rne e.hi
  let v := Config.approx fn x
  if nearBy (f32Val a) (ulps a k) v || nearBy (f32Val b) (ulps b k) v then v else a

/-- The free value where it keeps within the absolute error `d` of the exactly rounded value. -/
def withinAbs (fn : Nat) (d : Dy) (x : W32) (e : Encl) : W32 :=
  let a := f32Rne e.lo
  let b := f32Rne e.hi
  let v := Config.approx fn x
  if nearBy (f32Val a) d v || nearBy (f32Val b) d v then v else a

/-! ### The functions of one operand, no NaN and no poison (R204, R205) -/

def f32Int (n : Int) : W32 := f32Rne ⟨n, 0⟩

/-- Integer value of a finite number that has one. -/
def Dy.int? (x : Dy) : Option Int :=
  if 0 ≤ x.e then some (x.at 0)
  else
    let p : Int := (2 ^ (-x.e).toNat : Nat)
    if x.m % p = 0 then some (x.m / p) else none

def chExp2 (x : W32) : W32 :=
  let v := f32Val x
  if f32IsInf x then (if f32Neg x then 0 else f32Inf false)
  else if (⟨128, 0⟩ : Dy).le v then f32Inf false
  else if v.lt ⟨-150, 0⟩ then 0
  else match v.int? with
    | some k => if -149 ≤ k then f32Rne ⟨1, k⟩ else withinUlps 0x09 1 x (exp2Encl v)
    | none => withinUlps 0x09 1 x (exp2Encl v)

def chLog2 (x : W32) : W32 :=
  let v := f32Val x
  if f32IsZero x then f32Inf true
  else if f32Neg x then f32QNan
  else if f32IsInf x then x
  else if v.m.natAbs = 2 ^ v.m.natAbs.log2 then f32Int ((v.m.natAbs.log2 : Int) + v.e)
  else if (⟨707, 0⟩ : Dy).le (v.mul ⟨1000, 0⟩) && (v.mul ⟨1000, 0⟩).le ⟨1414, 0⟩ then
    withinAbs 0x0A ⟨1, -24⟩ x (log2Encl v)
  else withinUlps 0x0A 1 x (log2Encl v)

def chRcp (x : W32) : W32 :=
  if f32IsZero x then f32Inf (f32Neg x)
  else if f32IsInf x then f32Zero (f32Neg x)
  else
    let r := f32Div f32One x
    if f32IsInf r then r else withinUlps 0x0B 1 x ⟨f32Val r, f32Val r⟩

def chRsq (x : W32) : W32 :=
  if f32IsZero x then f32Inf (f32Neg x)
  else if f32Neg x then f32QNan
  else if f32IsInf x then 0
  else withinUlps 0x0C 1 x (rsqEncl (f32Val x))

def chTanh (x : W32) : W32 :=
  let v := f32Val x
  let one := if f32Neg x then f32Flip f32One else f32One
  if f32IsInf x then one
  else if v.abs.lt ⟨1, -12⟩ then x
  else if (⟨91, 0⟩ : Dy).le (v.abs.mul ⟨10, 0⟩) then one
  else withinUlps 0x0D 2 x (tanhEncl v)

def chSact (x : W32) : W32 :=
  if f32IsInf x then (if f32Neg x then f32Zero true else x)
  else if (f32Val x).lt ⟨-9, 0⟩ then f32Zero true
  else withinUlps 0x0E 4 x (sactEncl (f32Val x))

/-- MP2: x × 2^SH, rounded to nearest even where the result is subnormal. -/
def chMp2 (sh : Int) (x : W32) : W32 :=
  if f32IsInf x || f32IsZero x then x
  else f32Rne ⟨(f32Val x).m, (f32Val x).e + sh⟩

/-! ### MIN, MAX and the comparisons (R206) -/

/-- An order in which -0 is smaller than +0. -/
def ordKey (w : W32) : Int := if f32Neg w then -(f32Mag w : Int) - 1 else f32Mag w

def chMin (x y : W32) : W32 := if ordKey x ≤ ordKey y then x else y
def chMax (x y : W32) : W32 := if ordKey x ≤ ordKey y then y else x

/-- COND of SEL; an unordered comparison is false, except NE. -/
def chCond (cond : Nat) (x y : W32) : Bool :=
  if f32IsNan x || f32IsNan y then cond = 1
  else
    let lt := f32Lt x y
    let gt := f32Lt y x
    match cond with
    | 0 => !lt && !gt
    | 1 => lt || gt
    | 2 => lt
    | 3 => !gt
    | 4 => gt
    | _ => !lt

/-! ### One stage on one lane (R207) -/

/-- Poison before NaN before the function. -/
def guarded (ops : List W32) (v : W32) : W32 :=
  if ops.contains f32Poison then f32Poison
  else if ops.any f32IsNan then f32QNan
  else if f32IsNan v then f32QNan else v

/-- One stage. RED and QNT pass x on as it is, a NaN with another payload too: R204's "unchanged", where R207 speaks of every
NaN operand (log entry 167). -/
def chStage (fn : Nat) (cond : Nat) (sh : Int) (x y z : W32) : W32 :=
  match fn with
  | 0x01 => guarded [x, y] (f32Add x y)
  | 0x02 => guarded [x, y] (f32Add x (f32Flip y))
  | 0x03 => guarded [x, y] (f32Mul x y)
  | 0x04 => guarded [x, y, z] (f32Fma x y z)
  | 0x05 => guarded [x, y] (chMin x y)
  | 0x06 => guarded [x, y] (chMax x y)
  | 0x07 => if chCond cond x y then guarded [x, y] x else guarded [x, y, z] z
  | 0x08 => guarded [x] (chMp2 sh x)
  | 0x09 => guarded [x] (chExp2 x)
  | 0x0A => guarded [x] (chLog2 x)
  | 0x0B => guarded [x] (chRcp x)
  | 0x0C => guarded [x] (chRsq x)
  | 0x0D => guarded [x] (chTanh x)
  | 0x0E => guarded [x] (chSact x)
  | _ => x

end Sys2Proof.Machine
end

