-- ==== Sys2Proof/Machine/ChainDesc.lean ====
section
/-! DEFINITION. The chain descriptor (R200 to R203), the checks of a program's start (R216, R218) and the
addresses of a program (R199, R202, R211, R212). -/

namespace Sys2Proof.Machine
open Sys2Proof

def sgn (bits v : Nat) : Int := if v < 2 ^ (bits - 1) then v else (v : Int) - 2 ^ bits

def streamOf64 (w0 w1 : W64) : ChainStream :=
  { tile := wf w0 63 62, base := wf w0 61 41 / 16 * 16, bf16 := wbit w0 40, lmode := wf w0 39 38,
    rstr := sgn 24 (wf w1 63 40), sstr := sgn 24 (wf w1 39 16) }

def stageOf64 (w0 w1 : W64) : ChainStage :=
  { fn := wf w0 63 58, xs := wf w0 57 55, ys := wf w0 54 52, zs := wf w0 51 49, cond := wf w0 48 46,
    sh := sgn 8 (wf w0 45 38), rmode := wf w0 37 35, rtf := wf w0 34 33,
    a := BitVec.ofNat 32 (wf w1 63 32), c := BitVec.ofNat 32 (wf w1 31 0) }

/-- The descriptor that the words spell: two words a record. -/
def chainDescOf (wd : Nat → W64) : ChainDesc :=
  let h := wd 0
  let o0 := wd 8
  let q0 := wd 10
  { nstr := wf h 60 59, span := wf h 58 46 + 1, gl := 256 / 2 ^ wf h 45 44, seed := wf h 43 41,
    streams := (List.range 3).map fun k => streamOf64 (wd (2 + 2 * k)) (wd (3 + 2 * k)),
    oTile := wf o0 63 62, oBase := wf o0 61 41 / 16 * 16, oKind := wf o0 40 39, oRstr := sgn 24 (wf (wd 9) 63 40),
    qTile := wf q0 63 62, qBase := wf q0 61 41 / 16 * 16, qTile2 := wf q0 40 39, qBase2 := wf q0 38 18 / 16 * 16,
    stages := (List.range (wf h 63 61 + 1)).map fun k => stageOf64 (wd (12 + 2 * k)) (wd (13 + 2 * k)) }

def ChainDesc.red (d : ChainDesc) : Option ChainStage := d.stages.find? fun g => g.fn = 0x10
def ChainDesc.qnt (d : ChainDesc) : Option ChainStage := d.stages.find? fun g => g.fn = 0x11
def ChainDesc.smax (d : ChainDesc) : Bool := (d.red.map fun g => g.rmode == 3).getD false
def ChainDesc.groups (d : ChainDesc) : Nat := 256 / d.gl
def ChainDesc.cw (d : ChainDesc) : Cw := cwOf ((d.qnt.map fun g => g.c.setWidth 16).getD 0)
def ChainDesc.seTile (d : ChainDesc) : Nat := (d.qnt.map fun g => field g.a.toNat 31 30).getD 0
def ChainDesc.seBase (d : ChainDesc) : Nat := (d.qnt.map fun g => field g.a.toNat 29 9).getD 0

/-! ### CHN_DESC (R218) -/

/-- Operand sources that a function uses (R203, R204). -/
def usesY (fn : Nat) : Bool := decide (1 ≤ fn) && decide (fn ≤ 7)
def usesZ (fn : Nat) : Bool := fn = 4 || fn = 7

def legalFn (fn : Nat) : Bool := (decide (1 ≤ fn) && decide (fn ≤ 0x0E)) || fn = 0x10 || fn = 0x11

/-- A used source is legal in stage `k`; an unused one is 0. -/
def srcOk (d : ChainDesc) (k v : Nat) (used : Bool) : Bool :=
  if used then (if v = 0 then k ≠ 0 else decide (v ≤ d.nstr)) else v = 0

/-- The record of stage `k` is legal. SETILE and SEBASE of a QNT whose word supplies no exponents may hold anything
(R203; log entry 168). -/
def stageOk (d : ChainDesc) (k : Nat) (w0 w1 : W64) : Bool :=
  let g := stageOf64 w0 w1
  let last := d.stages.length = k + 1
  legalFn g.fn && wf w0 32 0 = 0 &&
  srcOk d k g.xs true && srcOk d k g.ys (usesY g.fn) && srcOk d k g.zs (usesZ g.fn) &&
  (if g.fn = 0x07 then decide (g.cond ≤ 5) else g.cond = 0) &&
  (g.fn = 0x08 || g.sh = 0) &&
  (if g.fn = 0x10 then
    decide (g.rmode ≤ 3) && decide (g.rtf ≤ 2) && (g.rtf ≠ 0 || w1 = 0) &&
    (d.stages.take k).all (fun x => x.fn ≠ 0x10)
  else g.rmode = 0 && g.rtf = 0 &&
    (if g.fn = 0x11 then last && d.oKind = 3 && wf w1 40 16 = 0 && (cwOf (g.c.setWidth 16)).legal else w1 = 0))

/-- Records that break R200 to R203, R208 or R212, by their number in CHN_FAULT, lowest first. -/
def descBad (rows : Nat) (wd : Nat → W64) : List Nat :=
  let d := chainDescOf wd
  let sq := d.cw.square && d.qnt.isSome
  (if d.nstr ≠ 0 ∧ wf (wd 0) 40 0 = 0 ∧ wd 1 = 0 ∧ rows % d.span = 0 then [] else [0]) ++
  ((List.range d.nstr).filter fun k =>
    !(wf (wd (2 + 2 * k)) 37 0 = 0 && wf (wd (2 + 2 * k)) 39 38 ≠ 3 && wf (wd (3 + 2 * k)) 15 0 = 0)).map (· + 1) ++
  (if wf (wd 8) 38 0 = 0 ∧ wf (wd 9) 39 0 = 0 ∧ ((d.oKind = 0 ∨ d.oKind = 3) → d.oRstr = 0) ∧
      (d.oKind = 3 → (d.stages.getLast?.map (·.fn)) = some 0x11) then [] else [4]) ++
  (if wf (wd 10) 17 0 = 0 ∧ wd 11 = 0 ∧ (d.red.isNone → wd 10 = 0) ∧ (d.smax = false → wf (wd 10) 40 18 = 0) then []
    else [5]) ++
  ((List.range d.stages.length).filter fun k =>
    !(stageOk d k (wd (12 + 2 * k)) (wd (13 + 2 * k))) || (sq && ((d.stages[k]?.map (·.fn)) == some 0x11) && rows % 32 != 0)).map
      (· + 0x10)

/-! ### Addresses (R199, R202, R211, R212) -/

def esize (bf16 : Bool) : Nat := if bf16 then 2 else 4

/-- Offset of lane 0 of row `r` of a stream. -/
def ChainStream.rowAt (x : ChainStream) (span r : Nat) : Int :=
  x.base + ((r / span : Nat) * x.sstr + (r % span : Nat) * x.rstr) * esize x.bf16

/-- Element stride of lane `j`. -/
def ChainStream.lane (x : ChainStream) (gl j : Nat) : Nat :=
  if x.lmode = 0 then 0 else if x.lmode = 1 then j else j / gl

/-- A range of bytes in the store of quad-local tile `tile`. -/
structure ChRange where
  tile : Nat
  lo : Int
  len : Nat
deriving DecidableEq, Repr, Inhabited

/-- What a stream reads, a range a row. -/
def ChainDesc.streamRanges (d : ChainDesc) (rows k : Nat) : List ChRange :=
  let x := d.streams.getD k {}
  (List.range rows).map fun r => ⟨x.tile, x.rowAt d.span r, (x.lane d.gl 255 + 1) * esize x.bf16⟩

/-- Bytes of plates of the QNT output of `rows` rows. -/
def ChainDesc.qntBytes (d : ChainDesc) (rows : Nat) : Nat :=
  if d.cw.square then rows / 32 * 8 * squarePlateSize d.cw.fmt else (rows + 1) / 2 * linePlateSize d.cw.fmt

def ChainDesc.outRowAt (d : ChainDesc) (r : Nat) : Int := d.oBase + (r : Int) * d.oRstr * esize (d.oKind == 2)

/-- What the main output writes; of a last line plate that odd ROWS fill by half, the scale bytes and codes of its first
half (R212). -/
def ChainDesc.outRanges (d : ChainDesc) (rows : Nat) : List ChRange :=
  match d.oKind with
  | 0 => []
  | 3 =>
    if d.cw.square ∨ rows % 2 = 0 then [⟨d.oTile, d.oBase, d.qntBytes rows⟩]
    else
      let last := d.oBase + rows / 2 * linePlateSize d.cw.fmt
      [⟨d.oTile, d.oBase, rows / 2 * linePlateSize d.cw.fmt⟩, ⟨d.oTile, last, 8⟩, ⟨d.oTile, last + 16, 256 * d.cw.fmt.width / 8⟩]
  | _ => (List.range rows).map fun r => ⟨d.oTile, d.outRowAt r, 256 * esize (d.oKind == 2)⟩

/-- The rows or whole plates of the main output, as the range check takes them. -/
def ChainDesc.plateRanges (d : ChainDesc) (rows : Nat) : List ChRange :=
  if d.oKind = 3 then [⟨d.oTile, d.oBase, d.qntBytes rows⟩] else d.outRanges rows

def ChainDesc.redRanges (d : ChainDesc) (rows : Nat) : List ChRange :=
  if d.red.isNone then []
  else
    let n := rows / d.span * d.groups * 4
    ⟨d.qTile, d.qBase, n⟩ :: (if d.smax then [⟨d.qTile2, d.qBase2, n⟩] else [])

def ChainDesc.supRanges (d : ChainDesc) (rows : Nat) : List ChRange :=
  if d.qnt.isSome && d.cw.supplied then
    [⟨d.seTile, d.seBase, if d.cw.square then rows / 32 * 8 else rows * 8⟩] else []

/-- Everything a program reads and writes. -/
def ChainDesc.ranges (d : ChainDesc) (rows : Nat) : List ChRange :=
  ((List.range d.nstr).flatMap fun k => d.streamRanges rows k) ++ d.outRanges rows ++ d.redRanges rows ++ d.supRanges rows

/-- The lowest byte of a list of ranges that lies outside the store; below 0 it is taken modulo 2^48. -/
def rangesBad (rs : List ChRange) : Option Nat :=
  rs.foldl (fun (a : Option Nat) (r : ChRange) =>
    let b : Option Nat := if r.len = 0 then none else if r.lo < 0 then some (r.lo % 281474976710656).toNat
      else if (storeBytes : Int) < r.lo + r.len then some (max r.lo (storeBytes : Int)).toNat else none
    match a, b with
    | some x, some y => some (min x y)
    | none, b => b
    | a, none => a) none

/-- CHN_RANGE by record (R216, R218): the first record with an offending byte, and that byte. -/
def chainRange (d : ChainDesc) (off rows : Nat) : Option (Nat × Nat) :=
  let recs : List (Nat × List ChRange) :=
    (0, [⟨0, off, 96 + 16 * d.stages.length⟩]) ::
    ((List.range d.nstr).map fun k => (k + 1, d.streamRanges rows k)) ++
    [(4, d.plateRanges rows), (5, d.redRanges rows), (0x10 + d.stages.length - 1, d.supRanges rows)]
  recs.findSome? fun (n, rs) => (rangesBad rs).map fun o => (n, o)

/-! ### Overlap (R216) -/

/-- Two ranges overlap: the common part. -/
def ChRange.meet (a b : ChRange) : Option (Nat × Nat × Nat) :=
  let lo := max a.lo b.lo
  let hi := min (a.lo + a.len) (b.lo + b.len)
  if a.tile = b.tile ∧ lo < hi then some (a.tile, lo.toNat, (hi - lo).toNat) else none

def meets (xs ys : List ChRange) : List (Nat × Nat × Nat) :=
  xs.flatMap fun a => ys.filterMap fun b => a.meet b

/-- The main output is exactly the view of stream `k`. Where RSTR is below 256 its rows overlap one another: row r + 1 then
reads what row r wrote, in the order of the rows (R216; log entry 169). -/
def ChainDesc.sameView (d : ChainDesc) (rows k : Nat) : Bool :=
  let x := d.streams.getD k {}
  (d.oKind = 1 || d.oKind = 2) && x.tile = d.oTile && x.lmode = 1 && x.bf16 == (d.oKind == 2) &&
  (List.range rows).all fun r => x.rowAt d.span r = d.outRowAt r

/-- The reduction array at `tile`, `base` is exactly the view of stream `k`. -/
def ChainDesc.sameRed (d : ChainDesc) (rows k tile base : Nat) : Bool :=
  let x := d.streams.getD k {}
  x.tile = tile && x.bf16 == false && (x.lmode = 2 || (x.lmode = 0 && d.gl = 256)) &&
  (List.range rows).all fun r => x.rowAt d.span r = (base + 4 * (r / d.span * d.groups) : Nat)

/-- The bytes that overlap leaves undefined: what an output shares with a stream that is not its own view,
with a supplied exponent, or with another output. -/
def ChainDesc.clashes (d : ChainDesc) (rows : Nat) : List (Nat × Nat × Nat) :=
  let o := d.outRanges rows
  let q := (d.redRanges rows).take 1
  let q2 := (d.redRanges rows).drop 1
  let ks := List.range d.nstr
  (ks.flatMap fun k => if d.sameView rows k then [] else meets o (d.streamRanges rows k)) ++
  (ks.flatMap fun k => if d.sameRed rows k d.qTile d.qBase then [] else meets q (d.streamRanges rows k)) ++
  (ks.flatMap fun k => if d.sameRed rows k d.qTile2 d.qBase2 then [] else meets q2 (d.streamRanges rows k)) ++
  meets (o ++ q ++ q2) (d.supRanges rows) ++ meets o (q ++ q2) ++ meets q q2

/-- A checked multiplier works on row `r` (R219). -/
def ChainDesc.multiplies (d : ChainDesc) (r : Nat) : Bool :=
  d.stages.any fun g => g.fn = 3 || g.fn = 4 || (decide (9 ≤ g.fn) && decide (g.fn ≤ 14)) ||
    (g.fn = 16 && (g.rmode = 2 || g.rmode = 3 || (g.rtf ≠ 0 && r % d.span = d.span - 1)))

/-- What row `r` reads of the supplied exponents. -/
def ChainDesc.supRow (d : ChainDesc) (r : Nat) : List ChRange :=
  if d.qnt.isSome && d.cw.supplied then
    (if d.cw.square then (if r % 32 = 31 then [⟨d.seTile, (d.seBase + r / 32 * 8 : Nat), 8⟩] else []) else [⟨d.seTile, (d.seBase + 8 * r : Nat), 8⟩])
  else []

/-- What row `r` reads and writes; the words of a span that is over land with the row after it. -/
def ChainDesc.rowRanges (d : ChainDesc) (results : List (Nat × Nat × W32)) (r : Nat) : List ChRange :=
  ((List.range d.nstr).map fun k => let x := d.streams.getD k {}; ⟨x.tile, x.rowAt d.span r, (x.lane d.gl 255 + 1) * esize x.bf16⟩) ++ d.supRow r ++
  (match d.oKind with
    | 0 => []
    | 3 =>
      if d.cw.square then (if r % 32 = 31 then [⟨d.oTile, (d.oBase + r / 32 * 8 * squarePlateSize d.cw.fmt : Nat), 8 * squarePlateSize d.cw.fmt⟩] else [])
      else [⟨d.oTile, (d.oBase + r / 2 * linePlateSize d.cw.fmt : Nat), linePlateSize d.cw.fmt⟩]
    | _ => [⟨d.oTile, d.outRowAt r, 256 * esize (d.oKind == 2)⟩]) ++
  results.map fun x => ⟨x.1, (x.2.1 : Nat), 4⟩

/-! ### Where a program lies -/

/-- The tile whose store a TILE field names: the spare, where one has taken the role (R86, R217). -/
def State.quadTile (s : State) (q k : Nat) : Nat :=
  let i := 4 * q + k
  match s.wardOfDie (q / 16) with
  | some w => (s.ward w).redirect i
  | none => i

/-- Words of the store of tile `i` from offset `off` on. -/
def State.storeW64 (s : State) (i off k : Nat) : W64 := BitVec.ofNat 64 (leNat (s.rdStores i (off + 8 * k) 8))

end Sys2Proof.Machine
end

