-- ==== Sys2Proof/Machine/Flags.lean ====
section
/-! DEFINITION. Event flags of the tiles (R117, R147, R148) and the conditions that read them. -/

namespace Sys2Proof.Machine
open Sys2Proof

/-- The condition of a WAITF (R148). -/
def waitHolds (f : WaitfF) (flags : W16) : Bool :=
  if f.any then flags &&& f.fmask != 0 else flags &&& f.fmask == f.fmask

/-- The flags after the wake-up of a WAITF: CLR clears those of FMASK that are set, and a stand-in flag is
set again (R148, R539). -/
def flagsAfter (f : WaitfF) (flags standIn : W16) : W16 :=
  if f.clr then (flags &&& ~~~f.fmask) ||| standIn else flags

/-- The condition of a JMP (R151). -/
def jmpTaken (f : JmpF) (k : BitVec 24) (flags : W16) : Bool :=
  match f.cond with
  | 0 => true
  | 1 => k != 0
  | 2 => k == 0
  | 3 => flags &&& f.fmask == f.fmask
  | 4 => flags &&& f.fmask != f.fmask
  | 5 => k != 0
  | _ => false

/-- The flags of the first SIG of `sigs` to `tgt`, and the SIGs that remain in flight (R20, R147). -/
def takeSig (tgt : Nat) : List (Nat × W16) → Option (W16 × List (Nat × W16))
  | [] => none
  | (t, m) :: r =>
    if t = tgt then some (m, r)
    else match takeSig tgt r with
      | some (m', r') => some (m', (t, m) :: r')
      | none => none

end Sys2Proof.Machine
end

