-- ==== Sys2Proof/Machine/TileSeq.lean ====
section
/-! DEFINITION. The meanings of the sequencer's other instructions: engines, transfers and storage (R137 to
R144), synchronisation (R145 to R148), control flow and register arithmetic (R149 to R155). -/

namespace Sys2Proof.Machine
open Sys2Proof

/-! ### CHAIN and KICK -/

/-- R137: stalls while the quad's queue of 8 programs is full. A fenced engine discards the program (R220). -/
def execChain (t : Nat) (f : ChainF) (s : State) : Host.Outcome State Fault Refusal :=
  .next (s.issue t (.chain t f) fun _ =>
    if (s.quad (t / 4)).fenced then .go s
    else if 8 ≤ (s.quad (t / 4)).queue.length then .stall
    else .go (s.modQuad (t / 4) fun q =>
      { q with queue := q.queue ++ [⟨t % 4, ((s.tile t).areg f.ad).toNat, f.rows⟩] }))

/-- A run starts: the status fields of the previous run are cleared (R227). -/
def Chan.start (c : Chan) (desc count : Nat) (kicker : Option Nat) : Chan :=
  { c with st := .running, status := 0, cause := 0, remain := BitVec.ofNat 16 count, kicked := kicker.isSome,
           kicker := kicker, next := BitVec.ofNat 48 (desc / 64 * 64), cur := BitVec.ofNat 48 (desc / 64 * 64),
           desc := none, pos := 0, squashing := none }

/-- R139: stalls while the channel runs; a count of 0 starts nothing. -/
def execKick (t : Nat) (f : KickF) (s : State) : Host.Outcome State Fault Refusal :=
  .next (s.issue t (.kick t f) fun _ =>
    let n := t / 64
    let c := 64 * n + f.ch + (if f.hp then 32 else 0)
    let cnt := if f.ks then ((s.tile t).kreg f.ki).toNat % 65536 else f.cnt
    if f.hp ∧ n ≠ 0 ∧ n ≠ 4 then .exc 0x17 0
    else if (s.chan c).st = .running then .stall
    else if cnt = 0 then .go s
    else .go (s.modChan c fun x => x.start ((s.tile t).areg f.ad).toNat cnt (some t)))

/-! ### TAG and STAT -/

/-- Banks that earlier instructions of the tile still access (R141). -/
def State.busyBanks (s : State) (i : Nat) : List Nat :=
  let t := s.tile i
  (match t.latching with | some j => banksOf j.offs (plateSize j.f.blk j.f.fmt) | none => []) ++
  (t.passes.flatMap fun p => banksOf p.rows 272) ++
  (match t.draining with | some (_, l) => (l.cells.map fun c => c.1 / 65536).dedup ++ l.reads | none => []) ++
  (t.stats.flatMap fun l => (l.cells.map fun c => c.1 / 65536).dedup)

/-- Banks of quad-local tile `k` that the ranges touch. -/
def rangeBanks (k : Nat) (rs : List ChRange) : List Nat :=
  (rs.flatMap fun r => if r.tile = k ∧ r.len ≠ 0 then
    (List.range ((r.lo.toNat + r.len - 1) / 65536 + 1 - r.lo.toNat / 65536)).map (r.lo.toNat / 65536 + ·) else []).dedup

/-- Banks of tile `i` that the programs it issued to its chain engine read and write (R141). A queued program's descriptor
is the one in the store now. -/
def State.chainBanks (s : State) (i : Nat) : List Nat :=
  let q := i / 4
  let x := s.quad q
  let banks (d : ChainDesc) (rows : Nat) : List Nat := rangeBanks (i % 4) (d.ranges rows)
  (match x.run with | some r => if r.issuer = i % 4 then banks r.desc r.rows else [] | none => []) ++
  ((x.queue.filter fun p => p.issuer = i % 4).flatMap fun p =>
    let off : Nat := p.off / 16 * 16
    rangeBanks (i % 4) [⟨i % 4, off, 224⟩] ++ banks (chainDescOf (s.storeW64 (s.quadTile q p.issuer) off)) p.rows)

def bankList (m : W32) : List Nat := (List.range 32).filter fun b => m.getLsbD b

/-- R141: banks whose tag differs take the new tag and clear. -/
def State.retag (s : State) (i : Nat) (banks : List Nat) (tag : W16) : State :=
  forEach (banks.filter fun b => (s.tile i).tags.get b ≠ tag) s fun s b =>
    ((s.modTile i fun t => { t with tags := t.tags.set b tag, clearing := t.clearing ||| (1#32 <<< b),
                                    tagCnt := incSat t.tagCnt }).clearRange (tileBase i + b * 65536) 65536).mendStore i (b * 65536) 65536

def execTag (t : Nat) (f : TagF) (s : State) : Host.Outcome State Fault Refusal :=
  .next (s.issue t (.tag t f) fun _ =>
    let banks := bankList f.bmask
    if (s.busyBanks t).any banks.contains || (s.chainBanks t).any banks.contains then .stall
    else .go (s.retag t banks (BitVec.ofNat 16 ((s.tile t).areg f.ac).toNat)))

def execTagClearComplete (t bank : Nat) (s : State) : Host.Outcome State Fault Refusal :=
  .next (s.modTile t fun x => { x with clearing := x.clearing &&& ~~~(1#32 <<< bank) })

/-- R143: stalls on earlier DRAIN and CHAIN work; each site is read, and zeroed with CLR, in one step. -/
def execStat (t : Nat) (f : StatF) (s : State) : Host.Outcome State Fault Refusal :=
  .next (s.issue t (.stat t f) fun _ =>
    if (s.tile t).draining.isSome || s.chainBusy t then .stall
    else
      let base := ((s.tile t).areg f.ad).toNat / 16 * 16
      match rangeBad base (48 * f.ns) with
      | some o => .exc 0x10 (sat32 o)
      | none =>
        let sites := (List.range f.ns).map fun k => t / 64 * 1024 + f.site + k
        let cells := cellsFrom base (sites.flatMap fun k => (s.sites.get k).bytes)
        let s := s.modTile t fun x => { x with stats := x.stats ++ [{ cells := cells }] }
        .go (if f.clr then forEach sites s fun s k => s.onSite k fun _ => {} else s))
where
  cellsFrom (off : Nat) (bs : List Byte) : List (Nat × Byte) := (bs.zipIdx).map fun (b, k) => (off + k, b)

def execStatComplete (t : Nat) (s : State) : Host.Outcome State Fault Refusal :=
  match (s.tile t).stats with
  | [] => .next s
  | l :: r =>
    if (s.tile t).anyClearing (l.cells.map fun c => c.1 / 65536).dedup then .next s
    else .next ((s.wrStoreCells t l.cells).modTile t fun x => { x with stats := r })

/-! ### Synchronisation -/

/-- R145. -/
def execBeat (t : Nat) (s : State) : Host.Outcome State Fault Refusal :=
  .next (s.issue t (.beat t) fun _ => .go (s.modTile t fun x => { x with st := .atBeat }))

/-- An earlier operation of one of the named classes is outstanding (R146). -/
def State.classBusy (s : State) (i : Nat) (cls : Byte) : Bool :=
  let t := s.tile i
  (cls.getLsbD 0 && t.latching.isSome) || (cls.getLsbD 1 && !t.passes.isEmpty) ||
  (cls.getLsbD 2 && !t.zeroing.isEmpty) || (cls.getLsbD 3 && t.draining.isSome) ||
  (cls.getLsbD 4 && s.chainBusy i) || (cls.getLsbD 5 && s.kickBusy i) ||
  (cls.getLsbD 6 && !t.sigs.isEmpty) || (cls.getLsbD 7 && (t.clearing != 0 || !t.stats.isEmpty))

def execFence (t : Nat) (cls : Byte) (s : State) : Host.Outcome State Fault Refusal :=
  .next (s.issue t (.fence t cls) fun _ => if s.classBusy t cls then .stall else .go s)

/-- R147: flags set out for the target; a target of a die the ward does not hold is SIG_TARGET. -/
def execSig (t : Nat) (f : SigF) (s : State) : Host.Outcome State Fault Refusal :=
  .next (s.issue t (.sig t f) fun w =>
    if (s.ward w).holds (f.tgt / 64) then .go (s.modTile t fun x => { x with sigs := x.sigs ++ [(f.tgt, f.fmask)] })
    else .exc 0x16 (sat32 f.tgt))

/-- R147: the oldest SIG in flight from `src` to `tgt` sets its flags, at the spare where one has taken
the target's role. -/
def execFlagArrive (src tgt : Nat) (s : State) : Host.Outcome State Fault Refusal :=
  match takeSig tgt (s.tile src).sigs with
  | none => .next s
  | some (m, r) =>
    let s := s.modTile src fun x => { x with sigs := r }
    match s.wardOfDie (tgt / 64) with
    | none => .next s
    | some w =>
      let i := (s.ward w).redirect tgt
      if (s.tile i).health = .fenced then .next s
      else .next (s.modTile i fun x => x.setFlags m)

/-- R148: the sequencer waits; WAITF_WAKE ends the wait. -/
def execWaitf (t : Nat) (f : WaitfF) (s : State) : Host.Outcome State Fault Refusal :=
  .next (s.issue t (.waitf t f) fun _ => .go (s.modTile t fun x => { x with st := .atWait, waiting := some f }))

/-- R148: the cycle of wake-up. A tile that a pending verdict holds wakes too and issues nothing (R82). -/
def execWaitfWake (t : Nat) (s : State) : Host.Outcome State Fault Refusal :=
  let x := s.tile t
  match x.waiting with
  | none => .next s
  | some f =>
    if x.st = .atWait ∧ waitHolds f x.flags then
      let (n, s) := s.takeFresh
      let s := s.modTile t fun x => { x with st := .running, waiting := none, flags := flagsAfter f x.flags x.standIn,
                                             stall := x.stall + Config.freeW32 n }
      .next (match s.wardOfDie (t / 64) with
        | some w => if x.proofs = [] then s.checkPc w t else s
        | none => s)
    else .next s

/-! ### Control flow -/

/-- R150. -/
def execLoop (t : Nat) (f : LoopF) (s : State) : Host.Outcome State Fault Refusal :=
  .next (s.issue t (.loop t f) fun _ =>
    let x := s.tile t
    let cnt := if f.src then x.kreg f.k else BitVec.ofNat 24 f.count
    if cnt = 0 then .jump (s.modTile t fun x => x.setK f.k cnt) (f.fin + 1)
    else if 4 ≤ x.loops.length then .exc 0x13 0
    else .go (s.modTile t fun x => { x.setK f.k cnt with loops := ⟨x.pc + 1, f.fin, f.k⟩ :: x.loops }))

/-- R150. -/
def execEndl (t : Nat) (s : State) : Host.Outcome State Fault Refusal :=
  .next (s.issue t (.endl t) fun _ =>
    let x := s.tile t
    match x.loops with
    | [] => .exc 0x14 0
    | l :: r =>
      if l.fin ≠ x.pc then .exc 0x14 0
      else
        let k := x.kreg l.k
        if k.toNat ≤ 1 then .go (s.modTile t fun x => { x.setK l.k 0 with loops := r })
        else .jump (s.modTile t fun x => x.setK l.k (k - 1)) l.start)

/-- R151. -/
def execJmp (t : Nat) (f : JmpF) (s : State) : Host.Outcome State Fault Refusal :=
  .next (s.issue t (.jmp t f) fun _ =>
    let x := s.tile t
    if !jmpTaken f (x.kreg f.k) x.flags then .go s
    else if x.loops.length < f.pop then .exc 0x14 0
    else .jump (s.modTile t fun x =>
      { (if f.cond = 5 then x.setK f.k (x.kreg f.k - 1) else x) with loops := x.loops.drop f.pop }) f.target)

/-- R152. -/
def execHalt (t : Nat) (s : State) : Host.Outcome State Fault Refusal :=
  .next (s.issue t (.halt t) fun _ => .go (s.modTile t fun x => { x with st := .halted }))

/-! ### Register arithmetic -/

/-- A 64-bit little-endian word of the tile store. -/
def State.storeWord (s : State) (i off : Nat) : Nat := leNat (s.rdStores i off 8)

/-- R153; a load waits for the clear of its bank (R141). -/
def execSeta (t : Nat) (f : SetaF) (s : State) : Host.Outcome State Fault Refusal :=
  .next (s.issue t (.seta t f) fun _ =>
    let x := s.tile t
    match f.mode with
    | 0 => .go (s.modTile t fun x => x.setA f.ad f.ext)
    | 1 => .go (s.modTile t fun y => y.setA f.ad (x.areg f.as + f.imm.signExtend 48))
    | _ =>
      let off := (x.areg f.as + (f.imm.signExtend 48) * 8).toNat / 8 * 8
      match baseBad (x.areg f.as).toNat (rangeBad off 8) with
      | some o => .exc 0x10 (sat32 o)
      | none =>
        if x.anyClearing [off / 65536] then .stall
        else .go (s.modTile t fun y => y.setA f.ad (BitVec.ofNat 48 (s.storeWord t off))))

/-- R154. -/
def execAdda (t : Nat) (f : AddaF) (s : State) : Host.Outcome State Fault Refusal :=
  .next (s.issue t (.adda t f) fun _ =>
    let x := s.tile t
    let v := match f.mode with
      | 0 => x.areg f.as + x.areg f.at'
      | 1 => x.areg f.as - x.areg f.at'
      | _ => x.areg f.as + (x.kreg f.k).zeroExtend 48 * f.imm.signExtend 48
    .go (s.modTile t fun y => y.setA f.ad v))

/-- R155; a load waits for the clear of its bank (R141). -/
def execSetk (t : Nat) (f : SetkF) (s : State) : Host.Outcome State Fault Refusal :=
  .next (s.issue t (.setk t f) fun _ =>
    let x := s.tile t
    match f.mode with
    | 0 => .go (s.modTile t fun y => y.setK f.kd f.imm)
    | 1 => .go (s.modTile t fun y => y.setK f.kd (x.kreg f.ks + f.imm))
    | 2 =>
      let off := (x.areg f.as).toNat / 8 * 8
      match rangeBad off 8 with
      | some o => .exc 0x10 (sat32 o)
      | none =>
        if x.anyClearing [off / 65536] then .stall
        else .go (s.modTile t fun y => y.setK f.kd (BitVec.ofNat 24 (s.storeWord t off)))
    | _ => .go (s.modTile t fun y => y.setK f.kd ((x.areg f.as).setWidth 24)))

end Sys2Proof.Machine
end

