-- ==== Sys2Proof/Machine/Dma.lean ====
section
/-! DEFINITION. The DMA commands (chapter 08): a run's start, its descriptors' fetch and completion, access
errors, the end of a squash. -/

namespace Sys2Proof.Machine
open Sys2Proof

/-! ### Fetch-time checks (R232, R237, R246, R247, R255) -/

/-- Reserved bits and illegal values of a descriptor (R231, R232): `true` is DMA_DESC. -/
def Desc.illegal (d : Desc) : Bool :=
  let w (k : Nat) := d.wd k
  let cw := wf (w 6) 15 0
  let c := d.cw
  let plate := plateElem d.sel || plateElem d.del
  let raw := if d.kind = 3 then false else d.sel = 0 || d.del = 0
  let el (e : Nat) := e = 1 || e = 2
  let combo := match d.kind with
    | 0 => (d.sel = 0 && d.del = 0) || (el d.sel && el d.del) || (d.sel = 3 && d.del = 3) ||
           (d.sel = 4 && d.del = 4 && (d.pfmt = .b4 || d.pfmt = .b8))
    | 1 => el d.sel && ((d.del = 3 && !c.square) || (d.del = 4 && c.square)) && d.pfmt == .b1
    | 2 => el d.del && (d.sel = 3 || (d.sel = 4 && (d.pfmt = .b4 || d.pfmt = .b8)))
    | 3 => d.del = 0 && d.dshp = 0 && !d.pad &&
           ((el d.sel && c.fmt == .b8 && !c.square) || (d.sel = 3 && d.pfmt == .b8 && cw = 0))
    | 4 => d.sel = 0 && d.del = 0 && d.esz ≤ 3
    | _ => false
  !combo || d.sel > 4 || d.del > 4 || d.esz = 7 || wf (w 0) 45 32 ≠ 0 ||
  (!plate && d.pfmt != .b1) || (!raw && d.esz ≠ 0) ||
  (d.xstage && d.kind ≠ 4) || (d.kind = 4 && d.fill ≠ 0) ||
  wf (w 1) 63 48 ≠ 0 || wf (w 2) 63 48 ≠ 0 ||
  wf (w 3) 63 48 ≠ 0 || wf (w 3) 5 0 ≠ 0 || d.sshp = 0 || wf (w 4) 63 48 ≠ 0 || wf (w 4) 5 0 ≠ 0 ||
  wf (w 5) 63 48 ≠ 0 || wf (w 5) 5 0 ≠ 0 ||
  (!((d.kind = 1 || d.kind = 3) && c.supplied) && !d.xstage && d.xaddr ≠ 0) ||
  (cw ≠ 0 && !((d.kind = 1 || d.kind = 3) && el d.sel)) ||
  ((d.kind = 1 || d.kind = 3) && el d.sel && !c.legal) ||
  wf (w 7) 2 0 ≠ 0 || (!d.cf && d.caddr ≠ 0) ||
  (d.dshp = 0 && (d.kind = 1 || d.kind = 2))

/-- The lowest unit address of one side and the end of its highest unit, exact; plate addresses are forced (R237). -/
def sideExtent (x : Shape) (plate : Bool) (base u : Nat) : Int × Int :=
  let ds := (x.strs.zip x.cnts).map fun (s, c) => s * ((c : Int) - 1)
  let f (a : Int) : Int := if plate then a - a % 16 else a
  (f ((base : Int) + (ds.map fun d => min d 0).sum), f ((base : Int) + (ds.map fun d => max d 0).sum) + u)

/-- A SKEW's destination extent. -/
def Desc.dstExtent (d : Desc) : Int × Int :=
  if d.kind = 3 then ((d.dst : Int), (d.dst : Int) + 272 * (d.vectors + 255))
  else sideExtent d.dshape (plateElem d.del) d.dst d.dunit

def Desc.srcExtent (d : Desc) : Int × Int := sideExtent d.sshape (plateElem d.sel) d.src d.sunit

/-- Misaligned bases or strides (R237). -/
def Desc.misaligned (d : Desc) : Bool :=
  let bad (x : Shape) (base u : Nat) : Bool :=
    let m := min u 16
    base % m ≠ 0 || (x.strs.zip x.cnts).any fun (s, c) => decide (1 < c) && decide (s % m ≠ 0)
  (!plateElem d.sel && bad d.sshape d.src d.sunit) ||
  (d.kind ≠ 3 && !plateElem d.del && bad d.dshape d.dst d.dunit) ||
  (d.kind = 3 && d.sel = 3 && (List.range d.vectors).any fun v =>
    (d.sshape.raw d.src (0 :: unrank (d.sshape.cnts.drop 1) v)) / 2 % 8 ≠ 0)

def Desc.extentBad (d : Desc) : Bool :=
  let bad (x : Int × Int) : Bool := decide (x.1 < 0) || decide ((2 ^ 48 : Int) < x.2)
  bad d.srcExtent || bad d.dstExtent

/-- Order of dimensions by absolute stride. -/
def strideOrder (strs : List Int) (dims : List Nat) : List Nat :=
  sortBy (fun a b => decide ((strs.getD a 0).natAbs < (strs.getD b 0).natAbs) ||
    ((strs.getD a 0).natAbs == (strs.getD b 0).natAbs && decide (a ≤ b))) dims

/-- A permuting COPY (R246). -/
def Desc.permuting (d : Desc) : Bool :=
  if d.kind ≠ 0 ∨ d.dense then false
  else
    let dims := (List.range 5).filter fun k =>
      decide (1 < d.dshape.cnts.getD k 1) && d.sshape.strs.getD k 0 != 0 && d.dshape.strs.getD k 0 != 0
    strideOrder d.sshape.strs dims != strideOrder d.dshape.strs dims ||
    dims.any fun k => decide (d.sshape.strs.getD k 0 < 0) != decide (d.dshape.strs.getD k 0 < 0)

def Desc.relays (d : Desc) : Bool := d.kind ≠ 0 || d.permuting

def rangesMeet (a b : Int × Int) : Bool := decide (a.1 < b.2) && decide (b.1 < a.2)

/-- Ranges of the descriptor that must not meet one another: source, destination, XADDR, CADDR. -/
def Desc.overlap (d : Desc) : Bool :=
  let x : Int × Int := ((d.xaddr : Int), (d.xaddr : Int) + d.supBytes)
  let st : Int × Int := ((d.xaddr : Int), (d.xaddr : Int) + d.stageBytes)
  let c : Int × Int := ((d.caddr : Int), (d.caddr : Int) + 8)
  let cw (r : Int × Int) : Bool := d.cf && rangesMeet c r
  let xs (r : Int × Int) : Bool := d.supBytes ≠ 0 && rangesMeet x r
  if d.kind = 4 && d.xstage then cw d.srcExtent || cw d.dstExtent || cw st
  else rangesMeet d.srcExtent d.dstExtent || xs d.srcExtent || xs d.dstExtent || cw d.srcExtent || cw d.dstExtent ||
    (d.supBytes ≠ 0 && cw x)

/-- R247 for an in-place transpose of ward `w`. -/
def State.stageBad (s : State) (w : Nat) (d : Desc) : Bool :=
  let n := d.sshape.cnts.getD 0 1
  let st : Int × Int := ((d.xaddr : Int), (d.xaddr : Int) + d.stageBytes)
  d.kind = 4 && d.xstage &&
  (d.src ≠ d.dst || !(d.dense || d.sshp = d.dshp) || n ≠ d.sshape.cnts.getD 1 1 || decide (256 < n) ||
   (d.sshape.cnts.drop 2).any (· ≠ 1) || d.pad || rangesMeet st d.srcExtent || rangesMeet st d.dstExtent ||
   !((pieces d.xaddr d.stageBytes).all fun (a, _) =>
      match (s.ward w).walk a, (s.ward w).walk d.xaddr with
      | some l, some l0 => decide (2 ^ 42 ≤ l.pa) && decide (l.pa < 2 ^ 42 + 512 * 2 ^ 22) &&
          decide (l.pa / 2 ^ 22 = l0.pa / 2 ^ 22) && decide (l.pa % 2 ^ 22 < 0x200000) && (s.ward w).holds ((l.pa - 2 ^ 42) / 2 ^ 28)
      | _, _ => false))

/-- The first failing fetch-time check after the shapes are read: cause and status. -/
def State.fetchBad (s : State) (w : Nat) (d : Desc) : Option (Nat × St) :=
  if (d.kind = 3 && (d.vectors = 0 || decide (7455 < d.vectors) || (d.sel = 3 && d.sshape.cnts.getD 0 1 ≠ 1))) then some (0x30, .protection)
  else if d.misaligned then some (0x31, .protection)
  else if d.extentBad then some (0x32, .protection)
  else if d.relays && d.overlap then some (0x33, .overlap)
  else if s.stageBad w d then some (0x35, .protection)
  else none

/-! ### Stops and confined failures (R256, R257, R260) -/

/-- A descriptor of which nothing was read. -/
def Desc.unread : Desc := { words := [], sshape := {}, dshape := {}, dense := true }

/-- A stop at descriptor `d`: the destination of the descriptor in progress is an undefined mix; a kicked run faults the
job. -/
def State.stopRun (s : State) (c w : Nat) (d : Desc) (st : St) (cause : Nat) (va : Nat) : State :=
  let x := s.chan c
  let word0 := d.wd 0
  let ctx := d.ctx
  let s := s.mixDesc c w
  let s := s.modChan c fun x =>
    { x with st := .stopped, status := st.code, cause := BitVec.ofNat 8 cause, faultVa := BitVec.ofNat 48 va, desc := none }
  let s := s.chanRecord c w (if x.kicked then 4 else 1) st cause ctx va word0
  let s := s.chanIrq c
  if x.kicked then s.jobFault w st else s

/-- The completion word (R242). -/
def State.cword (s : State) (w : Nat) (d : Desc) (pos cause : Nat) (st : St) : State :=
  if d.cf then
    s.writeVa w d.ctx d.caddr (toLE 8 (st.code.toNat + cause * 2 ^ 8 + pos % 65536 * 2 ^ 16 + (s.ward w).num.toNat % 2 ^ 32 * 2 ^ 32))
  else s

/-- A completion word that cannot be written stops the run (R259). -/
def State.cwordOk (s : State) (w : Nat) (d : Desc) (port : Option Nat) : Bool :=
  !d.cf || s.rangeOk w d.ctx d.caddr 8 true port

/-- The status of a completion word that cannot be written. -/
def State.cwordBad (s : State) (w : Nat) (d : Desc) (port : Option Nat) : St :=
  match s.checkRange w d.ctx d.caddr 8 true port with
  | some (st, _) => st
  | none => .tierFail

/-- R270: a completion word that a check refuses is a refused access. -/
def State.cwordRefused (s : State) (w : Nat) (d : Desc) (port : Option Nat) : State :=
  if (s.checkRange w d.ctx d.caddr 8 true port).isSome then s.countFault w else s

/-- The context's micro-batch in the stage of die `n` is lost (R283, R482). -/
def State.loseCtx (s : State) (w n ctx : Nat) (st : St) : State :=
  match (s.ward w).groupAt n with
  | some b => s.losePositions w ctx b st
  | none => s

/-- A confined failure of the descriptor in progress; the run goes on. -/
def State.confine (s : State) (c w : Nat) (d : Desc) (st : St) (va : Nat) (port : Option Nat) : State :=
  let s := (s.mixDesc c w).modChan c fun x => { x with confined := incSat x.confined, faultVa := BitVec.ofNat 48 va }
  let s := s.chanRecord c w 1 st 0x38 d.ctx va (d.wd 0)
  let s := if (s.chan c).kicked then s.loseCtx w (c / 64) d.ctx st else s
  if s.cwordOk w d port then
    (s.cword w d (s.chan c).pos 0x38 st).doneDesc c
  else (s.cwordRefused w d port).stopRun c w d (s.cwordBad w d port) 0x38 d.caddr

/-! ### DMA_START -/

/-- The port of a host-port channel. -/
def hpPort (c : Nat) : Option Nat := if c % 64 < 32 then none else some (if c / 64 = 0 then 0 else 1)

def State.chanExists (s : State) (c : Nat) : Bool := s.dies.contains (c / 64) && (chansOfDie (c / 64)).contains c

/-- R227, R264. -/
def execDmaStart (r : Req) (c : Nat) (a : RegW) (s : State) : Host.Outcome State Fault Refusal :=
  if !s.live || decide (7 < c / 64) then .next s
  else if !s.ownsDie r (c / 64) then .next s.refuse
  else if !s.chanExists c || !a.legal then .next s
  else match s.wardOfDie (c / 64) with
    | none => .next s
    | some _ =>
      let x := s.chan c
      if x.st = .running then .next (s.modChan c fun x => { x with lost := true })
      else
        let v := a.into64 (BitVec.ofNat 64 (x.heldLo.toNat + x.heldHi.toNat * 2 ^ 32))
        let s := s.modChan c fun x => { x with heldLo := v.setWidth 32, heldHi := BitVec.ofNat 32 (v.toNat / 2 ^ 32) }
        if a.hitsHi ∧ wf v 63 48 ≠ 0 then .next (s.modChan c fun x => x.start (wf v 47 0) (wf v 63 48) none)
        else .next s

/-! ### DMA_DESCRIPTOR_FETCH -/

/-- Under which context the page at `va` can be read: 0, or one of its owners. -/
def State.fetchCtx (s : State) (w va : Nat) (port : Option Nat) : Option Nat :=
  let cand := match (s.ward w).walk va with
    | none => []
    | some l =>
      if isStack l.pa || decide (2 ^ 48 ≤ l.pa) then
        (if l.alloc then (match (s.ward w).unitOwner va with | some o => [o] | none => []) else s.slotMembers l.kslot)
      else [((s.tile ((s.ward w).redirect ((l.pa - 2 ^ 42) / 2 ^ 22))).tags.get (l.pa % 2 ^ 22 / 65536)).toNat]
  (0 :: cand).find? fun c => s.accessOk w c va false port

/-- R254: `none` where the fetch is allowed, else the cause. A descriptor of CTX 0 may lie in any page. -/
def State.ctxBad (s : State) (w va ctx owner : Nat) (port : Option Nat) : Option (Nat × St) :=
  let p := match (s.ward w).walk va with | some l => l.prog | none => false
  if ctx = 0 then none
  else if owner = 0 then (if p then none else some (0x34, .protection))
  else if s.accessOk w ctx va false port then none else some (0x34, .protection)

def words8 (bs : List Byte) : List W64 := (List.range 8).map fun k => BitVec.ofNat 64 (leNat ((bs.drop (8 * k)).take 8))

/-- A shape record under context `ctx`: `none` where an access fails or meets poison. -/
def State.readShape (s : State) (w ctx va : Nat) (port : Option Nat) : State × Option (List W64) :=
  if s.rangeOk w ctx va 64 false port then
    let (s, o) := s.readVa w ctx va 64
    (s, if o.bad.any id || o.soft.any id then none else some (words8 o.bytes))
  else (s, none)

/-! ### DMA_DESCRIPTOR_COMPLETE -/

/-- Every access of the descriptor passes. -/
def State.descOk (s : State) (w : Nat) (d : Desc) (port : Option Nat) : Bool :=
  d.accesses.all (fun (a, n, wr) => s.rangeOk w d.ctx a n wr port) && (!d.cf || s.rangeOk w d.ctx d.caddr 8 true port)

/-- Poison in supplied exponents is a failure of its own (R540). -/
def State.supBad (s : State) (w : Nat) (d : Desc) : Bool :=
  d.supBytes ≠ 0 && (let o := (s.readVa w d.ctx d.xaddr d.supBytes).2; o.bad.any id || o.soft.any id)

/-- RAW units, and the stage area, from a word of a tile store with an uncorrectable error: no data read (R470). -/
def State.rawSoft (s : State) (w : Nat) (d : Desc) : Bool :=
  (if d.sel = 0 ∧ d.kind ≠ 3 then d.reads else []).any (fun (a, n) => (s.readVa w d.ctx a n).2.soft.any id) ||
  (d.stageBytes ≠ 0 && (s.readVa w d.ctx d.xaddr d.stageBytes).2.soft.any id)

/-- Bytes moved, for the accounting of the context (R430): tier by tier. -/
def State.charge (s : State) (w c va n : Nat) (wr : Bool) : State :=
  match s.xlate w c va wr with
  | .error _ => s
  | .ok l => s.modWard w fun x => { x with acct := x.acct.modify c fun a =>
      match l.kind, wr with
      | .stack, false => { a with stackRd := a.stackRd + n }
      | .stack, true => { a with stackWr := a.stackWr + n }
      | .peer, false => { a with peerRd := a.peerRd + n }
      | .peer, true => { a with peerWr := a.peerWr + n }
      | .host, false => { a with hostRd := a.hostRd + n }
      | .host, true => { a with hostWr := a.hostWr + n }
      | .store, _ => a }

/-- An access lies in a tile-store bank that clears itself, and waits (R141, R252). -/
def State.waitsClear (s : State) (w c : Nat) (acc : List (Nat × Nat × Bool)) (port : Option Nat := none) : Bool :=
  acc.any fun (a, n, wr) => (pieces a n).any fun (p, _) => match s.xlate w c p wr port with
    | .ok l => l.kind == .store && (s.tile l.tile).clearing.getLsbD ((l.pa - tileBase l.tile) / 65536)
    | .error _ => false

/-- The accesses of a descriptor with its completion word. -/
def Desc.allAccesses (d : Desc) : List (Nat × Nat × Bool) := d.accesses ++ (if d.cf then [(d.caddr, 8, true)] else [])

/-- DMA_DESCRIPTOR_COMPLETE (R228). Nothing happens where an access of the descriptor fails, which is DMA_ACCESS_ERROR's
event, and while one waits for a clear. -/
def execDmaDescriptorComplete (c : Nat) (seen : List (Nat × Byte)) (reports : List HbmRep) (s : State) :
    Host.Outcome State Fault Refusal :=
  let x := s.chan c
  match s.wardOfDie (c / 64), x.desc with
  | some w, some d =>
    let port := hpPort c
    let s0 := s.seen seen
    if x.st ≠ .running ∨ x.squashing.isSome ∨ !s0.descOk w d port ∨ s0.supBad w d ∨ s0.rawSoft w d ∨ s0.waitsClear w d.ctx d.allAccesses port then .next s
    else
      let s0 := s0.hbmReports reports
      let o := dmaPlan s0 w d x.gen (s0.ward w).jb (badSectors reports)
      if s0.cannotCarry w d.ctx o.ws then .next s
      else
        -- an in-place transpose reads its whole block before it writes (R247)
        let reads := if d.xstage then [] else o.s.physReads w d
        let s := forEach (coalesce o.ws) o.s fun s y => s.dmaWrite w d.ctx false reads y
        let s := forEach d.accesses s fun s (a, n, wr) => s.charge w d.ctx a n wr
        let s := if d.stageBytes = 0 then s else s.freeVa w d.ctx d.xaddr d.stageBytes
        let s := forEach (s.poisonBanks w d.ctx o.ws) s fun s (i, b) => s.notePoison i b (if c % 64 < 32 then 2 else 3) (c % 32)
        let s := if d.counts then s.addSite (c / 64) d.cw.site (sumDeltas (o.deltas.drop x.counted)) else s
        let s := s.modChan c fun x => { x with gen := o.gen }
        let s := (s.cword w d x.pos 0 .ok).doneDesc c
        .next (if x.kicked then s else s0.uncount s)
  | _, _ => .next s

/-! ### DMA_ACCESS_ERROR -/

/-- Every address the channel generates now: address, length, write, and the context it is checked under. -/
def State.chanAccesses (s : State) (c w : Nat) : List (Nat × Nat × Bool × Nat) :=
  let x := s.chan c
  match x.desc with
  | some d => d.accesses.map (fun (a, n, wr) => (a, n, wr, d.ctx)) ++ (if d.cf then [(d.caddr, 8, true, d.ctx)] else [])
  | none =>
    let va := x.next.toNat
    match s.fetchCtx w va (hpPort c) with
    | none => [(va, 64, false, 0)]
    | some oc =>
      let d : Desc := { words := words8 (s.readVa w oc va 64).2.bytes, sshape := {}, dshape := {}, dense := true }
      [(va, 64, false, oc), (d.sshp, 64, false, d.ctx)] ++ (if d.dshp = 0 then [] else [(d.dshp, 64, false, d.ctx)])

def inAccess (va : Nat) (wr : Option Bool) (x : Nat × Nat × Bool × Nat) : Bool :=
  decide (x.1 ≤ va) && decide (va < x.1 + x.2.1) && (match wr with | some b => b == x.2.2.1 | none => true)

/-- The sector that a fresh uncorrectable read at `va` names; none where the sector already reads as poison. -/
def State.newPoison (s : State) (w ctx va : Nat) (port : Option Nat) : List Nat :=
  match s.xlate w ctx va false port with
  | .ok l => if l.kind = .stack ∧ !((s.readVa w ctx va 1).2.bad.any id) then [l.pa / 256] else []
  | .error _ => []

/-- Reads that are not data reads (R540): of the descriptor (0), or of shape records and supplied exponents. -/
def State.metaReads (s : State) (c w what : Nat) : List (Nat × Nat × Bool × Nat) :=
  match (s.chan c).desc with
  | some d => if what = 0 ∨ d.supBytes = 0 then [] else [(d.xaddr, d.supBytes, false, d.ctx)]
  | none => if what = 0 then (s.chanAccesses c w).take 1 else (s.chanAccesses c w).drop 1

/-- The reads of RAW units, and of the stage area of an in-place transpose. -/
def State.rawReads (s : State) (c : Nat) : List (Nat × Nat × Bool × Nat) :=
  match (s.chan c).desc with
  | some d => (if d.sel = 0 ∧ d.kind ≠ 3 then d.reads.map fun (a, n) => (a, n, false, d.ctx) else []) ++
      (if d.stageBytes = 0 then [] else [(d.xaddr, d.stageBytes, false, d.ctx)])
  | none => []

/-- The context of the work in progress: that of the descriptor, or of the one being fetched. -/
def State.chanCtx (s : State) (c w : Nat) : Nat :=
  match (s.chan c).desc with
  | some d => d.ctx
  | none =>
    match s.fetchCtx w (s.chan c).next.toNat (hpPort c) with
    | some oc => wf (BitVec.ofNat 64 (leNat (((s.readVa w oc (s.chan c).next.toNat 64).2.bytes.drop 56).take 8))) 63 48
    | none => 0

/-- The descriptor that fails, as a descriptor with no access of its own where it is still being fetched. -/
def State.failing (s : State) (c w : Nat) : Desc :=
  match (s.chan c).desc with
  | some d => d
  | none =>
    match s.fetchCtx w (s.chan c).next.toNat (hpPort c) with
    | some oc => { words := words8 (s.readVa w oc (s.chan c).next.toNat 64).2.bytes, sshape := {}, dshape := {}, dense := true }
    | none => { words := [], sshape := {}, dshape := {}, dense := true }

/-- A confined failure while the descriptor is still being fetched, or in progress. -/
def State.confineAt (s : State) (c w : Nat) (st : St) (va : Nat) : State :=
  let d := s.failing c w
  match (s.chan c).desc with
  | some _ => s.confine c w d st va (hpPort c)
  | none =>
    -- no destination has been touched
    let s := s.modChan c fun x => { x with desc := some { d with words := d.words.set 1 0 }, confined := incSat x.confined, faultVa := BitVec.ofNat 48 va,
                                           cur := x.next }
    let s := s.chanRecord c w 1 st 0x38 d.ctx va (d.wd 0)
    let s := if (s.chan c).kicked then s.loseCtx w (c / 64) d.ctx st else s
    let s := s.modChan c fun x => { x with desc := some d }
    if s.cwordOk w d (hpPort c) then (s.cword w d (s.chan c).pos 0x38 st).doneDesc c
    else ((s.cwordRefused w d (hpPort c)).modChan c fun x => { x with desc := none }).stopRun c w d (s.cwordBad w d (hpPort c)) 0x38 d.caddr

/-- Stop or confined failure by the context (R258, R260); a descriptor that does not arrive has none. -/
def State.failAccess (s : State) (c w : Nat) (st : St) (va : Nat) : State :=
  let x := s.chan c
  if x.desc.isNone ∧ x.next.toNat ≤ va ∧ va < x.next.toNat + 64 then s.stopRun c w .unread st 0x38 va
  else if s.chanCtx c w = 0 then s.stopRun c w (s.failing c w) st 0x38 va else s.confineAt c w st va

/-- What an access of channel `c` in ward `w` does that fails: the event must be one of an access the channel makes, and its
cause must hold; `none` where it does not. -/
def State.accessError (s : State) (c w : Nat) (e : AccErr) : Option State :=
  let x := s.chan c
  let acc := s.chanAccesses c w
  match e with
  | .translate va wr =>
    match acc.find? fun a => inAccess va.toNat (some wr) a with
    | none => none
    | some a =>
      match s.xlate w a.2.2.2 va.toNat wr (hpPort c) with
      | .ok _ => none
      | .error st =>
        let s := s.countFault w
        if st = .keyRetired then some (s.failAccess c w st va.toNat) else some (s.stopRun c w (s.failing c w) st 0x38 va.toNat)
  | .noCompletion va =>
    match acc.find? fun a => inAccess va.toNat none a with
    | none => none
    | some a =>
      match s.xlate w a.2.2.2 va.toNat a.2.2.1 (hpPort c) with
      | .error _ => none
      | .ok l =>
        if l.kind = .peer ∨ (l.kind = .host ∧ (a.2.2.1 = false ∨ s.wardCanIssue w = false)) then some (s.failAccess c w .tierFail va.toNat)
        else none
  | .poisoned va =>
    -- R261, last row: data that its destination cannot carry
    match x.desc with
    | none => none
    | some d =>
      let o := dmaPlan s w d x.gen (s.ward w).jb (s.newPoison w d.ctx va.toNat (hpPort c))
      if s.descOk w d (hpPort c) ∧ s.cannotCarry w d.ctx o.ws then some (o.s.failAccess c w .poison va.toNat) else none
  | .metaPoison va what =>
    match (s.metaReads c w what).find? fun a => inAccess va.toNat none a with
    | none => none
    | some a =>
      match s.xlate w a.2.2.2 va.toNat false (hpPort c) with
      | .error _ => none
      | .ok l =>
        if l.kind ≠ .stack then none
        else
          let d := s.failing c w
          let s := (s.readVa w a.2.2.2 va.toNat 1 (s.newPoison w a.2.2.2 va.toNat (hpPort c))).1
          if what = 0 then some (s.stopRun c w .unread .poison 0x38 va.toNat)
          else if d.ctx = 0 then some (s.stopRun c w d .poison 0x38 va.toNat)
          else some (s.confineAt c w .poison va.toNat)
  | .pageTable va =>
    if acc.any fun a => inAccess va.toNat none a then some ((s.stopRun c w (s.failing c w) .poison 0x38 va.toNat).resetByPoison w) else none
  | .storeWord va =>
    -- R470, R540: a descriptor, a shape record, supplied exponents, RAW units or a stage area in a tile store
    match (s.metaReads c w 0 ++ s.metaReads c w 1 ++ s.rawReads c).find? fun a => inAccess va.toNat none a with
    | none => none
    | some a =>
      match s.xlate w a.2.2.2 va.toNat false (hpPort c) with
      | .error _ => none
      | .ok l => if l.kind = .store ∧ s.storeBad l.tile (l.pa - tileBase l.tile) 1 then some (s.mainFault l.tile 0 ((l.pa - tileBase l.tile) / 8)) else none
  | .completionWrite =>
    match x.desc with
    | none => none
    | some d =>
      if d.cf then
        match s.checkRange w d.ctx d.caddr 8 true (hpPort c) with
        | some (st, va) => some ((s.countFault w).stopRun c w d st 0x38 va)
        | none =>
          if s.rangeOk w d.ctx d.caddr 8 true (hpPort c) then none else some (s.stopRun c w d .tierFail 0x38 d.caddr)
      else none

/-- DMA_ACCESS_ERROR (R258, R260, R540); `seen` are the bytes of host or peer memory that had arrived. -/
def execDmaAccessError (c : Nat) (e : AccFault) (s : State) : Host.Outcome State Fault Refusal :=
  match s.wardOfDie (c / 64) with
  | none => .next s
  | some w =>
    if (s.chan c).st ≠ .running ∨ (s.chan c).squashing.isSome then .next s
    else .next (((s.seen e.seen).accessError c w e.err).getD s)

/-! ### DMA_DESCRIPTOR_FETCH -/

/-- Peer-tier pieces of the descriptor's accesses: address in the ward, length, whether written, module, address there. -/
def State.peerPieces (s : State) (c w : Nat) (d : Desc) : List (Nat × Nat × Bool × Nat × Nat) :=
  if ((s.ward w).job.map (·.prog.modules.length)).getD 0 ≤ 1 then []
  else d.accesses.flatMap fun (va, n, wr) => (pieces va n).filterMap fun (a, len) =>
    match s.xlate w d.ctx a wr (hpPort c) with
    | .ok l => if l.kind == .peer then some (a, len, wr, field l.pa 47 42, field l.pa 41 0) else none
    | .error _ => none

/-- The descriptor is taken up: its peer-tier reads leave on the links; an access to an unreachable module fails at once
(R378), unless a takeover of it is in progress (R396). -/
def State.beginDesc (s : State) (c w : Nat) (d : Desc) : State :=
  let ps := s.peerPieces c w d
  let s := { s with peerReads := s.peerReads.filter fun r => r.chan ≠ c }.modChan c fun x => { x with desc := some d }
  let held (m : Nat) := match s.tko with | some t => t.m == m | none => false
  match ps.find? fun x => !s.wardReaches w x.2.2.2.1 && !held x.2.2.2.1 with
  | some x => s.failAccess c w .tierFail x.1
  | none =>
    let t := forEach ps s fun s x => if x.2.2.1 then s else s.sendRead w d.ctx c x.1 x.2.2.2.1 x.2.2.2.2 x.2.1
    if (s.chan c).kicked then t else s.uncount t

/-- A descriptor arrives and passes its checks, or is refused. Nothing happens where an access of the fetch fails:
DMA_ACCESS_ERROR is the command for that. -/
def execDmaDescriptorFetch (c : Nat) (seen : List (Nat × Byte)) (s : State) : Host.Outcome State Fault Refusal :=
  let x := s.chan c
  match s.wardOfDie (c / 64) with
  | none => .next s
  | some w =>
    if x.st ≠ .running ∨ x.desc.isSome ∨ x.squashing.isSome then .next s
    else
      let port := hpPort c
      let s0 := s.seen seen
      let va := x.next.toNat
      match s0.fetchCtx w va port with
      | none => .next s
      | some oc =>
        let (s1, o) := s0.readVa w oc va 64
        if o.bad.any id || o.soft.any id then .next s
        else
          let s1 := s1.modChan c fun x => { x with cur := BitVec.ofNat 48 va }
          let d0 : Desc := { words := words8 o.bytes, sshape := {}, dshape := {}, dense := true }
          -- a refusal before any access has no faulting address: a free value
          let stop (s : State) (d : Desc) (cause : Nat) (st : St) : Host.Outcome State Fault Refusal :=
            let (n, s) := s.takeFresh
            .next (s.stopRun c w d st cause ((Config.freeW64 n).toNat % 2 ^ 48))
          if d0.illegal then stop s1 d0 0x30 .protection
          else match s1.ctxBad w va d0.ctx oc port with
            | some (cause, st) => stop s1 d0 cause st
            | none =>
              match s1.readShape w d0.ctx d0.sshp port with
              | (_, none) => .next s
              | (s2, some sw) =>
                if !shapeOk sw then stop s2 d0 0x30 .protection
                else
                  let d1 := { d0 with sshape := shapeOf sw }
                  if d0.dshp = 0 then
                    let d := { d1 with dshape := d1.denseShape, dense := true }
                    match s2.fetchBad w d with
                    | some (cause, st) => stop s2 d cause st
                    | none => .next (s2.beginDesc c w d)
                  else match s2.readShape w d0.ctx d0.dshp port with
                    | (_, none) => .next s
                    | (s3, some dw) =>
                      if !shapeOk dw then stop s3 d0 0x30 .protection
                      else
                        let d := { d1 with dshape := shapeOf dw, dense := false }
                        match s3.fetchBad w d with
                        | some (cause, st) => stop s3 d cause st
                        | none => .next (s3.beginDesc c w d)

/-! ### SQUASH_COMPLETE -/

/-- R262: the accesses issued before the squash have completed. -/
def execSquashComplete (c : Nat) (s : State) : Host.Outcome State Fault Refusal :=
  if (s.chan c).squashing.isSome then .next (s.squashDone c) else .next s

end Sys2Proof.Machine
end

