-- ==== Sys2Proof/Machine/Negative.lean ====
section
/-! DEFINITION. Negatives (R273 to R276): the container, its code tables, the checks of DEVELOP (R278) and what
ENCODE writes (R279), over plain bytes. -/

namespace Sys2Proof.Machine
open Sys2Proof

/-! ### CRC-32C (log entry 50) -/

def crcBit (c : W32) : W32 := if c.getLsbD 0 then (c >>> 1) ^^^ 0x82F63B78 else c >>> 1

def crcByte (c : W32) (b : Byte) : W32 :=
  (List.range 8).foldl (fun c _ => crcBit c) (c ^^^ b.zeroExtend 32)

def crc32c (bs : List Byte) : W32 := ~~~(bs.foldl crcByte 0xFFFFFFFF)

/-! ### Code tables (R274, R275) -/

/-- Lengths of the 256 symbols of a 128-byte table. -/
def lengthsOf (bs : List Byte) : List Nat :=
  (List.range 256).map fun k =>
    let b := (bs.getD (k / 2) 0).toNat
    if k % 2 = 0 then b % 16 else b / 16

def kraftOk (ls : List Nat) : Bool := decide ((ls.map fun l => if l = 0 then 0 else 2 ^ (15 - l)).sum ≤ 2 ^ 15)

/-- The canonical codewords: symbol, length, code. -/
def codewords (ls : List Nat) : List (Nat × Nat × Nat) :=
  ((List.range 15).foldl (fun ((code : Nat), (out : List (Nat × Nat × Nat))) l =>
    let syms := (List.range 256).filter fun s => ls.getD s 0 = l + 1
    ((code + syms.length) * 2, out ++ (syms.zipIdx).map fun (s, k) => (s, l + 1, code + k))) (0, [])).2

/-- Bits of a byte list, bit 7 of each byte first. -/
def bitsOf (bs : List Byte) : List Bool := bs.flatMap fun b => (List.range 8).map fun k => b.getLsbD (7 - k)

def natOfBits (l : List Bool) : Nat := l.foldl (fun n b => 2 * n + (if b then 1 else 0)) 0

def bytesOfBits (l : List Bool) : List Byte :=
  (List.range ((l.length + 7) / 8)).map fun k =>
    BitVec.ofNat 8 (natOfBits (((l.drop (8 * k)).take 8) ++ List.replicate (8 - ((l.drop (8 * k)).take 8).length) false))

/-- What reading one symbol gives. -/
inductive Sym where
  | ok (s : Nat) (rest : List Bool)
  | bad
  | over'

/-- Read one symbol; at most 15 bits. -/
def readSym (t : List (Nat × Nat × Nat)) : Nat → Nat → Nat → List Bool → Sym
  | 0, _, _, _ => .bad
  | _ + 1, _, _, [] => .over'
  | n + 1, len, code, b :: r =>
    let code := 2 * code + (if b then 1 else 0)
    match t.find? fun (_, l, c) => l = len + 1 && c = code with
    | some (s, _, _) => .ok s r
    | none => readSym t n (len + 1) code r

/-- A decoded substream, or the cause of R278. -/
inductive Stream where
  | ok (syms : List (Nat × Nat)) (rest : List Bool)
  | bad (cause : Nat)

/-- Read `n` entries: the symbol under the table that `tab` names for the entry's number, then `raw` uncoded bits. -/
def readSyms (tab : Nat → List (Nat × Nat × Nat)) (raw : Nat) : Nat → Nat → List (Nat × Nat) → List Bool → Stream
  | 0, _, acc, bs => .ok acc.reverse bs
  | n + 1, k, acc, bs =>
    match readSym (tab k) 15 0 0 bs with
    | .bad => .bad 0x42
    | .over' => .bad 0x43
    | .ok s r =>
      if r.length < raw then .bad 0x43
      else readSyms tab raw n (k + 1) ((s, natOfBits (r.take raw)) :: acc) (r.drop raw)

/-- Less than 128 bits are left and all are zero. -/
def padOk (r : List Bool) : Bool := decide (r.length < 128) && r.all (!·)

/-! ### Header and directory -/

structure Neg where
  kind : Nat
  fmt : Fmt
  pfmt : Nat
  frames : Nat
  units : Nat
  funits : Nat
  dirOff : Nat
  length : Nat
  tables : List (List Nat)
deriving DecidableEq, Repr, Inhabited

def sliceNat (bs : List Byte) (off n : Nat) : Nat := leNat ((bs.drop off).take n)

def Neg.plates (h : Neg) : Bool := decide (h.kind < 2)
/-- Bytes of one unit (R273). -/
def Neg.unit (h : Neg) : Nat :=
  match h.kind with
  | 0 => linePlateSize h.fmt
  | 1 => squarePlateSize h.fmt
  | 2 => 4
  | _ => 2
/-- Blocks of one plate. -/
def Neg.blocks (h : Neg) : Nat := if h.kind = 0 then 16 else 1
def Neg.codes (h : Neg) : Nat := if h.kind = 0 then 512 else 1024

/-- Units of frame `i`. -/
def Neg.unitsOf (h : Neg) (i : Nat) : Nat := if i + 1 = h.frames then h.units - i * h.funits else h.funits

/-- Symbols that must have no code in table 0 of a plate kind. -/
def tableOk (h : Neg) : Bool :=
  h.tables.all kraftOk &&
  (if h.plates then
    let t := h.tables.getD 0 []
    let lim := 2 ^ h.fmt.width
    (List.range 256).all (fun s => (decide (s < lim) && !(h.fmt == .b2 && s = 2)) || t.getD s 0 == 0) &&
    (h.tables.getD 2 []).all (· = 0) && (h.tables.getD 3 []).all (· = 0)
  else if h.kind = 3 then (h.tables.getD 2 []).all (· = 0) && (h.tables.getD 3 []).all (· = 0) else true)

/-- The header of a negative; `none` is DEV_FORMAT. The list holds at least the 576 bytes of header and tables, and
the directory. -/
def negOf (bs : List Byte) : Option Neg :=
  let kind := sliceNat bs 4 1
  let pf := sliceNat bs 5 1
  let h : Neg := { kind := kind, pfmt := pf, fmt := Fmt.ofBits pf, frames := sliceNat bs 6 2, units := sliceNat bs 8 8,
                   funits := sliceNat bs 16 4, dirOff := sliceNat bs 20 4, length := sliceNat bs 24 8,
                   tables := (List.range 4).map fun t => lengthsOf ((bs.drop (64 + 128 * t)).take 128) }
  if sliceNat bs 0 4 = 0x3247454E ∧ kind ≤ 3 ∧ pf ≤ 3 ∧ (kind = 1 → 2 ≤ pf) ∧ (2 ≤ kind → pf = 0) ∧ 1 ≤ h.frames ∧
      (if kind < 2 then 1 ≤ h.funits ∧ h.funits ≤ 4096 else 16 ≤ h.funits ∧ h.funits ≤ 65536 ∧ h.funits % 16 = 0) ∧
      h.funits * h.unit ≤ 262144 ∧ h.dirOff % 16 = 0 ∧ 576 ≤ h.dirOff ∧ h.dirOff + 8 * h.frames ≤ h.length ∧
      (h.frames - 1) * h.funits < h.units ∧ h.units ≤ h.frames * h.funits ∧
      sliceNat bs 32 4 = (crc32c (bs.take 32 ++ (bs.drop 64).take 512)).toNat ∧
      ((bs.drop 36).take 28).all (· = 0) ∧ tableOk h then some h
  else none

/-- Offset of a frame by its directory entry; `none` where the entry is illegal. -/
def Neg.frameAt (h : Neg) (e : Nat) : Option Nat :=
  if e < 2 ^ 40 ∧ e % 16 = 0 ∧ e + 16 ≤ h.length then some e else none

/-! ### Frames (R276, R278) -/

/-- One plate of a decoded frame. -/
def plateBytes (h : Neg) (scales : List Nat) (codes : List Nat) : List Byte :=
  (if h.kind = 0 then scales.map (BitVec.ofNat 8) else (scales.map (BitVec.ofNat 8)) ++ List.replicate 15 0) ++
  packPatterns h.fmt codes

/-- Scale bytes from their deltas. -/
def undelta (ds : List Nat) : List Nat :=
  (ds.foldl (fun ((p : Nat), (out : List Nat)) d => let v := (p + d) % 256; (v, out ++ [v])) (0, [])).2

/-- Decode frame `i` that lies at offset `off`, its bytes in `bs`: its units' bytes, or the cause of R278. -/
def Neg.frame (h : Neg) (bs : List Byte) (i off : Nat) : Except Nat (List (List Byte)) :=
  let clen := sliceNat bs 0 4
  let first := sliceNat bs 8 4
  let slen := sliceNat bs 12 2
  let n := h.unitsOf i
  if sliceNat bs 14 2 ≠ 0 ∨ (h.plates = false ∧ (first ≠ 0 ∨ slen ≠ 0)) then .error 0x40
  else if clen < 16 ∨ clen % 16 ≠ 0 ∨ h.length < off + clen ∨
      sliceNat bs 4 4 ≠ (crc32c ((bs.drop 16).take (clen - 16))).toNat then .error 0x41
  else
    let body := (bs.drop 16).take (clen - 16)
    let ts := h.tables.map codewords
    if h.plates then
      -- a scale substream that would run past the frame leaves no code substream, which is DEV_COUNT
      let sc := readSyms (fun _ => ts.getD 1 []) 2 (n * h.blocks) 0 [] (bitsOf (body.take (16 * slen)))
      let co := readSyms (fun _ => ts.getD 0 []) 0 (n * h.codes) 0 [] (bitsOf (body.drop (16 * slen)))
      match sc, co with
      | .ok ss sr, .ok cs cr =>
        if !padOk sr || !padOk cr then .error 0x43
        else if first ≠ i * h.funits * h.blocks || (ss.zipIdx).any fun (x, k) => x.2 != (first + k) % 4 then .error 0x44
        else
          let sv := undelta (ss.map (·.1))
          let cv := cs.map (·.1)
          .ok ((List.range n).map fun p =>
            plateBytes h ((sv.drop (p * h.blocks)).take h.blocks) ((cv.drop (p * h.codes)).take h.codes))
      | .bad a, .bad b => .error (min a b)
      | .bad a, _ => .error a
      | _, .bad b => .error b
    else
      match readSyms (fun k => ts.getD (k % h.unit) []) 0 (n * h.unit) 0 [] (bitsOf body) with
      | .bad a => .error a
      | .ok cs r =>
        if !padOk r then .error 0x43
        else
          let v := cs.map fun x => BitVec.ofNat 8 x.1
          .ok ((List.range n).map fun p => (v.drop (p * h.unit)).take h.unit)

/-! ### ENCODE (R279) -/

/-- The codeword of a symbol as bits; `none` where it has no code. -/
def codeBits (t : List (Nat × Nat × Nat)) (s : Nat) : Option (List Bool) :=
  (t.find? fun (x, _, _) => x = s).map fun (_, l, c) => (List.range l).map fun k => c / 2 ^ (l - 1 - k) % 2 = 1

def encodeSyms (tab : Nat → List (Nat × Nat × Nat)) (xs : List (Nat × List Bool)) : Option (List Bool) :=
  (xs.zipIdx).foldl (fun o ((s, raw), k) =>
    match o, codeBits (tab k) s with
    | some bs, some c => some (bs ++ c ++ raw)
    | _, _ => none) (some [])

def pad16 (bs : List Byte) : List Byte := bs ++ List.replicate ((16 - bs.length % 16) % 16) 0

/-- A plate's scale bytes and code patterns. -/
def plateParts (h : Neg) (bs : List Byte) : List Nat × List Nat :=
  ((bs.take h.blocks).map (·.toNat), (List.range h.codes).map fun j => patternAt h.fmt (fun b => bs.getD (16 + b) 0) j)

/-- One frame of the units `us`, the frame's number `i`; `none` where a symbol has no code. -/
def Neg.encodeFrame (h : Neg) (i : Nat) (us : List (List Byte)) : Option (List Byte) :=
  let ts := h.tables.map codewords
  let body : Option (Nat × List Byte) :=
    if h.plates then
      let ps := us.map (plateParts h)
      let sc := ps.flatMap (·.1)
      let first := i * h.funits * h.blocks
      let ds := ((sc.foldl (fun ((p : Nat), (o : List Nat)) v => (v, o ++ [(v + 256 - p) % 256])) (0, [])).2.zipIdx).map
        fun (d, k) => (d, [decide ((first + k) % 4 / 2 = 1), decide ((first + k) % 2 = 1)])
      match encodeSyms (fun _ => ts.getD 1 []) ds,
            encodeSyms (fun _ => ts.getD 0 []) ((ps.flatMap (·.2)).map fun c => (c, [])) with
      | some a, some b => let a := pad16 (bytesOfBits a); some (a.length / 16, a ++ pad16 (bytesOfBits b))
      | _, _ => none
    else (encodeSyms (fun k => ts.getD (k % h.unit) []) (us.flatten.map fun b => (b.toNat, []))).map fun b => (0, pad16 (bytesOfBits b))
  body.map fun (slen, b) =>
    toLE 4 (16 + b.length) ++ toLE 4 (crc32c b).toNat ++ toLE 4 (if h.plates then i * h.funits * h.blocks else 0) ++
    toLE 2 slen ++ toLE 2 0 ++ b

/-- FRAME_UNITS of ENCODE: the largest legal count that decodes to at most 256 KiB, never more than the units; fewer than 16
elements take the smallest legal count (R273, log entry 176). -/
def frameUnits (kind unit units : Nat) : Nat :=
  if kind < 2 then max 1 (min units (min 4096 (262144 / unit))) else max 16 (16 * (min units (min 65536 (262144 / unit)) / 16))

/-- A negative of units under a table set of 512 bytes: the offset from which it is written, its bytes from there, and whether
every symbol had a code. Where one had none, only the frames before it are written (log entry 177). -/
def encodeNeg (kind pfmt : Nat) (set : List Byte) (units : List (List Byte)) : Nat × List Byte × Bool :=
  let h0 : Neg := { kind := kind, pfmt := pfmt, fmt := Fmt.ofBits pfmt, frames := 0, units := units.length, funits := 0, dirOff := 576,
                    length := 0, tables := (List.range 4).map fun t => lengthsOf ((set.drop (128 * t)).take 128) }
  let fu := frameUnits kind h0.unit units.length
  let nf := (units.length + fu - 1) / fu
  let h := { h0 with funits := fu, frames := nf }
  let fs := (List.range nf).map fun i => h.encodeFrame i ((units.drop (i * fu)).take fu)
  let good := fs.takeWhile (·.isSome)
  let bodies := good.map fun f => f.getD []
  let start := (576 + 8 * nf + 15) / 16 * 16
  let offs := (bodies.foldl (fun ((p : Nat), (o : List Nat)) b => (p + b.length, o ++ [p])) (start, [])).2
  let len := start + (bodies.map (·.length)).sum
  let head := toLE 4 0x3247454E ++ toLE 1 kind ++ toLE 1 pfmt ++ toLE 2 nf ++ toLE 8 units.length ++ toLE 4 fu ++ toLE 4 576 ++ toLE 8 len
  let crc := crc32c (head ++ set)
  let dir := (List.range nf).flatMap fun i => toLE 8 (offs.getD i 0)
  let top := head ++ toLE 4 crc.toNat ++ List.replicate 28 0 ++ set ++ dir ++ List.replicate (start - 576 - 8 * nf) 0
  if good.length = nf then (0, top ++ bodies.flatten, true) else (start, bodies.flatten, false)

end Sys2Proof.Machine
end

