-- ==== Sys2Proof/Machine/Swap.lean ====
section
/-! DEFINITION. Resident contexts (R317), their swaps through the spill area (R318, R358; log entry 173), and the order
of the serving actions that end with them (R313). -/

namespace Sys2Proof.Machine
open Sys2Proof

/-! ### Resident contexts (R317, R318) -/

def Ward.residents (x : Ward) : Nat := (x.registry.filter fun e => e.2.res ≠ .out).length

/-- A context has a sequence in a micro-batch in flight, one that admission has just admitted or sent to be restored, or a
training step in flight. -/
def Ward.busyCtx (x : Ward) (c : Nat) : Bool :=
  x.live.any (fun e => e.2.ctx = c && (e.2.inStep || e.2.st == .restoring || (e.2.placed && e.2.st == .running))) ||
  (let t := x.trains.get c
   t.st != .off && t.st != .faulted && (t.begun || t.st != .accum || decide (1 < (x.job.map (·.prog.nrep)).getD 1)))

/-- R317: BLOCKED is set when a resident context becomes blocked, and cleared when it is not. -/
def State.setBlocked (s : State) (w : Nat) : State :=
  forEach (((s.ward w).registry.filter fun e => e.2.st ≠ .free).map (·.1)) s fun s c =>
    let x := s.ward w
    let e := x.registry.get c
    let b := e.res == .resident && !x.busyCtx c
    if b ∧ e.blocked = 0 then s.setReg w c fun e => { e with blocked := x.num }
    else if !b ∧ e.blocked ≠ 0 then s.setReg w c fun e => { e with blocked := 0 } else s

/-- A swapped-out context that is runnable, first in queue order: a training context is once its step number is posted
(log entry 175). -/
def Ward.runnable (x : Ward) : Option Nat :=
  let cand := sortBy queueSq (x.live.filter fun e => (e.2.st = .queued || e.2.st = .preempted) && e.2.mark.isNone &&
    (x.registry.get e.2.ctx).res == .out && (x.registry.get e.2.ctx).st != .free)
  match cand with
  | e :: _ => some e.2.ctx
  | [] => (x.trains.find? fun e => (e.2.st = .armed || (e.2.st = .accum && e.2.posted.isSome)) && (x.registry.get e.1).res = .out && (x.registry.get e.1).st ≠ .free).map (·.1)

/-- What a swap moves on the dies of a context's record: H(SH), part 0, and the newest verified checkpoint, part 1 (R358). -/
def Train.swapParts (t : Train) : List (Nat × Nat) :=
  t.record.dies.flatMap fun d => (d, 0) :: (if t.newest.isSome then [(d, 1)] else [])

/-- A context without training state swaps in at once; with it, one DEVELOP for each of its negatives brings the state into
H0 and K0. -/
def State.swapIn (s : State) (w c : Nat) : State :=
  let s := (s.modWard w fun x => { x with swapIns := incSat x.swapIns }).event w 7 c
  let t := s.train w c
  if t.swapped ∧ t.swapNegs ≠ [] then
    let s := (s.modTrain w c fun t => { t with swapWait := t.swapNegs.length, swapFail := none }).setReg w c fun e => { e with res := .inward }
    forEach t.swapNegs s fun s n => s.devIssue n.die
      { kind := .develop, src := 0, ctx := c, ward := w, use := .swapIn c n.ord, pkind := 2,
        dst := BitVec.ofNat 48 (if n.ord = 0 then t.record.halfVa n.die 0 else t.record.slotVa n.die 0) }
  else s.setReg w c fun e => { e with res := .resident, blocked := 0 }

/-- A context without training state swaps out at once; with it, one ENCODE for each part writes a negative into chunks of the
spill area. Without room there the swap-out fails. -/
def State.swapOut (s : State) (w c : Nat) : State :=
  let s := (s.modWard w fun x => { x with swapOuts := incSat x.swapOuts }).event w 8 c
  let t := s.train w c
  let x := s.ward w
  if (x.registry.get c).train ∧ t.swapParts ≠ [] then
    let n := (t.swapParts.length * t.record.half + chunkBytes - 1) / chunkBytes
    if x.freeSpill < n then s
    else
      let ch := lowestFree (x.spillOwner.map (·.1)) x.spillChunks n
      let s := s.modWard w fun x => { x with spillOwner := ch.foldl (fun t k => Tab.set t k c) x.spillOwner }
      let s := s.modTrain w c fun t =>
        { t with swapChunks := ch, swapPtr := 0, swapNegs := [], swapWait := t.swapParts.length, swapFail := none }
      let s := s.setReg w c fun e => { e with res := .outward }
      forEach t.swapParts s fun s (d, k) => s.devIssue d
        { kind := .encode, dst := 0, tbl := x.spillTbl, units := t.record.half / 4, pkind := 2, pfmt := 0, ctx := c, ward := w,
          use := .swapOut c k,
          src := BitVec.ofNat 48 (if k = 0 then t.record.halfVa d (if t.sh then 1 else 0) else t.record.slotVa d (t.newest.getD 0)) }
  else s.setReg w c fun e => { e with res := .out, blocked := 0 }

/-- An operation of a swap is over; with the last of them the context is out, or in: SH is 0, and the image is made anew
(R358). A swap that failed leaves it where it was. -/
def State.swapStep (s : State) (w c : Nat) (bad : Option St) : State :=
  let s := s.modTrain w c fun t => { t with swapWait := t.swapWait - 1, swapFail := t.swapFail.orElse fun _ => bad }
  let t := s.train w c
  let e := (s.ward w).registry.get c
  if t.swapWait ≠ 0 then s
  else match e.res, t.swapFail with
    | .outward, none =>
      (s.modTrain w c fun t =>
        { t with swapped := true, k0Step := (match t.newest with | some k => t.kStep k | none => 0), k0Valid := t.newest.isSome,
                 k0Ver := t.newest.isSome, k1Step := 0, k1Valid := false, k1Ver := false }).setReg w c fun e => { e with res := .out, blocked := 0 }
    | .outward, some _ => (s.freeSwap w c).setReg w c fun e => { e with res := .resident }
    | .inward, none =>
      (((s.freeSwap w c).modTrain w c fun t => { t with swapped := false, sh := false }).regenImage w c 0).setReg w c fun e =>
        { e with res := .resident, blocked := 0 }
    | .inward, some st =>
      (s.setReg w c fun e => { e with res := .out }).markCtx w (fun q => q.ctx = c && (q.st == .queued || q.st == .preempted)) st 4 true
    | _, _ => s

/-- The resident that gives up its slot. -/
def Ward.swapVictim (x : Ward) : Option Nat :=
  (sortBy (fun a b =>
    decide (a.2.blocked.toNat < b.2.blocked.toNat) || (a.2.blocked == b.2.blocked && decide (a.1 ≤ b.1)))
    (x.registry.filter fun e => e.2.res = .resident && e.2.blocked ≠ 0)).head?.map (·.1)

def State.swaps (w : Nat) : Nat → State → State
  | 0, s => s
  | n + 1, s =>
    let x := s.ward w
    let slots := x.ctxLimit - x.residents
    match x.runnable with
    | none => s
    | some c =>
      if 1 < slots then State.swaps w n (s.swapIn w c)
      else if slots = 1 ∧ x.registry.all (fun e => e.2.res ≠ .resident || e.2.blocked ≠ 0) then
        match x.swapVictim with
        | some v => (s.swapIn w c).swapOut w v
        | none => s
      else s

/-- No slot is free and nothing is on its way out: a swap-out that failed is tried again (R318). -/
def State.retrySwapOut (s : State) (w : Nat) : State :=
  let x := s.ward w
  if x.residents < x.ctxLimit ∨ x.registry.any (fun e => e.2.res = .outward) then s
  else match x.swapVictim with
    | some v => s.swapOut w v
    | none => s

/-- The rest of R313: release, growth, admission, the row of the token group, swaps (R318). -/
def State.serveRest (s : State) (w : Nat) (p : JobProg) (t : Nat) : State :=
  let g := p.tokenGroup t
  let s := (s.release w g).retryCopies w
  let (may, s) := s.growth w g
  let s := s.admission w p t may
  let s := match g with
    | some b => s.writeRow w p b
    | none => s
  State.swaps w 4096 (((s.setBlocked w).poolMark w).retrySwapOut w)

end Sys2Proof.Machine
end

