-- ==== Sys2Proof/Machine/Developer.lean ====
section
/-! DEFINITION. The developers (R277 to R279): their four operations, completion and what it means to the load,
build, spill, restore, swap or prefetch it served (R283 to R291, R305, R318, R319, R358). -/

namespace Sys2Proof.Machine
open Sys2Proof

/-! ### Where an operation reads and writes -/

/-- Bytes `off` to `off + n - 1` of a source or an output, as virtual ranges. -/
def chunkSpans (base : Nat) (chunks : List Nat) (start off n : Nat) : List (Nat × Nat) :=
  if chunks = [] then [(start + off, n)]
  else (cuts chunkBytes (start + off) n).map fun (p, len) => (chunkAddr base chunks p, len)

def Ward.srcSpans (x : Ward) (o : DevOp) (off n : Nat) : List (Nat × Nat) :=
  chunkSpans (if o.spillSrc then x.spillBase else x.hotBase) o.srcChunks o.src.toNat off n

def Ward.dstSpans (x : Ward) (o : DevOp) (off n : Nat) : List (Nat × Nat) :=
  match o.use with
  | .spill _ _ => chunkSpans x.spillBase o.dstChunks o.dst.toNat off n
  | .swapOut _ _ => chunkSpans x.spillBase o.dstChunks o.dst.toNat off n
  | _ => chunkSpans x.hotBase o.dstChunks o.dst.toNat off n

/-- Why an access fails: with which status, whether a check of R251 refuses it (R270 counts that), and whether it gets no
data (R260, R285). -/
structure AccFail where
  st : St
  refused : Bool := false
  lost : Bool := false
deriving DecidableEq, Repr, Inhabited

/-- What the accesses of an operation meet: the sectors that come back uncorrectable, and an address that gets no data. -/
structure DevIn where
  un : List Nat := []
  lost : Option Nat := none
deriving DecidableEq, Repr, Inhabited

/-- The first access of the spans that fails: refused, to a port that cannot issue it or a module that cannot be reached
(R260, R378), or without data. -/
def State.spansBad (s : State) (w c : Nat) (sp : List (Nat × Nat)) (wr : Bool) (lost : Option Nat := none) : Option AccFail :=
  sp.findSome? fun (a, n) => (pieces a n).findSome? fun (a, k) =>
    match s.xlate w c a wr with
    | .error e => some { st := e, refused := true }
    | .ok l =>
      if (l.kind = .host ∧ s.wardCanIssue w = false) ∨ (l.kind = .peer ∧ s.wardReaches w (field l.pa 47 42) = false) then some { st := .tierFail }
      else if lost.any fun v => decide (a ≤ v) && decide (v < a + k) then some { st := .tierFail, lost := true }
      else none

def State.readSpans (s : State) (w c : Nat) (sp : List (Nat × Nat)) (un : List Nat) : State × RdOut :=
  sp.foldl (fun (s, o) (a, n) =>
    let (s, r) := (s.charge w c a n false).readVa w c a n un
    (s, { bytes := o.bytes ++ r.bytes, bad := o.bad ++ r.bad, soft := o.soft ++ r.soft })) (s, {})

def State.writeSpans (s : State) (w c : Nat) (sp : List (Nat × Nat)) (bs : List Byte) : State :=
  (sp.foldl (fun (s, k) (a, n) => ((s.charge w c a n true).writeVa w c a ((bs.drop k).take n), k + n)) (s, 0)).1

/-- Addresses of plates have bits 3 to 0 forced to 0 (R49). -/
def plateAddr (a : Addr) : Addr := BitVec.ofNat 48 (a.toNat / 16 * 16)

/-- The operation with a dense source of plates aligned. -/
def DevOp.plateSrc (o : DevOp) : DevOp := if o.pkind < 2 ∧ o.srcChunks = [] then { o with src := plateAddr o.src } else o

/-- The same for a dense destination of plates. -/
def DevOp.plateDst (o : DevOp) (plate : Bool) : DevOp := if plate ∧ o.dstChunks = [] then { o with dst := plateAddr o.dst } else o

/-- The destination of unit `n` of `u` bytes; `none` beyond the destination shape. -/
def DevOp.unitSpans (x : Ward) (o : DevOp) (plate : Bool) (n u : Nat) : Option (List (Nat × Nat)) :=
  match o.shp with
  | some p => if n < p.units then some [(p.at plate o.dst.toNat (unrank p.cnts n), u)] else none
  | none => some (x.dstSpans (o.plateDst plate) (n * u) u)

/-- Units that QUANT, MOVE and ENCODE handle: the counts of the destination shape, else the operation's own count. -/
def DevOp.count (o : DevOp) : Nat := match o.shp with | some p => p.units | none => max 1 o.units

/-- How the head operation of die `d` ended. -/
def State.devEnd (s : State) (d : Nat) (e : DevEnd) : State := s.modDev d fun x => { x with ended := some e }

/-- It ends with an access that failed (DEV_ACCESS of R278). -/
def State.devFails (s : State) (d w : Nat) (f : AccFail) (frame : Nat := 0) : State :=
  (if f.refused then s.countFault w else s).devEnd d { status := f.st, cause := 0x48, frame := frame, lost := f.lost }

/-- Poison in plates or elements (R481): the typed poison of one unit. -/
def unitPoison (kind : Nat) (f : Fmt) (bs : List Byte) : Bool :=
  match kind with
  | 0 => platePoison false f bs
  | 1 => platePoison true f bs
  | 2 => BitVec.ofNat 32 (leNat bs) == f32Poison
  | _ => BitVec.ofNat 16 (leNat bs) == bf16Poison

/-- Write units as the developer: bytes out, poison writes noted. -/
def State.devWrite (s : State) (d w c : Nat) (ws : List (List (Nat × Nat) × List Byte × Bool)) : State :=
  let s := ws.foldl (fun s (sp, bs, _) => s.writeSpans w c sp bs) s
  let s := s.modDev d fun x => { x with outBytes := x.outBytes + (ws.map fun y => y.2.1.length).sum }
  let banks := s.poisonBanks w c ((ws.filter fun y => y.2.2).flatMap fun y => y.1.map fun (a, n) =>
    ({ va := a, bytes := List.replicate n 0, typed := true } : DWr))
  forEach banks s fun s (i, b) => s.notePoison i b 5 0

/-! ### Skewed runs (R51, R277; log entry 64) -/

/-- The two vectors of a B8 line plate: scale bytes and codes. -/
def plateHalves (bs : List Byte) : List (List Byte × List Byte) :=
  (List.range 2).map fun h => ((bs.drop (8 * h)).take 8, (bs.drop (16 + 256 * h)).take 256)

/-- Bytes of a run of `n` vectors that the vectors from `lo` on fill, by offset; the first of them bring the out-of-range
positions and the reserved bytes, which are zero. -/
def skewCells (n lo : Nat) (vs : List (List Byte × List Byte)) : List (Nat × Byte) :=
  ((vs.zipIdx).flatMap fun ((sc, co), k) =>
    ((List.range 8).map fun j => (272 * (lo + k + 32 * j) + j, sc.getD j 0)) ++
    ((List.range 256).map fun e => (272 * (lo + k + e) + 16 + e, co.getD e 0))) ++
  (if lo = 0 then (List.range (n + 255)).flatMap fun r =>
    let out (off : Nat) : Bool := decide (r < off) || decide (n ≤ r - off)
    ((List.range 8).map fun j => (272 * r + 8 + j, 0)) ++
    ((List.range 8).filterMap fun j => if out (32 * j) then some (272 * r + j, 0) else none) ++
    ((List.range 256).filterMap fun e => if out e then some (272 * r + 16 + e, 0) else none)
  else [])

/-- The writes of line plates as vectors of a skewed run, from vector `lo` of `n` on. -/
def skewWrites (x : Ward) (o : DevOp) (n lo : Nat) (plates : List (List Byte)) : List (List (Nat × Nat) × List Byte × Bool) :=
  (skewCells n lo (plates.flatMap plateHalves)).map fun (off, b) => (x.dstSpans (o.plateDst true) off 1, [b], b == 0x80)

/-! ### DEVELOP -/

/-- The source of a restore or a swap-in: the negative that the spill of the block, or the swap-out of the part, wrote for this
die (R290, R358). -/
def State.devSource (s : State) (d : Nat) (o : DevOp) : DevOp :=
  let from' (ns : List SpillNeg) (ch : List Nat) (k : Nat) : DevOp := match ns.find? fun n => n.die = d && n.ord = k with
    | some n => { o with src := BitVec.ofNat 48 n.at', srcChunks := ch, spillSrc := true }
    | none => o
  match o.use with
  | .restore i ord => from' ((s.ward o.ward).seqs.get i).negs ((s.ward o.ward).seqs.get i).chunks ord
  | .swapIn c k => from' (s.train o.ward c).swapNegs (s.train o.ward c).swapChunks k
  | _ => o

/-- Units of frame `i` to write: those from image offset `skip` on; B8 line plates may go out as a skewed run. -/
def frameWrites (x : Ward) (o : DevOp) (h : Neg) (i : Nat) (us : List (List Byte)) : List (List (Nat × Nat) × List Byte × Bool) :=
  let first := o.skip / h.unit
  if o.skew ∧ h.kind = 0 ∧ h.fmt = .b8 ∧ 2 * (h.units - first) ≤ 7455 then
    skewWrites x o (2 * (h.units - first)) (2 * (i * h.funits - first)) (us.drop (first - i * h.funits))
  else (us.zipIdx).filterMap fun (bs, k) =>
    let n := i * h.funits + k
    if n < first then none
    else (o.unitSpans x h.plates (n - first) h.unit).map fun sp => (sp, bs, unitPoison h.kind h.fmt bs)

/-- Frames by number and offset, in order; a frame that fails writes nothing and ends the operation. -/
def State.developFrames (d : Nat) (o : DevOp) (h : Neg) (g : DevIn) : List (Nat × Nat) → State → State
  | [], s => s.devEnd d {}
  | (i, off) :: r, s =>
    let w := o.ward
    let x := s.ward w
    match s.spansBad w o.ctx (x.srcSpans o off 16) false g.lost with
    | some f => s.devFails d w f i
    | none =>
      let (s, hd) := s.readSpans w o.ctx (x.srcSpans o off 16) g.un
      let n := max 16 (min (leNat (hd.bytes.take 4)) (h.length - off))
      match s.spansBad w o.ctx (x.srcSpans o off n) false g.lost with
      | some f => s.devFails d w f i
      | none =>
        let (s, b) := s.readSpans w o.ctx (x.srcSpans o off n) g.un
        if b.bad.any id then s.devEnd d { status := .poison, cause := 0x48, frame := i, poison := true }
        else match h.frame b.bytes i off with
          | .error c => s.devEnd d { status := if c = 0x44 then .scaleSkew else .tierFail, cause := c, frame := i }
          | .ok us =>
            let ws := frameWrites x o h i us
            match ws.findSome? fun y => s.spansBad w o.ctx y.1 true with
            | some f => s.devFails d w f i
            | none => State.developFrames d o h g r (s.devWrite d w o.ctx ws)

/-- R278. -/
def State.runDevelop (s : State) (d : Nat) (o : DevOp) (g : DevIn) : State :=
  let o := s.devSource d o
  let w := o.ward
  let sp := (s.ward w).srcSpans o 0 576
  match s.spansBad w o.ctx sp false g.lost with
  | some f => s.devFails d w f
  | none =>
    let (s, b) := s.readSpans w o.ctx sp g.un
    if b.bad.any id then s.devEnd d { status := .poison, cause := 0x48, poison := true }
    else match negOf b.bytes with
      | none => s.devEnd d { status := .tierFail, cause := 0x40 }
      | some h =>
        let sp := (s.ward w).srcSpans o h.dirOff (8 * h.frames)
        match s.spansBad w o.ctx sp false g.lost with
        | some f => s.devFails d w f
        | none =>
          let (s, e) := s.readSpans w o.ctx sp g.un
          let offs := (List.range h.frames).map fun i => (i, h.frameAt (sliceNat e.bytes (8 * i) 8))
          if e.bad.any id then s.devEnd d { status := .poison, cause := 0x48, poison := true }
          else match offs.find? fun x => x.2.isNone with
            | some x => s.devEnd d { status := .tierFail, cause := 0x40, frame := x.1 }
            | none => State.developFrames d o h g (offs.map fun x => (x.1, x.2.getD 0)) s

/-! ### QUANT -/

/-- Elements of one block of a dense FP32 or BF16 source: offsets and lengths of its runs, in elements. -/
def quantRuns (c : Cw) (width n j : Nat) : List (Nat × Nat) :=
  if c.square then (List.range 32).map fun r => ((32 * (n / width) + r) * (32 * width) + 32 * (n % width), 32)
  else [(512 * n + 32 * j, 32)]

def State.quantBlock (s : State) (o : DevOp) (un : List Nat) (g : W32) (runs : List (Nat × Nat)) : State × Conv × W32 :=
  let e := if o.bf16 then 2 else 4
  let (s, xs) := runs.foldl (fun ((s : State), (xs : List (Option W32))) (off, n) =>
    let (s, r) := s.readSpans o.ward o.ctx ((s.ward o.ward).srcSpans o (e * off) (e * n)) un
    (s, xs ++ (List.range n).map fun k =>
      some (elemVal (if o.bf16 then 2 else 1)
        { bytes := (r.bytes.drop (e * k)).take e, bad := (r.bad.drop (e * k)).take e, soft := (r.soft.drop (e * k)).take e }))) (s, [])
  let (us, g) := drawBlock (cwOf o.cw) 0 g xs
  (s, convBlock (cwOf o.cw) 0 us xs, g)

/-- The plates of a QUANT: their bytes, whether they carry poison, the counts of their blocks, and the generator. -/
def State.quantPlates (s : State) (d : Nat) (o : DevOp) (un : List Nat) : State × W32 × List (List Byte × Bool × List SiteDelta) :=
  let c := cwOf o.cw
  let n := o.count
  let width := match o.shp with | some p => p.cnts.getD 0 1 | none => n
  (List.range n).foldl (fun ((s : State), (g : W32), (ps : List (List Byte × Bool × List SiteDelta))) k =>
    let (s, cs, g) := (List.range (if c.square then 1 else 16)).foldl (fun ((s : State), (cs : List Conv), (g : W32)) j =>
      let (s, b, g) := s.quantBlock o un g (quantRuns c width k j)
      (s, cs ++ [b], g)) (s, [], g)
    let sc := cs.map fun b => BitVec.ofInt 8 b.scale
    (s, g, ps ++ [((if c.square then sc ++ List.replicate 15 0 else sc) ++ packPatterns c.fmt (cs.flatMap (·.codes)), cs.any (·.poison), cs.map (·.delta))]))
    (s, (s.dev d).gen, [])

/-- R277: plates, or a skewed run, from dense FP32 or BF16 elements (log entry 52). -/
def State.runQuant (s : State) (d : Nat) (o : DevOp) (g : DevIn) : State :=
  let w := o.ward
  let c := cwOf o.cw
  let n := o.count
  let x := s.ward w
  let u := plateSize c.square c.fmt
  let skew : Bool := o.skew && !c.square && c.fmt == .b8 && decide (2 * n ≤ 7455)
  let dst := if skew then [x.dstSpans (o.plateDst true) 0 (272 * (2 * n + 255))] else (List.range n).filterMap fun k => o.unitSpans x true k u
  match s.spansBad w o.ctx (x.srcSpans o 0 ((if o.bf16 then 2 else 4) * (if c.square then 1024 else 512) * n)) false g.lost,
      dst.findSome? fun sp => s.spansBad w o.ctx sp true with
  | some f, _ => s.devFails d w f
  | none, some f => s.devFails d w f
  | none, none =>
    let done := (s.dev d).counted
    let (s, gen, ps) := s.quantPlates d o g.un
    let ws := if skew then skewWrites x o (2 * n) 0 (ps.map (·.1))
      else (ps.zipIdx).map fun ((bs, p, _), k) => ((o.unitSpans x true k u).getD [], bs, p)
    let s := (s.devWrite d w o.ctx ws).addSite d c.site (sumDeltas ((ps.flatMap (·.2.2)).drop done))
    (s.modDev d fun y => { y with gen := gen, counted := 0 }).devEnd d {}

/-- The blocks that the QUANT in progress on die `d` has written by now are added to its site (R62). -/
def State.countQuant (s : State) (d : Nat) : State :=
  match (s.dev d).queue, (s.dev d).ended with
  | o :: _, none =>
    if o.kind = .quant then
      let e := if o.bf16 then 2 else 4
      let c := cwOf o.cw
      let acc := ((s.ward o.ward).srcSpans o 0 (e * (if c.square then 1024 else 512) * o.count)).map fun (a, n) => (a, n, false)
      let (s, m, dl) := s.someBlocks (s.dev d).counted (s.readsOut o.ward o.ctx acc) ((s.quantPlates d o []).2.2.flatMap (·.2.2))
      (s.addSite d c.site dl).modDev d fun x => { x with counted := m }
    else s
  | _, _ => s

/-! ### MOVE -/

/-- Bytes of one unit of MOVE and ENCODE by kind: 0 line plates, 1 square plates, 2 FP32, 3 BF16. -/
def devUnit (kind fmt : Nat) : Nat := unitBytes kind fmt

/-- A unit as read: poisoned sectors, and words of a tile store with an uncorrectable error, are carried (R261, R470); a square
plate has zeros in bytes 1 to 15 (R48). -/
def carry (kind : Nat) (r : RdOut) : List Byte :=
  match kind with
  | 0 => if r.bad.any id then spoilPlate false r.bytes else spoilBlocks false r.bytes r.soft
  | 1 => squareBytes (if r.bad.any id then spoilPlate true r.bytes else spoilBlocks true r.bytes r.soft)
  | 2 => if r.bad.any id || r.soft.any id then toLE 4 f32Poison.toNat else r.bytes
  | _ => if r.bad.any id || r.soft.any id then toLE 2 bf16Poison.toNat else r.bytes

/-- The units of a source, and whether a poisoned sector was read. -/
def State.readUnits (s : State) (o : DevOp) (un : List Nat) (n u : Nat) : State × List (List Byte) × Bool :=
  (List.range n).foldl (fun (s, us, p) k =>
    let (s, r) := s.readSpans o.ward o.ctx ((s.ward o.ward).srcSpans o (k * u) u) un
    (s, us ++ [carry o.pkind r], p || r.bad.any id)) (s, [], false)

/-- R343: the copy of a working image into the second copy, die after die. -/
def State.publishCopy (s : State) (d w c : Nat) (o : DevOp) : State :=
  let r := (s.train w c).record
  let (s, n) := r.dies.foldl (fun ((s : State), off) k =>
    let (s, b) := s.readSpans w c [(r.imgVa k o.half, r.img)] []
    (s.writeSpans w c ((s.ward w).dstSpans o off r.img) b.bytes, off + r.img)) (s, 0)
  s.modDev d fun x => { x with outBytes := x.outBytes + n }

/-- R277: plates re-laid through the destination shape. -/
def State.runMove (s : State) (d : Nat) (o : DevOp) (g : DevIn) : State :=
  match o.use with
  | .build c => (s.publishCopy d o.ward c o).devEnd d {}
  | _ =>
    let o := o.plateSrc
    let w := o.ward
    let x := s.ward w
    let n := o.count
    let u := devUnit o.pkind o.pfmt
    let plate := decide (o.pkind < 2)
    let dst := (List.range n).filterMap fun k => o.unitSpans x plate k u
    match s.spansBad w o.ctx (x.srcSpans o 0 (n * u)) false g.lost, dst.findSome? fun sp => s.spansBad w o.ctx sp true with
    | some f, _ => s.devFails d w f
    | none, some f => s.devFails d w f
    | none, none =>
      let (s, us, p) := s.readUnits o g.un n u
      let ws := (us.zipIdx).map fun (bs, k) => ((o.unitSpans x plate k u).getD [], bs, unitPoison o.pkind (Fmt.ofBits o.pfmt) bs)
      (s.devWrite d w o.ctx ws).devEnd d { poison := p }

/-! ### ENCODE -/

/-- Where a negative of a spill or a swap goes: behind the one before it, in chunks of the spill area; negatives that outgrow
their chunks take more of it, as far as it has room. -/
def State.spillDst (s : State) (o : DevOp) (n : Nat) : State × DevOp :=
  let w := o.ward
  let x := s.ward w
  let more (ptr : Nat) (ch : List Nat) : List Nat :=
    lowestFree (x.spillOwner.map (·.1)) x.spillChunks ((ptr + n + chunkBytes - 1) / chunkBytes - ch.length)
  let take (ptr c : Nat) (ch : List Nat) : State × DevOp :=
    (s.modWard w fun x => { x with spillOwner := (more ptr ch).foldl (fun t k => Tab.set t k c) x.spillOwner },
     { o with dst := BitVec.ofNat 48 ptr, dstChunks := ch ++ more ptr ch })
  match o.use with
  | .spill i _ => take (x.seqs.get i).spillPtr (x.seqs.get i).ctx (x.seqs.get i).chunks
  | .swapOut c _ => take (s.train w c).swapPtr c (s.train w c).swapChunks
  | _ => (s, o)

/-- A negative of `n` bytes of a spill or a swap is written. -/
def State.spillNote (s : State) (d : Nat) (o : DevOp) (n : Nat) : State :=
  let neg (k : Nat) : SpillNeg := { die := d, ord := k, at' := o.dst.toNat, len := n }
  match o.use with
  | .spill i k => s.setSq o.ward i fun q => { q with chunks := o.dstChunks, spillPtr := o.dst.toNat + n, negs := q.negs ++ [neg k] }
  | .swapOut c k => s.modTrain o.ward c fun t =>
      { t with swapChunks := o.dstChunks, swapPtr := o.dst.toNat + n, swapNegs := t.swapNegs ++ [neg k] }
  | _ => s

/-- The sequence that a spill serves has ended: its blocks are only read (R289). -/
def State.spillOver (s : State) (o : DevOp) : Bool :=
  match o.use with
  | .spill i _ => ((s.ward o.ward).seqs.get i).st != .preempted || ((s.ward o.ward).seqs.get i).spillFail
  | _ => false

/-- R279: a negative from plates or elements, under a table set of the ward. -/
def State.runEncode (s : State) (d : Nat) (o : DevOp) (g : DevIn) : State :=
  if s.spillOver o then s.devEnd d {}
  else
    let o := o.plateSrc
    let w := o.ward
    let n := o.count
    let u := devUnit o.pkind o.pfmt
    let tv := (s.ward w).reg oEncTbl + 512 * o.tbl
    match s.spansBad w o.ctx ((s.ward w).srcSpans o 0 (n * u)) false g.lost, s.spansBad w o.ctx [(tv, 512)] false g.lost with
    | some f, _ => s.devFails d w f
    | none, some f => s.devFails d w f
    | none, none =>
      let (s, us, p) := s.readUnits o g.un n u
      let (s, t) := s.readVa w o.ctx tv 512
      let (off, bs, good) := encodeNeg o.pkind o.pfmt t.bytes us
      let (s, o) := s.spillDst o (off + bs.length)
      let short : Bool := match o.use with
        | .spill _ _ => decide (o.dstChunks.length * chunkBytes < o.dst.toNat + off + bs.length)
        | .swapOut _ _ => decide (o.dstChunks.length * chunkBytes < o.dst.toNat + off + bs.length)
        | _ => false
      let sp := (s.ward w).dstSpans o off bs.length
      match if short then some { st := .tierFail } else s.spansBad w o.ctx sp true with
      | some f => (s.spillNote d o 0).devFails d w f
      | none =>
        let s := ((s.writeSpans w o.ctx sp bs).modDev d fun y => { y with outBytes := y.outBytes + bs.length }).spillNote d o (off + bs.length)
        s.devEnd d (if good then { poison := p } else { status := .tierFail, cause := 0x40, poison := p })

/-! ### The four commands -/

/-- The operation that die `d` runs now, where it is of kind `k`. -/
def State.devHead (s : State) (d : Nat) (k : DevKind) : Option DevOp :=
  match (s.dev d).queue with
  | [] => none
  | o :: _ => if o.kind = k ∧ (s.dev d).ended = none then some o else none

/-- The data effect of an operation. An uncorrectable read of the ward's control structures fails the access and resets the
ward (R250, R286). -/
def State.runDev (s : State) (d : Nat) (o : DevOp) (seen : List (Nat × Byte)) (reports : List HbmRep) (lost : Option Nat) : State :=
  let s := (s.seen seen).hbmReports reports
  match (s.devEnd d { status := .poison, cause := 0x48 }).ctrlError o.ward reports with
  | some s => s
  | none =>
    let g : DevIn := { un := badSectors reports, lost := lost }
    match o.kind with
    | .develop => s.runDevelop d o g
    | .quant => s.runQuant d o g
    | .move => s.runMove d o g
    | .encode => s.runEncode d o g

def execDevelop (d : Nat) (seen : List (Nat × Byte)) (reports : List HbmRep) (s : State) : Host.Outcome State Fault Refusal :=
  match s.devHead d .develop with
  | none => .next s
  | some o => .next (s.runDev d o seen reports none)

def execQuant (d : Nat) (x : Arrived) (s : State) : Host.Outcome State Fault Refusal :=
  match s.devHead d .quant with
  | none => .next s
  | some o => .next (s.runDev d o x.seen x.reports none)

def execEncode (d : Nat) (x : Arrived) (s : State) : Host.Outcome State Fault Refusal :=
  match s.devHead d .encode with
  | none => .next s
  | some o => .next (s.runDev d o x.seen x.reports none)

/-! ### Completion -/

def devFaultWord (x : Dev) : Nat :=
  bit x.faultValid 63 + x.faultStatus.toNat % 128 * 2 ^ 56 + x.faultCause.toNat * 2 ^ 48 + x.faultCtx.toNat * 2 ^ 32 + x.faultFrame.toNat * 2 ^ 16

/-- A failed operation: DEV_FAULT, DEV_CNT, the record (R295, R296, R486). -/
def State.devFail (s : State) (d : Nat) (o : DevOp) (e : DevEnd) (scope entry : Nat) : State :=
  let s := s.modDev d fun x =>
    { x with faultValid := true, faultStatus := e.status.code, faultCause := BitVec.ofNat 8 e.cause, faultCtx := BitVec.ofNat 16 o.ctx,
             faultFrame := BitVec.ofNat 16 e.frame, fails := incSat x.fails }
  s.report { cls := 5, scope := scope, status := e.status.code, ward := o.ward, ctx := o.ctx, unit := 5, die := d, src := 3, cause := e.cause,
             detail := BitVec.ofNat 128 (devFaultWord (s.dev d) + entry * 2 ^ 64) }

/-- ST_SCALE_SKEW for DEV_TAG, ST_TIER_FAIL otherwise (R283); an uncorrectable error of the stack tier is poison and no
lower-tier failure (R271, R480). -/
def DevEnd.lower (e : DevEnd) : St := if e.cause = 0x44 then .scaleSkew else if e.status = .poison then .poison else .tierFail

def State.countTier (s : State) (w : Nat) (st : St) : State :=
  s.modWard w fun x =>
    if st = .scaleSkew then { x with tieSkew := incSat x.tieSkew }
    else if st = .poison then x else { x with tieFail := incSat x.tieFail }

/-! ### Prefetch entries (R280 to R284) -/

/-- R283, steps 1 and 2: the entry's position is empty in the stage from its DUE on, and lost with status `st`; poison loses
every position of the context in the beat group (R482). -/
def State.pfLost (s : State) (w d : Nat) (p : PfRun) (st : St) : State :=
  let s := (s.losePositions w p.ctx p.bg st (if st = .poison then none else some p.pos)).countTier w st
  match (s.ward w).stageOf d with
  | some k => s.modWard w fun x => { x with emptyPos := x.emptyPos ++ [(k, p.bg, p.pos, p.due)] }
  | none => s

/-- The record of an entry that failed without a developer operation (R283, R486). -/
def State.pfRecord (s : State) (w d : Nat) (p : PfRun) (st : St) (cause : Nat) : State :=
  s.report { cls := 5, scope := if p.smode = 0 then 4 else 2, status := st.code, ward := w, ctx := p.ctx, unit := 5, die := d, src := 3, cause := cause,
             detail := BitVec.ofNat 128 (devFaultWord (s.dev d) + p.idx * 2 ^ 64) }

/-- An entry without a context that fails is a fault of the job (R284); another one fails for its context. -/
def State.pfOver (s : State) (w d : Nat) (p : PfRun) (st low : St) : State :=
  if p.smode = 0 then s.jobFault w st else s.pfLost w d p low

/-- The entry reads the hot copy of its context (R280, R307). -/
def Ward.readsHot (x : Ward) (p : PfRun) : Bool :=
  p.smode = 1 && !x.noHot && !(((x.job.map (·.prog.training)).getD []).contains p.pos)

/-- R480: an entry that read poison in its context's hot copy loses the context's positions, and the copy is evicted. -/
def State.pfPoison (s : State) (w d : Nat) (p : PfRun) : State :=
  if (s.ward w).readsHot p then (s.pfLost w d p .poison).evictHot w p.ctx else s

def State.pfRun (s : State) (w k : Nat) : Option PfRun := (((s.ward w).job.map (·.pending)).getD []).find? fun p => p.id = k

/-- What a good end does. -/
def State.devGood (s : State) (d : Nat) (o : DevOp) (e : DevEnd) : State :=
  let w := o.ward
  match o.use with
  | .prefetch k =>
    match s.pfRun w k with
    | none => s
    | some p => (if e.poison then s.pfPoison w d p else s).pfDone w k
  | .load c => (s.writeList w c ((s.ward w).registry.get c).liveCopy).setReg w c fun e => if e.hot = .loading then { e with loaded := true } else e
  | .build c =>
    let e := (s.ward w).registry.get c
    let s := s.writeList w c (1 - e.liveCopy)
    let t := s.train w c
    let arm : Bool := e.pub.isSome
    let s := s.setReg w c fun e => { e with nxtReady := true, prepareJseq := none, swArmed := e.swArmed || arm, swWait := if arm then t.record.pubWait else e.swWait }
    (match e.prepareJseq with | some j => s.complete j .ok | none => s).event w 10 c
  | .spill i _ => (s.setSq w i fun q => { q with spilling := q.spilling - 1 }).noteRead w i
  | .restore i _ => s.setSq w i fun q => { q with restoreWait := q.restoreWait - 1, restored := q.restoreWait == 1 && !q.spillFail }
  | .swapOut c _ => s.swapStep w c none
  | .swapIn c _ => s.swapStep w c none

/-- What a failure does. -/
def State.devBad (s : State) (d : Nat) (o : DevOp) (e : DevEnd) : State :=
  let w := o.ward
  let st := e.lower
  match o.use with
  | .prefetch k =>
    match s.pfRun w k with
    | none => s
    | some p =>
      let s := (s.devFail d o e (if p.smode = 0 then 4 else 2) p.idx).pfOver w d p e.status st
      (if st = .poison ∧ (s.ward w).readsHot p then s.evictHot w p.ctx else s).pfDone w k
  | .load c =>
    let s := (s.devFail d o e 3 0).freeCopy w c ((s.ward w).registry.get c).liveCopy
    let s := s.setReg w c fun e => { e with hot := .cold, loaded := false }
    s.markCtx w (fun q => q.ctx = c && q.st == .queued) st 4 true
  | .build c => (s.devFail d o e 3 0).dropBuild w c e.status
  | .spill i _ =>
    let q := (s.ward w).seqs.get i
    let s := s.devFail d o e 1 0
    let s := if q.st = .preempted ∧ !q.spillFail then
        ((s.countTier w .tierFail).setSq w i fun q => { q with spillFail := true }).markSeq w i .tierFail 4 true
      else s
    (s.setSq w i fun q => { q with spilling := q.spilling - 1 }).noteRead w i
  | .restore i _ =>
    (((s.devFail d o e 1 0).countTier w st).setSq w i fun q => { q with restoreWait := q.restoreWait - 1 }).markSeq w i st 4 true
  | .swapOut c _ => (s.devFail d o e 3 0).swapStep w c (some st)
  | .swapIn c _ => (s.devFail d o e 3 0).swapStep w c (some st)

/-- R277: the running operation is over; the next one starts. -/
def execDevOperationComplete (d : Nat) (s : State) : Host.Outcome State Fault Refusal :=
  let x := s.dev d
  match x.queue, x.ended with
  | o :: r, some e =>
    let s := s.modDev d fun x => { x with queue := r, ended := none }
    .next (if e.status = .ok then s.devGood d o e else s.devBad d o e)
  | _, _ => .next s

/-! ### RAW copies of the schedule (R280; log entry 53) -/

/-- A word with an uncorrectable error that the spans meet in a tile store: tile and word (R470). -/
def State.softAt (s : State) (w c : Nat) (sp : List (Nat × Nat)) : Option (Nat × Nat) :=
  sp.findSome? fun (a, n) => (pieces a n).findSome? fun (a, k) => match s.xlate w c a false with
    | .ok l =>
      if l.kind = .store then ((s.tile l.tile).badWords.find? fun b =>
        decide (8 * b < l.pa - tileBase l.tile + k) && decide (l.pa - tileBase l.tile < 8 * b + 8)).map fun b => (l.tile, b)
      else none
    | .error _ => none

/-- The bytes that a RAW copy writes. -/
def DevOp.copyWrites (x : Ward) (o : DevOp) (r : RdOut) : List DWr :=
  (List.range o.count).filterMap fun k => (o.unitSpans x false k 1).bind fun sp => sp.head?.map fun (a, _) =>
    { va := a, bytes := [r.bytes.getD k 0], bad := [r.bad.getD k false] }

/-- Why a RAW copy fails before it writes. -/
def State.copyBad (s : State) (o : DevOp) (lost : Option Nat) : Option AccFail :=
  let x := s.ward o.ward
  match s.spansBad o.ward o.ctx (x.srcSpans o 0 o.count) false lost with
  | some f => some f
  | none => ((List.range o.count).filterMap fun k => o.unitSpans x false k 1).findSome? fun sp => s.spansBad o.ward o.ctx sp true

/-- A RAW copy fails as its entry. -/
def State.copyFails (s : State) (d : Nat) (o : DevOp) (f : AccFail) : State :=
  let s := if f.refused then s.countFault o.ward else s
  match o.use with
  | .prefetch k => match s.pfRun o.ward k with
    | none => s
    | some p => ((s.pfRecord o.ward d p f.st 0x38).pfOver o.ward d p f.st (if f.st = .poison then .poison else .tierFail)).pfDone o.ward k
  | _ => s

/-- The oldest RAW copy of die `d` is made: poison is carried as R261 says. -/
def State.runCopy (s : State) (d : Nat) (o : DevOp) (un : List Nat) : State :=
  let w := o.ward
  match s.copyBad o none, s.softAt w o.ctx ((s.ward w).srcSpans o 0 o.count) with
  | some f, _ => s.copyFails d o f
  | none, some (i, k) => s.mainFault i 0 k
  | none, none =>
    let (s, r) := s.readSpans w o.ctx ((s.ward w).srcSpans o 0 o.count) un
    let ws := o.copyWrites (s.ward w) r
    if s.cannotCarry w o.ctx ws then s.copyFails d o { st := .poison }
    else
      let s := forEach (coalesce ws) s fun s y => s.dmaWrite w o.ctx false [] y
      match o.use with
      | .prefetch k => s.pfDone w k
      | _ => s

/-- MOVE: the developer's operation where it is one, else the oldest RAW copy that waits on the die. -/
def execMove (d : Nat) (x : Arrived) (s : State) : Host.Outcome State Fault Refusal :=
  match s.devHead d .move, (s.dev d).copies with
  | some o, _ => .next (s.runDev d o x.seen x.reports none)
  | none, o :: r => .next ((((s.seen x.seen).hbmReports x.reports).modDev d fun y => { y with copies := r }).runCopy d o (badSectors x.reports))
  | none, [] => .next s

/-! ### SPILL_READ_COMPLETE -/

/-- R288, step 3: blocks of the sequence whose frames every developer has read may go free at the next boundary. -/
def execSpillReadComplete (w seqIdx : Nat) (s : State) : Host.Outcome State Fault Refusal := .next (s.noteRead w seqIdx)

/-! ### Timeouts (R260, R285) -/

/-- The waiter's access at `va` goes to a tier of kind `k`. -/
def State.waits (s : State) (w c : Nat) (va : Addr) (k : LocKind) (port : Option Nat) : Bool :=
  match s.xlate w c va.toNat false port with
  | .ok l => l.kind == k
  | .error _ => false

/-- A read of a lower tier by channel `c` gets no data. -/
def State.chanTimeout (s : State) (c : Nat) (va : Addr) (k : LocKind) (seen : List (Nat × Byte)) : Host.Outcome State Fault Refusal :=
  match s.wardOfDie (c / 64) with
  | none => .next s
  | some w => if (s.seen seen).waits w ((s.seen seen).chanCtx c w) va k (hpPort c) then execDmaAccessError c ⟨.noCompletion va, seen⟩ s else .next s

/-- The same for the developer of die `d`, or for its oldest RAW copy: an access that the operation makes ends it, and what it
had written before stands. -/
def State.devTimeout (s : State) (d : Nat) (va : Addr) (k : LocKind) (seen : List (Nat × Byte)) : State :=
  let dev : Option State := match (s.dev d).queue, (s.dev d).ended with
    | o :: _, none =>
      if s.waits o.ward o.ctx va k none then
        let t := s.runDev d o seen [] (some va.toNat)
        if (t.dev d).ended.any (·.lost) then some t else none
      else none
    | _, _ => none
  match dev, (s.dev d).copies with
  | some t, _ => t
  | none, o :: r =>
    if s.waits o.ward o.ctx va k none then
      match s.copyBad o (some va.toNat) with
      | some f => if f.lost then (s.modDev d fun x => { x with copies := r }).copyFails d o f else s
      | none => s
    else s
  | none, [] => s

end Sys2Proof.Machine
end

