-- ==== Sys2Proof/Machine/HostOps.lean ====
section
/-! DEFINITION. How a host command is taken from its ring (R423 to R426, R446): its 64 bytes, the checks of its
encoding and issuer, its journal record (R434), and its relay to another module (R389, R390). -/

namespace Sys2Proof

/-! ### Encoding (R424, R425, R426, R446) -/

def HostOp.opc : HostOp → Nat
  | .wardEnable .. => 0x01 | .wardDisable => 0x02 | .wardReset => 0x03 | .jobStart .. => 0x04 | .jobEnd => 0x05
  | .map .. => 0x06 | .unmap .. => 0x07 | .register .. => 0x10 | .withdraw .. => 0x11 | .claim .. => 0x12
  | .unclaim .. => 0x13 | .submit .. => 0x14 | .cancel .. => 0x15 | .prepare .. => 0x16 | .switch .. => 0x17
  | .distribute .. => 0x18 | .trainStart .. => 0x20 | .trainStop .. => 0x21 | .rollback .. => 0x22
  | .takeover .. => 0x30 | .rollcallClear => 0x31 | .linkRetrain .. => 0x32 | .journalRead .. => 0x33
  | .keyAlloc .. => 0x40 | .keyRetire .. => 0x41 | .keyShare .. => 0x42 | .attest .. => 0x43 | .ownerSet .. => 0x44
  | .certRead .. => 0x45 | .ideKey .. => 0x46

/-- Arguments in the order of R426 and R446: size and value of each. -/
def HostOp.args : HostOp → List (Nat × Nat)
  | .wardEnable d p v => [(1, d), (1, p), (1, v)]
  | .jobStart a n _ => [(8, a.toNat), (4, n)]
  | .map va pa n z r k => [(8, va.toNat), (8, pa.toNat), (4, n), (1, z), (1, r), (2, k)]
  | .unmap va n z => [(8, va.toNat), (4, n), (1, z)]
  | .register c k r q m i a n => [(2, c), (2, k), (1, r), (2, q), (2, m), (4, i), (8, a.toNat), (8, n.toNat)]
  | .withdraw c => [(2, c)]
  | .claim c n l _ => [(2, c), (2, n), (8, l.toNat)]
  | .unclaim c n l _ => [(2, c), (2, n), (8, l.toNat)]
  | .submit i c p m k o j _ => [(4, i), (2, c), (4, p), (4, m), (8, k.toNat), (8, o.toNat), (8, j.toNat)]
  | .cancel i => [(4, i)]
  | .prepare t a n => [(2, t), (8, a.toNat), (8, n.toNat)]
  | .switch t w => [(2, t), (1, w)]
  | .distribute t p n a _ => [(2, t), (8, p.toNat), (8, n.toNat), (8, a.toNat)]
  | .trainStart c m a => [(2, c), (1, m), (8, a.toNat)]
  | .trainStop c => [(2, c)]
  | .rollback c => [(2, c)]
  | .takeover m s => [(1, m), (1, s)]
  | .linkRetrain d l => [(1, d), (1, l)]
  | .journalRead f n a => [(8, f.toNat), (4, n), (8, a.toNat)]
  | .keyAlloc c => [(2, c)]
  | .keyRetire k => [(2, k)]
  | .keyShare k c => [(2, k), (2, c)]
  | .attest c n r o _ _ => [(2, c), (4, n), (8, r.toNat), (8, o.toNat)]
  | .ownerSet r n _ _ _ => [(8, r.toNat), (4, n)]
  | .certRead o n => [(8, o.toNat), (4, n)]
  | .ideKey p t r _ => [(1, p), (1, t), (8, r.toNat)]
  | .wardDisable | .wardReset | .jobEnd | .rollcallClear => []

/-- Commands of PF0 only. -/
def HostOp.pfOnly : HostOp → Bool
  | .wardEnable .. | .wardDisable | .wardReset | .takeover .. | .rollcallClear | .linkRetrain .. | .journalRead ..
  | .ownerSet .. | .certRead .. | .ideKey .. => true
  | _ => false

/-- Commands that name a ward; ROLLCALL_CLEAR names the ward of the held job. -/
def HostOp.wardScope : HostOp → Bool
  | .takeover .. | .linkRetrain .. | .journalRead .. | .ownerSet .. | .certRead .. | .ideKey .. => false
  | _ => true

/-- Bits of addresses that must be 0 (R425), and the limits of fields with reserved bits. -/
def HostOp.bitsOk : HostOp → Bool
  | .map va pa _ _ r _ => decide (va.toNat < 2 ^ 48) && decide (pa.toNat < 2 ^ 52) && decide (r < 8)
  | .unmap va _ _ => decide (va.toNat < 2 ^ 48)
  | .register _ _ _ _ _ _ a _ => decide (a.toNat < 2 ^ 48)
  | .claim _ _ l _ => decide (l.toNat < 2 ^ 48)
  | .unclaim _ _ l _ => decide (l.toNat < 2 ^ 48)
  | .submit _ _ _ _ _ o j _ => decide (o.toNat < 2 ^ 48) && decide (j.toNat < 2 ^ 48)
  | .prepare _ a _ => decide (a.toNat < 2 ^ 48)
  | .distribute _ p _ a _ => decide (p.toNat < 2 ^ 48) && decide (a.toNat < 2 ^ 48)
  | .trainStart _ _ a => decide (a.toNat < 2 ^ 48)
  | .journalRead _ _ a => decide (a.toNat < 2 ^ 48)
  | .attest _ _ r o _ _ => decide (r.toNat < 2 ^ 48) && decide (o.toNat < 2 ^ 48)
  | .ownerSet r _ _ _ _ => decide (r.toNat < 2 ^ 48)
  | .certRead o _ => decide (o.toNat < 2 ^ 48)
  | .ideKey _ _ r _ => decide (r.toNat < 2 ^ 48)
  | _ => true

/-- Commands on a running job that a multi-module job applies at a common boundary (R389). -/
def HostOp.onJob : HostOp → Bool
  | .jobEnd | .withdraw .. | .cancel .. | .switch .. | .trainStop .. | .rollback .. => true
  | _ => false

/-- Commands on a ward that keep their place behind a held command of that ward (R39). An enable, a disable and a reset of
the ward, which may end its job, and ROLLCALL_CLEAR, which lets a held job go on, do not wait (log entry 178). -/
def HostOp.inTurn : HostOp → Bool
  | .wardEnable .. | .wardDisable | .wardReset | .rollcallClear => false
  | op => op.wardScope

/-- Place arguments from byte `p`: each at the next multiple of its size. -/
def placeArgs : Nat → List (Nat × Nat) → List Byte
  | _, [] => []
  | p, (n, v) :: r =>
    let q := (p + n - 1) / n * n
    List.replicate (q - p) 0 ++ Machine.toLE n v ++ placeArgs (q + n) r

/-- The 64 bytes of a command. -/
def cmdBytes (x : Src) (op : HostOp) : List Byte :=
  let h := Machine.toLE 1 op.opc ++ Machine.toLE 1 ((if x.relay then 1 else 0) + (if x.wait then 2 else 0) + (if x.force then 4 else 0)) ++
    Machine.toLE 1 x.ward ++ Machine.toLE 1 x.dest ++ Machine.toLE 4 0 ++ Machine.toLE 8 x.tag.toNat
  let b := h ++ placeArgs 16 op.args
  b ++ List.replicate (64 - b.length) 0

/-! ### Legality of raw bytes (R424 to R426) -/

/-- Argument sizes, PF0 only, ward scope, address positions, of each opcode. -/
def opcTable : List (Nat × List Nat × Bool × Bool × List Nat) :=
  [(0x01, [1, 1, 1], true, true, []), (0x02, [], true, true, []), (0x03, [], true, true, []),
   (0x04, [8, 4], false, true, [0]), (0x05, [], false, true, []), (0x06, [8, 8, 4, 1, 1, 2], false, true, [0]),
   (0x07, [8, 4, 1], false, true, [0]), (0x10, [2, 2, 1, 2, 2, 4, 8, 8], false, true, [6]),
   (0x11, [2], false, true, []), (0x12, [2, 2, 8], false, true, [2]), (0x13, [2, 2, 8], false, true, [2]),
   (0x14, [4, 2, 4, 4, 8, 8, 8], false, true, [5, 6]), (0x15, [4], false, true, []),
   (0x16, [2, 8, 8], false, true, [1]), (0x17, [2, 1], false, true, []), (0x18, [2, 8, 8, 8], false, true, [1, 3])] ++
  [(0x20, [2, 1, 8], false, true, [2]), (0x21, [2], false, true, []), (0x22, [2], false, true, []),
   (0x30, [1, 1], true, false, []), (0x31, [], true, true, []), (0x32, [1, 1], true, false, []),
   (0x33, [8, 4, 8], true, false, [2]), (0x40, [2], false, true, []), (0x41, [2], false, true, []),
   (0x42, [2, 2], false, true, []), (0x43, [2, 4, 8, 8], false, true, [2, 3]), (0x44, [8, 4], true, false, [0]),
   (0x45, [8, 4], true, false, [0]), (0x46, [1, 1, 8], true, false, [2])]

/-- Offsets of arguments of the given sizes from byte `p`. -/
def argOffs : Nat → List Nat → List Nat
  | _, [] => []
  | p, n :: r => let q := (p + n - 1) / n * n; q :: argOffs (q + n) r

/-- The 64 bytes break R424 to R426 for an issuer of function `func`. -/
def bytesIllegal (func : Nat) (bs : List Byte) : Bool :=
  let at' (k n : Nat) : Nat := Machine.leNat ((bs.drop k).take n)
  let flags := at' 1 1
  match opcTable.find? fun e => e.1 = at' 0 1 with
  | none => true
  | some (opc, sizes, pf, ws, addrs) =>
    let offs := argOffs 16 sizes
    let used (k : Nat) : Bool := decide (k < 16) || (offs.zip sizes).any fun (o, n) => o ≤ k && k < o + n
    decide (8 ≤ flags) || decide (at' 4 4 ≠ 0) || (pf && decide (func ≠ 0)) || (decide (func ≠ 0) && (flags % 2 = 1 || at' 2 1 ≠ 0)) ||
    (flags % 2 = 0 && at' 3 1 ≠ 0) || (ws && decide (func = 0) && decide (7 < at' 2 1)) ||
    (List.range 64).any (fun k => !used k && at' k 1 ≠ 0) ||
    addrs.any (fun a => decide (2 ^ 48 ≤ at' (offs.getD a 0) 8)) ||
    (opc = 0x06 && (decide (2 ^ 52 ≤ at' (offs.getD 1 0) 8) || decide (8 ≤ at' (offs.getD 4 0) 1)))

end Sys2Proof

namespace Sys2Proof.Machine
open Sys2Proof

/-! ### Acceptance -/

/-- What a command knows of its issuer once accepted. `w` is 8 where the command names no ward. -/
structure OpCtx where
  jseq : Nat
  w : Nat
  wait : Bool
  force : Bool
  ring : Nat
  tag : W64
  port : Nat
  func : Nat
deriving DecidableEq, Repr, Inhabited

/-- The ward attached to a VF: from its enable's acceptance or placement on, while it waits for dies too (R408, R414). -/
def State.wardOfVf (s : State) (port vf : Nat) : Option Nat :=
  (List.range 8).find? fun w => (s.ward w).st != .disabled && (s.ward w).port == port && (s.ward w).vf == vf

def Ring.sqEmpty (r : Ring) : Bool := r.sqHead.toNat % 2 ^ r.sqLog == r.sqTail.toNat % 2 ^ r.sqLog

/-- The encoding and the issuer pass R424 to R426. -/
def cmdLegal (x : Src) (op : HostOp) : Bool :=
  op.bitsOk && (x.func = 0 || (!op.pfOnly && !x.relay && x.ward = 0)) && (x.relay || x.dest = 0) &&
  (x.func ≠ 0 || !op.wardScope || decide (x.ward < 8))

/-- A ring in error raises its vector (R423). -/
def State.ringError (s : State) (k err : Nat) : State :=
  (s.modRing k fun r => { r with st := 2, err := err }).msix (k / 16 / 9) (k / 16 % 9) (s.ring k).vec.toNat

/-- The ring runs, holds a command that has not been fetched, and no completion waits for room (R427). -/
def State.canFetch (s : State) (k : Nat) : Bool :=
  let r := s.ring k
  s.life == .up && r.st == 1 && r.unposted.isEmpty && !r.sqEmpty && (!s.modFenced || k / 16 % 9 == 0)

/-- The record of an accepted command, and its place among the open commands. -/
def State.journalCmd (s : State) (x : Src) (opc : Nat) (bytes : List Byte) (wd st : Nat) : State :=
  let k := srcKey x
  let s := s.modRing k fun r => { r with sqHead := BitVec.ofNat 16 ((r.sqHead.toNat + 1) % 2 ^ r.sqLog) }
  let j := s.jrnNext
  let s := s.jrnAdd { beat := s.stamp wd, digest := digest16 bytes, port := x.port, func := x.func, ring := x.ring, ward := wd,
                      opc := BitVec.ofNat 8 opc, st := st, tag := x.tag }
  { s with opens := s.opens.set j (some { ring := k, tag := x.tag, ward := if st = 2 then 0xFF else wd }) }

/-- R389: the command leaves for another module; an unreachable address fails at once. -/
def State.sendRelay (s : State) (j dest : Nat) (bytes : List Byte) : State :=
  if s.reachable dest then { s.ctl dest (.relay dest j bytes) with relays := s.relays ++ [{ jseq := j, dest := dest }] }
  else s.complete j .tierFail

/-- The command waits: a job that spans modules applies it at a common boundary (R389), or an earlier command of the ward
does (R39). -/
def State.holds (s : State) (wd : Nat) (op : HostOp) : Bool :=
  ((s.ward wd).multi && op.onJob) || (op.inTurn && (s.ward wd).heldOps != [])

/-- A command on a job that spans modules is held until the boundary whose marker names it; the beat master
attaches it to its next BOUNDARY and sends it to the job's other modules, another module forwards it to the
master (R389). A command that only keeps its place behind such a one stays here. -/
def State.holdOp (s : State) (x : OpCtx) (op : HostOp) (origin oseq : Nat) (bytes : List Byte) : State :=
  let h : HeldOp := { origin := origin, oseq := oseq, jseq := x.jseq, force := x.force, op := op, waits := !op.onJob, wait := x.wait,
                      port := x.port, func := x.func }
  let y := s.ward x.w
  let s := s.modWard x.w fun y => { y with heldOps := y.heldOps ++ [h] }
  if op.onJob = false then s
  else if y.master then
    let s := s.modWard x.w fun y => { y with mb := { y.mb with cmds := y.mb.cmds ++ [(origin, oseq)] } }
    forEach (((y.job.map (·.prog.modules)).getD []).filter fun m => m ≠ s.linkAddr ∧ m ≠ origin) s fun s m => s.ctl m (.relay m oseq bytes)
  else if origin = s.linkAddr then s.ctl y.masterId (.relay y.masterId x.jseq bytes)
  else s

/-- A command fetched from a ring: a failed read of the queue puts the ring into error, an illegal command
completes with ST_PROTECTION, a relayed one leaves, and any other has the effect `f`. -/
def State.command (s : State) (x : Src) (op : HostOp) (f : OpCtx → State → State) : State :=
  let k := srcKey x
  if !s.canFetch k then s
  else if !s.canIssue x.port x.func then s.ringError k 1
  else
    let wd := if x.func = 0 then (if op.wardScope then x.ward else 0xFF) else (s.wardOfVf x.port x.func).getD 0xFF
    let bytes := cmdBytes x op
    let j := s.jrnNext
    let away : Bool := cmdLegal x op && x.relay && x.dest != s.linkAddr
    let s := s.journalCmd x op.opc bytes wd (if away then 2 else 0)
    if !cmdLegal x op then s.complete j .protection
    else if away then s.sendRelay j x.dest bytes
    else
      let c : OpCtx := { jseq := j, w := if op.wardScope then wd else 8, wait := x.wait, force := x.force, ring := k, tag := x.tag,
                         port := x.port, func := x.func }
      if s.holds wd op then s.holdOp c op s.linkAddr j bytes
      else (f c s).settle wd

/-- ILLEGAL_COMMAND (R426): the 64 bytes break the encoding, or the issuer may not send them. -/
def execIllegalCommand (src : Src) (opc : Byte) (bytes : List Byte) (s : State) : Host.Outcome State Fault Refusal :=
  let k := srcKey src
  if !s.canFetch k ∨ bytes.length ≠ 64 ∨ bytes.head? ≠ some opc ∨ bytesIllegal src.func bytes = false then .next s
  else if !s.canIssue src.port src.func then .next (s.ringError k 1)
  else
    let j := s.jrnNext
    let w := leNat ((bytes.drop 2).take 1)
    let ws := match opcTable.find? fun e => e.1 = opc.toNat with | some (_, _, _, ws, _) => ws | none => false
    let wd := if src.func = 0 then (if ws && decide (w < 8) then w else 0xFF) else (s.wardOfVf src.port src.func).getD 0xFF
    .next ((s.journalCmd src opc.toNat bytes wd 0).complete j .protection)

end Sys2Proof.Machine
end

