-- ==== Sys2Proof/Machine/WardCmds.lean ====
section
/-! DEFINITION. The ward commands (R412 to R419, R428): enable, disable, reset, job start and end, MAP and UNMAP. -/

namespace Sys2Proof.Machine
open Sys2Proof

/-! ### WARD_ENABLE, WARD_DISABLE, WARD_RESET -/

/-- The VF belongs to another ward, or another ward waits for it. -/
def State.vfTaken (s : State) (w port vf : Nat) : Bool :=
  (List.range 8).any fun k => k != w &&
    (((s.ward k).st != .disabled && (s.ward k).port == port && (s.ward k).vf == vf) ||
     (match (s.ward k).enable with | some e => e.port == port && e.vf == vf | none => false))

def State.someonePlacing (s : State) : Bool := (List.range 8).any fun k => (s.ward k).st == .placing

/-- WARD_ENABLE (R412, R413). Where several refusals hold: a die count that no command can name, then more dies than are
fitted, which has no other effect (R6), then the other arguments, then a ward in ENABLE_PENDING (log entry 95). -/
def State.doWardEnable (s : State) (x : OpCtx) (dies port vf : Nat) : State :=
  let w := x.w
  let y := s.ward w
  if !([1, 2, 4, 8].contains dies) then s.complete x.jseq .protection
  else if s.dies.length < dies then s.complete x.jseq .absent
  else if 1 < port ∨ vf = 0 ∨ 8 < vf then s.complete x.jseq .protection
  else if y.st = .enablePending then
    (s.modWard w fun y => { y with busySd := incSat y.busySd }).complete x.jseq .busyShutdown
  else if s.vfTaken w port vf then s.complete x.jseq .protection
  else
    let e : OpenEnable := { dies := dies, port := port, vf := vf, wait := x.wait, jseq := x.jseq }
    match y.st with
    | .disabled => s.tryEnable w e s.someonePlacing
    | .shutting => s.modWard w fun y => { y with st := .enablePending, enable := some e }
    | _ => s.complete x.jseq .protection

def State.doWardDisable (s : State) (x : OpCtx) : State :=
  let w := x.w
  let y := s.ward w
  match y.st with
  | .placing =>
    let s := (s.dropRings y.port y.vf).modWard w fun y => { y with st := .disabled, port := 0, vf := 0, enable := none }
    let s := match y.enable with | some e => s.complete e.jseq .protection 1 | none => s
    State.placeAll 8 (s.complete x.jseq .ok)
  | .enablePending =>
    let s := s.modWard w fun y => { y with st := .shutting, enable := none, disables := y.disables ++ [x.jseq] }
    match y.enable with
    | some e => s.complete e.jseq .busyShutdown
    | none => s
  | .shutting => s.modWard w fun y => { y with disables := y.disables ++ [x.jseq] }
  | .idle => (s.modWard w fun y => { y with disables := y.disables ++ [x.jseq] }).shutDown w
  | .running =>
    if x.force then
      s.modWard w fun y => { y with disables := y.disables ++ [x.jseq], job := y.job.map fun j => { j with forced := true } }
    else s.complete x.jseq .protection
  | _ => s.complete x.jseq .protection

def State.doWardReset (s : State) (x : OpCtx) : State :=
  let w := x.w
  if (s.ward w).st = .idle ∨ (s.ward w).st = .running then
    s.startReset w false (some x.jseq)
  else s.complete x.jseq .protection

def execWardEnable (src : Src) (dies port vf : Nat) (s : State) : Host.Outcome State Fault Refusal :=
  .next (s.command src (.wardEnable dies port vf) fun x s => s.doWardEnable x dies port vf)

def execWardDisable (src : Src) (s : State) : Host.Outcome State Fault Refusal :=
  .next (s.command src .wardDisable fun x s => s.doWardDisable x)

def execWardReset (src : Src) (s : State) : Host.Outcome State Fault Refusal :=
  .next (s.command src .wardReset fun x s => s.doWardReset x)

end Sys2Proof.Machine

namespace Sys2Proof
open Machine

/-! ### Checks of a job start (R417) -/

def JobProg.multi (p : JobProg) : Bool := decide (1 < p.modules.length)


/-- First failing words of the program's tiles (R126). -/
def JobProg.badTiles (p : JobProg) : List (TileProg × Nat × Nat) :=
  p.tiles.filterMap fun t => (checkCode t.word t.entry t.codeEnd).map fun (k, c) => (t, k, c)

end Sys2Proof

namespace Sys2Proof.Machine
open Sys2Proof

/-- Latency of the fixed path of markers to module `m` as this module measures it, LNK_STATE.LAT of the link it leaves on
(R385), and whether that link is the whole path. -/
def State.pathLat (s : State) (m : Nat) : Nat × Bool :=
  match s.ctrlPort m with
  | none => (0, false)
  | some k => ((s.link k).lat.toNat, (s.link k).peerAddr == m)

/-- The largest one-way marker latency between the beat master and a module of the job (R182). A module measures its own
links; where a path runs over other links too, their latencies come with the job's description (log entry 179). -/
def State.markerLat (s : State) (p : JobProg) : Nat :=
  let lead := p.modules.foldl min s.linkAddr
  let paths := ((if lead = s.linkAddr then p.modules else [lead]).filter (· ≠ s.linkAddr)).map s.pathLat
  let here := paths.foldl (fun a x => max a x.1) 0
  if lead = s.linkAddr ∧ paths.all (·.2) = true then here else max here p.lat

/-- MIN of R182: the least whole steps of 256 cy that hold twice the latency and 64 cy more. -/
def State.closeMin (s : State) (p : JobProg) : Nat := if p.multi then (2 * (s.markerLat p + 64) + 255) / 256 else 0

/-- `n` words of a table at `base`; `none` where a sector of it is poisoned. -/
def State.rdWords (s : State) (w base n : Nat) : Option (List W64) :=
  let o := (s.readVa w 0 base (8 * n)).2
  if o.bad.any id then none
  else some ((List.range n).map fun k => BitVec.ofNat 64 (leNat ((o.bytes.drop (8 * k)).take 8)))

def pfOf (a b c d : W64) : PfEnt :=
  { due := wf a 63 44, lead := wf a 43 40, op := wf a 39 36, smode := wf a 35 34, pos := wf a 33 24, die := wf a 23 19,
    cw := a.setWidth 16, src := b.setWidth 48, tbl := wf b 63 48, dst := c.setWidth 48, dshp := BitVec.ofNat 48 (wf d 47 6 * 64) }

/-- R280: reserved bits and fields of one entry. A conversion word that R52 calls illegal is refused, and so is one with a
supplied scale: no field of an entry names the exponents (log entry 180). A schedule that PER 0 disables has no phases, so
DUE is not compared with it. -/
def pfBad (dies per : Nat) (a b c d : W64) : Bool :=
  let e := pfOf a b c d
  wf a 18 16 != 0 || wf c 63 48 != 0 || wf d 63 48 != 0 || wf d 5 0 != 0 || (per != 0 && decide (per ≤ e.due)) || decide (4 < e.op) ||
  e.smode = 3 || (e.smode = 0 && e.pos ≠ 0) || decide (dies ≤ e.die) || (e.op ≠ 2 && e.cw ≠ 0) || (e.op ≠ 3 && e.tbl ≠ 0) ||
  (e.op = 3 && decide (15 < e.tbl)) || (e.op = 2 && (!(cwOf e.cw).legal || (cwOf e.cw).supplied))

/-- The prefetch schedule of the ward; `none` where a check of R280 fails. -/
def State.readSchedule (s : State) (w : Nat) : Option (List PfEnt) :=
  let y := s.ward w
  let n := y.pfEntries
  if n = 0 then some []
  else if !(s.rangeOk w 0 (y.reg oPfBase) (32 * n) false none) then none
  else match s.rdWords w (y.reg oPfBase) (4 * n) with
  | none => none
  | some ws =>
    let es := (List.range n).map fun k => (ws.getD (4 * k) 0, ws.getD (4 * k + 1) 0, ws.getD (4 * k + 2) 0, ws.getD (4 * k + 3) 0)
    if es.any fun (a, b, c, d) => pfBad y.dieList.length y.pfPer a b c d then none
    else
      let ps := es.map fun (a, b, c, d) => pfOf a b c d
      if (ps.zip (ps.drop 1)).all fun (a, b) => a.due ≤ b.due then some ps else none

def sliceOf (a b : W64) : SliceEnt :=
  { phase := wf a 63 44, pos := wf a 43 34, tile := wf a 33 28, last := wbit a 27, rows := wf a 26 14 + 1, tensor := wf b 63 48,
    elem := wf b 47 21, off := wf b 20 0 }

/-- The update table of die `d` (R335). -/
def State.readSlices (s : State) (w d : Nat) : Option (List SliceEnt) :=
  let n := field (s.tblRegs.get (2 * d + 1)).toNat 19 0
  let base := field (s.tblRegs.get (2 * d)).toNat 47 4 * 16
  if n = 0 ∨ s.updFitted = false then some []
  else if !(s.rangeOk w 0 base (16 * n) false none) then none
  else match s.rdWords w base (2 * n) with
  | none => none
  | some ws =>
    let es := (List.range n).map fun k => (ws.getD (2 * k) 0, ws.getD (2 * k + 1) 0)
    let per := max 1 (s.ward w).pfPer
    if es.any fun (a, b) => wf a 13 0 != 0 || decide (per ≤ wf a 63 44) || wf b 20 0 % 16 != 0 then none
    else
      let ps := es.map fun (a, b) => sliceOf a b
      if (ps.zip (ps.drop 1)).all fun (a, b) => a.phase ≤ b.phase then some ps else none

/-- R301: every registered entry fits the rank slots and layers that the program declares. -/
def Ward.entriesFit (y : Ward) (p : JobProg) : Bool :=
  (y.registry.filter fun e => e.2.st ≠ .free).all (fun e =>
    let r := p.rslots.getD e.2.rslot {}
    r.valid && decide (e.2.rank ≤ r.rmax + 1) && (e.2.mats &&& ~~~r.mats) == 0 && decide (e.2.image ≤ r.imgMib * 2 ^ 20)) &&
  (List.range 2048).all fun i => y.xowner i == none || y.xowner i == some 0 || p.xlayers.contains (i / 8)

/-- What a job start finds: a status that refuses it, or the tables it loads. -/
def State.jobCheck (s : State) (w : Nat) (va len : Nat) (p : JobProg) : Except St (List PfEnt × Tab (List SliceEnt) × BitVec 256) :=
  let y := s.ward w
  if y.dieList.any s.dieFencedAt then .error .absent
  else if p.dies ≠ y.dieList.length ∨ (match p.mask with | some m => m != y.dies | none => false) = true then .error .protection
  else if !(p.tiles.all fun t => decide (t.rdie < p.dies) && decide (t.tile < 64) && decide (t.codeEnd ≤ 8192)) ∨
      !(p.spares.all fun t => decide (t.1 < p.dies) && decide (t.2 < 64)) then .error .protection
  else if p.badTiles ≠ [] then .error .protection
  else if y.closeSteps < y.closeMin ∨ y.beatLen ≤ y.closeSteps then .error .protection
  else if p.tiles.any fun t => (t.chains || t.chained) && (s.quad (y.progTile t.rdie t.tile / 4)).fenced then .error .protection
  else if !(y.entriesFit p) then .error .protection
  else
    match s.readSchedule w, y.dieList.mapM fun d => (s.readSlices w d).map fun l => (d, l) with
    | some sch, some sl =>
      if !(s.rangeOk w 0 va len false none) then .error .protection
      else
        let o := (s.readVa w 0 va len).2
        if o.bad.any id then .error .protection
        else .ok (sch, sl.filter fun e => e.2 ≠ [], Config.sha256 o.bytes)
    | _, _ => .error .protection

/-! ### Loading a job -/

/-- The sequencer state of a job start (R118), and the registers that a job start clears (R109, R115, R162 to R166). -/
def Tile.load (t : Tile) (p : TileProg) : Tile :=
  { t with pc := p.entry, st := if p.codeEnd = 0 then .idle else .running, entry := p.entry, codeEnd := p.codeEnd, a := [],
           k := [], flags := 0, loops := [], fault := {}, faultBeat := 0, stall := 0, issued := 0, waiting := none, standIn := 0,
           tagCnt := 0, gens := [], renorm := 0, forcedCnt := 0, nonfinite := 0, feeds := p.feeds, skipWells := [], drained := false,
           rerun := false, loads := [] }

def State.loadStore (s : State) (i : Nat) (p : TileProg) : State :=
  p.words.foldl (fun s e => if e.1 < 8192 then s.wrBytes (tileBase i + 0x300000 + 8 * e.1) (toLE 8 e.2.toNat) else s)
    ((s.clearRange (tileBase i + 0x300000) 65536).modTile i fun t => { t with badCode := [] })

/-- Load one tile from the program; a fenced tile stays fenced. -/
def State.loadTile (s : State) (i : Nat) (p : TileProg) : State := (s.loadStore i p).modTile i fun t => t.load p

/-- Registers that a job start zeroes (R64, R194, R223 to R225, R232, R269, R270, R293, R295, R296, R326, R327, R363, R365, R502). -/
def State.clearForJob (s : State) (w : Nat) : State :=
  let y := s.ward w
  let s := forEach y.tiles s fun s i =>
    let t := s.tile i
    let t' := t.load { rdie := 0, tile := 0, entry := 0, codeEnd := 0, words := [] }
    if t = t' then s else s.modTile i fun _ => t'
  let s := forEach y.quads s fun s q => s.modQuad q fun x =>
    { x with gens := [], faultValid := false, faultCause := 0, faultIssuer := 0, faultRecord := 0, faultDetail := 0, jobBad := 0,
             rowsCnt := 0, stallCnt := 0 }
  let s := forEach y.chans s fun s c => s.modChan c fun x => { x with gen := 1, confined := 0, squashCnt := 0, done := 0 }
  let s := forEach y.dieList s fun s d =>
    (s.modDev d fun x => { x with gen := 1, faultValid := false, faultStatus := 0, faultCause := 0, faultCtx := 0, faultFrame := 0,
                                  fails := 0, outBytes := 0 }).modUpd d fun u => { u with updated := 0 }
  let s := { s with sites := s.sites.filter fun e => !y.holds (e.1 / 1024) }
  s.modWard w fun y =>
    { y with heldBeats := 0, heldSteps := 0, xlatMiss := 0, xlatFaults := 0, tieLate := 0, tieFail := 0, tieSkew := 0, tieSpills := 0,
             loads := 0, evicts := 0, swapIns := 0, swapOuts := 0, evDeferred := 0, evNoAdm := 0, evEnded := 0, rounds := 0, split := 0,
             rollbacks := 0, recheck := 0, modsFenced := 0, replSwap := false, poolLow := y.freeBlocks, patPasses := 0, patCorrected := 0,
             patPoisoned := 0, patLate := false, jobBeat := 0, holdSteps := 0, closed := false, holding := false,
             lostPos := [], emptyPos := [], ctxTab := [], statKept := [] }

/-- The owners table at a job start: a layer that the program declares has its slots, any other has none (R302). -/
def Ward.declareLayers (y : Ward) (p : JobProg) : Ward :=
  (List.range 2048).foldl (fun y i =>
    if p.xlayers.contains (i / 8) then (if y.xowner i = none then y.setXowner i (some 0) else y) else y.setXowner i none) y

/-- The tables that software reads are set up at a job start: entries in use as they stand, all others zero (R286, R299,
R311; log entry 181). -/
def State.writeTables (s : State) (w : Nat) : State :=
  let x := s.ward w
  let zero (s : State) (base n : Nat) : State := if base = 0 then s else s.wrStruct w base (List.replicate n 0)
  let s := zero (zero (zero s x.regBase (2 ^ 22)) x.bmapBase (8 * x.nblk)) x.ctxtBase (2 ^ 23)
  let s := forEach x.registry s fun s e => s.setReg w e.1 id
  forEach x.blocks s fun s e => s.setBlk w e.1 id

/-- JOB_START (R417). MIN is written whenever a start is requested (R182, R191), except for a ward in PLACING, where nothing
changes (R414), and for a job that needs an absent unit (R6). -/
def State.doJobStart (s : State) (x : OpCtx) (program : Addr) (len : Nat) (p : JobProg) : State :=
  let w := x.w
  let y := s.ward w
  if s.updFitted = false ∧ p.training ≠ [] then s.complete x.jseq .absent
  else if y.st = .placing then s.complete x.jseq .protection
  else
    let s := s.modWard w fun y => { y with closeMin := s.closeMin p }
    if y.st ≠ .idle then s.complete x.jseq .protection
    else match s.jobCheck w program.toNat len p with
    | .error e =>
      -- each failing tile records its first failing word (R126)
      let s := if e = .absent ∨ p.dies ≠ y.dieList.length then s else forEach p.badTiles s fun s (t, k, c) =>
        let i := y.progTile t.rdie t.tile
        let f : SeqFault := { valid := true, cause := c, pc := k }
        (s.modTile i fun t => { t with fault := f, faultBeat := 0 }).report
          { cls := 2, scope := 4, status := St.protection.code, ward := w, unit := 0, die := i / 64, idx := i % 64, src := 3, cause := c,
            op := BitVec.ofNat 32 ((t.word k).toNat / 2 ^ 32), detail := f.word.setWidth 128 }
      s.complete x.jseq e
    | .ok (sch, sl, dig) =>
      let s := s.clearForJob w
      let s := forEach p.tiles s fun s t => s.loadTile (y.progTile t.rdie t.tile) t
      let s := forEach p.spares s fun s t => s.modTile (y.progTile t.1 t.2) fun t => { t with spare := true }
      let lead := p.modules.foldl min s.linkAddr
      let s := s.modWard w fun y =>
        { ((y.setProg program.toNat len true).declareLayers p) with
            st := .running, jobDigest := dig, multi := p.multi, masterId := if p.multi then lead else s.linkAddr,
            master := !p.multi || lead == s.linkAddr, mb := { modules := p.modules },
            rslots := (p.rslots.zipIdx).foldl (fun t (r, k) => t.set k r) [],
            job := some { prog := p, program := program, len := len, jseq := x.jseq, ring := x.ring, tag := x.tag, schedule := sch,
                          slices := sl, sparesFree := p.spares.map fun t => y.progTile t.1 t.2 } }
      s.writeTables w

def execJobStart (src : Src) (program : Addr) (len : Nat) (prog : JobProg) (seen : List (Nat × Byte)) (s : State) :
    Host.Outcome State Fault Refusal :=
  .next (s.command src (.jobStart program len prog) fun x s => (s.seen seen).doJobStart x program len prog)

/-! ### JOB_END (R418) -/

def State.doJobEnd (s : State) (x : OpCtx) : State :=
  let w := x.w
  match (s.ward w).job with
  | none => s.complete x.jseq .protection
  | some _ =>
    if x.force then
      s.modWard w fun y => { y with job := y.job.map fun j => { j with forced := true, ends := j.ends ++ [x.jseq] } }
    else
      let s := s.modWard w fun y =>
        { y with job := y.job.map fun j => { j with ending := true, ends := j.ends ++ [x.jseq] },
                 trains := y.trains.map fun t => (t.1, { t.2 with stopping := true }) }
      forEach (((s.ward w).live.filter fun e => e.2.st = .queued).map (·.1)) s fun s i => s.endSeq w i .adapterWithdrawn 3

def execJobEnd (src : Src) (s : State) : Host.Outcome State Fault Refusal :=
  .next (s.command src .jobEnd fun x s => s.doJobEnd x)

/-! ### MAP and UNMAP (R428) -/

/-- A page of `n` bytes lies wholly within one kind of R22. -/
def pageKind (pa n : Nat) : Bool :=
  (decide (pa < 2 ^ 42) && decide (pa % 2 ^ 39 + n ≤ dieBytes)) ||
  (decide (2 ^ 42 ≤ pa) && decide (pa + n ≤ 2 ^ 42 + 512 * 2 ^ 22)) ||
  (decide (2 ^ 48 ≤ pa) && decide (pa + n ≤ 2 ^ 49)) || (decide (2 ^ 50 ≤ pa) && decide (pa + n ≤ 2 ^ 50 + 2 ^ 48))

def inCarve (pa n : Nat) : Bool := decide (pa < 0x482D600000) && decide (carveOut < pa + n)

/-- Virtual pages of the running job's program, as ranges. -/
def Ward.progPages (y : Ward) : List (Nat × Nat) :=
  match y.job with
  | none => []
  | some j =>
    let va := j.program.toNat
    (List.range ((va % 2 ^ 21 + j.len + 2 ^ 21 - 1) / 2 ^ 21)).map fun k =>
      let a := va / 2 ^ 21 * 2 ^ 21 + k * 2 ^ 21
      if (y.l1.get (a / 2 ^ 30)).getLsbD 1 then (a / 2 ^ 30 * 2 ^ 30, 2 ^ 30) else (a, 2 ^ 21)

def Ward.tablesUsed (y : Ward) : List Nat := (y.l2.map fun e => e.1 / 512).dedup

/-- The level-2 table that serves `va`. -/
def Ward.tableAt (y : Ward) (va : Nat) : Option Nat :=
  let e := y.l1.get (va / 2 ^ 30)
  if e.getLsbD 0 && !e.getLsbD 1 then some (field e.toNat 27 14) else none

/-- Level-1 indices of a range of 2 MiB pages that have no table yet. -/
def Ward.newTables (y : Ward) (va count : Nat) : Nat :=
  if count = 0 then 0
  else ((List.range ((va + count * 2 ^ 21 - 1) / 2 ^ 30 - va / 2 ^ 30 + 1)).filter fun k =>
    (y.tableAt ((va / 2 ^ 30 + k) * 2 ^ 30)).isNone).length

def leafWord (pa rights kslot : Nat) : W64 :=
  BitVec.ofNat 64 (3 + rights % 2 * 4 + rights / 2 % 2 * 8 + rights / 4 % 2 * 32 + pa / 2 ^ 21 * 2 ^ 17 + kslot * 2 ^ 50)

/-- Drop a table and its entries. -/
def Ward.dropTable (y : Ward) (t : Nat) : Ward := { y with l2 := y.l2.filter fun e => e.1 / 512 ≠ t }

/-- Write one leaf entry; a 2 MiB page takes the lowest free table where it needs one. -/
def Ward.mapOne (y : Ward) (va pa size rights kslot : Nat) : Ward :=
  if size = 1 then
    let y := match y.tableAt va with | some t => y.dropTable t | none => y
    { y with l1 := y.l1.set (va / 2 ^ 30) (leafWord pa rights kslot) }
  else
    let t := (y.tableAt va).getD ((lowestFree y.tablesUsed 15872 1).headD 0)
    { y with l1 := y.l1.set (va / 2 ^ 30) (BitVec.ofNat 64 (1 + t * 2 ^ 14)),
             l2 := y.l2.set (t * 512 + va / 2 ^ 21 % 512) (leafWord pa rights kslot) }

/-- R479: listed poisoned sectors of a page of the stack tier that is unmapped, or mapped to other use, are rewritten
with zeros. -/
def State.cleanPage (s : State) (w va n : Nat) : State :=
  match (s.ward w).walk va with
  | none => s
  | some l =>
    if isStack l.pa ∧ l.alloc = false ∧ (s.slot l.kslot).st = .live then
      let secs := (s.hbms.flatMap fun h => h.2.list).filter fun k => decide (l.pa ≤ k * 256) && decide (k * 256 < l.pa + n)
      forEach secs s fun s k => s.writeSec (s.slot l.kslot).key (k * 256) (List.replicate 256 0) w 0
    else s

def pageSize (size : Nat) : Nat := if size = 1 then 2 ^ 30 else 2 ^ 21

def State.mapBad (s : State) (w va pa count size rights kslot : Nat) : Bool :=
  let y := s.ward w
  let n := pageSize size
  y.st == .disabled || y.st == .placing || decide (1 < size) || decide (va % n ≠ 0) || decide (pa % n ≠ 0) ||
  decide (2 ^ 48 < va + count * n) || decide (2 ^ 52 < pa + count * n) || decide (16383 < kslot) ||
  (rights / 4 % 2 = 1 && kslot ≠ y.keySlot) ||
  (((s.slot kslot).st == .live || (s.slot kslot).st == .ward) && (s.slot kslot).ward != w) ||
  y.progPages.any (fun (a, m) => decide (a < va + count * n) && decide (va < a + m)) ||
  (List.range count).any (fun i => inCarve (pa + i * n) n || !pageKind (pa + i * n) n) ||
  (size = 0 && decide (15872 < y.tablesUsed.length + y.newTables va count))

def State.doMap (s : State) (x : OpCtx) (va pa count size rights kslot : Nat) : State :=
  let w := x.w
  if s.mapBad w va pa count size rights kslot then s.complete x.jseq .protection
  else
    let n := pageSize size
    (forEach (List.range count) s fun s i =>
      (s.cleanPage w (va + i * n) n).modWard w fun y => y.mapOne (va + i * n) (pa + i * n) size rights kslot).complete x.jseq .ok

/-- Invalidate one leaf entry; a table whose last valid entry goes is freed with the entry that points to it. -/
def Ward.unmapOne (y : Ward) (va size : Nat) : Ward :=
  if size = 1 then { y with l1 := y.l1.set (va / 2 ^ 30) 0 }
  else
    match y.tableAt va with
    | none => y
    | some t =>
      let y := { y with l2 := y.l2.set (t * 512 + va / 2 ^ 21 % 512) 0 }
      if y.tablesUsed.contains t then y else { y with l1 := y.l1.set (va / 2 ^ 30) 0 }

def State.unmapBad (s : State) (w va count size : Nat) : Bool :=
  let y := s.ward w
  let n := pageSize size
  y.st == .disabled || y.st == .placing || decide (1 < size) || decide (va % n ≠ 0) || decide (2 ^ 48 < va + count * n) ||
  (List.range count).any fun i =>
    let e := y.l1.get ((va + i * n) / 2 ^ 30)
    e.getLsbD 0 && (if size = 1 then !e.getLsbD 1 else e.getLsbD 1)

def State.doUnmap (s : State) (x : OpCtx) (va count size : Nat) : State :=
  let w := x.w
  if s.unmapBad w va count size then s.complete x.jseq .protection
  else
    let n := pageSize size
    (forEach (List.range count) s fun s i =>
      (s.cleanPage w (va + i * n) n).modWard w fun y => y.unmapOne (va + i * n) size).complete x.jseq .ok

def execMap (src : Src) (va : W64) (pa : W64) (count size rights kslot : Nat) (s : State) : Host.Outcome State Fault Refusal :=
  .next (s.command src (.map va pa count size rights kslot) fun x s => s.doMap x va.toNat pa.toNat count size rights kslot)

def execUnmap (src : Src) (va : W64) (count size : Nat) (s : State) : Host.Outcome State Fault Refusal :=
  .next (s.command src (.unmap va count size) fun x s => s.doUnmap x va.toNat count size)

end Sys2Proof.Machine
end

