-- ==== Sys2Proof/Machine/ServeCmds.lean ====
section
/-! DEFINITION. The serving commands (R302, R303, R312, R315, R319, R320) and weight distribution (R323 to R325,
R393). -/

namespace Sys2Proof

/-- R301: the rank slot takes the adapter. -/
def RankSlot.takes (r : RankSlot) (rank mats image : Nat) : Bool :=
  r.valid && decide (rank ≤ r.rmax + 1) && (BitVec.ofNat 16 mats &&& ~~~r.mats) == 0 && decide (image ≤ r.imgMib * 2 ^ 20)

/-! ### The manifest (R323, R457) -/

/-- `n` bytes at offset `k`, little-endian. -/
def Manifest.num (m : Manifest) (k n : Nat) : Nat := Machine.leNat ((m.bytes.drop k).take n)

def Manifest.members (m : Manifest) : Nat := m.num 6 2
def Manifest.count (m : Manifest) : Nat := m.num 8 4
/-- Offset of shard entry `k`. -/
def Manifest.entry (m : Manifest) (k : Nat) : Nat := 128 + 1664 * m.members + 64 * k
/-- Device identifiers of the member table. -/
def Manifest.devIds (m : Manifest) : List (BitVec 256) :=
  (List.range m.members).map fun k => BitVec.ofNat 256 (m.num (128 + 1664 * k) 32)
def Manifest.shard (m : Manifest) (k : Nat) : Shard :=
  let p := m.entry k
  { digest := BitVec.ofNat 256 (m.num p 32), dest := BitVec.ofNat 64 (m.num (p + 32) 8), offset := BitVec.ofNat 48 (m.num (p + 40) 6),
    len := m.num (p + 48) 4, src := m.num (p + 56) 8 }
def Manifest.shards (m : Manifest) : List Shard := (List.range m.count).map m.shard

/-- The layout of R457 and the fields of R323: reserved bytes are zero, a shard is 4 KiB to 256 MiB in steps of 4 KiB. -/
def Manifest.laidOut (m : Manifest) : Bool :=
  m.num 0 4 == 0x5032444C && m.num 4 2 == 1 && decide (1 ≤ m.members) && decide (m.members ≤ 64) && decide (1 ≤ m.count) &&
  m.bytes.length == m.entry m.count && m.num 12 4 == 0 && m.num 48 80 == 0 &&
  ((List.range m.members).all fun k => m.num (128 + 1664 * k + 1648) 16 == 0) &&
  (List.range m.count).all fun k =>
    let n := m.num (m.entry k + 48) 4
    m.num (m.entry k + 46) 2 == 0 && m.num (m.entry k + 52) 4 == 0 && n % 4096 == 0 && decide (4096 ≤ n) && decide (n ≤ 2 ^ 28)

/-- The shard goes to logical identity `a` (R323). -/
def Shard.to (h : Shard) (a : Nat) : Bool := decide (a < 64) && h.dest.getLsbD a

end Sys2Proof

namespace Sys2Proof.Machine
open Sys2Proof

/-! ### The registry -/

def State.doRegister (s : State) (x : OpCtx) (c kslot rslot rank mats image negVa negLen : Nat) : State :=
  let w := x.w
  let y := s.ward w
  if c = 0 ∨ (y.registry.get c).st ≠ .free ∨ y.running = false ∨ 15 < rslot ∨ 16383 < kslot ∨ 2 ^ 40 ≤ negLen ∨
      (y.rslots.get rslot).takes rank mats image = false then s.complete x.jseq .protection
  else
    let s := s.setReg w c fun e =>
      { st := .registered, kslot := kslot, rslot := rslot, xcount := e.xcount, negVa := BitVec.ofNat 48 negVa, negLen := negLen,
        rank := rank, mats := BitVec.ofNat 16 mats, image := image }
    ((s.modWard w fun y => { y with acct := y.acct.set c {} }).event w 2 c).complete x.jseq .ok

def execRegister (src : Src) (c kslot rslot rank mats image : Nat) (negVa negLen : W64) (s : State) : Host.Outcome State Fault Refusal :=
  .next (s.command src (.register c kslot rslot rank mats image negVa negLen) fun x s =>
    s.doRegister x c kslot rslot rank mats image negVa.toNat negLen.toNat)

/-- R315, R359. What is due at a release ends there; the entry goes free when its counts are 0. -/
def State.doWithdraw (s : State) (x : OpCtx) (c : Nat) : State :=
  let w := x.w
  let e := (s.ward w).registry.get c
  if e.st = .free then s.complete x.jseq .protection
  else
    let s := s.setReg w c fun e =>
      { e with st := if x.force ∨ e.st = .forced then .forced else .withdrawing, withdraws := e.withdraws ++ [x.jseq] }
    let s := s.markCtx w (fun q => q.ctx = c && (q.st == .queued || x.force)) .adapterWithdrawn 3 false
    let s := if e.nxt ∧ e.nxtReady = false then s.dropBuild w c .adapterWithdrawn else s
    -- a forced withdrawal squashes the context's operations of a step in flight (R262, R359)
    let s := if x.force ∧ (s.train w c).st ≠ .off then s.squashCtx w c .adapterWithdrawn else s
    let s := if (s.train w c).st = .off then s
      else s.modTrain w c fun t =>
        { t with stopping := true, abandonDue := if x.force ∧ t.st ≠ .faulted then some (t.abandonDue.getD .adapterWithdrawn) else t.abandonDue }
    s.event w 2 c

def execWithdraw (src : Src) (c : Nat) (s : State) : Host.Outcome State Fault Refusal :=
  .next (s.command src (.withdraw c) fun x s => s.doWithdraw x c)

/-! ### Extra experts (R302, R303) -/

def pairIdx (p : Nat × Nat) : Nat := 8 * p.1 + p.2

/-- A pair names a layer without slots, or appears twice. -/
def Ward.pairsBad (y : Ward) (l : List (Nat × Nat)) : Bool :=
  l.any (fun p => decide (255 < p.1) || decide (7 < p.2) || y.xowner (pairIdx p) == none) || decide (l.dedup.length ≠ l.length)

def Ward.xcountOf (y : Ward) (c : Nat) : Nat := ((List.range 2048).filter fun i => y.xowner i = some c).length

def State.setPairs (s : State) (w c : Nat) (l : List (Nat × Nat)) (v : Nat) : State :=
  let s := s.modWard w fun y => l.foldl (fun y p => y.setXowner (pairIdx p) (some v)) y
  s.setReg w c fun e => { e with xcount := (s.ward w).xcountOf c }

def State.doClaim (s : State) (x : OpCtx) (c count : Nat) (pairs : Option (List (Nat × Nat))) : State :=
  let y := s.ward x.w
  if c = 0 ∨ count = 0 ∨ 64 < count then s.complete x.jseq .protection
  else match pairs with
    | none => s.complete x.jseq .tierFail
    | some l =>
      if y.pairsBad l then s.complete x.jseq .protection
      else match l.find? fun p => y.xowner (pairIdx p) ≠ some 0 && y.xowner (pairIdx p) ≠ some c with
        | some p => s.complete x.jseq .slotTaken (BitVec.ofNat 32 (pairIdx p))
        | none => ((s.setPairs x.w c l c).event x.w 14 c).complete x.jseq .ok

def State.doUnclaim (s : State) (x : OpCtx) (c count : Nat) (pairs : Option (List (Nat × Nat))) : State :=
  let y := s.ward x.w
  if c = 0 ∨ count = 0 ∨ 64 < count then s.complete x.jseq .protection
  else match pairs with
    | none => s.complete x.jseq .tierFail
    | some l =>
      if (y.registry.get c).pins ≠ 0 ∨ y.pairsBad l then s.complete x.jseq .protection
      else match l.find? fun p => y.xowner (pairIdx p) ≠ some c with
        | some p => s.complete x.jseq .protection (BitVec.ofNat 32 (pairIdx p))
        | none => ((s.setPairs x.w c l 0).event x.w 15 c).complete x.jseq .ok

def execClaim (src : Src) (c count : Nat) (list : W64) (pairs : Option (List (Nat × Nat))) (s : State) :
    Host.Outcome State Fault Refusal :=
  .next (s.command src (.claim c count list pairs) fun x s => s.doClaim x c count pairs)

def execUnclaim (src : Src) (c count : Nat) (list : W64) (pairs : Option (List (Nat × Nat))) (s : State) :
    Host.Outcome State Fault Refusal :=
  .next (s.command src (.unclaim c count list pairs) fun x s => s.doUnclaim x c count pairs)

/-! ### Sequences -/

/-- R308: the index lies in the ward's range. -/
def State.inRange (s : State) (w i : Nat) : Bool :=
  let (f, n) := s.seqRange w
  decide (f ≤ i) && decide (i < f + n)

def State.doSubmit (s : State) (x : OpCtx) (i c prompt maxtok : Nat) (cookie out : W64) (bytes : Option (List Byte)) : State :=
  let w := x.w
  let y := s.ward w
  if s.inRange w i = false ∨ (y.seqs.get i).st ≠ .free then s.complete x.jseq .protection
  else if (y.registry.get c).st ≠ .registered then s.complete x.jseq .adapterWithdrawn
  else match bytes with
    | none => s.complete x.jseq .tierFail
    | some b =>
      let s := s.setSq w i fun _ =>
        { st := .queued, ctx := c, maxtok := BitVec.ofNat 32 maxtok, prompt := prompt, submit := s.stamp w, cookie := cookie,
          out := out.setWidth 48, job := b.take 64, ring := x.ring, jseq := x.jseq }
      s.complete x.jseq .ok

def execSubmit (src : Src) (idx c prompt maxtok : Nat) (cookie out job : W64) (bytes : Option (List Byte)) (s : State) :
    Host.Outcome State Fault Refusal :=
  .next (s.command src (.submit idx c prompt maxtok cookie out job bytes) fun x s =>
    s.doSubmit x idx c prompt maxtok cookie out bytes)

def State.doCancel (s : State) (x : OpCtx) (i : Nat) : State :=
  let w := x.w
  if s.inRange w i = false ∨ ((s.ward w).seqs.get i).st = .free then s.complete x.jseq .protection
  else (s.markSeq w i .ok 2 false).complete x.jseq .ok

def execCancel (src : Src) (idx : Nat) (s : State) : Host.Outcome State Fault Refusal :=
  .next (s.command src (.cancel idx) fun x s => s.doCancel x idx)

/-- SEQ_PEEK_IDX (R326). -/
def execSeqPeekIdx (r : Req) (w : Nat) (v : W32) (s : State) : Host.Outcome State Fault Refusal :=
  if !s.live ∨ 7 < w then .next s
  else if !s.owns r w then .next s.refuse
  else
    let i := v.toNat % 2 ^ 21
    let b := if s.inRange w i then (s.ward w).seqBytes i else List.replicate 128 0
    .next (s.modWard w fun y => { y with peekIdx := i, peekSeq := b })

/-! ### Distribution (R324, R325, R393) -/

/-- Links of a multicast tree to the set of identities `dest`. -/
def State.treePorts (s : State) (dest : W64) : BitVec 48 :=
  ((List.range 64).filter fun a => dest.getLsbD a && a != s.linkAddr).foldl (fun m a => match s.ctrlPort a with
    | some k => m ||| (1#48 <<< k)
    | none => m) 0

/-- A tree for each distinct set of receivers, while trees are free (R393). -/
def State.buildTrees (s : State) (ds : List W64) : State × List Nat :=
  ds.dedup.foldl (fun (s, ks) d =>
    match (List.range 16).find? fun k => !(s.trees.get k).busy with
    | some k => ({ s with trees := s.trees.set k { loc := d.getLsbD s.linkAddr, ports := s.treePorts d, busy := true } }, ks ++ [k])
    | none => (s, ks)) (s, [])

/-- A second copy of the target may be built: it is registered, and none is under way or waits for its switch. -/
def Ward.buildable (y : Ward) (c : Nat) : Bool :=
  if c = 0 then y.baseState != 2 && y.baseState != 1
  else let e := y.registry.get c
    e.st == .registered && !e.nxt

/-- The old copy of the last switch is still held (R319). -/
def Ward.oldHeld (y : Ward) (c : Nat) : Bool :=
  if c = 0 then y.baseState == 3
  else let e := y.registry.get c
    e.oldmb != 0 || !(e.chunksOf (1 - e.liveCopy)).isEmpty

/-- The target takes a second copy now; `none` where the old copy is held or the hot cache is short. -/
def State.openCopy (s : State) (w c : Nat) : Option State :=
  if (s.ward w).oldHeld c then none
  else if c = 0 then some (s.modWard w fun y => { y with baseState := 1 })
  else (s.roomCopy w c (1 - ((s.ward w).registry.get c).liveCopy)).map fun r =>
    r.2.setReg w c fun e => { e with nxt := true, nxtReady := false, nxtWaits := false }

/-- This module's shards are all good. -/
def State.shardsGood (s : State) (d : Dist) : Bool :=
  (d.shards.zipIdx).all fun (h, k) => !h.to s.linkAddr || d.st.get k = .good

/-- R324, step 6: every shard of every module is good. -/
def State.distCheck (s : State) (w : Nat) : State :=
  match (s.ward w).dist with
  | none => s
  | some d =>
    if s.shardsGood d ∧ d.waits = 0 ∧ d.held = false then
      let s :=
        if d.target = 0 then s.modWard w fun y => { y with baseState := 2, basePrepJseq := none }
        else s.setReg w d.target fun e => { e with nxtReady := true }
      s.endDist w .ok
    else s

/-- Bytes of shard `k` here: of the reader, read from the package, through the second port where `alt`, and decrypted; of
another module, its copy. -/
def State.shardBytes (s : State) (w k : Nat) (alt : Bool) : List Byte :=
  match (s.ward w).dist with
  | none => []
  | some d =>
    let h := d.shards.getD k default
    if d.reader then
      Config.shardPlain d.manifest k
        (s.rdBytes (if alt then hostBase (1 - d.port) (d.alt.toNat + h.src) else hostBase d.port (d.package.toNat + h.src)) (h.len + 16))
    else
      let e := (s.ward w).registry.get d.target
      let base := (((s.ward w).job.map (·.prog.bases)).getD []).getD (((s.ward w).baseGen.toNat + 1) % 2) 0
      if d.target = 0 then (s.readVa w 0 (base.toNat + h.offset.toNat) h.len).2.bytes
      else (cuts chunkBytes h.offset.toNat h.len).flatMap fun (p, n) =>
        (s.readVa w d.target (chunkAddr (s.ward w).hotBase (e.chunksOf (1 - e.liveCopy)) p) n).2.bytes

/-- A shard leaves for the identities `dest`: along the tree of that set where it has one, else to each by itself. The
transfer names the shard's place in the target copy (log entry 182). -/
def State.sendShard (s : State) (w k : Nat) (dest : W64) (alt : Bool) : State :=
  match (s.ward w).dist with
  | none => s
  | some d =>
    let s := s.emit (.shardSend k dest)
    let bs := xferHeader (d.shards.getD k default).offset.toNat (d.shards.getD k default).len ++ s.shardBytes w k alt
    match d.trees[(d.shards.map (·.dest)).dedup.idxOf dest]? with
    | some t =>
      let (xid, s) := s.nextXid
      let x : Sender := { dst := s.linkAddr, own := some w, ward := w, ctx := d.target, epoch := s.epochOf w d.target, xid := xid, tree := t }
      let ps := cut224 bs
      let ports := (List.range 48).filter fun j => (s.trees.get t).ports.getLsbD j
      forEach ps.zipIdx s fun s (p, j) => s.mcSend ports (s.flitOf x 6 1 (j + 1 == ps.length) p.length) p
    | none =>
      s.uncount (forEach ((List.range 64).filter fun a => dest.getLsbD a && a != s.linkAddr) s fun s a =>
        let (x, s) := s.sender w d.target a
        s.sendXfer x 1 1 bs)

/-- The reader's pass: every shard once, in manifest order (R324, step 2). -/
def State.sendPass (s : State) (w : Nat) : State :=
  match (s.ward w).dist with
  | none => s
  | some d => if d.reader then forEach d.shards.zipIdx s fun s (h, k) => s.sendShard w k h.dest d.onAlt else s

/-- The checks of R458, and the layout. -/
def State.manifestOk (s : State) (m : Manifest) : Bool :=
  m.sigOk && m.keyKnown && m.laidOut && m.devIds.contains s.sec.deviceId &&
  (List.range 64).all fun a => !(m.shards.any fun h => h.to a) ||
    m.devIds.contains (if a = s.linkAddr then s.sec.deviceId else s.image.devmap.get a)

/-- A module takes part: `reader` where it accepted the command itself, `others` the modules that the reader passes it on to.
A manifest that fails a check ends the command before anything is sent; where the old copy is still held, or the hot cache is
short, the build waits (R319, R306). -/
def State.openDist (s : State) (x : OpCtx) (c : Nat) (package alt : W64) (m : Manifest) (reader : Bool) (others : List Nat) : State :=
  let w := x.w
  if reader ∧ !s.manifestOk m then
    ((s.modWard w fun y => { y with distFailed := incSat y.distFailed, basePrepJseq := if c = 0 then none else y.basePrepJseq }).event w 13 c
      .shardBad).complete x.jseq .shardBad
  else
    let o := s.openCopy w c
    let s := match o with
      | some t => t
      | none => if c = 0 then s else s.setReg w c fun e => { e with nxt := true, nxtReady := false, nxtWaits := true }
    let (s, ts) := if reader then s.buildTrees (m.shards.map (·.dest)) else (s, [])
    let s := s.modWard w fun y =>
      { y with dist := some { target := c, package := package.setWidth 48, alt := alt.setWidth 48, shards := m.shards, st := [], tries := [],
                              reader := reader, jseq := x.jseq, waits := others.length, trees := ts, held := o.isNone,
                              manifest := m.bytes, port := x.port, func := x.func } }
    let s := forEach others s fun s a =>
      s.ctl a (.relay a x.jseq (cmdBytes { port := x.port, func := x.func, ring := 0, ward := w, tag := x.tag } (.distribute c package 0 alt m)))
    (if o.isSome then s.sendPass w else s).distCheck w

def State.startDist (s : State) (x : OpCtx) (c : Nat) (package alt : W64) (m : Manifest) (reader : Bool) : State :=
  let y := s.ward x.w
  if y.running = false ∨ y.dist.isSome ∨ !y.buildable c then s.complete x.jseq .protection
  else s.openDist x c package alt m reader
    (if reader then (List.range 64).filter fun a => a != s.linkAddr && m.shards.any fun h => h.to a else [])

def State.doDistribute (s : State) (x : OpCtx) (c : Nat) (package alt : W64) (m : Manifest) : State :=
  (s.seen m.seen).startDist x c package alt m true

def execDistribute (src : Src) (target : Nat) (package length alt : W64) (m : Manifest) (s : State) : Host.Outcome State Fault Refusal :=
  .next (s.command src (.distribute target package length alt m) fun x s => s.doDistribute x target package alt m)

/-- A distribution that waits for its target's old copy, or for chunks, tries again at each boundary (R306, R319). -/
def State.retryDist (s : State) (w : Nat) : State :=
  match (s.ward w).dist with
  | none => s
  | some d =>
    if d.held = false then s
    else match s.openCopy w d.target with
      | none => s
      | some s => ((s.modWard w fun y => { y with dist := y.dist.map fun d => { d with held := false } }).sendPass w).distCheck w

/-- The module that reads the package: where the command came from, or this one. -/
def State.readerOf (s : State) (d : Dist) : Nat := (((s.opens.get d.jseq).map (·.origin)).getD none).getD s.linkAddr

/-- R324, steps 4 and 5: a shard that is missing or bad is requested again: three times from the reader, once from the lowest
identity that reports it good, and where none does, or that fails, from the reader again, which reads the second port for it.
Which other receivers report it good is left to them. -/
def State.retryShard (s : State) (w k : Nat) : State :=
  match (s.ward w).dist with
  | none => s
  | some d =>
    let n := d.tries.get k
    let h := d.shards.getD k default
    let ask (s : State) : State := s.ctl (s.readerOf d) (.shardReq (s.readerOf d) k)
    let s := s.modWard w fun y => { y with dist := y.dist.map fun d => { d with tries := d.tries.set k (n + 1) } }
    if n < 3 then ask (s.modWard w fun y => { y with distRetries := incSat y.distRetries })
    else if n = 3 then
      let (f, s) := s.takeFresh
      match (List.range 64).find? fun a => h.to a && a != s.linkAddr && (Config.freeW64 f).getLsbD a with
      | some a => (s.modWard w fun y => { y with distPeer := incSat y.distPeer }).ctl a (.shardReq a k)
      | none => if d.alt ≠ 0 then ask s else s
    else if n = 4 ∧ d.alt ≠ 0 then ask s
    else s

/-- The target copy takes a shard's bytes. -/
def State.writeShard (s : State) (w : Nat) (d : Dist) (h : Shard) (bytes : List Byte) : State :=
  if d.target = 0 then
    let base := (((s.ward w).job.map (·.prog.bases)).getD []).getD (((s.ward w).baseGen.toNat + 1) % 2) 0
    s.wrStruct w (base.toNat + h.offset.toNat) bytes
  else
    let e := (s.ward w).registry.get d.target
    let ch := e.chunksOf (1 - e.liveCopy)
    let p := h.offset.toNat
    forEach (List.range ((p % chunkBytes + bytes.length + chunkBytes - 1) / chunkBytes)) s fun s j =>
      let lo := max p ((p / chunkBytes + j) * chunkBytes)
      let hi := min (p + bytes.length) ((p / chunkBytes + j + 1) * chunkBytes)
      if lo / chunkBytes < ch.length then s.writeVa w d.target (chunkAddr (s.ward w).hotBase ch lo) ((bytes.drop (lo - p)).take (hi - lo)) else s

/-- SHARD_ARRIVE (R324, step 3; R458 for the tag). A build that waits has no copy to write yet: the shard stays waiting. -/
def execShardArrive (w shard : Nat) (bytes : List Byte) (tagOk : Bool) (s : State) : Host.Outcome State Fault Refusal :=
  match (s.ward w).dist with
  | none => .next s
  | some d =>
    match d.shards[shard]? with
    | none => .next s
    | some h =>
      if !s.live ∨ d.held ∨ !h.to s.linkAddr ∨ d.st.get shard = .good then .next s
      else
        let good : Bool := tagOk && bytes.length == h.len && Config.sha256 bytes == h.digest
        let s := s.writeShard w d h (bytes.take h.len)
        let s := s.modWard w fun y => { y with dist := y.dist.map fun d => { d with st := d.st.set shard (if good then .good else .bad) } }
        .next (if good then s.distCheck w else s.retryShard w shard)

/-- END_OF_PASS (R324, step 4): shards that have not arrived are requested again. -/
def execEndOfPass (w : Nat) (s : State) : Host.Outcome State Fault Refusal :=
  match (s.ward w).dist with
  | none => .next s
  | some d =>
    if !s.live then .next s
    else .next (forEach ((List.range d.shards.length).filter fun k =>
      (d.shards.getD k default).to s.linkAddr && d.st.get k == .waiting) s fun s k => s.retryShard w k)

/-- SHARD_REQUEST (R324): the reader, or a module whose copy of the shard is good, sends it again. A module's requests after
its third reach the reader only once no other module could help: for those it reads the second port. -/
def execShardRequest (w shard fromAddr : Nat) (s : State) : Host.Outcome State Fault Refusal :=
  match (s.ward w).dist with
  | none => .next s
  | some d =>
    if s.live ∧ shard < d.shards.length ∧ fromAddr < 64 ∧ (d.reader ∨ d.st.get shard = .good) then
      let k := 64 * shard + fromAddr
      let alt : Bool := d.reader && d.alt != 0 && (d.onAlt || decide (3 ≤ d.asked.get k))
      let s := s.modWard w fun y =>
        { y with dist := if d.reader then some { d with asked := d.asked.set k (d.asked.get k + 1) } else y.dist,
                 distPort := if alt then incSat y.distPort else y.distPort }
      .next (s.sendShard w shard (1#64 <<< fromAddr) alt)
    else .next s

/-- DETAIL of a distribution that failed (R325; log entry 183): the lowest shard that this module lacks in bits [23:0], its
identity in bits [31:24]; where it lacks none, the shard and the module are others', whatever they are. -/
def State.distDetail (s : State) (d : Dist) : W32 × State :=
  match (List.range d.shards.length).find? fun k => (d.shards.getD k default).to s.linkAddr && d.st.get k != .good with
  | some k => (BitVec.ofNat 32 (k % 2 ^ 24 + s.linkAddr * 2 ^ 24), s)
  | none => let (n, s) := s.takeFresh; (Config.freeW32 n, s)

/-- A distribution fails (R325). -/
def State.failDist (s : State) (w : Nat) : State :=
  match (s.ward w).dist with
  | none => s
  | some d =>
    let (x, s) := s.distDetail d
    (s.modWard w fun y => { y with distFailed := incSat y.distFailed }).endDist w .shardBad x

/-- DISTRIBUTE_TIMEOUT (R325). -/
def execDistributeTimeout (w : Nat) (s : State) : Host.Outcome State Fault Refusal := .next (if s.live then s.failDist w else s)

/-- A host read of the reader's fails: it goes on through the second port, and where that has failed too, or no address was
named there, the command ends (R324, R325). -/
def State.readerTimeout (s : State) (w : Nat) : State :=
  match (s.ward w).dist with
  | none => s
  | some d =>
    if !s.live ∨ d.reader = false ∨ d.held then s
    else if d.alt ≠ 0 ∧ d.onAlt = false then (s.modWard w fun y => { y with dist := some { d with onAlt := true } }).sendPass w
    else s.failDist w

/-! ### Second copies and hinges (R319, R320) -/

/-- The manifest of a package in this module's host memory, as far as the memory's bytes tell. -/
def State.localManifest (s : State) (port source : Nat) : Manifest :=
  let at' (n : Nat) : Manifest := { sigOk := false, keyKnown := true, bytes := s.rdBytes (hostBase port source) n }
  let m := at' ((at' 128).entry (at' 128).count)
  { m with sigOk := Config.packageSigned m.bytes }

/-- PREPARE of the base builds from the package at `source`, which this module alone reads: the shards of its own identity
(log entry 184). -/
def State.prepareBase (s : State) (x : OpCtx) (source : W64) : State :=
  let y := s.ward x.w
  if y.basePrepJseq.isSome ∨ y.dist.isSome ∨ (y.baseState ≠ 0 ∧ y.baseState ≠ 3) then s.complete x.jseq .protection
  else
    let s := s.modWard x.w fun y => { y with basePrepJseq := some x.jseq }
    s.openDist x 0 source 0 (s.localManifest x.port source.toNat) true []

def State.doPrepare (s : State) (x : OpCtx) (c : Nat) (source _len : W64) : State :=
  let w := x.w
  let y := s.ward w
  let e := y.registry.get c
  if y.running = false then s.complete x.jseq .protection
  else if c = 0 then s.prepareBase x source
  else if e.st ≠ .registered ∨ e.nxt ∨ (e.train && (s.train w c).record.pub) then s.complete x.jseq .protection
  else
    let s := s.setReg w c fun e =>
      { e with nxt := true, nxtReady := false, nxtSrc := source.setWidth 48, prepareJseq := some x.jseq,
               nxtWaits := true }
    if y.oldHeld c then s
    else
      let s := s.tryCopy w c (1 - e.liveCopy) (source.setWidth 48) (.build c)
      s.setReg w c fun e => { e with nxtWaits := (e.chunksOf (1 - e.liveCopy)).isEmpty }

def execPrepare (src : Src) (target : Nat) (source length : W64) (s : State) : Host.Outcome State Fault Refusal :=
  .next (s.command src (.prepare target source length) fun x s => s.doPrepare x target source length)

def State.doSwitch (s : State) (x : OpCtx) (c wait : Nat) : State :=
  let w := x.w
  let y := s.ward w
  if c = 0 then
    if y.baseState = 1 ∨ y.baseState = 2 ∨ y.basePrepJseq.isSome then
      (s.modWard w fun y => { y with baseArmed := true }).complete x.jseq .ok
    else s.complete x.jseq .protection
  else if (y.registry.get c).nxt then
    (s.setReg w c fun e => { e with swArmed := true, swWait := wait ≠ 0 }).complete x.jseq .ok
  else s.complete x.jseq .protection

def execSwitch (src : Src) (target : Nat) (wait : Nat) (s : State) : Host.Outcome State Fault Refusal :=
  .next (s.command src (.switch target wait) fun x s => s.doSwitch x target wait)

/-! ### Timeouts (R260, R285, R325) -/

/-- PEER_TIMEOUT (R285). -/
def execPeerTimeout (u : Waiter) (x : LostAccess) (s : State) : Host.Outcome State Fault Refusal :=
  match u with
  | .chan c => s.chanTimeout c x.va .peer x.seen
  | .dev d => .next (s.devTimeout d x.va .peer x.seen)
  | .reader _ => .next s

/-- HOST_COMPLETION_TIMEOUT (R260): a host-tier read has no completion, or one that says unsupported request, completer abort
or poisoned data (R285; log entry 185). -/
def execHostCompletionTimeout (u : Waiter) (x : LostAccess) (s : State) : Host.Outcome State Fault Refusal :=
  match u with
  | .chan c => s.chanTimeout c x.va .host x.seen
  | .dev d => .next (s.devTimeout d x.va .host x.seen)
  | .reader w => .next (s.readerTimeout w)

end Sys2Proof.Machine
end

