-- ==== Sys2Proof/Machine/Domain.lean ====
section
/-! DEFINITION. The domain: takeovers (R394 to R398), roll call (R399 to R401), stop markers (R520), relayed
commands that come back (R389, R390). -/

namespace Sys2Proof.Machine
open Sys2Proof

/-! ### Takeover -/

/-- Row (m, s) of the takeover table. -/
def State.tkoRow (s : State) (m sb : Nat) : Option RouteEnt := (s.image.tko.find? fun r => r.m = m && r.s = sb).map (·.ent)

/-- Other addresses of the domain: identities and standby numbers with a valid entry. -/
def State.others (s : State) : List Nat := (List.range 68).filter fun a => (s.routeOf a).valid && !(s.routeOf a).loc && a != s.linkAddr

/-- The module with the lowest logical identity among those that are up: this one, or one that is reached (R395). -/
def State.coordOf (s : State) (m : Nat) : Nat :=
  ((List.range 64).find? fun a => a != m && (a == s.linkAddr || s.reachable a)).getD s.linkAddr

def State.isCoord (s : State) (m : Nat) : Bool := !s.standby && !s.modFenced && s.coordOf m == s.linkAddr

/-- Jobs that span identity `m` fault here: they stop issuing at once, and the next step point is their last
boundary (R398). -/
def State.faultSpanning (s : State) (m : Nat) (st : St) : State :=
  forEach (List.range 8) s fun s w =>
    let x := s.ward w
    if x.multi && ((x.job.map (·.prog.modules)).getD []).contains m then
      (s.jobFault w st).modWard w fun x => { x with mb := { x.mb with dead := true, lostMark := true } }
    else s

/-- R396 at one module: the entry is rewritten, TG is recorded, transfers to `m` are held. -/
def State.applyTko (s : State) (m sb tg : Nat) (verdict : Bool) : State :=
  let again : Bool := s.tkoLog.contains (m, sb)
  let s := { s with tg := tg, tkoLog := if again then s.tkoLog else s.tkoLog ++ [(m, sb)] }
  if s.linkAddr == m && again then s
  else if s.standby && s.linkAddr == 64 + sb then
    { s with linkAddr := m, standby := false, image := { s.image with plan := s.image.planOf.get m },
             routes := ((s.routes.set (64 + sb) {}).set m { valid := true, loc := true }) }
  else
    let s := match s.tkoRow m sb with
      | some e => { s with routes := s.routes.set m e }
      | none => s
    let s := { s with tko := some { m := m, s := sb, coord := match s.tko with | some t => t.coord && t.m == m | none => false,
                                    acks := [], jseq := match s.tko with | some t => t.jseq | none => none } }
    s.faultSpanning m (if verdict then .divergent else .tierFail)

/-- The standby that takes identity `m`: the one named, or the lowest free one that the table wires (R395). -/
def State.standbyFor (s : State) (m : Nat) (sb : Option Nat) : Option Nat :=
  let free (k : Nat) : Bool := (s.tkoRow m k).isSome && !(s.tkoLog.any fun e => e.2 = k)
  match sb with
  | some k => if free k then some k else none
  | none => (List.range 4).find? free

/-- The coordinator starts a takeover (R395, R397). -/
def State.startTko (s : State) (m : Nat) (sb jseq : Option Nat) (verdict : Bool) : State :=
  match s.standbyFor m sb with
  | none => match jseq with | some j => s.complete j .absent | none => s
  | some k =>
    let tg := s.tg + 1
    let s := s.report { cls := 0x0E, scope := 7, status := 0, unit := 0xA, die := 0, src := 3,
                        detail := BitVec.ofNat 128 ((if verdict then 1 else 0) + tg * 2 ^ 32) }
    let s := { s with tko := some { m := m, s := k, coord := true, jseq := jseq } }
    let s := s.applyTko m k tg verdict
    forEach (s.others.filter fun a => a ≠ m) s fun s a => s.ctl a (.tko a m k tg)

/-- Takeovers wait for the one in progress, in ascending identity. -/
def State.askTko (s : State) (m : Nat) (sb jseq : Option Nat) (verdict : Bool) : State :=
  if s.tko.isSome then
    { s with tkoQueue := insertBy (fun a b => decide (a.1 ≤ b.1)) (m, sb, jseq, verdict) s.tkoQueue }
  else s.startTko m sb jseq verdict

/-- The coordinator of a takeover in progress is gone, and this module comes next: it sends TKO again with a new TG (R397). -/
def State.resumeTko (s : State) : State :=
  match s.tko with
  | none => s
  | some t =>
    if t.coord ∨ s.isCoord t.m = false then s
    else
      let s := { s with tg := s.tg + 1, tko := some { t with coord := true, acks := [] } }
      forEach s.others s fun s a => s.ctl a (.tko a t.m t.s s.tg)

/-- R396: held transfers leave by the new route. -/
def State.releaseHeld (s : State) (m : Nat) : State :=
  let out := s.heldXfers.filter fun h => h.addr = m
  let s := { s with heldXfers := s.heldXfers.filter fun h => h.addr ≠ m }
  forEach out s fun s h => s.route h.flit h.payload h.own

/-- The takeover is over at this module; the coordinator goes on with the next. -/
def State.endTko (s : State) (m : Nat) : State :=
  let t := s.tko
  let s := { s with tko := none }.releaseHeld m
  match t with
  | none => s
  | some t =>
    if t.coord then
      let s := forEach (s.others.filter fun a => a ≠ 64 + t.s) s fun s a => s.ctl a (.tkoDone a t.m s.tg)
      let s := match t.jseq with | some j => s.complete j .ok | none => s
      match s.tkoQueue with
      | [] => s
      | (m, sb, j, v) :: r => { s with tkoQueue := r }.startTko m sb j v
    else s

/-- Every module that is asked has acknowledged. -/
def State.acked (s : State) (t : Takeover) : Bool := (s.others.filter fun a => a ≠ 64 + t.s).all fun a => t.acks.contains a

def State.doTakeover (s : State) (x : OpCtx) (m sb : Nat) (bytes : List Byte) : State :=
  if s.isCoord m then s.askTko m (if sb = 0xFF then none else some sb) (some x.jseq) false
  else s.sendRelay x.jseq (s.coordOf m) bytes

def execTakeover (src : Src) (m s' : Nat) (s : State) : Host.Outcome State Fault Refusal :=
  .next (s.command src (.takeover m s') fun x s => s.doTakeover x m s' (cmdBytes src (.takeover m s')))

/-- TKO (R396): a module applies the highest TG it has seen, and acknowledges. -/
def execTko (m s' tg : Nat) (verdict : Bool) (s : State) : Host.Outcome State Fault Refusal :=
  if !s.live ∨ tg ≤ s.tg ∨ 63 < m ∨ 3 < s' then .next s
  else
    let c := s.coordOf m
    .next ((s.applyTko m s' tg verdict).ctl c (.tkoAck c tg))

def execTkoAck (addr tg : Nat) (s : State) : Host.Outcome State Fault Refusal :=
  match s.tko with
  | some t =>
    if s.live ∧ t.coord ∧ tg = s.tg ∧ !t.acks.contains addr then
      let t := { t with acks := t.acks ++ [addr] }
      let s := { s with tko := some t }
      .next (if s.acked t then s.endTko t.m else s)
    else .next s
  | none => .next s

def execTkoDone (m tg : Nat) (s : State) : Host.Outcome State Fault Refusal :=
  match s.tko with
  | some t => if s.live ∧ !t.coord ∧ t.m = m ∧ tg = s.tg then .next (s.endTko m) else .next s
  | none => .next s

/-- R397: the coordinator completes the takeover without a silent module. -/
def execTkoAckTimeout (tg : Nat) (s : State) : Host.Outcome State Fault Refusal :=
  match s.tko with
  | some t => if s.live ∧ t.coord ∧ tg = s.tg then .next (s.endTko t.m) else .next s
  | none => .next s

/-- LOSS_TIMEOUT (R394). -/
def execLossTimeout (m : Nat) (s : State) : Host.Outcome State Fault Refusal :=
  if s.live ∧ s.image.autoLoss ∧ m < 64 ∧ m ≠ s.linkAddr ∧ (s.routeOf m).valid ∧ !s.reachable m ∧ s.isCoord m then
    .next (s.askTko m none none false)
  else .next s

/-! ### Roll call (R399 to R401) -/

/-- SHA-256 of the job's BEAT_LEN, BEA_HOLD_MAX, BEA_CLOSE.STEPS, base generation and adapter generations (R399). -/
def Ward.jobRoll (x : Ward) : BitVec 256 :=
  Config.sha256 (toLE 4 (x.reg oBeaLen) ++ toLE 4 (x.reg oBeaHoldMax) ++ toLE 4 (x.reg oBeaClose) ++ toLE 2 x.baseGen.toNat ++
    (x.registry.filter fun e => e.2.st ≠ .free).flatMap fun e => toLE 2 e.1 ++ toLE 2 e.2.gen.toNat)

/-- The live table is the plan's for the current TG. -/
def State.routesPlanned (s : State) : Bool :=
  s.routes == s.tkoLog.foldl (fun t e => match s.tkoRow e.1 e.2 with | some r => t.set e.1 r | none => t) s.image.routes

def State.rollOwn (s : State) : RollRec :=
  { addr := s.linkAddr, selfBad := !s.standby && !s.tkoLog.any (fun e => e.1 = s.linkAddr) && !s.routesPlanned, tg := s.tg, tick := s.tick,
    img := s.sec.cfgDigest,
    dom := Config.sha256 (s.image.devmap.flatMap (fun e => toLE 1 e.1 ++ toLE 32 e.2.toNat) ++ toLE 4 s.tg ++ toLE 32 s.sec.cfgDigest.toNat),
    jobs := (List.range 8).filterMap fun w =>
      let x := s.ward w
      if x.running ∧ x.multi then some (w, (x.masterId, x.jobRoll)) else none }

/-- The record as it travels: 400 bytes, two flits (R399). -/
def rollBytes (r : RollRec) : List Byte :=
  toLE 1 r.addr ++ toLE 1 (bit r.selfBad 0) ++ toLE 2 0 ++ toLE 4 r.tg ++ toLE 8 r.tick ++ toLE 32 r.img.toNat ++ toLE 32 r.dom.toNat ++
  (List.range 8).flatMap fun w => match r.jobs.find? fun j => j.1 = w with
    | some j => toLE 1 w ++ toLE 1 j.2.1 ++ toLE 6 0 ++ toLE 32 j.2.2.toNat
    | none => toLE 40 0

/-- The value held by most records; a tie goes to the lowest address among the tied. -/
def rollRef {α : Type} [DecidableEq α] (l : List (Nat × α)) : Option α :=
  (sortBy (fun a b => decide (a.1 ≤ b.1)) l).foldl (fun best e =>
    let n (v : α) := (l.filter fun x => x.2 = v).length
    match best with
    | none => some e.2
    | some b => if n b < n e.2 then some e.2 else some b) none

/-- Records that arrived within two periods, and the module's own; records of a lower TG are left out. -/
def State.rollCurrent (s : State) : List RollRec :=
  s.rollOwn :: (s.rollRecs.filter fun e => decide (s.rollSends ≤ s.rollAt.get e.1 + 2) && decide (s.tg ≤ e.2.tg)).map (·.2)

def rollMask (l : List Nat) : W64 := l.foldl (fun m a => if a < 64 then m ||| (1#64 <<< a) else m) 0

/-- Identities that are divergent (R400, steps 2 and 3). -/
def State.rollDivergent (s : State) : List Nat :=
  let cur := s.rollCurrent
  let ri := rollRef (cur.map fun r => (r.addr, r.img))
  let rd := rollRef (cur.map fun r => (r.addr, r.dom))
  (cur.filter fun r => r.selfBad || some r.img != ri || some r.dom != rd).map (·.addr)

/-- The job that ward `w` is part of shows different digests among its modules (R400, step 4). -/
def State.jobDiverges (s : State) (w : Nat) : Bool :=
  let x := s.ward w
  let ms := (x.job.map (·.prog.modules)).getD []
  let ds := s.rollCurrent.flatMap fun r => 
    if ms.contains r.addr then (r.jobs.filter fun j => j.1 = (if r.addr = s.linkAddr then w else x.peerWard r.addr) && j.2.1 = x.masterId).map fun j => j.2.2 else []
  x.running && x.multi && ds.any fun d => d ≠ x.jobRoll

def State.rollReport (s : State) (detail : Nat) : State :=
  s.report { cls := 0x0C, scope := 7, status := 0, unit := 0xA, die := 0, src := 3, detail := BitVec.ofNat 128 detail }

/-- The evaluation at a sending time. -/
def State.rollEval (s : State) : State :=
  let cur := s.rollCurrent.map (·.addr)
  let silent := s.others.filter fun a => !cur.contains a
  let div := s.rollDivergent
  let dm := rollMask div
  let sm := rollMask silent
  let s := { s with rollRounds := s.rollRounds + 1, rollDiv := dm, rollSilent := sm, rollSelfDiv := div.contains s.linkAddr,
                    rollSelfBad := s.rollOwn.selfBad }
  let s := forEach (div ++ silent) s fun s _ => s.rollReport (dm.toNat + sm.toNat * 2 ^ 64)
  forEach (List.range 8) s fun s w =>
    let x := s.ward w
    let bad := s.jobDiverges w
    let s := if bad then s.rollReport (dm.toNat + sm.toNat * 2 ^ 64) else s
    if x.running ∧ x.multi ∧ x.master ∧ (bad ∨ ((x.job.map (·.prog.modules)).getD []).any div.contains) then
      { s.modWard w fun x => { x with mb := { x.mb with rollHeld := true } } with rollHeld := s.rollHeld ||| (1#8 <<< w) }
    else s

def execRollcallSend (s : State) : Host.Outcome State Fault Refusal :=
  if !s.live then .next s
  else
    let own := s.rollOwn
    let s := forEach s.others { s with rollSends := s.rollSends + 1 } fun s a => s.ctlBytes a (.rollcall a own) (rollBytes own)
    .next (if s.tko.isSome then s else s.rollEval)

/-- A record arrives; ports that a stop marker removed come back (R520). -/
def execRollcallRecord (r : RollRec) (s : State) : Host.Outcome State Fault Refusal :=
  if !s.live ∨ 67 < r.addr then .next s
  else
    .next { s with rollRecs := s.rollRecs.set r.addr r, rollAt := s.rollAt.set r.addr s.rollSends,
                   links := s.links.map fun (e : Nat × Link) => if e.2.peerAddr = r.addr then (e.1, { e.2 with stopped := false }) else e }

def State.doRollcallClear (s : State) (x : OpCtx) : State :=
  if (s.ward x.w).master ∧ (s.ward x.w).mb.rollHeld then
    ({ s.modWard x.w fun y => { y with mb := { y.mb with rollHeld := false } } with rollHeld := s.rollHeld &&& ~~~(1#8 <<< x.w) }).complete x.jseq .ok
  else s.complete x.jseq .protection

def execRollcallClear (src : Src) (s : State) : Host.Outcome State Fault Refusal :=
  .next (s.command src .rollcallClear fun x s => s.doRollcallClear x)

/-! ### Stop markers (R520) -/

def execStopMarker (sender : Nat) (_ev : Byte) (s : State) : Host.Outcome State Fault Refusal :=
  if !s.live ∨ 67 < sender then .next s
  else
    let s := { s with links := s.links.map fun (e : Nat × Link) => if e.2.peerAddr = sender then (e.1, { e.2 with stopped := true }) else e }
    .next (s.faultSpanning sender .supply)

/-! ### Relayed commands (R389, R390) -/

/-- A completion comes back. A distribution ends when every receiver has reported (R324). -/
def execRelayCompletion (jseq : Nat) (status : St) (detail : W32) (s : State) : Host.Outcome State Fault Refusal :=
  if !s.live then .next s
  else if s.relays.any fun r => r.jseq = jseq then
    .next ({ s with relays := s.relays.filter fun r => r.jseq ≠ jseq }.complete jseq status detail)
  else
    match (List.range 8).find? fun w => match (s.ward w).dist with | some d => d.jseq == jseq && d.reader && decide (0 < d.waits) | none => false with
    | none => .next s
    | some w =>
      if status = .ok then
        .next ((s.modWard w fun y => { y with dist := y.dist.map fun d => { d with waits := d.waits - 1 } }).distCheck w)
      else .next ((s.modWard w fun y => { y with distFailed := incSat y.distFailed }).endDist w .shardBad detail)

/-- LNK_CTL_TMO expires on a relayed command. -/
def execRelayTimeout (jseq : Nat) (s : State) : Host.Outcome State Fault Refusal :=
  if s.live ∧ (s.relays.any fun r => r.jseq = jseq) then
    .next ({ s with relays := s.relays.filter fun r => r.jseq ≠ jseq }.complete jseq .tierFail)
  else .next s

end Sys2Proof.Machine
end

