-- ==== Sys2Proof/Machine/Training.lean ====
section
/-! DEFINITION. The training commands and step operations (R328 to R362, R366): checks of a training record, the
states of a step, votes, digests and their verdicts, checkpoints, rollback, peer restart. -/

namespace Sys2Proof

/-! ### The record (R331 to R334, R362) -/

/-- D of the record; 0 selects 32. -/
def TrainRec.interval (r : TrainRec) : Nat := if r.d = 0 then 32 else r.d

/-! The layout of the record, its groups and its tensor table (R331 to R333), little-endian. -/

/-- The field of `n` bytes at offset `k`. -/
def leAt (b : List Byte) (k n : Nat) : Nat := Machine.leNat ((b.drop k).take n)

/-- Bytes `k` to `k + n - 1` are zero. -/
def zeroAt (b : List Byte) (k n : Nat) : Bool := ((b.drop k).take n).all fun x => x = 0

/-- A group record. -/
def TrainGroup.ofBytes (b : List Byte) : TrainGroup :=
  let f (k : Nat) : W32 := BitVec.ofNat 32 (leAt b k 4)
  { rule := leAt b 0 1, sites := (List.range (leAt b 1 1)).map fun k => leAt b (32 + 2 * k) 2, lrm := f 4, b1 := f 8, b2 := f 12, eps := f 16,
    wd := f 20, da := f 24, dr := f 28 }

/-- A tensor-table entry. -/
def Tensor.ofBytes (b : List Byte) : Tensor :=
  { die := leAt b 0 1, group := leAt b 1 1, role := leAt b 2 1, partner := leAt b 4 4, rows := leAt b 8 4, cols := leAt b 12 4, off := leAt b 16 8,
    goff := leAt b 24 8, ioff := leAt b 32 8, cw := BitVec.ofNat 16 (leAt b 40 2) }

/-- Entries of `n` bytes each. -/
def entriesOf (n : Nat) (b : List Byte) : List (List Byte) := (List.range (b.length / n)).map fun k => (b.drop (n * k)).take n

/-- The record of header `b` with the tensor table `tb`. An address beyond the ward's address space counts with the reserved
bytes (log entry 3). -/
def TrainRec.ofBytes (b tb : List Byte) : TrainRec :=
  let fl := leAt b 1 1
  let gs := (List.range (leAt b 0 1 + 1)).map fun g => (b.drop (256 + 48 * g)).take 48
  let ts := entriesOf 48 tb
  let a (k : Nat) : Addr := BitVec.ofNat 48 (leAt b k 6)
  { pub := fl.testBit 0, pubWait := fl.testBit 1, steer := fl.testBit 2, d := leAt b 2 2, c := leAt b 4 2, pubn := leAt b 6 2,
    clip := BitVec.ofNat 32 (leAt b 8 4), smin := BitVec.ofNat 32 (leAt b 12 4), ks := BitVec.ofNat 32 (leAt b 16 4), tt := a 24, loss := a 32,
    nloss := leAt b 40 4, half := leAt b 48 8, acc := leAt b 56 8, img := leAt b 64 8, start := leAt b 72 8, report := a 80,
    state := (List.range 8).foldl (fun m n => m.set n (a (128 + 8 * n))) [],
    groups := gs.map TrainGroup.ofBytes, tensors := ts.map Tensor.ofBytes,
    reservedZero := decide (fl < 8) && zeroAt b 44 4 && zeroAt b 88 40 && zeroAt b 192 64 && (gs.all fun g => zeroAt g 2 2) &&
      (ts.all fun t => zeroAt t 3 1 && zeroAt t 42 6) &&
      ([24, 32, 80] ++ (List.range 8).map fun n => 128 + 8 * n).all fun k => zeroAt b (k + 6) 2 }

def TrainGroup.legal (g : TrainGroup) : Bool :=
  decide (g.rule ≤ 3) && decide (g.sites.length ≤ 8) && g.sites.all fun k => decide (k < 1024)

/-- Bytes of a tensor's image: whole plates, the innermost dimension filled up (R334). -/
def Tensor.imgBytes (t : Tensor) : Nat :=
  let c := Machine.cwOf t.cw
  if c.square then (t.rows + 31) / 32 * ((t.cols + 31) / 32) * Machine.squarePlateSize c.fmt
  else t.rows * ((t.cols + 511) / 512) * Machine.linePlateSize c.fmt

/-- Byte ranges that a tensor takes in its die's half, accumulator and image. -/
def TrainRec.ranges (r : TrainRec) (t : Tensor) : List (Nat × Nat) :=
  [(t.off, t.stateBytes (r.rule t)), (t.goff, 4 * t.n), (t.ioff, t.imgBytes)]

def rangesMeet (a b : Nat × Nat) : Bool := decide (a.1 < b.1 + b.2) && decide (b.1 < a.1 + a.2)

/-- The partner rules of a low-rank pair. -/
def TrainRec.pairOk (r : TrainRec) (k : Nat) (t : Tensor) : Bool :=
  let p := r.rule t = 3
  if t.role = 1 then
    p && (match r.tensors[t.partner]? with
      | none => false
      | some u => t.partner != k && u.role == 1 && u.partner == k && u.group == t.group && u.die == t.die && u.rows == t.rows && decide (t.rows ≤ 64))
  else !p

def TrainRec.tensorOk (r : TrainRec) (held : Nat → Bool) (k : Nat) (t : Tensor) : Bool :=
  let c := Machine.cwOf t.cw
  held t.die && decide (t.group < r.groups.length) && decide (t.role ≤ 1) && decide (0 < t.rows) && decide (0 < t.cols) &&
  t.off % 64 == 0 && t.goff % 64 == 0 && t.ioff % 16 == 0 && c.legal && !c.supplied && c.rnd == .rne &&
  decide (t.off + t.stateBytes (r.rule t) ≤ r.half) && decide (t.goff + 4 * t.n ≤ r.acc) && decide (t.ioff + t.imgBytes ≤ r.img) &&
  r.pairOk k t

/-- Tensors of one die do not overlap. -/
def TrainRec.apart (r : TrainRec) : Bool :=
  (r.tensors.zipIdx).all fun (t, i) => (r.tensors.zipIdx).all fun (u, j) =>
    decide (j ≤ i) || t.die != u.die || !(((r.ranges t).zip (r.ranges u)).any fun (a, b) => rangesMeet a b)

def TrainRec.headOk (r : TrainRec) : Bool :=
  r.reservedZero && decide (1 ≤ r.groups.length) && decide (r.groups.length ≤ 16) && r.groups.all (·.legal) && decide (r.d ≤ 1024) &&
  decide (0 < r.c) && r.c % r.interval == 0 && (!r.pub || (decide (1 ≤ r.pubn) && decide (r.pubn ≤ 65535))) &&
  !Machine.f32IsNan r.smin && !Machine.f32Lt r.smin 0 && !Machine.f32Lt Machine.f32One r.smin && !Machine.f32IsNan r.ks &&
  !Machine.f32Lt r.ks 0 && decide (1 ≤ r.tensors.length) && decide (r.tensors.length ≤ 65536) && decide (1 ≤ r.nloss) &&
  decide (r.nloss ≤ 65536) && r.half % 64 == 0 && r.acc % 64 == 0 && r.img % 64 == 0 && r.tt.toNat % 64 == 0 &&
  (List.range 8).all fun d => (r.state.get d).toNat % 64 == 0

/-- Regions that the record names: windows, tensor table, loss area, report ring. -/
def TrainRec.regions (r : TrainRec) : List (Nat × Nat) :=
  [(r.tt.toNat, 48 * r.tensors.length), (r.loss.toNat, 4 * r.nloss), (r.report.toNat, 64 * 256)] ++
  r.dies.map fun d => (r.win d, 4 * r.half + r.acc + 2 * r.img)

end Sys2Proof

namespace Sys2Proof.Machine
open Sys2Proof

/-- Every page of a range carries a key slot of the context (R328). -/
def State.keyedBy (s : State) (w c va n : Nat) : Bool :=
  (List.range ((va % 2 ^ 21 + n + 2 ^ 21 - 1) / 2 ^ 21)).all fun k =>
    match (s.ward w).walk (va / 2 ^ 21 * 2 ^ 21 + k * 2 ^ 21) with
    | some l => !l.alloc && (s.slotMembers l.kslot).contains c && (s.slot l.kslot).ward == w
    | none => false

/-- Every byte of a range can be read under context `c`. -/
def State.readable (s : State) (w c va n : Nat) : Bool := (pieces va n).all fun (a, _) => match s.xlate w c a false with
  | .ok _ => true
  | .error _ => false

/-- The record at `va` with its tensor table, read under context `c`; none where an access fails, meets poison, or the table
has no legal length (log entry 3). -/
def State.readRecord (s : State) (w c va : Nat) : State × Option TrainRec :=
  if s.readable w c va 1024 = false then (s, none)
  else
    let (s, h) := s.readVa w c va 1024
    let nt := leAt h.bytes 20 4
    let tt := leAt h.bytes 24 6
    if h.bad.any id ∨ nt = 0 ∨ 65536 < nt ∨ s.readable w c tt (48 * nt) = false then (s, none)
    else
      let (s, b) := s.readVa w c tt (48 * nt)
      (s, if b.bad.any id then none else some (TrainRec.ofBytes h.bytes b.bytes))

def State.recordOk (s : State) (w c : Nat) (r : TrainRec) : Bool :=
  r.headOk && ((r.tensors.zipIdx).all fun (t, k) => r.tensorOk (s.ward w).holds k t) && r.apart &&
  r.regions.all fun (a, n) => s.keyedBy w c a n

def Ward.nrep (x : Ward) : Nat := (x.job.map (·.prog.nrep)).getD 1
def Ward.replica (x : Ward) : Nat := (x.job.map (·.prog.index)).getD 0

/-- The context trains: TRAIN_START has taken it and its training is not over. -/
def Train.active (t : Train) : Bool := t.st != .off || t.starting || t.peerMode

/-- The half that is committed. -/
def Train.half (t : Train) : Nat := if t.sh then 1 else 0

/-! ### Digests and rounds (R352 to R354) -/

/-- Every other module of the run: of the other replicas and of this one. -/
def State.runModules (s : State) (w : Nat) : List Nat :=
  ((((s.ward w).job.map fun j => j.prog.replicas.flatten.map (·.1)).getD [] ++ s.ownModules w).filter (· ≠ s.linkAddr)).dedup

/-- A message of a step operation to modules `ms`, over the control channel (R338, R352, R373). -/
def State.tell (s : State) (ms : List Nat) (o : Output) : State := if ms = [] then s else s.uncount (forEach ms (s.emit o) State.ctlFlit)

/-- A module's digests of a step are kept; those of this replica's modules come together. -/
def Train.keepDigest (t : Train) (x : DigestIn) : Train :=
  { t with digests := (t.digests.filter fun y => !(y.replica == x.replica && y.step == x.step)) ++ [x] }

/-- Digests of this replica, together with those that are kept of the same step. -/
def Train.joined (t : Train) (x : DigestIn) : DigestIn :=
  match t.digests.find? fun y => y.replica == x.replica && y.step == x.step with
  | some y => joinDigest y x
  | none => x

/-- This module's digests of a step are kept and go to the modules that need them: its own dies' to its replica's modules, and
the whole replica's, once it has them, to every other module (R352, log entry 41). -/
def State.tellDigest (s : State) (w c : Nat) (x : DigestIn) : State :=
  let y := (s.train w c).joined x
  let s := (s.modTrain w c fun t => t.keepDigest y).tell (s.otherModules w) (.digest c x)
  if s.wholeDigest w y ∧ s.leads w then s.tell ((s.runModules w).filter fun m => !(s.ownModules w).contains m) (.digest c y) else s

/-- The round of step `n` is held with the digests `x` of this module's dies. -/
def State.holdRound (s : State) (w c n : Nat) (x : DigestIn) : State :=
  (s.modTrain w c fun t => { t with pendRounds := t.pendRounds ++ [n] }).tellDigest w c x

/-- The digests of step `n`, in replica order. -/
def Train.roundOf (t : Train) (n : Nat) : List DigestIn :=
  sortBy (fun a b => decide (a.replica ≤ b.replica)) (t.digests.filter fun y => y.step = n)

/-- The digest that more than half of `nrep` replicas share. -/
def majority (nrep : Nat) (ds : List DigestIn) : Option (BitVec 256) :=
  (ds.map (·.dig)).find? fun v => decide (nrep < 2 * (ds.filter fun d => d.dig = v).length)

/-- Identities that a majority verdict fences for a minority replica (R353). -/
def fencedOf (maj : DigestIn) (d : DigestIn) : List Nat :=
  let bad := (d.dies.zip maj.dies).filterMap fun (a, b) => if a.2 = b.2 then none else some (a.1 / 8)
  if bad = [] then [(d.dies.headD (0, 0)).1 / 8] else bad.dedup

/-- R362, R356: a rollback is due at this boundary. -/
def State.askRollback (s : State) (w c : Nat) (st : Byte) (hold : Bool) : State :=
  s.modTrain w c fun t => { t with rollbackDue := some (t.rollbackDue.getD st), runHold := t.runHold || hold }

/-- A module fenced by a verdict: its own jobs fault, the coordinator replaces it (R357, R394). -/
def State.fenceModule (s : State) (w m : Nat) : State :=
  let s := s.modWard w fun x => { x with modsFenced := BitVec.ofNat 8 (satAdd 8 x.modsFenced.toNat 1) }
  let s := s.report { cls := 0x0E, scope := 7, status := St.divergent.code, ward := w, unit := 0xA, die := (s.ward w).lowDie, src := 3,
                      detail := BitVec.ofNat 128 (m + s.tg * 2 ^ 32) }
  if m = s.linkAddr then forEach (List.range 8) { s with modFenced := true } fun s k => s.jobFault k .divergent
  else if s.isCoord m then s.askTko m none none true else s

/-- Every replica's digests agree. -/
def State.roundGood (s : State) (w c n : Nat) : State :=
  (s.modTrain w c fun t =>
    { (t.verify n) with pendRounds := t.pendRounds.filter (· ≠ n), repeatStep := if t.repeatStep = some n then none else t.repeatStep,
                        rehash := false }).modWard w fun x => { x with rounds := incSat x.rounds }

def State.roundOver (s : State) (w c n : Nat) : State :=
  (s.modTrain w c fun t => { t with pendRounds := t.pendRounds.filter (· ≠ n), rehash := false }).modWard w fun x => { x with rounds := incSat x.rounds }

/-- The verdict of the round of step `n` (R353, R354). -/
def State.decideRound (s : State) (w c n : Nat) : State :=
  let x := s.ward w
  let t := s.train w c
  let ds := t.roundOf n
  if ds.length < x.nrep ∨ t.rehash ∨ !((ds.filter fun y => y.replica = x.replica).all (s.wholeDigest w)) then s
  else if ds.all fun d => some d.dig = (ds.head?.map (·.dig)) then s.roundGood w c n
  else if x.nrep = 2 then
    if t.repeatStep = some n then (s.roundOver w c n).faultTraining w c .divergent
    else (s.modTrain w c fun t => { t with rehash := true }).updWork w c .rehash
  else match majority x.nrep ds with
    | some v =>
      let maj := (ds.find? fun d => d.dig = v).getD default
      let s := s.roundOver w c n
      let lost := ds.filter fun d => d.dig ≠ v
      let s := forEach (lost.flatMap (fencedOf maj)).dedup s fun s m => s.fenceModule w m
      if lost.any fun d => d.replica = x.replica then s.jobFault w .divergent
      else s.askRollback w c St.divergent.code true
    | none =>
      let s := s.roundOver w c n
      if t.repeatStep = some n then s.faultTraining w c .divergent
      else (s.modTrain w c fun t => { t with repeatStep := some n }).askRollback w c St.divergent.code false

/-! ### The states of a step (R339 to R343) -/

/-- Pass one begins: the step consumes the posted pair (R340). -/
def State.startPassOne (s : State) (w c : Nat) : State :=
  (s.modTrain w c fun t =>
    let mine : Option W32 := match t.posted with | some (n, lr) => if n % 2 ^ 32 = t.n % 2 ^ 32 then some lr else none | none => none
    { t with st := .pass1, posted := if mine.isSome then none else t.posted, scal := { t.scal with lr := mine.getD t.scal.lr } }).updWork w c .pass1

/-! The ring (R337): chunks of a die's gradient elements in accumulator order. -/

end Sys2Proof.Machine

namespace Sys2Proof

/-- The gradients of die `d` in accumulator order: address, number of the first element, elements. -/
def TrainRec.gradRuns (r : TrainRec) (d : Nat) : List (Nat × Nat × Nat) :=
  ((Machine.sortBy (fun a b => decide (a.goff ≤ b.goff)) ((r.on d).map (·.2))).foldl
    (fun (l, e) t => (l ++ [(r.accVa d + t.goff, e, t.n)], e + t.n)) (([] : List (Nat × Nat × Nat)), 0)).1

/-- q: elements of a chunk. -/
def TrainRec.chunkLen (r : TrainRec) (d nrep : Nat) : Nat := (((r.gradRuns d).map (·.2.2)).sum + nrep - 1) / nrep

/-- Chunk `j`: addresses and elements. -/
def TrainRec.chunk (r : TrainRec) (d nrep j : Nat) : List (Nat × Nat) :=
  let q := r.chunkLen d nrep
  (r.gradRuns d).filterMap fun (va, e, n) =>
    let lo := max e (j * q)
    let hi := min (e + n) ((j + 1) * q)
    if lo < hi then some (va + 4 * (lo - e), hi - lo) else none

/-- The chunk in which an address lies. -/
def TrainRec.chunkAt (r : TrainRec) (d nrep va : Nat) : Option Nat :=
  ((r.gradRuns d).find? fun (a, _, n) => decide (a ≤ va) && decide (va < a + 4 * n)).map fun (a, e, _) => (e + (va - a) / 4) / r.chunkLen d nrep

end Sys2Proof

namespace Sys2Proof.Machine
open Sys2Proof

/-- The module of replica `k` that stands where this one stands in its own. -/
def State.twin (s : State) (w k : Nat) : Option Nat := (s.ward w).job.bind fun j =>
  ((j.prog.replicas.getD k [])[((j.prog.replicas.getD j.prog.index []).map (·.1)).idxOf s.linkAddr]?).map (·.1)

/-- Chunk `j` of die `d` leaves for the next replica: a transfer for each run of it, with operation ADD or COPY (R392). -/
def State.sendChunk (s : State) (w c d j : Nat) (copy : Bool) : State :=
  let x := s.ward w
  match s.twin w ((x.replica + 1) % x.nrep) with
  | none => s
  | some m =>
    s.uncount (forEach ((s.train w c).record.chunk d x.nrep j) s fun s (va, n) =>
      let (y, s) := s.sender w c m
      let (s, g) := s.rdF w c va n
      s.sendXfer y 5 2 (xferHeader va (4 * n + (if copy then 2 ^ 62 else 0)) ++ g.flatMap fun (v : W32) => toLE 4 v.toNat))

/-- `n` bytes at `va` have come from the ring: a chunk that is whole goes on, as a sum until every replica's part is in it,
as a copy until every replica has it. -/
def State.reduceTook (s : State) (w c va n : Nat) (copy : Bool) : State :=
  let x := s.ward w
  let t := s.train w c
  let r := t.record
  match r.dies.findSome? fun d => (r.chunkAt d x.nrep va).map fun j => (d, j) with
  | none => s
  | some (d, j) =>
    if t.st ≠ .reduce then s
    else
      let k := (64 * d + j) * 2 + copy.toNat
      let got := t.redGot.get k + n
      let s := s.modTrain w c fun t => { t with redGot := t.redGot.set k got }
      if got ≠ 4 * ((r.chunk d x.nrep j).map (·.2)).sum ∨ (copy ∧ j = (x.replica + 2) % x.nrep) then s
      else s.sendChunk w c d j (copy || j == (x.replica + 1) % x.nrep)

/-- An armed step whose number is posted goes on: to the reduction, whose first chunks leave, or with one replica to pass
one. -/
def State.tryReduce (s : State) (w c : Nat) : State :=
  let t := s.train w c
  match t.st, t.posted with
  | .armed, some (n, lr) =>
    if n % 2 ^ 32 ≠ t.n % 2 ^ 32 then s
    else if (s.ward w).nrep = 1 then s.startPassOne w c
    else forEach t.record.dies (s.modTrain w c fun t => { t with st := .reduce, redGot := [], scal := { t.scal with lr := lr } }) fun s d =>
      s.sendChunk w c d (s.ward w).replica false
  | _, _ => s

/-- Counts of the steering sites since the last arming (R350). -/
def State.steerCounts (s : State) (w c : Nat) : Tab (Nat × Nat × Nat) × Tab (Nat × Nat × Nat) :=
  let t := s.train w c
  let keys (g : TrainGroup) := (s.ward w).dieList.flatMap fun d => g.sites.map fun k => d * 1024 + k
  let cur (k : Nat) : Nat × Nat × Nat := let y := s.sites.get k; (y.saturated.toNat, y.vanished.toNat, y.total.toNat)
  let diff (a b : Nat) : Nat := if a < b then a else a - b
  let one (k : Nat) : Nat × Nat × Nat :=
    let x := cur k
    let y := t.kept.get k
    (diff x.1 y.1, diff x.2.1 y.2.1, diff x.2.2 y.2.2)
  let sums := (t.record.groups.zipIdx).foldl (fun (m : Tab (Nat × Nat × Nat)) (g, i) =>
    m.set i ((keys g).foldl (fun a k => let y := one k; (a.1 + y.1, a.2.1 + y.2.1, a.2.2 + y.2.2)) (0, 0, 0))) []
  let kept := (t.record.groups.flatMap keys).foldl (fun (m : Tab (Nat × Nat × Nat)) k => m.set k (cur k)) t.kept
  (sums, kept)

/-- The replica's other modules have completed their last slices: how this one learns it the spec does not say, so with other
modules it is a free value at each boundary (log entry 41). -/
def State.othersArmed (s : State) (w : Nat) : Bool × State :=
  if s.otherModules w = [] then (true, s)
  else
    let (k, s) := s.takeFresh
    ((Config.freeByte k).getLsbD 0, s)

/-- ACCUM to ARMED at a boundary: every die has completed its last slice. -/
def State.arm (s : State) (w c : Nat) : State :=
  let (ready, s) := s.othersArmed w
  let t := s.train w c
  if ready ∧ t.st = .accum ∧ t.record.dies ≠ [] ∧ t.record.dies.all t.lastDies.contains then
    let (sums, kept) := if t.record.steer then s.steerCounts w c else ([], t.kept)
    (s.modTrain w c fun t => { t with st := .armed, armBeat := (s.ward w).num, steer := sums, kept := kept }).tryReduce w c
  else s

/-- Steering factor of group `g` from every replica's counts (R350). -/
def Train.steerFactor (t : Train) (g : Nat) : W32 :=
  if t.record.steer ∧ ((t.record.groups[g]?).map (·.sites)).getD [] ≠ [] then
    steerOf t.record.smin t.record.ks (t.votes1.foldl (fun (a : Nat × Nat × Nat) v =>
      let y := v.steer.get g; (a.1 + y.1, a.2.1 + y.2.1, a.2.2 + y.2.2)) (0, 0, 0))
  else f32One

def sortVotes (l : List VoteIn) : List VoteIn := sortBy (fun a b => decide (a.replica ≤ b.replica)) l

/-- The step names what failed, and is abandoned (R344). -/
def State.failStep (s : State) (w c : Nat) (st : St) (v : Option VoteIn) : State :=
  (s.modTrain w c fun t => match v with
    | some v => { t with scal := { t.scal with badGroup := v.group, badTensor := BitVec.ofNat 32 v.tensor, badElem := BitVec.ofNat 32 v.elem } }
    | none => t).abandonStep w c st.code

/-- Poison in the master state of a replica: the step is abandoned and the run rolls back, without fencing (R344). -/
def State.failMaster (s : State) (w c : Nat) : State := (s.failStep w c .poison none).askRollback w c St.poison.code false

/-- Every replica has voted. -/
def Ward.allVoted (x : Ward) (vs : List VoteIn) : Bool := (List.range x.nrep).all fun r => vs.any fun v => v.replica = r

/-- The vote of pass one, once every replica's has arrived (R341). The reported loss and step factor are those of the vote,
whatever its outcome (R351). -/
def State.decideVote1 (s : State) (w c : Nat) : State :=
  let t := s.train w c
  let vs := sortVotes t.votes1
  if t.st ≠ .pass1 ∨ (s.ward w).allVoted vs = false then s
  else
    let loss := match vs with | [] => 0 | v :: r => r.foldl (fun a v => f32Add a v.loss) v.loss
    let smin := (List.range t.record.groups.length).foldl (fun a g => let y := t.steerFactor g; if f32Lt y a then y else a) f32One
    let s := s.modTrain w c fun t => { t with votes1 := vs, scal := { t.scal with loss := loss, sMin := smin } }
    if vs.any (·.master) then s.failMaster w c
    else match vs.find? fun v => !v.finite with
      | some v => s.failStep w c (if v.poison then .poison else .nonfinite) (some v)
      | none =>
        if vs.any fun v => some v.lr ≠ (vs.head?.map (·.lr)) then s.failStep w c .divergent none
        else (s.modTrain w c fun t => { t with st := .pass2 }).updWork w c .pass2

/-- The alternate half and its image hold nothing of the step any more. -/
def State.dropAlternate (s : State) (w c : Nat) : State :=
  let t := s.train w c
  let r := t.record
  forEach r.dies s fun s d => (s.freeVa w c (r.halfVa d (1 - t.half)) r.half).freeVa w c (r.imgVa d (1 - t.half)) r.img

/-- The reports of pass two (R342, R344). -/
def State.decideVote2 (s : State) (w c : Nat) : State :=
  let t := s.train w c
  let vs := sortVotes t.votes2
  if t.st ≠ .pass2 ∨ (s.ward w).allVoted vs = false ∨ !t.passed2 then s
  else if vs.any (·.master) then (s.dropAlternate w c).failMaster w c
  else match vs.find? fun v => !v.finite with
    | none => (s.modTrain w c fun t => { t with st := .commit }).updIdle w c
    | some v =>
      let s := s.dropAlternate w c
      let s := if vs.any (·.finite) then s.modWard w fun x => { x with split := incSat x.split } else s
      s.failStep w c .nonfinite (some v)

/-- A vote is kept; a replica's later vote takes the place of its earlier one. -/
def State.takeVote (s : State) (w c : Nat) (v : VoteIn) : State :=
  if v.pass = 1 then
    (s.modTrain w c fun t => { t with votes1 := (t.votes1.filter fun y => y.replica ≠ v.replica) ++ [v] }).decideVote1 w c
  else
    (s.modTrain w c fun t => { t with votes2 := (t.votes2.filter fun y => y.replica ≠ v.replica) ++ [v] }).decideVote2 w c

/-- The replica's vote goes to every other module of the run, and counts here. -/
def State.castVote (s : State) (w c : Nat) (v : VoteIn) : State := (s.tell (s.runModules w) (.vote c v)).takeVote w c v

/-- Reports of pass two of the modules of this replica that the lowest has so far; once it has every one it casts the replica's,
which names the failure of the lowest module (log entry 41). -/
def State.ownVote2 (s : State) (w c : Nat) (v : VoteIn) : State :=
  let s := s.modTrain w c fun t => { t with own2 := (t.own2.filter fun y => y.addr ≠ v.addr) ++ [v] }
  let vs := sortBy (fun a b => decide (a.addr ≤ b.addr)) (s.train w c).own2
  if (s.ownModules w).all fun m => vs.any fun y => y.addr = m then
    let u := (vs.find? fun y => !y.finite).getD v
    s.castVote w c { u with addr := s.linkAddr, finite := vs.all (·.finite), poison := vs.any (·.poison), master := vs.any (·.master) }
  else s

/-- R337, R339: the ring is done; what it summed has been written as it came. -/
def execGradientReductionComplete (w c : Nat) (s : State) : Host.Outcome State Fault Refusal :=
  if s.live ∧ (s.train w c).st = .reduce then .next (s.startPassOne w c) else .next s

/-- Pass one is complete on this module's dies. The lowest module of the replica combines, with the parts that its other
modules have sent (`parts`), and votes; another module sends its parts to it. -/
def execPassOneComplete (w : Nat) (x : PassOneIn) (s : State) : Host.Outcome State Fault Refusal :=
  let t := s.train w x.ctx
  let lead := s.leads w
  if !s.live ∨ t.st ≠ .pass1 ∨ t.passed1 ∨ (lead ∧ !(s.otherModules w).all fun m => x.parts.any fun p => p.addr = m) then .next s
  else
    let (s, p) := s.passOne w x.ctx
    let s := (s.modTrain w x.ctx fun t => { t with scal := p.scal, passed1 := true }).updIdle w x.ctx
    if lead then
      let (s, v) := s.combine w x.ctx (p.parts ++ x.parts.filter fun q => (s.otherModules w).contains q.addr)
      .next ((s.modTrain w x.ctx fun t => { t with scal := { t.scal with norm := v.norm, cf := v.cf } }).castVote w x.ctx v)
    else .next (forEach p.parts s fun s q => s.tell [s.leadModule w] (.part x.ctx q))

/-- Whether the vote is one that this module waits for: another replica's, its own replica's as the lowest module casts it, or at
that module a report of pass two of another one. -/
def State.awaitsVote (s : State) (w : Nat) (v : VoteIn) : Bool :=
  decide (v.replica < (s.ward w).nrep) &&
  (v.replica != (s.ward w).replica ||
    (if s.leads w then v.pass == 2 && (s.otherModules w).contains v.addr else v.addr == s.leadModule w))

def execVote (w c : Nat) (v : VoteIn) (s : State) : Host.Outcome State Fault Refusal :=
  let t := s.train w c
  if !s.live ∨ !t.active ∨ s.awaitsVote w v = false ∨ (v.pass ≠ 1 ∧ v.pass ≠ 2) then .next s
  else if v.replica ≠ (s.ward w).replica then .next (s.takeVote w c v)
  else if s.leads w then .next (s.ownVote2 w c v)
  else
    .next ((if v.pass = 1 then s.modTrain w c fun t => { t with scal := { t.scal with norm := v.norm, cf := v.cf } } else s).takeVote w c v)

/-- Pass two is complete on this module's dies: the new half and image are written, and hashed where the step is a multiple of
D (R342, R352). -/
def execPassTwoComplete (w c : Nat) (s : State) : Host.Outcome State Fault Refusal :=
  let t := s.train w c
  let waits : Bool := match t.copying with | some (_, _, n) => decide (n + 2 ≤ t.n) | none => false
  if !s.live ∨ t.st ≠ .pass2 ∨ t.passed2 ∨ waits then .next s
  else
    let r := t.record
    let o := s.passTwo w c t.steerFactor r.dies
    let done := fun (d : Nat) => (s.upd d).counted
    let s := forEach r.dies (o.s.modTrain w c fun t => { t with scal := o.x, passed2 := true }) fun s d => s.addBlocks d (done d) o.blocks
    let good : Bool := o.bad.isNone && !o.poison
    let s := if good then s.clearAcc w c else s
    let x := s.stepDigest w c (1 - t.half) t.n
    let s := if good ∧ t.n % r.interval = 0 then s.modTrain w c fun t => { t with streamed := some x } else s
    let v : VoteIn := { pass := 2, replica := (s.ward w).replica, addr := s.linkAddr, finite := good, poison := o.poison, master := o.poison,
                        loss := 0, lr := t.scal.lr,
                        group := (match o.bad with | some b => b.1 | none => 0xFF),
                        tensor := (match o.bad with | some b => b.2.1 | none => 0),
                        elem := (match o.bad with | some b => b.2.2 | none => 0) }
    let s := s.updIdle w c
    .next (if s.leads w then s.ownVote2 w c v else s.tell [s.leadModule w] (.vote c v))

/-- Image blocks that pass two on die `d` has written by now are added to their sites (R62): a free number of them. -/
def State.countUpd (s : State) (w d : Nat) : State :=
  let u := s.upd d
  let t := s.train w u.ctx
  if u.work ≠ .pass2 ∨ t.st ≠ .pass2 ∨ t.passed2 then s
  else
    let bs := (s.passTwo w u.ctx t.steerFactor [d]).blocks
    let (k, s) := s.takeFresh
    let m := u.counted + (Config.freeW32 k).toNat % (bs.length - u.counted + 1)
    (s.addBlocks d u.counted (bs.take m)).modUpd d fun u => { u with counted := m }

/-! ### Commit (R343, R355) -/

/-- The image half `h` goes into the hot-cache copy of the next generation, as PREPARE does: it waits for an old copy, or for
room. It is skipped while an earlier publication has not taken effect, or under withdrawal (R343, R359). -/
def State.publish (s : State) (w c h : Nat) : State × Bool :=
  let e := (s.ward w).registry.get c
  if e.nxt ∨ e.st ≠ .registered then (s, false)
  else
    let s := s.setReg w c fun e => { e with nxt := true, nxtReady := false, nxtWaits := true, pub := some h }
    (if e.oldmb = 0 ∧ e.chunksOf (1 - e.liveCopy) = [] then s.tryPublish w c h else s, true)

/-- A checkpoint copy of the committed half begins (R355). -/
def State.startCopy (s : State) (w c n : Nat) : State :=
  (s.modTrain w c fun t =>
    let k := match t.newest with | some k => 1 - k | none => 0
    { t with copying := some (k, t.half, n), k0Valid := t.k0Valid && k != 0, k1Valid := t.k1Valid && k != 1,
             k0Ver := t.k0Ver && k != 0, k1Ver := t.k1Ver && k != 1 }).updWork w c .ckpt

def State.commitStep (s : State) (w c : Nat) : State :=
  let t := s.train w c
  if t.st ≠ .commit ∨ t.rehash then s
  else
    let n := t.n
    let r := t.record
    let s := s.modTrain w c fun t => { t with sh := !t.sh, stepDone := n }
    let (s, pub) := if r.pub ∧ n % r.pubn = 0 then s.publish w c (s.train w c).half else (s, false)
    let dig : Bool := n % r.interval == 0
    let ck : Bool := n % r.c == 0
    let s := s.modTrain w c fun t => { t with scal := { t.scal with published := pub, digest := dig, ckpt := ck } }
    let s := s.stepReport w c n 0 false
    let s := s.modTrain w c fun t => { t.rest with st := .accum }
    let s := if dig then s.holdRound w c n (t.streamed.getD (s.stepDigest w c (s.train w c).half n)) else s
    let s := if ck then s.startCopy w c n else s
    if (s.train w c).stopping then s.endTraining w c else s

def execCheckpointCopyComplete (w c : Nat) (s : State) : Host.Outcome State Fault Refusal :=
  let t := s.train w c
  match t.copying with
  | none => .next s
  | some (k, h, n) =>
    if !s.live then .next s
    else
      let (s, bad) := s.copyRegion w c (fun r d => r.halfVa d h) (fun r d => r.slotVa d k)
      .next ((s.modTrain w c fun t =>
        let v := !bad && !t.pendRounds.contains n && decide (n ≤ t.lastUnan.getD 0) && t.lastUnan.isSome
        if k = 0 then { t with copying := none, k0Step := n, k0Valid := !bad, k0Ver := v }
        else { t with copying := none, k1Step := n, k1Valid := !bad, k1Ver := v }).updIdle w c)

/-! ### Rollback (R356) -/

/-- At the boundary: positions are emptied, the step is abandoned, a copy in progress is discarded. -/
def State.beginRollback (s : State) (w c : Nat) : State :=
  let t := s.train w c
  match t.rollbackDue with
  | none => s
  | some st =>
    let s := s.modTrain w c fun t => { t with rollbackDue := none, copying := none, pendRounds := [], rehash := false }
    match t.newest with
    | none => s.faultTraining w c .poison
    | some k =>
      let n := t.kStep k
      let s := s.abandonStep w c st true
      (s.modTrain w c fun t => { t with st := .rollback, digests := t.digests.filter fun d => decide (d.step ≤ n) }).updWork w c .restore |>.modWard w fun x => { x with rollbacks := incSat x.rollbacks }

/-- The replicas hold the target checkpoint once each has said so; the run goes on at a boundary (R357). -/
def State.leaveHeld (s : State) (w c : Nat) : State :=
  let t := s.train w c
  if t.st = .runHeld ∧ (List.range (s.ward w).nrep).all t.holders.contains then
    s.modTrain w c fun t => { t with st := .accum, holders := [], runHold := false, peerMode := false }
  else s

/-- This replica holds the checkpoint of step `n`: it says so, and waits. -/
def State.holdRun (s : State) (w c n : Nat) : State :=
  let x := s.stepDigest w c (s.train w c).half n
  (s.modTrain w c fun t =>
    { t with st := .runHeld, holders := (t.holders ++ [x.replica]).dedup,
             digests := t.digests.filter fun y => !(y.replica == x.replica && y.step == n) }).tellDigest w c x

/-- Steps 3 and 4 of R356: the checkpoint is in H(SH), the image is regenerated, the accumulator clear; a copy older
than the target is discarded (R355). -/
def execRollbackRestoreComplete (w c : Nat) (s : State) : Host.Outcome State Fault Refusal :=
  let t := s.train w c
  if !s.live ∨ t.st ≠ .rollback then .next s
  else
    let copy (s : State) (k : Nat) := s.copyRegion w c (fun r d => r.slotVa d k) (fun r d => r.halfVa d t.half)
    let res : Option (State × Nat) :=
      match t.newest with
      | none => none
      | some k =>
        let (s1, bad) := copy s k
        if !bad then some (s1, k)
        else
          let other := 1 - k
          if (if other = 0 then t.k0Valid && t.k0Ver else t.k1Valid && t.k1Ver) then
            let (s2, bad2) := copy s1 other
            if bad2 then none else some (s2, other)
          else none
    match res with
    | none => .next (s.faultTraining w c .poison)
    | some (s, k) =>
      let n := t.kStep k
      let s := ((s.regenImage w c t.half).clearAcc w c).modTrain w c fun t =>
        { t with stepDone := n, st := .accum, k0Valid := t.k0Valid && decide (n ≤ t.k0Step), k1Valid := t.k1Valid && decide (n ≤ t.k1Step),
                 k0Ver := t.k0Ver && decide (n ≤ t.k0Step), k1Ver := t.k1Ver && decide (n ≤ t.k1Step) }
      let s := s.updIdle w c
      .next (if t.runHold then s.holdRun w c n else if (s.train w c).stopping then s.endTraining w c else s)

/-! ### Exchanges between replicas -/

/-- A replica's digests, or those of another module of this replica. -/
def execDigestExchange (w c : Nat) (x : DigestIn) (s : State) : Host.Outcome State Fault Refusal :=
  let t := s.train w c
  let own : Bool := x.replica == (s.ward w).replica
  if !s.live ∨ !t.active ∨ (own ∧ s.otherModules w = []) ∨ (s.ward w).nrep ≤ x.replica then .next s
  else
    let y := if own then t.joined x else x
    let target : Nat := if t.st = .runHeld then t.stepDone else (t.newest.map t.kStep).getD 0
    let s := s.modTrain w c fun t =>
      { t.keepDigest y with
          holders := if (t.st = .runHeld ∨ t.st = .rollback ∧ t.runHold) ∧ x.step = target then (t.holders ++ [x.replica]).dedup else t.holders }
    .next (if own ∧ s.wholeDigest w y ∧ s.leads w then s.tell ((s.runModules w).filter fun m => !(s.ownModules w).contains m) (.digest c y) else s)

/-- REHASH_COMPLETE (R354): the committed half of the step hashed again, on this module and on the replica's others (`parts`),
told to the other replica and compared with its result. -/
def execRehashComplete (w c : Nat) (x : RehashIn) (s : State) : Host.Outcome State Fault Refusal :=
  let t := s.train w c
  match t.pendRounds with
  | [] => .next s
  | n :: _ =>
    if !s.live ∨ !t.rehash then .next s
    else
      let mine := s.stepDigest w c (if t.stepDone = n then t.half else 1 - t.half) n
      let own := joinDigest mine (digestOf mine.replica n (x.parts.filter fun p => (s.otherModules w).contains (p.1 / 8)))
      let s := (s.updIdle w c).tell (s.runModules w) (.digest c own)
      if own.dig = x.peer.dig then
        .next ((s.roundGood w c n).modWard w fun y => { y with recheck := BitVec.ofNat 8 (satAdd 8 y.recheck.toNat 1) })
      else
        let s := (s.roundOver w c n).modWard w fun y => { y with replSwap := !y.replSwap }
        .next ((s.modTrain w c fun t => { t with repeatStep := some n }).askRollback w c St.divergent.code false)

/-- PEER_CHECKPOINT_ARRIVE (R357): a die of a restarted replica checks its copy against the verified round. -/
def execPeerCheckpointArrive (w c d : Nat) (fromReplica : Nat) (bytes : List Byte) (s : State) : Host.Outcome State Fault Refusal :=
  let t := s.train w c
  let r := t.record
  if !s.live ∨ !t.peerMode ∨ t.st = .runHeld ∨ !r.dies.contains d ∨ t.peerGot.contains d then .next s
  else match t.digests.find? fun y => y.replica = fromReplica with
    | none => .next s
    | some y =>
      let s := s.writeVa w c (r.slotVa d 0) (bytes.take r.half)
      let dig := s.dieDigest w c r (r.slotVa d 0) d
      if (y.dies.getD (r.dies.idxOf d) (0, 0)).2 = dig then
        let s := s.modTrain w c fun t => { t with peerGot := t.peerGot ++ [d] }
        if r.dies.all (s.train w c).peerGot.contains then
          let (s, _) := s.copyRegion w c (fun r d => r.slotVa d 0) (fun r d => r.halfVa d 0)
          let s := (s.modTrain w c fun t =>
            { t with sh := false, stepDone := y.step, k0Step := y.step, k0Valid := true, k0Ver := true, k1Valid := false, k1Ver := false,
                     lastUnan := some y.step, startJseq := none }).regenImage w c 0
          let s := match t.startJseq with | some j => s.complete j .ok | none => s
          .next ((s.clearAcc w c).holdRun w c y.step)
        else .next s
      else
        let n := t.peerTries.get d + 1
        let s := s.modTrain w c fun t => { t with peerTries := t.peerTries.set d n }
        .next (if 4 * (t.roundOf y.step).length ≤ n then s.endTraining w c else s)

/-- ARM_TIMEOUT (R339): it covers the waits for the posted step, for peers in REDUCE and for the votes. -/
def execArmTimeout (w c : Nat) (s : State) : Host.Outcome State Fault Refusal :=
  let st := (s.train w c).st
  if s.live ∧ (st = .armed ∨ st = .reduce ∨ (st = .pass1 ∧ (s.train w c).passed1) ∨ (st = .pass2 ∧ (s.train w c).passed2)) then
    .next (s.faultTraining w c .armTimeout)
  else .next s

/-! ### Commands -/

/-- TRAIN_START takes the context as it stands: registered, resident, and not training (R362); a faulted context may start
again (R339). -/
def State.mayTrain (s : State) (w c mode : Nat) : Bool :=
  let e := (s.ward w).registry.get c
  decide (mode ≤ 1) && (s.ward w).running && e.st == .registered && e.res == .resident && (!e.train || (s.train w c).st == .faulted)

/-- Training of the record `r` begins (R361). -/
def State.beginTraining (s : State) (x : OpCtx) (c mode : Nat) (r : TrainRec) : State :=
  let w := x.w
  let kept := (s.train w c).kept
  let s := s.setReg w c fun e => { e with train := true }
  let s := s.modWard w fun y => { y with trains := y.trains.set c { record := r, stepDone := r.start, kept := kept, posted := none } }
  let s := s.clearAcc w c
  if mode = 1 then s.modTrain w c fun t => { t with peerMode := true, startJseq := some x.jseq }
  else
    let s := (s.modTrain w c fun t => { t with starting := true }).holdRound w c r.start (s.stepDigest w c 0 r.start)
    (s.startCopy w c r.start).complete x.jseq .ok

/-- TRAIN_START with the record at address `va` (R361, R362). -/
def State.doTrainStart (s : State) (x : OpCtx) (c mode va : Nat) : State :=
  if s.updFitted = false then s.complete x.jseq .absent
  else if s.mayTrain x.w c mode = false then s.complete x.jseq .protection
  else match s.readRecord x.w c va with
    | (s, some r) => if s.recordOk x.w c r then s.beginTraining x c mode r else s.complete x.jseq .protection
    | (s, none) => s.complete x.jseq .protection

def State.doTrainStop (s : State) (x : OpCtx) (c : Nat) : State :=
  if s.updFitted = false then s.complete x.jseq .absent
  else if (s.train x.w c).active = false then s.complete x.jseq .protection
  else s.modTrain x.w c fun t => { t with stopping := true, stops := t.stops ++ [x.jseq] }

def State.doRollback (s : State) (x : OpCtx) (c : Nat) : State :=
  let t := s.train x.w c
  if s.updFitted = false then s.complete x.jseq .absent
  else if t.active = false ∨ t.st = .faulted ∨ t.newest.isNone then s.complete x.jseq .protection
  else
    let (n, s) := s.takeFresh
    (s.askRollback x.w c (Config.freeByte n) false).complete x.jseq .ok

/-- `seen` are the host bytes that the read of the record and its table brings. -/
def execTrainStart (src : Src) (c mode : Nat) (record : W64) (seen : List (Nat × Byte)) (s : State) : Host.Outcome State Fault Refusal :=
  .next (s.command src (.trainStart c mode record) fun x s => (s.seen seen).doTrainStart x c mode record.toNat)

def execTrainStop (src : Src) (c : Nat) (s : State) : Host.Outcome State Fault Refusal :=
  .next (s.command src (.trainStop c) fun x s => s.doTrainStop x c)

def execRollback (src : Src) (c : Nat) (s : State) : Host.Outcome State Fault Refusal :=
  .next (s.command src (.rollback c) fun x s => s.doRollback x c)

/-! ### UPD_STEP and UPD_PEEK_CTX (R340, R364, R366) -/

/-- The ward whose step registers lie on die `d`: its lowest. -/
def State.updWard (s : State) (d : Nat) : Option Nat :=
  match s.wardOfDie d with
  | some w => if (s.ward w).lowDie = d then some w else none
  | none => none

def State.postStep (s : State) (d w : Nat) (v : W64) : State :=
  let c := field v.toNat 63 48
  let n := field v.toNat 31 0
  let lr := (s.upd d).stepLr
  let t := s.train w c
  let bad (k : Nat) := s.modUpd d fun u => { u with refused := true, err := k }
  if !t.active then bad 1
  else if !f32Finite lr || (f32Neg lr && !f32IsZero lr) then bad 2
  else if n ≤ t.stepDone % 2 ^ 32 then bad 3
  else (s.modTrain w c fun t => { t with posted := some (n, lr) }).tryReduce w c

/-- A 4-byte write of the low half is held; a write of the upper half, or of both, posts. -/
def execUpdStep (r : Req) (d : Nat) (a : RegW) (s : State) : Host.Outcome State Fault Refusal :=
  if !s.live ∨ !a.legal ∨ !s.dies.contains d then .next s
  else if !s.ownsDie r d then .next s.refuse
  else match s.updWard d with
    | none => .next s
    | some w =>
      if s.updFitted = false then .next s
      else if a.size = 8 then .next (s.postStep d w a.val)
      else if a.off % 8 = 0 then .next (s.modUpd d fun u => { u with stepLo := a.lo })
      else .next (s.postStep d w (BitVec.ofNat 64 ((s.upd d).stepLo.toNat + a.val.toNat % 2 ^ 32 * 2 ^ 32)))

def StepState.code : StepState → Nat
  | .off => 0 | .accum => 1 | .armed => 2 | .reduce => 3 | .pass1 => 4 | .pass2 => 5 | .commit => 6 | .rollback => 7
  | .runHeld => 8 | .faulted => 9

/-- UPD_PEEK_DATA of a context that trains. -/
def Train.peek (t : Train) : List Byte :=
  toLE 1 t.st.code ++ toLE 1 t.half ++ toLE 1 t.lastSt.toNat ++ toLE 1 (bit t.k0Ver 0 + bit t.k1Ver 1) ++
  toLE 4 ((t.posted.map (·.1)).getD 0) ++ toLE 8 t.stepDone ++ toLE 4 ((t.posted.map (·.2.toNat)).getD 0) ++ toLE 4 0 ++
  toLE 8 t.k0Step ++ toLE 8 t.k1Step ++ toLE 8 t.armBeat.toNat ++ toLE 16 0

def execUpdPeekCtx (r : Req) (d : Nat) (v : W32) (s : State) : Host.Outcome State Fault Refusal :=
  if !s.live ∨ !s.dies.contains d then .next s
  else if !s.ownsDie r d then .next s.refuse
  else match s.updWard d with
    | none => .next s
    | some w =>
      if s.updFitted = false then .next s
      else
        let c := v.toNat % 2 ^ 16
        let t := s.train w c
        .next (s.modUpd d fun u => { u with peekCtx := BitVec.ofNat 16 c, peek := if t.active then t.peek else List.replicate 64 0 })

/-! ### Training at a boundary (R339, R343, R352, R356, R359) -/

/-- R359: an update abandoned by a fault or an arm timeout has its work squashed, and takes its state. -/
def State.trainAbandon (s : State) (w c : Nat) : State :=
  match (s.train w c).abandonDue with
  | some st => if (s.train w c).active then (s.updIdle w c).abandonStep w c st.code else s
  | none => s

/-- The start's publication is done once nothing of it is pending. -/
def State.trainStarted (s : State) (w c : Nat) : State :=
  if (s.train w c).starting && (s.train w c).pendRounds.isEmpty then
    s.modTrain w c fun t => { t with starting := false, st := if t.st = .off then .accum else t.st }
  else s

/-- TRAIN_STOP takes effect once the current step is done. -/
def Train.mayStop (t : Train) : Bool :=
  t.stopping && t.active && (t.st == .faulted || t.st == .off || t.st == .runHeld || (t.st == .accum && !t.begun))

def State.trainStopped (s : State) (w c : Nat) : State := if (s.train w c).mayStop then s.endTraining w c else s

/-- Training work of one context in item 5 of R179, after the hinge switches: the commit, then the rounds held before it
(R359). -/
def State.trainBoundary (s : State) (w c : Nat) : State :=
  let held := (s.train w c).pendRounds
  let s := forEach held (s.commitStep w c) fun s n => s.decideRound w c n
  (((((s.beginRollback w c).leaveHeld w c).trainAbandon w c).trainStarted w c).arm w c).trainStopped w c

def State.trainingStep (s : State) (w : Nat) : State := forEach ((s.ward w).trains.map (·.1)) s fun s c => s.trainBoundary w c

end Sys2Proof.Machine
end

