-- ==== Sys2Proof/Machine/Links.lean ====
section
/-! DEFINITION. The Nornov links: training and loss (R368, R369, R377, R378, R452), arriving flits (R371 to R381,
R386, R392, R393), sessions (R379), and the fence of a die with its links (R474 to R476). -/

namespace Sys2Proof.Machine
open Sys2Proof

/-! ### Registers of a link (R402, R403) -/

def LinkState.code : LinkState → Nat
  | .untrained => 0 | .up => 1 | .retraining => 2 | .down => 3 | .missing => 4

def Link.stateWord (l : Link) : Nat :=
  l.lat.toNat * 2 ^ 48 + l.peerAddr * 2 ^ 41 + l.peerLink * 2 ^ 35 + (if l.two then 8 else 0) + l.st.code

def Link.errWord (l : Link) : Nat := l.corrected.toNat * 2 ^ 32 + l.crc.toNat * 2 ^ 16 + l.retrains.toNat * 2 ^ 8

def Link.dropWord (l : Link) : Nat :=
  l.epoch.toNat * 2 ^ 48 + l.noward.toNat * 2 ^ 32 + l.auth.toNat * 2 ^ 16 + l.badaddr.toNat

/-- A link's event (R486). -/
def State.linkRecord (s : State) (k scope : Nat) (st : Byte) : State :=
  s.report { cls := 0x0A, scope := scope, status := st, unit := 6, die := k / 6, idx := k % 6, src := 2,
             detail := BitVec.ofNat 128 ((s.link k).stateWord + (s.link k).errWord * 2 ^ 64) }

/-! ### Loss -/

/-- A peer-tier read fails at its channel with a status. -/
def State.failRead (s : State) (r : PeerRead) (st : St) : State :=
  let s := { s with peerReads := s.peerReads.filter fun x => x.xid ≠ r.xid }
  match s.wardOfDie (r.chan / 64) with
  | none => s
  | some w =>
    let x := s.chan r.chan
    if x.st ≠ .running ∨ x.desc.isNone ∨ x.squashing.isSome then s
    else if st = .tierFail ∨ st = .keyRetired ∨ st = .poison then s.failAccess r.chan w st r.va
    else (s.countFault w).stopRun r.chan w (s.failing r.chan w) st 0x38 r.va

/-- A status that answers a write meets the channel whose descriptor writes to that module under that context; the
transfer's number is not told apart (R260, R380). -/
def State.failWrite (s : State) (m ward ctx : Nat) (st : St) : State :=
  let hit (e : Nat × Chan) : Option (Nat × Nat × Nat) :=
    match s.wardOfDie (e.1 / 64), e.2.desc with
    | some w, some d =>
      if e.2.st = .running ∧ e.2.squashing.isNone ∧ w = ward ∧ d.ctx = ctx then
        ((s.peerPieces e.1 w d).find? fun p => p.2.2.1 && p.2.2.2.1 == m).map fun p => (e.1, w, p.1)
      else none
    | _, _ => none
  match s.chans.findSome? hit with
  | none => s
  | some (c, w, va) =>
    if st = .tierFail ∨ st = .keyRetired then s.failAccess c w st va else (s.countFault w).stopRun c w (s.failing c w) st 0x38 va

/-- A link is down for good (R378): transfers with a flit that was not acknowledged fail, the rest take other ports. -/
def State.linkFail (s : State) (k : Nat) : State :=
  let l := s.link k
  let lost := l.retry.map fun e => (e.1.src, e.1.xid.toNat)
  let s := { s.modLink k fun l => { l with st := .down, retry := [], txq := [], rxXfer := [], nakDue := false } with
             xferPaths := s.xferPaths.filter fun x => x.port ≠ k }
  let s := s.linkRecord k 1 St.tierFail.code
  let s := forEach (s.peerReads.filter fun r => lost.contains (s.linkAddr, r.xid)) s fun s r => s.failRead r .tierFail
  -- the ward of this module for which a write left: the one that holds the link's die
  let own := (s.wardOfDie (k / 6)).getD 8
  let s := forEach ((l.retry.filter fun e => e.1.type = 1 && e.1.src = s.linkAddr).map fun e => (e.1.dst, e.1.ctx)).dedup s fun s e =>
    s.failWrite e.1 own e.2 .tierFail
  let s := forEach l.txq s fun s e => if lost.contains (e.1.src, e.1.xid.toNat) then s else s.route e.1 e.2
  (State.mcPump s.mcWait.length s).resumeTko

/-- R377: the link goes down and retrains. -/
def State.startRetrain (s : State) (k : Nat) : State :=
  (s.modLink k fun l => { l with st := .retraining, tries := 0, replays := 0, retrains := incSat l.retrains }).linkRecord k 0 0

/-- Everything from ACK + 1 is sent again, unchanged. -/
def State.replay (s : State) (k : Nat) : State := forEach (s.link k).retry s fun s e => s.emit (.flit k e.1 e.2)

/-! ### Training -/

/-- R452: the peer's device identifier is the one that the image gives for its address. -/
def State.peerKnown (s : State) (x : TrainedLink) : Bool := x.certOk && x.match' && decide (x.peerAddr < 68) && s.image.devmap.get x.peerAddr == x.peerId

/-- A link comes up under a new session, or stays down. -/
def State.bringUp (s : State) (k : Nat) (x : TrainedLink) : State :=
  if s.peerKnown x then
    (s.modLink k fun l =>
      { l with st := .up, lat := BitVec.ofNat 16 x.lat, peerAddr := x.peerAddr, peerLink := x.peerLink, peerId := x.peerId, two := x.two,
               session := l.session + 1, rxCount := 0, txCount := 0, rxNext := 0, txNext := 0, nakDue := false, retry := [],
               credits := [32, 320, 128, 32], owed := [0, 0, 0, 0], replays := 0, replaySeq := 0, tries := 0, rxXfer := [] }).pump k
  else
    (s.modLink k fun l => { l with st := .down, lat := BitVec.ofNat 16 x.lat, peerAddr := x.peerAddr, peerLink := x.peerLink, two := x.two }).linkRecord k 0 0

/-- LINK_TRAINED (R368, R369, R452); a link that cannot hold two lanes stays down. -/
def execLinkTrained (l : Nat) (x : TrainedLink) (s : State) : Host.Outcome State Fault Refusal :=
  if !s.live ∨ 48 ≤ l ∨ (s.link l).st ≠ .untrained ∨ !s.dies.contains (l / 6) then .next s
  else if !x.lanesOk then .next (s.modLink l fun y => { y with st := .down })
  else .next (s.bringUp l x)

/-- LINK_TRAIN_RETRY (R511): a link that has never come up trains again. -/
def execLinkTrainRetry (l : Nat) (s : State) : Host.Outcome State Fault Refusal :=
  if s.live ∧ l < 48 ∧ (s.link l).st = .down ∧ (s.link l).session = 0 ∧ s.dies.contains (l / 6) ∧ s.dieFencedAt (l / 6) = false then
    .next (s.modLink l fun y => { y with st := .untrained })
  else .next s

def execLaneAlignmentLoss (l : Nat) (s : State) : Host.Outcome State Fault Refusal :=
  if s.live ∧ l < 48 ∧ (s.link l).st = .up then .next (s.startRetrain l) else .next s

/-- The LINK_RETRAIN that waits for the link completes. -/
def State.retrainDone (s : State) (k : Nat) (st : St) : State :=
  let j := (s.link k).cmdJseq
  let s := s.modLink k fun l => { l with cmdJseq := none }
  match j with
  | some j => s.complete j st
  | none => s

/-- LINK_RETRAIN_COMPLETE (R377, R378): a retrain that keeps its session replays; the third that fails leaves the link
down. A retrain by command begins a session anew. -/
def execLinkRetrainComplete (l : Nat) (x : TrainedLink) (s : State) : Host.Outcome State Fault Refusal :=
  if !s.live ∨ 48 ≤ l ∨ (s.link l).st ≠ .retraining then .next s
  else
    let y := s.link l
    if x.lanesOk then
      if y.cmdJseq.isSome then
        let s := s.bringUp l x
        .next (s.retrainDone l (if (s.link l).st = .up then .ok else .tierFail))
      else
        .next (((s.modLink l fun y => { y with st := .up, tries := 0, two := x.two, lat := BitVec.ofNat 16 x.lat }).replay l).pump l)
    else if y.tries + 1 < 3 then .next (s.modLink l fun y => { y with tries := y.tries + 1, retrains := incSat y.retrains })
    else .next (((s.modLink l fun y => { y with tries := 0 }).linkFail l).retrainDone l .tierFail)

/-- LINK_RETRAIN (R378): an absent link is refused, and so is one that is not down. -/
def State.doLinkRetrain (s : State) (x : OpCtx) (die link : Nat) : State :=
  let k := 6 * die + link
  if !s.dies.contains die ∨ 5 < link ∨ s.dieFencedAt die then s.complete x.jseq .absent
  else if (s.link k).st ≠ .down ∨ (s.link k).cmdJseq.isSome then s.complete x.jseq .protection
  else s.modLink k fun l => { l with st := .retraining, tries := 0, retrains := incSat l.retrains, cmdJseq := some x.jseq }

def execLinkRetrain (src : Src) (die link : Nat) (s : State) : Host.Outcome State Fault Refusal :=
  .next (s.command src (.linkRetrain die link) fun x s => s.doLinkRetrain x die link)

/-- SESSION_REKEY (R379, R453): the new keys serve from the sequence number that both ends agree. -/
def execSessionRekey (l : Nat) (atSeq : Nat) (s : State) : Host.Outcome State Fault Refusal :=
  if s.live ∧ l < 48 ∧ (s.link l).st = .up ∧ atSeq = (s.link l).txNext then
    .next (s.modLink l fun y => { y with session := y.session + 1, rxCount := 0, txCount := 0 })
  else .next s

/-! ### Arriving flits -/

/-- The flits that ACK covers leave the retry buffer (R375). -/
def Link.ackTo (l : Link) (a : Nat) : Link :=
  match l.retry with
  | [] => l
  | e :: _ =>
    let n := (a + 1 + 4096 - e.1.seq) % 4096
    if n ≤ l.retry.length then { l with retry := l.retry.drop n } else l

/-- Acknowledgement, credits and NAK of a flit (R373, R376); the sixteenth replay of one flit takes the link down. -/
def State.takeAcks (s : State) (k : Nat) (f : Flit) : State :=
  let s := s.modLink k fun l =>
    let l := l.ackTo f.ack
    { l with credits := l.credits.set f.crvc (min (vcSize f.crvc) (l.credits.getD f.crvc 0 + f.crcnt)) }
  match f.nak, (s.link k).retry with
  | true, e :: _ =>
    let s := s.modLink k fun l =>
      if l.replaySeq = e.1.seq ∧ l.replays ≠ 0 then { l with replays := l.replays + 1 } else { l with replaySeq := e.1.seq, replays := 1 }
    if (s.link k).replays < 16 then (s.replay k).pump k else s.startRetrain k
  | _, _ => s.pump k

/-- Data of a beat that this module has not entered yet: a peer's write that comes once the module's own beat is over, or is
to be (R183). It stays in the receive buffer, so its credit does not go back. -/
def State.isEarly (s : State) (f : Flit) : Bool :=
  let x := s.ward f.ward
  (f.type == 1 || f.type == 5) && f.dst == s.linkAddr && s.modFenced == false && x.running && x.multi &&
  (x.job.map (·.began)).getD false && x.hasPeer f.src &&
  (x.closed || (match x.mb.verdict with | some (yes, _) => yes | none => false))

/-- A reduction that another replica has begun waits in the receive buffer for this one to begin it (R337, R339, log entry
187). -/
def State.reduceWaits (s : State) (f : Flit) : Bool :=
  let t := s.train f.ward f.ctx
  f.type == 5 && f.dst == s.linkAddr && s.modFenced == false && (s.ward f.ward).running && t.active && (t.st == .accum || t.st == .armed)

/-- The flit stays in the receive buffer for now. -/
def State.isKept (s : State) (f : Flit) : Bool := s.isEarly f || s.reduceWaits f

/-- The receive path of a link: CRC, sequence, tag, then the flit itself. -/
def State.receive (s : State) (k : Nat) (f : Flit) (chk : FlitCheck) (body : State → State) : State :=
  if !s.live ∨ 48 ≤ k ∨ (s.link k).st ≠ .up then s
  else
    let s := s.modLink k fun l => { l with corrected := incSat l.corrected chk.corrected }
    if !chk.crcOk ∨ (f.type ≠ 0 ∧ f.seq ≠ (s.link k).rxNext) then
      (s.modLink k fun l => { l with crc := incSat l.crc, nakDue := true }).idleFlit k
    else if !chk.tagOk then (s.modLink k fun l => { l with auth := incSat l.auth }).startRetrain k
    else
      let s := s.modLink k fun l =>
        if f.type = 0 then { l with rxCount := l.rxCount + 1 }
        else { l with rxCount := l.rxCount + 1, rxNext := (l.rxNext + 1) % 4096, owed := if s.isKept f then l.owed else l.owed.set f.vc (l.owed.getD f.vc 0 + 1) }
      let s := s.takeAcks k f
      let s := State.mcPump s.mcWait.length s
      let n := (s.link k).txCount
      let s := body s
      if f.type ≠ 0 ∧ (s.link k).txCount = n then s.idleFlit k else s

def State.badAddr (s : State) (k : Nat) : State := s.modLink k fun l => { l with badaddr := incSat l.badaddr }

/-- A flit for another module is relayed (R386); one with an illegal or stale address is dropped (R383, R396). -/
def State.forward (s : State) (k : Nat) (f : Flit) (p : List Byte) (deliver : State → State) : State :=
  if 67 < f.dst ∨ 67 < f.src then s.badAddr k
  else if f.dst = s.linkAddr ∧ s.modFenced = false then deliver s
  else if (s.routeOf f.dst).valid = false ∨ (s.routeOf f.dst).loc then s.badAddr k
  else s.route f p

/-- RESP to the source of a flit (R380), under the epoch of the flit it answers; its status stands in the first payload
byte. -/
def State.respond (s : State) (f : Flit) (st : St) (data : List Byte) : State :=
  let x : Sender := { dst := f.src, own := some f.ward, ward := (s.ward f.ward).peerWard f.src, ctx := f.ctx, epoch := f.epoch, xid := f.xid }
  if st = .ok then s.sendXfer x 3 1 data else s.sendXfer x 3 1 [st.code]

def xferKey (f : Flit) : Nat := f.src * 2 ^ 28 + f.xid.toNat

/-- R381, then R380: `none` where the flit goes on. -/
def State.flitBad (s : State) (f : Flit) : Option Bool :=
  if (s.ward f.ward).running = false then some false
  else if f.ctx ≠ 0 ∧ (((s.ward f.ward).registry.get f.ctx).st = .free ∨ (s.ctxSlot f.ward f.ctx).isNone ∨ s.epochOf f.ward f.ctx ≠ f.epoch) then some true
  else none

/-- An access of a peer at this module (R29): it must lead to the stack tier of the ward's own dies. -/
def State.peerCheck (s : State) (w c va n : Nat) (wr : Bool) : Option St :=
  if 2 ^ 42 < va + n then some .translation
  else (pieces va n).findSome? fun (a, _) =>
    match s.peerLeaf w a wr with
    | .error e => some e
    | .ok l => match s.checkKeyed w c a l wr .stack with
      | .error e => some e
      | .ok _ => none

/-- Where the data of a flit go: the transfer's header on its first flit, else what is left of it. -/
def State.xferAt (s : State) (k : Nat) (f : Flit) (hdr : Option (Addr × Nat)) : Option (Addr × Nat) :=
  match hdr with
  | some h => some h
  | none => let e := (s.link k).rxXfer.get (xferKey f); if e.2 = 0 then none else some e

def State.setXfer (s : State) (k : Nat) (f : Flit) (e : Addr × Nat) : State :=
  s.modLink k fun l => { l with rxXfer := l.rxXfer.set (xferKey f) (if f.last then (0, 0) else e) }

/-- A write transfer of a peer, flit by flit; `put` writes its bytes at an address. -/
def State.takeWrite (s : State) (k : Nat) (f : Flit) (hdr : Option (Addr × Nat)) (payload : List Byte) (put : State → Nat → List Byte → State) : State :=
  match s.flitBad f with
  | some false => (s.modLink k fun l => { l with noward := incSat l.noward }).setXfer k f (0, 0)
  | some true =>
    let open' := (s.xferAt k f hdr).isSome
    let s := (s.modLink k fun l => { l with epoch := incSat l.epoch }).setXfer k f (0, 0)
    if open' then s.respond f .keyRetired [] else s
  | none =>
    match s.xferAt k f hdr with
    | none => s
    | some (va, n) =>
      let b := payload.take n
      match s.peerCheck f.ward f.ctx va.toNat b.length true with
      | some st => (s.setXfer k f (0, 0)).respond f st []
      | none => (put s va.toNat b).setXfer k f (BitVec.ofNat 48 (va.toNat + b.length), n - b.length)

/-- A write of a peer that waits for the next beat, or is taken. -/
def State.takeOrKeep (s : State) (k : Nat) (f : Flit) (hdr : Option (Addr × Nat)) (copy : Bool) (payload : List Byte)
    (put : State → Nat → List Byte → State) : State :=
  if s.isKept f then
    s.modWard f.ward fun x => { x with mb := { x.mb with early := x.mb.early ++ [{ link := k, flit := f, hdr := hdr, copy := copy, payload := payload }] } }
  else s.takeWrite k f hdr payload put

/-- The payload of a flit as it travels: a transfer header first, where there is one. -/
def rawPayload (hdr : Option (Addr × Nat)) (payload : List Byte) : List Byte :=
  match hdr with
  | some (a, n) => xferHeader a.toNat n ++ payload
  | none => payload

/-- FLIT_DATA. -/
def execFlitData (l : Nat) (f : Flit) (chk : FlitCheck) (hdr : Option (Addr × Nat)) (payload : List Byte) (s : State) :
    Host.Outcome State Fault Refusal :=
  if f.type ≠ 1 then .next s
  else .next (s.receive l f chk fun s => s.forward l f (rawPayload hdr payload) fun s =>
    s.takeOrKeep l f hdr false payload fun s va b => s.writeVa f.ward f.ctx va b)

/-- FLIT_READ_REQ (R380): the data, or a status. -/
def execFlitReadReq (l : Nat) (f : Flit) (chk : FlitCheck) (hdr : Addr × Nat) (s : State) : Host.Outcome State Fault Refusal :=
  if f.type ≠ 2 then .next s
  else .next (s.receive l f chk fun s => s.forward l f (rawPayload (some hdr) []) fun s =>
    match s.flitBad f with
    | some false => s.modLink l fun y => { y with noward := incSat y.noward }
    | some true => (s.modLink l fun y => { y with epoch := incSat y.epoch }).respond f .keyRetired []
    | none =>
      match s.peerCheck f.ward f.ctx hdr.1.toNat hdr.2 false with
      | some st => s.respond f st []
      | none =>
        let (s, o) := s.readVa f.ward f.ctx hdr.1.toNat hdr.2
        if o.bad.any id then s.respond f .poison [] else s.respond f .ok o.bytes)

/-- FLIT_RESP: data or a status for a peer-tier read. -/
def execFlitResp (l : Nat) (f : Flit) (chk : FlitCheck) (status : St) (payload : List Byte) (s : State) : Host.Outcome State Fault Refusal :=
  if f.type ≠ 3 then .next s
  else .next (s.receive l f chk fun s => s.forward l f (if status = .ok then payload else [status.code]) fun s =>
    match s.flitBad f with
    | some false => s.modLink l fun y => { y with noward := incSat y.noward }
    | some true => s.modLink l fun y => { y with epoch := incSat y.epoch }
    | none =>
      match s.peerReads.find? fun r => r.xid = f.xid.toNat && r.peer = f.src with
      | none => if status = .ok then s else s.failWrite f.src f.ward f.ctx status
      | some r =>
        if status ≠ .ok then s.failRead r status
        else
          let b := payload.take (r.len - r.got)
          let s := s.wrBytes (2 ^ 50 + r.peer * 2 ^ 42 + r.pva + r.got) b
          { s with peerReads :=
              if f.last then s.peerReads.filter fun x => x.xid ≠ r.xid
              else s.peerReads.map fun x => if x.xid = r.xid then { x with got := x.got + b.length } else x })

/-- R392: own = received + own for each element, in order, or a copy. -/
def State.reduceInto (s : State) (w c va : Nat) (copy : Bool) (b : List Byte) : State :=
  if copy then s.writeVa w c va b
  else forEach (List.range (b.length / 4)) s fun s j =>
    let (s, o) := s.readVa w c (va + 4 * j) 4
    let x := BitVec.ofNat 32 (leNat ((b.drop (4 * j)).take 4))
    s.writeVa w c (va + 4 * j) (toLE 4 (f32Add x (elemVal 1 o)).toNat)

/-- What a REDUCE flit brings is added or copied, and a chunk that is whole goes on in the ring (R337). -/
def State.reduceFlit (s : State) (f : Flit) (copy : Bool) (va : Nat) (b : List Byte) : State :=
  (s.reduceInto f.ward f.ctx va copy b).reduceTook f.ward f.ctx va b.length copy

def execFlitReduce (l : Nat) (f : Flit) (chk : FlitCheck) (hdr : Option (Addr × Nat)) (copy : Bool) (payload : List Byte) (s : State) :
    Host.Outcome State Fault Refusal :=
  if f.type ≠ 5 then .next s
  else
    let hp := match hdr with
      | some (a, n) => xferHeader a.toNat (n + (if copy then 2 ^ 62 else 0)) ++ payload
      | none => payload
    .next (s.receive l f chk fun s => s.forward l f hp fun s =>
      s.takeOrKeep l f hdr copy payload fun s va b => s.reduceFlit f copy va b)

/-- The module enters the beat: what waited in the receive buffers is taken, in order, and its credits go back (R183). -/
def State.takeEarly (s : State) (w : Nat) : State :=
  let (wait, es) := (s.ward w).mb.early.partition fun e => s.reduceWaits e.flit
  forEach es (if es = [] then s else s.modWard w fun x => { x with mb := { x.mb with early := wait } }) fun s e =>
    let s := s.modLink e.link fun l => { l with owed := l.owed.set e.flit.vc (l.owed.getD e.flit.vc 0 + 1) }
    let s := s.takeWrite e.link e.flit e.hdr e.payload fun s va b =>
      if e.flit.type = 5 then s.reduceFlit e.flit e.copy va b else s.writeVa e.flit.ward e.flit.ctx va b
    s.idleFlit e.link

/-- The module takes an MCAST flit for itself: LOCAL of the tree, or a distribution that it receives. -/
def State.mcastLocal (s : State) (f : Flit) : Bool :=
  (s.trees.get f.tree).loc || (match (s.ward f.ward).dist with | some d => !d.reader | none => false)

/-- FLIT_MCAST (R393): a copy on each port of the tree, and the local write. -/
def execFlitMcast (l : Nat) (f : Flit) (chk : FlitCheck) (hdr : Option (Addr × Nat)) (payload : List Byte) (s : State) :
    Host.Outcome State Fault Refusal :=
  if f.type ≠ 6 then .next s
  else .next (s.receive l f chk fun s =>
    if 67 < f.dst ∨ 67 < f.src then s.badAddr l else
    let t := s.trees.get f.tree
    let ports := (List.range 48).filter fun k => t.ports.getLsbD k
    let s := if ports = [] then s else s.mcSend ports f (rawPayload hdr payload)
    if s.mcastLocal f then s.takeWrite l f hdr payload fun s va b => s.writeVa f.ward f.ctx va b else s)

/-- FLIT_IDLE: acknowledgements and credits. -/
def execFlitIdle (l : Nat) (f : Flit) (chk : FlitCheck) (s : State) : Host.Outcome State Fault Refusal :=
  if f.type ≠ 0 then .next s else .next (s.receive l f chk id)

/-! ### Die fences (R474 to R476) -/

/-- The links of a fenced die are down (R475). -/
def State.linksOfDieDown (s : State) (d : Nat) : State :=
  forEach (List.range 6) s fun s j =>
    let k := 6 * d + j
    if (s.link k).st = .missing ∨ (s.link k).st = .down then s else (s.linkFail k).retrainDone k .tierFail

/-- A record that C4 composes once C0 is gone: no journal note and no mirror (R476). -/
def State.reportHalt (s : State) (r : FRec) : State :=
  let f := s.saf
  let s := { s with saf := { f with fallback := false, ringAlways := false } }.report r
  { s with saf := { s.saf with fallback := f.fallback, ringAlways := f.ringAlways } }

/-- A die controller is fenced with its die: cause 0 watchdog, 1 memory. For C0 the module halts. -/
def State.fenceDie (s : State) (d cause : Nat) : State :=
  if s.life ≠ .up ∨ s.dieFencedAt d ∨ !(s.dies.contains d) then s
  else if d = 0 then
    let s := s.reportHalt { cls := 0x0F, scope := 7, status := 0, unit := 0xA, die := 0, src := 3, detail := BitVec.ofNat 128 cause }
    { s.stopMarkers 0x14 with dieFenced := s.dieFenced ||| 1#8, life := .halted }
  else
    let w := s.wardOfDie d
    let s := s.report { cls := 0x0F, scope := 6, status := St.poison.code, ward := w.getD 0xFF, unit := 0xA, die := d, src := 3,
                        detail := BitVec.ofNat 128 cause }
    let s := { s with dieFenced := s.dieFenced ||| (1#8 <<< d) }
    let s := s.linksOfDieDown d
    match w with
    | some w => s.resetByPoison w
    | none => s

end Sys2Proof.Machine
end

