-- ==== Sys2Proof/Machine/Keys.lean ====
section
/-! DEFINITION. Key slots (R445, R446, R462, R463), attestation (R455, R456), the owner record (R442), certificates
and IDE keys (R446, R454). -/

namespace Sys2Proof.Machine
open Sys2Proof

/-! ### Slots -/

/-- KEY_ALLOC. -/
def State.doKeyAlloc (s : State) (x : OpCtx) (c : Nat) : State :=
  let w := x.w
  let y := s.ward w
  match s.freeSlot with
  | none => s.complete x.jseq .protection
  | some k =>
    if y.st = .disabled ∨ y.st = .placing ∨ c = 0 ∨ (s.ctxSlot w c).isSome then s.complete x.jseq .protection
    else
      let (key, s) := s.freshKey
      let s := s.modSlot k fun z => { z with st := .live, ward := w, members := [c], key := key }
      s.complete x.jseq .ok (BitVec.ofNat 32 (k + (s.slot k).epoch.toNat % 2 ^ 16 * 2 ^ 16))

def execKeyAlloc (src : Src) (c : Nat) (s : State) : Host.Outcome State Fault Refusal :=
  .next (s.command src (.keyAlloc c) fun x s => s.doKeyAlloc x c)

/-- KEY_RETIRE: steps 1 to 3 of R462 at once, step 4 at the ward's next boundary. -/
def State.doKeyRetire (s : State) (x : OpCtx) (k : Nat) : State :=
  let y := s.slot k
  if y.st = .live ∧ y.ward = x.w then
    let s := s.retireKey k
    { s with retires := s.retires ++ [{ slot := k, ward := x.w, members := y.members, jseq := x.jseq }] }
  else s.complete x.jseq .protection

def execKeyRetire (src : Src) (slot : Nat) (s : State) : Host.Outcome State Fault Refusal :=
  .next (s.command src (.keyRetire slot) fun x s => s.doKeyRetire x slot)

/-- R462, step 5: step 4 has been applied, or a reset or shut-down that took its place has ended. -/
def execKeyRetireComplete (slot : Nat) (s : State) : Host.Outcome State Fault Refusal :=
  match s.retires.find? fun r => r.slot = slot && r.boundaryDone && !(s.ward r.ward).scrubDue with
  | none => .next s
  | some r =>
    if s.live then .next ({ s with retires := s.retires.filter fun x => x.jseq ≠ r.jseq }.complete r.jseq .ok) else .next s

def State.doKeyShare (s : State) (x : OpCtx) (k c : Nat) : State :=
  let y := s.slot k
  if y.st ≠ .live ∨ y.ward ≠ x.w ∨ c = 0 then s.complete x.jseq .protection
  else if y.members.contains c then s.complete x.jseq .ok
  else if 4 ≤ y.members.length ∨ (s.ctxSlot x.w c).isSome then s.complete x.jseq .protection
  else (s.modSlot k fun z => { z with members := z.members ++ [c] }).complete x.jseq .ok

def execKeyShare (src : Src) (slot c : Nat) (s : State) : Host.Outcome State Fault Refusal :=
  .next (s.command src (.keyShare slot c) fun x s => s.doKeyShare x slot c)

/-- QUARANTINE_EXPIRE: the slot is FREE again, its epoch kept; a ward that waits for a slot may be placed (R412). -/
def execQuarantineExpire (slot : Nat) (s : State) : Host.Outcome State Fault Refusal :=
  if s.live ∧ (s.slot slot).st = .quarantine then
    .next (State.placeAll 8 (s.modSlot slot fun z => { z with st := .free, ward := 0, members := [] }))
  else .next s

def SlotState.code : SlotState → Nat
  | .free => 0 | .live => 1 | .quarantine => 2 | .ward => 3 | .modul => 4

/-- SEC_SLOT_PEEK_DATA and SEC_SLOT_PEEK_MEM of a slot (R467). -/
def Slot.peekData (x : Slot) : Nat :=
  x.st.code * 2 ^ 61 + (if x.st = .live ∨ x.st = .ward then x.ward * 2 ^ 58 else 0) + x.epoch.toNat * 2 ^ 16
def Slot.peekMem (x : Slot) : Nat :=
  if x.st = .live then (x.members.zipIdx).foldl (fun v (c, i) => v + c * 2 ^ (16 * i)) 0 else 0

/-- SEC_SLOT_PEEK_IDX: PF0 only (R36). -/
def execSecSlotPeekIdx (r : Req) (v : W32) (s : State) : Host.Outcome State Fault Refusal :=
  if !s.live then .next s
  else if r.func ≠ 0 then .next s.refuse
  else
    let k := v.toNat % 2 ^ 14
    let y := s.slot k
    .next { s with sec := { s.sec with peekIdx := BitVec.ofNat 16 k, peekData := BitVec.ofNat 64 y.peekData, peekMem := BitVec.ofNat 64 y.peekMem } }

/-! ### Attestation -/

/-- Where an open command's host memory lies: the function it came from. Bytes that run past the top of the host's 2^47
bytes cannot be written (R30, log entry 73). -/
def State.cmdWrite (s : State) (jseq addr : Nat) (bs : List Byte) : Option State :=
  match s.opens.get jseq with
  | none => none
  | some o => if 2 ^ 47 < addr % 2 ^ 47 + bs.length then none else s.hostWrite (o.ring / 16 / 9) (o.ring / 16 % 9) addr bs

/-- ATTEST: what it refuses, it refuses before signing; the rest waits its turn. -/
def State.doAttest (s : State) (x : OpCtx) (c outlen : Nat) (out : W64) (keyOk : Bool) (nonce : BitVec 256) : State :=
  if ((s.ward x.w).registry.get c).st ≠ .registered ∨ keyOk = false ∨ outlen < 65536 then s.complete x.jseq .protection
  else match s.ctxSlot x.w c with
    | none => s.complete x.jseq .protection
    | some k =>
      { s with atts := s.atts ++ [{ ward := x.w, ctx := c, slot := k, epoch := (s.slot k).epoch, nonce := nonce, out := out.setWidth 48,
                                    jseq := x.jseq }] }

def execAttest (src : Src) (c outlen : Nat) (request out : W64) (keyOk : Bool) (nonce : BitVec 256) (s : State) :
    Host.Outcome State Fault Refusal :=
  .next (s.command src (.attest c outlen request out keyOk nonce) fun x s => s.doAttest x c outlen out keyOk nonce)

/-- The identity certificate and this boot's AK certificate. -/
def State.identityCert (s : State) : List Byte := Config.identityCert s.sec.deviceId
def State.akCert (s : State) : List Byte := Config.akCert s.sec.deviceId s.sec.fwDigest s.sec.cfgDigest s.jrnBoot.toNat

/-- P.1.4 of R456. -/
def State.attIdent (s : State) (a : Att) : List Byte :=
  toLE 1 a.ward ++ toLE 2 a.ctx ++ toLE 2 a.slot ++ toLE 4 a.epoch.toNat ++ toLE 1 (if s.standby then 0 else s.linkAddr) ++
    toLE 1 (Config.variantCode s.variant) ++ List.replicate 5 0

/-- The extensions P.1.1 to P.1.8 of R456. The ML-KEM ciphertext and the wrapped key (R455) are free values, the `n`-th on. -/
def State.attExts (s : State) (a : Att) (n : Nat) : List (List Byte) :=
  [toLE 32 s.sec.fwDigest.toNat, toLE 32 s.sec.cfgDigest.toNat, toLE 32 (s.ward a.ward).jobDigest.toNat, s.attIdent a, toLE 32 a.nonce.toNat,
   (List.range 1568).map fun k => Config.freeByte (n + k), (List.range 80).map fun k => Config.freeByte (n + 1568 + k),
   toLE 8 s.jrnBoot.toNat]

/-- The attestation certificate (R456), with the serial number and the randomness of its signature drawn last. -/
def State.attCert (s : State) (a : Att) : List Byte :=
  Config.attestCert s.sec.deviceId ("LD-2 W" ++ toString a.ward ++ " C" ++ toString a.ctx) (s.attExts a s.fresh) (s.fresh + 1648)

/-- ATTESTATION_SIGNED: step 5 of R455, where the slot's epoch is still the one signed; the next one starts. -/
def execAttestationSigned (s : State) : Host.Outcome State Fault Refusal :=
  match s.atts with
  | [] => .next s
  | a :: rest =>
    if !s.live then .next s
    else
      let s := { s with atts := rest }
      if (s.slot a.slot).st ≠ .live ∨ (s.slot a.slot).epoch ≠ a.epoch then .next (s.complete a.jseq .keyRetired)
      else
        let bs := s.attCert a ++ s.akCert ++ s.identityCert
        let s := { s with fresh := s.fresh + 1649 }
        match s.cmdWrite a.jseq a.out.toNat bs with
        | none => .next (s.complete a.jseq .tierFail)
        | some s =>
          .next ({ s with sec := { s.sec with attests := incSat s.sec.attests } }.complete a.jseq .ok (BitVec.ofNat 32 bs.length))

/-! ### Owner, certificates, IDE -/

/-- OWNER_SET (R442). -/
def State.doOwnerSet (s : State) (x : OpCtx) (sigOk : Bool) (secver : Nat) : State :=
  if sigOk = false ∨ secver < s.sec.ownerVer then s.complete x.jseq .protection
  else { s with flash := { s.flash with ownerSets := s.flash.ownerSets ++ [(x.jseq, secver)] } }

def execOwnerSet (src : Src) (record : W64) (length : Nat) (sigOk : Bool) (secver : Nat) (ownerId : BitVec 256) (s : State) :
    Host.Outcome State Fault Refusal :=
  .next (s.command src (.ownerSet record length sigOk secver ownerId) fun x s => s.doOwnerSet x sigOk secver)

/-- OWNER_RECORD_WRITTEN: the flash programming of both copies ends. -/
def execOwnerRecordWritten (ok0 ok1 : Bool) (s : State) : Host.Outcome State Fault Refusal :=
  match s.flash.ownerSets with
  | [] => .next s
  | (j, _) :: rest =>
    if !s.live then .next s
    else
      let s := { s with flash := { s.flash with ownerSets := rest, copies := (s.flash.copies.set 4 ok0).set 5 ok1 },
                        sec := { s.sec with ownerPending := s.sec.ownerPending || ok0 || ok1 } }
      .next (s.complete j (if ok0 || ok1 then .ok else .tierFail))

/-- CERT_READ: the identity certificate, then the AK certificate. -/
def State.doCertRead (s : State) (x : OpCtx) (out : W64) (outlen : Nat) : State :=
  let bs := s.identityCert ++ s.akCert
  if outlen < bs.length then s.complete x.jseq .protection
  else match s.cmdWrite x.jseq (out.toNat % 2 ^ 48) bs with
    | none => s.complete x.jseq .tierFail
    | some s => s.complete x.jseq .ok (BitVec.ofNat 32 bs.length)

def execCertRead (src : Src) (out : W64) (outlen : Nat) (s : State) : Host.Outcome State Fault Refusal :=
  .next (s.command src (.certRead out outlen) fun x s => s.doCertRead x out outlen)

/-- IDE_KEY (R454). -/
def State.doIdeKey (s : State) (x : OpCtx) (port stream : Nat) (wrapOk : Bool) : State :=
  if 1 < port ∨ 3 < stream ∨ wrapOk = false then s.complete x.jseq .protection
  else (s.modPort port fun p => { p with streams := if p.streams.contains stream then p.streams else p.streams ++ [stream] }).complete x.jseq .ok

def execIdeKey (src : Src) (port stream : Nat) (request : W64) (wrapOk : Bool) (s : State) : Host.Outcome State Fault Refusal :=
  .next (s.command src (.ideKey port stream request wrapOk) fun x s => s.doIdeKey x port stream wrapOk)

end Sys2Proof.Machine
end

