-- ==== Sys2Proof/Machine/Faults.lean ====
section
/-! DEFINITION. Watchdogs (R474), the base patrol (R483, R484), the safelight port (R487 to R491, R499) and the
management bus (R493). -/

namespace Sys2Proof.Machine
open Sys2Proof

/-! ### Die controllers -/

/-- A double-bit error in a memory of the tile, or in a flit on its way there (R470): a word that reads as bad until it is
written, or a pair of well elements, whose poison bits are set at once. -/
def Tile.upset (t : Tile) (u : Upset) : Tile :=
  match u.kind with
  | .store => if u.at' < 262144 then { t with badWords := (t.badWords ++ [u.at']).dedup } else t
  | .code => if u.at' < 8192 then { t with badCode := (t.badCode ++ [u.at']).dedup } else t
  | .well =>
    let k := u.at' % 128
    if u.at' < 65536 then { t with wells := t.wells.modify (u.at' / 128) fun w => { w with poison := w.poison ||| (3#256 <<< (2 * k)) } } else t
  | .fabric _ => if u.at' < 65536 then { t with badWords := (t.badWords ++ (List.range 4).map fun k => 4 * u.at' + k).dedup } else t
  | .fabricStack => t

/-- A record of class 0x08: structure 2 wells, 3 fabric, and the word (R486, log entry 165). -/
def State.upsetRecord (s : State) (u : Upset) (struct unit : Nat) : State :=
  s.report { cls := 8, scope := 0, ward := (s.wardOfDie (u.tile / 64)).getD 0xFF, unit := unit, die := u.tile / 64, idx := u.tile % 64, src := 3,
             detail := BitVec.ofNat 128 (u.at' + struct * 2 ^ 64) }

/-- An upset and what it leaves at once. A word of a store is recorded by the unit that meets it. A flit leaves poison at its
destination in the destination's form: a poison write where it brings typed elements, a poisoned sector in a stack. -/
def State.upset (s : State) (u : Upset) : State :=
  let s := s.modTile u.tile fun t => t.upset u
  match u.kind with
  | .store | .code => s
  | .well => if u.at' < 65536 then s.upsetRecord u 2 0 else s
  | .fabric typed =>
    if u.at' < 65536 then
      let s := s.upsetRecord u 3 0xB
      if typed then s.notePoison u.tile (u.at' / 2048) 0xB (u.tile % 64) else s
    else s
  | .fabricStack =>
    if isStack (u.at' * 256) ∧ u.at' * 256 / 2 ^ 39 = u.tile / 64 then
      (s.upsetRecord u 3 0xB).poisonSec u.at' (s.secTags.get u.at').key
    else s

/-- HEARTBEAT: the die's heartbeat of a module tick; the tick goes on with it (log entry 70). The errors that have come about
in the memories of the die's tiles since the last one come with it (log entry 165). -/
def execHeartbeat (d : Nat) (b : Beat) (s : State) : Host.Outcome State Fault Refusal :=
  if s.live ∧ s.dies.contains d ∧ s.dieFencedAt d = false then
    let s := forEach (b.upsets.filter fun u => u.tile / 64 = d) s fun s u => s.upset u
    .next { s with beats := s.beats.set d (max (s.beats.get d) b.tick), tick := max s.tick b.tick }
  else .next s

/-- WATCHDOG_EXPIRE: 16 consecutive heartbeats of the die are missing. -/
def execWatchdogExpire (d : Nat) (s : State) : Host.Outcome State Fault Refusal :=
  if s.beats.get d + 16 ≤ s.tick then .next (s.fenceDie d 0) else .next s

def execControllerMemoryError (d : Nat) (s : State) : Host.Outcome State Fault Refusal := .next (s.fenceDie d 1)

/-! ### Base patrol -/

/-- Leaf pages of the ward in ascending virtual address, with their sizes. -/
def Ward.leaves (y : Ward) : List (Leaf × Nat) :=
  y.l1.flatMap fun (e : Nat × W64) =>
    if e.2.getLsbD 0 && e.2.getLsbD 1 then (match y.walk (e.1 * 2 ^ 30) with | some l => [(l, 2 ^ 30)] | none => [])
    else if e.2.getLsbD 0 then
      (y.l2.filter fun (x : Nat × W64) => x.1 / 512 = field e.2.toNat 27 14).filterMap fun (x : Nat × W64) =>
        (y.walk (e.1 * 2 ^ 30 + x.1 % 512 * 2 ^ 21)).map fun l => (l, 2 ^ 21)
    else []

/-- R483: pages without W under the WARD slot, in the stack tier: first sector and number of sectors. -/
def Ward.patrolPages (y : Ward) : List (Nat × Nat) :=
  (y.leaves.filter fun x => !x.1.wr && x.1.kslot = y.keySlot && isStack x.1.pa && y.holds (x.1.pa / 2 ^ 39)).map fun x => (x.1.pa / 256, x.2 / 256)

/-- Sector number `n` of the patrol. -/
def nthSector : List (Nat × Nat) → Nat → Option Nat
  | [], _ => none
  | (p, c) :: r, n => if n < c then some (p + n) else nthSector r (n - c)

/-- WRD_PATROL_CNT (R502). -/
def Ward.patrolWord (y : Ward) : Nat :=
  y.patPasses.toNat * 2 ^ 32 + y.patCorrected.toNat * 2 ^ 16 + y.patPoisoned.toNat * 2 ^ 8 + (if y.patLate then 1 else 0)

def State.patrolRecord (s : State) (w scope : Nat) (st : Byte) : State :=
  s.report { cls := 0x12, scope := scope, status := st, ward := w, unit := 0xA, die := (s.ward w).lowDie, src := 3,
             detail := BitVec.ofNat 128 (s.ward w).patrolWord }

/-- A pass begins; one over no page ends at once. -/
def Ward.patrolBegin (y : Ward) : Ward :=
  if y.patrolPages.isEmpty then { y with patPasses := y.patPasses + 1, patBusy := false, patDue := false, patNext := 0 }
  else { y with patBusy := true, patDue := false, patNext := 0 }

/-- PATROL_CYCLE: a pass begins, or the one that has not finished is late. -/
def execPatrolCycle (w : Nat) (s : State) : Host.Outcome State Fault Refusal :=
  let y := s.ward w
  if !s.live ∨ y.running = false ∨ field (y.reg oPatrol) 16 16 = 1 then .next s
  else if y.patBusy then .next ((s.modWard w fun y => { y with patLate := true, patDue := true }).patrolRecord w 0 0)
  else .next (s.modWard w Ward.patrolBegin)

/-- PATROL_READ: the pass reads its next sector; poison faults the job (R484). -/
def execPatrolRead (w : Nat) (rep : HbmRep) (s : State) : Host.Outcome State Fault Refusal :=
  let y := s.ward w
  if !s.live ∨ y.running = false ∨ y.patBusy = false ∨ nthSector y.patrolPages y.patNext ≠ some rep.sector then .next s
  else
    let was := (s.secTags.get rep.sector).kind == .poison
    let key := (s.slot y.keySlot).key
    let s := s.hbmReports [rep]
    let s := if rep.corrected = 0 then s else s.modWard w fun y => { y with patCorrected := incSat y.patCorrected }
    let (s, r) := s.readTag rep.sector key w 0 rep.uncorr
    let s := if r = .poison then
        let s := if was then s else s.modWard w fun y => { y with patPoisoned := incSat y.patPoisoned }
        (s.jobFault w .poison).patrolRecord w 4 St.poison.code
      else s
    .next (s.modWard w fun y =>
      if (nthSector y.patrolPages (y.patNext + 1)).isSome then { y with patNext := y.patNext + 1 }
      else
        let y := { y with patPasses := y.patPasses + 1, patBusy := false, patNext := 0 }
        if y.patDue then y.patrolBegin else y)

/-! ### Safelight port -/

/-- The management domain runs: power is on and no reset is held. -/
def State.managed (s : State) : Bool := s.life != .off && s.life != .reset

/-- LOGICAL_ID as the safelight port tells it: 0xFF where the module holds none. -/
def State.safId (s : State) : Nat := if s.standby || s.life == .bootFailed || !s.saf.image then 0xFF else s.linkAddr

/-- The bytes of a record datagram (R489): MAGIC, VERSION, COUNT, LOGICAL_ID, FLAGS, DEVID, FIRST, RING_FROM, then the compact
records. -/
def State.datagramBytes (s : State) (flags from' : Nat) (l : List Nat) : List Byte :=
  toLE 4 0x5332444C ++ toLE 1 1 ++ toLE 1 l.length ++ toLE 1 s.safId ++ toLE 1 flags ++ toLE 8 (s.sec.deviceId.toNat % 2 ^ 64) ++
  toLE 8 (l.headD 0) ++ toLE 8 from' ++ l.flatMap fun q => ((s.saf.unacked.find? fun c => c.seq = q).map (·.bytes)).getD []

/-- A record datagram. -/
def State.datagram (s : State) (flags : Nat) (from' : Nat) (l : List Nat) : State :=
  s.emit (.records (BitVec.ofNat 8 flags) from' l (s.datagramBytes flags from' l))

/-- SAFELIGHT_SEND: up to 40 records that have not been sent leave in one datagram, while the PCS is up. -/
def execSafelightSend (s : State) : Host.Outcome State Fault Refusal :=
  let l := ((s.saf.unacked.filter fun c => !c.sent).take 40).map (·.seq)
  if !s.managed ∨ s.saf.pcsUp = false ∨ l = [] then .next s
  else
    let s := s.datagram 0 0 l
    .next { s with saf := { s.saf with unacked := s.saf.unacked.map fun c => if l.contains c.seq then { c with sent := true } else c } }

/-- Lists of at most 40, in order. -/
def chunks40 (l : List Nat) : List (List Nat) := (List.range ((l.length + 39) / 40)).map fun j => (l.drop (40 * j)).take 40

/-- R491: the network is reachable again, so every record still held is sent with RESEND. -/
def State.leaveFallback (s : State) : State :=
  let all := s.saf.unacked.map (·.seq)
  let ring := s.saf.discardedFrom && !all.isEmpty
  let s := { s with saf := { s.saf with reachable := true, fallback := false, discardedFrom := s.saf.discardedFrom && all.isEmpty,
                                        resent := incSat s.saf.resent all.length,
                                        unacked := s.saf.unacked.map fun c => { c with sent := true } } }
  forEach (chunks40 all).zipIdx s fun s (l, j) =>
    if ring && j == 0 then s.datagram 3 (all.headD 0) l else s.datagram 1 0 l

/-- First 8 bytes of the device identifier. -/
def State.devid (s : State) : W64 := s.sec.deviceId.setWidth 64

/-- COLLECTOR_ACK (R490). -/
def execCollectorAck (dev : W64) (ack : W64) (s : State) : Host.Outcome State Fault Refusal :=
  if !s.managed ∨ s.saf.pcsUp = false ∨ dev ≠ s.devid then .next s
  else
    let s := { s with saf := { s.saf with acked := if s.saf.acked.toNat < ack.toNat then ack else s.saf.acked,
                                          unacked := s.saf.unacked.filter fun c => decide (ack.toNat ≤ c.seq) } }
    .next (if s.saf.reachable then s else s.leaveFallback)

/-- RESEND_TIMER: a record that is still not acknowledged is sent again while the network is reachable. -/
def execResendTimer (seq : Nat) (s : State) : Host.Outcome State Fault Refusal :=
  if s.managed ∧ s.saf.reachable ∧ (s.saf.unacked.any fun c => c.seq = seq && c.sent) then
    let s := s.datagram 1 0 [seq]
    .next { s with saf := { s.saf with resent := incSat s.saf.resent } }
  else .next s

/-- The network is unreachable and fall-back begins (R491). -/
def State.enterFallback (s : State) : State := { s with saf := { s.saf with reachable := false, fallback := true } }

def execAliveExpire (s : State) : Host.Outcome State Fault Refusal :=
  if s.managed ∧ s.saf.reachable then .next s.enterFallback else .next s

def execPcsSyncLoss (s : State) : Host.Outcome State Fault Refusal :=
  if s.managed ∧ s.saf.pcsUp then .next ({ s with saf := { s.saf with pcsUp := false } }.enterFallback) else .next s

def execPcsSync (s : State) : Host.Outcome State Fault Refusal :=
  if s.managed then .next { s with saf := { s.saf with pcsUp := true } } else .next s

/-- SAF_RING_IDX (R499): the record, or zeros where the ring does not hold it. -/
def execSafRingIdx (r : Req) (v : W64) (s : State) : Host.Outcome State Fault Refusal :=
  if !s.live then .next s
  else if r.func ≠ 0 then .next s.refuse
  else
    let q := v.toNat
    let b := if s.faultHeld q then (s.faults.get ((q - 1) % faultRing)).bytes else List.replicate 128 0
    .next { s with saf := { s.saf with ringIdx := v, ringData := b } }

/-- R488: the port answers ARP under an IPv4 image, neighbour discovery, and echo requests. -/
def execArpRequest (targetMatches : Bool) (s : State) : Host.Outcome State Fault Refusal :=
  if s.managed && s.saf.pcsUp && targetMatches && s.saf.image && s.image.family == 4 then .next (s.emit .arpReply) else .next s

def execNeighbourSolicitation (targetMatches : Bool) (s : State) : Host.Outcome State Fault Refusal :=
  if s.managed && s.saf.pcsUp && targetMatches then .next (s.emit .naReply) else .next s

def execIcmpEcho (ident seq : Nat) (data : List Byte) (s : State) : Host.Outcome State Fault Refusal :=
  if s.managed ∧ s.saf.pcsUp then .next (s.emit (.echoReply ident seq data)) else .next s

/-! ### MCTP on I3C -/

/-- MOD_HEALTH (R500). -/
def State.healthWord (s : State) : Nat :=
  (if s.modFenced then 2 ^ 32 else 0) +
  ((List.range 8).map fun n => (if !s.dies.contains n then 2 else if s.dieFencedAt n then 1 else 0) * 16 ^ n).sum

/-- SAF_STATE (R494). -/
def State.safWord (s : State) : Nat :=
  s.saf.eid.toNat * 2 ^ 24 + s.saf.da.toNat * 2 ^ 17 + bit s.saf.fallback 3 + bit s.saf.reachable 2 + bit s.saf.pcsUp 1 + bit s.saf.image 0

/-- SEC_STATE (R464). -/
def State.secWord (s : State) : Nat :=
  bit s.sec.owner 4 + bit s.sec.ownerPending 3 + bit s.sec.akReady 2 + bit s.sec.pufOk 1 + bit s.sec.bootVerified 0

/-- ENTDAA: the dynamic address. -/
def execEntdaa (da : BitVec 7) (s : State) : Host.Outcome State Fault Refusal :=
  if s.managed then .next { s with saf := { s.saf with da := da } } else .next s

/-- An MCTP message reaches the module once it has a dynamic address. -/
def State.mctp (s : State) : Bool := s.managed && s.saf.da != 0

def execSetEndpointId (eid : Byte) (s : State) : Host.Outcome State Fault Refusal :=
  if s.mctp then .next { s with saf := { s.saf with eid := eid } } else .next s

def execGetEndpointId (s : State) : Host.Outcome State Fault Refusal :=
  if s.mctp then .next (s.emit (.mctpEid s.saf.eid)) else .next s

/-- MCTP control, PLDM, vendor-defined by IANA number (log entry 71 for the type numbers). -/
def execGetMessageTypeSupport (s : State) : Host.Outcome State Fault Refusal :=
  if s.mctp then .next (s.emit (.mctpTypes [0x00, 0x01, 0x7F])) else .next s

/-- The numeric sensors in the order of R493: eight die temperatures, inlet, outlet, input voltage, input power. -/
def State.sensor (s : State) (n : Nat) : Option Int :=
  if n < 10 then some (Tab.getD (-32768) s.pwr.temps n)
  else if n = 10 then some s.pwr.vin
  else if n = 11 then some s.pwr.pin
  else none

def execPldmSensorRead (sensor : Nat) (s : State) : Host.Outcome State Fault Refusal :=
  match s.sensor sensor with
  | some v => if s.mctp then .next (s.emit (.pldm sensor v)) else .next s
  | none => .next s

/-- Compact records by SEQ, as far as the fault ring holds them. -/
def execReadCompactRecords (first count : Nat) (s : State) : Host.Outcome State Fault Refusal :=
  if s.mctp then
    let rs := (s.faults.map fun (e : Nat × FRec) => e.2).filter fun r => decide (first ≤ r.seq) && decide (r.seq < first + count)
    .next (s.emit (.compact (rs.map (·.seq)) (rs.flatMap (·.compact))))
  else .next s

def execReadStatusRegisters (s : State) : Host.Outcome State Fault Refusal :=
  if s.mctp then
    .next (s.emit (.status (BitVec.ofNat 64 s.healthWord) (BitVec.ofNat 64 s.safWord) (BitVec.ofNat 64 s.secWord)))
  else .next s

def execRecordEventEnable (on : Bool) (s : State) : Host.Outcome State Fault Refusal :=
  if s.mctp then .next { s with saf := { s.saf with recEvents := on } } else .next s

end Sys2Proof.Machine
end

