-- ==== Sys2Proof/Machine/BootImage.lean ====
section
/-! DEFINITION. The configuration image (R507 to R510): its header and sections read from the bytes of a flash copy, and the
checks of step 5 of R511. -/

namespace Sys2Proof.Machine
open Sys2Proof

/-! ### Fields -/

/-- The little-endian field of `n` bytes at offset `k` of an image whose bytes that are not zero are `b`. -/
def imgAt (b : Tab Byte) (k n : Nat) : Nat :=
  b.foldl (fun v e => if k ≤ e.1 ∧ e.1 < k + n then v + e.2.toNat * 256 ^ (e.1 - k) else v) 0

/-- Every byte from `k` to `k + n - 1` that is not zero stands where `used` allows, by its offset from `k`, and has a value that
it allows there. -/
def imgOnly (b : Tab Byte) (k n : Nat) (used : Nat → Byte → Bool) : Bool :=
  b.all fun e => decide (e.1 < k) || decide (k + n ≤ e.1) || used (e.1 - k) e.2

/-- An entry in the layout of MOD_ROUTEa (R405). -/
def routeAt (b : Tab Byte) (k : Nat) : RouteEnt :=
  let v := imgAt b k 8
  { valid := v.testBit 63, loc := v.testBit 62, ports := BitVec.ofNat 48 v }

/-- A byte of a route entry that its reserved bits allow. -/
def routeByte (o : Nat) (x : Byte) : Bool := o % 8 != 6 && (o % 8 != 7 || x.toNat % 64 == 0)

/-! ### Sections (R508) -/

/-- A section: TYPE, where its body begins, LENGTH, and whether its header's reserved bytes are zero. -/
structure Section where
  type : Nat
  at' : Nat
  len : Nat
  clean : Bool
deriving DecidableEq, Repr, Inhabited

/-- `n` sections from offset `k` on. -/
def sectionsFrom (b : Tab Byte) : Nat → Nat → List Section
  | 0, _ => []
  | n + 1, k =>
    let len := imgAt b (k + 4) 4
    { type := imgAt b k 2, at' := k + 16, len := len, clean := imgAt b (k + 2) 2 == 0 && imgAt b (k + 8) 8 == 0 } ::
      sectionsFrom b n (k + 16 + len)

/-- Where the first section begins. -/
def sectionsAt : Nat := 16288

def sectionsOf (b : Tab Byte) : List Section := sectionsFrom b (imgAt b 6 2) sectionsAt

/-- The body of the section of TYPE `t`; 0 where there is none. -/
def bodyAt (b : Tab Byte) (t : Nat) : Option Nat := ((sectionsOf b).find? fun x => x.type = t).map (·.at')

/-- The shortest body of a section's format (R509, R510). -/
def bodyMin (b : Tab Byte) (x : Section) : Nat :=
  match x.type with
  | 1 => 1 | 2 => 3 | 3 => 39184 + 552 * imgAt b (x.at' + 4) 2 | 4 => 4352 | 5 => 20 | 6 => 304 | 7 => 48 | _ => 2

/-- Design power and 10 ms peak of the variant in W (R1, R527). -/
def powerCaps (v : Variant) : Nat × Nat :=
  match v with
  | .full => (4200, 4800) | .half => (2200, 2500) | .serve => (4050, 4800)

/-- Row `k` of the ward plan of address `a`: FIRST and COUNT. -/
def planRow (b : Tab Byte) (k a w : Nat) : Nat × Nat := (imgAt b (k + 64 * a + 8 * w) 4, imgAt b (k + 64 * a + 8 * w + 4) 4)

/-- The ranges of one address end at or below 2^21 and do not overlap. -/
def planRowsOk (rows : List (Nat × Nat)) : Bool :=
  (rows.all fun r => decide (r.1 < 2 ^ 21) && decide (r.1 + r.2 ≤ 2 ^ 21)) &&
  (rows.zipIdx).all fun (r, i) => (rows.zipIdx).all fun (q, j) =>
    decide (i ≤ j) || r.2 == 0 || q.2 == 0 || decide (r.1 + r.2 ≤ q.1) || decide (q.1 + q.2 ≤ r.1)

/-- Fields in their ranges, and unused bytes zero. -/
def bodyOk (v : Variant) (b : Tab Byte) (x : Section) : Bool :=
  let k := x.at'
  let u (o n : Nat) := imgAt b (k + o) n
  let only := imgOnly b k x.len
  match x.type with
  | 1 => decide (32 ≤ u 0 1) && decide (u 0 1 ≤ 64) && only fun o _ => o == 0
  | 2 => [4800, 5600, 6400].contains (u 0 2) && decide (u 2 1 ≤ 1) && only fun o _ => decide (o < 3)
  | 3 =>
    let n := u 4 2
    decide (1 ≤ u 0 1) && decide (u 0 1 ≤ 64) && decide (n ≤ 256) &&
    ((List.range n).all fun r => decide (u (39184 + 552 * r) 1 < 64) && decide (64 ≤ u (39185 + 552 * r) 1) && decide (u (39185 + 552 * r) 1 ≤ 67)) &&
    only fun o y =>
      if o < 16 then decide (o < 6) && (o != 1 || decide (y.toNat < 2))
      else if o < 2192 then true
      else if o < 39184 then routeByte o y
      else decide (o < 39184 + 552 * n) && (decide ((o - 39184) % 552 < 2) || (decide (8 ≤ (o - 39184) % 552) && routeByte ((o - 39184) % 552) y))
  | 4 => ((List.range 68).all fun a => planRowsOk ((List.range 8).map (planRow b k a))) && only fun o _ => decide (o < 4352)
  | 5 => decide (u 0 2 ≤ (powerCaps v).1) && decide (u 2 2 ≤ (powerCaps v).2) && only fun o _ => decide (o < 20)
  | 6 => decide (u 0 2 ≤ 4094) && (u 6 1 == 4 || u 6 1 == 6) && decide (8 ≤ u 7 1) && decide (u 7 1 ≤ 30) && only fun o _ => decide (o < 304)
  | 7 => only fun o _ => decide (o < 4) || (decide (16 ≤ o) && decide (o < 48))
  | _ =>
    decide (85 ≤ u 0 1) && decide (u 0 1 ≤ 100) && decide (55 ≤ u 1 1) && decide (u 1 1 ≤ 65) && only fun o _ => decide (o < 2)

/-- Section `i` of an image of `len` bytes: the types stand in ascending order from 1, the required ones are there, and every
section keeps its format. -/
def sectionOk (v : Variant) (b : Tab Byte) (len i : Nat) (x : Section) : Bool :=
  x.type == i + 1 && x.clean && x.len % 16 == 0 && decide (x.at' + x.len ≤ len) && decide (bodyMin b x ≤ x.len) && bodyOk v b x

/-- The index of the first section that fails; the last stands for bytes beyond the sections (log entry 188). -/
def badSection (v : Variant) (b : Tab Byte) : Option Nat :=
  let xs := sectionsOf b
  let len := imgAt b 8 4
  match ((xs.zipIdx).find? fun (x, i) => !sectionOk v b len i x).map (·.2) with
  | some i => some i
  | none => if (xs.getLast?.map fun x => x.at' + x.len) = some len then none else some (xs.length - 1)

/-! ### The image -/

/-- MAGIC, VERSION, SECTIONS, LENGTH and the reserved bytes of the header (R507). -/
def headerOk (b : Tab Byte) : Bool :=
  let len := imgAt b 8 4
  imgAt b 0 4 == 0x4743444C && imgAt b 4 2 == 1 && (imgAt b 6 2 == 7 || imgAt b 6 2 == 8) && len % 16 == 0 && decide (len ≤ 2 ^ 22) &&
  imgAt b 16 1 % 2 == 0 && decide (imgAt b 16 1 < 16) && imgAt b 17 15 == 0

/-- The link address of a device: its place in DEVMAP (R510). -/
def addrOf (devmap : Tab (BitVec 256)) (dev : BitVec 256) : Option Nat := (List.range 68).find? fun a => devmap.get a == dev && dev != 0

def devmapOf (b : Tab Byte) : Tab (BitVec 256) :=
  let k := (bodyAt b 3).getD 0
  (List.range 68).foldl (fun m a => m.set a (BitVec.ofNat 256 (imgAt b (k + 16 + 32 * a) 32))) []

/-- What the image says to the module at link address `x`. -/
def imageOf (b : Tab Byte) (x : Nat) : Image :=
  let k (t : Nat) := (bodyAt b t).getD 0
  let u (t o n : Nat) := imgAt b (k t + o) n
  let planOf : Tab (Tab (Nat × Nat)) := (List.range 68).foldl (fun m a => m.set a ((List.range 8).foldl (fun r w => r.set w (planRow b (k 4) a w)) [])) []
  { nmax := u 1 0 1, pinMbps := u 2 0 2, refresh := u 2 2 1, plan := planOf.get x, planOf := planOf, designW := u 5 0 2, peakW := u 5 2 2,
    dieW := (List.range 8).foldl (fun m d => m.set d (u 5 (4 + 2 * d) 2)) [], vlan := u 6 0 2, port := u 6 2 2, cport := u 6 4 2, family := u 6 6 1,
    plen4 := u 6 7 1, collector := BitVec.ofNat 128 (u 6 8 16), prefix6 := BitVec.ofNat 64 (u 6 24 8),
    addr4 := (List.range 68).foldl (fun m a => m.set a (BitVec.ofNat 32 (u 6 (32 + 4 * a) 4))) [],
    fwMin := u 7 0 4, fwPin := BitVec.ofNat 256 (u 7 16 32),
    tjThrottle := if (bodyAt b 8).isSome then u 8 0 1 else 95, outThrottle := if (bodyAt b 8).isSome then u 8 1 1 else 65,
    domainSize := u 3 0 1, autoLoss := (u 3 1 1).testBit 0, lossMs := u 3 2 2,
    tko := (List.range (u 3 4 2)).map fun r =>
      { m := u 3 (39184 + 552 * r) 1, s := u 3 (39185 + 552 * r) 1 - 64, ent := routeAt b (k 3 + 39184 + 552 * r + 8 + 8 * x) },
    devmap := devmapOf b, routes := (List.range 68).foldl (fun m a => m.set a (routeAt b (k 3 + 2192 + 544 * x + 8 * a))) [],
    variants := BitVec.ofNat 8 (imgAt b 16 1), secver := imgAt b 12 4, keyid := BitVec.ofNat 256 (imgAt b 32 32) }

/-- A port bit names a link of a die that is not fitted. -/
def routeAbsent (v : Variant) (e : RouteEnt) : Bool :=
  (List.range 48).any fun k => e.ports.getLsbD k && !Config.dieFitted v (k / 6)

/-- R8: a section that names an absent unit, by its index: a route of this module through an absent link, a limit of an absent
die. -/
def absentAt (v : Variant) (m : Image) : Option Nat :=
  if (m.routes.any fun e => routeAbsent v e.2) || m.tko.any fun r => routeAbsent v r.ent then some 2
  else if m.dieW.any fun e => e.2 != 0 && !Config.dieFitted v e.1 then some 4
  else none

/-- Step 5 of R511 on one copy, in its order: the reason of R512 and the index. -/
def cfgReason (v : Variant) (ownerVer : Nat) (dev : BitVec 256) (c : ImgCopy) : Option (Nat × Nat) :=
  match c.bytes with
  | none => some (1, 0)
  | some b =>
    if headerOk b = false then some (2, 0)
    else if c.sigOk = false then some (3, 0)
    else if imgAt b 12 4 < ownerVer then some (4, 0)
    else if (imgAt b 16 1).testBit (Config.variantCode v) = false then some (5, 0)
    else match badSection v b with
      | some i => some (2, i)
      | none =>
        let a := addrOf (devmapOf b) dev
        -- a device that has no address has no routes
        match absentAt v (imageOf b (a.getD 68)) with
        | some i => some (6, i)
        | none => if a.isNone then some (9, 0) else none

def cfgCheck (v : Variant) (ownerVer : Nat) (dev : BitVec 256) (c : ImgCopy) : CopyCheck :=
  match cfgReason v ownerVer dev c with
  | some (r, i) => { ok := false, reason := BitVec.ofNat 8 r, idx := i }
  | none => {}

/-- MAGIC, VERSION and LENGTH of a firmware image (R507); its SECTIONS is its own, and bytes 16 to 63 hold the signer's key. -/
def fwHeaderOk (b : Tab Byte) : Bool :=
  let len := imgAt b 8 4
  imgAt b 0 4 == 0x5746444C && imgAt b 4 2 == 1 && len % 16 == 0 && decide (sectionsAt ≤ len) && decide (len ≤ 2 ^ 22)

/-- Step 6 of R511 on one copy of the firmware image, under the image `m`. -/
def fwCheck (m : Image) (c : ImgCopy) : CopyCheck :=
  match c.bytes with
  | none => { ok := false, reason := 1 }
  | some b =>
    if fwHeaderOk b = false then { ok := false, reason := 2 }
    else if c.sigOk = false then { ok := false, reason := 3 }
    else if imgAt b 12 4 < m.fwMin then { ok := false, reason := 4 }
    else if m.fwPin ≠ 0 ∧ c.digest ≠ m.fwPin then { ok := false, reason := 0x0A }
    else {}

end Sys2Proof.Machine
end

