-- ==== Sys2Proof/Machine/Boot.lean ====
section
/-! DEFINITION. Boot and resets (R503 to R516), flash writes (R506, R525), supply and power (R517, R518), thermal
throttling (R522, R523), ordered stops (R519 to R521). -/

namespace Sys2Proof.Machine
open Sys2Proof

/-! ### Boot (R511, R512) -/

/-- What a module reset leaves: the queue, the flash, memory outside the tile stores under keys that are gone, and the
counters of this model. -/
def State.afterReset (s : State) (life : Life) : State :=
  { State.reset with
      pending := s.pending, fresh := s.fresh, variant := s.variant, life := life, keyNext := s.keyNext, sent := s.sent,
      mem := s.mem.filter fun c => decide (c.1 < 2 ^ 42) || decide (2 ^ 48 ≤ c.1), secTags := s.secTags,
      flash := { copies := s.flash.copies } }

/-- The first copy that passes; `some` reason and index where copy 0 failed; `none` where both fail. -/
def pickCopy (c : CopyCheck × CopyCheck) : Option Bool := if c.1.ok then some false else if c.2.ok then some true else none

/-- A failed check (R512): item, reason, index, failed copies. -/
structure BootFail where
  item : Nat
  reason : Nat
  idx : Nat := 0
  copies : Nat := 3
deriving DecidableEq, Repr, Inhabited

def BootFail.detail (f : BootFail) : Nat := f.item + f.reason * 2 ^ 8 + f.copies * 2 ^ 16 + f.idx * 2 ^ 32

/-- What a checked item leaves in CFG_BOOT where copy 1 was used. -/
def copyNote (item : Nat) (c : CopyCheck × CopyCheck) (b : Boot) : Boot :=
  if c.1.ok then b else { b with item := BitVec.ofNat 8 item, reason := c.1.reason, index := BitVec.ofNat 16 c.1.idx }

def bothFail (item : Nat) (c : CopyCheck × CopyCheck) : BootFail := { item := item, reason := c.2.reason.toNat, idx := c.2.idx }

def verOf (b : BootIn) : Nat := if b.ownerErased then 0 else b.ownerVer

/-- The checks of both copies of the configuration image. -/
def cfgChecks (v : Variant) (b : BootIn) : CopyCheck × CopyCheck :=
  (cfgCheck v (verOf b) b.deviceId b.cfg.1, cfgCheck v (verOf b) b.deviceId b.cfg.2)

/-- The copy of the configuration image that is used. -/
def cfgUsed (v : Variant) (b : BootIn) : ImgCopy := if (cfgChecks v b).1.ok then b.cfg.1 else b.cfg.2

/-- The module's link address under that copy. -/
def bootAddr (v : Variant) (b : BootIn) : Option Nat := (cfgUsed v b).bytes.bind fun x => addrOf (devmapOf x) b.deviceId

/-- The image that it holds. -/
def bootImage (v : Variant) (b : BootIn) : Image :=
  match (cfgUsed v b).bytes with
  | some x => imageOf x ((bootAddr v b).getD 0)
  | none => {}

def fwChecks (v : Variant) (b : BootIn) : CopyCheck × CopyCheck := (fwCheck (bootImage v b) b.fw.1, fwCheck (bootImage v b) b.fw.2)

/-- The checks of R511 in order: the failure, or the notes that the copies leave. -/
def bootChecks (v : Variant) (b : BootIn) : Except BootFail Boot :=
  if !b.flashC0 ∧ !b.flashC4 then .error { item := 0, reason := 1 }
  else
    let n : Boot := { slow := b.slow, c4 := !b.flashC0 }
    match pickCopy b.ident with
    | none => .error (bothFail 1 b.ident)
    | some _ =>
      let n := copyNote 1 b.ident n
      match if b.ownerErased then some false else pickCopy b.owner with
      | none => .error (bothFail 2 b.owner)
      | some o =>
        let n := if b.ownerErased then n else { copyNote 2 b.owner n with ownCopy := o }
        match pickCopy (cfgChecks v b) with
        | none => .error (bothFail 3 (cfgChecks v b))
        | some c =>
          let n := { copyNote 3 (cfgChecks v b) n with cfgCopy := c }
          match pickCopy (fwChecks v b) with
          | none => .error (bothFail 4 (fwChecks v b))
          | some f =>
            let n := { copyNote 4 (fwChecks v b) n with fwCopy := f }
            match b.badStack with
            | some k => .error { item := 5, reason := 0x0B, idx := k, copies := 0 }
            | none => .ok n

/-- The boot-failed state. -/
def State.bootFailed (s : State) (b : BootIn) (f : BootFail) : State :=
  let s := { s with life := .bootFailed, boot := { stage := 0xE, item := BitVec.ofNat 8 f.item, reason := BitVec.ofNat 8 f.reason,
                                                   index := BitVec.ofNat 16 f.idx, slow := b.slow, c4 := !b.flashC0, failCopy := f.copies },
                    sec := { s.sec with pufOk := decide (1 < f.item), deviceId := if 1 < f.item then b.deviceId else 0 } }
  s.report { cls := 0x11, scope := 7, unit := 0xD, src := 3, detail := BitVec.ofNat 128 f.detail }

/-- N = min(NMAX, N_SUPPLY, N_POWER, N_THERMAL), from 16 to 64 (R514); changes are counted. -/
def Pwr.clock (p : Pwr) : Pwr :=
  let n := max 16 (min (min p.nmax p.nSupply) (min p.nPower p.nThermal))
  if n = p.n then p else { p with n := n, changes := p.changes + 1 }

/-- Copies of flash items that a boot has read (R505). -/
def readCopies (t : Tab Bool) (item : Nat) (c : CopyCheck × CopyCheck) : Tab Bool :=
  let t := t.set (2 * item) c.1.ok
  if c.1.ok then t else t.set (2 * item + 1) c.2.ok

/-- Steps 7 to 11 of R511. -/
def State.bootDone (s : State) (b : BootIn) (n : Boot) : State :=
  let v := s.variant
  let m := bootImage v b
  let a := (bootAddr v b).getD 0
  let fw := if (fwChecks v b).1.ok then b.fw.1 else b.fw.2
  let (k, s) := s.freshKey
  let absent := (List.range 48).filter fun l => !s.dies.contains (l / 6)
  let pwr : Pwr := { s.pwr with nmax := m.nmax, designW := m.designW, peakW := m.peakW, dieW := m.dieW, tj := m.tjThrottle, outT := m.outThrottle }
  let copies := readCopies (readCopies (readCopies (readCopies s.flash.copies 1 b.ident) 2 b.owner) 3 (cfgChecks v b)) 4 (fwChecks v b)
  { s with
      life := .up, boot := { n with stage := 0xB }, image := m, linkAddr := a, standby := decide (64 ≤ a),
      routes := m.routes, slots := s.slots.set 0 { st := .modul, key := k }, jrnBoot := b.jrnBoot, jrnNext := 1,
      pwr := pwr.clock,
      links := absent.foldl (fun t l => t.set l { st := .missing : Link }) s.links,
      ports := (s.ports.set 0 { s.port 0 with detect := false }).set 1 { s.port 1 with detect := false },
      saf := { s.saf with image := true, fallback := true },
      flash := { s.flash with copies := copies },
      sec := { s.sec with owner := !b.ownerErased, akReady := true, pufOk := true, bootVerified := true, fwDigest := fw.digest,
                          cfgDigest := (cfgUsed v b).digest, ownerId := if b.ownerErased then 0 else b.ownerId, deviceId := b.deviceId,
                          ownerVer := verOf b } }

/-- The boot sequence from a module that has just been reset. -/
def State.bootUp (s : State) (b : BootIn) : State :=
  match bootChecks s.variant b with
  | .error f => s.bootFailed b f
  | .ok n => s.bootDone b n

def execPowerOn (b : BootIn) (s : State) : Host.Outcome State Fault Refusal :=
  if s.life = .off then .next ((s.afterReset .off).bootUp b) else .next s

/-- BOOT_FAIL_RESEND: the record of the failure is sent again. -/
def execBootFailResend (s : State) : Host.Outcome State Fault Refusal :=
  if s.life = .bootFailed ∧ s.saf.pcsUp then
    .next ({ s with saf := { s.saf with resent := incSat s.saf.resent } }.datagram 1 0 [1])
  else .next s

/-- RESET_N held low: everything that R515 resets is reset; an ordered stop is abandoned (R516). -/
def execResetNAssert (s : State) : Host.Outcome State Fault Refusal :=
  if s.life = .off then .next s else .next (s.afterReset .reset)

def execResetNRelease (b : BootIn) (s : State) : Host.Outcome State Fault Refusal :=
  if s.life = .reset then .next (s.bootUp b) else .next s

/-! ### Flash writes -/

/-- The image that CFG_FLASH_SRC and LEN name, read from the host tier. -/
def State.staged (s : State) (x : StagedIn) : ImgCopy :=
  let lo := hostBase (field s.flash.src.toNat 47 47) s.flash.src.toNat
  { bytes := if x.readOk then
        some ((s.mem.filter fun c => decide (lo ≤ c.1) && decide (c.1 < lo + s.flash.ctlHi.toNat)).map fun c => (c.1 - lo, c.2))
      else none,
    sigOk := x.sigOk, digest := x.digest }

/-- The check of an image of flash item `item`, against what is in effect now (R506). -/
def State.imageCheck (s : State) (item : Nat) (c : ImgCopy) : CopyCheck :=
  if item = 3 then cfgCheck s.variant s.sec.ownerVer s.sec.deviceId c else fwCheck s.image c

/-- The image write of R506: the staged image is checked, then the other copy of the item. -/
def State.startFlash (s : State) (img : StagedIn) (other : ImgCopy) : State :=
  let f := s.flash
  let item := field f.ctlLo.toNat 7 4
  let refuse (r : Nat) := { s with flash := { f with st := .refused, reason := BitVec.ofNat 8 r } }
  if item ≠ 3 ∧ item ≠ 4 then refuse 2
  else if !s.canIssue (field f.src.toNat 47 47) 0 then refuse 1
  else if !(s.imageCheck item (s.staged img)).ok then refuse (s.imageCheck item (s.staged img)).reason.toNat
  else if !(s.imageCheck item other).ok then refuse (s.imageCheck item other).reason.toNat
  else { s with flash := { f with st := .busy, reason := 0, target := some (item, f.ctlLo.getLsbD 1) } }

/-- The fields of CFG_FLASH_CTL that a write reaches; GO is not held. -/
def Flash.ctlWrite (f : Flash) (a : RegW) : Flash :=
  let f := if a.hitsLo then { f with ctlLo := a.lo &&& 0xF2 } else f
  if a.hitsHi then
    { f with ctlHi := BitVec.ofNat 32 ((if a.size = 8 then a.val.toNat / 2 ^ 32 else a.val.toNat) % 2 ^ 23) } else f

/-- FLASH_WRITE: a write with GO starts the image write, unless one is busy. -/
def execFlashWrite (r : Req) (a : RegW) (img : StagedIn) (other : ImgCopy) (s : State) : Host.Outcome State Fault Refusal :=
  if !s.live ∨ !a.legal ∨ a.off / 8 ≠ 0x10010 / 8 then .next s
  else if r.func ≠ 0 then .next s.refuse
  else
    let s := { s with flash := s.flash.ctlWrite a }
    if a.hitsLo ∧ a.lo.getLsbD 0 ∧ s.flash.st ≠ .busy then .next (s.startFlash img other) else .next s

/-- FLASH_WRITE_COMPLETE: a target copy whose compare fails is left invalid. -/
def execFlashWriteComplete (compareOk : Bool) (s : State) : Host.Outcome State Fault Refusal :=
  match s.flash.st, s.flash.target with
  | .busy, some (item, copy) =>
    if s.live then
      .next { s with flash := { s.flash with st := if compareOk then .done else .failed, target := none,
                                             copies := s.flash.copies.set (2 * item + (if copy then 1 else 0)) compareOk } }
    else .next s
  | _, _ => .next s

/-! ### CLASS 0x10 records (R523) -/

def powerDetail (event nmin sensor vin : Nat) (tmax : Int) (us : Nat) : BitVec 128 :=
  BitVec.ofNat 128 (event + nmin * 2 ^ 8 + sensor * 2 ^ 16 + vin * 2 ^ 32 + (BitVec.ofInt 16 tmax).toNat * 2 ^ 48 + us % 2 ^ 32 * 2 ^ 64)

def State.episodeRecord (s : State) (event : Nat) (e : Episode) : State :=
  s.report { cls := 0x10, scope := 0, unit := 0xD, src := 3, detail := powerDetail event e.nmin e.sensor e.vin e.tmax e.us }

/-- One more moment of an episode: `us` since the last, N and the input (lowest, or highest for the clamp). -/
def Episode.step (e : Episode) (us n vin : Nat) (high : Bool) : Episode :=
  { e with nmin := min e.nmin n, vin := if high then max e.vin vin else min e.vin vin, us := e.us + us }

/-- An episode goes on, begins or ends as `on` says; what is reported when it ends. -/
def Episode.next (e : Episode) (on : Bool) (us n vin : Nat) (high : Bool) (sensor : Nat) (t : Int) : Episode × Option Episode :=
  if on then
    if e.on then
      let e := e.step us n vin high
      ({ e with sensor := if e.tmax < t then sensor else e.sensor, tmax := max e.tmax t }, none)
    else ({ on := true, nmin := n, sensor := sensor, vin := vin, tmax := t, us := 0 }, none)
  else if e.on then ({}, some { e with us := e.us + us })
  else ({}, none)

/-! ### Supply (R517) -/

/-- Lower ends of the bands in 10 mV, falling, with their N_SUPPLY. -/
def supplyBands : List (Nat × Nat) := [(4200, 64), (4100, 56), (4000, 48), (3900, 40), (3800, 32)]

/-- N_SUPPLY of the filtered input, `sum` over `n` samples, with thresholds raised by `up`. -/
def bandOf (sum n up : Nat) : Nat := ((supplyBands.find? fun b => decide ((b.1 + up) * n ≤ sum)).map (·.2)).getD 24

/-- Falling at once below a band's lower end, rising 0.5 V above it. -/
def supplyStep (cur sum n : Nat) : Nat :=
  if bandOf sum n 0 < cur then bandOf sum n 0 else max cur (bandOf sum n 50)

def State.measures (s : State) : Bool := s.life != .off && s.life != .reset

/-- SUPPLY_SAMPLE: the average of the last eight samples. -/
def execSupplySample (vin10mV : Nat) (s : State) : Host.Outcome State Fault Refusal :=
  if !s.measures then .next s
  else
    let xs := (s.pwr.samples ++ [vin10mV]).drop (s.pwr.samples.length + 1 - 8)
    let sum := xs.sum
    let f := sum / xs.length
    let ns := supplyStep s.pwr.nSupply sum xs.length
    let clamp : Bool := decide (6000 * xs.length < sum)
    let p := { s.pwr with samples := xs, vin := f, nSupply := ns, timer := decide (sum < 3800 * xs.length), clamp := clamp }.clock
    let (es, ds) := p.epSupply.next (ns < 64) 2 p.n f false 0xFF 0
    let (ec, dc) := p.epClamp.next clamp 2 p.n f true 0xFF 0
    let p := { p with epSupply := es, epClamp := ec,
                      sagCnt := if es.on ∧ !s.pwr.epSupply.on then incSat p.sagCnt else p.sagCnt,
                      clampCnt := if ec.on ∧ !s.pwr.epClamp.on then incSat p.clampCnt else p.clampCnt }
    let s := { s with pwr := p }
    let s := match ds with | some e => s.episodeRecord 0x01 e | none => s
    .next (match dc with | some e => s.episodeRecord 0x04 e | none => s)

/-! ### Power (R518) -/

/-- POWER_LIMIT_TICK, each ms; `hundred` each 100 ms. -/
def execPowerLimitTick (avg10ms avg1s : Nat) (dies : Tab Nat) (hundred : Bool) (s : State) : Host.Outcome State Fault Refusal :=
  if !s.live then .next s
  else
    let p := s.pwr
    let dieOver := s.dies.any fun d => p.dieW.get d != 0 && decide (p.dieW.get d < dies.get d)
    let n := if p.peakW < avg10ms ∨ dieOver then p.nPower - 4 else p.nPower
    let low (a l : Nat) : Bool := decide (100 * a < 97 * l)
    let allLow := low avg10ms p.peakW && low avg1s p.designW && s.dies.all fun d => p.dieW.get d == 0 || low (dies.get d) (p.dieW.get d)
    let n := if hundred ∧ p.designW < avg1s then n - 1 else if hundred ∧ allLow then n + 1 else n
    let n := max 16 (min 64 n)
    let p := { p with pin := avg1s, nPower := n }.clock
    let (e, d) := p.epPower.next (n < 64) 1000 p.n p.vin false 0xFF 0
    let p := { p with epPower := e, powerCnt := if e.on ∧ !s.pwr.epPower.on then incSat p.powerCnt else p.powerCnt,
                      slowMs := if p.n < p.nmax then p.slowMs + 1 else p.slowMs }
    let s := { s with pwr := p }
    .next (match d with | some e => s.episodeRecord 0x02 e | none => s)

/-! ### Thermal (R522) -/

/-- The hottest die and its reading, the lowest among equals. -/
def hottest (ds : List Nat) (t : Tab Int) : Nat × Int :=
  ds.foldl (fun b d => if b.2 < Tab.getD (-32768) t d then (d, Tab.getD (-32768) t d) else b) (0, -32768)

/-- THERMAL_TICK, each ms; `ten` each 10 ms. Readings are in 0.125 degrees. -/
def execThermalTick (dies : Tab Int) (inlet outlet : Int) (ten : Bool) (s : State) : Host.Outcome State Fault Refusal :=
  if !s.measures then .next s
  else
    let ts := s.dies.foldl (fun (t : Tab Int) d => Tab.setD (-32768) t d (Tab.getD (-32768) dies d)) []
    let ts := Tab.setD (-32768) (Tab.setD (-32768) ts 8 inlet) 9 outlet
    let (hd, ht) := hottest s.dies ts
    let p := { s.pwr with temps := ts }
    let tj : Int := 8 * p.tj
    let ot : Int := 8 * p.outT
    if !s.live then .next { s with pwr := p }
    else
      let n := if tj < ht then max 16 (p.nThermal - 2)
        else if ten ∧ ht < tj - 24 ∧ outlet < ot then min 64 (p.nThermal + 1) else p.nThermal
      let n := if ot < outlet then min 48 n else n
      let p := { p with nThermal := n }.clock
      let (sn, t) := if tj < ht ∨ outlet ≤ ot then (hd, ht) else (9, outlet)
      let (e, d) := p.epThermal.next (n < 64) 1000 p.n p.vin false sn t
      let p := { p with epThermal := e, thermalCnt := if e.on ∧ !s.pwr.epThermal.on then incSat p.thermalCnt else p.thermalCnt }
      let s := { s with pwr := p }
      .next (match d with | some e => s.episodeRecord 0x03 e | none => s)

/-! ### Ordered stop (R519, R520) -/

/-- Every sequence of the ward takes LAST_ST without a completion; its job ends with ST_SUPPLY. -/
def State.stopWard (s : State) (w : Nat) : State :=
  let s := forEach ((s.ward w).live.map (·.1)) s fun s i => s.setSq w i fun q => { q with st := .free, lastSt := St.supply.code }
  (s.stopJob w .supply .supply 4).dropTraining w St.supply.code

/-- What an ordered stop's record tells of its episode: lowest N, lowest or highest input, highest reading of the sensor (R523). -/
def Pwr.stopDetail (p : Pwr) (event sensor us : Nat) : BitVec 128 :=
  let t : Int := if sensor < 10 then Tab.getD (-32768) p.temps sensor else 0
  let e := if event = 0x10 then p.epSupply else if event = 0x11 then p.epClamp else p.epThermal
  let e := if e.on then e else { nmin := p.n, sensor := sensor, vin := p.vin, tmax := t }
  powerDetail event e.nmin sensor (if event = 0x10 ∨ event = 0x11 then e.vin else p.vin) (if e.sensor = sensor then max e.tmax t else t) us

def State.orderedStop (s : State) (event sensor us : Nat) : State :=
  let s := { s with pwr := { s.pwr with stopping := true } }
  let s := forEach ((List.range 8).filter fun w => (s.ward w).st != .disabled && (s.ward w).st != .placing) s fun s w =>
    s.stopWard w
  let s := forEach (s.dies.flatMap chansOfDie) s fun s c =>
    match s.wardOfDie (c / 64) with
    | some w => s.squashRun c w .supply
    | none => s
  let s := s.stopMarkers event
  let s := s.report { cls := 0x10, scope := 7, status := St.supply.code, unit := 0xD, src := 3,
                      detail := s.pwr.stopDetail event sensor us }
  let l := ((s.saf.unacked.filter fun c => !c.sent).map (·.seq)).take 40
  let s := if s.saf.pcsUp ∧ l ≠ [] then
      { s.datagram 0 0 l with saf := { s.saf with unacked := s.saf.unacked.map fun c => if l.contains c.seq then { c with sent := true } else c } }
    else s
  { s with life := .stopping, boot := { s.boot with stage := 0xF } }

def execStopTimerExpire (s : State) : Host.Outcome State Fault Refusal :=
  if s.live ∧ s.pwr.timer then .next (s.orderedStop 0x10 0xFF 2000) else .next s

def execOvervoltageTimeout (s : State) : Host.Outcome State Fault Refusal :=
  if s.live ∧ s.pwr.clamp then .next (s.orderedStop 0x11 0xFF 100000) else .next s

def execDieOvertemp (d : Nat) (s : State) : Host.Outcome State Fault Refusal :=
  if s.live ∧ s.dies.contains d ∧ 880 ≤ Tab.getD (-32768) s.pwr.temps d then .next (s.orderedStop 0x12 d 1000) else .next s

def execOutletOvertemp (s : State) : Host.Outcome State Fault Refusal :=
  if s.live ∧ 560 ≤ Tab.getD (-32768) s.pwr.temps 9 then .next (s.orderedStop 0x13 9 1000000) else .next s

/-- RAIL_SWITCH_OFF: below 33 V everything stops at once (R517, R470). -/
def execRailSwitchOff (s : State) : Host.Outcome State Fault Refusal := .next (s.afterReset .off)

/-- AUTO_RESET (R521): the module resets itself once input and temperatures have recovered. -/
def execAutoReset (b : BootIn) (s : State) : Host.Outcome State Fault Refusal :=
  let p := s.pwr
  let cool := (hottest s.dies p.temps).2 < 8 * (p.tj : Int) - 80 && decide (Tab.getD (-32768) p.temps 9 < 8 * (p.outT : Int))
  if s.life = .stopping ∧ 4250 ≤ p.vin ∧ p.vin ≤ 6000 ∧ cool then .next ((s.afterReset .off).bootUp b) else .next s

end Sys2Proof.Machine
end

