-- ==== Sys2Proof/Machine/Regs.lean ====
section
/-! DEFINITION. Register writes (R12, R31 to R36) of the registers that have no command of their own, refused reads,
and the ring registers (R408, R410, R423, R427). -/

namespace Sys2Proof

/-- The access reaches the 64-bit register at `o`. -/
def RegW.at64 (a : RegW) (o : Nat) : Bool := a.off / 8 * 8 = o
/-- Bit `k` of the 64-bit register as written, where the write reaches it. -/
def RegW.bit64 (a : RegW) (k : Nat) : Bool :=
  if a.size = 8 then a.val.getLsbD k
  else if a.off % 8 = 0 then decide (k < 32) && a.val.getLsbD k
  else decide (32 ≤ k) && a.val.getLsbD (k - 32)

end Sys2Proof

namespace Sys2Proof.Machine
open Sys2Proof

/-! ### Bits of a write -/

/-- A write to the 64-bit register at `o`, through the writable bits `mask`. -/
def put64 (a : RegW) (mask : Nat) (old : W64) : W64 :=
  let m := BitVec.ofNat 64 mask
  (old &&& ~~~m) ||| (a.into64 old &&& m)

/-- A write to a 32-bit register through the writable bits `mask`. -/
def put32 (a : RegW) (mask : Nat) (old : W32) : W32 :=
  let m := BitVec.ofNat 32 mask
  (old &&& ~~~m) ||| (a.lo &&& m)

/-! ### Ward block (R32) -/

/-- The registers of one ward, `a.off` taken from the ward block's base; RWL bits keep their value while a job runs. -/
def Ward.write (y : Ward) (a : RegW) : Ward :=
  if a.off = oBeaLen then
    let v := a.lo.toNat % 2 ^ 13
    if y.running ∨ v < 16 ∨ 4096 < v then y
    else
      -- without a beat, what falls due at a boundary is applied at once (R415)
      let y := { y with newLen := some (BitVec.ofNat 13 v) }
      if y.hasBeat then y else y.takeLen
  else if a.off = 0x1000C then
    { y with skewLate := y.skewLate && !a.lo.getLsbD 5, markerLost := y.markerLost && !a.lo.getLsbD 4, overrun := y.overrun && !a.lo.getLsbD 3 }
  else if a.at64 0x508 then { y with patLate := y.patLate && !a.bit64 0 }
  else match wardRegs.find? fun d => if d.wide then a.at64 d.off else a.off = d.off with
    | none => y
    | some d =>
      let mask := if y.running then d.rw else d.rw + d.rwl
      let old := BitVec.ofNat 64 (y.reg d.off)
      y.setReg d.off (if d.wide then put64 a mask old else BitVec.ofNat 64 (put32 a mask (old.setWidth 32)).toNat)

/-! ### Die block (R33) -/

/-- A job runs on the ward that holds the die. -/
def State.dieLocked (s : State) (d : Nat) : Bool := match s.wardOfDie d with | some w => (s.ward w).running | none => false

/-- DMA_STATUS and DMA_IRQ of a channel (R265, R268), `a.off` taken from the channel's base. -/
def Chan.write (x : Chan) (a : RegW) : Chan :=
  if a.at64 0x008 then { x with lost := x.lost && !a.bit64 7, irqPend := x.irqPend && !a.bit64 6 }
  else if a.off = 0x020 then { x with irqEn := a.lo.getLsbD 31, vec := a.lo.setWidth 11 }
  else x

/-- The update engine's registers (R363, R364); those from 0x100 on live on the ward's lowest die. -/
def State.writeUpd (s : State) (d : Nat) (a : RegW) : State :=
  let locked := s.dieLocked d
  let low := match s.wardOfDie d with | some w => (s.ward w).lowDie == d | none => false
  if s.updFitted = false then s
  else if a.at64 0x008 then
    if locked then s else { s with tblRegs := s.tblRegs.set (2 * d) (put64 a (bitsMask 47 4) (s.tblRegs.get (2 * d))) }
  else if a.off = 0x010 then
    if locked then s
    else { s with tblRegs := s.tblRegs.set (2 * d + 1) (BitVec.ofNat 64 (a.lo.toNat % 2 ^ 20)) }
  else if !low then s
  else if a.off = 0x100 then s.modUpd d fun u => { u with stepLr := a.lo }
  else if a.off = 0x110 then s.modUpd d fun u => { u with refused := u.refused && !a.lo.getLsbD 4 }
  else if a.off = 0x118 then if locked then s else s.modUpd d fun u => { u with armTmo := a.lo &&& 0xFFFFFF }
  else s

/-- The registers of die `d`; `o` is the offset in the die block. -/
def State.writeDie (s : State) (d o : Nat) (a : RegW) : State :=
  let rel (base : Nat) : RegW := { a with off := o - base }
  if o < 0x20000 then s.modChan (64 * d + o / 0x1000) fun x => x.write (rel (o / 0x1000 * 0x1000))
  else if o < 0x28000 ∧ (d = 0 ∨ d = 4) then s.modChan (64 * d + 32 + (o - 0x20000) / 0x1000) fun x => x.write (rel (o / 0x1000 * 0x1000))
  else if 0x300000 ≤ o ∧ o < 0x400000 then s.writeUpd d (rel 0x300000)
  else if 0x400000 ≤ o ∧ o < 0x460000 then
    if (o - 0x400000) % 0x10000 = 0x18 then { s with arbs := s.arbs.set (6 * d + (o - 0x400000) / 0x10000) (put32 a 0xFFFF 0) } else s
  else if 0x800000 ≤ o then
    let t := (o - 0x800000) / 0x20000
    let r := (o - 0x800000) % 0x20000
    if 0x204 ≤ r ∧ r ≤ 0x21C ∧ r % 4 = 0 ∧ t < 64 ∧ s.dieLocked d = false then
      s.modTile (64 * d + t) fun x => { x with seeds := x.seeds.set ((r - 0x200) / 4) a.lo }
    else s
  else s

/-! ### Module blocks (R31) -/

/-- The module's own registers, as PF0 writes them. -/
def State.writeModule (s : State) (a : RegW) : State :=
  if a.off = 0x1420 then
    if (List.range 8).any fun w => (s.ward w).running then s else { s with ctlTmo := put32 a 0xFFFF s.ctlTmo }
  else if a.at64 0x10008 then { s with flash := { s.flash with src := put64 a (bitsMask 47 12) s.flash.src } }
  else if a.at64 0x10010 then { s with flash := s.flash.ctlWrite a }
  else if a.off = 0x30004 then
    { s with saf := { s.saf with aliveMs := BitVec.ofNat 16 (a.lo.toNat / 2 ^ 16), ringAlways := a.lo.getLsbD 2, mirrorBEn := a.lo.getLsbD 1,
                                 mirrorAEn := a.lo.getLsbD 0 } }
  else if a.at64 0x30020 then { s with saf := { s.saf with mirrorA := put64 a (bitsMask 63 53 + bitsMask 46 12 + bitsMask 4 0) s.saf.mirrorA } }
  else if a.at64 0x30028 then { s with saf := { s.saf with mirrorB := put64 a (bitsMask 63 53 + bitsMask 46 12 + bitsMask 4 0) s.saf.mirrorB } }
  else if a.off = 0x40008 then
    let c := powerCaps s.variant
    { s with pwr := { s.pwr with designW := max 500 (min c.1 (a.lo.toNat % 2 ^ 16)), peakW := max 500 (min c.2 (a.lo.toNat / 2 ^ 16)) } }
  else if a.off = 0x40068 then
    let o := a.lo.toNat / 2 ^ 8 % 2 ^ 8
    let t := a.lo.toNat % 2 ^ 8
    { s with pwr := { s.pwr with outT := if 55 ≤ o ∧ o ≤ 65 then o else s.pwr.outT, tj := if 85 ≤ t ∧ t ≤ 100 then t else s.pwr.tj } }
  else s

/-! ### Function blocks (R409, R423) -/

/-- Base at which this model names the function block of the requester (log entry 72). -/
def oFunc : Nat := 0x1F00000

/-- A function has no rings to use where it is a VF without a ward. -/
def State.hasBlock (s : State) (r : Req) : Bool := r.port < 2 && r.func < 9 && (r.func == 0 || (s.wardOfVf r.port r.func).isSome)

def State.writeFunc (s : State) (r : Req) (a : RegW) : State :=
  let o := a.off - oFunc
  let b : RegW := { a with off := o % 0x100 }
  let k := ringKey r.port r.func (o / 0x100)
  if o < 0x1000 then
    if b.at64 0x00 then s.modRing k fun x => { x with sqBase := put64 b (bitsMask 47 12) x.sqBase }
    else if b.at64 0x08 then s.modRing k fun x => { x with cqBase := put64 b (bitsMask 47 12) x.cqBase }
    else s
  else if 0x8000 ≤ o ∧ o < 0x10000 then
    let put (f : Func) (o : Nat) (v : W32) : Func :=
      if o % 16 ≠ 12 then { f with vtab := f.vtab.set ((o - 0x8000) / 4) v }
      else if v.getLsbD 0 then { f with unmasked := f.unmasked.filter (· ≠ (o - 0x8000) / 16) }
      else f
    s.modFunc (funcKey r.port r.func) fun f =>
      let f := put f o a.lo
      if a.size = 8 then put f (o + 4) (BitVec.ofNat 32 (a.val.toNat / 2 ^ 32)) else f
  else s

/-! ### REGISTER_WRITE and REGISTER_READ_REFUSED -/

/-- Where an offset lies: the ward or the die whose owner may reach it (R36); PF0 reaches every block. -/
inductive Block where
  | module | ward (w : Nat) | die (d : Nat) | func | none
deriving DecidableEq, Repr

def blockOf (o : Nat) : Block :=
  if o < 0x70000 then .module
  else if 0x1000000 ≤ o ∧ o < 0x1800000 then .ward ((o - 0x1000000) / 0x100000)
  else if oFunc ≤ o ∧ o < oFunc + 0x20000 then .func
  else if 0x10000000 ≤ o ∧ o < 0x18000000 then .die ((o - 0x10000000) / 0x1000000)
  else .none

/-- The requester owns the block, or is PF0. -/
def State.mayAccess (s : State) (r : Req) (b : Block) : Bool :=
  match b with
  | .module => r.func = 0
  | .ward w => s.owns r w
  | .die d => s.ownsDie r d
  | .func => true
  | .none => true

/-- REGISTER_WRITE (R35, R36). -/
def execRegisterWrite (r : Req) (a : RegW) (s : State) : Host.Outcome State Fault Refusal :=
  if !s.live then .next s
  else
    let b := blockOf a.off
    if !s.mayAccess r b then .next s.refuse
    else if !a.legal then .next s
    else match b with
      | .module => .next (s.writeModule a)
      | .ward w => .next (s.modWard w fun y => y.write { a with off := (a.off - 0x1000000) % 0x100000 })
      | .die d => if s.dies.contains d then .next (s.writeDie d ((a.off - 0x10000000) % 0x1000000) a) else .next s
      | .func => if s.hasBlock r then .next (s.writeFunc r a) else .next s
      | .none => .next s

/-- The offset lies in the window onto a tile's instruction store (R171). -/
def inStore (o : Nat) : Bool :=
  match blockOf o with
  | .die _ => decide (0x800000 ≤ o % 0x1000000) && decide (0x10000 ≤ o % 0x20000)
  | _ => false

/-- R36, R171: a read of this offset by this requester is refused; only PF0 reads the window onto an instruction store. -/
def State.readRefused (s : State) (r : Req) (o : Nat) : Bool := !s.mayAccess r (blockOf o) || (inStore o && r.func != 0)

/-- REGISTER_READ_REFUSED (R36, R171): the read is counted; a read by the owner or PF0 is no such event. -/
def execRegisterReadRefused (r : Req) (off : Nat) (s : State) : Host.Outcome State Fault Refusal :=
  if s.live ∧ s.readRefused r off then .next s.refuse else .next s

/-! ### Rings -/

/-- SQ_TAIL_WRITE: the module may fetch what now stands before the tail. -/
def execSqTailWrite (r : Req) (ring : Nat) (v : W16) (s : State) : Host.Outcome State Fault Refusal :=
  if s.live ∧ s.hasBlock r ∧ ring < 16 then .next (s.modRing (ringKey r.port r.func ring) fun x => { x with sqTail := v }) else .next s

/-- CQ_HEAD_WRITE: held completions are posted while there is room. -/
def execCqHeadWrite (r : Req) (ring : Nat) (v : W16) (s : State) : Host.Outcome State Fault Refusal :=
  if s.live ∧ s.hasBlock r ∧ ring < 16 then
    let k := ringKey r.port r.func ring
    let s := s.modRing k fun x => { x with cqHead := v }
    .next (State.drainCq (s.ring k).unposted.length s k)
  else .next s

/-- RING_CTL_WRITE: fields change only while EN is 0; an enable starts the ring, an illegal one puts it into error. -/
def execRingCtlWrite (r : Req) (ring : Nat) (v : W32) (s : State) : Host.Outcome State Fault Refusal :=
  if !s.live ∨ !s.hasBlock r ∨ 15 < ring then .next s
  else
    let k := ringKey r.port r.func ring
    if (s.ring k).en then
      if v.getLsbD 31 then .next s
      else .next (s.modRing k fun x => { x with en := false, st := 0, unposted := [] })
    else
      let sq := field v.toNat 28 24
      let cq := field v.toNat 20 16
      let s := s.modRing k fun x => { x with en := v.getLsbD 31, sqLog := sq, cqLog := cq, vec := v.setWidth 11 }
      if v.getLsbD 31 = false then .next s
      else
        let s := s.modRing k fun x => { x with sqHead := 0, cqTail := 0, phase := true, unposted := [], err := 0, st := 1 }
        if 6 ≤ sq ∧ sq ≤ 16 ∧ 6 ≤ cq ∧ cq ≤ 16 then .next s else .next (s.ringError k 3)

/-- MSIX_UNMASK: a pending interrupt of the vector is delivered. -/
def execMsixUnmask (r : Req) (vec : Nat) (s : State) : Host.Outcome State Fault Refusal :=
  if !s.live ∨ 2047 < vec ∨ !s.hasBlock r then .next s
  else
    let k := funcKey r.port r.func
    let was := (s.func k).pend.contains vec
    let s := s.modFunc k fun f => { f with unmasked := if f.unmasked.contains vec then f.unmasked else f.unmasked ++ [vec],
                                           pend := f.pend.filter (· ≠ vec) }
    .next (if was then s.emit (.msix r.port r.func vec) else s)

end Sys2Proof.Machine
end

