-- ==== Sys2Proof/Machine/Pcie.lean ====
section
/-! DEFINITION. Host ports (R407, R515), function-level resets (R420 to R422), journal reads (R429), accounting (R430
to R432), statistics snapshots (R60 to R64). -/

namespace Sys2Proof.Machine
open Sys2Proof

/-! ### Host-tier transfers that fail (R260, R420) -/

/-- The first access of the channel that goes to the host tier. -/
def State.hostAccess (s : State) (c w : Nat) : Option Nat :=
  if (s.chan c).st ≠ .running ∨ (s.chan c).squashing.isSome then none
  else (s.chanAccesses c w).findSome? fun (va, n, wr, ctx) =>
    (pieces va n).findSome? fun (a, _) => match s.xlate w ctx a wr (hpPort c) with
      | .ok l => if l.kind == .host then some a else none
      | .error _ => none

/-- The developer's running operation reads or writes the host tier. -/
def State.devOnHost (s : State) (d : Nat) : Bool :=
  match (s.dev d).queue with
  | [] => false
  | o :: _ => (s.dev d).ended.isNone && (match o.use with
      | .spill .. => true
      | .restore .. => true
      | .swapOut .. => true
      | .swapIn .. => true
      | _ => [(o.src.toNat, false), (o.dst.toNat, true)].any fun (va, wr) =>
          o.srcChunks.isEmpty && match s.xlate o.ward o.ctx va wr with
            | .ok l => l.kind == .host
            | .error _ => false)

/-- Every transfer of ward `w` with the host tier fails with ST_TIER_FAIL; the channels and the developers hit. -/
def State.failHost (s : State) (w : Nat) : State × Nat × Nat :=
  let (s, n) := (s.ward w).chans.foldl (fun (s, n) c => match s.hostAccess c w with
    | some va => (s.failAccess c w .tierFail va, n + 1)
    | none => (s, n)) (s, 0)
  let (s, m) := (s.ward w).dieList.foldl (fun (s, m) d =>
    if s.devOnHost d then (s.devEnd d { status := .tierFail, cause := 0x48, lost := true }, m + 1) else (s, m)) (s, 0)
  (s, n, m)

/-- Wards attached to a port. -/
def State.wardsOnPort (s : State) (port : Nat) : List Nat :=
  (List.range 8).filter fun w => (s.ward w).st != .disabled && (s.ward w).port == port

/-! ### Function-level resets -/

/-- Rings and MSI-X table of a function are cleared, completions not posted discarded. -/
def State.clearFunc (s : State) (port func : Nat) (inFlr : Bool) : State :=
  let s := s.dropRings port func
  { s with funcs := s.funcs.set (funcKey port func) { inFlr := inFlr } }

/-- VF_FLR: no command is fetched and no access issued from now on; the 1 ms of R420 runs. -/
def State.vfFlr (s : State) (port vf : Nat) : State :=
  let s := s.clearFunc port vf true
  match s.wardOfVf port vf with
  | some w => s.modWard w fun y => { y with flrs := incSat y.flrs, flrDev := 0, flrDma := 0, flrDrained := 0 }
  | none => s

def execVfFlr (port vf : Nat) (s : State) : Host.Outcome State Fault Refusal :=
  if s.live ∧ port < 2 ∧ 1 ≤ vf ∧ vf ≤ 8 then .next (s.vfFlr port vf) else .next s

/-- FLR_DRAIN_TIMEOUT: what is still outstanding is squashed, and the reset is complete. -/
def execFlrDrainTimeout (port vf drained : Nat) (s : State) : Host.Outcome State Fault Refusal :=
  let k := funcKey port vf
  if !s.live ∨ 1 < port ∨ vf = 0 ∨ 8 < vf ∨ (s.func k).inFlr = false then .next s
  else
    let s := s.modFunc k fun f => { f with inFlr := false }
    match s.wardOfVf port vf with
    | none => .next s
    | some w =>
      let (s, n, m) := s.failHost w
      .next (s.modWard w fun y => { y with flrDev := incSat y.flrDev m, flrDma := incSat y.flrDma n, flrDrained := incSat y.flrDrained drained })

/-- PF0_FLR (R421): PF0's rings and MSI-X table on the port, nothing else. -/
def execPf0Flr (port : Nat) (s : State) : Host.Outcome State Fault Refusal :=
  if s.live ∧ port < 2 then .next (s.clearFunc port 0 false) else .next s

/-! ### Ports -/

/-- PERST (R515): every function of the port is reset, and its link goes down to retrain. -/
def execPerst (port : Nat) (s : State) : Host.Outcome State Fault Refusal :=
  if !s.live ∨ 1 < port then .next s
  else
    let s := (s.clearFunc port 0 false).modPort port fun p => { p with perst := true, up := false, rate := 0, width := 0 }
    .next (forEach (List.range 8) s fun s k => s.vfFlr port (k + 1))

def execPerstRelease (port : Nat) (s : State) : Host.Outcome State Fault Refusal :=
  if s.live ∧ port < 2 then .next (s.modPort port fun p => { p with perst := false }) else .next s

/-- PCIE_LINK_UP (R407): at any rate from 2.5 to 32 GT/s (1 to 5) and any width. -/
def execPcieLinkUp (port : Nat) (rate width : Nat) (s : State) : Host.Outcome State Fault Refusal :=
  let p := s.port port
  if s.live ∧ port < 2 ∧ p.perst = false ∧ p.detect = false ∧ 1 ≤ rate ∧ rate ≤ 5 ∧ [1, 2, 4, 8, 16].contains width then
    .next (s.modPort port fun p => { p with up := true, rate := rate, width := width })
  else .next s

/-- PCIE_LINK_DOWN (R260): host-tier accesses on the port fail. -/
def execPcieLinkDown (port : Nat) (s : State) : Host.Outcome State Fault Refusal :=
  if s.live ∧ port < 2 ∧ (s.port port).up then
    let s := s.modPort port fun p => { p with up := false, rate := 0, width := 0 }
    .next (forEach (s.wardsOnPort port) s fun s w => (s.failHost w).1)
  else .next s

/-- BUS_MASTER_ENABLE_WRITE (R420). -/
def execBusMasterEnableWrite (r : Req) (on : Bool) (s : State) : Host.Outcome State Fault Refusal :=
  let k := funcKey r.port r.func
  if !s.live ∨ 1 < r.port ∨ 8 < r.func ∨ (s.func k).inFlr then .next s
  else
    let s := s.modFunc k fun f => { f with bme := on }
    match s.wardOfVf r.port r.func with
    | some w => if on ∨ r.func = 0 then .next s else .next (s.failHost w).1
    | none => .next s

/-! ### JOURNAL_READ (R429) -/

/-- A record as it is copied, and whether it is held. -/
def State.jrnCopy (s : State) (q : Nat) : List Byte × Bool :=
  if s.jrnOldest ≤ q ∧ q < s.jrnNext then ((s.jrnGet q).bytes, true) else (List.replicate 64 0, false)

/-- A copy that runs past the top of the host's 2^47 bytes is a host write that fails (R30, log entry 73). -/
def State.doJournalRead (s : State) (x : OpCtx) (first count : Nat) (dst : Nat) : State :=
  if count = 0 ∨ 64 < count ∨ dst % 64 ≠ 0 ∨ 2 ^ 47 ≤ dst then s.complete x.jseq .protection
  else if 2 ^ 47 < dst + 64 * count then s.complete x.jseq .tierFail
  else
    let rs := (List.range count).map fun k => s.jrnCopy (first + k)
    match s.hostWrite x.port x.func dst (rs.flatMap (·.1)) with
    | none => s.complete x.jseq .tierFail
    | some s => s.complete x.jseq .ok (BitVec.ofNat 32 (rs.filter (·.2)).length)

def execJournalRead (src : Src) (first : W64) (count : Nat) (dst : W64) (s : State) : Host.Outcome State Fault Refusal :=
  .next (s.command src (.journalRead first count dst) fun x s => s.doJournalRead x first.toNat count dst.toNat)

/-! ### Accounting (R430 to R432) -/

/-- Contexts that the ward charges: 0, the registered ones, and those charged since the ward was enabled. -/
def Ward.charged (y : Ward) : List Nat := (0 :: (y.acct.map (·.1) ++ (y.registry.filter fun e => e.2.st ≠ .free).map (·.1))).dedup

/-- An entry of the table (R432). -/
def Acct.bytes (a : Acct) : List Byte :=
  ([a.flush, a.tileCy, a.chainCy, a.updCy, a.stackRd, a.stackWr, a.peerRd, a.peerWr, a.hostRd, a.hostWr, a.energyMj, a.tick].map (toLE 8)).flatten ++
    List.replicate 32 0

/-- `net` mJ of the second, shared by estimate `e` of `total`, with the fraction carried. -/
def Acct.charge (a : Acct) (e net total : Nat) : Acct :=
  let den := (a.fdec + 1) * total
  let num := a.fnum * total + e * net * (a.fdec + 1)
  let r := num % den
  let g := max 1 (Nat.gcd r den)
  { a with energyMj := a.energyMj + num / den, fnum := r / g, fdec := den / g - 1 }

/-- Estimates of every charged context: what activity gives them, the spec leaves open. -/
def State.estimates (s : State) : List (Nat × Nat × Nat) × State :=
  ((List.range 8).filter fun w => (s.ward w).hasBeat).foldl (fun (l, s) w =>
    (s.ward w).charged.foldl (fun (l, s) c => let (n, s) := s.takeFresh; (l ++ [(w, c, (Config.freeW32 n).toNat)], s)) (l, s)) ([], s)

/-- The flush of a ward's table. -/
def State.flushAcct (s : State) (w : Nat) : State :=
  let y := s.ward w
  let base := field (y.reg oAcctBase) 47 23 * 2 ^ 23
  let s := s.modWard w fun y =>
    { y with acct := y.charged.foldl (fun t c => t.modify c fun a => { a with flush := a.flush + 2, tick := s.tick }) y.acct }
  let y := s.ward w
  let s := s.modWard w fun y => { y with acctTile := BitVec.ofNat 64 (y.acct.map fun (e : Nat × Acct) => e.2.tileCy).sum,
                                         acctChain := BitVec.ofNat 64 (y.acct.map fun (e : Nat × Acct) => e.2.chainCy).sum,
                                         acctEnergy := BitVec.ofNat 64 (y.acct.map fun (e : Nat × Acct) => e.2.energyMj).sum }
  if base = 0 then s else forEach y.acct s fun s e => s.wrStruct w (base + 128 * e.1) e.2.bytes

/-- ACCOUNTING_SECOND: the rail energy less the idle energy is shared by the estimates, then every table is flushed. -/
def execAccountingSecond (railMj idleMj : Nat) (s : State) : Host.Outcome State Fault Refusal :=
  if !s.live then .next s
  else
    let s := { s with pwr := { s.pwr with energyMj := s.pwr.energyMj + BitVec.ofNat 64 railMj } }
    let (es, s) := s.estimates
    let total := (es.map fun e => e.2.2).sum
    let s := if total = 0 then s
      else forEach es s fun s e => s.modWard e.1 fun y => { y with acct := y.acct.modify e.2.1 fun a => a.charge e.2.2 (railMj - idleMj) total }
    .next (forEach ((List.range 8).filter fun w => (s.ward w).hasBeat) s fun s w => s.flushAcct w)

/-! ### Statistics snapshots (R60 to R64) -/

/-- Conversions that go on across the boundary: the blocks written so far are added now (R62). -/
def State.countRunning (s : State) (w : Nat) : State :=
  let s := forEach (s.ward w).chans s fun s c => if (s.chan c).st = .running ∧ (s.chan c).squashing.isNone then s.countPart c w else s
  let s := forEach (s.ward w).dieList s fun s d => s.countQuant d
  forEach (s.ward w).dieList s fun s d => s.countUpd w d

/-- Item 4 of R179: a requested snapshot is taken, and the accumulators are zeroed where CLEAR asks for it. -/
def State.takeSnap (s : State) (w : Nat) : State :=
  let y := s.ward w
  if y.statSnap ∧ y.snap.isNone then
    let s := s.countRunning w
    let y := s.ward w
    let mine (e : Nat × Site) : Bool := y.holds (e.1 / 1024)
    let s' := s.modWard w fun y =>
      { y with snap := some (y.num, s.sites.filter mine), statZeroed := y.statClear, statKept := if y.statClear then s.sites.filter mine else [] }
    if y.statClear then { s' with sites := s.sites.filter fun e => !mine e } else s'
  else s

/-- STAT_SNAP_REQUEST: a write to WRD_STAT_CTL. In a ward without a beat the snapshot is taken at once (R415). -/
def execStatSnapRequest (r : Req) (w : Nat) (a : RegW) (s : State) : Host.Outcome State Fault Refusal :=
  if !s.live ∨ 7 < w then .next s
  else if !s.owns r w then .next s.refuse
  else if !a.legal ∨ a.off ≠ 0x1000208 + w * 0x100000 then .next s
  else
    let s := s.modWard w fun y => { y with statFailed := y.statFailed && !a.lo.getLsbD 2, statClear := a.lo.getLsbD 1,
                                           statSnap := y.statSnap || a.lo.getLsbD 0 }
    .next (if (s.ward w).hasBeat then s else s.takeSnap w)

/-- The records of die `n`, and the snapshot area from `base` on. -/
def dieRecords (sites : Tab Site) (n : Nat) : List Byte := (List.range 1024).flatMap fun k => (sites.get (n * 1024 + k)).bytes

/-- The dies write their records in ascending order, up to the first address that a check refuses; answers the die that met
it and the status (R63, log entry 150). -/
def State.writeRecords (w base : Nat) (sites : Tab Site) : List Nat → State → State × Option (Nat × St)
  | [], s => (s, none)
  | n :: r, s =>
    let a := base + n * 0xC000
    match s.checkRange w 0 a 0xC000 true with
    | none => State.writeRecords w base sites r (s.writeVa w 0 a (dieRecords sites n))
    | some (st, bad) => (s.writeVa w 0 a ((dieRecords sites n).take (bad - a)), some (n, st))

/-- STAT_SNAPSHOT_COMPLETE: every die's records are written, or the snapshot has failed; then the accumulators stand as if no
clear had been made (R63). -/
def execStatSnapshotComplete (w : Nat) (s : State) : Host.Outcome State Fault Refusal :=
  let y := s.ward w
  match y.snap with
  | none => .next s
  | some (beat, sites) =>
    match State.writeRecords w (y.reg oWrdStatBase) sites y.dieList s with
    | (s, some (n, st)) =>
      let s := if y.statZeroed then { s with sites := (s.ward w).statKept.foldl (fun t e => t.set e.1 e.2) (s.sites.filter fun e => !y.holds (e.1 / 1024)) }
        else s
      .next ((s.modWard w fun y => { y with statFailed := true, statSnap := false, snap := none, statZeroed := false, statKept := [] }).dieEvent w n 11 0 st)
    | (s, none) =>
      .next (s.modWard w fun y => { y with statSnap := false, snap := none, statBeat := beat, statZeroed := false, statKept := [] })

end Sys2Proof.Machine
end

