-- ==== Sys2Proof/Machine/Commands.lean ====
section
/-! DEFINITION. A host command by its operands, as a relay or a boundary runs it; RELAYED_COMMAND (R389). -/

namespace Sys2Proof.Machine
open Sys2Proof

/-- The effect of an accepted command. -/
def State.runOp (s : State) (x : OpCtx) (op : HostOp) : State :=
  match op with
  | .wardEnable dies port vf => s.doWardEnable x dies port vf
  | .wardDisable => s.doWardDisable x
  | .wardReset => s.doWardReset x
  | .jobStart program len prog => s.doJobStart x program len prog
  | .jobEnd => s.doJobEnd x
  | .map va pa count size rights kslot => s.doMap x va.toNat pa.toNat count size rights kslot
  | .unmap va count size => s.doUnmap x va.toNat count size
  | .register c kslot rslot rank mats image negVa negLen => s.doRegister x c kslot rslot rank mats image negVa.toNat negLen.toNat
  | .withdraw c => s.doWithdraw x c
  | .claim c count _ pairs => s.doClaim x c count pairs
  | .unclaim c count _ pairs => s.doUnclaim x c count pairs
  | .submit idx c prompt maxtok cookie out _ bytes => s.doSubmit x idx c prompt maxtok cookie out bytes
  | .cancel idx => s.doCancel x idx
  | .prepare target source length => s.doPrepare x target source length
  | .switch target wait => s.doSwitch x target wait
  | .distribute target package _ alt m => s.doDistribute x target package alt m
  | .trainStart c mode record => s.doTrainStart x c mode record.toNat
  | .trainStop c => s.doTrainStop x c
  | .rollback c => s.doRollback x c
  | .takeover m sb => s.doTakeover x m sb (cmdBytes { port := x.port, func := 0, ring := 0, tag := x.tag } op)
  | .rollcallClear => s.doRollcallClear x
  | .linkRetrain die link => s.doLinkRetrain x die link
  | .journalRead first count dst => s.doJournalRead x first.toNat count dst.toNat
  | .keyAlloc c => s.doKeyAlloc x c
  | .keyRetire slot => s.doKeyRetire x slot
  | .keyShare slot c => s.doKeyShare x slot c
  | .attest c outlen _ out keyOk nonce => s.doAttest x c outlen out keyOk nonce
  | .ownerSet _ _ sigOk secver _ => s.doOwnerSet x sigOk secver
  | .certRead out outlen => s.doCertRead x out outlen
  | .ideKey port stream _ wrapOk => s.doIdeKey x port stream wrapOk

/-- The ring key of a command that came by relay: no ring of this module. -/
def noRing : Nat := 288

/-- The header of a relayed command as it arrives. -/
def relayedSrc (s : State) (c : Relayed) : Src :=
  { port := 0, func := 0, ring := 0, relay := true, wait := c.wait, force := c.force, ward := c.ward, dest := s.linkAddr, tag := c.tag }

/-- The record of a relayed command (R434), and its place among the open commands. -/
def State.journalRelay (s : State) (origin jseq : Nat) (c : Relayed) (wd : Nat) : State :=
  let j := s.jrnNext
  let s := s.jrnAdd { beat := s.stamp wd, digest := digest16 (cmdBytes (relayedSrc s c) c.op), port := 2, func := 0, ring := 0xFF, ward := wd,
                      opc := BitVec.ofNat 8 c.op.opc, st := 0, tag := c.tag, origin := BitVec.ofNat 64 (origin * 2 ^ 58 + jseq) }
  { s with opens := s.opens.set j (some { ring := noRing, tag := c.tag, ward := wd, origin := some origin }) }

/-- A package that another module of the job reads: this one receives (R324). -/
def State.fromReader (s : State) (origin : Nat) (c : Relayed) : Bool :=
  match c.op with
  | .distribute .. => (((s.ward c.ward).job.map (·.prog.modules)).getD []).contains origin
  | _ => false

/-- RELAYED_COMMAND: journalled here, executed, and answered to its origin. -/
def execRelayedCommand (origin : Nat) (jseq : Nat) (cmd : Relayed) (s : State) : Host.Outcome State Fault Refusal :=
  if !s.live ∨ 63 < origin ∨ 2 ^ 58 ≤ jseq then .next s
  else
    let wd := if cmd.op.wardScope then cmd.ward else 0xFF
    let j := s.jrnNext
    let bytes := cmdBytes (relayedSrc s cmd) cmd.op
    let s := s.journalRelay origin jseq cmd wd
    if !cmd.op.bitsOk ∨ (cmd.op.wardScope ∧ 7 < cmd.ward) then .next (s.complete j .protection)
    else
      let x : OpCtx := { jseq := j, w := if cmd.op.wardScope then cmd.ward else 8, wait := cmd.wait, force := cmd.force, ring := noRing,
                         tag := cmd.tag, port := 0, func := 0 }
      if s.holds wd cmd.op && !s.fromReader origin cmd then .next (s.holdOp x cmd.op origin jseq bytes)
      else match cmd.op with
        | .distribute target package _ alt m =>
          if s.fromReader origin cmd then .next (s.startDist x target package alt m false) else .next ((s.doDistribute x target package alt m).settle wd)
        | op => .next ((s.runOp x op).settle wd)

end Sys2Proof.Machine
end

