-- ==== Sys2Proof/Machine/Beats.lean ====
section
/-! DEFINITION. Beats (R172 to R196): step points, held beats and overruns, the markers of a job that spans modules
(R180 to R183, R391), and the boundary with its list (R179). -/

namespace Sys2Proof

/-- A JOB_END. -/
def HostOp.isEnd : HostOp → Bool
  | .jobEnd => true
  | _ => false

end Sys2Proof

namespace Sys2Proof.Machine
open Sys2Proof

/-! ### Units that have not finished (R174, R175, R195) -/

def LastHold.word (h : LastHold) : W64 :=
  BitVec.ofNat 64 (h.beatLo.toNat + h.idx % 64 * 2 ^ 35 + h.die % 8 * 2 ^ 41 + h.unit % 16 * 2 ^ 44 + h.steps.toNat * 2 ^ 48)

/-- Modules of the ward's job. -/
def Ward.modules (x : Ward) : List Nat := (x.job.map (·.prog.modules)).getD []

/-- The job of the ward has begun. -/
def Ward.working (x : Ward) : Bool := x.running && (x.job.map (·.began)).getD false

/-- A transfer of the job on link `k` is not in its receiver's buffer. Transfers of DMA runs that a register write started
do not count, nor those of a distribution (R175, R324). -/
def State.linkBusy (s : State) (w k : Nat) : Bool :=
  let x := s.ward w
  ((s.link k).txq ++ (s.link k).retry).any fun e =>
    (e.1.vc == 1 || e.1.vc == 2) && e.1.type != 6 && !s.uncounted.contains e.1.xid.toNat && e.1.src == s.linkAddr && x.hasPeer e.1.dst && e.1.ward == x.peerWard e.1.dst

/-- Prefetch entries that the closing of this beat waits for (R281). -/
def Ward.latePlates (x : Ward) : List PfRun := ((x.job.map (·.pending)).getD []).filter fun p => p.closes == x.num

/-- The die of a prefetch entry. -/
def Ward.pfDie (x : Ward) (k : Nat) : Nat :=
  x.dieList.getD ((x.job.bind fun j => (j.schedule[k]?).map (·.die)).getD 0) 0

/-- DIE, UNIT, IDX of every unit that has not finished. -/
def State.unfinished (s : State) (w : Nat) : List (Nat × Nat × Nat) :=
  let x := s.ward w
  ((x.tiles.filter fun i => !s.tileDone i).map fun i => (i / 64, 0, i % 64)) ++
  ((x.quads.filter fun q => !(s.quad q).queue.isEmpty || (s.quad q).run.isSome).map fun q => (q / 16, 1, q % 16)) ++
  ((x.chans.filter fun c => (s.chan c).kicked && (s.chan c).st == .running).map fun c =>
    if c % 64 < 32 then (c / 64, 2, c % 64) else (c / 64, 3, c % 64 - 32)) ++
  (if x.multi then ((List.range 48).filter (s.linkBusy w)).map fun k => (k / 6, 6, k % 6) else []) ++
  x.latePlates.map fun p => (x.pfDie p.idx, 7, 0)

/-- R195: the lowest die, then the lowest UNIT code, then the lowest IDX. -/
def unitBefore (a b : Nat × Nat × Nat) : Bool :=
  decide (a.1 < b.1) || (a.1 == b.1 && (decide (a.2.1 < b.2.1) || (a.2.1 == b.2.1 && decide (a.2.2 < b.2.2))))

def firstUnit : List (Nat × Nat × Nat) → Option (Nat × Nat × Nat)
  | [] => none
  | a :: r => match firstUnit r with
    | none => some a
    | some b => some (if unitBefore b a then b else a)

/-! ### Holds (R176 to R178, R282) -/

/-- The entries with a context that the held beat still waits for are abandoned once the hold has TIE_LATE steps. -/
def State.abandonLate (s : State) (w : Nat) : State :=
  let x := s.ward w
  if x.holdSteps < x.lateSteps ∨ x.holdMax ≤ x.lateSteps then s
  else forEach (x.latePlates.filter fun p => p.smode ≠ 0) s fun s p =>
    let d := x.pfDie p.idx
    ((s.pfRecord w d p .tierFail 0).pfLost w d p .tierFail).modWard w fun x =>
      { x with job := x.job.map fun j => { j with pending := j.pending.filter fun y => y.id ≠ p.id } }

/-- One step of 256 cy is added; `u` is the unit that has not finished. -/
def State.holdStep (s : State) (w : Nat) (u : Nat × Nat × Nat) : State :=
  s.modWard w fun x =>
    { x with holding := true, holdSteps := x.holdSteps + 1, heldSteps := incSat x.heldSteps,
             heldBeats := if x.holdSteps = 0 then incSat x.heldBeats else x.heldBeats,
             tieLate := if x.holdSteps = 0 ∧ x.latePlates ≠ [] then incSat x.tieLate else x.tieLate,
             lastHold := { steps := BitVec.ofNat 16 (min (x.holdSteps + 1) 0xFFFF), unit := u.2.1, die := u.1, idx := u.2.2,
                           beatLo := x.num.setWidth 32 } }

/-- The record of a held beat (R486): DIE and UNIT are those of the last unit. -/
def State.holdRecord (s : State) (w scope : Nat) (st : Byte) : State :=
  let h := (s.ward w).lastHold
  s.report { cls := 0x0B, scope := scope, status := st, ward := w, unit := h.unit, die := h.die, idx := h.idx, src := 3,
             detail := h.word.setWidth 128 }

/-- The beat is over at this step point; a held one is an event of the last unit's die controller, of the beat master's where
that unit is on another module (R178), and a record where the hold went beyond TIE_LATE. -/
def State.closeBeat (s : State) (w : Nat) : State :=
  let x := s.ward w
  let s := s.modWard w fun x => { x with closed := true, holding := false }
  if x.holdSteps = 0 then s
  else
    let s := if x.lastHold.unit = 8 ∧ x.master = false then s
      else s.dieEvent w (if x.lastHold.unit = 8 then x.lowDie else x.lastHold.die) 12 x.holdSteps
    if x.lateSteps < x.holdSteps then s.holdRecord w 4 0 else s

/-- R177: the limit is reached with a unit unfinished. -/
def State.overrunBeat (s : State) (w : Nat) (u : Nat × Nat × Nat) : State :=
  let s := s.modWard w fun x =>
    { x with overrun := true, closed := true, holding := false,
             lastHold := { steps := BitVec.ofNat 16 (min x.holdSteps 0xFFFF), unit := u.2.1, die := u.1, idx := u.2.2, beatLo := x.num.setWidth 32 } }
  (s.holdRecord w 4 St.beatOverrun.code).jobFault w .beatOverrun

/-- The beat is held one step more, or overruns; a hold by roll call has no limit (R401). -/
def State.holdOrOverrun (s : State) (w : Nat) (u : Nat × Nat × Nat) : State :=
  let x := s.ward w
  if x.holdMax ≤ x.holdSteps ∧ x.mb.rollHeld = false then s.overrunBeat w u else s.holdStep w u

/-! ### Markers (R181, R391) -/

/-- This module's READY: sent once for a beat. -/
def State.sendReady (s : State) (w : Nat) : State :=
  let x := s.ward w
  if x.mb.readySent then s
  else
    let s := s.modWard w fun x => { x with mb := { x.mb with readySent := true, ready := if x.master then x.mb.ready ++ [s.linkAddr] else x.mb.ready } }
    if x.master then s else s.sendMarker x.masterId 1 (x.peerWard x.masterId) x.masterId x.num []

/-- A part that has not finished elsewhere, as far as this module knows: at the master the lowest identity without
a READY, elsewhere the master. -/
def State.remoteUnit (s : State) (w : Nat) : Nat × Nat × Nat :=
  let x := s.ward w
  (0, 8, match x.modules.filter fun m => x.master && !x.mb.ready.contains m with
    | [] => x.masterId
    | m :: r => r.foldl min m)

/-- A step point of a job that spans modules, at S_k − C of this module's count. -/
def State.multiPoint (s : State) (w : Nat) : State :=
  let x := s.ward w
  if x.mb.dead then s.closeBeat w
  else if x.mb.lostMark then s.holdOrOverrun w (0, 8, x.masterId)
  else
    let s := s.abandonLate w
    let late := firstUnit (s.unfinished w)
    let s := s.modWard w fun x => { x with mb := { x.mb with late := late } }
    if late = none then s.sendReady w else s

/-- BEAT_STEP_POINT. A ward without a job closes its beat at once; a part that waits for START says it is ready. -/
def execBeatStepPoint (w : Nat) (s : State) : Host.Outcome State Fault Refusal :=
  let x := s.ward w
  if !s.live ∨ 7 < w ∨ !x.hasBeat ∨ x.closed then .next s
  else if !x.working then
    if x.running && x.multi then
      if x.mb.verdict.isSome then .next s else .next ((s.sendReady w).closeBeat w)
    else .next (s.closeBeat w)
  else if x.multi then .next (s.multiPoint w)
  else
    let s := s.abandonLate w
    match firstUnit (s.unfinished w) with
    | none => .next (s.closeBeat w)
    | some u => .next (s.holdOrOverrun w u)

/-- The operator ends a job that roll call holds (R401). -/
def Ward.endAsked (x : Ward) : Bool := x.heldOps.any fun h => h.force && h.op.isEnd && x.mb.cmds.contains (h.origin, h.oseq)

/-- The master's verdict goes to the other modules, and is its own to apply. -/
def State.sendVerdict (s : State) (w kind : Nat) (yes : Bool) (beat : W64) (cmds : List (Nat × Nat)) : State :=
  let x := s.ward w
  let s := s.modWard w fun x => { x with mb := { x.mb with verdict := some (yes, beat), due := cmds, cmds := x.mb.cmds.drop cmds.length } }
  forEach (x.modules.filter fun m => m ≠ s.linkAddr) s fun s m => s.sendMarker m kind w x.masterId beat cmds

/-- MASTER_DECIDE (R181, R401, R417). -/
def execMasterDecide (w : Nat) (s : State) : Host.Outcome State Fault Refusal :=
  let x := s.ward w
  if !s.live ∨ 7 < w ∨ !x.running ∨ !x.multi ∨ !x.master ∨ x.mb.verdict.isSome ∨ x.closed ∨ x.mb.dead then .next s
  else
    let all := x.modules.all x.mb.ready.contains
    if !x.working then
      if all then .next (s.sendVerdict w 4 true (x.num + 1) []) else .next s
    else if all && (!x.mb.rollHeld || x.endAsked) then .next (s.sendVerdict w 2 true (x.num + 1) (x.mb.cmds.take 24))
    else .next (s.sendVerdict w 3 false x.num [])

/-- VERDICT_APPLY (R181, R183). After a HOLD the cycle repeats; READYs stand. The unit of the hold is the one that had not
finished at S_k − C (R178, R195). -/
def execVerdictApply (w : Nat) (late : Bool) (s : State) : Host.Outcome State Fault Refusal :=
  let x := s.ward w
  if !s.live ∨ 7 < w ∨ !x.running ∨ x.closed ∨ x.mb.lostMark ∨ x.mb.dead then .next s
  else match x.mb.verdict with
    | none => .next s
    | some (yes, _) =>
      let s := s.modWard w fun x => { x with skewLate := x.skewLate || late }
      if yes then .next (s.closeBeat w)
      else
        let u := x.mb.late.getD (s.remoteUnit w)
        .next ((s.modWard w fun x => { x with mb := { x.mb with verdict := none } }).holdOrOverrun w u)

/-- MARKER_LOST (R183): the module stops issuing and treats the beat as held. -/
def execMarkerLost (w : Nat) (s : State) : Host.Outcome State Fault Refusal :=
  let x := s.ward w
  if !s.live ∨ 7 < w ∨ !x.working ∨ !x.multi ∨ x.master ∨ x.closed ∨ x.mb.verdict.isSome ∨ x.mb.lostMark then .next s
  else
    .next ((s.modWard w fun x => { x with markerLost := true, mb := { x.mb with lostMark := true } }).holdOrOverrun w (0, 8, x.masterId))

/-- A marker of the ward's job, for a part that takes markers. -/
def Ward.takes (x : Ward) (m : Marker) : Bool :=
  x.running && x.multi && !x.master && !x.mb.lostMark && !x.mb.dead && x.mb.verdict.isNone && m.master == x.masterId &&
  m.jobward == x.peerWard x.masterId

/-- MARKER_READY: the master notes a module of the job; before the job begins the modules' beat numbers differ. -/
def execMarkerReady (w : Nat) (src : Nat) (m : Marker) (s : State) : Host.Outcome State Fault Refusal :=
  let x := s.ward w
  if s.live ∧ w < 8 ∧ x.running ∧ x.multi ∧ x.master ∧ m.jobward = w ∧ m.master = s.linkAddr ∧ x.modules.contains src ∧
      (!x.working ∨ m.beat = x.num) ∧ !x.mb.ready.contains src then
    .next (s.modWard w fun x => { x with mb := { x.mb with ready := x.mb.ready ++ [src] } })
  else .next s

def execMarkerBoundary (w : Nat) (m : Marker) (s : State) : Host.Outcome State Fault Refusal :=
  let x := s.ward w
  if s.live ∧ w < 8 ∧ x.working ∧ x.takes m ∧ m.beat = x.num + 1 then
    .next (s.modWard w fun x => { x with mb := { x.mb with verdict := some (true, m.beat), due := m.cmds } })
  else .next s

def execMarkerHold (w : Nat) (m : Marker) (s : State) : Host.Outcome State Fault Refusal :=
  let x := s.ward w
  if s.live ∧ w < 8 ∧ x.working ∧ x.takes m ∧ m.beat = x.num then
    .next (s.modWard w fun x => { x with mb := { x.mb with verdict := some (false, m.beat) } })
  else .next s

/-- MARKER_START (R417): the job begins at the boundary that this verdict closes. -/
def execMarkerStart (w : Nat) (m : Marker) (s : State) : Host.Outcome State Fault Refusal :=
  let x := s.ward w
  if s.live ∧ w < 8 ∧ !x.working ∧ x.takes m then
    .next (s.modWard w fun x => { x with mb := { x.mb with verdict := some (true, m.beat), due := [] } })
  else .next s

/-! ### Before item 1: the beat that ends -/

/-- Activity of the ending beat, charged to the contexts in its stages (R430), and its translation-cache misses
(R270); what they amount to is left open. -/
def State.chargeBeat (s : State) (w : Nat) : State :=
  let (m, s) := s.takeFresh
  let s := s.modWard w fun x => { x with xlatMiss := x.xlatMiss + Config.freeW32 m }
  let x := s.ward w
  if !x.working then s
  else
    let bs := (x.dieList.filterMap x.groupAt).dedup
    let cs := (0 :: ((x.ctxTab.filter fun e => bs.contains (e.1 / 1024) && e.2.ctx != 0).map fun e => e.2.ctx)).dedup
    let us := x.dieList.filter fun d => (s.upd d).work != .idle
    let s := forEach cs s fun s c =>
      let (n, s) := s.takeFresh
      let (k, s) := s.takeFresh
      s.modWard w fun x => { x with acct := x.acct.modify c fun a =>
        { a with tileCy := a.tileCy + (Config.freeW32 n).toNat, chainCy := a.chainCy + (Config.freeW32 k).toNat } }
    forEach us s fun s d =>
      let (n, s) := s.takeFresh
      s.modWard w fun x => { x with acct := x.acct.modify (s.upd d).ctx fun a => { a with updCy := a.updCy + (Config.freeW32 n).toNat } }

/-- A held command takes effect. -/
def State.runHeldOp (s : State) (w : Nat) (h : HeldOp) : State :=
  let o := (s.opens.get h.jseq).getD { ring := noRing, tag := 0, ward := w }
  (s.modWard w fun x => { x with heldOps := x.heldOps.filter fun y => y.jseq != h.jseq }).runOp
    { jseq := h.jseq, w := w, wait := h.wait, force := h.force, ring := o.ring, tag := o.tag, port := h.port, func := h.func } h.op

/-- Commands that only waited their turn take effect, in journal order, as far as no earlier command is still held (R39). -/
def State.runWaiting : Nat → State → Nat → State
  | 0, s, _ => s
  | n + 1, s, w => match (s.ward w).heldOps with
    | h :: _ => if h.waits then State.runWaiting n (s.runHeldOp w h) w else s
    | [] => s

/-- Commands that the marker names are applied before item 1 (R40, R389), and those that waited behind them. -/
def State.runHeld (s : State) (w : Nat) : State :=
  let s := forEach (s.ward w).mb.due s fun s k =>
    match (s.ward w).heldOps.find? fun h => (h.origin, h.oseq) == k && !h.waits with
    | none => s
    | some h => s.runHeldOp w h
  s.runWaiting (s.ward w).heldOps.length w

/-! ### Items 1 to 3 -/

/-- BEA_NUM takes the number of the new beat: the marker's in a job that spans modules (R173). -/
def Ward.newBeat (x : Ward) (ns : W32) : Ward :=
  { x with num := match x.mb.verdict with | some (true, b) => b | _ => x.num + 1,
           jobBeat := if x.working then x.jobBeat + 1 else x.jobBeat, period := ns, closed := false, holding := false, holdSteps := 0 }

/-- A position that was lost stays empty while its group stays in the stage (R283). -/
def Ward.dropEmpty (x : Ward) : Ward :=
  { x with emptyPos := x.emptyPos.filter fun e => decide (x.num.toNat < e.2.2.2.toNat) ||
      (match x.job with | some j => j.prog.groupIn e.1 x.jobBeat == some e.2.1 | none => false) }

/-- An accepted job begins: JOB_START completes (R417). -/
def State.beginJob (s : State) (w : Nat) : State :=
  let x := s.ward w
  match x.job with
  | none => s
  | some j =>
    if j.began ∨ j.forced ∨ j.fault.isSome ∨ (x.multi ∧ (match x.mb.verdict with | some (b, _) => b | none => false) = false) then s
    else (s.modWard w fun x => { x with job := some { j with began := true, firstBeat := x.num }, jobBeat := 0 }).complete j.jseq .ok

/-- The job may end with ST_OK: nothing of it is left. -/
def Ward.spent (x : Ward) : Bool := x.live.isEmpty && x.trains.all fun e => !e.2.active

/-- Item 2: faults and ends of the job (R86, R401, R418, R419); a ward reset or a shut-down that waited for it goes on
(R415, R416). -/
def State.jobEnds (s : State) (w : Nat) : State :=
  let x := s.ward w
  match x.job with
  | none => s
  | some j =>
    let s := match j.fault with
      | some st => s.faultNow w st
      | none =>
        if j.began ∧ (s.pickSpares w).isNone then s.faultNow w .witnessFence
        else if j.forced then s.stopJob w .ok (if x.mb.rollHeld then .divergent else .adapterWithdrawn) 3
        else if j.ending ∧ x.spent then s.stopJob w .ok .adapterWithdrawn 3
        else s
    if (s.ward w).job.isNone ∧ x.st = .resetting then s.wardLoss w (x.resetStatus == St.poison.code)
    else if (s.ward w).job.isNone ∧ x.disables ≠ [] ∧ (s.ward w).st = .idle then s.shutDown w
    else s

/-- The exchange of the next beat starts afresh, that before START goes on; at the master a hold by roll call stands
until it is cleared. -/
def Ward.nextExchange (x : Ward) : Ward :=
  if x.working then { x with mb := { x.mb with readySent := false, ready := [], verdict := none, due := [], rollHeld := x.mb.rollHeld && x.master } }
  else { x with mb := { x.mb with verdict := none, due := [] } }

/-- Item 3. -/
def State.takeSpares (s : State) (w : Nat) : State :=
  if !(s.ward w).working then s
  else forEach ((s.pickSpares w).getD []) s fun s (role, p, i) =>
    let s := (s.loadTile i p).modTile i fun t => { t with spare := false, remapped := true, roleOf := role % 64 }
    s.modWard w fun x => { x with job := x.job.map fun j =>
      { j with remaps := j.remaps.set role (i + 1), sparesFree := j.sparesFree.filter fun k => k ≠ i } }

/-! ### Item 5 -/

/-- Positions lost in the ending beat: sequences are marked to end, at their group's next token boundary for poison and
at this release otherwise; a training micro-batch abandons its step (R86, R283, R482). -/
def State.applyLost (s : State) (w : Nat) : State :=
  let lost := (s.ward w).lostPos
  let s := s.modWard w fun x => { x with lostPos := [] }
  forEach lost s fun s (c, b, pos, st) =>
    let hit (k : Nat) : Bool := match pos with | none => true | some p => k == p
    let s := s.markCtx w (fun q => q.ctx == c && q.bg == b && q.inStep && hit q.pos) st 4 (st != .poison)
    let rows := (s.ward w).ctxTab.filter fun e => e.1 / 1024 = b && e.2.ctx = c && hit (e.1 % 1024)
    let tr := ((s.ward w).job.map (·.prog.training)).getD []
    let s := s.modWard w fun x => { x with ctxTab := x.ctxTab.map fun e =>
      if e.1 / 1024 = b ∧ e.2.ctx = c ∧ hit (e.1 % 1024) then (e.1, { e.2 with lost := true }) else e }
    if rows.any (fun e => tr.contains (e.1 % 1024)) ∧ (s.train w c).active then
      s.modTrain w c fun t => { t with abandonDue := some (t.abandonDue.getD st) }
    else s

/-- The source of an entry's operations for position POS of group `b` (R280, R307, R329). -/
def State.pfSources (s : State) (w : Nat) (e : PfEnt) (d : Nat) (row : CtxEnt) (b : Nat) (training : Bool) (o : DevOp) : List DevOp :=
  let x := s.ward w
  match e.smode with
  | 0 => [{ o with src := e.src }]
  | 1 =>
    let r := x.registry.get row.ctx
    let t := x.trains.get row.ctx
    if training then [{ o with src := BitVec.ofNat 48 (t.record.imgVa d (if t.sh then 1 else 0) + e.src.toNat) }]
    else if x.noHot then [{ o with kind := .develop, src := r.negVa, skip := e.src.toNat }]
    else [{ o with src := e.src, srcChunks := r.chunksOf (row.gen.toNat % 2) }]
  | _ =>
    let qs := sortBy (fun (p q : Nat × Sq) => decide (p.2.vec ≤ q.2.vec)) (x.live.filter fun q => q.2.placed && q.2.bg = b && q.2.pos = e.pos && q.2.st = .running)
    let n := o.count * devUnit o.pkind o.pfmt
    ((qs.flatMap fun q => x.blocksOf q.1 1).zipIdx).map fun (k, i) =>
      { o with src := BitVec.ofNat 48 (x.frameVa d k + e.src.toNat), dst := BitVec.ofNat 48 (e.dst.toNat + i * n) }

/-- The destination shape of an entry, none for dense; a failed access, poison, or a record that breaks its layout fails the
entry (log entry 186). -/
def State.pfShape (s : State) (w c va : Nat) : State × Except St (Option Shape) :=
  if va = 0 then (s, .ok none)
  else match s.checkRange w c va 64 false with
    | some (st, _) => (s, .error st)
    | none =>
      let (s, o) := s.readVa w c va 64
      if o.bad.any id || o.soft.any id then (s, .error .poison)
      else if !shapeOk (words8 o.bytes) then (s, .error .protection)
      else (s, .ok (some (shapeOf (words8 o.bytes))))

/-- An entry issues: its operations join the developer's queue, and its beat's closing waits for them (R281). -/
def State.pfIssue (s : State) (w : Nat) (p : JobProg) (t k : Nat) (e : PfEnt) : State :=
  let x := s.ward w
  let d := x.dieList.getD e.die 0
  let g : Option Nat := (x.stageOf d).bind fun q => p.groupIn q (t + e.lead)
  let b := g.getD 1024
  let row : CtxEnt := if e.smode = 0 then {} else x.ctxTab.get (1024 * b + e.pos)
  if e.smode ≠ 0 ∧ (g.isNone ∨ row.ctx = 0 ∨ row.lost) then s
  else
    let kind : DevKind := match e.op with | 1 => .develop | 2 => .quant | 3 => .encode | _ => .move
    let id := (x.job.map (·.pfNext)).getD 0
    let s := s.modWard w fun x => { x with job := x.job.map fun j => { j with pfNext := j.pfNext + 1 } }
    let run : PfRun := { id := id, idx := k, ctx := row.ctx, pos := e.pos, bg := b, closes := x.num + BitVec.ofNat 64 (e.lead - 1), waits := 1,
                         smode := e.smode, due := x.num + BitVec.ofNat 64 e.lead }
    let o : DevOp := { kind := kind, src := 0, dst := e.dst, cw := e.cw, tbl := e.tbl, pkind := if e.op = 4 then 4 else p.fkind, pfmt := p.ffmt,
                       bf16 := p.fkind == 3, skew := p.skews.contains k, ctx := row.ctx, ward := w, use := .prefetch id }
    match s.pfShape w row.ctx e.dshp.toNat with
    | (s, .error st) =>
      let s := if st = .poison then s else s.countFault w
      (s.pfRecord w d run st 0x48).pfOver w d run st (if st = .poison then .poison else .tierFail)
    | (s, .ok shp) =>
      let os := s.pfSources w e d row b (p.training.contains e.pos) { o with shp := shp }
      if os = [] then s
      else
        -- RAW units are copied by the tier manager, everything else by the developer
        let s := forEach os s fun s o => if e.op = 4 then s.modDev d fun x => { x with copies := x.copies ++ [o] } else s.devIssue d o
        s.modWard w fun x => { x with job := x.job.map fun j => { j with pending := j.pending ++ [{ run with waits := os.length }] } }

/-- Entries whose phase this boundary begins, in array order. -/
def State.issuePrefetch (s : State) (w : Nat) (p : JobProg) (t : Nat) : State :=
  let per := (s.ward w).pfPer
  if per = 0 then s
  else
    let es := (((s.ward w).job.map (·.schedule)).getD []).zipIdx.filter fun (e : PfEnt × Nat) => (e.1.due + 16 * per - e.1.lead) % per = t % per
    forEach es s fun s (e, k) => s.pfIssue w p t k e

/-- Item 5: the serving actions (R313), the work of training, the retirements of R462. -/
def State.serve (s : State) (w : Nat) : State :=
  let x := s.ward w
  if x.st ≠ .idle ∧ x.st ≠ .running then s
  else match x.job with
    | none => (s.retireSteps w).release w none
    | some j =>
      if !j.began then (s.retireSteps w).release w none
      else
        let t := x.jobBeat
        let s := (((s.applyLost w).serveHinges w j.prog t).trainingStep w).accSlices w t
        ((((s.retireSteps w).serveRest w j.prog t).retryDist w).settle w).issuePrefetch w j.prog t

/-! ### Items 6 and 7 -/

/-- Item 7: a stand-in flag is cleared at its target (R539); nothing has been drained in the new beat (R86). -/
def State.clearStandIn (s : State) (i : Nat) : State :=
  if (s.tile i).standIn = 0 ∧ (s.tile i).drained = false then s
  else s.modTile i fun t => { t with flags := t.flags &&& ~~~t.standIn, standIn := 0, drained := false }

/-- A tile that waits at BEAT goes on (R145). -/
def State.resumeTile (s : State) (w i : Nat) : State :=
  if (s.tile i).st = .atBeat ∧ (s.tile i).health ≠ .fenced then (s.modTile i fun t => { t with st := .running }).checkPc w i else s

/-- The list of R179. -/
def State.boundary (s : State) (w : Nat) (ns : W32) : State :=
  let s := ((s.chargeBeat w).runHeld w).pruneUncounted
  let s := (s.modWard w fun x => (x.newBeat ns).dropEmpty).beginJob w
  let s := s.jobEnds w
  let s := (s.runWaiting (s.ward w).heldOps.length w).modWard w fun x => x.nextExchange
  let s := ((s.takeSpares w).takeSnap w).serve w
  let s := s.modWard w fun x => x.takeLen
  let s := forEach (s.ward w).tiles s fun s i => s.clearStandIn i
  ((forEach (s.ward w).tiles s fun s i => s.resumeTile w i).takeEarly w).settle w

/-- BEAT_BOUNDARY: the ward's closed beat gives way to the next. -/
def execBeatBoundary (w : Nat) (ns : W32) (s : State) : Host.Outcome State Fault Refusal :=
  let x := s.ward w
  if s.live ∧ w < 8 ∧ x.hasBeat ∧ x.closed then .next (s.boundary w ns) else .next s

end Sys2Proof.Machine
end

