-- ==== Sys2Proof/Machine/ChainEngine.lean ====
section
/-! DEFINITION. The meanings of the chain engine's commands: the start of a program (R214, R216, R218), a row
(R197 to R213, R220) and the end of a program (R211, R214). -/

namespace Sys2Proof.Machine
open Sys2Proof

/-- CHN_FAULT and CHN_CHECK as they read (R223, R224). -/
def Quad.faultWord (q : Quad) : W64 :=
  BitVec.ofNat 64 (q.faultDetail.toNat + q.faultRecord % 256 * 2 ^ 32 + q.faultIssuer % 4 * 2 ^ 40 +
    q.faultCause % 256 * 2 ^ 48 + (if q.faultValid then 2 ^ 63 else 0))
def Quad.checkWord (q : Quad) : W64 :=
  BitVec.ofNat 64 (q.jobBad.toNat * 2 ^ 16 + q.parity.toNat * 2 ^ 32 + q.residue.toNat * 2 ^ 48)

/-! ### The start of a program -/

/-- R218: the program fails its checks. The first error of the job stays in CHN_FAULT. -/
def State.chainError (s : State) (q : Nat) (p : ChainProg) (cause record detail : Nat) : State :=
  let s := s.modQuad q fun x =>
    { (if x.faultValid then x else
        { x with faultValid := true, faultCause := cause, faultIssuer := p.issuer, faultRecord := record,
                 faultDetail := sat32 detail }) with queue := x.queue.tail }
  let s := s.report { cls := 3, scope := 4, status := St.protection.code, ward := (s.wardOfDie (q / 16)).getD 0xFF,
                      unit := 1, die := q / 16, idx := q % 16, src := 3, cause := cause,
                      detail := (s.quad q).faultWord.setWidth 128 }
  s.jobFaultDie (q / 16) .protection

/-- R216: the bytes in an overlap hold free values. -/
def State.blur (s : State) (q : Nat) (cl : List (Nat × Nat × Nat)) : State :=
  forEach cl s fun s (t, lo, n) =>
    { (s.wrStore (s.quadTile q t) lo ((List.range n).map fun k => Config.freeByte (s.fresh + k))) with fresh := s.fresh + n }

/-- R214: the oldest queued program reads and checks its descriptor, and starts or fails. Of several errors the descriptor's
range is recorded first, then CHN_DESC of the lowest record, then CHN_RANGE of the lowest record with that record's lowest
byte (R218; log entry 171). A word of the descriptor with an uncorrectable error fences the tile (R470). -/
def execChainProgramStart (q : Nat) (s : State) : Host.Outcome State Fault Refusal :=
  let x := s.quad q
  match x.run, x.queue with
  | none, p :: rest =>
    let i := s.quadTile q p.issuer
    let off := p.off / 16 * 16
    let wd := s.storeW64 i off
    let hdrBad := rangesBad [⟨0, off, 16⟩]
    let d := chainDescOf wd
    let descRange := rangesBad [⟨0, off, 96 + 16 * d.stages.length⟩]
    match (s.tile i).badWords.find? fun k => decide (8 * k < off + 96 + 16 * d.stages.length) && decide (off < 8 * k + 8) with
    | some k => .next (s.mainFault i 0 k)
    | none =>
    match hdrBad, descRange, descBad p.rows wd, chainRange d off p.rows with
    | some o, _, _, _ => .next (s.chainError q p 0x21 0 o)
    | _, some o, _, _ => .next (s.chainError q p 0x21 0 o)
    | _, _, b :: _, _ => .next (s.chainError q p 0x20 b 0)
    | _, _, _, some (n, o) => .next (s.chainError q p 0x21 n o)
    | _, _, _, _ =>
      let jb := match s.wardOfDie (q / 16) with | some w => (s.ward w).jobBeat | none => 0
      let cl := d.clashes p.rows
      let s := s.modQuad q fun x =>
        { x with queue := rest,
                 gens := if d.seed = 0 then x.gens else reseedAll ((s.tile (4 * q + p.issuer)).seeds.get d.seed) jb,
                 run := some { issuer := p.issuer, rows := p.rows, desc := d, clash := cl } }
      .next (s.blur q cl)
  | _, _ => .next s

/-! ### A row -/

/-- One element of a stream; poison from a word with an uncorrectable error (R470). -/
def State.chainElem (s : State) (i : Nat) (bf16 : Bool) (off : Int) : W32 :=
  if s.storeBad i off.toNat (esize bf16) then f32Poison
  else if bf16 then bf16ToF32 (BitVec.ofNat 16 (leNat (s.rdStores i off.toNat 2)))
  else BitVec.ofNat 32 (leNat (s.rdStores i off.toNat 4))

/-- R199: a stream's 256 values in row `r`; kept where the addresses are those of the row before. -/
def State.streamRow (s : State) (q : Nat) (d : ChainDesc) (kept : List (List W32)) (r k : Nat) : List W32 :=
  let x := d.streams.getD k {}
  if 0 < r ∧ x.rowAt d.span r = x.rowAt d.span (r - 1) then kept.getD k []
  else (List.range 256).map fun j =>
    s.chainElem (s.quadTile q x.tile) x.bf16 (x.rowAt d.span r + (x.lane d.gl j * esize x.bf16 : Nat))

/-- The stages on one row: P of the last stage, and the input of the RED stage. -/
def chainRowOf (d : ChainDesc) (vals : List (List W32)) : List W32 × List W32 :=
  d.stages.foldl (fun (p, red) g =>
    let src (v j : Nat) : W32 := if v = 0 then p.getD j 0 else (vals.getD (v - 1) []).getD j 0
    let p' := (List.range 256).map fun j => chStage g.fn g.cond g.sh (src g.xs j) (src g.ys j) (src g.zs j)
    (p', if g.fn = 0x10 then p' else red)) ([], [])

/-! ### Reductions (R208 to R211) -/

/-- Pairwise sums of neighbours. -/
def pairSum : List W32 → List W32
  | a :: b :: r => f32Add a b :: pairSum r
  | l => l

/-- The fixed tree of R209. -/
def treeSum : Nat → List W32 → W32
  | 0, l => l.headD 0
  | n + 1, l => treeSum n (pairSum l)

/-- ceil of a finite number or minus infinity, as FP32; a zero is +0 (R210 gives no sign; log entry 170). -/
def f32Ceil (x : W32) : W32 :=
  if f32IsInf x then x
  else
    let v := f32Val x
    f32Int (-(if 0 ≤ v.e then -(v.at 0) else -v.m / (2 ^ (-v.e).toNat : Nat)))

/-- `t` scaled by 2^(m - mn), `m` and `mn` integers or minus infinity. -/
def scaleBy (t m mn : W32) : W32 :=
  if f32IsInf m then 0
  else
    let d := (f32Val m).sub (f32Val mn)
    if f32IsZero t then t else if d.lt ⟨-400, 0⟩ then 0 else f32Rne ⟨(f32Val t).m, (f32Val t).e + d.at (min d.e 0) / (2 ^ (-(min d.e 0)).toNat : Nat)⟩

/-- One row's values `xs` of a group enter its accumulator. -/
def redRow (mode : Nat) (first : Bool) (a : ChainAcc) (xs : List W32) : ChainAcc :=
  let a := if first then {} else a
  let a := { a with poison := a.poison || xs.contains f32Poison, nan := a.nan || xs.any f32IsNan }
  match mode with
  | 0 => { a with v := xs.foldl (fun v x => if f32Mag v < f32Mag x then f32Abs x else v) a.v }
  | 3 =>
    if a.poison || a.nan then a
    else if xs.contains (f32Inf false) then { a with nan := true }
    else
      let mx := xs.foldl chMax (f32Inf true)
      let mr := f32Ceil mx
      let e := xs.map fun x => if x = f32Inf true then 0 else chExp2 (f32Add x (f32Flip mr))
      let tr := treeSum 8 e
      if first then { a with m := mr, v := tr }
      else
        let mn := chMax a.m mr
        { a with m := mn, v := f32Add (scaleBy a.v a.m mn) (scaleBy tr mr mn) }
  | _ =>
    let v := treeSum 8 (if mode = 2 then xs.map fun x => f32Mul x x else xs)
    { a with v := if first then v else f32Add a.v v }

/-- R211: A × R + C, then RCP or RSQ. -/
def redTransform (g : ChainStage) (r : W32) : W32 :=
  if g.rtf = 0 ∨ r = f32Poison then r
  else
    let x := f32Fma g.a r g.c
    guarded [x] (if g.rtf = 1 then chRcp x else chRsq x)

/-- The words that a group writes at the end of its span: the result, and for SMAX the pair. -/
def redResult (g : ChainStage) (bad : Bool) (a : ChainAcc) : W32 × W32 :=
  if bad || a.poison then (f32Poison, f32Poison)
  else if g.rmode = 3 then
    if a.nan then (f32QNan, f32QNan)
    else if f32IsInf a.m then (0, redTransform g 0)
    else (a.m, redTransform g a.v)
  else
    let r := redTransform g (if a.nan || f32IsNan a.v then f32QNan else a.v)
    (r, r)

/-! ### Writing -/

def inClash (cl : List (Nat × Nat × Nat)) (t off : Nat) : Bool := cl.any fun (t', lo, n) => t = t' && decide (lo ≤ off) && decide (off < lo + n)

/-- Bytes written by the program of quad `q` into the store of quad-local tile `t`: free in an overlap. -/
def State.chainWrite (s : State) (q t : Nat) (cl : List (Nat × Nat × Nat)) (cells : List (Nat × Byte)) : State :=
  let i := s.quadTile q t
  let out := (cells.zipIdx).map fun ((o, b), k) => (o, if inClash cl t o then Config.freeByte (s.fresh + k) else b)
  { s.wrStoreCells i out with fresh := if cl = [] then s.fresh else s.fresh + cells.length }

/-- R481: banks that take poison, each noted once a program. -/
def State.chainNote (s : State) (q : Nat) (hits : List (Nat × Nat)) : State :=
  forEach hits.dedup s fun s (t, bank) =>
    match (s.quad q).run with
    | some r =>
      if r.noted.contains (t, bank) then s
      else (s.modQuad q fun x => { x with run := some { r with noted := r.noted ++ [(t, bank)] } }).notePoison
        (s.quadTile q t) bank 1 (q % 16)
    | none => s

def enumCells (off : Nat) (bs : List Byte) : List (Nat × Byte) := (bs.zipIdx).map fun (b, k) => (off + k, b)

/-- Codes of one converted block, at element `first` of the plate at `off`, scale byte `sc`. -/
def convCells (f : Fmt) (off sc first : Nat) (c : Conv) : List (Nat × Byte) :=
  (off + sc, BitVec.ofInt 8 c.scale) :: enumCells (off + 16 + first * f.width / 8) (packPatterns f c.codes)

/-- R220: a block that holds a lane of a bad row takes scale byte -128 and code bits 0; its site counts what the conversion
itself gave (log entry 172). -/
def Conv.spoil (bad : Bool) (c : Conv) : Conv := if bad then { c with scale := -128, codes := c.codes.map fun _ => 0 } else c

/-- The draws of one block, lane by lane: element `k` is drawn from lane `lane k` (R213). -/
def laneDraws (c : Cw) (es : Int) (g : Tab W32) (lane : Nat → Nat) (xs : List W32) : List Nat × Tab W32 :=
  (xs.zipIdx).foldl (fun (us, g) (x, k) =>
    if c.draws es (some x) then let (u, g) := drawFrom g (lane k); (us ++ [u], g) else (us ++ [0], g)) ([], g)

/-- What a conversion writes, adds to its site, and where it puts poison. -/
structure QntOut where
  cells : List (Nat × Byte) := []
  delta : SiteDelta := {}
  gens : Tab W32 := []
  hits : List Nat := []

/-- R212: row `r` in line blocks. -/
def State.qntLine (s : State) (q : Nat) (d : ChainDesc) (gens : Tab W32) (r : Nat) (bad : Bool) (xs : List W32) : QntOut :=
  let c := d.cw
  let off := d.oBase + r / 2 * linePlateSize c.fmt
  let h := r % 2
  (List.range 8).foldl (fun o k =>
    let es : Int := if c.supplied then (s.rdStore (s.quadTile q d.seTile) (d.seBase + 8 * r + k)).toInt else 0
    let b := (xs.drop (32 * k)).take 32
    let (us, g) := laneDraws c es o.gens (fun j => 32 * k + j) b
    let v := (convBlock c es us (b.map some)).spoil bad
    { cells := o.cells ++ convCells c.fmt off (8 * h + k) (256 * h + 32 * k) v, delta := o.delta.add v.delta, gens := g,
      hits := if v.poison then o.hits ++ [(off + 8 * h + k) / 65536, (off + 16 + (256 * h + 32 * k) * c.fmt.width / 8) / 65536]
              else o.hits }) { gens := gens }

/-- R212: 32 rows, the last of them row `r`, as eight square plates. -/
def State.qntSquare (s : State) (q : Nat) (d : ChainDesc) (gens : Tab W32) (r : Nat) (rows : List (List W32 × Bool)) : QntOut :=
  let c := d.cw
  (List.range 8).foldl (fun o t =>
    let p := r / 32 * 8 + t
    let off := d.oBase + p * squarePlateSize c.fmt
    let es : Int := if c.supplied then (s.rdStore (s.quadTile q d.seTile) (d.seBase + p)).toInt else 0
    let b := rows.flatMap fun (x, _) => (x.drop (32 * t)).take 32
    let (us, g) := laneDraws c es o.gens (fun k => 32 * t + k % 32) b
    let v := (convBlock c es us (b.map some)).spoil (rows.any (·.2))
    { cells := o.cells ++ convCells c.fmt off 0 0 v ++ enumCells (off + 1) (List.replicate 15 0), delta := o.delta.add v.delta,
      gens := g, hits := if v.poison then o.hits ++ [off / 65536, (off + 16) / 65536] else o.hits }) { gens := gens }

/-- The main output of one row. -/
def State.chainOut (s : State) (q : Nat) (run : ChainRun) (bad : Bool) (p : List W32) : State :=
  let d := run.desc
  let r := run.row
  match d.oKind with
  | 0 => s
  | 3 =>
    if d.cw.square ∧ r % 32 ≠ 31 then
      s.modQuad q fun x => { x with run := x.run.map fun y => { y with buf := y.buf ++ [(p, bad)] } }
    else
      let g := (s.quad q).gens
      let o := if d.cw.square then s.qntSquare q d g r (run.buf ++ [(p, bad)]) else s.qntLine q d g r bad p
      let s := (s.chainWrite q d.oTile run.clash o.cells).modQuad q fun x =>
        { x with gens := o.gens, run := x.run.map fun y => { y with buf := [] } }
      (s.addSite (q / 16) d.cw.site o.delta).chainNote q (o.hits.map fun b => (d.oTile, b))
  | k =>
    let off := (d.outRowAt r).toNat
    let v := if bad then List.replicate 256 f32Poison else p
    let bs := v.flatMap fun x => if k = 2 then toLE 2 (f32ToBf16 x).toNat else toLE 4 x.toNat
    (s.chainWrite q d.oTile run.clash (enumCells off bs)).chainNote q
      ((v.zipIdx).filterMap fun (x, j) => if x = f32Poison then some (d.oTile, (off + j * esize (k == 2)) / 65536) else none)

/-- The accumulators after a row, and the results of a span that the row ends. -/
def redStep (run : ChainRun) (bad : Bool) (red : List W32) : ChainRun :=
  let d := run.desc
  match d.red with
  | none => run
  | some g =>
    let i := run.row % d.span
    let acc := (List.range d.groups).foldl (fun t k =>
      Tab.set t k (redRow g.rmode (i = 0) (run.acc.get k) ((red.drop (k * d.gl)).take d.gl))) run.acc
    let badSpan := bad || (i ≠ 0 && run.badSpan)
    let res := if i + 1 = d.span then
        (List.range d.groups).flatMap fun k =>
          let (m, t) := redResult g badSpan (acc.get k)
          let o := 4 * (run.row / d.span * d.groups + k)
          (d.qTile, d.qBase + o, m) :: (if d.smax then [(d.qTile2, d.qBase2 + o, t)] else [])
      else []
    { run with acc := acc, badSpan := badSpan, results := run.results ++ res }

/-- R220: a mismatch is counted and reported; the fourth of a job fences the engine. -/
def State.chainMismatch (s : State) (q : Nat) (chk : ChainCheck) : State :=
  let s := s.modQuad q fun x =>
    { x with jobBad := incSat x.jobBad,
             residue := if chk = .residue then incSat x.residue else x.residue,
             parity := if chk = .parity then incSat x.parity else x.parity }
  let fence : Bool := decide ((s.quad q).jobBad = 4)
  let s := s.report { cls := 3, scope := if fence then 4 else 0, status := if fence then St.poison.code else 0,
                      ward := (s.wardOfDie (q / 16)).getD 0xFF, unit := 1, die := q / 16, idx := q % 16, src := 3,
                      detail := (s.quad q).checkWord.setWidth 128 }
  if fence then (s.modQuad q fun x => { x with fenced := true, run := none, queue := [] }).jobFaultDie (q / 16) .poison
  else s

/-- R211: the results of the spans that are over are written. -/
def State.chainLand (s : State) (q : Nat) (run : ChainRun) : State :=
  let s := forEach run.results s fun s (t, o, v) => s.chainWrite q t run.clash (enumCells o (toLE 4 v.toNat))
  (s.chainNote q (run.results.filterMap fun (t, o, v) => if v = f32Poison then some (t, o / 65536) else none)).modQuad q
    fun x => { x with run := x.run.map fun y => { y with results := [] } }

/-- Some range lies in a bank under clearing (R141). -/
def State.chainClearing (s : State) (q : Nat) (rs : List ChRange) : Bool :=
  rs.any fun r => (s.tile (s.quadTile q r.tile)).anyClearing [r.lo.toNat / 65536, (r.lo.toNat + r.len - 1) / 65536]

/-- A supplied exponent of the row lies in a word with an uncorrectable error: the tile and the word. -/
def State.softSup (s : State) (q : Nat) (rs : List ChRange) : Option (Nat × Nat) :=
  rs.findSome? fun r =>
    let i := s.quadTile q r.tile
    ((s.tile i).badWords.find? fun k => decide (8 * k < r.lo.toNat + r.len) && decide (r.lo.toNat < 8 * k + 8)).map fun k => (i, k)

/-- R215: one row enters the engine, or the engine stalls: an access of a row, or of a write that still lands, is not served.
A residue mismatch can only come from a multiplier that works on the row (R219). -/
def execChainRow (q : Nat) (served : Bool) (chk : ChainCheck) (s : State) : Host.Outcome State Fault Refusal :=
  match (s.quad q).run with
  | none => .next s
  | some run =>
    let stall := s.modQuad q fun x => { x with stallCnt := x.stallCnt + 1 }
    if run.rows ≤ run.row then .next (if served then s else stall)
    else if !served ∨ s.chainClearing q (run.desc.rowRanges run.results run.row) then .next stall
    else if chk = .residue ∧ !run.desc.multiplies run.row then .next s
    else match s.softSup q (run.desc.supRow run.row) with
    | some (i, k) => .next (s.mainFault i 0 k)
    | none =>
      let s := forEach (List.range run.desc.nstr) s fun s k =>
        let x := run.desc.streams.getD k {}
        s.noteSoft (s.quadTile q x.tile) [((x.rowAt run.desc.span run.row).toNat, (x.lane run.desc.gl 255 + 1) * esize x.bf16)]
      let s := s.chainLand q run
      let run := ((s.quad q).run).getD run
      let d := run.desc
      let bad : Bool := decide (chk ≠ .good)
      let vals := (List.range d.nstr).map fun k => s.streamRow q d run.kept run.row k
      let (p, red) := chainRowOf d vals
      let run' := redStep run bad red
      let s := s.modQuad q fun x =>
        { x with rowsCnt := x.rowsCnt + 1, run := some { run' with kept := vals, row := run.row + 1 } }
      let s := s.chainOut q run bad p
      .next (if bad then s.chainMismatch q chk else s)

/-- R211, R214: the results of the spans land, and the program is complete. -/
def execChainProgramComplete (q : Nat) (s : State) : Host.Outcome State Fault Refusal :=
  match (s.quad q).run with
  | none => .next s
  | some run =>
    if run.row < run.rows then .next s
    else
      .next ((s.chainLand q run).modQuad q fun x => { x with run := none })

end Sys2Proof.Machine
end

