-- ==== Sys2Proof/Machine/TileArray.lean ====
section
/-! DEFINITION. The meanings of the array commands: LATCH, SWAP, PASS, PASST and what follows from them
(R127 to R131), promotions (R101 to R104), the proof run (R82 to R89), WZERO (R132) and DRAIN (R133 to
R136). -/

namespace Sys2Proof.Machine
open Sys2Proof

/-! ### LATCH and SWAP -/

/-- R128: stalls while a LATCH is in progress, or a proof run uses the tile as partner (R83). -/
def State.latchBody (s : State) (i : Nat) (f : LatchF) : Issue :=
  if (s.tile i).latching.isSome || s.replaying i then .stall
  else
    match viewsOf (.latch i f) with
    | (a, v, unit, n) :: _ =>
      match s.walkView i a v unit n with
      | .error o => .exc 0x10 (sat32 o)
      | .ok offs => .go (s.modTile i fun t => { t with latching := some ⟨f, offs⟩, lastLatch := some ⟨f, offs⟩ })
    | [] => .go s

def execLatch (t : Nat) (f : LatchF) (s : State) : Host.Outcome State Fault Refusal :=
  .next (s.issue t (.latch t f) fun _ => s.latchBody t f)

/-- The bytes that a LATCH reads (R470). -/
def State.latchRd (s : State) (i : Nat) (j : LatchJob) : Nat → Byte :=
  s.rdSpoiled i (s.softScales i j.f.blk (plateSize j.f.blk j.f.fmt) j.offs)

/-- R67, R128: the last row is written. A LATCH stopped by a proof run waits for its re-run (R83), one whose plates lie in a
bank under clearing for the clear's end (R141). -/
def execLatchComplete (t : Nat) (s : State) : Host.Outcome State Fault Refusal :=
  match (s.tile t).latching with
  | none => .next s
  | some j =>
    if s.replaying t ∨ (s.tile t).anyClearing (banksOf j.offs (plateSize j.f.blk j.f.fmt)) then .next s
    else .next ((s.noteSoft t (j.offs.map fun o => (o, plateSize j.f.blk j.f.fmt))).modTile t fun x =>
      { x with shd := loadLatch (s.latchRd t j) j, shdSrc := some j, latching := none, rerun := false })

/-- R129: stalls while a LATCH is in progress; exchanges the latches. During a proof run that uses the tile as partner it
exchanges the tile's own latches at once, those it holds again after the run (log entry 161). -/
def execSwap (t : Nat) (s : State) : Host.Outcome State Fault Refusal :=
  .next (s.issue t (.swap t) fun _ =>
    if (s.tile t).latching.isSome then .stall
    else .go (s.modTile t fun x => { x with act := x.shd, shd := x.act, actSrc := x.shdSrc, shdSrc := x.actSrc }))

/-! ### PASS and PASST -/

/-- R103, R104: what an accepted pass makes of the carry entries: the plan after it, the wells it forces,
and the promotions of each vector's well. -/
structure PassPlan where
  plan : List CarryPlan
  forced : List Nat
  proms : List Nat
deriving DecidableEq, Repr, Inhabited

def planVec (trans : Bool) (p : Nat) (a : PassPlan) (w : Nat) : PassPlan :=
  match a.plan.find? (fun c => c.well = w) with
  | some c =>
    if 8 < p ∧ c.p = p ∧ c.trans = trans then
      if p ≤ c.segs + 8 then { a with plan := a.plan.filter (fun c => c.well ≠ w), proms := a.proms ++ [w] }
      else { a with plan := a.plan.map fun c => if c.well = w then { c with segs := c.segs + 8 } else c }
    else
      let rest := a.plan.filter fun c => c.well ≠ w
      { plan := if 8 < p then rest ++ [⟨w, trans, p, 8⟩] else rest, forced := a.forced ++ [w],
        proms := if 8 < p then a.proms ++ [w] else a.proms ++ w :: List.replicate (8 / p) w }
  | none =>
    if 8 < p then { a with plan := a.plan ++ [⟨w, trans, p, 8⟩] }
    else { a with proms := a.proms ++ List.replicate (8 / p) w }

def planPass (trans : Bool) (f : PassF) (plan : List CarryPlan) : PassPlan :=
  (List.range f.vcnt).foldl (fun a v => planVec trans (2 ^ f.pi) a ((f.wb + v % f.wc) % 512))
    { plan := plan, forced := [], proms := [] }

/-- Carry entries a pass with P above 8 would need (R103, rule 2). -/
def carryNeed (f : PassF) (plan : List CarryPlan) : Nat :=
  ((plan.map (·.well)) ++ (List.range (min f.vcnt f.wc)).map fun v => (f.wb + v) % 512).dedup.length

/-- Places of the pass queue: one streaming, one waiting (R131; log entry 7). -/
def Tile.passRoom (t : Tile) : Bool :=
  let waiting := (t.passes.filter fun p => !p.started).length
  if t.passes.any (·.started) then waiting = 0 else waiting ≤ 1

def State.passBody (s : State) (i : Nat) (trans : Bool) (f : PassF) (w : Nat) : Issue :=
  let t := s.tile i
  if !t.passRoom then .stall
  else
    match s.walkView i f.as f.vs 272 (f.vcnt + 255) with
    | .error o => .exc 0x10 (sat32 o)
    | .ok rows =>
      if trans && !t.act.turnable then .exc 0x11 0
      else if 3 < f.pi ∧ 64 < carryNeed f t.plan then .exc 0x12 (sat32 (carryNeed f t.plan))
      else
        let pl := planPass trans f t.plan
        let seed := if f.seed = 0 then none else some (t.seeds.get f.seed, (s.ward w).jobBeat)
        let run : PassRun := { f := f, trans := trans, latch := t.act, latchSrc := t.actSrc, rows := rows,
                               forced := pl.forced, seed := seed, beat := (s.ward w).num }
        .go (s.modTile i fun t =>
          { t with passes := t.passes ++ [run], plan := pl.plan,
                   board := pl.proms.foldl (fun b w => b.modify w (· + 1)) t.board,
                   gens := match seed with | some (v, jb) => reseedAll v jb | none => t.gens })

def execPass (t : Nat) (f : PassF) (s : State) : Host.Outcome State Fault Refusal :=
  .next (s.issue t (.pass t f) fun w => s.passBody t false f w)

def execPasst (t : Nat) (f : PassF) (s : State) : Host.Outcome State Fault Refusal :=
  .next (s.issue t (.passt t f) fun w => s.passBody t true f w)

/-- Vector `v` of a pass on tile `i` fills a position that is empty: no sequence fills it, or a fetch for it has failed
(R186, R283). Vector v stands for vector position v mod n of the tile's micro-batch number v / n, where the program has n
vector positions to a micro-batch (log entry 166). -/
def State.posEmpty (s : State) (i v : Nat) : Bool :=
  match s.wardOfDie (i / 64) with
  | none => false
  | some w =>
    let x := s.ward w
    let n := max 1 ((x.job.map (·.prog.vectors)).getD 1)
    match (s.tile i).feeds[v / n]? with
    | none => false
    | some p => match x.stageOf (i / 64), x.groupAt (i / 64) with
      | some k, some b =>
        (x.ctxTab.get (1024 * b + p)).ctx = 0 ||
        (!((x.job.map (·.prog.training)).getD []).contains p &&
          !x.seqs.any (fun q => q.2.inStep && q.2.bg == b && q.2.pos == p && q.2.vec == v % n)) ||
        x.emptyPos.any fun e => e.1 == k && e.2.1 == b && e.2.2.1 == p && decide (e.2.2.2 ≤ x.num)
      | _, _ => true

/-- A vector of a pass as the array sees it: code 0 under scale −126 in an empty position (R186). -/
def State.passVec (s : State) (i : Nat) (p : PassRun) (v : Nat) : List (Option Int) :=
  if s.posEmpty i v then List.replicate 256 (some 0) else runVec (s.rdSpoiled i (s.softRows i p.rows)) p.rows v

def State.passExp (s : State) (i : Nat) (p : PassRun) (v k : Nat) : Int :=
  if s.posEmpty i v then -126 else runExp (s.rdSpoiled i (s.softRows i p.rows)) p.rows v k

/-- R77: the oldest waiting pass takes the array input, with the latch that is active then (R129); it is checked where the
tile is not witness-degraded (R85). -/
def startFirst (act : Latch) (src : Option LatchJob) (normal : Bool) : List PassRun → List PassRun
  | [] => []
  | p :: r =>
    if p.started then p :: startFirst act src normal r
    else { p with started := true, latch := act, latchSrc := src, checked := p.f.wit && normal } :: r

/-- The oldest waiting pass. -/
def Tile.nextPass (t : Tile) : Option PassRun := t.passes.find? fun p => !p.started

/-- On a partner in a proof run no pass enters the array (R83), and none whose run lies in a bank under clearing (R141). A
pass with the witness enabled that runs unchecked on a degraded tile is counted (R85, R93). -/
def execPassStreamStart (t : Nat) (s : State) : Host.Outcome State Fault Refusal :=
  match (s.tile t).nextPass with
  | none => .next s
  | some p =>
    if s.replaying t ∨ (s.tile t).anyClearing (banksOf p.rows 272) then .next s
    else .next ((s.noteSoft t (p.rows.map fun o => (o, 272))).modTile t fun x =>
      { x with passes := startFirst x.act x.actSrc (x.health == .normal) x.passes,
               skipped := if p.f.wit && x.health == .degraded then incSat x.skipped else x.skipped })

/-! ### Promotion -/

/-- A well element table after promoting running sums, in tile `t`. -/
def Tile.promote (t : Tile) (rnd : Rnd) (w : Nat) (sums : Tab RunSum) : Tile :=
  let (x, a) := promoteWell rnd sums (t.wells.get w) { gens := t.gens }
  { t with wells := t.wells.set w x, gens := a.gens, nonfinite := incSat t.nonfinite a.nonfin }

/-- R104: the forced promotion of the open carry of well `w`. -/
def Tile.forcePromote (t : Tile) (w : Nat) : Tile :=
  match t.carries.find? (fun c => c.well = w) with
  | none => t
  | some c =>
    { t.promote c.rnd w c.sums with carries := t.carries.filter (fun c => c.well ≠ w),
                                    forcedCnt := incSat t.forcedCnt }

/-- The partials of the next check point of pass `p` enter the running sums, and what falls due is
promoted (R101, R103). -/
def Tile.advance (t : Tile) (p : PassRun) (x : List (Option Int)) (es : Nat → Int) (e : CellErr) : Tile :=
  let v := p.point / p.perVec
  let w := p.wellOf v
  let segs := p.segsOf p.point
  let old : Carry := match t.carries.find? (fun c => c.well = w) with
    | some c => c
    | none => ⟨w, p.trans, p.interval, 0, p.f.rnd, []⟩
  let (sums, a) := sumLanes p.latch p.trans p.f.rnd x es segs e (if p.interval ≤ 8 then [] else old.sums) { gens := t.gens }
  let t := { t with gens := a.gens, renorm := incSat t.renorm a.renorm }
  let rest := t.carries.filter fun c => c.well ≠ w
  if p.interval ≤ 8 then { t.promote p.f.rnd w sums with board := t.board.modify w (· - 1) }
  else if p.interval ≤ old.segs + 8 then
    { t.promote p.f.rnd w sums with board := t.board.modify w (· - 1), carries := rest }
  else { t with carries := rest ++ [{ old with segs := old.segs + 8, rnd := p.f.rnd, sums := sums }] }

/-- The first mismatch of a pass (R82): drains of its wells are held, the check point is recorded, and
the case without a replay target or with both partners pending is decided (R87). A queued pass that mismatches before
the first verdict has its own proof run, behind the first (log entry 162). -/
def State.mismatch (s : State) (i : Nat) (p : PassRun) (sm sw : W16) : State :=
  let w := (s.wardOfDie (i / 64)).getD 0
  let s := s.modTile i fun t =>
    { t with cntMismatch := incSat t.cntMismatch, held := (t.held ++ p.wells).dedup,
             proofs := t.proofs ++ [{ pass := p, sig := [(sm, sw)], firstPoint := p.point }],
             last := { valid := true, verdict := 7, point := p.point, sm := sm, sw := sw },
             lastBeat := (s.ward w).num }
  let s := s.proofRecord i 0 0 (s.tile i).last
  if (s.tile (partner i)).health = .fenced then s.verdictMain i { (s.tile i).last with verdict := 3 }
  else if (s.tile (partner i)).proofs ≠ [] then s.verdictBoth i true 0
  else s

/-- R102: the next promotion or check point of the oldest pass in flight; a forced promotion of the pass
comes before its own (R104). `e` is the physical error at this check point, if any. -/
def execPromotion (t : Nat) (e : CellErr) (s : State) : Host.Outcome State Fault Refusal :=
  match (s.tile t).passes with
  | [] => .next s
  | p :: rest =>
    if !p.started ∨ (s.tile t).anyClearing (banksOf p.rows 272) then .next s
    else
      match p.forced with
      | w :: more =>
        .next (s.modTile t fun x => { (x.forcePromote w) with board := x.board.modify w (· - 1),
                                                              passes := { p with forced := more } :: rest })
      | [] =>
        let v := p.point / p.perVec
        let x := s.passVec t p v
        let (sm0, sw0) := checkSums p.latch p.trans x (p.segsOf p.point)
        let sm := mod16 (sm0 + e.main)
        let sw := mod16 (sw0 + e.wit)
        let bad := p.checked && sm != sw
        let p' := { p with point := p.point + 1, mismatched := p.mismatched || bad }
        let s := s.modTile t fun y =>
          { (y.advance p x (s.passExp t p v) e) with
            skipWells := if s.posEmpty t v then (y.skipWells ++ [p.wellOf v]).dedup else y.skipWells,
            passes := if p.points ≤ p.point + 1 then rest else p' :: rest }
        if bad && !p.mismatched then .next (s.mismatch t p sm sw)
        else if p.mismatched then
          .next (s.modTile t fun y => { y with proofs := match y.proofs.reverse with
            | [] => []
            | q :: r => ({ q with sig := if q.sig.length < 4096 then q.sig ++ [(sm, sw)] else q.sig } :: r).reverse })
        else .next s

/-! ### The proof run -/

/-- R83: the partner has streamed its current pass and begins the replay. -/
def execProofRunStart (t : Nat) (s : State) : Host.Outcome State Fault Refusal :=
  .next (s.modTile t fun x => { x with proofs := match x.proofs with
    | [] => []
    | p :: r => { p with started := true } :: r })

/-- sr and the partner's own sum at check point `k` of the replay of `p` on tile `i` (R83, R84). -/
def State.replayPoint (s : State) (i : Nat) (p : PassRun) (errs : List ReplayErr) (k : Nat) : W16 × W16 :=
  let l := match p.latchSrc with
    | some j => loadLatch (s.latchRd i j) j
    | none => {}
  let (sm, sw) := checkSums l p.trans (s.passVec i p (k / p.perVec)) (p.segsOf k)
  let e := (errs.find? fun e => e.point = k).getD { point := k }
  (mod16 (sm + e.main), mod16 (sw + e.wit))

/-- The verdict over the recorded check points (R84): 0 witness, 1 main path, 2 all three differ. -/
def verdictOf (sig : List (W16 × W16)) (sr : List (W16 × W16)) (partnerChecks : Bool) : Nat :=
  let z := sig.zip sr
  let clean := !partnerChecks || sr.all fun r => r.1 = r.2
  if clean && z.all (fun (a, r) => r.1 = a.1) then 0
  else if clean && z.all (fun (a, r) => if a.1 ≠ a.2 then r.1 = a.2 else r.1 = a.1) then 1
  else 2

/-- R84 to R87: the last recorded check point of the replay completes; while the pass still streams, more are recorded
until the buffer is full. The partner swaps back and re-runs its own last LATCH (R83, steps 6 and 7). -/
def execProofVerdict (t : Nat) (errs : List ReplayErr) (s : State) : Host.Outcome State Fault Refusal :=
  let x := s.tile t
  match x.proofs with
  | [] => .next s
  | p :: more =>
    let streaming := more.isEmpty && ((x.passes.head?.map (·.mismatched)).getD false) && decide (p.sig.length < 4096)
    if !p.started || streaming then .next s
    else
      let sr := (List.range p.sig.length).map fun k => s.replayPoint t p.pass errs (p.firstPoint + k)
      let v := verdictOf p.sig sr ((s.tile (partner t)).health == .normal)
      let l := p.last v (sr.headD (0, 0)).1
      let s := s.modTile (partner t) fun y =>
        match y.lastLatch with
        | some j => { y with latching := some j, rerun := true }
        | none => { y with shd := {}, shdSrc := none }
      match v with
      | 0 =>
        let s := s.modTile t fun y => { y.verdict l with cntWitness := incSat y.cntWitness, health := .degraded, proofs := more,
                                                         held := (more.flatMap fun q => q.pass.wells).dedup }
        let s := s.proofRecord t 0 0 l
        .next (match s.wardOfDie (t / 64) with
          | some w => if more.isEmpty then s.checkPc w t else s
          | none => s)
      | 1 => .next (s.verdictMain t l)
      | _ => .next (s.verdictBoth t false l.sr)

/-! ### WZERO -/

def wellsOf (wb wc : Nat) : List Nat := (List.range wc).map fun i => (wb + i) % 512

/-- Well `w` waits for products: promotions are due to it (R110), or a pass in flight has vectors left for it, whose products
an instruction after the pass must meet (R111; log entry 160). -/
def Tile.wellBusy (t : Tile) (w : Nat) : Bool :=
  t.board.get w != 0 ||
  t.passes.any fun p => (List.range p.f.vcnt).any fun v => decide (p.point / p.perVec ≤ v) && p.wellOf v == w

/-- R132: the named wells read cleared from here on; their open carries close without promotion (R104). -/
def State.wzeroBody (s : State) (i : Nat) (f : WzeroF) : Issue :=
  let ws := wellsOf f.wb f.wc
  if ws.any (s.tile i).wellBusy then .stall
  else .go (s.modTile i fun t =>
    { t with wells := ws.foldl (fun a w => Tab.set a w {}) t.wells,
             carries := t.carries.filter fun c => !ws.contains c.well,
             plan := t.plan.filter fun c => !ws.contains c.well,
             skipWells := t.skipWells.filter fun k => !ws.contains k,
             zeroing := t.zeroing ++ [f] })

def execWzero (t : Nat) (f : WzeroF) (s : State) : Host.Outcome State Fault Refusal :=
  .next (s.issue t (.wzero t f) fun _ => s.wzeroBody t f)

def execWzeroComplete (t : Nat) (s : State) : Host.Outcome State Fault Refusal :=
  .next (s.modTile t fun x => { x with zeroing := x.zeroing.tail })

/-! ### DRAIN -/

/-- An element on its way out of a well: its value after the add-in (the poison pattern where poisoned). -/
structure DrainElem where
  v : W32
  u : Nat
deriving DecidableEq, Repr, Inhabited

/-- R112: the add-in. Answers the element, whether it took a draw, and the count of R115. -/
def addIn (rnd : Rnd) (w a : W32) (bad : Bool) (g : W32) : W32 × W32 × Nat :=
  let fin := f32Finite w && f32Finite a
  let s := (f32Val w).add (f32Val a)
  let (u, g) := if fin && rnd == .sr && s.m != 0 then genDraw g else (0, g)
  if a = f32Poison then (f32Poison, g, 0)
  else
    let v : W32 :=
      if f32IsNan a then f32QNan
      else if !fin then (if f32IsInf w && f32IsInf a && w != a then f32QNan else if f32IsInf w then w else a)
      else if s.m = 0 then 0 else match rnd with | .rne => f32Rne s | .sr => f32Sr s u
    (if bad then f32Poison else v, g, if f32Finite v then 0 else 1)

/-- The 256 elements of one well after the add-in, with the draws of their conversion (R108, R112). RND rounds the add-in
whatever the output format, also for B1, whose codes it does not concern (R52; log entry 163). -/
def drainWell (c : Cw) (bfmt : Bool) (x : Well) (add : Option (List W32)) (es : Nat → Int) (a : ArrAcc) :
    List DrainElem × ArrAcc :=
  (List.range 256).foldl (fun (out, a) j =>
    let bad := x.poison.getLsbD j
    let w := x.vals.get j
    let g := genOf a.gens j
    let (v, g, k) := match add with
      | some row => addIn c.rnd w (row.getD j 0) bad g
      | none => (if bad then f32Poison else w, g, 0)
    let (u, g) := if bfmt && c.draws (es j) (some v) then genDraw g else (0, g)
    (out ++ [⟨v, u⟩], { a with gens := setGen a.gens j g, nonfin := a.nonfin + k })) ([], a)

/-- Conversion of one block of elements (R112). -/
def convDrain (c : Cw) (es : Int) (xs : List DrainElem) : Conv :=
  convBlock c es (xs.map (·.u)) (xs.map fun x => some x.v)

/-- The bytes one block of a plate at `off` writes: its scale byte at `sc` and its codes from element
`first` on. -/
def plateBlock (f : Fmt) (off sc first : Nat) (c : Conv) : List (Nat × Byte) :=
  (off + sc, BitVec.ofInt 8 c.scale) ::
  ((packPatterns f c.codes).zipIdx).map fun (b, k) => (off + 16 + first * f.width / 8 + k, b)

/-- Bytes from offset `off` on. -/
def cellsAt (off : Nat) (bs : List Byte) : List (Nat × Byte) := (bs.zipIdx).map fun (b, k) => (off + k, b)

/-- What one drained well, or group of 32 wells, writes. -/
structure DrainOut where
  cells : List (Nat × Byte) := []
  delta : SiteDelta := {}
  bad : List Nat := []
deriving DecidableEq, Repr, Inhabited

def DrainOut.join (a b : DrainOut) : DrainOut :=
  ⟨a.cells ++ b.cells, a.delta.add b.delta, a.bad ++ b.bad⟩

/-- Output of well `i` as FP32 or BF16 row at `off` (R134). -/
def drainRow (bf16 : Bool) (off : Nat) (xs : List DrainElem) : DrainOut :=
  { cells := cellsAt off (xs.flatMap fun x => if bf16 then toLE 2 (f32ToBf16 x.v).toNat else toLE 4 x.v.toNat),
    bad := (xs.zipIdx).filterMap fun (x, k) => if x.v = f32Poison then some ((off + (if bf16 then 2 else 4) * k) / 65536) else none }

/-- Output of one well in line blocks: half `h` of the plate at `off` (R134). -/
def drainLine (c : Cw) (es : Nat → Int) (off h : Nat) (xs : List DrainElem) : DrainOut :=
  (List.range 8).foldl (fun o s =>
    let v := convDrain c (es s) ((xs.drop (32 * s)).take 32)
    o.join { cells := plateBlock c.fmt off (8 * h + s) (256 * h + 32 * s) v, delta := v.delta,
             bad := if v.poison then [(off + 8 * h + s) / 65536, (off + 16 + (256 * h + 32 * s) * c.fmt.width / 8) / 65536] else [] }) {}

/-- Output of 32 wells as square plate `t` of the group, at `off` (R134). -/
def drainSquare (c : Cw) (es : Int) (off t : Nat) (rows : List (List DrainElem)) : DrainOut :=
  let v := convDrain c es (rows.flatMap fun r => (r.drop (32 * t)).take 32)
  { cells := plateBlock c.fmt off 0 0 v ++ cellsAt (off + 1) (List.replicate 15 0), delta := v.delta,
    bad := if v.poison then [off / 65536, (off + 16) / 65536] else [] }

/-- The views and byte ranges of a DRAIN, or the lowest offending offset (R124, R134). -/
structure DrainOffs where
  dst : List Nat
  add : List Nat
  sup : Nat
deriving DecidableEq, Repr, Inhabited

def State.drainOffs (s : State) (i : Nat) (f : DrainF) : Except Nat DrainOffs :=
  let c := cwOf f.cw
  let vs := viewsOf (.drain i f)
  let walk (v : Option (Nat × Nat × Nat × Nat)) : Except Nat (List Nat) :=
    match v with
    | some (a, slot, unit, n) => s.walkView i a slot unit n
    | none => .ok []
  let d := walk vs.head?
  let a := walk (vs.drop 1).head?
  let base := ((s.tile i).areg f.sa).toNat
  let sup := if f.ofmt = 2 ∧ c.supplied then rangeBad base (if c.square then f.wc / 32 * 8 else 8 * f.wc) else none
  match d, a, sup with
  | .ok d, .ok a, none => .ok ⟨d, a, base⟩
  | d, a, sup =>
    let e (x : Except Nat (List Nat)) : List Nat := match x with | .error o => [o] | .ok _ => []
    .error ((e d ++ e a ++ sup.toList).foldl min (2 ^ 48))

/-- A finite value that nothing constrains. -/
def freeFinite (n : Nat) : W32 := if f32Finite (Config.freeW32 n) then Config.freeW32 n else 0

/-- The drain's conversion of all its wells: what lands, and the generators after it. The results of a discarded well
(R186) are free values. -/
def State.drainAll (s : State) (i : Nat) (f : DrainF) (o : DrainOffs) (t : Tile) : DrainOut × ArrAcc :=
  let c := cwOf f.cw
  let b := f.ofmt = 2
  let sup (k : Nat) : Int := (s.rdStore i (o.sup + k)).toInt
  let (rows, a) := (List.range f.wc).foldl (fun (rows, a) k =>
    let add := if f.aie then
        let off := o.add.getD k 0
        some ((List.range 256).map fun j =>
          if s.storeBad i (off + (if f.afmt then 2 else 4) * j) (if f.afmt then 2 else 4) then f32Poison
          else if f.afmt then bf16ToF32 (BitVec.ofNat 16 (leNat (s.rdStores i (off + 2 * j) 2)))
          else BitVec.ofNat 32 (leNat (s.rdStores i (off + 4 * j) 4)))
      else none
    let es (j : Nat) : Int := if c.supplied then (if c.square then sup (k / 32 * 8 + j / 32) else sup (8 * k + j / 32)) else 0
    if t.skipWells.contains ((f.wb + k) % 512) then (rows ++ [(List.range 256).map fun j => ⟨freeFinite (s.fresh + 256 * k + j), 0⟩], a)
    else
      let (r, a) := drainWell c b (t.wells.get ((f.wb + k) % 512)) add es a
      (rows ++ [r], a)) (([] : List (List DrainElem)), { gens := t.gens })
  let h := if f.half then 1 else 0
  let out :=
    if f.ofmt = 0 ∨ f.ofmt = 1 then
      (rows.zipIdx).foldl (fun x (r, k) => x.join (drainRow (f.ofmt == 1) (o.dst.getD k 0) r)) {}
    else if c.square then
      (List.range (f.wc / 32 * 8)).foldl (fun x p =>
        x.join (drainSquare c (if c.supplied then sup p else 0) (o.dst.getD p 0) (p % 8) ((rows.drop (p / 8 * 32)).take 32))) {}
    else
      (rows.zipIdx).foldl (fun x (r, k) =>
        x.join (drainLine c (fun g => if c.supplied then sup (8 * k + g) else 0) (o.dst.getD ((k + h) / 2) 0) ((k + h) % 2) r)) {}
  (out, a)

/-- Byte ranges of the add-in rows, where their view is not the destination's, and of the supplied exponents. -/
def drainReads (f : DrainF) (o : DrainOffs) : List (Nat × Nat) :=
  let c := cwOf f.cw
  let inPlace := f.aie && o.add = o.dst && ((f.ofmt = 0 && !f.afmt) || (f.ofmt = 1 && f.afmt))
  (if f.aie && !inPlace then o.add.map fun a => (a, if f.afmt then 512 else 1024) else []) ++
  (if f.ofmt = 2 && c.supplied then [(o.sup, if c.square then f.wc / 32 * 8 else 8 * f.wc)] else [])

/-- R136: a destination byte in the overlap holds a free value, the `n`-th and on. -/
def blurCells (n : Nat) (rs : List (Nat × Nat)) (cells : List (Nat × Byte)) : List (Nat × Byte) :=
  (cells.zipIdx).map fun ((o, b), k) => (o, if rs.any fun (a, len) => decide (a ≤ o) && decide (o < a + len) then Config.freeByte (n + k) else b)

/-- R135: stalls on the scoreboard, on held wells and on a busy drain unit; forces open carries (R104). -/
def State.drainBody (s : State) (i : Nat) (f : DrainF) : Issue :=
  let t := s.tile i
  let ws := wellsOf f.wb f.wc
  if ws.any (fun w => t.wellBusy w || t.held.contains w) || t.draining.isSome then .stall
  else
    match s.drainOffs i f with
    | .error o => .exc 0x10 (sat32 o)
    | .ok o =>
      let t := ws.foldl (fun t w => { t.forcePromote w with plan := t.plan.filter fun c => c.well ≠ w }) t
      let (out, a) := s.drainAll i f o t
      let rs := drainReads f o
      let land : Landing := { cells := blurCells (s.fresh + 256 * f.wc) rs out.cells, site := if f.ofmt = 2 then some (cwOf f.cw).site else none,
                              delta := out.delta, poisonAt := out.bad.dedup,
                              reads := banksOf o.add (if f.afmt then 512 else 1024) ++ (rs.flatMap (fun (e : Nat × Nat) => [e.1 / 65536, (e.1 + e.2 - 1) / 65536])) }
      let s := if rs = [] ∧ t.skipWells = [] then s else { s with fresh := s.fresh + out.cells.length + 256 * f.wc }
      let s := if f.aie then s.noteSoft i (o.add.map fun a => (a, if f.afmt then 512 else 1024)) else s
      .go (s.modTile i fun _ => { t with gens := a.gens, nonfinite := incSat t.nonfinite a.nonfin,
                                         draining := some (f, land) })

def execDrain (t : Nat) (f : DrainF) (s : State) : Host.Outcome State Fault Refusal :=
  .next (s.issue t (.drain t f) fun _ => s.drainBody t f)

/-- Bytes of a landing reach the store of tile `i`. -/
def State.land (s : State) (i : Nat) (l : Landing) : State := s.wrStoreCells i l.cells

/-- R135: the last output byte lands, after the clear of a bank it uses (R141); its conversions count (R57), its poison is
noted (R481). -/
def execDrainComplete (t : Nat) (s : State) : Host.Outcome State Fault Refusal :=
  match (s.tile t).draining with
  | none => .next s
  | some (_, l) =>
    if (s.tile t).anyClearing ((l.cells.map fun c => c.1 / 65536).dedup ++ l.reads) then .next s
    else
      let s := (s.land t l).modTile t fun x => { x with draining := none, drained := true }
      let s := match l.site with
        | some k => s.addSite (t / 64) k l.delta
        | none => s
      .next (forEach l.poisonAt s fun s b => s.notePoison t b 0 (t % 64))

end Sys2Proof.Machine
end

