-- ==== Sys2Proof/Machine/Dispatch.lean ====
section
/-! DEFINITION. One arm for each command: the one direct call of its meaning. -/

namespace Sys2Proof.Machine

def exec (i : Instr) (s : State) : Host.Outcome State Fault Refusal :=
  match i with
  | .latch t f => Sys2Proof.Machine.execLatch t f s
  | .latchComplete t => Sys2Proof.Machine.execLatchComplete t s
  | .swap t => Sys2Proof.Machine.execSwap t s
  | .pass t f => Sys2Proof.Machine.execPass t f s
  | .passt t f => Sys2Proof.Machine.execPasst t f s
  | .passStreamStart t => Sys2Proof.Machine.execPassStreamStart t s
  | .promotion t e => Sys2Proof.Machine.execPromotion t e s
  | .proofRunStart t => Sys2Proof.Machine.execProofRunStart t s
  | .proofVerdict t errs => Sys2Proof.Machine.execProofVerdict t errs s
  | .wzero t f => Sys2Proof.Machine.execWzero t f s
  | .wzeroComplete t => Sys2Proof.Machine.execWzeroComplete t s
  | .drain t f => Sys2Proof.Machine.execDrain t f s
  | .drainComplete t => Sys2Proof.Machine.execDrainComplete t s
  | .chain t f => Sys2Proof.Machine.execChain t f s
  | .chainProgramStart q => Sys2Proof.Machine.execChainProgramStart q s
  | .chainRow q served chk => Sys2Proof.Machine.execChainRow q served chk s
  | .chainProgramComplete q => Sys2Proof.Machine.execChainProgramComplete q s
  | .kick t f => Sys2Proof.Machine.execKick t f s
  | .tag t f => Sys2Proof.Machine.execTag t f s
  | .tagClearComplete t bank => Sys2Proof.Machine.execTagClearComplete t bank s
  | .stat t f => Sys2Proof.Machine.execStat t f s
  | .statComplete t => Sys2Proof.Machine.execStatComplete t s
  | .beat t => Sys2Proof.Machine.execBeat t s
  | .fence t cls => Sys2Proof.Machine.execFence t cls s
  | .sig t f => Sys2Proof.Machine.execSig t f s
  | .flagArrive src tgt => Sys2Proof.Machine.execFlagArrive src tgt s
  | .waitf t f => Sys2Proof.Machine.execWaitf t f s
  | .waitfWake t => Sys2Proof.Machine.execWaitfWake t s
  | .loop t f => Sys2Proof.Machine.execLoop t f s
  | .endl t => Sys2Proof.Machine.execEndl t s
  | .jmp t f => Sys2Proof.Machine.execJmp t f s
  | .halt t => Sys2Proof.Machine.execHalt t s
  | .seta t f => Sys2Proof.Machine.execSeta t f s
  | .adda t f => Sys2Proof.Machine.execAdda t f s
  | .setk t f => Sys2Proof.Machine.execSetk t f s
  | .beatStepPoint w => Sys2Proof.Machine.execBeatStepPoint w s
  | .masterDecide w => Sys2Proof.Machine.execMasterDecide w s
  | .verdictApply w late => Sys2Proof.Machine.execVerdictApply w late s
  | .markerLost w => Sys2Proof.Machine.execMarkerLost w s
  | .beatBoundary w ns => Sys2Proof.Machine.execBeatBoundary w ns s
  | .dmaStart r c a => Sys2Proof.Machine.execDmaStart r c a s
  | .dmaDescriptorFetch c seen => Sys2Proof.Machine.execDmaDescriptorFetch c seen s
  | .dmaDescriptorComplete c seen reports => Sys2Proof.Machine.execDmaDescriptorComplete c seen reports s
  | .dmaAccessError c e => Sys2Proof.Machine.execDmaAccessError c e s
  | .squashComplete c => Sys2Proof.Machine.execSquashComplete c s
  | .develop d seen reports => Sys2Proof.Machine.execDevelop d seen reports s
  | .quant d x => Sys2Proof.Machine.execQuant d x s
  | .move d x => Sys2Proof.Machine.execMove d x s
  | .encode d x => Sys2Proof.Machine.execEncode d x s
  | .devOperationComplete d => Sys2Proof.Machine.execDevOperationComplete d s
  | .peerTimeout u x => Sys2Proof.Machine.execPeerTimeout u x s
  | .hostCompletionTimeout u x => Sys2Proof.Machine.execHostCompletionTimeout u x s
  | .statSnapRequest r w a => Sys2Proof.Machine.execStatSnapRequest r w a s
  | .statSnapshotComplete w => Sys2Proof.Machine.execStatSnapshotComplete w s
  | .wardEnable src dies port vf => Sys2Proof.Machine.execWardEnable src dies port vf s
  | .wardDisable src => Sys2Proof.Machine.execWardDisable src s
  | .wardReset src => Sys2Proof.Machine.execWardReset src s
  | .wardScrubComplete w => Sys2Proof.Machine.execWardScrubComplete w s
  | .jobStart src program len prog seen => Sys2Proof.Machine.execJobStart src program len prog seen s
  | .jobEnd src => Sys2Proof.Machine.execJobEnd src s
  | .map src va pa count size rights kslot => Sys2Proof.Machine.execMap src va pa count size rights kslot s
  | .unmap src va count size => Sys2Proof.Machine.execUnmap src va count size s
  | .register src c kslot rslot rank mats image negVa negLen => Sys2Proof.Machine.execRegister src c kslot rslot rank mats image negVa negLen s
  | .withdraw src c => Sys2Proof.Machine.execWithdraw src c s
  | .claim src c count list pairs => Sys2Proof.Machine.execClaim src c count list pairs s
  | .unclaim src c count list pairs => Sys2Proof.Machine.execUnclaim src c count list pairs s
  | .submit src idx c prompt maxtok cookie out job bytes => Sys2Proof.Machine.execSubmit src idx c prompt maxtok cookie out job bytes s
  | .cancel src idx => Sys2Proof.Machine.execCancel src idx s
  | .prepare src target source length => Sys2Proof.Machine.execPrepare src target source length s
  | .switch src target wait => Sys2Proof.Machine.execSwitch src target wait s
  | .distribute src target package length alt m => Sys2Proof.Machine.execDistribute src target package length alt m s
  | .shardArrive w shard bytes tagOk => Sys2Proof.Machine.execShardArrive w shard bytes tagOk s
  | .endOfPass w => Sys2Proof.Machine.execEndOfPass w s
  | .distributeTimeout w => Sys2Proof.Machine.execDistributeTimeout w s
  | .trainStart src c mode record seen => Sys2Proof.Machine.execTrainStart src c mode record seen s
  | .trainStop src c => Sys2Proof.Machine.execTrainStop src c s
  | .rollback src c => Sys2Proof.Machine.execRollback src c s
  | .updStep r d a => Sys2Proof.Machine.execUpdStep r d a s
  | .gradientReductionComplete w c => Sys2Proof.Machine.execGradientReductionComplete w c s
  | .passOneComplete w x => Sys2Proof.Machine.execPassOneComplete w x s
  | .vote w c v => Sys2Proof.Machine.execVote w c v s
  | .passTwoComplete w c => Sys2Proof.Machine.execPassTwoComplete w c s
  | .digestExchange w c x => Sys2Proof.Machine.execDigestExchange w c x s
  | .rehashComplete w c x => Sys2Proof.Machine.execRehashComplete w c x s
  | .checkpointCopyComplete w c => Sys2Proof.Machine.execCheckpointCopyComplete w c s
  | .rollbackRestoreComplete w c => Sys2Proof.Machine.execRollbackRestoreComplete w c s
  | .peerCheckpointArrive w c d fromReplica bytes => Sys2Proof.Machine.execPeerCheckpointArrive w c d fromReplica bytes s
  | .armTimeout w c => Sys2Proof.Machine.execArmTimeout w c s
  | .linkTrained l x => Sys2Proof.Machine.execLinkTrained l x s
  | .linkTrainRetry l => Sys2Proof.Machine.execLinkTrainRetry l s
  | .laneAlignmentLoss l => Sys2Proof.Machine.execLaneAlignmentLoss l s
  | .linkRetrainComplete l x => Sys2Proof.Machine.execLinkRetrainComplete l x s
  | .flitData l f chk hdr payload => Sys2Proof.Machine.execFlitData l f chk hdr payload s
  | .flitReadReq l f chk hdr => Sys2Proof.Machine.execFlitReadReq l f chk hdr s
  | .flitResp l f chk status payload => Sys2Proof.Machine.execFlitResp l f chk status payload s
  | .flitReduce l f chk hdr copy payload => Sys2Proof.Machine.execFlitReduce l f chk hdr copy payload s
  | .flitMcast l f chk hdr payload => Sys2Proof.Machine.execFlitMcast l f chk hdr payload s
  | .flitIdle l f chk => Sys2Proof.Machine.execFlitIdle l f chk s
  | .sessionRekey l atSeq => Sys2Proof.Machine.execSessionRekey l atSeq s
  | .markerReady w src m => Sys2Proof.Machine.execMarkerReady w src m s
  | .markerBoundary w m => Sys2Proof.Machine.execMarkerBoundary w m s
  | .markerHold w m => Sys2Proof.Machine.execMarkerHold w m s
  | .markerStart w m => Sys2Proof.Machine.execMarkerStart w m s
  | .relayedCommand origin jseq cmd => Sys2Proof.Machine.execRelayedCommand origin jseq cmd s
  | .relayCompletion jseq status detail => Sys2Proof.Machine.execRelayCompletion jseq status detail s
  | .relayTimeout jseq => Sys2Proof.Machine.execRelayTimeout jseq s
  | .takeover src m sb => Sys2Proof.Machine.execTakeover src m sb s
  | .tko m sb tg verdict => Sys2Proof.Machine.execTko m sb tg verdict s
  | .tkoAck addr tg => Sys2Proof.Machine.execTkoAck addr tg s
  | .tkoDone m tg => Sys2Proof.Machine.execTkoDone m tg s
  | .tkoAckTimeout tg => Sys2Proof.Machine.execTkoAckTimeout tg s
  | .lossTimeout m => Sys2Proof.Machine.execLossTimeout m s
  | .rollcallSend => Sys2Proof.Machine.execRollcallSend s
  | .rollcallRecord r => Sys2Proof.Machine.execRollcallRecord r s
  | .rollcallClear src => Sys2Proof.Machine.execRollcallClear src s
  | .linkRetrain src die link => Sys2Proof.Machine.execLinkRetrain src die link s
  | .stopMarker sender ev => Sys2Proof.Machine.execStopMarker sender ev s
  | .journalRead src first count dst => Sys2Proof.Machine.execJournalRead src first count dst s
  | .illegalCommand src opc bytes => Sys2Proof.Machine.execIllegalCommand src opc bytes s
  | .sqTailWrite r ring v => Sys2Proof.Machine.execSqTailWrite r ring v s
  | .cqHeadWrite r ring v => Sys2Proof.Machine.execCqHeadWrite r ring v s
  | .ringCtlWrite r ring v => Sys2Proof.Machine.execRingCtlWrite r ring v s
  | .msixUnmask r vec => Sys2Proof.Machine.execMsixUnmask r vec s
  | .vfFlr port vf => Sys2Proof.Machine.execVfFlr port vf s
  | .flrDrainTimeout port vf drained => Sys2Proof.Machine.execFlrDrainTimeout port vf drained s
  | .pf0Flr port => Sys2Proof.Machine.execPf0Flr port s
  | .perst port => Sys2Proof.Machine.execPerst port s
  | .accountingSecond railMj idleMj => Sys2Proof.Machine.execAccountingSecond railMj idleMj s
  | .seqPeekIdx r w v => Sys2Proof.Machine.execSeqPeekIdx r w v s
  | .updPeekCtx r d v => Sys2Proof.Machine.execUpdPeekCtx r d v s
  | .secSlotPeekIdx r v => Sys2Proof.Machine.execSecSlotPeekIdx r v s
  | .safRingIdx r v => Sys2Proof.Machine.execSafRingIdx r v s
  | .keyAlloc src c => Sys2Proof.Machine.execKeyAlloc src c s
  | .keyRetire src slot => Sys2Proof.Machine.execKeyRetire src slot s
  | .keyRetireComplete slot => Sys2Proof.Machine.execKeyRetireComplete slot s
  | .keyShare src slot c => Sys2Proof.Machine.execKeyShare src slot c s
  | .attest src c outlen request out keyOk nonce => Sys2Proof.Machine.execAttest src c outlen request out keyOk nonce s
  | .ownerSet src record length sigOk secver ownerId => Sys2Proof.Machine.execOwnerSet src record length sigOk secver ownerId s
  | .certRead src out outlen => Sys2Proof.Machine.execCertRead src out outlen s
  | .ideKey src port stream request wrapOk => Sys2Proof.Machine.execIdeKey src port stream request wrapOk s
  | .quarantineExpire slot => Sys2Proof.Machine.execQuarantineExpire slot s
  | .heartbeat d b => Sys2Proof.Machine.execHeartbeat d b s
  | .watchdogExpire d => Sys2Proof.Machine.execWatchdogExpire d s
  | .patrolCycle w => Sys2Proof.Machine.execPatrolCycle w s
  | .patrolRead w rep => Sys2Proof.Machine.execPatrolRead w rep s
  | .safelightSend => Sys2Proof.Machine.execSafelightSend s
  | .collectorAck devid ack => Sys2Proof.Machine.execCollectorAck devid ack s
  | .resendTimer seq => Sys2Proof.Machine.execResendTimer seq s
  | .aliveExpire => Sys2Proof.Machine.execAliveExpire s
  | .pcsSyncLoss => Sys2Proof.Machine.execPcsSyncLoss s
  | .pcsSync => Sys2Proof.Machine.execPcsSync s
  | .entdaa da => Sys2Proof.Machine.execEntdaa da s
  | .setEndpointId eid => Sys2Proof.Machine.execSetEndpointId eid s
  | .getEndpointId => Sys2Proof.Machine.execGetEndpointId s
  | .getMessageTypeSupport => Sys2Proof.Machine.execGetMessageTypeSupport s
  | .pldmSensorRead sensor => Sys2Proof.Machine.execPldmSensorRead sensor s
  | .readCompactRecords first count => Sys2Proof.Machine.execReadCompactRecords first count s
  | .readStatusRegisters => Sys2Proof.Machine.execReadStatusRegisters s
  | .powerOn b => Sys2Proof.Machine.execPowerOn b s
  | .bootFailResend => Sys2Proof.Machine.execBootFailResend s
  | .resetNAssert => Sys2Proof.Machine.execResetNAssert s
  | .resetNRelease b => Sys2Proof.Machine.execResetNRelease b s
  | .flashWrite r a img other => Sys2Proof.Machine.execFlashWrite r a img other s
  | .flashWriteComplete compareOk => Sys2Proof.Machine.execFlashWriteComplete compareOk s
  | .supplySample vin10mV => Sys2Proof.Machine.execSupplySample vin10mV s
  | .powerLimitTick avg10ms avg1s dies hundred => Sys2Proof.Machine.execPowerLimitTick avg10ms avg1s dies hundred s
  | .thermalTick dies inlet outlet ten => Sys2Proof.Machine.execThermalTick dies inlet outlet ten s
  | .stopTimerExpire => Sys2Proof.Machine.execStopTimerExpire s
  | .overvoltageTimeout => Sys2Proof.Machine.execOvervoltageTimeout s
  | .dieOvertemp d => Sys2Proof.Machine.execDieOvertemp d s
  | .outletOvertemp => Sys2Proof.Machine.execOutletOvertemp s
  | .railSwitchOff => Sys2Proof.Machine.execRailSwitchOff s
  | .autoReset b => Sys2Proof.Machine.execAutoReset b s
  | .registerWrite r a => Sys2Proof.Machine.execRegisterWrite r a s
  | .registerReadRefused r off => Sys2Proof.Machine.execRegisterReadRefused r off s
  | .pcieLinkDown port => Sys2Proof.Machine.execPcieLinkDown port s
  | .pcieLinkUp port rate width => Sys2Proof.Machine.execPcieLinkUp port rate width s
  | .perstRelease port => Sys2Proof.Machine.execPerstRelease port s
  | .busMasterEnableWrite r on => Sys2Proof.Machine.execBusMasterEnableWrite r on s
  | .arpRequest targetMatches => Sys2Proof.Machine.execArpRequest targetMatches s
  | .neighbourSolicitation targetMatches => Sys2Proof.Machine.execNeighbourSolicitation targetMatches s
  | .icmpEcho ident seq data => Sys2Proof.Machine.execIcmpEcho ident seq data s
  | .recordEventEnable on => Sys2Proof.Machine.execRecordEventEnable on s
  | .attestationSigned => Sys2Proof.Machine.execAttestationSigned s
  | .ownerRecordWritten ok0 ok1 => Sys2Proof.Machine.execOwnerRecordWritten ok0 ok1 s
  | .spillReadComplete w seqIdx => Sys2Proof.Machine.execSpillReadComplete w seqIdx s
  | .shardRequest w shard fromAddr => Sys2Proof.Machine.execShardRequest w shard fromAddr s
  | .controllerMemoryError d => Sys2Proof.Machine.execControllerMemoryError d s

end Sys2Proof.Machine
end

