-- ==== Sys2Proof/WellFormed.lean ====
section
/-! DEFINITION. When a command is well formed: every operand lies in the range that the spec gives its field. -/

namespace Sys2Proof
open Machine

/-! ### Operands -/

def tileOk (t : Nat) : Bool := decide (t < 512)
def quadOk (q : Nat) : Bool := decide (q < 128)
def dieOk (d : Nat) : Bool := decide (d < 8)
def wardOk (w : Nat) : Bool := decide (w < 8)
def linkOk (l : Nat) : Bool := decide (l < 48)
def portOk (p : Nat) : Bool := decide (p < 2)
def vfOk (v : Nat) : Bool := decide (1 ≤ v) && decide (v ≤ 8)
def ctxOk (c : Nat) : Bool := decide (c < 65536)
def slotOk (k : Nat) : Bool := decide (k < 16384)
def identOk (m : Nat) : Bool := decide (m < 64)
/-- A link address: an identity or a standby number (R383). -/
def addrOk (a : Nat) : Bool := decide (a < 68)
/-- Die channels 0 to 31 of every die; host-port channels 32 to 39 of C0 and C4 (R226). -/
def chanOk (c : Nat) : Bool :=
  decide (c / 64 < 8) && decide (c % 64 < (if c / 64 = 0 || c / 64 = 4 then 40 else 32))
def aregOk (a : Nat) : Bool := decide (a < 32)
def kregOk (k : Nat) : Bool := decide (k < 8)
def viewOk (v : Nat) : Bool := decide (v < 4096)
def wellOk (b : Nat) : Bool := decide (b < 512)
def wcOk (c : Nat) : Bool := decide (1 ≤ c) && decide (c ≤ 512)
def pcOk (k : Nat) : Bool := decide (k < 8192)

/-- The requester is PF0 or a VF of a port. -/
def Req.ok (r : Req) : Bool := portOk r.port && decide (r.func < 9)
/-- The header's fields fit their bytes (R424). -/
def Src.ok (x : Src) : Bool :=
  portOk x.port && decide (x.func < 9) && decide (x.ring < 16) && decide (x.ward < 256) && decide (x.dest < 256)
/-- A bus access of 4 or 8 bytes, naturally aligned, in the register space (R35, R31). -/
def RegW.ok (a : RegW) : Bool := (a.size == 4 || a.size == 8) && a.off % a.size == 0 && decide (a.off < 2 ^ 29)

/-- Keys strictly rising: a table that an operand gives is in its canonical order. -/
def Tab.rising {β : Type} (t : Tab β) : Bool := (t.zip (t.drop 1)).all fun e => decide (e.1.1 < e.2.1)
/-- Rising, and every key below `n`. -/
def Tab.below {β : Type} (t : Tab β) (n : Nat) : Bool := t.rising && t.all fun e => decide (e.1 < n)

/-! ### Tile instructions (R126 to R155) -/

def LatchF.ok (f : LatchF) : Bool :=
  aregOk f.as && viewOk f.vs && decide (1 ≤ f.rows) && decide (f.rows ≤ 256) && decide (1 ≤ f.cols) && decide (f.cols ≤ 256) &&
  !(f.blk && (f.fmt == .b1 || f.fmt == .b2)) && !(f.trd && !f.blk) && !(f.half && f.blk)
def PassF.ok (f : PassF) : Bool :=
  aregOk f.as && viewOk f.vs && decide (1 ≤ f.vcnt) && decide (f.vcnt ≤ 7455) && wellOk f.wb && wcOk f.wc && decide (f.pi < 7) &&
  decide (f.seed < 8) && (decide (f.pi ≤ 3) || decide (f.vcnt ≤ f.wc))
def WzeroF.ok (f : WzeroF) : Bool := wellOk f.wb && wcOk f.wc
def DrainF.ok (f : DrainF) : Bool :=
  let c := cwOf f.cw
  wellOk f.wb && wcOk f.wc && decide (f.ofmt < 3) && aregOk f.ad && viewOk f.vd && aregOk f.aa && viewOk f.va && aregOk f.sa &&
  (f.ofmt == 2 || f.cw &&& 0xFBFF == 0) && (f.aie || (!f.afmt && f.aa == 0 && f.va == 0)) &&
  ((f.ofmt == 2 && c.supplied) || f.sa == 0) && (!f.half || (f.ofmt == 2 && !c.square)) && (f.ofmt != 2 || c.legal) &&
  (!(f.ofmt == 2 && c.square) || f.wc % 32 == 0)
def ChainF.ok (f : ChainF) : Bool := aregOk f.ad && decide (1 ≤ f.rows) && decide (f.rows ≤ 8192)
def KickF.ok (f : KickF) : Bool :=
  aregOk f.ad && decide (f.ch < (if f.hp then 8 else 32)) && decide (f.ki < 8) && decide (f.cnt < 65536) &&
  (if f.ks then f.cnt == 0 else f.ki == 0 && f.cnt != 0)
def TagF.ok (f : TagF) : Bool := aregOk f.ac && f.bmask != 0
def StatF.ok (f : StatF) : Bool :=
  aregOk f.ad && decide (f.site < 1024) && decide (1 ≤ f.ns) && decide (f.ns ≤ 64) && decide (f.site + f.ns ≤ 1024)
def SigF.ok (f : SigF) : Bool := decide (f.tgt < 512) && f.fmask != 0
def WaitfF.ok (f : WaitfF) : Bool := f.fmask != 0
def LoopF.ok (f : LoopF) : Bool :=
  kregOk f.k && decide (f.count < 2 ^ 24) && pcOk f.fin && (!f.src || f.count == 0)
def JmpF.ok (f : JmpF) : Bool :=
  decide (f.cond < 6) && kregOk f.k && decide (f.pop < 5) && pcOk f.target &&
  (f.cond == 1 || f.cond == 2 || f.cond == 5 || f.k == 0) && ((f.cond == 3 || f.cond == 4) == (f.fmask != 0))
def SetaF.ok (f : SetaF) : Bool :=
  aregOk f.ad && decide (f.mode < 3) && aregOk f.as && (if f.mode = 0 then f.as == 0 && f.imm == 0 else f.ext == 0)
def AddaF.ok (f : AddaF) : Bool :=
  aregOk f.ad && decide (f.mode < 3) && aregOk f.as && aregOk f.at' && kregOk f.k &&
  (if f.mode = 2 then f.at' == 0 else f.k == 0 && f.imm == 0)
def SetkF.ok (f : SetkF) : Bool :=
  kregOk f.kd && decide (f.mode < 4) && kregOk f.ks && aregOk f.as && (f.mode == 1 || f.ks == 0) && (decide (2 ≤ f.mode) || f.as == 0) &&
  (decide (f.mode < 2) || f.imm == 0)

/-! ### Links and boot -/

/-- The header's fields fit their bits (R371). -/
def Flit.ok (f : Flit) : Bool :=
  decide (f.type < 16) && decide (f.vc < 4) && decide (f.dst < 128) && decide (f.src < 128) && decide (f.ward < 8) && decide (f.len ≤ 224) &&
  ctxOk f.ctx && decide (f.seq < 4096) && decide (f.ack < 4096) && decide (f.crvc < 4) && decide (f.crcnt < 32) && decide (f.tree < 16)
def Marker.ok (m : Marker) : Bool :=
  wardOk m.jobward && identOk m.master && decide (m.cmds.length ≤ 24) && m.cmds.all fun e => identOk e.1 && decide (e.2 < 2 ^ 58)
/-- At most 4 MiB, by rising offset (R507). -/
def ImgCopy.ok (c : ImgCopy) : Bool := match c.bytes with
  | some b => b.below (2 ^ 22)
  | none => true
/-- A boot names at most one of 32 stacks as failing. -/
def BootIn.ok (b : BootIn) : Bool :=
  b.cfg.1.ok && b.cfg.2.ok && b.fw.1.ok && b.fw.2.ok &&
  (match b.badStack with | none => true | some k => decide (k < 32))
/-- A latency fits its 16 bits, an address its 7 and a link number its 6 (R402). -/
def TrainedLink.ok (x : TrainedLink) : Bool := decide (x.lat < 65536) && decide (x.peerAddr < 128) && decide (x.peerLink < 64)
/-- Eight entries at most, one for a ward (R399). -/
def RollRec.ok (r : RollRec) : Bool := addrOk r.addr && r.jobs.below 8 && decide (r.tg < 2 ^ 32)
/-- A vote of one of the two passes, with counts per group (R341, R350). -/
def VoteIn.ok (v : VoteIn) : Bool := (v.pass == 1 || v.pass == 2) && decide (v.replica < 64) && addrOk v.addr && v.steer.below 16
/-- A part of pass one names a die of a module (R341). -/
def PartIn.ok (p : PartIn) : Bool := addrOk p.addr && dieOk p.die && p.steer.below 16
/-- Dies of a digest by link address and die (R352). -/
def digestDiesOk (l : List (Nat × BitVec 256)) : Bool := l.all fun e => addrOk (e.1 / 8)
def DigestIn.ok (x : DigestIn) : Bool := decide (x.replica < 64) && digestDiesOk x.dies
def Upset.ok (u : Upset) : Bool := tileOk u.tile
def Waiter.ok : Waiter → Bool
  | .chan c => chanOk c
  | .dev d => dieOk d
  | .reader w => wardOk w
def AccErr.ok : AccErr → Bool
  | .metaPoison _ k => decide (k < 3)
  | _ => true

/-! ### Host commands (R424 to R426, R446) -/

/-- Words of the instruction store by their index. -/
def TileProg.ok (p : TileProg) : Bool := p.words.below 8192
def JobProg.ok (p : JobProg) : Bool := (p.tiles.all fun t => t.ok) && p.peerWards.below 64 && p.peerWards.all fun e => wardOk e.2

/-- Arguments fit their sizes. -/
def HostOp.ok : HostOp → Bool
  | .wardEnable dies port vf => decide (dies < 256) && decide (port < 256) && decide (vf < 256)
  | .wardDisable | .wardReset | .jobEnd | .rollcallClear => true
  | .jobStart _ len prog => decide (len < 2 ^ 32) && prog.ok
  | .map _ _ count size rights kslot => decide (count < 2 ^ 32) && decide (size < 256) && decide (rights < 256) && ctxOk kslot
  | .unmap _ count size => decide (count < 2 ^ 32) && decide (size < 256)
  | .register c kslot rslot rank mats image _ _ =>
    ctxOk c && ctxOk kslot && decide (rslot < 256) && decide (rank < 65536) && decide (mats < 65536) && decide (image < 2 ^ 32)
  | .withdraw c | .trainStop c | .rollback c | .keyAlloc c => ctxOk c
  | .claim c count _ _ | .unclaim c count _ _ => ctxOk c && decide (count < 65536)
  | .submit idx c prompt maxtok _ _ _ _ => decide (idx < 2 ^ 32) && ctxOk c && decide (prompt < 2 ^ 32) && decide (maxtok < 2 ^ 32)
  | .cancel idx => decide (idx < 2 ^ 32)
  | .prepare target _ _ | .distribute target _ _ _ _ => ctxOk target
  | .switch target wait => ctxOk target && decide (wait < 256)
  | .trainStart c mode _ => ctxOk c && decide (mode < 256)
  | .takeover m s => decide (m < 256) && decide (s < 256)
  | .linkRetrain die link => decide (die < 256) && decide (link < 256)
  | .journalRead _ count _ => decide (count < 2 ^ 32)
  | .keyRetire slot => ctxOk slot
  | .keyShare slot c => ctxOk slot && ctxOk c
  | .attest c outlen _ _ _ _ => ctxOk c && decide (outlen < 2 ^ 32)
  | .ownerSet _ length _ _ _ => decide (length < 2 ^ 32)
  | .certRead _ outlen => decide (outlen < 2 ^ 32)
  | .ideKey port stream _ _ => decide (port < 256) && decide (stream < 256)

/-! ### Commands -/

/-- Every operand of the command is in range. -/
def Instr.wf : Instr → Bool
  | .latch t f => tileOk t && f.ok
  | .latchComplete t => tileOk t
  | .swap t => tileOk t
  | .pass t f => tileOk t && f.ok
  | .passt t f => tileOk t && f.ok
  | .passStreamStart t => tileOk t
  | .promotion t _ => tileOk t
  | .proofRunStart t => tileOk t
  | .proofVerdict t _ => tileOk t
  | .wzero t f => tileOk t && f.ok
  | .wzeroComplete t => tileOk t
  | .drain t f => tileOk t && f.ok
  | .drainComplete t => tileOk t
  | .chain t f => tileOk t && f.ok
  | .chainProgramStart q => quadOk q
  | .chainRow q _ _ => quadOk q
  | .chainProgramComplete q => quadOk q
  | .kick t f => tileOk t && f.ok
  | .tag t f => tileOk t && f.ok
  | .tagClearComplete t bank => tileOk t && decide (bank < 32)
  | .stat t f => tileOk t && f.ok
  | .statComplete t => tileOk t
  | .beat t => tileOk t
  | .fence t cls => tileOk t && cls != 0
  | .sig t f => tileOk t && f.ok
  | .flagArrive src tgt => tileOk src && tileOk tgt
  | .waitf t f => tileOk t && f.ok
  | .waitfWake t => tileOk t
  | .loop t f => tileOk t && f.ok
  | .endl t => tileOk t
  | .jmp t f => tileOk t && f.ok
  | .halt t => tileOk t
  | .seta t f => tileOk t && f.ok
  | .adda t f => tileOk t && f.ok
  | .setk t f => tileOk t && f.ok
  | .beatStepPoint w => wardOk w
  | .masterDecide w => wardOk w
  | .verdictApply w _ => wardOk w
  | .markerLost w => wardOk w
  | .beatBoundary w _ => wardOk w
  | .dmaStart r c a => r.ok && chanOk c && a.ok
  | .dmaDescriptorFetch c _ => chanOk c
  | .dmaDescriptorComplete c _ _ => chanOk c
  | .dmaAccessError c e => chanOk c && e.err.ok
  | .squashComplete c => chanOk c
  | .develop d _ _ => dieOk d
  | .quant d _ => dieOk d
  | .move d _ => dieOk d
  | .encode d _ => dieOk d
  | .devOperationComplete d => dieOk d
  | .peerTimeout u _ => u.ok
  | .hostCompletionTimeout u _ => u.ok
  | .statSnapRequest r w a => r.ok && wardOk w && a.ok
  | .statSnapshotComplete w => wardOk w
  | .wardEnable src dies port vf => src.ok && (HostOp.wardEnable dies port vf).ok
  | .wardDisable src => src.ok && (HostOp.wardDisable).ok
  | .wardReset src => src.ok && (HostOp.wardReset).ok
  | .wardScrubComplete w => wardOk w
  | .jobStart src program len prog _ => src.ok && (HostOp.jobStart program len prog).ok
  | .jobEnd src => src.ok && (HostOp.jobEnd).ok
  | .map src va pa count size rights kslot => src.ok && (HostOp.map va pa count size rights kslot).ok
  | .unmap src va count size => src.ok && (HostOp.unmap va count size).ok
  | .register src c kslot rslot rank mats image negVa negLen => src.ok && (HostOp.register c kslot rslot rank mats image negVa negLen).ok
  | .withdraw src c => src.ok && (HostOp.withdraw c).ok
  | .claim src c count list pairs => src.ok && (HostOp.claim c count list pairs).ok
  | .unclaim src c count list pairs => src.ok && (HostOp.unclaim c count list pairs).ok
  | .submit src idx c prompt maxtok cookie out job bytes => src.ok && (HostOp.submit idx c prompt maxtok cookie out job bytes).ok
  | .cancel src idx => src.ok && (HostOp.cancel idx).ok
  | .prepare src target source length => src.ok && (HostOp.prepare target source length).ok
  | .switch src target wait => src.ok && (HostOp.switch target wait).ok
  | .distribute src target package length alt m => src.ok && (HostOp.distribute target package length alt m).ok
  | .shardArrive w _ _ _ => wardOk w
  | .endOfPass w => wardOk w
  | .distributeTimeout w => wardOk w
  | .trainStart src c mode record _ => src.ok && (HostOp.trainStart c mode record).ok
  | .trainStop src c => src.ok && (HostOp.trainStop c).ok
  | .rollback src c => src.ok && (HostOp.rollback c).ok
  | .updStep r d a => r.ok && dieOk d && a.ok
  | .gradientReductionComplete w c => wardOk w && ctxOk c
  | .passOneComplete w x => wardOk w && ctxOk x.ctx && x.parts.all (·.ok)
  | .vote w c v => wardOk w && ctxOk c && v.ok
  | .passTwoComplete w c => wardOk w && ctxOk c
  | .digestExchange w c x => wardOk w && ctxOk c && x.ok
  | .rehashComplete w c x => wardOk w && ctxOk c && x.peer.ok && digestDiesOk x.parts
  | .checkpointCopyComplete w c => wardOk w && ctxOk c
  | .rollbackRestoreComplete w c => wardOk w && ctxOk c
  | .peerCheckpointArrive w c d fromReplica _ => wardOk w && ctxOk c && dieOk d && decide (fromReplica < 64)
  | .armTimeout w c => wardOk w && ctxOk c
  | .linkTrained l x => linkOk l && x.ok
  | .linkTrainRetry l => linkOk l
  | .laneAlignmentLoss l => linkOk l
  | .linkRetrainComplete l x => linkOk l && x.ok
  | .flitData l f _ _ _ => linkOk l && f.ok
  | .flitReadReq l f _ _ => linkOk l && f.ok
  | .flitResp l f _ _ _ => linkOk l && f.ok
  | .flitReduce l f _ _ _ _ => linkOk l && f.ok
  | .flitMcast l f _ _ _ => linkOk l && f.ok
  | .flitIdle l f _ => linkOk l && f.ok
  | .sessionRekey l _ => linkOk l
  | .markerReady w src m => wardOk w && identOk src && m.ok
  | .markerBoundary w m => wardOk w && m.ok
  | .markerHold w m => wardOk w && m.ok
  | .markerStart w m => wardOk w && m.ok
  | .relayedCommand origin jseq cmd => identOk origin && decide (jseq < 2 ^ 58) && decide (cmd.ward < 256) && cmd.op.ok
  | .relayCompletion jseq _ _ => decide (jseq < 2 ^ 58)
  | .relayTimeout jseq => decide (jseq < 2 ^ 58)
  | .takeover src m s => src.ok && (HostOp.takeover m s).ok
  | .tko m s _ _ => identOk m && decide (s < 4)
  | .tkoAck addr _ => addrOk addr
  | .tkoDone m _ => identOk m
  | .tkoAckTimeout _ => true
  | .lossTimeout m => identOk m
  | .rollcallSend => true
  | .rollcallRecord r => r.ok
  | .rollcallClear src => src.ok && (HostOp.rollcallClear).ok
  | .linkRetrain src die link => src.ok && (HostOp.linkRetrain die link).ok
  | .stopMarker sender _ => addrOk sender
  | .journalRead src first count dst => src.ok && (HostOp.journalRead first count dst).ok
  | .illegalCommand src opc bytes => src.ok && bytes.length == 64 && bytes.head? == some opc
  | .sqTailWrite r ring _ => r.ok && decide (ring < 16)
  | .cqHeadWrite r ring _ => r.ok && decide (ring < 16)
  | .ringCtlWrite r ring _ => r.ok && decide (ring < 16)
  | .msixUnmask r vec => r.ok && decide (vec < 2048)
  | .vfFlr port vf => portOk port && vfOk vf
  | .flrDrainTimeout port vf _ => portOk port && vfOk vf
  | .pf0Flr port => portOk port
  | .perst port => portOk port
  | .accountingSecond _ _ => true
  | .seqPeekIdx r w _ => r.ok && wardOk w
  | .updPeekCtx r d _ => r.ok && dieOk d
  | .secSlotPeekIdx r _ => r.ok
  | .safRingIdx r _ => r.ok
  | .keyAlloc src c => src.ok && (HostOp.keyAlloc c).ok
  | .keyRetire src slot => src.ok && (HostOp.keyRetire slot).ok
  | .keyRetireComplete slot => slotOk slot
  | .keyShare src slot c => src.ok && (HostOp.keyShare slot c).ok
  | .attest src c outlen request out keyOk nonce => src.ok && (HostOp.attest c outlen request out keyOk nonce).ok
  | .ownerSet src record length sigOk secver ownerId => src.ok && (HostOp.ownerSet record length sigOk secver ownerId).ok
  | .certRead src out outlen => src.ok && (HostOp.certRead out outlen).ok
  | .ideKey src port stream request wrapOk => src.ok && (HostOp.ideKey port stream request wrapOk).ok
  | .quarantineExpire slot => slotOk slot
  | .heartbeat d b => dieOk d && b.upsets.all (·.ok)
  | .watchdogExpire d => dieOk d
  | .patrolCycle w => wardOk w
  | .patrolRead w _ => wardOk w
  | .safelightSend => true
  | .collectorAck _ _ => true
  | .resendTimer _ => true
  | .aliveExpire => true
  | .pcsSyncLoss => true
  | .pcsSync => true
  | .entdaa _ => true
  | .setEndpointId _ => true
  | .getEndpointId => true
  | .getMessageTypeSupport => true
  | .pldmSensorRead _ => true
  | .readCompactRecords _ _ => true
  | .readStatusRegisters => true
  | .powerOn b => b.ok
  | .bootFailResend => true
  | .resetNAssert => true
  | .resetNRelease b => b.ok
  | .flashWrite r a _ other => r.ok && a.ok && other.ok
  | .flashWriteComplete _ => true
  | .supplySample _ => true
  | .powerLimitTick _ _ dies _ => dies.below 8
  | .thermalTick dies _ _ _ => dies.below 8
  | .stopTimerExpire => true
  | .overvoltageTimeout => true
  | .dieOvertemp d => dieOk d
  | .outletOvertemp => true
  | .railSwitchOff => true
  | .autoReset b => b.ok
  | .registerWrite r a => r.ok && a.ok
  | .registerReadRefused r _ => r.ok
  | .pcieLinkDown port => portOk port
  | .pcieLinkUp port rate width => portOk port && decide (1 ≤ rate) && decide (rate ≤ 5) && [1, 2, 4, 8, 16].contains width
  | .perstRelease port => portOk port
  | .busMasterEnableWrite r _ => r.ok
  | .arpRequest _ => true
  | .neighbourSolicitation _ => true
  | .icmpEcho _ _ _ => true
  | .recordEventEnable _ => true
  | .attestationSigned => true
  | .ownerRecordWritten _ _ => true
  | .spillReadComplete w seqIdx => wardOk w && decide (seqIdx < 2 ^ 21)
  | .shardRequest w _ fromAddr => wardOk w && identOk fromAddr
  | .controllerMemoryError d => dieOk d

end Sys2Proof
end

