-- ==== Sys2Proof/Machine/Encode.lean ====
section
/-! DEFINITION. The words of the tile instructions, from the encodings of chapter 05 (R127 to R155): the first word and
the extension word, 0 for an instruction of one word. -/

namespace Sys2Proof.Machine
open Sys2Proof

def Fmt.bits : Fmt → Nat
  | .b1 => 0 | .b2 => 1 | .b4 => 2 | .b8 => 3

def flagBit (b : Bool) (k : Nat) : Nat := if b then 2 ^ k else 0

/-- A word from its opcode and the sum of its placed fields. -/
def tileWord (op fields : Nat) : W64 := BitVec.ofNat 64 (op * 2 ^ 58 + fields)

def LatchF.word (f : LatchF) : W64 :=
  tileWord 0x01 (f.as * 2 ^ 53 + f.vs * 2 ^ 41 + Fmt.bits f.fmt * 2 ^ 39 + flagBit f.blk 38 + flagBit f.trd 37 + flagBit f.half 36 +
    (f.rows - 1) * 2 ^ 28 + (f.cols - 1) * 2 ^ 20)
def PassF.word (op : Nat) (f : PassF) : W64 :=
  tileWord op (f.as * 2 ^ 53 + f.vs * 2 ^ 41 + f.vcnt * 2 ^ 28 + f.wb * 2 ^ 19 + (f.wc - 1) * 2 ^ 10 + f.pi * 2 ^ 7 +
    (match f.rnd with | .sr => 2 ^ 6 | .rne => 0) + flagBit f.wit 5 + f.seed * 2 ^ 2)
def WzeroF.word (f : WzeroF) : W64 := tileWord 0x05 (f.wb * 2 ^ 49 + (f.wc - 1) * 2 ^ 40)
def DrainF.word (f : DrainF) : W64 :=
  tileWord 0x06 (f.wb * 2 ^ 49 + (f.wc - 1) * 2 ^ 40 + f.ofmt * 2 ^ 38 + flagBit f.half 37 + f.ad * 2 ^ 32 + f.vd * 2 ^ 20 + f.cw.toNat)
def DrainF.ext (f : DrainF) : W64 :=
  BitVec.ofNat 64 (flagBit f.aie 63 + flagBit f.afmt 62 + f.aa * 2 ^ 57 + f.va * 2 ^ 45 + f.sa * 2 ^ 40)
def ChainF.word (f : ChainF) : W64 := tileWord 0x07 (f.ad * 2 ^ 53 + (f.rows - 1) * 2 ^ 40)
def KickF.word (f : KickF) : W64 :=
  tileWord 0x08 (f.ad * 2 ^ 53 + flagBit f.hp 52 + f.ch * 2 ^ 47 + flagBit f.ks 46 + f.ki * 2 ^ 43 + f.cnt * 2 ^ 27)
def TagF.word (f : TagF) : W64 := tileWord 0x14 (f.ac * 2 ^ 53 + f.bmask.toNat * 2 ^ 21)
def StatF.word (f : StatF) : W64 :=
  tileWord 0x15 (f.ad * 2 ^ 53 + f.site * 2 ^ 43 + (f.ns - 1) * 2 ^ 37 + flagBit f.clr 36)
def SigF.word (f : SigF) : W64 := tileWord 0x0B (f.tgt * 2 ^ 49 + f.fmask.toNat * 2 ^ 33)
def WaitfF.word (f : WaitfF) : W64 := tileWord 0x0C (f.fmask.toNat * 2 ^ 42 + flagBit f.any 41 + flagBit f.clr 40)
def LoopF.word (f : LoopF) : W64 := tileWord 0x0D (f.k * 2 ^ 55 + flagBit f.src 54 + f.count * 2 ^ 30 + f.fin * 2 ^ 17)
def JmpF.word (f : JmpF) : W64 :=
  tileWord 0x0F (f.cond * 2 ^ 55 + f.k * 2 ^ 52 + f.pop * 2 ^ 49 + f.target * 2 ^ 36 + f.fmask.toNat * 2 ^ 20)
def SetaF.word (f : SetaF) : W64 := tileWord 0x11 (f.ad * 2 ^ 53 + f.mode * 2 ^ 51 + f.as * 2 ^ 46 + f.imm.toNat * 2 ^ 30)
def AddaF.word (f : AddaF) : W64 :=
  tileWord 0x12 (f.ad * 2 ^ 53 + f.mode * 2 ^ 51 + f.as * 2 ^ 46 + f.at' * 2 ^ 41 + f.k * 2 ^ 38 + f.imm.toNat * 2 ^ 22)
def SetkF.word (f : SetkF) : W64 :=
  tileWord 0x13 (f.kd * 2 ^ 55 + f.mode * 2 ^ 53 + f.ks * 2 ^ 50 + f.as * 2 ^ 45 + f.imm.toNat * 2 ^ 21)

/-- The tile and the two words of a tile instruction; `none` for any other command. -/
def encodeTile : Instr → Option (Nat × W64 × W64)
  | .latch t f => some (t, LatchF.word f, 0)
  | .swap t => some (t, tileWord 0x02 0, 0)
  | .pass t f => some (t, PassF.word 0x03 f, 0)
  | .passt t f => some (t, PassF.word 0x04 f, 0)
  | .wzero t f => some (t, WzeroF.word f, 0)
  | .drain t f => some (t, DrainF.word f, DrainF.ext f)
  | .chain t f => some (t, ChainF.word f, 0)
  | .kick t f => some (t, KickF.word f, 0)
  | .beat t => some (t, tileWord 0x09 0, 0)
  | .fence t cls => some (t, tileWord 0x0A (cls.toNat * 2 ^ 50), 0)
  | .sig t f => some (t, SigF.word f, 0)
  | .waitf t f => some (t, WaitfF.word f, 0)
  | .loop t f => some (t, LoopF.word f, 0)
  | .endl t => some (t, tileWord 0x0E 0, 0)
  | .jmp t f => some (t, JmpF.word f, 0)
  | .halt t => some (t, tileWord 0x10 0, 0)
  | .seta t f => some (t, SetaF.word f, f.ext.zeroExtend 64)
  | .adda t f => some (t, AddaF.word f, 0)
  | .setk t f => some (t, SetkF.word f, 0)
  | .tag t f => some (t, TagF.word f, 0)
  | .stat t f => some (t, StatF.word f, 0)
  | _ => none

end Sys2Proof.Machine
end

