-- ==== Sys2Proof/Machine/RegRead.lean ====
section
/-! DEFINITION. What a register read returns: every register of the spec as a view of the state (R2 to R4, R23, R24,
R31 to R36 and the register tables of each chapter), the journal as PF0 BAR2 reads it (R435) and the carve-out as it
stands in C0's stacks (R27). No read has a side effect. -/

namespace Sys2Proof.Machine
open Sys2Proof

/-! ### How a register is read (R35) -/

/-- A register as it reads: 64 bits wide or 32, and its value. -/
structure RegVal where
  wide : Bool
  val : Nat
deriving DecidableEq, Repr, Inhabited

/-- The fields of a register: each value at its lowest bit. -/
def fieldsAt (l : List (Nat × Nat)) : Nat := (l.map fun x => x.1 * 2 ^ x.2).sum

def reg32 (v : Nat) : Option RegVal := some ⟨false, v % 2 ^ 32⟩
def reg64 (v : Nat) : Option RegVal := some ⟨true, v % 2 ^ 64⟩

/-- 64-bit words of a window of bytes: word `k`. -/
def byteWord (bs : List Byte) (k : Nat) : Nat := leNat ((bs.drop (8 * k)).take 8)

/-- R35: an access of `size` bytes at `o` to a block whose registers `f` gives by their offsets; what is no register, ill-sized
or unaligned reads zero. -/
def readAt (f : Nat → Option RegVal) (o size : Nat) : W64 :=
  if o % size ≠ 0 then 0
  else if size = 8 then match f o with | some r => BitVec.ofNat 64 r.val | none => 0
  else if size = 4 then
    match f o with
    | some r => BitVec.ofNat 64 (r.val % 2 ^ 32)
    | none =>
      match f (o / 8 * 8) with
      | some r => if r.wide then BitVec.ofNat 64 (r.val / 2 ^ 32) else 0
      | none => 0
  else 0

/-! ### Module blocks (R31) -/

/-- MOD_CAP_UNITS (R2). -/
def capUnits (v : Variant) : Nat :=
  fieldsAt [(((List.range 8).map fun n => if Config.updFitted v && Config.dieFitted v n then 2 ^ n else 0).sum, 16),
            (((List.range 8).map fun n => if Config.dieFitted v n then 2 ^ n else 0).sum, 8), (Config.variantCode v, 0)]

/-- MOD_CAP_SIZE (R3): two host ports, 64 tiles per die, and per die fitted 310 GB of usable stack tier, six links and four stacks. -/
def capSize (v : Variant) : Nat :=
  let dies := ((List.range 8).filter fun n => Config.dieFitted v n).length
  fieldsAt [(2, 48), (310 * dies, 32), (6 * dies, 24), (4 * dies, 16), (64, 8), (dies, 0)]

/-- MOD_DIE_WARD (R23): HELD and the ward number of each die. -/
def State.dieWardWord (s : State) : Nat :=
  ((List.range 8).map fun n => match s.wardOfDie n with | some w => (8 + w) * 2 ^ (4 * n) | none => 0).sum

/-- MOD_ID (R24). -/
def State.idWord (s : State) : Nat :=
  fieldsAt [(s.image.domainSize, 8), (bit s.standby 7, 0), (if s.standby then 0 else s.linkAddr % 64, 0)]

def routeWord (e : RouteEnt) : Nat := fieldsAt [(bit e.valid 63, 0), (bit e.loc 62, 0), (e.ports.toNat, 0)]

/-- MOD_TKO and MOD_ROLL (R406). -/
def State.tkoWord (s : State) : Nat :=
  fieldsAt [(s.tg, 32), (bit s.tko.isSome 24, 0), (s.image.lossMs, 8), (bit s.image.autoLoss 0, 0)]
def State.rollWord (s : State) : Nat :=
  fieldsAt [(s.rollRounds.toNat, 32), (s.rollHeld.toNat, 24), (bit s.rollSelfDiv 1, 0), (bit s.rollSelfBad 0, 0)]

/-- Registers of the MOD_ block. -/
def State.modReg (s : State) (o : Nat) : Option RegVal :=
  if o = 0x0000 then reg32 (capUnits s.variant)
  else if o = 0x0008 then reg64 (capSize s.variant)
  else if o = 0x0010 then reg32 s.dieWardWord
  else if o = 0x0018 then reg32 s.idWord
  else if o = 0x0020 then reg64 s.healthWord
  else if 0x1000 ≤ o ∧ o < 0x1000 + 8 * 68 ∧ o % 8 = 0 then reg64 (routeWord (s.routes.get ((o - 0x1000) / 8)))
  else if o = 0x1400 then reg64 s.tkoWord
  else if o = 0x1408 then reg64 s.rollWord
  else if o = 0x1410 then reg64 s.rollDiv.toNat
  else if o = 0x1418 then reg64 s.rollSilent.toNat
  else if o = 0x1420 then reg32 s.ctlTmo.toNat
  else none

def FlashState.code : FlashState → Nat
  | .idle => 0 | .busy => 1 | .done => 2 | .refused => 3 | .failed => 4

/-- CFG_BOOT (R524) and CFG_FLASH_STAT (R525). -/
def Boot.word (b : Boot) : Nat :=
  fieldsAt [(b.item.toNat, 40), (b.reason.toNat, 32), (b.index.toNat, 16), (bit b.slow 12, 0), (bit b.c4 11, 0), (bit b.fwCopy 10, 0),
            (bit b.cfgCopy 9, 0), (bit b.ownCopy 8, 0), (b.stage, 0)]
def Flash.statWord (f : Flash) : Nat := fieldsAt [(f.reason.toNat, 8), (f.st.code, 0)]

/-- Registers of the CFG_ block. -/
def State.cfgReg (s : State) (o : Nat) : Option RegVal :=
  if o = 0x00 then reg64 s.boot.word
  else if o = 0x08 then reg64 s.flash.src.toNat
  else if o = 0x10 then reg64 (s.flash.ctlLo.toNat + s.flash.ctlHi.toNat * 2 ^ 32)
  else if o = 0x18 then reg32 s.flash.statWord
  else none

/-- SEC_SLOTS (R467): slots of the 16,384 that are FREE, and in QUARANTINE. -/
def State.slotsWord (s : State) : Nat :=
  let of (p : SlotState → Bool) : Nat := (s.slots.filter fun e => 0 < e.1 && e.1 < 16384 && p e.2.st).length
  fieldsAt [(16383 - of fun x => x != .free, 16), (of fun x => x == .quarantine, 0)]

/-- SEC_CNT (R466). -/
def Sec.cntWord (x : Sec) : Nat := fieldsAt [(x.refused.toNat, 48), (x.integrity.toNat, 32), (x.retires.toNat, 16), (x.attests.toNat, 0)]

/-- Registers of the SEC_ block; the digest registers as four 64-bit words each (R465). -/
def State.secReg (s : State) (o : Nat) : Option RegVal :=
  let digest (base : Nat) (d : BitVec 256) : Option RegVal := reg64 (byteWord (toLE 32 d.toNat) ((o - base) / 8))
  if o = 0x00 then reg32 s.secWord
  else if 0x100 ≤ o ∧ o < 0x180 ∧ o % 8 = 0 then
    if o < 0x120 then digest 0x100 s.sec.fwDigest else if o < 0x140 then digest 0x120 s.sec.cfgDigest
    else if o < 0x160 then digest 0x140 s.sec.ownerId else digest 0x160 s.sec.deviceId
  else if o = 0x200 then reg64 s.sec.cntWord
  else if o = 0x208 then reg32 s.slotsWord
  else if o = 0x210 then reg32 s.sec.peekIdx.toNat
  else if o = 0x218 then reg64 s.sec.peekData.toNat
  else if o = 0x220 then reg64 s.sec.peekMem.toNat
  else none

/-- SAF_CTL (R495) and SAF_CNT (R497). -/
def Saf.ctlWord (x : Saf) : Nat := fieldsAt [(x.aliveMs.toNat, 16), (bit x.ringAlways 2, 0), (bit x.mirrorBEn 1, 0), (bit x.mirrorAEn 0, 0)]
def Saf.cntWord (x : Saf) : Nat := fieldsAt [(x.resent.toNat, 48), (x.discarded.toNat, 32), (x.mirrorFail.toNat, 16), (x.notes.toNat, 0)]

/-- Registers of the SAF_ block (R494 to R499). -/
def State.safReg (s : State) (o : Nat) : Option RegVal :=
  if o = 0x00 then reg32 s.safWord
  else if o = 0x04 then reg32 s.saf.ctlWord
  else if o = 0x08 then reg64 s.saf.seqNext
  else if o = 0x10 then reg64 s.saf.acked.toNat
  else if o = 0x18 then reg64 s.saf.cntWord
  else if o = 0x20 then reg64 s.saf.mirrorA.toNat
  else if o = 0x28 then reg64 s.saf.mirrorB.toNat
  else if o = 0x80 then reg64 s.saf.ringIdx.toNat
  else if 0x100 ≤ o ∧ o < 0x180 ∧ o % 8 = 0 then reg64 (byteWord s.saf.ringData ((o - 0x100) / 8))
  else none

/-- PWR_STATE, PWR_LIMIT, PWR_CNT, PWR_THERM (R527). -/
def Pwr.stateWord (p : Pwr) : Nat :=
  fieldsAt [(p.vin % 2 ^ 16, 48), (p.pin % 2 ^ 16, 32), (bit p.stopping 4, 0), (bit p.timer 3, 0), (bit p.clamp 2, 0),
            (bit (decide (6000 < p.vin)) 1, 0), (bit (decide (p.nSupply < 64)) 0, 0)]
def Pwr.limitWord (p : Pwr) : Nat := fieldsAt [(p.peakW, 16), (p.designW, 0)]
def Pwr.cntWord (p : Pwr) : Nat := fieldsAt [(p.sagCnt.toNat, 48), (p.powerCnt.toNat, 32), (p.thermalCnt.toNat, 16), (p.clampCnt.toNat, 0)]
def Pwr.thermWord (p : Pwr) : Nat := fieldsAt [(p.outT, 8), (p.tj, 0)]
def Pwr.temp (p : Pwr) (n : Nat) : Nat := (BitVec.ofInt 16 (Tab.getD (-32768) p.temps n)).toNat

/-- Registers of the PWR_ block. -/
def State.pwrReg (s : State) (o : Nat) : Option RegVal :=
  if o = 0x00 then reg64 s.pwr.stateWord
  else if o = 0x08 then reg32 s.pwr.limitWord
  else if o = 0x10 then reg64 s.pwr.energyMj.toNat
  else if o = 0x18 then reg64 s.pwr.cntWord
  else if 0x40 ≤ o ∧ o < 0x68 ∧ o % 4 = 0 then reg32 (s.pwr.temp ((o - 0x40) / 4))
  else if o = 0x68 then reg32 s.pwr.thermWord
  else none

/-- CLK_ARRAY (R526). -/
def Pwr.clkWord (p : Pwr) : Nat := fieldsAt [(p.nSupply, 56), (p.nPower, 48), (p.nThermal, 40), (p.nmax, 32), (p.n, 0)]

def State.clkReg (s : State) (o : Nat) : Option RegVal :=
  if o = 0x00 then reg64 s.pwr.clkWord
  else if o = 0x08 then reg64 (s.pwr.slowMs.toNat * 2 ^ 32 + s.pwr.changes.toNat)
  else none

/-- Registers of the JRN_ block (R435). -/
def State.jrnReg (s : State) (o : Nat) : Option RegVal :=
  if o = 0x00 then reg64 s.jrnNext
  else if o = 0x08 then reg64 s.jrnOldest
  else if o = 0x10 then reg64 s.jrnBoot.toNat
  else none

/-- The module's blocks by their offset in the register space (R31). -/
def State.moduleReg (s : State) (o : Nat) : Option RegVal :=
  if o < 0x10000 then s.modReg o
  else if o < 0x20000 then s.cfgReg (o - 0x10000)
  else if o < 0x30000 then s.secReg (o - 0x20000)
  else if o < 0x40000 then s.safReg (o - 0x30000)
  else if o < 0x50000 then s.pwrReg (o - 0x40000)
  else if o < 0x60000 then s.clkReg (o - 0x50000)
  else if o < 0x70000 then s.jrnReg (o - 0x60000)
  else none

/-! ### Ward block (R32) -/

def WardState.code : WardState → Nat
  | .disabled => 0 | .placing => 1 | .idle => 2 | .running => 3 | .shutting => 4 | .enablePending => 5 | .resetting => 6

/-- WRD_STATE (R433), WRD_FLR (R422), WRD_XLAT_CNT (R270), WRD_STAT_CTL (R60). -/
def Ward.stateWord (y : Ward) : Nat :=
  fieldsAt [(y.busySd.toNat, 48), (y.lastJobSt.toNat, 40), (y.dies.toNat, 8), (y.vf, 4), (y.port, 3), (y.st.code, 0)]
def Ward.flrWord (y : Ward) : Nat := fieldsAt [(y.flrs.toNat, 48), (y.flrDev.toNat, 32), (y.flrDma.toNat, 16), (y.flrDrained.toNat, 0)]
def Ward.xlatWord (y : Ward) : Nat := fieldsAt [(y.xlatMiss.toNat, 32), (y.xlatFaults.toNat, 16)]
def Ward.statWord (y : Ward) : Nat := fieldsAt [(bit y.statFailed 2, 0), (bit y.statClear 1, 0), (bit y.statSnap 0, 0)]

/-- Registers of the WRD_ sub-block. -/
def State.wrdReg (s : State) (y : Ward) (o : Nat) : Option RegVal :=
  if o = 0x000 then reg64 y.stateWord
  else if o = 0x010 then reg32 (capUnits s.variant)
  else if o = 0x018 then reg64 (capSize s.variant)
  else if o = 0x020 then reg64 y.flrWord
  else if o = 0x100 then reg64 y.xlatWord
  else if o = 0x208 then reg32 y.statWord
  else if o = 0x210 then reg64 y.statBeat.toNat
  else if o = 0x308 then reg64 y.acctTile.toNat
  else if o = 0x310 then reg64 y.acctChain.toNat
  else if o = 0x318 then reg64 y.acctEnergy.toNat
  else if 0x400 ≤ o ∧ o < 0x420 ∧ o % 8 = 0 then reg64 (byteWord (toLE 32 y.jobDigest.toNat) ((o - 0x400) / 8))
  else if o = 0x420 then reg32 y.keySlot
  else if o = 0x508 then reg64 y.patrolWord
  else none

/-- BEA_CLOSE (R191), BEA_STATUS (R192), BEA_HELD (R194). -/
def Ward.closeWord (y : Ward) : Nat := fieldsAt [(y.closeMin % 64, 8), (y.closeSteps, 0)]
def Ward.beaStatusWord (y : Ward) : Nat :=
  fieldsAt [(y.masterId % 64, 16), (bit y.skewLate 5, 0), (bit y.markerLost 4, 0), (bit y.overrun 3, 0), (bit y.holding 2, 0),
            (bit y.master 1, 0), (bit y.multi 0, 0)]
def Ward.heldWord (y : Ward) : Nat := fieldsAt [(y.heldBeats.toNat, 32), (y.heldSteps.toNat, 0)]

/-- Registers of the BEA_ sub-block. BEA_LEN reads the value last written (R189). -/
def Ward.beaReg (y : Ward) (o : Nat) : Option RegVal :=
  if o = 0x00 then reg32 (match y.newLen with | some v => v.toNat | none => y.beatLen)
  else if o = 0x08 then reg32 y.closeWord
  else if o = 0x0C then reg32 y.beaStatusWord
  else if o = 0x10 then reg64 y.num.toNat
  else if o = 0x18 then reg64 y.heldWord
  else if o = 0x20 then reg64 y.lastHold.word.toNat
  else if o = 0x28 then reg32 y.period.toNat
  else none

/-- SEQ_CNT (R326): queued with pre-empted, running with restoring. -/
def Ward.seqCntWord (y : Ward) : Nat :=
  fieldsAt [((y.seqs.filter fun e => e.2.st = .queued || e.2.st = .preempted).length, 32),
            ((y.seqs.filter fun e => e.2.st = .running || e.2.st = .restoring).length, 0)]
def Ward.seqEvWord (y : Ward) : Nat := fieldsAt [(y.evDeferred.toNat, 48), (y.evNoAdm.toNat, 32), (y.evEnded.toNat, 0)]

/-- Registers of the SEQ_ sub-block. -/
def State.seqReg (s : State) (w : Nat) (y : Ward) (o : Nat) : Option RegVal :=
  if o = 0x00 then reg64 (fieldsAt [((s.seqRange w).2, 32), ((s.seqRange w).1, 0)])
  else if o = 0x20 then reg64 y.seqCntWord
  else if o = 0x28 then reg64 y.seqEvWord
  else if o = 0x80 then reg32 y.peekIdx
  else if 0x100 ≤ o ∧ o < 0x180 ∧ o % 8 = 0 then reg64 (byteWord y.peekSeq ((o - 0x100) / 8))
  else none

/-- ADP_CTX, ADP_BASE_GEN, ADP_CNT, ADP_DIST_CNT, ADP_RSLOTn (R327). -/
def Ward.ctxWord (y : Ward) : Nat :=
  fieldsAt [((y.registry.filter fun e => e.2.res = .resident).length, 16), (y.reg oAdpCtx, 0)]
def Ward.baseGenWord (y : Ward) : Nat := fieldsAt [(y.baseState, 30), (bit y.baseArmed 29, 0), (y.baseGen.toNat, 0)]
def Ward.adpCntWord (y : Ward) : Nat := fieldsAt [(y.loads.toNat, 48), (y.evicts.toNat, 32), (y.swapIns.toNat, 16), (y.swapOuts.toNat, 0)]
def Ward.distCntWord (y : Ward) : Nat :=
  fieldsAt [(y.distRetries.toNat, 48), (y.distPeer.toNat, 32), (y.distPort.toNat, 16), (y.distFailed.toNat, 0)]
def rankWord (x : RankSlot) : Nat := fieldsAt [(bit x.valid 63, 0), (x.imgMib, 32), (x.rmax, 16), (x.mats.toNat, 0)]

/-- Registers of the ADP_ sub-block. -/
def Ward.adpReg (y : Ward) (o : Nat) : Option RegVal :=
  if o = 0x18 then reg32 y.ctxWord
  else if o = 0x20 then reg32 y.baseGenWord
  else if o = 0x28 then reg64 y.adpCntWord
  else if o = 0x30 then reg64 y.distCntWord
  else if 0x100 ≤ o ∧ o < 0x180 ∧ o % 8 = 0 then reg64 (rankWord (y.rslots.get ((o - 0x100) / 8)))
  else if 0x1000 ≤ o ∧ o < 0x2000 ∧ o % 4 = 0 then
    let i := (o - 0x1000) / 4
    reg32 ((y.xownerWord (2 * i + 1)).toNat * 2 ^ 16 + (y.xownerWord (2 * i)).toNat)
  else none

/-- Registers of the TIE_ sub-block (R292, R293). -/
def Ward.tieReg (y : Ward) (o : Nat) : Option RegVal :=
  if o = 0x28 then reg64 (fieldsAt [(y.poolLow, 24), (y.poolFree, 0)])
  else if o = 0x50 then reg64 (fieldsAt [(y.tieLate.toNat, 48), (y.tieFail.toNat, 32), (y.tieSkew.toNat, 16), (y.tieSpills.toNat, 0)])
  else none

/-- The ward block of ward `w`: the registers that software writes read as they stand. -/
def State.wardReg (s : State) (w o : Nat) : Option RegVal :=
  let y := s.ward w
  let ro := if o < 0x10000 then s.wrdReg y o
    else if o < 0x20000 then y.beaReg (o - 0x10000)
    else if o < 0x30000 then s.seqReg w y (o - 0x20000)
    else if o < 0x40000 then y.adpReg (o - 0x30000)
    else if o < 0x50000 then y.tieReg (o - 0x40000)
    else none
  match ro with
  | some v => some v
  | none => (wardRegDef o).map fun d => ⟨d.wide, y.reg o⟩

/-! ### Die block (R33) -/

/-- Registers of a DMA channel (R264 to R269); DMA_START is write-only. -/
def Chan.reg (x : Chan) (o : Nat) : Option RegVal :=
  if o = 0x08 then reg64 x.statusWord
  else if o = 0x10 then reg64 x.cur.toNat
  else if o = 0x18 then reg64 x.faultVa.toNat
  else if o = 0x20 then reg32 (fieldsAt [(bit x.irqEn 31, 0), (x.vec.toNat, 0)])
  else if o = 0x28 then reg64 (fieldsAt [(x.confined.toNat, 48), (x.squashCnt.toNat, 32), (x.done.toNat, 0)])
  else none

/-- OP of DEV_STATE (R294). -/
def DevKind.code : DevKind → Nat
  | .develop => 1 | .quant => 2 | .move => 3 | .encode => 4

/-- DEV_STATE (R294): the operation at the front runs, the others wait. -/
def Dev.stateWord (x : Dev) : Nat :=
  match x.queue with
  | [] => 0
  | o :: r => fieldsAt [(min 255 r.length, 4), (o.kind.code, 1), (1, 0)]

/-- Registers of the developer (R294 to R296). -/
def Dev.reg (x : Dev) (o : Nat) : Option RegVal :=
  if o = 0x00 then reg32 x.stateWord
  else if o = 0x08 then reg64 (devFaultWord x)
  else if o = 0x10 then reg64 (fieldsAt [(x.fails.toNat, 48), (x.outBytes / 1024 % 2 ^ 48, 0)])
  else none

/-- CHN_STATE (R222). -/
def Quad.stateWord (x : Quad) : Nat :=
  fieldsAt [(x.queue.length, 8), (((x.run.map (·.issuer)).getD 0) % 4, 4), (bit x.fenced 1, 0), (bit x.run.isSome 0, 0)]

/-- Registers of a chain engine (R222 to R225). -/
def Quad.reg (x : Quad) (o : Nat) : Option RegVal :=
  if o = 0x00 then reg32 x.stateWord
  else if o = 0x08 then reg64 x.faultWord.toNat
  else if o = 0x10 then reg64 x.checkWord.toNat
  else if o = 0x18 then reg64 (fieldsAt [(x.rowsCnt.toNat, 32), (x.stallCnt.toNat, 0)])
  else none

/-- WORK of UPD_STATE (R363). -/
def UpdWork.code : UpdWork → Nat
  | .idle => 0 | .acc => 1 | .pass1 => 2 | .pass2 => 3 | .ckpt => 4 | .restore => 5 | .rehash => 6 | .image => 7

/-- UPD_REPL and UPD_REPL_CNT of the ward (R365). -/
def Ward.replWord (y : Ward) : Nat :=
  match y.job with
  | some j => fieldsAt [(j.prog.run, 32), (j.prog.nrep, 16), (j.prog.index, 8), (bit y.replSwap 0, 0)]
  | none => fieldsAt [(1, 16)]
def Ward.replCntWord (y : Ward) : Nat :=
  fieldsAt [(y.rounds.toNat, 48), (y.split.toNat, 32), (y.rollbacks.toNat, 16), (y.recheck.toNat, 8), (y.modsFenced.toNat, 0)]

/-- Registers of the update engine of die `d` (R363 to R366); those from 0x100 on live on the ward's lowest die. -/
def State.updReg (s : State) (d o : Nat) : Option RegVal :=
  let u := s.upd d
  if s.updFitted = false then none
  else if o = 0x000 then reg32 (fieldsAt [(if u.work = .idle then 0 else u.ctx, 16), (u.work.code, 0)])
  else if o = 0x008 then reg64 (s.tblRegs.get (2 * d)).toNat
  else if o = 0x010 then reg32 (s.tblRegs.get (2 * d + 1)).toNat
  else if o = 0x018 then reg64 (fieldsAt [(u.slices.toNat, 32), (u.updated / 65536 % 2 ^ 32, 0)])
  else match s.wardOfDie d with
    | none => none
    | some w =>
      let y := s.ward w
      if y.lowDie ≠ d then none
      else if o = 0x100 then reg32 u.stepLr.toNat
      else if o = 0x108 then reg64 0
      else if o = 0x110 then reg32 (fieldsAt [(bit u.refused 4, 0), (u.err, 0)])
      else if o = 0x118 then reg32 u.armTmo.toNat
      else if o = 0x120 then reg64 y.replWord
      else if o = 0x128 then reg64 y.replCntWord
      else if o = 0x180 then reg32 u.peekCtx.toNat
      else if 0x1C0 ≤ o ∧ o < 0x200 ∧ o % 8 = 0 then reg64 (byteWord u.peek ((o - 0x1C0) / 8))
      else none

/-- LNK_ARB: a weight of 0 reads as 1 (R404). -/
def arbWord (v : W32) : Nat := fieldsAt [(max 1 (field v.toNat 15 8), 8), (max 1 (field v.toNat 7 0), 0)]

/-- Registers of a link (R402 to R404). -/
def State.linkReg (s : State) (k o : Nat) : Option RegVal :=
  if o = 0x00 then reg64 (s.link k).stateWord
  else if o = 0x08 then reg64 (s.link k).errWord
  else if o = 0x10 then reg64 (s.link k).dropWord
  else if o = 0x18 then reg32 (arbWord (s.arbs.get k))
  else none

/-- HBM_ERR (R501). -/
def Hbm.word (x : Hbm) : Nat :=
  fieldsAt [(x.corrected.toNat, 40), (x.uncorr.toNat, 24), (x.tag.toNat, 17), (bit x.overflow 16, 0), (x.list.length, 0)]

/-- TIL_ARRAY_STATE (R91). -/
def State.arrayWord (s : State) (i : Nat) : Nat :=
  let t := s.tile i
  fieldsAt [(if t.remapped then t.roleOf % 64 else 0, 8), (bit (s.proofBusy i) 4, 0), (bit t.spare 3, 0), (bit t.remapped 2, 0),
            (match t.health with | .normal => 0 | .degraded => 1 | .fenced => 2, 0)]

/-- TIL_SEQ_STATE (R162). -/
def Tile.seqWord (t : Tile) : Nat := fieldsAt [(t.loops.length, 33), (t.pc % 2 ^ 13, 20), (t.state.code, 0)]

/-- Registers of a tile (R91 to R95, R114 to R116, R162 to R170) and its instruction store (R171). -/
def State.tileReg (s : State) (i o : Nat) : Option RegVal :=
  let t := s.tile i
  if o = 0x000 then reg64 t.seqWord
  else if o = 0x008 then reg32 (fieldsAt [(t.entry, 16), (t.codeEnd, 0)])
  else if o = 0x010 then reg64 t.fault.word.toNat
  else if o = 0x018 then reg64 t.faultBeat.toNat
  else if o = 0x020 then reg64 (fieldsAt [(t.stall.toNat, 32), (t.issued.toNat, 0)])
  else if o = 0x028 then reg32 t.flags.toNat
  else if o = 0x100 then reg32 (s.arrayWord i)
  else if o = 0x108 then reg64 (fieldsAt [(t.cntBoth.toNat, 48), (t.cntMain.toNat, 32), (t.cntWitness.toNat, 16), (t.cntMismatch.toNat, 0)])
  else if o = 0x110 then reg64 t.skipped.toNat
  else if o = 0x118 then reg64 t.last.word.toNat
  else if o = 0x120 then reg64 t.lastBeat.toNat
  else if 0x204 ≤ o ∧ o ≤ 0x21C ∧ o % 4 = 0 then reg32 (t.seeds.get ((o - 0x200) / 4)).toNat
  else if o = 0x220 then reg64 (fieldsAt [(t.renorm.toNat, 32), (t.forcedCnt.toNat, 16), (t.nonfinite.toNat, 0)])
  else if o = 0x228 then reg64 t.carries.length
  else if 0x300 ≤ o ∧ o < 0x340 ∧ o % 8 = 0 then
    reg64 (((List.range 4).map fun k => (t.tags.get ((o - 0x300) / 2 + k)).toNat * 2 ^ (16 * k)).sum)
  else if o = 0x340 then reg32 t.tagCnt.toNat
  else if 0x400 ≤ o ∧ o < 0x500 ∧ o % 8 = 0 then reg64 (t.a.get ((o - 0x400) / 8)).toNat
  else if 0x500 ≤ o ∧ o < 0x520 ∧ o % 4 = 0 then reg32 (t.k.get ((o - 0x500) / 4)).toNat
  else if 0x10000 ≤ o ∧ o < 0x20000 ∧ o % 8 = 0 then reg64 (s.istWord i ((o - 0x10000) / 8)).toNat
  else none

/-- The die block of die `d`. -/
def State.dieReg (s : State) (d o : Nat) : Option RegVal :=
  if o < 0x20000 then (s.chan (64 * d + o / 0x1000)).reg (o % 0x1000)
  else if o < 0x28000 then if d = 0 ∨ d = 4 then (s.chan (64 * d + 32 + (o - 0x20000) / 0x1000)).reg (o % 0x1000) else none
  else if 0x100000 ≤ o ∧ o < 0x200000 then (s.dev d).reg (o - 0x100000)
  else if 0x200000 ≤ o ∧ o < 0x210000 then (s.quad (16 * d + (o - 0x200000) / 0x1000)).reg (o % 0x1000)
  else if 0x300000 ≤ o ∧ o < 0x400000 then s.updReg d (o - 0x300000)
  else if 0x400000 ≤ o ∧ o < 0x460000 then s.linkReg (6 * d + (o - 0x400000) / 0x10000) (o % 0x10000)
  else if 0x500000 ≤ o ∧ o < 0x540000 then if o % 0x10000 = 0 then reg64 (s.hbms.get (4 * d + (o - 0x500000) / 0x10000)).word else none
  else if 0x800000 ≤ o then s.tileReg (64 * d + (o - 0x800000) / 0x20000) ((o - 0x800000) % 0x20000)
  else none

/-! ### Function block (R409, R410, R423) -/

/-- _CTL and _STATE of a ring. -/
def Ring.ctlWord (x : Ring) : Nat := fieldsAt [(bit x.en 31, 0), (x.sqLog, 24), (x.cqLog, 16), (x.vec.toNat, 0)]
def Ring.stateWord (x : Ring) : Nat := fieldsAt [(x.sqHead.toNat, 16), (x.lost.toNat, 8), (x.err, 4), (x.st, 0)]

def Ring.reg (x : Ring) (o : Nat) : Option RegVal :=
  if o = 0x00 then reg64 x.sqBase.toNat
  else if o = 0x08 then reg64 x.cqBase.toNat
  else if o = 0x10 then reg32 x.ctlWord
  else if o = 0x14 then reg32 x.sqTail.toNat
  else if o = 0x18 then reg32 x.cqHead.toNat
  else if o = 0x1C then reg32 x.stateWord
  else none

/-- The requester's function block: its rings, its MSI-X table (address, data, and the mask bit of each vector) and its pending
bits. -/
def State.funcReg (s : State) (r : Req) (o : Nat) : Option RegVal :=
  let f := s.func (funcKey r.port r.func)
  if o < 0x1000 then (s.ring (ringKey r.port r.func (o / 0x100))).reg (o % 0x100)
  else if 0x8000 ≤ o ∧ o < 0x10000 ∧ o % 4 = 0 then
    if o % 16 = 12 then reg32 (if f.unmasked.contains ((o - 0x8000) / 16) then 0 else 1) else reg32 (f.vtab.get ((o - 0x8000) / 4)).toNat
  else if 0x10000 ≤ o ∧ o < 0x10100 ∧ o % 8 = 0 then
    reg64 (((List.range 64).map fun k => if f.pend.contains ((o - 0x10000) * 8 + k) then 2 ^ k else 0).sum)
  else none

/-! ### A read (R35, R36) -/

/-- What a read of `size` bytes at offset `o` of the register space returns. -/
def State.regRead (s : State) (r : Req) (o size : Nat) : W64 :=
  if !s.live || s.readRefused r o then 0
  else match blockOf o with
    | .module => readAt s.moduleReg o size
    | .ward w => readAt (s.wardReg w) ((o - 0x1000000) % 0x100000) size
    | .die d => if s.dies.contains d then readAt (s.dieReg d) ((o - 0x10000000) % 0x1000000) size else 0
    | .func => if s.hasBlock r then readAt (s.funcReg r) (o - oFunc) size else 0
    | .none => 0

/-! ### The journal and the carve-out as bytes (R27, R434, R435) -/

/-- Byte `o` of the journal, as PF0 BAR2 reads it: zero where no record has been written since module reset. -/
def State.jrnByte (s : State) (o : Nat) : Byte :=
  let r := s.journal.get (o / 64 % jrnSize)
  if r.seq = 0 then 0 else r.bytes.getD (o % 64) 0

/-- Byte `o` of ward `w`'s page tables (R248). -/
def State.tableByte (s : State) (w o : Nat) : Byte :=
  let e := if o < 0x200000 then (s.ward w).l1.get (o / 8) else (s.ward w).l2.get ((o - 0x200000) / 8)
  BitVec.ofNat 8 (e.toNat / 2 ^ (8 * (o % 8)))

/-- Byte `o` of the sequence table: the entry of the ward that the index belongs to (R308). -/
def State.seqByte (s : State) (o : Nat) : Byte :=
  let i := o / 128
  match (List.range 8).find? fun w => (s.seqRange w).1 ≤ i && i < (s.seqRange w).1 + (s.seqRange w).2 with
  | some w => ((s.ward w).seqBytes i).getD (o % 128) 0
  | none => 0

/-- Byte `o` of the fault ring (R492). -/
def State.faultByte (s : State) (o : Nat) : Byte :=
  let r := s.faults.get (o / 128)
  if r.seq = 0 then 0 else r.bytes.getD (o % 128) 0

/-- Byte `o` of the carve-out in plain text (R27); what is reserved to firmware is not modelled and reads zero. -/
def State.carveByte (s : State) (o : Nat) : Byte :=
  if o < 0x10000000 then s.jrnByte o
  else if o < 0x20000000 then s.seqByte (o - 0x10000000)
  else if o < 0x40000000 then s.tableByte ((o - 0x20000000) / 0x4000000) ((o - 0x20000000) % 0x4000000)
  else if o < 0x41000000 then s.faultByte (o - 0x40000000)
  else 0

/-- The 64-byte line at offset `64 k` as it stands in the stacks: encrypted under slot 0 (R27, R447). -/
def State.carveLine (s : State) (k : Nat) : List Byte :=
  Config.xtsEnc (s.slot 0).key ((carveOut + 64 * k) / 64) ((List.range 64).map fun j => s.carveByte (64 * k + j))

end Sys2Proof.Machine
end

