-- ==== Sys2Proof/Safety.lean ====
section
/-! DEFINITION. What counts as a safe state and a safe run, in the terms the statements use: the canonical form of
memory, a command that answers a next state, a run that never stops, and the frames: which one unit a command may
change. -/

namespace Sys2Proof.Machine
open Sys2Proof

/-- The canonical form of memory: addresses strictly rising, no entry equal to 0, which an unlisted address reads as
(log entry 5). -/
def Memory.wf (m : List Host.Cell) : Bool := Tab.wf (0 : Byte) m

/-- The command answers a next state, of which `P` holds. -/
def Answers (c : Instr) (s : State) (P : State → Prop) : Prop := ∃ t, exec c s = .next t ∧ P t

/-- The command answers the state that `u`, of which `P` holds, settles to: an error that the die controllers met while they
wrote the tables of ward `w` resets it (R480). -/
def AnswersSettled (c : Instr) (s : State) (w : Nat) (P : State → Prop) : Prop := ∃ u : State, exec c s = .next (u.settle w) ∧ P u

/-- No step of the next `n` stops. -/
def State.runs : Nat → State → Bool
  | 0, _ => true
  | n + 1, s => match step s with
    | .next t => State.runs n t
    | .fault _ => false
    | .refused _ => false

/-! ### Tile instructions -/

/-- Tile `i` may issue, for the job of ward `w`, the instruction it fetches is `c` (R121), and no word that it reads at issue
has an uncorrectable error (R470). -/
abbrev State.fetches (s : State) (i : Nat) (c : Instr) (w : Nat) : Prop :=
  s.issuer i = some w ∧ s.fetched i = some c ∧ s.softFetch i c = none

/-- The word after the instruction that tile `i` fetches (R120). -/
def State.nextPc (s : State) (i : Nat) : Nat := (s.tile i).pc + wordsOf (s.istWord i (s.tile i).pc)

/-! ### Frames

Each says: unit `i` of its kind is now `x`, every other unit of that kind, every byte of memory and every other field of
the state is as before. -/

def OnlyTile (s t : State) (i : Nat) (x : Tile) : Prop :=
  t.tile i = x ∧ (∀ j, j ≠ i → t.tile j = s.tile j) ∧ (∀ a, t.rdByte a = s.rdByte a) ∧ t = { s with tiles := t.tiles }
def OnlyQuad (s t : State) (i : Nat) (x : Quad) : Prop :=
  t.quad i = x ∧ (∀ j, j ≠ i → t.quad j = s.quad j) ∧ (∀ a, t.rdByte a = s.rdByte a) ∧ t = { s with quads := t.quads }
def OnlyChan (s t : State) (i : Nat) (x : Chan) : Prop :=
  t.chan i = x ∧ (∀ j, j ≠ i → t.chan j = s.chan j) ∧ (∀ a, t.rdByte a = s.rdByte a) ∧ t = { s with chans := t.chans }
def OnlyDev (s t : State) (i : Nat) (x : Dev) : Prop :=
  t.dev i = x ∧ (∀ j, j ≠ i → t.dev j = s.dev j) ∧ (∀ a, t.rdByte a = s.rdByte a) ∧ t = { s with devs := t.devs }
def OnlyUpd (s t : State) (i : Nat) (x : Upd) : Prop :=
  t.upd i = x ∧ (∀ j, j ≠ i → t.upd j = s.upd j) ∧ (∀ a, t.rdByte a = s.rdByte a) ∧ t = { s with upds := t.upds }
def OnlyLink (s t : State) (i : Nat) (x : Link) : Prop :=
  t.link i = x ∧ (∀ j, j ≠ i → t.link j = s.link j) ∧ (∀ a, t.rdByte a = s.rdByte a) ∧ t = { s with links := t.links }
def OnlyWard (s t : State) (i : Nat) (x : Ward) : Prop :=
  t.ward i = x ∧ (∀ j, j ≠ i → t.ward j = s.ward j) ∧ (∀ a, t.rdByte a = s.rdByte a) ∧ t = { s with wards := t.wards }
def OnlyRing (s t : State) (i : Nat) (x : Ring) : Prop :=
  t.ring i = x ∧ (∀ j, j ≠ i → t.ring j = s.ring j) ∧ (∀ a, t.rdByte a = s.rdByte a) ∧ t = { s with rings := t.rings }
def OnlyFunc (s t : State) (i : Nat) (x : Func) : Prop :=
  t.func i = x ∧ (∀ j, j ≠ i → t.func j = s.func j) ∧ (∀ a, t.rdByte a = s.rdByte a) ∧ t = { s with funcs := t.funcs }
def OnlyPort (s t : State) (i : Nat) (x : Port) : Prop :=
  t.port i = x ∧ (∀ j, j ≠ i → t.port j = s.port j) ∧ (∀ a, t.rdByte a = s.rdByte a) ∧ t = { s with ports := t.ports }
def OnlySlot (s t : State) (i : Nat) (x : Slot) : Prop :=
  t.slot i = x ∧ (∀ j, j ≠ i → t.slot j = s.slot j) ∧ (∀ a, t.rdByte a = s.rdByte a) ∧ t = { s with slots := t.slots }

/-- Instruction `c` issues on tile `i`, leaves it as `x`, and the sequencer goes on at word `pc`: the pc, the count of issued
instructions and the loads under way change, a stall is over; where `c` waited for the result of a load, STALL rises by up
to 4 (R120, R156, R163, R166). Nothing else changes. -/
def Issued (s t : State) (i : Nat) (c : Instr) (x : Tile) (pc : Nat) : Prop :=
  ∃ n, n ≤ 4 ∧ ((s.tile i).waitsLoad c = false → n = 0) ∧ OnlyTile { s with fresh := t.fresh } t i
    { x with pc := pc, issued := x.issued + 1, loads := (s.tile i).loadsAfter c, stall := x.stall + BitVec.ofNat 32 n,
             st := if x.st = .stalled then .running else x.st }

/-- Tile `i` waits at the instruction it would issue: STALL rises, and nothing else changes (R121, R166). -/
def Stalls (s t : State) (i : Nat) : Prop :=
  ∃ n, OnlyTile { s with fresh := t.fresh } t i { s.tile i with st := .stalled, stall := n }

/-- The array, the chain engines, the channels, developers and update engines, the key slots, the supplies and the boot
state are as before. -/
def SameUnits (s t : State) : Prop :=
  t.tiles = s.tiles ∧ t.quads = s.quads ∧ t.chans = s.chans ∧ t.devs = s.devs ∧ t.upds = s.upds ∧ t.slots = s.slots ∧
  t.boot = s.boot ∧ t.pwr = s.pwr ∧ t.flash = s.flash ∧ t.life = s.life

/-- Of the wards, only `w` changes, to `y`; an error that its die controllers met while they wrote its tables may be noted
(R480). -/
def OneWard (s t : State) (w : Nat) (y : Ward) : Prop := (∃ b, t.ward w = { y with structBad := b }) ∧ ∀ v, v ≠ w → t.ward v = s.ward v

/-- No ward changes. -/
def SameWards (s t : State) : Prop := ∀ v, t.ward v = s.ward v

/-- Every byte of memory outside `n` bytes from `a` on reads as before. -/
def SameOutside (s t : State) (a n : Nat) : Prop := ∀ b, b < a ∨ a + n ≤ b → t.rdByte b = s.rdByte b

/-! ### Commands of the host's rings -/

/-- The ring and the operation of a command that comes on a submission ring (R241 on). -/
def ringOf : Instr → Option (Src × HostOp)
  | .wardEnable src dies port vf => some (src, .wardEnable dies port vf)
  | .wardDisable src => some (src, .wardDisable)
  | .wardReset src => some (src, .wardReset)
  | .jobStart src program len prog _ => some (src, .jobStart program len prog)
  | .jobEnd src => some (src, .jobEnd)
  | .map src va pa count size rights kslot => some (src, .map va pa count size rights kslot)
  | .unmap src va count size => some (src, .unmap va count size)
  | .register src c kslot rslot rank mats image negVa negLen => some (src, .register c kslot rslot rank mats image negVa negLen)
  | .withdraw src c => some (src, .withdraw c)
  | .claim src c count list pairs => some (src, .claim c count list pairs)
  | .unclaim src c count list pairs => some (src, .unclaim c count list pairs)
  | .submit src idx c prompt maxtok cookie out job bytes => some (src, .submit idx c prompt maxtok cookie out job bytes)
  | .cancel src idx => some (src, .cancel idx)
  | .prepare src target source length => some (src, .prepare target source length)
  | .switch src target wait => some (src, .switch target wait)
  | .distribute src target package length alt m => some (src, .distribute target package length alt m)
  | .trainStart src c mode record _ => some (src, .trainStart c mode record)
  | .trainStop src c => some (src, .trainStop c)
  | .rollback src c => some (src, .rollback c)
  | .takeover src m sb => some (src, .takeover m sb)
  | .rollcallClear src => some (src, .rollcallClear)
  | .linkRetrain src die link => some (src, .linkRetrain die link)
  | .journalRead src first count dst => some (src, .journalRead first count dst)
  | .keyAlloc src c => some (src, .keyAlloc c)
  | .keyRetire src slot => some (src, .keyRetire slot)
  | .keyShare src slot c => some (src, .keyShare slot c)
  | .attest src c outlen request out keyOk nonce => some (src, .attest c outlen request out keyOk nonce)
  | .ownerSet src record length sigOk secver ownerId => some (src, .ownerSet record length sigOk secver ownerId)
  | .certRead src out outlen => some (src, .certRead out outlen)
  | .ideKey src port stream request wrapOk => some (src, .ideKey port stream request wrapOk)
  | _ => none

/-- The ward a command concerns: its WARD field on a physical function, the function's own on a virtual one. -/
def State.cmdWard (s : State) (x : Src) (op : HostOp) : Nat :=
  if x.func = 0 then (if op.wardScope then x.ward else 0xFF) else (s.wardOfVf x.port x.func).getD 0xFF

/-- The command leaves for another module of the domain. -/
def State.goesAway (s : State) (x : Src) : Bool := x.relay && x.dest != s.linkAddr

/-- This module fetches the command from its ring, takes it as legal and acts on it at once: it is not for another module
and does not wait for a boundary of a job on several modules, nor behind a command that does (R389, R39); no error of its
ward's tables is pending. -/
def State.takesHere (s : State) (x : Src) (op : HostOp) : Bool :=
  s.canFetch (srcKey x) && s.canIssue x.port x.func && cmdLegal x op && !s.goesAway x &&
    !s.holds (s.cmdWard x op) op && !(s.ward (s.cmdWard x op)).structBad

/-- The state after the command is fetched, numbered and journalled. -/
def State.taken (s : State) (x : Src) (op : HostOp) : State :=
  s.journalCmd x op.opc (cmdBytes x op) (s.cmdWard x op) (if cmdLegal x op && s.goesAway x then 2 else 0)

/-- What a command's meaning knows of where it came from. -/
def State.ctxOf (s : State) (x : Src) (op : HostOp) : OpCtx :=
  { jseq := s.jrnNext, w := if op.wardScope then s.cmdWard x op else 8, wait := x.wait, force := x.force, ring := srcKey x,
    tag := x.tag, port := x.port, func := x.func }

/-! ### Flits -/

/-- The link, the flit, what its checks found, and the type that a flit's command is for. -/
def flitCmd : Instr → Option (Nat × Flit × FlitCheck × Nat)
  | .flitIdle l f chk => some (l, f, chk, 0)
  | .flitData l f chk _ _ => some (l, f, chk, 1)
  | .flitReadReq l f chk _ => some (l, f, chk, 2)
  | .flitResp l f chk _ _ => some (l, f, chk, 3)
  | .flitReduce l f chk _ _ _ => some (l, f, chk, 5)
  | .flitMcast l f chk _ _ => some (l, f, chk, 6)
  | _ => none

/-- Link `k` takes the flit as good and in sequence, not one that it keeps for later (R183), with nothing of its own and no multicast flit
waiting to be sent and no NAK in it: `u` is `s` with the link's counts, credits and retry buffer brought up to date (R373, R375). -/
def State.accepts (s u : State) (k : Nat) (f : Flit) (chk : FlitCheck) : Prop :=
  let y := s.link k
  s.live = true ∧ k < 48 ∧ y.st = .up ∧ y.txq = [] ∧ s.mcWait = [] ∧ chk.crcOk = true ∧ chk.tagOk = true ∧ f.nak = false ∧ f.seq = y.rxNext ∧ f.type ≠ 0 ∧ s.isKept f = false ∧
  let z := ({ y with corrected := incSat y.corrected chk.corrected, rxCount := y.rxCount + 1, rxNext := (y.rxNext + 1) % 4096,
                     owed := y.owed.set f.vc (y.owed.getD f.vc 0 + 1) } : Link).ackTo f.ack
  OnlyLink s u k { z with credits := z.credits.set f.crvc (min (vcSize f.crvc) (z.credits.getD f.crvc 0 + f.crcnt)) }

/-- A flit for address `a` leaves on link `j` alone, at once: no takeover, no path in use, an empty queue with room. -/
def State.leavesOn (s : State) (a v j : Nat) : Prop :=
  s.tko = none ∧ s.xferPaths = [] ∧ s.portsTo a = [j] ∧ v < 4 ∧ (s.link j).txq = [] ∧ (s.link j).retry = [] ∧ 0 < (s.link j).credits.getD v 0

/-! ### Fault records -/

/-- One fault record is written: it has the next number and the fields of `r`, the other records stay, and nothing else
changes but the collector's own state, the pulses and messages sent, and, where faults are also noted on the host's
rings, the journal and the mirrors in host memory. -/
def Reports (s t : State) (r : FRec) : Prop :=
  t = { s with fresh := t.fresh, mem := t.mem, faults := t.faults, saf := t.saf, sent := t.sent, journal := t.journal,
               jrnNext := t.jrnNext, funcs := t.funcs } ∧
  t.saf.seqNext = s.saf.seqNext + 1 ∧
  (let e := t.faults.get ((s.saf.seqNext - 1) % faultRing)
   e.seq = s.saf.seqNext ∧ e.cls = r.cls ∧ e.scope = r.scope ∧ e.status = r.status ∧ e.ward = r.ward ∧ e.ctx = r.ctx ∧
   e.unit = r.unit ∧ e.die = r.die ∧ e.idx = r.idx ∧ e.src = r.src ∧ e.cause = r.cause ∧ e.akind = r.akind ∧
   e.op = r.op ∧ e.addr = r.addr ∧ e.detail = r.detail ∧ e.tick = s.tick ∧ e.stamp = s.stamp r.ward) ∧
  (∀ k, k ≠ (s.saf.seqNext - 1) % faultRing → t.faults.get k = s.faults.get k) ∧
  (s.saf.fallback = false → s.saf.ringAlways = false →
    t.mem = s.mem ∧ t.journal = s.journal ∧ t.jrnNext = s.jrnNext ∧ t.funcs = s.funcs)

end Sys2Proof.Machine
end

