-- ==== Sys2Proof/Certificates/Slice0/Obligations.lean ====
section
/-! DEFINITION. The statements about this model, from the numbered rules of the spec. -/

open Sys2Proof Sys2Proof.Machine

/-- For every command c, queue rest and state s: the step at s with c at the front of its queue answers exactly what exec
answers for c at s with the rest as its queue. With an empty queue the step answers s itself (the model's choice: log
entry 1).
(95_what_each_step_holds.md, R35) -/
def Obligations.StepRunsFrontCommand : Prop :=
  (∀ (c : Instr) (rest : List Instr) (s : State),
    step { s with pending := c :: rest } = exec c { s with pending := rest }) ∧
  (∀ s : State, step { s with pending := [] } = .next { s with pending := [] })

/-- For every state whose memory is in canonical form (addresses strictly rising, no entry equal to what an unlisted
address reads as), whatever command stands at the front: if the step answers a next state, its memory is in canonical
form. Two equal memories of this module are therefore equal data after any number of steps.
(R28, R35, R46) -/
def Obligations.MemoryFormKeptByEveryStep : Prop :=
  ∀ s t : State, Memory.wf s.mem = true → step s = .next t → Memory.wf t.mem = true

/-- Over all commands: whatever a step does, the module's variant (R1) is what it was, and the queue afterwards is the
queue before without its front command: no command's meaning adds, drops or reorders waiting commands.
(R1, R2) -/
def Obligations.VariantAndQueueUnderEveryStep : Prop :=
  ∀ s t : State, Memory.wf s.mem = true → step s = .next t → t.variant = s.variant ∧ t.pending = s.pending.tail

/-- The spec gives every command of the table an effect in every state (a refused access, a stop of a channel, a fault
record are states of the module): exec answers a next state for every command and every state, so a run of any length
never stops.
(R36, R160, R256, R436) -/
def Obligations.NothingStopsTheModule : Prop :=
  (∀ (c : Instr) (s : State), ∃ t, exec c s = .next t) ∧ ∀ (n : Nat) (s : State), s.runs n = true

/-- State.reset is the module with power applied and its boot not yet run: the queue is empty, memory lists nothing and is
in canonical form, every ward is disabled with beat number 0 and holds no die, every tile idle, normal, with pc 0, no
code and no exception recorded, every channel idle with its generator at 1, every ring disabled, every key slot free,
no journal record, the next journal and fault-record numbers 1. The life state off and the variant full are the
model's own fields.
(R162, R163, R164, R434, R511) -/
def Obligations.ResetLeavesTheModuleOff : Prop :=
  let s := State.reset
  s.pending = [] ∧ s.mem = [] ∧ Memory.wf s.mem = true ∧ (∀ a, s.rdByte a = 0) ∧
  (∀ w, (s.ward w).st = .disabled ∧ (s.ward w).num = 0 ∧ (s.ward w).dies = 0 ∧ (s.ward w).job = none) ∧
  (∀ i, (s.tile i).st = .idle ∧ (s.tile i).health = .normal ∧ (s.tile i).pc = 0 ∧ (s.tile i).codeEnd = 0 ∧
    (s.tile i).fault.word = 0 ∧ (∀ n, (s.tile i).areg n = 0) ∧ (∀ n, (s.tile i).kreg n = 0) ∧ (s.tile i).flags = 0 ∧
    (∀ j, genOf (s.tile i).gens j = 1)) ∧
  (∀ c, (s.chan c).st = .idle ∧ (s.chan c).gen = 1) ∧ (∀ k, (s.ring k).en = false ∧ (s.ring k).st = 0) ∧
  (∀ k, (s.slot k).st = .free) ∧ s.jrnNext = 1 ∧ s.saf.seqNext = 1 ∧ s.dieFenced = 0 ∧ s.life = .off

/-- For every well-formed instruction of the 21 tile opcodes (R125), with every operand at every value its encoding
admits: the decoder reads from the two words that the encoder writes exactly that instruction, on that tile.
(R125, R127, R130, R133, R138, R149, R151, R153, R154, R155, R140, R143) -/
def Obligations.TileInstructionsRoundTrip : Prop :=
  ∀ (c : Instr) (t : Nat) (w x : W64), c.wf = true → encodeTile c = some (t, w, x) → decodeTile t w x = .ok c

/-- In the other direction: where the decoder answers an instruction, it is a well-formed one and encoding it gives the
first word back, and the second word too where the instruction has two; a first word whose opcode the table calls
illegal (0x00 and 0x16 to 0x3F) is refused with cause ILL_OPCODE, whatever else the words hold.
(R125, R126) -/
def Obligations.TileWordsHaveOneMeaning : Prop :=
  ∀ (t : Nat) (w x : W64), t < 512 →
    (∀ c, decodeTile t w x = .ok c → c.wf = true ∧ ∃ y, encodeTile c = some (t, w, y) ∧ (wordsOf w = 2 → y = x)) ∧
    ((wf w 63 58 = 0 ∨ 0x16 ≤ wf w 63 58) → decodeTile t w x = .error 0x01)

/-- For every state in which tile i may issue and fetches the instruction, and whose next word lies in the code: SETA answers
the state in which a[AD] holds the extension word (mode 00), a[AS] + sext(IMM) (01) or bits 47:0 of the word at a[AS] + 8
sext(IMM) forced to a multiple of 8 (10, base and word inside the tile store, its bank not under clearing); ADDA a[AS] + a[AT],
a[AS] - a[AT] or a[AS] + k[K] sext(IMM); SETK IMM, k[KS] + IMM, bits 23:0 of the word at a[AS], or a[AS] bits 23:0. Nothing else
changes but what issuing changes. A load from outside the store takes VIEW_RANGE; one from a bank under clearing stalls. A
register write leaves every other register, and a0, as it was: a0 reads 0. Answered with a next state under these conditions:
SETA, ADDA, SETK. (R117, R120, R141, R153, R154, R155, R156) -/
def Obligations.RegisterInstructionsWriteOneRegister : Prop :=
  (∀ (x : Tile) (n m : Nat) (v : Addr), (x.setA n v).areg m = (if m = n ∧ n ≠ 0 then v else x.areg m) ∧ (x.setA 0 v) = x ∧ x.areg 0 = 0) ∧
  (∀ (x : Tile) (n m : Nat) (v : BitVec 24), (x.setK n v).kreg m = if m = n then v else x.kreg m) ∧
  ∀ (s : State) (i w : Nat) (x : Tile), x = s.tile i → s.nextPc i < x.codeEnd →
    (∀ f : SetaF, s.fetches i (.seta i f) w →
      (f.mode = 0 → Answers (.seta i f) s fun t => Issued s t i (.seta i f) (x.setA f.ad f.ext) (s.nextPc i)) ∧
      (f.mode = 1 → Answers (.seta i f) s fun t => Issued s t i (.seta i f) (x.setA f.ad (x.areg f.as + f.imm.signExtend 48)) (s.nextPc i)) ∧
      (f.mode = 2 → ∀ off, off = (x.areg f.as + 8 * f.imm.signExtend 48).toNat / 8 * 8 →
        ((x.areg f.as).toNat < storeBytes → off + 8 ≤ storeBytes →
          (x.anyClearing [off / 65536] = false → Answers (.seta i f) s fun t =>
            Issued s t i (.seta i f) (x.setA f.ad (BitVec.ofNat 48 (s.storeWord i off))) (s.nextPc i)) ∧
          (x.anyClearing [off / 65536] = true → Answers (.seta i f) s fun t => Stalls s t i)) ∧
        (storeBytes ≤ (x.areg f.as).toNat ∨ storeBytes < off + 8 → ∃ o, exec (.seta i f) s = .next (s.takeExc w i 0x10 o)))) ∧
    (∀ f : AddaF, s.fetches i (.adda i f) w →
      ∀ v, (f.mode = 0 ∧ v = x.areg f.as + x.areg f.at' ∨ f.mode = 1 ∧ v = x.areg f.as - x.areg f.at' ∨
            f.mode = 2 ∧ v = x.areg f.as + (x.kreg f.k).zeroExtend 48 * f.imm.signExtend 48) →
        Answers (.adda i f) s fun t => Issued s t i (.adda i f) (x.setA f.ad v) (s.nextPc i)) ∧
    (∀ f : SetkF, s.fetches i (.setk i f) w →
      (∀ v, (f.mode = 0 ∧ v = f.imm ∨ f.mode = 1 ∧ v = x.kreg f.ks + f.imm ∨ f.mode = 3 ∧ v = (x.areg f.as).setWidth 24) →
        Answers (.setk i f) s fun t => Issued s t i (.setk i f) (x.setK f.kd v) (s.nextPc i)) ∧
      (f.mode = 2 → ∀ off, off = (x.areg f.as).toNat / 8 * 8 →
        (off + 8 ≤ storeBytes →
          (x.anyClearing [off / 65536] = false → Answers (.setk i f) s fun t =>
            Issued s t i (.setk i f) (x.setK f.kd (BitVec.ofNat 24 (s.storeWord i off))) (s.nextPc i)) ∧
          (x.anyClearing [off / 65536] = true → Answers (.setk i f) s fun t => Stalls s t i)) ∧
        (storeBytes < off + 8 → ∃ o, exec (.setk i f) s = .next (s.takeExc w i 0x10 o))))

/-- With the tile fetching the instruction and the target inside the code. LOOP with trip count 0 goes on at END + 1 and pushes
nothing; otherwise, with room on the stack of 4, it sets k[K], pushes (PC + 1, END, K) and goes on; without room it takes
LOOP_OVER. ENDL at the top entry's end sets k[K] to 0, pops and goes on when k[K] is 0 or 1, and otherwise subtracts 1 and goes
to the entry's start; anywhere else it takes LOOP_UNDER. A JMP whose condition fails goes on; a taken one, with at least POP
entries on the stack, pops them and goes to TARGET, and condition 101 subtracts 1 from k[K]; with fewer it takes LOOP_UNDER.
Nothing else changes: the flags stay. Answered with a next state under these conditions: LOOP, ENDL, JMP. (R117, R121, R149,
R150, R151, R159) -/
def Obligations.LoopsAndJumpsGoWhereTheSpecSays : Prop :=
  ∀ (s : State) (i w : Nat) (x : Tile), x = s.tile i →
    (∀ (f : LoopF) (n : BitVec 24), s.fetches i (.loop i f) w → n = (if f.src then x.kreg f.k else BitVec.ofNat 24 f.count) →
      (n = 0 → f.fin + 1 < x.codeEnd → Answers (.loop i f) s fun t => Issued s t i (.loop i f) (x.setK f.k n) (f.fin + 1)) ∧
      (n ≠ 0 → x.loops.length < 4 → s.nextPc i < x.codeEnd → Answers (.loop i f) s fun t =>
        Issued s t i (.loop i f) { x.setK f.k n with loops := ⟨x.pc + 1, f.fin, f.k⟩ :: x.loops } (s.nextPc i)) ∧
      (n ≠ 0 → 4 ≤ x.loops.length → exec (.loop i f) s = .next (s.takeExc w i 0x13 0))) ∧
    (s.fetches i (.endl i) w →
      (∀ (e : LoopEnt) (r : List LoopEnt), x.loops = e :: r → e.fin = x.pc →
        ((x.kreg e.k).toNat ≤ 1 → s.nextPc i < x.codeEnd →
          Answers (.endl i) s fun t => Issued s t i (.endl i) { x.setK e.k 0 with loops := r } (s.nextPc i)) ∧
        (1 < (x.kreg e.k).toNat → e.start < x.codeEnd →
          Answers (.endl i) s fun t => Issued s t i (.endl i) (x.setK e.k (x.kreg e.k - 1)) e.start)) ∧
      ((∀ e ∈ x.loops.head?, e.fin ≠ x.pc) → exec (.endl i) s = .next (s.takeExc w i 0x14 0))) ∧
    (∀ (f : JmpF) (taken : Prop), s.fetches i (.jmp i f) w →
      (taken ↔ f.cond = 0 ∨ (f.cond = 1 ∨ f.cond = 5) ∧ x.kreg f.k ≠ 0 ∨ f.cond = 2 ∧ x.kreg f.k = 0 ∨
        f.cond = 3 ∧ x.flags &&& f.fmask = f.fmask ∨ f.cond = 4 ∧ x.flags &&& f.fmask ≠ f.fmask) →
      (¬ taken → s.nextPc i < x.codeEnd → Answers (.jmp i f) s fun t => Issued s t i (.jmp i f) x (s.nextPc i)) ∧
      (taken → f.pop ≤ x.loops.length → f.target < x.codeEnd → Answers (.jmp i f) s fun t =>
        Issued s t i (.jmp i f) { (if f.cond = 5 then x.setK f.k (x.kreg f.k - 1) else x) with loops := x.loops.drop f.pop } f.target) ∧
      (taken → x.loops.length < f.pop → exec (.jmp i f) s = .next (s.takeExc w i 0x14 0)))

/-- For every state in which tile i fetches the instruction: BEAT leaves the tile at its beat, HALT halted, WAITF waiting with
its operands; SIG whose target lies in a die of the ward adds the pulse to those under way, any other takes SIG_TARGET; FENCE
goes on when no operation of its classes is under way and otherwise stalls, the pc kept. A pulse under way from src to tgt, at a
tile that is not fenced, is set in the flags there (at the tile that has the role of tgt, where the job moved it) and nothing
else of any tile changes. A waiting tile whose condition holds runs on: with CLR the masked flags are cleared except the
stand-ins, without it they stay; while the condition fails nothing changes. Answered with a next state under these conditions:
BEAT, FENCE, SIG, FLAG_ARRIVE, WAITF, WAITF_WAKE, HALT. (R117, R121, R134, R145, R146, R147, R148, R152) -/
def Obligations.FlagInstructionsAndTheirArrivals : Prop :=
  ∀ (s : State) (i w : Nat) (x : Tile), x = s.tile i →
    (s.fetches i (.beat i) w → Answers (.beat i) s fun t => Issued s t i (.beat i) { x with st := .atBeat } (s.nextPc i)) ∧
    (s.fetches i (.halt i) w → Answers (.halt i) s fun t => Issued s t i (.halt i) { x with st := .halted } (s.nextPc i)) ∧
    (∀ f, s.fetches i (.waitf i f) w → Answers (.waitf i f) s fun t =>
      Issued s t i (.waitf i f) { x with st := .atWait, waiting := some f } (s.nextPc i)) ∧
    (∀ f : SigF, s.fetches i (.sig i f) w →
      ((s.ward w).holds (f.tgt / 64) = true → s.nextPc i < x.codeEnd → Answers (.sig i f) s fun t =>
        Issued s t i (.sig i f) { x with sigs := x.sigs ++ [(f.tgt, f.fmask)] } (s.nextPc i)) ∧
      ((s.ward w).holds (f.tgt / 64) = false → exec (.sig i f) s = .next (s.takeExc w i 0x16 (sat32 f.tgt)))) ∧
    (∀ cls, s.fetches i (.fence i cls) w →
      (s.classBusy i cls = false → s.nextPc i < x.codeEnd → Answers (.fence i cls) s fun t => Issued s t i (.fence i cls) x (s.nextPc i)) ∧
      (s.classBusy i cls = true → Answers (.fence i cls) s fun t => Stalls s t i)) ∧
    (∀ src tgt m r u k, takeSig tgt (s.tile src).sigs = some (m, r) → s.wardOfDie (tgt / 64) = some u → k = (s.ward u).redirect tgt →
      (s.tile k).health ≠ .fenced → k ≠ src → Answers (.flagArrive src tgt) s fun t =>
        t.tile k = (s.tile k).setFlags m ∧ t.tile src = { s.tile src with sigs := r } ∧
        (∀ j, j ≠ k → j ≠ src → t.tile j = s.tile j) ∧ t = { s with tiles := t.tiles }) ∧
    (∀ f : WaitfF, x.st = .atWait → x.waiting = some f →
      (waitHolds f x.flags = true → x.pc < x.codeEnd ∨ x.proofs ≠ [] → Answers (.waitfWake i) s fun t => ∃ n : W32,
        OnlyTile { s with fresh := t.fresh } t i
          { x with st := .running, waiting := none, stall := n, flags := if f.clr then (x.flags &&& ~~~f.fmask) ||| x.standIn else x.flags }) ∧
      (waitHolds f x.flags = false → exec (.waitfWake i) s = .next s))

/-- For a running sum whose significand is a 22-bit two's complement number and a non-zero partial p below 2^20 in
magnitude with exponent f. An empty sum takes (p, f) and no draw. Otherwise, with g the lower and e1 the higher
exponent, t the exact aligned sum and u the draw (13 bits, taken only under SR): the result is t rounded to 2^(e1 -
g), or, where that does not fit, t rounded with the same u one binary place higher at e1 + 1, counted once; and the
result fits in every case, its exponent never falls, its poison bit is the sum's or the partial's. RNE is the nearest
integer, ties to even; SR the floor of t / 2^d + u / 8192.
(R99) -/
def Obligations.RunningSumRoundsOnceAndFits : Prop :=
  (∀ (t : Int) (d : Nat), 2 * |t - roundDiv .rne t d 0 * 2 ^ d| ≤ 2 ^ d ∧
    (2 * |t - roundDiv .rne t d 0 * 2 ^ d| = 2 ^ d → roundDiv .rne t d 0 % 2 = 0)) ∧
  (∀ (t : Int) (d u : Nat), roundDiv .sr t d u * (2 ^ d * 8192) ≤ t * 8192 + u * 2 ^ d ∧
    t * 8192 + u * 2 ^ d < (roundDiv .sr t d u + 1) * (2 ^ d * 8192)) ∧
  ∀ (rnd : Rnd) (r : RunSum) (gen : W32) (p f : Int) (bad : Bool), p ≠ 0 → |p| < 2 ^ 20 → -2097152 ≤ r.m → r.m ≤ 2097151 →
    ∃ (q : RunSum) (gen' : W32) (n : Nat), addPartial rnd r gen p f bad = (q, gen', n) ∧
      q.empty = false ∧ -2097152 ≤ q.m ∧ q.m ≤ 2097151 ∧ q.poison = (r.poison || bad) ∧
      (r.empty = true → q.m = p ∧ q.e = f ∧ gen' = gen ∧ n = 0) ∧
      (r.empty = false → ∀ g e1 t u, g = min r.e f → e1 = max r.e f → t = r.m * 2 ^ (r.e - g).toNat + p * 2 ^ (f - g).toNat →
        u = (if rnd = .sr then (genDraw gen).1 else 0) → r.e ≤ q.e ∧ gen' = (if rnd = .sr then (genDraw gen).2 else gen) ∧
        (let m := roundDiv rnd t (e1 - g).toNat u
         (-2097152 ≤ m ∧ m ≤ 2097151 → q.m = m ∧ q.e = e1 ∧ n = 0) ∧
         (m < -2097152 ∨ 2097151 < m → q.m = roundDiv rnd t (e1 + 1 - g).toNat u ∧ q.e = e1 + 1 ∧ n = 1)))

/-- One step shifts the 32-bit state right by one and, where the bit shifted out is 1, XORs 0x8020_0003 in (x^32 + x^22 +
x^2 + x + 1). A draw is bits 12:0 of the state, and then 13 steps. Writing a lane's generator stores the value, 1 in
place of 0, and no other lane's changes; a reseed is such a write of every lane. No lane's state is ever 0: whatever
the table of generators holds, a read gives a value that is not 0, and a step of a state that is not 0 is not 0.
(R107) -/
def Obligations.LaneGeneratorsStepAndNeverReachZero : Prop :=
  (∀ s : W32, genStep s = if s.getLsbD 0 then (s >>> 1) ^^^ 0x80200003#32 else s >>> 1) ∧
  (∀ s : W32, (genDraw s).1 = (s &&& 0x1FFF#32).toNat ∧
    (genDraw s).2 = genStep (genStep (genStep (genStep (genStep (genStep (genStep (genStep (genStep (genStep (genStep (genStep
      (genStep s))))))))))))) ∧
  (∀ s : W32, s ≠ 0 → genStep s ≠ 0 ∧ (genDraw s).2 ≠ 0) ∧
  (∀ (g : Tab W32) (j k : Nat) (s : W32), genOf (setGen g j s) k = if k = j then (if s = 0 then 1 else s) else genOf g k) ∧
  (∀ (g : Tab W32) (j : Nat), genOf g j ≠ 0) ∧
  (∀ (seed : W32) (b j : Nat), j < 256 → laneSeed seed b j ≠ 0 ∧ genOf (reseedAll seed b) j = laneSeed seed b j)

/-- For every code of magnitude at most 127 and every scale byte with exponent e: a code of 0 gives +0; where |code| x 2^e
is at most the largest finite FP32 value the result is a finite FP32 word of exactly that value; where it is larger,
infinity of the code's sign; a no-value marker gives the poison pattern 0x7FC1_0000. No code expands to a NaN. (R44
adds that only codes with e = 127 overflow; a B4 or B8 code of 4 or more does at e = 126 too: the model's reading, log
entry 54.)
(R41, R43, R44, R45) -/
def Obligations.CodesExpandToTheirValue : Prop :=
  ∀ sc : Byte, expandCode none sc = 0x7FC10000#32 ∧ expandCode (some 0) sc = 0 ∧
    ∀ v : Int, v ≠ 0 → |v| ≤ 127 →
      ((⟨v, sc.toInt⟩ : Dy).abs.le ⟨2 ^ 24 - 1, 104⟩ = true →
        f32Finite (expandCode (some v) sc) = true ∧ ((f32Val (expandCode (some v) sc)).sub ⟨v, sc.toInt⟩).m = 0) ∧
      ((⟨v, sc.toInt⟩ : Dy).abs.le ⟨2 ^ 24 - 1, 104⟩ = false → expandCode (some v) sc = f32Inf (decide (v < 0)))

/-- A well element starts as +0 and changes only by promotion. For every running sum and every element that is not a NaN,
under RNE and under SR, the promoted element is not a NaN; an element that holds infinity keeps its bits and no draw
is taken; an empty running sum changes neither the element nor the generator; and an exact sum of 0 gives +0 with no
draw. For every FP32 word: its BF16 conversion is 0x7FC1 exactly when the word is the poison pattern; a NaN converts
to a NaN with bit 6 set and no other word converts to a NaN; every BF16 pattern that is no NaN is what its FP32 value
(the pattern with 16 zero bits appended) converts back to.
(R45, R46, R102) -/
def Obligations.PromotionsAndConversionsMakeNoNaN : Prop :=
  (∀ (rnd : Rnd) (r : RunSum) (w g : W32), f32IsNan w = false →
    f32IsNan (promoteElem rnd r w g).1 = false ∧
    (f32IsInf w = true → (promoteElem rnd r w g).1 = w ∧ (promoteElem rnd r w g).2.1 = g) ∧
    (r.empty = true → promoteElem rnd r w g = (w, g, 0)) ∧
    (r.empty = false → f32IsInf w = false → ((f32Val w).add ⟨r.m, r.e⟩).m = 0 → promoteElem rnd r w g = (0, g, 0)) ∧
    (r.empty = false → f32IsInf w = false → ((f32Val w).add ⟨r.m, r.e⟩).m ≠ 0 → rnd = .sr →
      (promoteElem rnd r w g).2.1 = (genDraw g).2)) ∧
  (∀ w : W32, (f32ToBf16 w = 0x7FC1#16 ↔ w = 0x7FC10000#32) ∧
    (f32IsNan w = true → 0x7F80 < (f32ToBf16 w).toNat % 2 ^ 15 ∧ (f32ToBf16 w).getLsbD 6 = true) ∧
    (f32IsNan w = false → (f32ToBf16 w).toNat % 2 ^ 15 ≤ 0x7F80)) ∧
  ∀ h : W16, h.toNat % 2 ^ 15 ≤ 0x7F80 → f32ToBf16 (bf16ToF32 h) = h

/-- With tile i fetching the instruction. LATCH with no load under way and no replay on the tile's latches: where every unit of
its view lies in the store, the load is under way with those offsets; where one does not, VIEW_RANGE with the lowest bad offset;
while a load is under way or a replay uses the latches, it stalls and its pc is kept. The load's completion, with no replay, no
clearing of a bank that it reads and no uncorrectable word in the store, puts the plates read from the store into the shadow
latches and changes nothing else. SWAP stalls while a load is under way and otherwise exchanges active and shadow latches and
nothing else. Answered with a next state under these conditions: LATCH, LATCH_COMPLETE, SWAP. (R69, R121, R123, R127, R128,
R129) -/
def Obligations.LatchesLoadAndSwap : Prop :=
  ∀ (s : State) (i w : Nat) (x : Tile), x = s.tile i →
    (∀ (f : LatchF) a v unit n r, s.fetches i (.latch i f) w → viewsOf (.latch i f) = (a, v, unit, n) :: r →
      (x.latching = none → s.replaying i = false →
        (∀ offs, s.walkView i a v unit n = .ok offs → s.nextPc i < x.codeEnd → Answers (.latch i f) s fun t =>
          Issued s t i (.latch i f) { x with latching := some ⟨f, offs⟩, lastLatch := some ⟨f, offs⟩ } (s.nextPc i)) ∧
        (∀ o, s.walkView i a v unit n = .error o → exec (.latch i f) s = .next (s.takeExc w i 0x10 (sat32 o)))) ∧
      (x.latching ≠ none ∨ s.replaying i = true → Answers (.latch i f) s fun t => Stalls s t i)) ∧
    (∀ j, x.latching = some j → s.replaying i = false → x.anyClearing (banksOf j.offs (plateSize j.f.blk j.f.fmt)) = false →
      x.badWords = [] → Answers (.latchComplete i) s fun t =>
        OnlyTile s t i { x with shd := loadLatch (s.rdStore i) j, shdSrc := some j, latching := none, rerun := false }) ∧
    (s.fetches i (.swap i) w →
      (x.latching = none → s.nextPc i < x.codeEnd → Answers (.swap i) s fun t =>
        Issued s t i (.swap i) { x with act := x.shd, shd := x.act, actSrc := x.shdSrc, shdSrc := x.actSrc } (s.nextPc i)) ∧
      (x.latching ≠ none → Answers (.swap i) s fun t => Stalls s t i))

/-- With tile i fetching a pass (PASS, or PASST when tr is true) and room in the queue of the array (two passes, one streaming).
Where every streamed row lies in the store, the latches can be turned (PASST) and at most 64 carry entries would be open: the
pass joins the queue, the scoreboard counts of its wells rise by its promotions, the lane generators are reseeded where it names
a seed, and nothing else changes but the carry plan. A row outside the store takes VIEW_RANGE, a PASST of latches that cannot be
turned LATCH_MISMATCH, a 65th carry entry CARRY_OVERFLOW; without room it stalls. PASS_STREAM_START, with no bank of its run
under clearing and no uncorrectable word in the store, marks the oldest waiting pass as streaming, with the latches that are
active then, checked where the witness is enabled and the tile is normal; a degraded tile counts it as skipped; nothing else
changes, and nothing at all while a replay uses the latches. Answered with a next state under these conditions: PASS, PASST,
PASS_STREAM_START. (R72, R75, R77, R82, R85, R103, R109, R110, R123, R129, R130, R131) -/
def Obligations.PassesJoinTheArrayQueue : Prop :=
  (∀ (s : State) (i w : Nat) (x : Tile) (tr : Bool) (f : PassF) (c : Instr), x = s.tile i →
    c = (if tr then .passt i f else .pass i f) → s.fetches i c w →
      (x.passRoom = true →
        (∀ rows, s.walkView i f.as f.vs 272 (f.vcnt + 255) = .ok rows →
          (tr = true → x.act.turnable = true) → (3 < f.pi → carryNeed f x.plan ≤ 64) → s.nextPc i < x.codeEnd →
          Answers c s fun t => ∃ (y : Tile) (run : PassRun), Issued s t i c y (s.nextPc i) ∧
            y = { x with passes := x.passes ++ [run], plan := y.plan, board := y.board,
                         gens := if f.seed = 0 then x.gens else reseedAll (x.seeds.get f.seed) (s.ward w).jobBeat } ∧
            run.f = f ∧ run.trans = tr ∧ run.rows = rows ∧ run.started = false ∧ run.point = 0 ∧ run.mismatched = false ∧
            (∀ u, y.board.get u = x.board.get u + (planPass tr f x.plan).proms.count u)) ∧
        (∀ o, s.walkView i f.as f.vs 272 (f.vcnt + 255) = .error o → exec c s = .next (s.takeExc w i 0x10 (sat32 o))) ∧
        (∀ rows, s.walkView i f.as f.vs 272 (f.vcnt + 255) = .ok rows →
          (tr = true → x.act.turnable = false → exec c s = .next (s.takeExc w i 0x11 0)) ∧
          ((tr = true → x.act.turnable = true) → 3 < f.pi → 64 < carryNeed f x.plan →
            exec c s = .next (s.takeExc w i 0x12 (sat32 (carryNeed f x.plan)))))) ∧
      (x.passRoom = false → Answers c s fun t => Stalls s t i)) ∧
  ∀ (s : State) (i : Nat) (x : Tile) (pre post : List PassRun) (p : PassRun), x = s.tile i →
    x.passes = pre ++ p :: post → (∀ q ∈ pre, q.started = true) → p.started = false →
    (s.replaying i = false → x.anyClearing (banksOf p.rows 272) = false → x.badWords = [] → Answers (.passStreamStart i) s fun t =>
      OnlyTile s t i { x with
        passes := pre ++ { p with started := true, latch := x.act, latchSrc := x.actSrc, checked := p.f.wit && x.health == .normal } :: post,
        skipped := if p.f.wit && x.health == .degraded then incSat x.skipped else x.skipped }) ∧
    (s.replaying i = true → exec (.passStreamStart i) s = .next s)

/-- For a streaming oldest pass with no bank of its run under clearing. Where a forced promotion of an open carry of well u
stands before it, only well u, its carry entry, its count (less one), the generators and the counters of promotions change.
Otherwise the partials of the point's vector (an empty position's as code 0 under scale -126) enter the running sums and what
falls due is promoted, as the operation advance says; where the pass is not checked or the witness sums agree, and no mismatch
was noted before, only the well of that vector and its count, its carry entry, the generators and counters change; the pass
moves on by one point and leaves the queue after its last. Sums that differ in a checked pass for the first time are its
mismatch besides. Every other well, every other tile, all memory and every register of the tile stay. Answered with a next state
under these conditions: PROMOTION. (R81, R82, R100, R101, R102, R103, R104, R108, R109, R186) -/
def Obligations.PromotionTouchesOnlyItsWell : Prop :=
  ∀ (s : State) (i : Nat) (e : CellErr) (x : Tile) (p : PassRun) (rest : List PassRun), x = s.tile i →
    x.passes = p :: rest → p.started = true → x.anyClearing (banksOf p.rows 272) = false →
    (∀ u more, p.forced = u :: more → Answers (.promotion i e) s fun t => ∃ y : Tile, OnlyTile s t i y ∧
      y = { x with wells := y.wells, carries := y.carries, board := x.board.modify u (· - 1), gens := y.gens,
                   nonfinite := y.nonfinite, forcedCnt := y.forcedCnt, passes := { p with forced := more } :: rest } ∧
      (∀ v, v ≠ u → y.wells.get v = x.wells.get v)) ∧
    (p.forced = [] → p.mismatched = false → ∀ v xs z, v = p.point / p.perVec → xs = s.passVec i p v →
      z = { x.advance p xs (s.passExp i p v) e with
              skipWells := if s.posEmpty i v then (x.skipWells ++ [p.wellOf v]).dedup else x.skipWells } →
      ∀ sm sw : Int, checkSums p.latch p.trans xs (p.segsOf p.point) = (sm, sw) →
      ((p.checked = true → mod16 (sm + e.main) = mod16 (sw + e.wit)) → Answers (.promotion i e) s fun t => ∃ y : Tile, OnlyTile s t i y ∧
        y = { z with passes := if p.points ≤ p.point + 1 then rest else { p with point := p.point + 1 } :: rest } ∧
        y = { x with wells := y.wells, carries := y.carries, board := y.board, gens := y.gens, nonfinite := y.nonfinite, renorm := y.renorm,
                     skipWells := y.skipWells, passes := y.passes } ∧
        (∀ k, k ≠ p.wellOf v → y.wells.get k = x.wells.get k ∧ y.board.get k = x.board.get k)) ∧
      (p.checked = true → mod16 (sm + e.main) ≠ mod16 (sw + e.wit) → Answers (.promotion i e) s fun t => ∃ u : State,
        OnlyTile s u i { z with passes := if p.points ≤ p.point + 1 then rest
                                          else { p with point := p.point + 1, mismatched := true } :: rest } ∧
        t = u.mismatch i p (mod16 (sm + e.main)) (mod16 (sw + e.wit))))

/-- With tile i fetching the instruction and no named well busy (its scoreboard count 0, and no vector of a pass in flight left
for it). WZERO makes each named well +0 and unpoisoned, closes its carry entries, and leaves every other well; with a busy well
it stalls. DRAIN, with no drain under way, no named well held for a verdict and every unit of its views in the store, has its
result under way: wells without an open carry keep their contents, and memory does not change yet; a unit outside the store
takes VIEW_RANGE. WZERO's completion takes the oldest from those under way. DRAIN's completion, with no bank that it uses under
clearing and without poison, stores the cells of its result in its tile's store and changes no other byte. (An add-in, and the
completion, meet no uncorrectable word here.) Answered with a next state under these conditions: WZERO, WZERO_COMPLETE, DRAIN,
DRAIN_COMPLETE. (R104, R110, R111, R112, R121, R133, R134, R135, R136) -/
def Obligations.WellsClearAndDrain : Prop :=
  ∀ (s : State) (i w : Nat) (x : Tile), x = s.tile i →
    (∀ f : WzeroF, s.fetches i (.wzero i f) w →
      ((∀ u ∈ wellsOf f.wb f.wc, x.wellBusy u = false) → s.nextPc i < x.codeEnd → Answers (.wzero i f) s fun t => ∃ y : Tile,
        Issued s t i (.wzero i f) y (s.nextPc i) ∧
        y = { x with wells := y.wells, carries := y.carries, plan := y.plan, skipWells := y.skipWells, zeroing := x.zeroing ++ [f] } ∧
        (∀ u ∈ wellsOf f.wb f.wc, y.wells.get u = ({} : Well) ∧ u ∉ y.skipWells ∧ ∀ c ∈ y.carries, c.well ≠ u) ∧
        (∀ u, u ∉ wellsOf f.wb f.wc → y.wells.get u = x.wells.get u)) ∧
      ((∃ u ∈ wellsOf f.wb f.wc, x.wellBusy u = true) → Answers (.wzero i f) s fun t => Stalls s t i)) ∧
    (Answers (.wzeroComplete i) s fun t => OnlyTile s t i { x with zeroing := x.zeroing.tail }) ∧
    (∀ f : DrainF, s.fetches i (.drain i f) w →
      ((∃ u ∈ wellsOf f.wb f.wc, x.wellBusy u = true ∨ u ∈ x.held) ∨ x.draining ≠ none → Answers (.drain i f) s fun t => Stalls s t i) ∧
      ((∀ u ∈ wellsOf f.wb f.wc, x.wellBusy u = false ∧ u ∉ x.held) → x.draining = none →
        (∀ o, s.drainOffs i f = .error o → exec (.drain i f) s = .next (s.takeExc w i 0x10 (sat32 o))) ∧
        (∀ o, s.drainOffs i f = .ok o → s.nextPc i < x.codeEnd → (f.aie = true → x.badWords = []) → Answers (.drain i f) s fun t =>
          ∃ (y : Tile) (l : Landing), Issued s t i (.drain i f) y (s.nextPc i) ∧
          y = { x with wells := y.wells, carries := y.carries, plan := y.plan, gens := y.gens, nonfinite := y.nonfinite,
                       forcedCnt := y.forcedCnt, draining := some (f, l) } ∧
          (∀ u, (∀ c ∈ x.carries, c.well ≠ u) → y.wells.get u = x.wells.get u)))) ∧
    (∀ f l, x.draining = some (f, l) → x.anyClearing ((l.cells.map fun c => c.1 / 65536).dedup ++ l.reads) = false → x.badWords = [] →
      l.poisonAt = [] → Answers (.drainComplete i) s fun t =>
      OnlyTile { s with mem := t.mem, sites := t.sites, wards := t.wards } t i { x with draining := none, drained := true } ∧
      (∀ v, (s.ward v).statZeroed = false → t.ward v = s.ward v) ∧
      (l.site = none → t.sites = s.sites) ∧ (∀ a, (∀ o b, (o, b) ∈ l.cells → tileBase i + o ≠ a) → t.rdByte a = s.rdByte a) ∧
      (∀ o b, (o, b) ∈ l.cells → (∀ b', (o, b') ∈ l.cells → b' = b) → t.rdByte (tileBase i + o) = b))

/-- Over every state whose next number is at least 1 and every record: writing it gives it the next sequence number, the
beat number or tick of the moment and the module's tick, keeps every field it came with, puts it at its number's place
in the ring of records, leaves every other place, and adds 1 to the next number; no tile, ward, channel or other unit
changes. Host memory, the journal and the MSI-X tables change only where faults are also noted on the host's rings.
(R485, R486, R491, R492, R496) -/
def Obligations.FaultRecordsAreNumberedAndKept : Prop :=
  ∀ (s : State) (r : FRec), 1 ≤ s.saf.seqNext → Reports s (s.report r) r

/-- For every state with fault number at least 1, every tile i of ward w and every cause: the tile is left with SEQ_FAULT
valid, the cause, the pc of the instruction and the detail, and the ward's beat number; it is stopped, its pc and
registers as they were but for flags that its own stand-ins raise at itself; a record of class 0x02 with scope, place
and cause is written; the job of ward w faults at its next boundary with ST_PROTECTION unless a fault was noted
before, and no other ward changes; a tile that is no target of the stopped tile's stand-in flags keeps its flags.
(R159, R160, R164, R165, R486, R539) -/
def Obligations.ExceptionsStopTheTile : Prop :=
  ∀ (s t : State) (w i cause : Nat) (detail : W32), 1 ≤ s.saf.seqNext → t = s.takeExc w i cause detail →
    (t.tile i).fault = { valid := true, cause := cause, pc := (s.tile i).pc, detail := detail } ∧
    (t.tile i).faultBeat = (s.ward w).num ∧ (t.tile i).st = .stopped ∧ (t.tile i).pc = (s.tile i).pc ∧
    (∀ n, (t.tile i).areg n = (s.tile i).areg n ∧ (t.tile i).kreg n = (s.tile i).kreg n) ∧
    (∀ j, j ≠ i → ∃ m, t.tile j = { s.tile j with flags := (s.tile j).flags ||| m, standIn := (s.tile j).standIn ||| m }) ∧
    (∀ j, j ≠ i → (∀ p ∈ s.standIns i, (s.ward w).redirect p.1 ≠ j) → t.tile j = s.tile j) ∧
    (∀ u, u ≠ w → t.ward u = s.ward u) ∧
    (∀ j, (s.ward w).job = some j → t.ward w = { s.ward w with job := some { j with fault := some (j.fault.getD .protection) } }) ∧
    (let e := t.faults.get ((s.saf.seqNext - 1) % faultRing)
     e.cls = 2 ∧ e.status = St.protection.code ∧ e.ward = w ∧ e.die = i / 64 ∧ e.idx = i % 64 ∧ e.cause = cause) ∧
    (s.saf.fallback = false → s.saf.ringAlways = false → ∀ a, t.rdByte a = s.rdByte a)

/-- For recorded check points sig (sm, sw) and as many replayed ones sr: the verdict is witness at fault exactly when the
partner's own witness (where it checks) agreed throughout the replay and sr = sm at every recorded check point; main
path at fault exactly when not so, the partner agreed, and sr = sw wherever sm and sw differ and sr = sm elsewhere;
all three differ in every other case.
(R84) -/
def Obligations.VerdictsFollowTheTable : Prop :=
  ∀ (sig sr : List (W16 × W16)) (checks : Bool), sig.length = sr.length →
    let clean := checks = true → ∀ r ∈ sr, r.1 = r.2
    let asMain := ∀ k (h : k < sig.length) (h' : k < sr.length), sr[k].1 = sig[k].1
    let asWit := ∀ k (h : k < sig.length) (h' : k < sr.length),
      (sig[k].1 ≠ sig[k].2 → sr[k].1 = sig[k].2) ∧ (sig[k].1 = sig[k].2 → sr[k].1 = sig[k].1)
    (clean ∧ asMain → verdictOf sig sr checks = 0) ∧
    (clean ∧ ¬ asMain ∧ asWit → verdictOf sig sr checks = 1) ∧
    (¬ (clean ∧ asMain) ∧ ¬ (clean ∧ asWit) → verdictOf sig sr checks = 2)

/-- PROOF_RUN_START marks the tile's oldest proof run as started and changes nothing else. PROOF_VERDICT for a started run whose
pass no longer streams, with verdict v over the recorded check points and the replay. v = 0, witness at fault: the witness
counter rises, the tile is witness-degraded, the run leaves its queue, its wells are released but for those of later runs; the
partner reloads its shadow latch; a record is written; no tile is fenced. v = 1 and v = 2: the tile is fenced, and for 2 its
partner is too. Where no run has started nothing changes. Answered with a next state under these conditions: PROOF_RUN_START,
PROOF_VERDICT. (R83, R84, R85, R86, R87, R92) -/
def Obligations.ProofRunsCompleteAsTheVerdictSays : Prop :=
  ∀ (s : State) (i : Nat) (x : Tile) (p : Proof) (more : List Proof), x = s.tile i → x.proofs = p :: more →
    (Answers (.proofRunStart i) s fun t => OnlyTile s t i { x with proofs := { p with started := true } :: more }) ∧
    ∀ errs : List ReplayErr,
      (p.started = false → exec (.proofVerdict i errs) s = .next s) ∧
      (p.started = true → (more ≠ [] ∨ 4096 ≤ p.sig.length ∨ ∀ q ∈ x.passes.head?, q.mismatched = false) → x.pc < x.codeEnd →
        ∀ v, v = verdictOf p.sig ((List.range p.sig.length).map fun k => s.replayPoint i p.pass errs (p.firstPoint + k))
            ((s.tile (partner i)).health == .normal) → Answers (.proofVerdict i errs) s fun t =>
          (v = 0 → t.tile i = { x with cntWitness := incSat x.cntWitness, health := .degraded, proofs := more,
                                       held := (more.flatMap fun q => q.pass.wells).dedup, last := (t.tile i).last } ∧
            (more = [] → (t.tile i).last.verdict = 0) ∧ (more ≠ [] → (t.tile i).last = x.last) ∧
            t.tile (partner i) = (match (s.tile (partner i)).lastLatch with
              | some j => { s.tile (partner i) with latching := some j, rerun := true }
              | none => { s.tile (partner i) with shd := {}, shdSrc := none }) ∧
            (∀ j, j ≠ i → j ≠ partner i → t.tile j = s.tile j) ∧ t.saf.seqNext = s.saf.seqNext + 1) ∧
          (1 ≤ v → (t.tile i).health = .fenced ∧ (t.tile i).proofs = []) ∧
          (2 ≤ v → (t.tile (partner i)).health = .fenced))

/-- For each of the 30 ring commands. Where its ring cannot be fetched from (not running, empty, completions unposted)
nothing changes; where the function may not issue (link down, bus mastering off, in reset) the ring stops with error
1. Otherwise it is fetched: the submission head moves on by one, it takes the next journal number, its record holds
port, function, ring, opcode, ward and tag, and it is open until it completes; a second journal record, no tile, ward
or byte of memory changes by this. A command that is not legal (a reserved bit set, a command of PF0 on a virtual
function) then completes with ST_PROTECTION; one for another module is relayed; one held for a boundary of a multi-
module job, or behind one of its ward that is, waits in its ward.
(R39, R389, R408, R423, R424, R426, R434, R435) -/
def Obligations.RingCommandsAreNumberedAndJournalled : Prop :=
  (∀ (s : State) (c : Instr) (x : Src) (op : HostOp), ringOf c = some (x, op) →
    (s.canFetch (srcKey x) = false → exec c s = .next s) ∧
    (s.canFetch (srcKey x) = true → s.canIssue x.port x.func = false → exec c s = .next (s.ringError (srcKey x) 1)) ∧
    (s.canFetch (srcKey x) = true → s.canIssue x.port x.func = true →
      (cmdLegal x op = false → exec c s = .next ((s.taken x op).complete s.jrnNext .protection)) ∧
      (cmdLegal x op = true → s.goesAway x = true → exec c s = .next ((s.taken x op).sendRelay s.jrnNext x.dest (cmdBytes x op))) ∧
      (cmdLegal x op = true → s.goesAway x = false → s.holds (s.cmdWard x op) op = true →
        exec c s = .next ((s.taken x op).holdOp (s.ctxOf x op) op s.linkAddr s.jrnNext (cmdBytes x op))))) ∧
  ∀ (s a : State) (x : Src) (op : HostOp), 1 ≤ s.jrnNext → a = s.taken x op →
    a = { s with rings := a.rings, journal := a.journal, jrnNext := s.jrnNext + 1, opens := a.opens } ∧
    (∀ k, k ≠ srcKey x → a.ring k = s.ring k) ∧
    a.ring (srcKey x) = { s.ring (srcKey x) with
      sqHead := BitVec.ofNat 16 (((s.ring (srcKey x)).sqHead.toNat + 1) % 2 ^ (s.ring (srcKey x)).sqLog) } ∧
    (let r := a.jrnGet s.jrnNext
     r.seq = s.jrnNext ∧ r.port = x.port ∧ r.func = x.func ∧ r.ring = x.ring ∧ r.opc = BitVec.ofNat 8 op.opc ∧
     r.ward = s.cmdWard x op ∧ r.tag = x.tag ∧ r.status = 0 ∧ r.doneBeat = 0) ∧
    (∀ n, n ≠ (s.jrnNext - 1) % jrnSize → a.journal.get n = s.journal.get n) ∧
    (∀ j, a.opens.get j = if j = s.jrnNext then
      some { ring := srcKey x, tag := x.tag, ward := if cmdLegal x op && s.goesAway x then 0xFF else s.cmdWard x op } else s.opens.get j)

/-- For every open command j of this module's ring k with status and detail, in every state: it is open no longer, so
completing it again changes nothing; its journal record gets the status and the beat; and its completion (tag, journal
number, beat, status, kind 0, detail) is posted on ring k. Posting on a ring that runs, with a free entry and none
unposted, on a function that may write: the 32 bytes at the completion tail hold the record with the ring's phase, the
tail moves on (the phase flips at the wrap), the vector is raised, no other byte of memory changes; with the ring full
the record waits; a ring that does not run drops it. Completing what is not open changes nothing.
(R423, R427, R434, R435) -/
def Obligations.CompletionsAreReportedOnce : Prop :=
  (∀ (s : State) (j : Nat) (st : St) (d : W32), s.opens.get j = none → s.complete j st d = s) ∧
  (∀ (s u : State) (j : Nat) (st : St) (d : W32) (o : OpenCmd), s.opens.get j = some o → o.origin = none →
    u = { s with opens := s.opens.set j none,
                 journal := (s.jrnDone j st.code (max 1 (s.jrnGet j).st) (s.stamp o.ward)).journal } →
    s.complete j st d = u.post o.ring { tag := o.tag, jseq := j, beat := s.stamp o.ward, status := st.code, kind := 0, detail := d } ∧
    u.opens.get j = none ∧
    ((s.jrnGet j).seq = j → (u.jrnGet j).status = st.code ∧ (u.jrnGet j).doneBeat = s.stamp o.ward ∧ 1 ≤ (u.jrnGet j).st)) ∧
  ∀ (s : State) (k : Nat) (c : Cpl) (r : Ring), r = s.ring k →
    (r.st ≠ 1 → s.post k c = s) ∧
    (r.st = 1 → r.unposted = [] → r.cqFull = false → s.canIssue (k / 16 / 9) (k / 16 % 9) = true →
      ∀ t a, t = s.post k c → a = hostBase (k / 16 / 9) (r.cqBase.toNat + r.cqTail.toNat * 32) →
        t.rdBytes a 32 = c.bytes r.phase ∧ (∀ b, b < a ∨ a + 32 ≤ b → t.rdByte b = s.rdByte b) ∧
        (∀ i, i ≠ k → t.ring i = s.ring i) ∧
        t.ring k = { r with cqTail := BitVec.ofNat 16 ((r.cqTail.toNat + 1) % 2 ^ r.cqLog),
                            phase := if (r.cqTail.toNat + 1) % 2 ^ r.cqLog = 0 then !r.phase else r.phase } ∧
        t = { s with mem := t.mem, rings := t.rings, sent := t.sent, funcs := t.funcs } ∧
        (r.vec.toNat ∈ (s.func (k / 16)).unmasked → t.sent = s.sent ++ [.msix (k / 16 / 9) (k / 16 % 9) r.vec.toNat])) ∧
    (r.st = 1 → (r.unposted ≠ [] ∨ r.cqFull = true) → c.kind = 0 → ∀ t, t = s.post k c →
      OnlyRing s t k { r with unposted := r.unposted ++ [c] })

/-- For a WARD_ENABLE this module acts on. A die count other than 1, 2, 4 and 8: ST_PROTECTION. More dies than fitted:
ST_ABSENT, and the ward stays. An illegal port or VF: ST_PROTECTION. A second enable of a ward in ENABLE_PENDING:
ST_BUSY_SHUTDOWN, counted. A VF that another ward has, or a ward that is idle, running, placing or resetting: ST_PROTECTION. Of
a ward in SHUTTING: the enable is open and waits. For a DISABLED ward, with no ward placing, enough free dies and a free key
slot: the ward is IDLE with exactly the n lowest free dies, the port and VF named, beat number 0 and the lowest free slot, which
becomes its WARD slot with a fresh key; no other ward or slot changes, and the command completes with ST_OK. Where it cannot be
placed now: WAIT puts the ward in PLACING with the enable open, without WAIT it completes with ST_PROTECTION (bit 1 of DETAIL
where no slot is free) and the ward stays. Answered with a next state under these conditions: WARD_ENABLE. (R6, R7, R411, R412,
R413, R445) -/
def Obligations.WardEnablePlacesTheWard : Prop :=
  ∀ (s a : State) (src : Src) (dies port vf : Nat) (x : OpCtx) (c : Instr), c = .wardEnable src dies port vf →
    s.takesHere src (.wardEnable dies port vf) = true → a = s.taken src (.wardEnable dies port vf) →
    x = s.ctxOf src (.wardEnable dies port vf) →
    (dies ∉ [1, 2, 4, 8] → exec c s = .next (a.complete x.jseq .protection)) ∧
    (dies ∈ [1, 2, 4, 8] → s.dies.length < dies → exec c s = .next (a.complete x.jseq .absent)) ∧
    (dies ∈ [1, 2, 4, 8] → dies ≤ s.dies.length →
      (1 < port ∨ vf = 0 ∨ 8 < vf → exec c s = .next (a.complete x.jseq .protection)) ∧
      (port ≤ 1 → 1 ≤ vf → vf ≤ 8 →
        ((s.ward x.w).st = .enablePending → Answers c s fun t => ∃ u : State, t = u.complete x.jseq .busyShutdown ∧
          OnlyWard a u x.w { s.ward x.w with busySd := incSat (s.ward x.w).busySd }) ∧
        ((s.ward x.w).st ≠ .enablePending → s.vfTaken x.w port vf = true → exec c s = .next (a.complete x.jseq .protection)) ∧
        (s.vfTaken x.w port vf = false →
          ((s.ward x.w).st = .idle ∨ (s.ward x.w).st = .running ∨ (s.ward x.w).st = .placing ∨ (s.ward x.w).st = .resetting →
            exec c s = .next (a.complete x.jseq .protection)) ∧
          ((s.ward x.w).st = .shutting → Answers c s fun t => OnlyWard a t x.w
            { s.ward x.w with st := .enablePending, enable := some ⟨dies, port, vf, x.wait, x.jseq⟩ }) ∧
          ((s.ward x.w).st = .disabled →
            (∀ k, s.someonePlacing = false → s.freeSlot = some k → dies ≤ s.freeDies.length → Answers c s fun t => ∃ (u : State) (y : Ward),
              t = u.complete x.jseq .ok ∧ u = { a with wards := u.wards, slots := u.slots, keyNext := u.keyNext } ∧
              u.ward x.w = y ∧ y.st = .idle ∧ (∀ n, y.holds n = decide (n < 8 ∧ n ∈ s.freeDies.take dies)) ∧ y.port = port ∧ y.vf = vf ∧
              y.num = 0 ∧ y.keySlot = k ∧ y.enable = none ∧ (∀ v, v ≠ x.w → u.ward v = s.ward v) ∧
              u.slot k = { s.slot k with st := .ward, ward := x.w, members := [], key := s.keyNext } ∧
              (∀ j, j ≠ k → u.slot j = s.slot j)) ∧
            (s.freeSlot = none ∨ s.freeDies.length < dies ∨ s.someonePlacing = true →
              (x.wait = true → Answers c s fun t => OnlyWard a t x.w
                { s.ward x.w with st := .placing, port := port, vf := vf, enable := some ⟨dies, port, vf, true, x.jseq⟩ }) ∧
              (x.wait = false → exec c s = .next (a.complete x.jseq .protection (if s.freeSlot = none then 2 else 0))))))))

/-- For commands this module acts on. WARD_DISABLE of a RUNNING ward needs FORCE (else ST_PROTECTION) and then ends the job at
the next boundary, the command waiting; of a ward in SHUTTING it waits with the others; of a DISABLED or resetting ward it is
refused. Of an IDLE ward, it puts the ward in SHUTTING, and WARD_RESET of an IDLE ward in RESETTING: translation, sequences,
registry, training contexts and losses are gone, a scrub is due, the command waits. WARD_RESET of a RUNNING ward puts it in
RESETTING with a fault of its job decided (ST_ADAPTER_WITHDRAWN unless one was), for its next boundary, and changes nothing else
of the ward. WARD_SCRUB_COMPLETE, with no channel of the ward squashing and no shut-down waiting: a resetting ward is IDLE and
its reset completes with ST_OK. Answered with a next state under these conditions: WARD_DISABLE, WARD_RESET,
WARD_SCRUB_COMPLETE. (R411, R414, R415, R416, R419, R445) -/
def Obligations.WardsShutDownAndReset : Prop :=
  (∀ (s a : State) (src : Src) (x : OpCtx), s.takesHere src .wardDisable = true → a = s.taken src .wardDisable →
    x = s.ctxOf src .wardDisable → let y := s.ward x.w
    (y.st = .disabled ∨ y.st = .resetting ∨ y.st = .running ∧ x.force = false →
      exec (.wardDisable src) s = .next (a.complete x.jseq .protection)) ∧
    (y.st = .running → x.force = true → Answers (.wardDisable src) s fun t => OnlyWard a t x.w
      { y with disables := y.disables ++ [x.jseq], job := y.job.map fun j => { j with forced := true } }) ∧
    (y.st = .shutting → Answers (.wardDisable src) s fun t => OnlyWard a t x.w { y with disables := y.disables ++ [x.jseq] }) ∧
    (y.st = .idle → y.job = none → Answers (.wardDisable src) s fun t => let z := t.ward x.w
      z.st = .shutting ∧ z.disables = y.disables ++ [x.jseq] ∧ z.dies = y.dies ∧ z.l1 = [] ∧ z.l2 = [] ∧ z.seqs = [] ∧ z.registry = [] ∧
      z.trains = [] ∧ z.xclaim = [] ∧ z.blocks = [] ∧ z.ctxTab = [] ∧ z.scrubDue = true)) ∧
  (∀ (s a : State) (src : Src) (x : OpCtx), s.takesHere src .wardReset = true → a = s.taken src .wardReset →
    x = s.ctxOf src .wardReset → let y := s.ward x.w
    (y.st ≠ .idle → y.st ≠ .running → exec (.wardReset src) s = .next (a.complete x.jseq .protection)) ∧
    (∀ j, y.st = .running → y.job = some j → Answers (.wardReset src) s fun t => OnlyWard a t x.w
      { y with st := .resetting, resetJseq := some x.jseq, resetStatus := 0,
               job := some { j with fault := some (j.fault.getD .adapterWithdrawn) } }) ∧
    (y.st = .idle → y.job = none → Answers (.wardReset src) s fun t => let z := t.ward x.w
      z.st = .resetting ∧ z.resetJseq = some x.jseq ∧ z.resetStatus = 0 ∧ z.dies = y.dies ∧ z.job = none ∧ z.l1 = [] ∧ z.l2 = [] ∧
      z.seqs = [] ∧ z.registry = [] ∧ z.trains = [] ∧ z.ctxTab = [] ∧ z.scrubDue = true)) ∧
  ∀ (s : State) (w : Nat) (y : Ward), y = s.ward w → y.scrubDue = true → (∀ c ∈ y.chans, (s.chan c).squashing = none) → y.st = .resetting →
    y.disables = [] →
    (∀ j, y.resetJseq = some j → Answers (.wardScrubComplete w) s fun t => ∃ u : State, t = u.complete j .ok ∧
      OnlyWard s u w { y with st := .idle, scrubDue := false, resetJseq := none }) ∧
    (y.resetJseq = none → Answers (.wardScrubComplete w) s fun t =>
      OnlyWard s t w { y with st := .idle, scrubDue := false, resetJseq := none })

/-- For commands this module acts on. JOB_START with training on a module without update engines: ST_ABSENT, and of a ward in
PLACING: ST_PROTECTION, with nothing changed. Otherwise BEA_CLOSE.MIN takes the program's value, and: of a ward that is not
IDLE, ST_PROTECTION; of a program that a check refuses, the check's status, and no job. Of a legal program: the ward is RUNNING
with this program and digest, the command stays open, and every tile the program loads has pc and ENTRY at its entry word, its
code end, registers, flags, loops, faults and generators cleared, and runs, or is idle where it has no code (an error met while
the ward's tables are written then resets the ward). JOB_END without a job: ST_PROTECTION; with FORCE the job is marked to end
at the next boundary; without, it is marked as ending and no open context of its training goes on; the command waits and nothing
else of the ward's state changes for FORCE. Answered with a next state under these conditions: JOB_START, JOB_END. (R6, R118,
R162, R163, R182, R191, R411, R414, R417, R418) -/
def Obligations.JobsStartAndEnd : Prop :=
  (∀ (s a b : State) (src : Src) (program : Addr) (len : Nat) (p : JobProg) (seen : List (Nat × Byte)) (x : OpCtx) (c : Instr),
    c = .jobStart src program len p seen → s.takesHere src (.jobStart program len p) = true →
    a = (s.taken src (.jobStart program len p)).seen seen →
    x = s.ctxOf src (.jobStart program len p) → b = (a.modWard x.w fun y => { y with closeMin := a.closeMin p }) → let y := s.ward x.w
    (s.updFitted = false → p.training ≠ [] → exec c s = .next (a.complete x.jseq .absent)) ∧
    (s.updFitted = true ∨ p.training = [] →
      (y.st = .placing → exec c s = .next (a.complete x.jseq .protection)) ∧
      (y.st ≠ .idle → y.st ≠ .placing → exec c s = .next (b.complete x.jseq .protection)) ∧
      (y.st = .idle →
        (∀ e, b.jobCheck x.w program.toNat len p = .error e → Answers c s fun t => ∃ u : State, t = u.complete x.jseq e ∧
          (u.ward x.w) = { y with closeMin := a.closeMin p }) ∧
        (∀ sch sl dig, b.jobCheck x.w program.toNat len p = .ok (sch, sl, dig) → AnswersSettled c s x.w fun u => ∃ j : Job,
          (u.ward x.w).st = .running ∧ (u.ward x.w).job = some j ∧ (u.ward x.w).jobDigest = dig ∧ j.prog = p ∧
          j.program = program ∧ j.len = len ∧ j.jseq = x.jseq ∧ j.tag = src.tag ∧ j.fault = none ∧ j.began = false ∧
          (∀ v, v ≠ x.w → u.ward v = s.ward v) ∧
          ((p.tiles.map fun q => y.progTile q.rdie q.tile).Nodup → ∀ q ∈ p.tiles, let z := u.tile (y.progTile q.rdie q.tile)
            z.pc = q.entry ∧ z.entry = q.entry ∧ z.codeEnd = q.codeEnd ∧ (∀ n, z.areg n = 0 ∧ z.kreg n = 0) ∧ z.flags = 0 ∧ z.loops = [] ∧
            z.fault = {} ∧ (∀ l, genOf z.gens l = 1) ∧ z.st = if q.codeEnd = 0 then .idle else .running))))) ∧
  ∀ (s a : State) (src : Src) (x : OpCtx), s.takesHere src .jobEnd = true → a = s.taken src .jobEnd → x = s.ctxOf src .jobEnd →
    let y := s.ward x.w
    (y.job = none → exec (.jobEnd src) s = .next (a.complete x.jseq .protection)) ∧
    (∀ j, y.job = some j → x.force = true → Answers (.jobEnd src) s fun t =>
      OnlyWard a t x.w { y with job := some { j with forced := true, ends := j.ends ++ [x.jseq] } }) ∧
    (∀ j, y.job = some j → x.force = false → (∀ e ∈ y.live, e.2.st ≠ .queued) → Answers (.jobEnd src) s fun t =>
      OnlyWard a t x.w { y with job := some { j with ending := true, ends := j.ends ++ [x.jseq] },
                                trains := y.trains.map fun e => (e.1, { e.2 with stopping := true }) })

/-- For commands this module acts on whose arguments are legal for the ward (aligned, inside the address space, a slot of the
ward, no page of the job program). MAP of one 1 GiB page: the ward's walk of every address of that page ends at the physical
address and rights named, and the level-1 entry of no other page changes. MAP of one 2 MiB page: the leaf of that page holds the
address, rights and slot, other pages of the same table keep theirs. UNMAP of one page: its walk ends nowhere. The command
completes with ST_OK; an illegal argument gives ST_PROTECTION and changes no entry. No other ward's translation changes.
Answered with a next state under these conditions: MAP, UNMAP. (R248, R249, R428) -/
def Obligations.PagesMapAndUnmap : Prop :=
  ∀ (s a : State) (src : Src) (va pa : W64) (size rights kslot count : Nat) (x : OpCtx) (op : HostOp) (c : Instr) (n : Nat) (y : Ward),
    n = pageSize size → y = s.ward x.w → a = s.taken src op → x = s.ctxOf src op → s.takesHere src op = true →
    (op = .map va pa count size rights kslot → c = .map src va pa count size rights kslot →
      (s.mapBad x.w va.toNat pa.toNat count size rights kslot = true → exec c s = .next (a.complete x.jseq .protection)) ∧
      (s.mapBad x.w va.toNat pa.toNat count size rights kslot = false → count = 1 → Answers c s fun t => ∃ u : State, t = u.complete x.jseq .ok ∧
        (∀ v, v ≠ x.w → u.ward v = s.ward v) ∧
        (size = 1 → (u.ward x.w).l1.get (va.toNat / 2 ^ 30) = leafWord pa.toNat rights kslot ∧
          (∀ i, i ≠ va.toNat / 2 ^ 30 → (u.ward x.w).l1.get i = y.l1.get i)) ∧
        (size = 0 → ∀ l, y.tableAt va.toNat = some l →
          (u.ward x.w).l2.get (l * 512 + va.toNat / 2 ^ 21 % 512) = leafWord pa.toNat rights kslot ∧
          (∀ i, i ≠ l * 512 + va.toNat / 2 ^ 21 % 512 → (u.ward x.w).l2.get i = y.l2.get i)))) ∧
    (op = .unmap va count size → c = .unmap src va count size →
      (s.unmapBad x.w va.toNat count size = true → exec c s = .next (a.complete x.jseq .protection)) ∧
      (s.unmapBad x.w va.toNat count size = false → count = 1 → Answers c s fun t => ∃ u : State, t = u.complete x.jseq .ok ∧
        (∀ v, v ≠ x.w → u.ward v = s.ward v) ∧
        (size = 1 → (u.ward x.w).l1.get (va.toNat / 2 ^ 30) = 0 ∧ (∀ i, i ≠ va.toNat / 2 ^ 30 → (u.ward x.w).l1.get i = y.l1.get i)) ∧
        (size = 0 → ∀ l, y.tableAt va.toNat = some l → (u.ward x.w).l2.get (l * 512 + va.toNat / 2 ^ 21 % 512) = 0 ∧
          (∀ i, i ≠ l * 512 + va.toNat / 2 ^ 21 % 512 → (u.ward x.w).l2.get i = y.l2.get i))))

/-- For commands this module acts on. REGISTER of a free context of a running ward, with a rank slot that takes the adapter:
exactly that registry entry is registered with the operands, its account is zeroed, no other ward, entry or unit changes, ST_OK;
of a context in use, of context 0 or with a bad operand ST_PROTECTION. WITHDRAW of a free entry: ST_PROTECTION; of one that no
sequence and no training uses, with no copy under way: the entry is withdrawing (forced with FORCE) and the command waits. CLAIM
of pairs that are free or its own: exactly those slots have the context as owner, ST_OK; a slot of another context gives
ST_SLOT_TAKEN with it in DETAIL and changes nothing; a pair of a layer without slots, or one named twice, ST_PROTECTION. UNCLAIM
of pairs it owns frees exactly those; of another's ST_PROTECTION. (The entries are written in the registry in memory; an error
met there resets the ward.) Answered with a next state under these conditions: REGISTER, WITHDRAW, CLAIM, UNCLAIM. (R299, R300,
R301, R302, R303, R312, R315) -/
def Obligations.RegistryEntriesOpenAndClose : Prop :=
  (∀ (s a : State) (src : Src) (c ks rs rank mats image : Nat) (va len : W64) (x : OpCtx) (y : Ward) (i : Instr),
    i = .register src c ks rs rank mats image va len → s.takesHere src (.register c ks rs rank mats image va len) = true →
    a = s.taken src (.register c ks rs rank mats image va len) → x = s.ctxOf src (.register c ks rs rank mats image va len) → y = s.ward x.w →
    (c = 0 ∨ (y.registry.get c).st ≠ .free ∨ y.running = false ∨ 15 < rs ∨ 16383 < ks ∨ 2 ^ 40 ≤ len.toNat ∨
        (y.rslots.get rs).takes rank mats image = false →
      exec i s = .next (a.complete x.jseq .protection)) ∧
    (c ≠ 0 → (y.registry.get c).st = .free → y.running = true → rs ≤ 15 → ks ≤ 16383 → len.toNat < 2 ^ 40 →
      (y.rslots.get rs).takes rank mats image = true → AnswersSettled i s x.w fun t => ∃ u : State, t = u.complete x.jseq .ok ∧ SameUnits a u ∧
        OneWard a u x.w { y with acct := y.acct.set c {}, registry := y.registry.modify c fun e =>
          { st := .registered, kslot := ks, rslot := rs, xcount := e.xcount, negVa := va.setWidth 48, negLen := len.toNat, rank := rank,
            mats := BitVec.ofNat 16 mats, image := image } })) ∧
  (∀ (s a : State) (src : Src) (c : Nat) (x : OpCtx) (y : Ward), s.takesHere src (.withdraw c) = true → a = s.taken src (.withdraw c) →
    x = s.ctxOf src (.withdraw c) → y = s.ward x.w →
    ((y.registry.get c).st = .free → exec (.withdraw src c) s = .next (a.complete x.jseq .protection)) ∧
    ((y.registry.get c).st ≠ .free → y.seqs = [] → (s.train x.w c).st = .off → (y.registry.get c).nxt = false →
      AnswersSettled (.withdraw src c) s x.w fun t => SameUnits a t ∧ OneWard a t x.w { y with registry := y.registry.modify c fun e =>
        { e with st := if x.force = true ∨ e.st = .forced then .forced else .withdrawing, withdraws := e.withdraws ++ [x.jseq] } })) ∧
  ∀ (s a : State) (src : Src) (c n : Nat) (list : W64) (l : List (Nat × Nat)) (x : OpCtx) (y : Ward) (op : HostOp), y = s.ward x.w →
    a = s.taken src op → x = s.ctxOf src op → s.takesHere src op = true → c ≠ 0 → 1 ≤ n → n ≤ 64 →
    (op = .claim c n list (some l) →
      (y.pairsBad l = true → exec (.claim src c n list (some l)) s = .next (a.complete x.jseq .protection)) ∧
      (y.pairsBad l = false → ∀ p, l.find? (fun p => y.xowner (pairIdx p) ≠ some 0 && y.xowner (pairIdx p) ≠ some c) = some p →
        exec (.claim src c n list (some l)) s = .next (a.complete x.jseq .slotTaken (BitVec.ofNat 32 (pairIdx p)))) ∧
      (y.pairsBad l = false → (∀ p ∈ l, y.xowner (pairIdx p) = some 0 ∨ y.xowner (pairIdx p) = some c) →
        AnswersSettled (.claim src c n list (some l)) s x.w fun t => ∃ u : State, t = u.complete x.jseq .ok ∧ SameUnits a u ∧
          (∀ v, v ≠ x.w → u.ward v = s.ward v) ∧
          (∀ j, (u.ward x.w).xowner j = if j ∈ l.map pairIdx then some c else y.xowner j) ∧
          (∀ d, d ≠ c → (u.ward x.w).registry.get d = y.registry.get d))) ∧
    (op = .unclaim c n list (some l) → (y.registry.get c).pins = 0 → y.pairsBad l = false →
      (∀ p, l.find? (fun p => y.xowner (pairIdx p) ≠ some c) = some p →
        exec (.unclaim src c n list (some l)) s = .next (a.complete x.jseq .protection (BitVec.ofNat 32 (pairIdx p)))) ∧
      ((∀ p ∈ l, y.xowner (pairIdx p) = some c) → AnswersSettled (.unclaim src c n list (some l)) s x.w fun t =>
        ∃ u : State, t = u.complete x.jseq .ok ∧ SameUnits a u ∧ (∀ v, v ≠ x.w → u.ward v = s.ward v) ∧
          (∀ j, (u.ward x.w).xowner j = if j ∈ l.map pairIdx then some 0 else y.xowner j) ∧
          (∀ d, d ≠ c → (u.ward x.w).registry.get d = y.registry.get d)))

/-- For commands this module acts on. SUBMIT to a free entry of the ward's range, of a registered context, with a readable job
record: that entry is queued with the operands, nothing else of any ward or unit changes, ST_OK. An entry out of range or in
use: ST_PROTECTION; a context not registered: ST_ADAPTER_WITHDRAWN; an unreadable record: ST_TIER_FAIL. CANCEL of a live
sequence marks it to end with ST_OK and END 2 unless it is marked already; of a free one ST_PROTECTION. SPILL_READ_COMPLETE,
when no developer still reads for the sequence, marks the blocks it spills as read (the block table in its canonical form). A
write of SEQ_PEEK_IDX by the ward's owner copies the entry; by anybody else it is refused. Answered with a next state under
these conditions: SUBMIT, CANCEL, SEQ_PEEK_IDX, SPILL_READ_COMPLETE. (R36, R288, R308, R309, R312, R326) -/
def Obligations.SequencesQueueAndCancel : Prop :=
  (∀ (s a : State) (src : Src) (i c prompt maxtok : Nat) (cookie out job : W64) (b : Option (List Byte)) (x : OpCtx) (y : Ward)
    (k : Instr), k = .submit src i c prompt maxtok cookie out job b → s.takesHere src (.submit i c prompt maxtok cookie out job b) = true →
    a = s.taken src (.submit i c prompt maxtok cookie out job b) → x = s.ctxOf src (.submit i c prompt maxtok cookie out job b) →
    y = s.ward x.w →
    (s.inRange x.w i = false ∨ (y.seqs.get i).st ≠ .free → exec k s = .next (a.complete x.jseq .protection)) ∧
    (s.inRange x.w i = true → (y.seqs.get i).st = .free →
      ((y.registry.get c).st ≠ .registered → exec k s = .next (a.complete x.jseq .adapterWithdrawn)) ∧
      ((y.registry.get c).st = .registered → b = none → exec k s = .next (a.complete x.jseq .tierFail)) ∧
      ((y.registry.get c).st = .registered → ∀ bs, b = some bs → Answers k s fun t => ∃ u : State, t = u.complete x.jseq .ok ∧
        OnlyWard a u x.w { y with seqs := y.seqs.modify i fun _ =>
          { st := .queued, ctx := c, maxtok := BitVec.ofNat 32 maxtok, prompt := prompt, submit := s.stamp x.w, cookie := cookie,
            out := out.setWidth 48, job := bs.take 64, ring := srcKey src, jseq := x.jseq } }))) ∧
  (∀ (s a : State) (src : Src) (i : Nat) (x : OpCtx) (y : Ward), s.takesHere src (.cancel i) = true → a = s.taken src (.cancel i) →
    x = s.ctxOf src (.cancel i) → y = s.ward x.w →
    (s.inRange x.w i = false ∨ (y.seqs.get i).st = .free → exec (.cancel src i) s = .next (a.complete x.jseq .protection)) ∧
    (s.inRange x.w i = true → (y.seqs.get i).st ≠ .free → Answers (.cancel src i) s fun t => ∃ u : State, t = u.complete x.jseq .ok ∧
      OnlyWard a u x.w { y with seqs := y.seqs.modify i fun q => { q with mark := some (q.mark.getD (.ok, 2)) } })) ∧
  (∀ (s : State) (w i : Nat) (y : Ward), y = s.ward w → (∀ d ∈ y.dieList, (s.dev d).queue = []) → Tab.wf default y.blocks = true →
    Answers (.spillReadComplete w i) s fun t =>
    SameUnits s t ∧ (∀ v, v ≠ w → t.ward v = s.ward v) ∧
    (∀ b, (t.ward w).blocks.get b = if (y.blocks.get b).st = 2 ∧ (y.blocks.get b).seqIdx = i then { y.blocks.get b with read := true }
      else y.blocks.get b)) ∧
  ∀ (s : State) (r : Req) (w : Nat) (v : W32), s.live = true → w < 8 →
    (s.owns r w = false → exec (.seqPeekIdx r w v) s = .next s.refuse) ∧
    (s.owns r w = true → Answers (.seqPeekIdx r w v) s fun t => ∃ i b, i = v.toNat % 2 ^ 21 ∧
      b = (if s.inRange w i then (s.ward w).seqBytes i else List.replicate 128 0) ∧ OnlyWard s t w { s.ward w with peekIdx := i, peekSeq := b })

/-- For commands this module acts on. PREPARE of the base of a running ward with no base copy under way opens a build from the
package at its source, whose command stays open: a package that fails a check ends it with ST_SHARD_BAD; where the old base is
still held the build waits; else the copy is under way. PREPARE of a registered context: its entry is in transition with the
source noted, and where the old copy is still held it waits for that. SWITCH of a target with a second copy, or with a PREPARE
that waits, arms it and completes with ST_OK at once; a SWITCH of one without, and a PREPARE of one that is not registered, has
a second copy already or is trained and published, complete with ST_PROTECTION and change no entry. (That a PREPARE of the base
reads its own shards of a package is the model's choice: log entry 184.) Answered with a next state under these conditions:
PREPARE, SWITCH. (R312, R319, R320, R343) -/
def Obligations.SecondCopiesAndSwitches : Prop :=
  (∀ (s a : State) (src : Src) (c : Nat) (va len : W64) (x : OpCtx) (y : Ward) (m : Manifest), s.takesHere src (.prepare c va len) = true →
    a = s.taken src (.prepare c va len) → x = s.ctxOf src (.prepare c va len) → y = s.ward x.w → m = a.localManifest x.port va.toNat →
    (y.running = false → exec (.prepare src c va len) s = .next (a.complete x.jseq .protection)) ∧
    (y.running = true → c = 0 →
      (y.basePrepJseq ≠ none ∨ y.dist ≠ none ∨ (y.baseState ≠ 0 ∧ y.baseState ≠ 3) →
        exec (.prepare src c va len) s = .next (a.complete x.jseq .protection)) ∧
      (y.basePrepJseq = none → y.dist = none → y.baseState = 0 ∨ y.baseState = 3 →
        (a.manifestOk m = false → Answers (.prepare src c va len) s fun t => ∃ u : State, t = u.complete x.jseq .shardBad ∧
          OnlyWard { a with fresh := u.fresh, sent := u.sent } u x.w { y with distFailed := incSat y.distFailed }) ∧
        (a.manifestOk m = true → y.baseState = 3 ∨ (∃ h ∈ m.shards, h.to s.linkAddr = true) → Answers (.prepare src c va len) s fun t =>
          ∃ d : Dist, SameUnits a t ∧
          OneWard a t x.w { y with basePrepJseq := some x.jseq, baseState := if y.baseState = 0 then 1 else 3, dist := some d } ∧
          d.target = 0 ∧ d.shards = m.shards ∧ d.held = decide (y.baseState = 3) ∧ d.jseq = x.jseq))) ∧
    (y.running = true → c ≠ 0 → ∀ e, e = y.registry.get c →
      (e.st ≠ .registered ∨ e.nxt = true ∨ (e.train = true ∧ (s.train x.w c).record.pub = true) →
        exec (.prepare src c va len) s = .next (a.complete x.jseq .protection)) ∧
      (e.st = .registered → e.nxt = false → e.train = false ∨ (s.train x.w c).record.pub = false →
        (y.oldHeld c = true → AnswersSettled (.prepare src c va len) s x.w fun t =>
          SameUnits a t ∧ OneWard a t x.w { y with registry := y.registry.modify c fun e =>
            { e with nxt := true, nxtReady := false, nxtSrc := va.setWidth 48, prepareJseq := some x.jseq, nxtWaits := true } }) ∧
        (y.oldHeld c = false → AnswersSettled (.prepare src c va len) s x.w fun t => let f := (t.ward x.w).registry.get c
          f.nxt = true ∧ f.nxtReady = false ∧ f.nxtSrc = va.setWidth 48 ∧ f.prepareJseq = some x.jseq ∧ f.gen = e.gen ∧
          f.nxtWaits = (f.chunksOf (1 - e.liveCopy)).isEmpty ∧ (∀ v, v ≠ x.w → t.ward v = s.ward v))))) ∧
  ∀ (s a : State) (src : Src) (c wait : Nat) (x : OpCtx) (y : Ward), s.takesHere src (.switch c wait) = true →
    a = s.taken src (.switch c wait) → x = s.ctxOf src (.switch c wait) → y = s.ward x.w →
    (c = 0 → y.baseState = 1 ∨ y.baseState = 2 ∨ y.basePrepJseq ≠ none → Answers (.switch src c wait) s fun t => ∃ u : State,
      t = u.complete x.jseq .ok ∧ OnlyWard a u x.w { y with baseArmed := true }) ∧
    (c = 0 → y.baseState ≠ 1 → y.baseState ≠ 2 → y.basePrepJseq = none → exec (.switch src c wait) s = .next (a.complete x.jseq .protection)) ∧
    (c ≠ 0 → (y.registry.get c).nxt = true → AnswersSettled (.switch src c wait) s x.w fun t => ∃ u : State, t = u.complete x.jseq .ok ∧
      SameUnits a u ∧ OneWard a u x.w { y with registry := y.registry.modify c fun e => { e with swArmed := true, swWait := decide (wait ≠ 0) } }) ∧
    (c ≠ 0 → (y.registry.get c).nxt = false → exec (.switch src c wait) s = .next (a.complete x.jseq .protection))

/-- DISTRIBUTE this module acts on: without a running job, with one open or with a target that takes no second copy
ST_PROTECTION; a manifest that fails a check ST_SHARD_BAD, counted; otherwise, where this module is to receive a shard or the
build waits for the old copy, the distribution is open with its shards waiting and the other modules named in it told. A shard
that arrives and passes tag, length and digest, with another still to come, is written and good; one that does not is bad and is
asked for again; a shard already good, of other modules, or of a build that waits, changes nothing. The end of the pass asks
once more for each shard that waits and for no other. A request is answered by the reader, or by a module whose copy is good,
with that shard to that module. The timeout counts, and the distribution is no longer open. Answered with a next state under
these conditions: DISTRIBUTE, SHARD_ARRIVE, END_OF_PASS, DISTRIBUTE_TIMEOUT, SHARD_REQUEST. (R312, R323, R324, R325, R393, R458)
-/
def Obligations.PackagesAreDistributed : Prop :=
  (∀ (s a : State) (src : Src) (c : Nat) (pk len alt : W64) (m : Manifest) (x : OpCtx) (y : Ward) (i : Instr),
    i = .distribute src c pk len alt m → s.takesHere src (.distribute c pk len alt m) = true →
    a = (s.taken src (.distribute c pk len alt m)).seen m.seen → x = s.ctxOf src (.distribute c pk len alt m) → y = s.ward x.w →
    (y.running = false ∨ y.dist ≠ none ∨ y.buildable c = false → exec i s = .next (a.complete x.jseq .protection)) ∧
    (y.running = true → y.dist = none → y.buildable c = true →
      (a.manifestOk m = false → Answers i s fun t => ∃ u : State, t = u.complete x.jseq .shardBad ∧
        OnlyWard { a with fresh := u.fresh, sent := u.sent } u x.w
          { y with distFailed := incSat y.distFailed, basePrepJseq := if c = 0 then none else y.basePrepJseq }) ∧
      (a.manifestOk m = true → y.oldHeld c = true ∨ (∃ h ∈ m.shards, h.to s.linkAddr = true) → AnswersSettled i s x.w fun t => ∃ d : Dist,
        SameUnits a t ∧ (∀ v, v ≠ x.w → t.ward v = s.ward v) ∧ (t.ward x.w).dist = some d ∧ d.target = c ∧ d.shards = m.shards ∧ d.st = [] ∧
        d.tries = [] ∧ d.reader = true ∧ d.jseq = x.jseq ∧ (y.oldHeld c = true → d.held = true) ∧
        d.waits = ((List.range 64).filter fun b => b != s.linkAddr && m.shards.any fun h => h.to b).length ∧
        (c ≠ 0 → ((t.ward x.w).registry.get c).nxt = true ∧ ((t.ward x.w).registry.get c).nxtReady = false)))) ∧
  (∀ (s : State) (w k : Nat) (bytes : List Byte) (tag : Bool) (y : Ward) (d : Dist) (h : Shard), y = s.ward w → y.dist = some d →
    d.shards[k]? = some h → s.live = true →
    (h.to s.linkAddr = false ∨ d.st.get k = .good ∨ d.held = true → exec (.shardArrive w k bytes tag) s = .next s) ∧
    (h.to s.linkAddr = true → d.st.get k ≠ .good → d.held = false → ∀ b, b = s.writeShard w d h (bytes.take h.len) →
      ((tag && bytes.length == h.len && Config.sha256 bytes == h.digest) = true →
        (∃ j g, j ≠ k ∧ d.shards[j]? = some g ∧ g.to s.linkAddr = true ∧ d.st.get j ≠ .good) → Answers (.shardArrive w k bytes tag) s fun t =>
          SameUnits b t ∧ t.mem = b.mem ∧ OneWard s t w { y with dist := some { d with st := d.st.set k .good } }) ∧
      ((tag && bytes.length == h.len && Config.sha256 bytes == h.digest) = false → Answers (.shardArrive w k bytes tag) s fun t =>
        SameUnits b t ∧ (t.ward w).dist = some { d with st := d.st.set k .bad, tries := d.tries.set k (d.tries.get k + 1) } ∧
        (∀ v, v ≠ w → t.ward v = s.ward v)))) ∧
  (∀ (s : State) (w : Nat) (d : Dist), (s.ward w).dist = some d → s.live = true → Answers (.endOfPass w) s fun t => ∃ d',
    SameUnits s t ∧ (∀ v, v ≠ w → t.ward v = s.ward v) ∧ (t.ward w).dist = some { d with tries := d' } ∧
    ∀ k h, d.shards[k]? = some h → d'.get k = d.tries.get k + (if h.to s.linkAddr = true ∧ d.st.get k = .waiting then 1 else 0)) ∧
  (∀ (s : State) (w k m : Nat) (d : Dist), (s.ward w).dist = some d → s.live = true → k < d.shards.length → m < 64 →
    (d.reader = true ∨ d.st.get k = .good → Answers (.shardRequest w k m) s fun t => .shardSend k (1#64 <<< m) ∈ t.sent ∧ SameUnits s t ∧
      (∀ v, v ≠ w → t.ward v = s.ward v) ∧
      (t.ward w).dist = some (if d.reader then { d with asked := d.asked.set (64 * k + m) (d.asked.get (64 * k + m) + 1) } else d)) ∧
    (d.reader = false → d.st.get k ≠ .good → exec (.shardRequest w k m) s = .next s)) ∧
  ∀ (s : State) (w : Nat) (d : Dist), (s.ward w).dist = some d → s.live = true → Answers (.distributeTimeout w) s fun t =>
    (t.ward w).dist = none ∧ (t.ward w).distFailed = incSat (s.ward w).distFailed ∧ (∀ v, v ≠ w → t.ward v = s.ward v) ∧
    t.opens.get d.jseq = none

/-- For commands this module acts on. TRAIN_START of a registered, resident context that does not train (or is faulted), with a
record that is read and legal, on a module with update engines: the context trains with that record from its start step; in mode
0 the first round is held and a checkpoint copy of it started, ST_OK; in mode 1 it waits for a peer's checkpoint; no other
context's training and no other ward changes. An unreadable or illegal record, or any other context: ST_PROTECTION. TRAIN_STOP
of an active context marks it and waits; ROLLBACK with a verified checkpoint asks for one and completes with ST_OK; without
update engines ST_ABSENT, of an inactive context ST_PROTECTION. A step size posted at the lowest die's engine for a later step
is kept for that step; a NaN, infinite or negative one, an earlier step or an inactive context is refused with its error code. A
request by a function that does not own the die is refused. (What an unreadable record gives is the model's choice: log entry
3.) Answered with a next state under these conditions: TRAIN_START, TRAIN_STOP, ROLLBACK, UPD_STEP, UPD_PEEK_CTX. (R36, R328,
R330, R331, R340, R356, R361, R362, R364, R366) -/
def Obligations.TrainingStartsStopsAndRollsBack : Prop :=
  (∀ (s a : State) (src : Src) (c mode : Nat) (va : W64) (seen : List (Nat × Byte)) (x : OpCtx) (i : Instr), i = .trainStart src c mode va seen →
    s.takesHere src (.trainStart c mode va) = true → a = (s.taken src (.trainStart c mode va)).seen seen → x = s.ctxOf src (.trainStart c mode va) →
    (s.updFitted = false → exec i s = .next (a.complete x.jseq .absent)) ∧
    (s.updFitted = true → ∀ e, e = (s.ward x.w).registry.get c →
      (1 < mode ∨ (s.ward x.w).running = false ∨ e.st ≠ .registered ∨ e.res ≠ .resident ∨ (e.train = true ∧ (s.train x.w c).st ≠ .faulted) →
        exec i s = .next (a.complete x.jseq .protection)) ∧
      (mode ≤ 1 → (s.ward x.w).running = true → e.st = .registered → e.res = .resident → e.train = false ∨ (s.train x.w c).st = .faulted →
        ∀ b o, a.readRecord x.w c va.toNat = (b, o) →
          (o = none → exec i s = .next (b.complete x.jseq .protection)) ∧
          (∀ r, o = some r → b.recordOk x.w c r = false → exec i s = .next (b.complete x.jseq .protection)) ∧
          (∀ r, o = some r → b.recordOk x.w c r = true → AnswersSettled i s x.w fun t =>
            (t.train x.w c).record = r ∧ (t.train x.w c).stepDone = r.start ∧ (t.train x.w c).posted = none ∧
            ((t.ward x.w).registry.get c).train = true ∧ (∀ d, d ≠ c → t.train x.w d = s.train x.w d) ∧
            (∀ v, v ≠ x.w → t.ward v = s.ward v) ∧
            (mode = 1 → (t.train x.w c).peerMode = true ∧ (t.train x.w c).startJseq = some x.jseq) ∧
            (mode = 0 → (t.train x.w c).starting = true ∧ (t.train x.w c).pendRounds = [r.start] ∧
              (t.train x.w c).copying = some (0, 0, r.start) ∧ ∃ u : State, t = u.complete x.jseq .ok))))) ∧
  (∀ (s a : State) (src : Src) (c : Nat) (x : OpCtx) (t0 : Train), s.takesHere src (.trainStop c) = true → a = s.taken src (.trainStop c) →
    x = s.ctxOf src (.trainStop c) → t0 = s.train x.w c →
    (s.updFitted = false → exec (.trainStop src c) s = .next (a.complete x.jseq .absent)) ∧
    (s.updFitted = true → t0.active = false → exec (.trainStop src c) s = .next (a.complete x.jseq .protection)) ∧
    (s.updFitted = true → t0.active = true → Answers (.trainStop src c) s fun t => OnlyWard a t x.w { s.ward x.w with
      trains := (s.ward x.w).trains.modify c fun y => { y with stopping := true, stops := y.stops ++ [x.jseq] } })) ∧
  (∀ (s a : State) (src : Src) (c : Nat) (x : OpCtx) (t0 : Train), s.takesHere src (.rollback c) = true → a = s.taken src (.rollback c) →
    x = s.ctxOf src (.rollback c) → t0 = s.train x.w c → s.updFitted = true →
    (t0.active = false ∨ t0.st = .faulted ∨ t0.newest = none → exec (.rollback src c) s = .next (a.complete x.jseq .protection)) ∧
    (t0.active = true → t0.st ≠ .faulted → t0.newest ≠ none → Answers (.rollback src c) s fun t => ∃ u : State, t = u.complete x.jseq .ok ∧
      SameUnits a u ∧ ∃ b, OneWard a u x.w { s.ward x.w with trains := (s.ward x.w).trains.modify c fun y =>
        { y with rollbackDue := some (y.rollbackDue.getD b) } })) ∧
  (∀ (s : State) (r : Req) (d w c n : Nat) (g : RegW) (t0 : Train) (lr : W32), s.live = true → d ∈ s.dies → g.legal = true → g.size = 8 →
    s.updWard d = some w → s.updFitted = true → c = field g.val.toNat 63 48 → n = field g.val.toNat 31 0 → t0 = s.train w c →
    lr = (s.upd d).stepLr →
    (s.ownsDie r d = false → exec (.updStep r d g) s = .next s.refuse) ∧
    (s.ownsDie r d = true →
      (t0.active = false → Answers (.updStep r d g) s fun t => OnlyUpd s t d { s.upd d with refused := true, err := 1 }) ∧
      (t0.active = true → f32Finite lr = false ∨ f32Neg lr = true ∧ f32IsZero lr = false → Answers (.updStep r d g) s fun t => OnlyUpd s t d { s.upd d with refused := true, err := 2 }) ∧
      (t0.active = true → f32Finite lr = true → (f32Neg lr = false ∨ f32IsZero lr = true) →
        (n ≤ t0.stepDone % 2 ^ 32 → Answers (.updStep r d g) s fun t => OnlyUpd s t d { s.upd d with refused := true, err := 3 }) ∧
        (t0.stepDone % 2 ^ 32 < n → t0.st ≠ .armed → Answers (.updStep r d g) s fun t => OnlyWard s t w { s.ward w with
          trains := (s.ward w).trains.modify c fun y => { y with posted := some (n, lr) } })))) ∧
  ∀ (s : State) (r : Req) (d w : Nat) (v : W32) (t0 : Train), s.live = true → d ∈ s.dies → s.updWard d = some w → s.updFitted = true →
    s.ownsDie r d = true → t0 = s.train w (v.toNat % 2 ^ 16) → Answers (.updPeekCtx r d v) s fun t =>
      OnlyUpd s t d { s.upd d with peekCtx := BitVec.ofNat 16 (v.toNat % 2 ^ 16), peek := if t0.active then t0.peek else List.replicate 64 0 }

/-- In every case no other ward changes, and no other context's training. The reduction's end begins pass one and uses up the
posted step size. Pass one, at the lowest module of the replica with the parts of its other modules, combines and votes: of the
only replica, with everything finite, it goes on to pass two with that vote's loss, norm and factor; while a replica has not
voted, the vote joins those held; at another module of the replica the parts are sent to the lowest. A vote of another replica
replaces an earlier one of it; it decides nothing while a replica has not voted, and the last one, all finite with one step
size, begins pass two; the replica's own vote, as its lowest module casts it, brings norm and factor. Pass two of the only
replica without a bad element leaves the step to be committed; with one, the step is abandoned with ST_NONFINITE. ARM_TIMEOUT
faults a context that waits for other replicas, with ST_ARM_TIMEOUT, and changes nothing for one that does not. (How the modules
of one replica combine is the model's choice: log entry 41.) Answered with a next state under these conditions:
GRADIENT_REDUCTION_COMPLETE, PASS_ONE_COMPLETE, VOTE, PASS_TWO_COMPLETE, ARM_TIMEOUT. (R336, R337, R339, R340, R341, R342, R343,
R344) -/
def Obligations.StepsPassAndVote : Prop :=
  ∀ (s : State) (w c : Nat) (x : Train), s.live = true → x = s.train w c →
    let rest (t : State) := (∀ d, d ≠ c → t.train w d = s.train w d) ∧ ∀ v, v ≠ w → t.ward v = s.ward v
    let missing (l : List VoteIn) := ∃ r, r < (s.ward w).nrep ∧ ∀ u ∈ l, u.replica ≠ r
    (x.st = .reduce → Answers (.gradientReductionComplete w c) s fun t => rest t ∧ (t.train w c).st = .pass1 ∧
      (∀ n lr, x.posted = some (n, lr) → n % 2 ^ 32 = x.n % 2 ^ 32 → (t.train w c).posted = none ∧ (t.train w c).scal.lr = lr)) ∧
    (x.st ≠ .reduce → exec (.gradientReductionComplete w c) s = .next s) ∧
    (x.st = .pass1 → x.passed1 = false → ∀ s1 p s2 parts, s.passOne w c = (s1, p) →
      s2 = ((s1.modTrain w c fun y => { y with scal := p.scal, passed1 := true }).updIdle w c) →
      (s.leads w = false → Answers (.passOneComplete w ⟨c, parts⟩) s fun t => rest t ∧ (t.train w c).st = .pass1 ∧
        (t.train w c).passed1 = true ∧ ∀ q ∈ p.parts, .part c q ∈ t.sent) ∧
      (s.leads w = true → (∀ m ∈ s.otherModules w, ∃ q ∈ parts, q.addr = m) →
        ∀ s3 v l, s2.combine w c (p.parts ++ parts.filter fun q => (s.otherModules w).contains q.addr) = (s3, v) →
        l = (x.votes1.filter fun u => u.replica ≠ v.replica) ++ [v] →
          ((s.ward w).nrep = 1 → v.replica = 0 → x.votes1 = [] → v.finite = true → v.master = false →
            Answers (.passOneComplete w ⟨c, parts⟩) s fun t => rest t ∧ (t.train w c).st = .pass2 ∧ (t.train w c).scal.loss = v.loss ∧
            (t.train w c).scal.norm = v.norm ∧ (t.train w c).scal.cf = v.cf) ∧
          (missing l → Answers (.passOneComplete w ⟨c, parts⟩) s fun t => rest t ∧ (t.train w c).st = .pass1 ∧ (t.train w c).votes1 = l ∧
            (s.runModules w ≠ [] → .vote c v ∈ t.sent))) ∧
      (s.leads w = true → (∃ m ∈ s.otherModules w, ∀ q ∈ parts, q.addr ≠ m) → exec (.passOneComplete w ⟨c, parts⟩) s = .next s)) ∧
    (∀ v : VoteIn, s.awaitsVote w v = false → exec (.vote w c v) s = .next s) ∧
    (∀ v : VoteIn, x.active = true → v.replica < (s.ward w).nrep →
      (v.replica ≠ (s.ward w).replica →
        (v.pass = 1 → ∀ l, l = (x.votes1.filter fun u => u.replica ≠ v.replica) ++ [v] →
          (x.st ≠ .pass1 ∨ missing l → Answers (.vote w c v) s fun t =>
            OnlyWard s t w { s.ward w with trains := (s.ward w).trains.modify c fun y => { y with votes1 := l } }) ∧
          (x.st = .pass1 → ¬ missing l → (∀ u ∈ l, u.finite = true ∧ u.master = false ∧ u.lr = v.lr) → Answers (.vote w c v) s fun t =>
            rest t ∧ (t.train w c).st = .pass2)) ∧
        (v.pass = 2 → ∀ l, l = (x.votes2.filter fun u => u.replica ≠ v.replica) ++ [v] → x.st ≠ .pass2 ∨ x.passed2 = false ∨ missing l →
          Answers (.vote w c v) s fun t =>
            OnlyWard s t w { s.ward w with trains := (s.ward w).trains.modify c fun y => { y with votes2 := l } })) ∧
      (v.replica = (s.ward w).replica → s.leads w = false → v.addr = s.leadModule w → v.pass = 1 →
        ∀ l, l = (x.votes1.filter fun u => u.replica ≠ v.replica) ++ [v] → missing l → Answers (.vote w c v) s fun t =>
          rest t ∧ t.train w c = { x with scal := { x.scal with norm := v.norm, cf := v.cf }, votes1 := l })) ∧
    (x.st = .pass2 → x.passed2 = false → x.copying = none → x.votes2 = [] → x.own2 = [] → x.stopping = false → (s.ward w).nrep = 1 →
      (s.ward w).replica = 0 → s.leads w = true → s.otherModules w = [] →
      ∀ o : PassTwo, o = s.passTwo w c x.steerFactor x.record.dies → o.poison = false →
        (o.bad = none → Answers (.passTwoComplete w c) s fun t => rest t ∧ (t.train w c).st = .commit ∧ (t.train w c).stepDone = x.stepDone) ∧
        (o.bad ≠ none → Answers (.passTwoComplete w c) s fun t => rest t ∧ (t.train w c).st = .accum ∧
          (t.train w c).stepDone = x.stepDone ∧ (t.train w c).lastSt = St.nonfinite.code)) ∧
    (x.stopping = false → (x.st = .armed ∨ x.st = .reduce ∨ (x.st = .pass1 ∧ x.passed1 = true) ∨ (x.st = .pass2 ∧ x.passed2 = true) →
      Answers (.armTimeout w c) s fun t => rest t ∧ (t.train w c).st = .faulted ∧
      (t.train w c).lastSt = St.armTimeout.code ∧ (t.train w c).stepDone = x.stepDone)) ∧
    (x.st = .accum ∨ (x.st = .pass1 ∧ x.passed1 = false) → exec (.armTimeout w c) s = .next s)

/-- In every case no other ward changes, and no other context's training. A digest of another replica replaces an earlier one of
the same replica and step; one of this replica's other modules joins what is held. The second hash of a round of two replicas:
an equal digest makes the round good, counted, with its step the last unanimous one; a differing one ends the round, flips which
replica repeats and asks for a rollback with ST_DIVERGENT. A finished checkpoint copy fills its slot with the step copied, valid
unless poison was read. A restore without a verified checkpoint faults the context; with one, without poison, the context goes
on from that checkpoint's step. A die's peer checkpoint whose digest is the one the replica sent is noted, any other is counted
as failed. Answered with a next state under these conditions: DIGEST_EXCHANGE, REHASH_COMPLETE, CHECKPOINT_COPY_COMPLETE,
ROLLBACK_RESTORE_COMPLETE, PEER_CHECKPOINT_ARRIVE. (R352, R353, R354, R355, R356, R357) -/
def Obligations.DigestsCheckpointsAndRestores : Prop :=
  ∀ (s : State) (w c : Nat) (x : Train), s.live = true → x = s.train w c →
    let rest (t : State) := (∀ d, d ≠ c → t.train w d = s.train w d) ∧ ∀ v, v ≠ w → t.ward v = s.ward v
    (∀ g : DigestIn, x.active = true → g.replica ≠ (s.ward w).replica → g.replica < (s.ward w).nrep →
      Answers (.digestExchange w c g) s fun t => ∃ h, OnlyWard s t w { s.ward w with trains := (s.ward w).trains.modify c fun y =>
        { y with digests := (y.digests.filter fun z => !(z.replica == g.replica && z.step == g.step)) ++ [g], holders := h } }) ∧
    (∀ g : DigestIn, x.active = true → g.replica = (s.ward w).replica → g.replica < (s.ward w).nrep → s.otherModules w ≠ [] →
      Answers (.digestExchange w c g) s fun t => rest t ∧ (t.train w c).st = x.st ∧ (t.train w c).digests =
        (x.digests.filter fun z => !(z.replica == (x.joined g).replica && z.step == (x.joined g).step)) ++ [x.joined g]) ∧
    (∀ n r g parts mine own, x.pendRounds = n :: r → x.rehash = true → mine = s.stepDigest w c (if x.stepDone = n then x.half else 1 - x.half) n →
      own = joinDigest mine (digestOf mine.replica n (parts.filter fun p => (s.otherModules w).contains (p.1 / 8))) →
      (own.dig = g.dig → Answers (.rehashComplete w c ⟨g, parts⟩) s fun t => rest t ∧ (s.runModules w ≠ [] → .digest c own ∈ t.sent) ∧ (t.train w c).rehash = false ∧
        (t.train w c).lastUnan = some n ∧ (t.train w c).pendRounds = x.pendRounds.filter (· ≠ n) ∧
        (t.ward w).rounds = incSat (s.ward w).rounds ∧ (t.ward w).replSwap = (s.ward w).replSwap) ∧
      (own.dig ≠ g.dig → Answers (.rehashComplete w c ⟨g, parts⟩) s fun t => rest t ∧ (s.runModules w ≠ [] → .digest c own ∈ t.sent) ∧ (t.train w c).rehash = false ∧
        (t.train w c).repeatStep = some n ∧ (t.train w c).rollbackDue = some (x.rollbackDue.getD St.divergent.code) ∧
        (t.train w c).pendRounds = x.pendRounds.filter (· ≠ n) ∧ (t.ward w).replSwap = !(s.ward w).replSwap)) ∧
    (∀ k h n, x.copying = some (k, h, n) → Answers (.checkpointCopyComplete w c) s fun t => rest t ∧ (t.train w c).copying = none ∧
      (t.train w c).st = x.st ∧
      (k = 0 → (t.train w c).k0Step = n ∧ (t.train w c).k1Step = x.k1Step ∧ (t.train w c).k1Valid = x.k1Valid ∧
        (t.train w c).k0Valid = !(s.copyRegion w c (fun r d => r.halfVa d h) (fun r d => r.slotVa d 0)).2) ∧
      (k = 1 → (t.train w c).k1Step = n ∧ (t.train w c).k0Step = x.k0Step ∧ (t.train w c).k0Valid = x.k0Valid ∧
        (t.train w c).k1Valid = !(s.copyRegion w c (fun r d => r.halfVa d h) (fun r d => r.slotVa d 1)).2)) ∧
    (x.st = .rollback → x.stopping = false →
      (x.newest = none → Answers (.rollbackRestoreComplete w c) s fun t => rest t ∧ (t.train w c).st = .faulted ∧
        (t.train w c).lastSt = St.poison.code) ∧
      (∀ k, x.newest = some k → (s.copyRegion w c (fun r d => r.slotVa d k) (fun r d => r.halfVa d x.half)).2 = false → x.runHold = false →
        Answers (.rollbackRestoreComplete w c) s fun t => rest t ∧ (t.train w c).st = .accum ∧ (t.train w c).stepDone = x.kStep k ∧
          (t.train w c).half = x.half)) ∧
    (∀ d m bytes g r, x.peerMode = true → x.st ≠ .runHeld → d ∈ x.record.dies → d ∉ x.peerGot →
      (x.digests.find? fun y => y.replica = m) = some g → r = x.record → ∀ dig,
        dig = (s.writeVa w c (r.slotVa d 0) (bytes.take r.half)).dieDigest w c r (r.slotVa d 0) d →
      ((g.dies.getD (r.dies.idxOf d) (0, 0)).2 = dig → (∃ e ∈ r.dies, e ≠ d ∧ e ∉ x.peerGot) →
        Answers (.peerCheckpointArrive w c d m bytes) s fun t => rest t ∧ t.train w c = { x with peerGot := x.peerGot ++ [d] }) ∧
      ((g.dies.getD (r.dies.idxOf d) (0, 0)).2 ≠ dig → x.peerTries.get d + 1 < 4 * (x.roundOf g.step).length →
        Answers (.peerCheckpointArrive w c d m bytes) s fun t => rest t ∧
          t.train w c = { x with peerTries := x.peerTries.set d (x.peerTries.get d + 1) }))

/-- For the step point of a ward with a beat that is not closed. With no work under the ward's job, or for a one-module job
whose every unit has finished, and no hold so far: the beat is closed and nothing else changes. With a unit unfinished, below
the limit and with no late plate that is abandoned now: the beat is held one step more; the counters rise (held beats once a
beat), BEA_LAST_HOLD names the steps, the beat and the unit of lowest die, then UNIT, then IDX. At the limit: overrun, the beat
is closed, the job faults with ST_BEAT_OVERRUN, a record of class 0x0B is written. A closed beat: nothing. Answered with a next
state under these conditions: BEAT_STEP_POINT. (R174, R176, R177, R178, R191, R195) -/
def Obligations.BeatsCloseHoldOrOverrun : Prop :=
  (∀ l u, firstUnit l = some u → u ∈ l ∧ ∀ v ∈ l, unitBefore v u = false) ∧ (∀ l, firstUnit l = none ↔ l = []) ∧
  ∀ (s : State) (w : Nat) (x : Ward), s.live = true → w < 8 → x = s.ward w → x.hasBeat = true →
    (x.closed = true → exec (.beatStepPoint w) s = .next s) ∧
    (x.closed = false → x.holdSteps = 0 → (x.running = false ∨ x.multi = false ∧ x.working = false) →
      Answers (.beatStepPoint w) s fun t => OnlyWard s t w { x with closed := true, holding := false }) ∧
    (x.closed = false → x.working = true → x.multi = false → (x.holdSteps < x.lateSteps ∨ x.latePlates = []) →
      (s.unfinished w = [] → x.holdSteps = 0 → Answers (.beatStepPoint w) s fun t =>
        OnlyWard s t w { x with closed := true, holding := false }) ∧
      (∀ u, firstUnit (s.unfinished w) = some u →
        (x.holdSteps < x.holdMax → Answers (.beatStepPoint w) s fun t => OnlyWard s t w
          { x with holding := true, holdSteps := x.holdSteps + 1, heldSteps := incSat x.heldSteps,
                   heldBeats := if x.holdSteps = 0 then incSat x.heldBeats else x.heldBeats,
                   tieLate := if x.holdSteps = 0 ∧ x.latePlates ≠ [] then incSat x.tieLate else x.tieLate,
                   lastHold := { steps := BitVec.ofNat 16 (min (x.holdSteps + 1) 0xFFFF), unit := u.2.1, die := u.1, idx := u.2.2,
                                 beatLo := x.num.setWidth 32 } }) ∧
        (x.holdMax ≤ x.holdSteps → x.mb.rollHeld = false → Answers (.beatStepPoint w) s fun t =>
          (t.ward w).overrun = true ∧ (t.ward w).closed = true ∧ (t.ward w).num = x.num ∧
          (∀ j, x.job = some j → (t.ward w).job = some { j with fault := some (j.fault.getD .beatOverrun) }) ∧
          (∀ v, v ≠ w → t.ward v = s.ward v) ∧ t.saf.seqNext = s.saf.seqNext + 1 ∧
          (1 ≤ s.saf.seqNext → (t.faults.get ((s.saf.seqNext - 1) % faultRing)).cls = 0x0B))))

/-- For a ward with a closed beat whose boundary names no held command, and where none waits its turn: the beat number rises by
one, or becomes the number that a BOUNDARY marker gave; the beat is open with the period told and no hold step; the ward holds
the same dies; and no healthy tile of the ward is left waiting at BEAT. While the beat is not closed the event changes nothing.
Answered with a next state under these conditions: BEAT_BOUNDARY. (R145, R172, R173, R178, R179, R190, R196) -/
def Obligations.BoundariesCountBeats : Prop :=
  ∀ (s : State) (w : Nat) (ns : W32) (x : Ward), s.live = true → w < 8 → x = s.ward w → x.hasBeat = true →
    (x.closed = false → exec (.beatBoundary w ns) s = .next s) ∧
    (x.closed = true → x.mb.due = [] → (∀ h ∈ x.heldOps, h.waits = false) → Answers (.beatBoundary w ns) s fun t => let y := t.ward w
      y.num = (match x.mb.verdict with | some (true, b) => b | _ => x.num + 1) ∧ y.period = ns ∧ y.closed = false ∧ y.holdSteps = 0 ∧
      y.holding = false ∧ y.dies = x.dies ∧
      ∀ i ∈ y.tiles, (t.tile i).health ≠ .fenced → (t.tile i).st ≠ .atBeat)

/-- Of a job on several modules. A READY of a module of the job for this beat joins those the master holds; BOUNDARY, HOLD and
START markers that the ward takes leave their verdict with their beat number; one that the ward does not take changes nothing.
The master, with every module ready, no hold by roll call and the job begun, decides for the boundary with the next number and
sends it to every other module; with a module missing it sends HOLD. A verdict for the boundary closes an unheld beat; one to
hold is used up and holds the beat by a step. A marker lost holds the beat, and the ward keeps that it was lost. Answered with a
next state under these conditions: MASTER_DECIDE, VERDICT_APPLY, MARKER_LOST, MARKER_READY, MARKER_BOUNDARY, MARKER_HOLD,
MARKER_START. (R180, R181, R183, R391, R401) -/
def Obligations.MarkersDecideTheBeat : Prop :=
  ∀ (s : State) (w : Nat) (x : Ward), s.live = true → w < 8 → x = s.ward w →
    (∀ src m, x.running = true → x.multi = true → x.master = true → m.jobward = w → m.master = s.linkAddr → src ∈ x.modules →
      (x.working = false ∨ m.beat = x.num) → src ∉ x.mb.ready → Answers (.markerReady w src m) s fun t =>
        OnlyWard s t w { x with mb := { x.mb with ready := x.mb.ready ++ [src] } }) ∧
    (∀ src m, src ∈ x.mb.ready → exec (.markerReady w src m) s = .next s) ∧
    (∀ m, x.takes m = true →
      (x.working = true → m.beat = x.num + 1 → Answers (.markerBoundary w m) s fun t =>
        OnlyWard s t w { x with mb := { x.mb with verdict := some (true, m.beat), due := m.cmds } }) ∧
      (x.working = true → m.beat = x.num → Answers (.markerHold w m) s fun t =>
        OnlyWard s t w { x with mb := { x.mb with verdict := some (false, m.beat) } }) ∧
      (x.working = false → Answers (.markerStart w m) s fun t =>
        OnlyWard s t w { x with mb := { x.mb with verdict := some (true, m.beat), due := [] } })) ∧
    (∀ m, x.takes m = false → exec (.markerBoundary w m) s = .next s ∧ exec (.markerHold w m) s = .next s ∧ exec (.markerStart w m) s = .next s) ∧
    (x.working = true → x.multi = true → x.master = true → x.mb.verdict = none → x.closed = false → x.mb.dead = false →
      ((∀ m ∈ x.modules, m ∈ x.mb.ready) → x.mb.rollHeld = false → Answers (.masterDecide w) s fun t => OneWard s t w
          { x with mb := { x.mb with verdict := some (true, x.num + 1), due := x.mb.cmds.take 24, cmds := x.mb.cmds.drop (x.mb.cmds.take 24).length } } ∧
        ∀ m ∈ x.modules, m ≠ s.linkAddr → .marker m 2 w (x.num + 1) (x.mb.cmds.take 24) ∈ t.sent) ∧
      ((∃ m ∈ x.modules, m ∉ x.mb.ready) → Answers (.masterDecide w) s fun t => OneWard s t w
          { x with mb := { x.mb with verdict := some (false, x.num), due := [] } } ∧
        ∀ m ∈ x.modules, m ≠ s.linkAddr → .marker m 3 w x.num [] ∈ t.sent)) ∧
    (x.running = true → x.closed = false → x.mb.lostMark = false → x.mb.dead = false → ∀ late b,
      (x.mb.verdict = some (true, b) → x.holdSteps = 0 → Answers (.verdictApply w late) s fun t =>
        OnlyWard s t w { x with skewLate := x.skewLate || late, closed := true, holding := false }) ∧
      (x.mb.verdict = some (false, b) → x.holdSteps < x.holdMax → Answers (.verdictApply w late) s fun t => SameUnits s t ∧
        (∀ v, v ≠ w → t.ward v = s.ward v) ∧ (t.ward w).mb = { x.mb with verdict := none } ∧ (t.ward w).holdSteps = x.holdSteps + 1 ∧
        (t.ward w).holding = true ∧ (t.ward w).closed = false ∧ (t.ward w).skewLate = (x.skewLate || late))) ∧
    (x.working = true → x.multi = true → x.master = false → x.closed = false → x.mb.verdict = none → x.mb.lostMark = false →
      x.holdSteps < x.holdMax → Answers (.markerLost w) s fun t => (∀ v, v ≠ w → t.ward v = s.ward v) ∧ (t.ward w).markerLost = true ∧
        (t.ward w).mb = { x.mb with lostMark := true } ∧ (t.ward w).holdSteps = x.holdSteps + 1 ∧ (t.ward w).lastHold.unit = 8 ∧
        (t.ward w).lastHold.idx = x.masterId)

/-- A legal write of DMA_START by the owner of the die: a running channel keeps its run and notes the write as lost; otherwise
the halves written are held, and a write of the upper half with a count that is not 0 starts the run at the start address with
bits 5:0 cleared. Anybody else is refused. A fetch by a running channel without a descriptor reads 64 bytes under the context
that may read them: an illegal one stops the run with cause 0x30 and ST_PROTECTION; a legal dense one, with a legal shape
record, no fetch-time cause and nothing to read from a peer, is in progress. The end of a squash leaves the channel squashed,
counts the descriptors not run and raises the interrupt. Other channels never change. Answered with a next state under these
conditions: DMA_START, DMA_DESCRIPTOR_FETCH, SQUASH_COMPLETE. (R36, R227, R228, R229, R231, R254, R255, R256, R262, R264) -/
def Obligations.ChannelsStartFetchAndSquash : Prop :=
  (∀ (s : State) (r : Req) (c : Nat) (g : RegW) (x : Chan) (v : W64) (w : Nat), s.live = true → s.chanExists c = true → g.legal = true →
    s.wardOfDie (c / 64) = some w → x = s.chan c → v = g.into64 (BitVec.ofNat 64 (x.heldLo.toNat + x.heldHi.toNat * 2 ^ 32)) →
    let y := { x with heldLo := v.setWidth 32, heldHi := BitVec.ofNat 32 (v.toNat / 2 ^ 32) }
    (s.ownsDie r (c / 64) = false → exec (.dmaStart r c g) s = .next s.refuse) ∧
    (s.ownsDie r (c / 64) = true →
      (x.st = .running → Answers (.dmaStart r c g) s fun t => OnlyChan s t c { x with lost := true }) ∧
      (x.st ≠ .running → g.hitsHi = true → wf v 63 48 ≠ 0 → Answers (.dmaStart r c g) s fun t => OnlyChan s t c
        { y with st := .running, status := 0, cause := 0, remain := BitVec.ofNat 16 (wf v 63 48), kicked := false, kicker := none,
                 next := BitVec.ofNat 48 (wf v 47 0 / 64 * 64), cur := BitVec.ofNat 48 (wf v 47 0 / 64 * 64), desc := none, pos := 0,
                 squashing := none }) ∧
      (x.st ≠ .running → g.hitsHi = false ∨ wf v 63 48 = 0 → Answers (.dmaStart r c g) s fun t => OnlyChan s t c y))) ∧
  (∀ (s z s1 : State) (c w oc : Nat) (seen : List (Nat × Byte)) (x : Chan) (o : RdOut) (d0 : Desc), s.wardOfDie (c / 64) = some w →
    x = s.chan c → x.st = .running → x.desc = none → x.squashing = none → z = s.seen seen →
    z.fetchCtx w x.next.toNat (hpPort c) = some oc → z.readVa w oc x.next.toNat 64 = (s1, o) →
    o.bad.any id = false → o.soft.any id = false → d0 = { words := words8 o.bytes, sshape := {}, dshape := {}, dense := true } →
    ∀ b, b = s1.modChan c (fun x => { x with cur := x.next }) →
    (d0.illegal = true → Answers (.dmaDescriptorFetch c seen) s fun t => (t.chan c).st = .stopped ∧ (t.chan c).cause = 0x30 ∧
      (t.chan c).status = St.protection.code ∧ (t.chan c).desc = none ∧ (t.chan c).cur = x.next ∧ ∀ k, k ≠ c → t.chan k = s.chan k) ∧
    (∀ b2 sw d, d0.illegal = false → b.ctxBad w x.next.toNat d0.ctx oc (hpPort c) = none →
      b.readShape w d0.ctx d0.sshp (hpPort c) = (b2, some sw) → shapeOk sw = true → d0.dshp = 0 →
      d = { d0 with sshape := shapeOf sw, dshape := ({ d0 with sshape := shapeOf sw } : Desc).denseShape } →
      b2.fetchBad w d = none → b2.peerPieces c w d = [] → Answers (.dmaDescriptorFetch c seen) s fun t =>
        t.chan c = { x with cur := x.next, desc := some d } ∧ (∀ k, k ≠ c → t.chan k = s.chan k) ∧ SameWards s t ∧ t.tiles = s.tiles)) ∧
  ∀ (s : State) (c : Nat) (st : St), (s.chan c).squashing = some st → Answers (.squashComplete c) s fun t =>
    t.chan c = { s.chan c with st := .squashed, squashing := none, desc := none, irqPend := true,
                               squashCnt := incSat (s.chan c).squashCnt (s.chan c).remain.toNat } ∧
    (∀ k, k ≠ c → t.chan k = s.chan k) ∧ SameWards s t ∧ ∀ a, t.rdByte a = s.rdByte a

/-- For a running channel with a descriptor in progress whose every access is legal and waits for no clear, whose sources a
store can give, whose supplied exponents are good and whose result every destination can carry. The count falls by one, the
position and the count of done descriptors rise, the next address is the descriptor's, the generator is what the conversion
left; with the last descriptor the channel is idle with its interrupt pending. No other channel changes. Where no write goes to
the host or to a peer, no completion word is asked for and no staging area is used, every byte of module memory outside the
256-byte sectors that the writes of the descriptor translate to reads as before. Answered with a next state under these
conditions: DMA_DESCRIPTOR_COMPLETE. (R227, R228, R229, R235, R238, R242, R243, R265, R266, R269) -/
def Obligations.DescriptorsCompleteInOrder : Prop :=
  ∀ (s u z : State) (c w : Nat) (seen : List (Nat × Byte)) (reports : List HbmRep) (x : Chan) (d : Desc) (o : DOut),
    s.wardOfDie (c / 64) = some w → x = s.chan c → x.desc = some d → x.st = .running → x.squashing = none → u = s.seen seen →
    u.descOk w d (hpPort c) = true → u.supBad w d = false → u.rawSoft w d = false →
    u.waitsClear w d.ctx d.allAccesses (hpPort c) = false → z = u.hbmReports reports →
    o = dmaPlan z w d x.gen (z.ward w).jb (badSectors reports) → z.cannotCarry w d.ctx o.ws = false →
    Answers (.dmaDescriptorComplete c seen reports) s fun t =>
      t.chan c = { x with gen := o.gen, done := x.done + 1, remain := x.remain - 1, pos := x.pos + 1, desc := none, counted := 0,
                          next := BitVec.ofNat 48 (d.next / 64 * 64), cur := if x.remain = 1 then x.cur else BitVec.ofNat 48 (d.next / 64 * 64),
                          st := if x.remain = 1 then .idle else .running, irqPend := x.irqPend || x.remain == 1 } ∧
      (∀ k, k ≠ c → t.chan k = s.chan k) ∧
      (d.cf = false → d.stageBytes = 0 →
        (∀ y ∈ o.ws, ∀ k < y.bytes.length, ∀ l, s.xlate w d.ctx (y.va + k) true = .ok l → l.kind = .stack ∨ l.kind = .store) →
        ∀ p < 2 ^ 48, (∀ y ∈ o.ws, ∀ k < y.bytes.length, ∀ l, s.xlate w d.ctx (y.va + k) true = .ok l → l.pa / 256 ≠ p / 256) →
          t.rdByte p = s.rdByte p)

/-- For a running channel, not squashed, whose descriptor (or its fetch) makes the access named and where translation refuses it
with a status other than ST_KEY_RETIRED: the channel is stopped with cause 0x38, that status and the failing address, its
interrupt is pending and its descriptor gone; the ward's count of faults rises; a run that a tile kicked faults the job of the
ward with that status unless a fault was noted before; no other channel and no other ward changes. An access that the channel
does not make, or that translation grants, changes nothing. Answered with a next state under these conditions: DMA_ACCESS_ERROR.
(R251, R255, R256, R257, R258, R259, R265, R267, R270) -/
def Obligations.FailedAccessesStopTheRun : Prop :=
  ∀ (s z : State) (c w : Nat) (va : Addr) (wr : Bool) (seen : List (Nat × Byte)) (x : Chan), s.wardOfDie (c / 64) = some w → x = s.chan c →
    x.st = .running → x.squashing = none → z = s.seen seen →
    (((z.chanAccesses c w).find? fun a => inAccess va.toNat (some wr) a) = none → exec (.dmaAccessError c ⟨.translate va wr, seen⟩) s = .next s) ∧
    (∀ a, ((z.chanAccesses c w).find? fun a => inAccess va.toNat (some wr) a) = some a →
      (∀ l, s.xlate w a.2.2.2 va.toNat wr (hpPort c) = .ok l → exec (.dmaAccessError c ⟨.translate va wr, seen⟩) s = .next s) ∧
      (∀ st, s.xlate w a.2.2.2 va.toNat wr (hpPort c) = .error st → st ≠ .keyRetired → Answers (.dmaAccessError c ⟨.translate va wr, seen⟩) s fun t =>
        (t.chan c).st = .stopped ∧ (t.chan c).cause = 0x38 ∧ (t.chan c).status = st.code ∧ (t.chan c).faultVa = va ∧
        (t.chan c).desc = none ∧ (t.chan c).irqPend = true ∧ (t.chan c).remain = x.remain ∧ (∀ k, k ≠ c → t.chan k = s.chan k) ∧
        (t.ward w).xlatFaults = incSat (s.ward w).xlatFaults ∧ (∀ v, v ≠ w → t.ward v = s.ward v) ∧
        (x.kicked = true → ∀ j, (s.ward w).job = some j → ∃ j', (t.ward w).job = some j' ∧ j'.fault = some (j.fault.getD st)) ∧
        (x.kicked = false → (t.ward w).job = (s.ward w).job)))

/-- With tile i fetching the instruction. KICK of a host-port channel on a die without a port takes PORT_CHANNEL; of a running
channel it stalls; with count 0 it starts nothing; otherwise the channel starts at a[AD], kicked by this tile, and no other
channel changes. TAG, with no operation under way in its banks, gives each named bank the tag; exactly the bytes of those whose
tag changes read 0 afterwards, all others as before, and their clear is under way until TAG_CLEAR_COMPLETE takes that bank's
bit; with one under way it stalls. STAT, with no drain or chain program of the tile under way, has the 48-byte records of its
sites under way, and with CLR those sites are zero; with one under way it stalls; a record outside the store takes VIEW_RANGE.
STAT_COMPLETE, with no bank that it writes under clearing, stores the oldest records in the tile's store and changes no other
byte. Answered with a next state under these conditions: KICK, TAG, TAG_CLEAR_COMPLETE, STAT, STAT_COMPLETE. (R57, R64, R121,
R138, R139, R140, R141, R142, R143, R144) -/
def Obligations.KicksTagsAndStatistics : Prop :=
  ∀ (s : State) (i w : Nat) (x : Tile), x = s.tile i →
    (∀ (f : KickF) c cnt, s.fetches i (.kick i f) w → c = 64 * (i / 64) + f.ch + (if f.hp then 32 else 0) →
      cnt = (if f.ks then (x.kreg f.ki).toNat % 65536 else f.cnt) →
      (f.hp = true → i / 64 ≠ 0 → i / 64 ≠ 4 → exec (.kick i f) s = .next (s.takeExc w i 0x17 0)) ∧
      (f.hp = false ∨ i / 64 = 0 ∨ i / 64 = 4 →
        ((s.chan c).st = .running → Answers (.kick i f) s fun t => Stalls s t i) ∧
        ((s.chan c).st ≠ .running → s.nextPc i < x.codeEnd →
          (cnt = 0 → Answers (.kick i f) s fun t => Issued s t i (.kick i f) x (s.nextPc i)) ∧
          (cnt ≠ 0 → Answers (.kick i f) s fun t => Issued { s with chans := t.chans } t i (.kick i f) x (s.nextPc i) ∧
            t.chan c = (s.chan c).start (x.areg f.ad).toNat cnt (some i) ∧ ∀ k, k ≠ c → t.chan k = s.chan k)))) ∧
    (∀ (f : TagF) (tag : W16), s.fetches i (.tag i f) w → tag = BitVec.ofNat 16 (x.areg f.ac).toNat →
      ((s.busyBanks i).any (bankList f.bmask).contains = true ∨ (s.chainBanks i).any (bankList f.bmask).contains = true →
        Answers (.tag i f) s fun t => Stalls s t i) ∧
      ((s.busyBanks i).any (bankList f.bmask).contains = false → (s.chainBanks i).any (bankList f.bmask).contains = false →
        Memory.wf s.mem = true → s.nextPc i < x.codeEnd → Answers (.tag i f) s fun t => ∃ y : Tile,
        Issued { s with mem := t.mem } t i (.tag i f) y (s.nextPc i) ∧
        y = { x with tags := y.tags, clearing := y.clearing, tagCnt := y.tagCnt, badWords := y.badWords } ∧
        (∀ k, k ∈ y.badWords → k ∈ x.badWords) ∧
        (∀ b, y.tags.get b = if b < 32 ∧ f.bmask.getLsbD b = true then tag else x.tags.get b) ∧
        (∀ b, b < 32 → y.clearing.getLsbD b = (x.clearing.getLsbD b || (f.bmask.getLsbD b && x.tags.get b != tag))) ∧
        (∀ a, t.rdByte a = if tileBase i ≤ a ∧ a < tileBase i + 2097152 ∧ f.bmask.getLsbD ((a - tileBase i) / 65536) = true ∧
          x.tags.get ((a - tileBase i) / 65536) ≠ tag then 0 else s.rdByte a))) ∧
    (∀ bank, Answers (.tagClearComplete i bank) s fun t => OnlyTile s t i { x with clearing := x.clearing &&& ~~~(1#32 <<< bank) }) ∧
    (∀ (f : StatF) base, s.fetches i (.stat i f) w → base = (x.areg f.ad).toNat / 16 * 16 →
      (x.draining ≠ none ∨ s.chainBusy i = true → Answers (.stat i f) s fun t => Stalls s t i) ∧
      (x.draining = none → s.chainBusy i = false →
        (storeBytes < base + 48 * f.ns → exec (.stat i f) s = .next (s.takeExc w i 0x10 (sat32 (max base storeBytes)))) ∧
        (s.nextPc i < x.codeEnd → base + 48 * f.ns ≤ storeBytes → Answers (.stat i f) s fun t => ∃ l : Landing,
          Issued { s with sites := t.sites, wards := t.wards } t i (.stat i f) { x with stats := x.stats ++ [l] } (s.nextPc i) ∧
          (∀ v, (s.ward v).statZeroed = false → t.ward v = s.ward v) ∧
          (∀ k b, k < f.ns → b < 48 → (base + 48 * k + b, (s.sites.get (i / 64 * 1024 + f.site + k)).bytes.getD b 0) ∈ l.cells) ∧
          (∀ k, t.sites.get k = if f.clr = true ∧ i / 64 * 1024 + f.site ≤ k ∧ k < i / 64 * 1024 + f.site + f.ns then default
            else s.sites.get k)))) ∧
    (∀ l r, x.stats = l :: r → x.anyClearing (l.cells.map fun c => c.1 / 65536).dedup = false → Answers (.statComplete i) s fun t => ∃ bw,
      OnlyTile { s with mem := t.mem } t i { x with stats := r, badWords := bw } ∧ (x.badWords = [] → bw = []) ∧
      (∀ a, (∀ o b, (o, b) ∈ l.cells → tileBase i + o ≠ a) → t.rdByte a = s.rdByte a) ∧
      (∀ o b, (o, b) ∈ l.cells → (∀ b', (o, b') ∈ l.cells → b' = b) → t.rdByte (tileBase i + o) = b))

/-- CHAIN, on a quad whose engine is not fenced and whose queue of eight has room, puts (issuer, descriptor address, rows) at
its end; a full queue stalls, a fenced engine takes nothing and the tile goes on. The engine, idle, starts the oldest program
when its header, records and ranges are legal: the program runs from row 0 and leaves the queue; an illegal one is an error of
its own, its first one kept, the program dropped and the job faulted. A row or a landing that a store could not serve, as in a
bank under clearing, counts a stalled cycle. A row served with good checks moves the program on by one row and counts it. The
completion after the last row leaves the engine idle. No other engine and no tile's registers change by what the engine does.
(No store has an uncorrectable word here: log entry 165.) Answered with a next state under these conditions: CHAIN,
CHAIN_PROGRAM_START, CHAIN_ROW, CHAIN_PROGRAM_COMPLETE. (R137, R141, R197, R198, R213, R214, R215, R218, R223, R225) -/
def Obligations.ChainProgramsRunRowByRow : Prop :=
  (∀ (s : State) (i w : Nat) (x : Tile) (f : ChainF), x = s.tile i → s.fetches i (.chain i f) w →
    ((s.quad (i / 4)).fenced = true → s.nextPc i < x.codeEnd → Answers (.chain i f) s fun t => Issued s t i (.chain i f) x (s.nextPc i)) ∧
    ((s.quad (i / 4)).fenced = false → 8 ≤ (s.quad (i / 4)).queue.length → Answers (.chain i f) s fun t => Stalls s t i) ∧
    ((s.quad (i / 4)).fenced = false → (s.quad (i / 4)).queue.length < 8 → s.nextPc i < x.codeEnd → Answers (.chain i f) s fun t =>
      Issued { s with quads := t.quads } t i (.chain i f) x (s.nextPc i) ∧
      t.quad (i / 4) = { s.quad (i / 4) with queue := (s.quad (i / 4)).queue ++ [⟨i % 4, (x.areg f.ad).toNat, f.rows⟩] } ∧
      ∀ k, k ≠ i / 4 → t.quad k = s.quad k)) ∧
  (∀ (s : State) (q : Nat) (x : Quad) (p : ChainProg) (rest : List ChainProg), x = s.quad q → x.run = none → x.queue = p :: rest →
    (s.tile (s.quadTile q p.issuer)).badWords = [] → ∀ off wd d, off = p.off / 16 * 16 → wd = s.storeW64 (s.quadTile q p.issuer) off → d = chainDescOf wd →
    (rangesBad [⟨0, off, 16⟩] = none → rangesBad [⟨0, off, 96 + 16 * d.stages.length⟩] = none →
      (descBad p.rows wd = [] → chainRange d off p.rows = none → d.clashes p.rows = [] → Answers (.chainProgramStart q) s fun t => ∃ g,
        OnlyQuad s t q { x with queue := rest, gens := g, run := some { issuer := p.issuer, rows := p.rows, desc := d, clash := [] } } ∧
        (d.seed = 0 → g = x.gens)) ∧
      (∀ b bs, descBad p.rows wd = b :: bs → Answers (.chainProgramStart q) s fun t => (t.quad q).queue = rest ∧ (t.quad q).run = none ∧
        (t.quad q).faultValid = true ∧ (x.faultValid = false → (t.quad q).faultCause = 0x20 ∧ (t.quad q).faultRecord = b ∧
          (t.quad q).faultIssuer = p.issuer) ∧ (x.faultValid = true → (t.quad q).faultCause = x.faultCause) ∧
        (∀ k, k ≠ q → t.quad k = s.quad k) ∧ t.tiles = s.tiles))) ∧
  ∀ (s : State) (q : Nat) (x : Quad) (r : ChainRun), x = s.quad q → x.run = some r →
    (∀ chk, Answers (.chainRow q false chk) s fun t => OnlyQuad s t q { x with stallCnt := x.stallCnt + 1 }) ∧
    (∀ chk, r.row < r.rows → s.chainClearing q (r.desc.rowRanges r.results r.row) = true → Answers (.chainRow q true chk) s fun t =>
      OnlyQuad s t q { x with stallCnt := x.stallCnt + 1 }) ∧
    (r.row < r.rows → s.chainClearing q (r.desc.rowRanges r.results r.row) = false → (∀ i, (s.tile i).badWords = []) →
      Answers (.chainRow q true .good) s fun t => ∃ r', (t.quad q).run = some r' ∧ r'.row = r.row + 1 ∧ r'.rows = r.rows ∧
      r'.issuer = r.issuer ∧ r'.desc = r.desc ∧ (t.quad q).rowsCnt = x.rowsCnt + 1 ∧ (t.quad q).queue = x.queue ∧
      (t.quad q).jobBad = x.jobBad ∧ (∀ k, k ≠ q → t.quad k = s.quad k) ∧ t.tiles = s.tiles) ∧
    (∀ chk, r.rows ≤ r.row → exec (.chainRow q true chk) s = .next s) ∧
    (r.rows ≤ r.row → Answers (.chainProgramComplete q) s fun t => (t.quad q).run = none ∧ (t.quad q).queue = x.queue ∧
      (∀ k, k ≠ q → t.quad k = s.quad k) ∧ ((∀ i, (s.tile i).badWords = []) → t.tiles = s.tiles)) ∧
    (r.row < r.rows → exec (.chainProgramComplete q) s = .next s)

/-- For a developer whose front operation is of the command's kind and has not ended; other developers stay, and all tile
registers where no tile store holds an uncorrectable word. MOVE, QUANT and ENCODE with every source and destination accessible
end well (ENCODE of a symbol without a code: with ST_TIER_FAIL and cause 0x40); a source that is not ends with its status and
cause 0x48, writes nothing, and counts in FAULTS where a check refused it. Of a spill the encoding is noted with the sequence,
its output counted; of a sequence that has ended nothing is written. DEVELOP of a negative whose magic or fields are wrong ends
with ST_TIER_FAIL and cause 0x40, of one with a single good frame well. Bytes that the command tells of are read, an
uncorrectable read of the ward's control structures ends the operation poisoned and resets the ward. Where no MOVE heads the
queue, MOVE makes the oldest RAW copy. An operation of another kind, or one already ended: nothing. Answered with a next state
under these conditions: DEVELOP, QUANT, MOVE, ENCODE. (R270, R273, R276, R277, R278, R279, R286, R288, R289, R294, R295) -/
def Obligations.DeveloperOperationsEnd : Prop :=
  (∀ (s : State) (d : Nat) (x : Dev) (o o1 : DevOp) (rest : List DevOp) (n u : Nat) (y : Ward), x = s.dev d → x.queue = o :: rest → y = s.ward o.ward →
    n = o.count → o1 = o.plateSrc → u = devUnit o.pkind o.pfmt →
    let cmd (seen : List (Nat × Byte)) (reports : List HbmRep) : Instr := match o.kind with
      | .develop => .develop d seen reports
      | .quant => .quant d ⟨seen, reports⟩
      | .move => .move d ⟨seen, reports⟩
      | .encode => .encode d ⟨seen, reports⟩
    let same (t : State) := (t.dev d).queue = x.queue ∧ (∀ k, k ≠ d → t.dev k = s.dev k) ∧ ((∀ i, (s.tile i).badWords = []) → t.tiles = s.tiles)
    let fails (t : State) (f : AccFail) := t.dev d = { x with ended := some { status := f.st, cause := 0x48, lost := f.lost } } ∧ same t ∧
      t.mem = s.mem ∧ (t.ward o.ward).xlatFaults = (if f.refused then incSat y.xlatFaults else y.xlatFaults)
    (x.ended = none →
      (∀ seen reports, (∀ r ∈ reports, r.uncorr = false) → exec (cmd seen reports) s = exec (cmd [] []) ((s.seen seen).hbmReports reports)) ∧
      (∀ seen reports, (∃ r ∈ reports, r.uncorr = true ∧ s.ctrlSector o.ward r.sector = true) → y.st = .running → y.job.isSome = true →
        Answers (cmd seen reports) s fun t => (t.ward o.ward).st = .resetting ∧ (t.ward o.ward).resetStatus = St.poison.code ∧
          (t.dev d).ended = some { status := .poison, cause := 0x48 } ∧ (t.dev d).queue = x.queue)) ∧
    (x.ended = none → o.kind = .move → (∀ c, o.use ≠ .build c) →
      (∀ f, s.spansBad o.ward o.ctx (y.srcSpans o1 0 (n * u)) false = some f → Answers (.move d {}) s fun t => fails t f) ∧
      (s.spansBad o.ward o.ctx (y.srcSpans o1 0 (n * u)) false = none →
        (∀ k < n, ∀ sp, o1.unitSpans y (decide (o.pkind < 2)) k u = some sp → s.spansBad o.ward o.ctx sp true = none) →
        Answers (.move d {}) s fun t => (t.dev d).ended = some { poison := (s.readUnits o1 [] n u).2.2 } ∧ same t)) ∧
    (x.ended = none → o.kind = .move → (∃ c, o.use = .build c) → Answers (.move d {}) s fun t => (t.dev d).ended = some {} ∧ same t) ∧
    (x.ended = none → o.kind = .quant → ∀ c dst, c = cwOf o.cw →
      dst = (if (o.skew && !c.square && c.fmt == .b8 && decide (2 * n ≤ 7455)) = true then [y.dstSpans (o.plateDst true) 0 (272 * (2 * n + 255))]
        else (List.range n).filterMap fun k => o.unitSpans y true k (plateSize c.square c.fmt)) →
      let src := y.srcSpans o 0 ((if o.bf16 then 2 else 4) * (if c.square then 1024 else 512) * n)
      (∀ f, s.spansBad o.ward o.ctx src false = some f → Answers (.quant d {}) s fun t => fails t f) ∧
      (s.spansBad o.ward o.ctx src false = none → (∀ sp ∈ dst, s.spansBad o.ward o.ctx sp true = none) →
        Answers (.quant d {}) s fun t => (t.dev d).ended = some {} ∧ (t.dev d).counted = 0 ∧ same t)) ∧
    (x.ended = none → o.kind = .encode →
      (s.spillOver o = true → Answers (.encode d {}) s fun t => OnlyDev s t d { x with ended := some {} }) ∧
      (s.spillOver o = false → ∀ tv, tv = y.reg oEncTbl + 512 * o.tbl →
        (∀ f, s.spansBad o.ward o.ctx (y.srcSpans o1 0 (n * u)) false = some f → Answers (.encode d {}) s fun t => fails t f) ∧
        (s.spansBad o.ward o.ctx (y.srcSpans o1 0 (n * u)) false = none → s.spansBad o.ward o.ctx [(tv, 512)] false = none →
          ∀ s1 us p s2 tb off bs good s3 o', s.readUnits o1 [] n u = (s1, us, p) → s1.readVa o.ward o.ctx tv 512 = (s2, tb) →
          encodeNeg o.pkind o.pfmt tb.bytes us = (off, bs, good) → s2.spillDst o1 (off + bs.length) = (s3, o') →
          ((∃ i k, o.use = .spill i k ∨ o.use = .swapOut i k) → o'.dst.toNat + off + bs.length ≤ o'.dstChunks.length * chunkBytes) →
          s3.spansBad o.ward o.ctx ((s3.ward o.ward).dstSpans o' off bs.length) true = none → Answers (.encode d {}) s fun t => same t ∧
            t.dev d = { x with ended := some (if good then { poison := p } else { status := .tierFail, cause := 0x40, poison := p }),
                               outBytes := x.outBytes + bs.length } ∧
            ∀ i k, o.use = .spill i k →
              ((t.ward o.ward).seqs.get i).negs = (y.seqs.get i).negs ++ [{ die := d, ord := k, at' := o'.dst.toNat, len := off + bs.length }] ∧
              ((t.ward o.ward).seqs.get i).spillPtr = o'.dst.toNat + (off + bs.length) ∧ ((t.ward o.ward).seqs.get i).chunks = o'.dstChunks))) ∧
    (x.ended = none → o.kind = .develop → ∀ o', o' = s.devSource d o → ∀ sp, sp = y.srcSpans o' 0 576 →
      (∀ f, s.spansBad o'.ward o'.ctx sp false = some f → Answers (.develop d [] []) s fun t => fails t f) ∧
      (s.spansBad o'.ward o'.ctx sp false = none → ∀ s1 b, s.readSpans o'.ward o'.ctx sp [] = (s1, b) →
        (b.bad.any id = true → Answers (.develop d [] []) s fun t =>
          (t.dev d).ended = some { status := .poison, cause := 0x48, poison := true } ∧ same t) ∧
        (b.bad.any id = false → negOf b.bytes = none → Answers (.develop d [] []) s fun t =>
          (t.dev d).ended = some { status := .tierFail, cause := 0x40 } ∧ same t) ∧
        (b.bad.any id = false → ∀ h s2 e off, negOf b.bytes = some h → h.frames = 1 →
          s1.spansBad o'.ward o'.ctx ((s1.ward o'.ward).srcSpans o' h.dirOff 8) false = none →
          s1.readSpans o'.ward o'.ctx ((s1.ward o'.ward).srcSpans o' h.dirOff 8) [] = (s2, e) → e.bad.any id = false → h.frameAt (sliceNat e.bytes 0 8) = some off →
          ∀ z, z = s2.ward o'.ward → s2.spansBad o'.ward o'.ctx (z.srcSpans o' off 16) false = none →
          ∀ s3 hd m, s2.readSpans o'.ward o'.ctx (z.srcSpans o' off 16) [] = (s3, hd) → m = max 16 (min (leNat (hd.bytes.take 4)) (h.length - off)) →
          s3.spansBad o'.ward o'.ctx (z.srcSpans o' off m) false = none →
          ∀ s4 fb, s3.readSpans o'.ward o'.ctx (z.srcSpans o' off m) [] = (s4, fb) → fb.bad.any id = false →
            (∀ c, h.frame fb.bytes 0 off = .error c → Answers (.develop d [] []) s fun t =>
              (t.dev d).ended = some { status := if c = 0x44 then .scaleSkew else .tierFail, cause := c } ∧ same t) ∧
            (∀ us ws, h.frame fb.bytes 0 off = .ok us → ws = frameWrites z o' h 0 us →
              (∀ e ∈ ws, s4.spansBad o'.ward o'.ctx e.1 true = none) →
              Answers (.develop d [] []) s fun t => (t.dev d).ended = some {} ∧ same t ∧
                (t.dev d).outBytes = x.outBytes + (ws.map fun e => e.2.1.length).sum)))) ∧
    (x.ended ≠ none ∨ o.kind ≠ .move →
      (x.copies = [] → ∀ seen reports, exec (.move d ⟨seen, reports⟩) s = .next s) ∧
      (∀ c cr, x.copies = c :: cr → s.softAt c.ward c.ctx ((s.ward c.ward).srcSpans c 0 c.count) = none → Answers (.move d {}) s fun t =>
        t.dev d = { x with copies := cr } ∧ same t)) ∧
    (∀ seen reports, (x.ended ≠ none ∨ o.kind ≠ .quant → exec (.quant d ⟨seen, reports⟩) s = .next s) ∧
      (x.ended ≠ none ∨ o.kind ≠ .encode → exec (.encode d ⟨seen, reports⟩) s = .next s) ∧
      (x.ended ≠ none ∨ o.kind ≠ .develop → exec (.develop d seen reports) s = .next s))) ∧
  ∀ (s : State) (d : Nat) (seen : List (Nat × Byte)) (reports : List HbmRep), (s.dev d).queue = [] →
    exec (.develop d seen reports) s = .next s ∧ exec (.quant d ⟨seen, reports⟩) s = .next s ∧ exec (.encode d ⟨seen, reports⟩) s = .next s ∧
    ((s.dev d).copies = [] → exec (.move d ⟨seen, reports⟩) s = .next s)

/-- DEV_OPERATION_COMPLETE takes the ended operation from the front. A good load heads the copy with its chunk list and notes
the adapter as loaded, a good spill counts off one of the sequence's, and a failed spill of a pre-empted sequence counts off
too, marks the sequence to end with ST_TIER_FAIL and leaves its record; nothing of another ward or developer changes. With none
ended, nothing. A timeout of an access that the developer's operation waits for: it ends with ST_TIER_FAIL and cause 0x48; of
one that a channel makes it is the error of an access without completion. A package reader whose host port gives no data reads
by the second one, where it has one that it does not use; else the distribution fails. Of an access that nothing waits for:
nothing. Answered with a next state under these conditions: DEV_OPERATION_COMPLETE, PEER_TIMEOUT, HOST_COMPLETION_TIMEOUT.
(R260, R278, R285, R288, R289, R295, R304, R305, R325) -/
def Obligations.DeveloperResultsAndTimeouts : Prop :=
  (∀ (s : State) (d : Nat) (x : Dev) (o : DevOp) (r : List DevOp) (e : DevEnd), x = s.dev d → x.queue = o :: r → x.ended = some e →
    let w := o.ward
    let y := s.ward w
    (∀ i ord, o.use = .spill i ord → e.status = .ok → Answers (.devOperationComplete d) s fun t =>
      t.dev d = { x with queue := r, ended := none } ∧ (∀ k, k ≠ d → t.dev k = s.dev k) ∧ t.tiles = s.tiles ∧
      ((t.ward w).seqs.get i).spilling = (y.seqs.get i).spilling - 1 ∧ ((t.ward w).seqs.get i).mark = (y.seqs.get i).mark ∧
      (∀ k, k ≠ i → (t.ward w).seqs.get k = y.seqs.get k) ∧ (∀ v, v ≠ w → t.ward v = s.ward v)) ∧
    (∀ c, o.use = .load c → e.status = .ok → (y.registry.get c).hot = .loading → Answers (.devOperationComplete d) s fun t =>
      t.dev d = { x with queue := r, ended := none } ∧ (∀ k, k ≠ d → t.dev k = s.dev k) ∧
      ((t.ward w).registry.get c).loaded = true ∧ (∀ k, k ≠ c → (t.ward w).registry.get k = y.registry.get k) ∧
      (∀ v, v ≠ w → t.ward v = s.ward v)) ∧
    (∀ i ord, o.use = .spill i ord → e.status ≠ .ok → (y.seqs.get i).st = .preempted → (y.seqs.get i).spillFail = false →
      (y.seqs.get i).mark = none → Answers (.devOperationComplete d) s fun t => (t.dev d).queue = r ∧ (t.dev d).ended = none ∧
      (t.dev d).faultValid = true ∧ (t.dev d).faultStatus = e.status.code ∧ (t.dev d).fails = incSat x.fails ∧
      (∀ k, k ≠ d → t.dev k = s.dev k) ∧ (∀ v, v ≠ w → t.ward v = s.ward v) ∧ (t.ward w).tieFail = incSat y.tieFail ∧
      ((t.ward w).seqs.get i).spillFail = true ∧ ((t.ward w).seqs.get i).mark = some (.tierFail, 4) ∧
      ((t.ward w).seqs.get i).spilling = (y.seqs.get i).spilling - 1)) ∧
  (∀ (s : State) (d : Nat), (s.dev d).ended = none → exec (.devOperationComplete d) s = .next s) ∧
  (∀ (s : State) (va : Addr) (seen : List (Nat × Byte)) (d : Nat) (o : DevOp) (k : LocKind) (c : Instr),
    (k = .peer ∧ c = .peerTimeout (.dev d) ⟨va, seen⟩) ∨ (k = .host ∧ c = .hostCompletionTimeout (.dev d) ⟨va, seen⟩) →
    ((s.dev d).copies = [] → (s.dev d).queue = [] ∨ (s.dev d).ended ≠ none → exec c s = .next s) ∧
    (∀ r, (s.dev d).queue = o :: r → (s.dev d).ended = none →
      (s.waits o.ward o.ctx va k none = false → (s.dev d).copies = [] → exec c s = .next s) ∧
      (s.waits o.ward o.ctx va k none = true → o.kind = .encode → s.spillOver o = false → seen = [] → ∀ n u sp, n = o.count →
        u = devUnit o.pkind o.pfmt → sp = (s.ward o.ward).srcSpans o.plateSrc 0 (n * u) →
        s.spansBad o.ward o.ctx sp false (some va.toNat) = some { st := .tierFail, lost := true } →
        Answers c s fun t => OnlyDev s t d { s.dev d with ended := some { status := .tierFail, cause := 0x48, lost := true } }))) ∧
  (∀ (s : State) (c : Nat) (va : Addr) (seen : List (Nat × Byte)) (w : Nat) (z : State), s.wardOfDie (c / 64) = some w → z = s.seen seen →
    (∀ c', s.wardOfDie (c' / 64) = none → exec (.peerTimeout (.chan c') ⟨va, seen⟩) s = .next s ∧
      exec (.hostCompletionTimeout (.chan c') ⟨va, seen⟩) s = .next s) ∧
    exec (.peerTimeout (.chan c) ⟨va, seen⟩) s =
      (if z.waits w (z.chanCtx c w) va .peer (hpPort c) then exec (.dmaAccessError c ⟨.noCompletion va, seen⟩) s else .next s) ∧
    exec (.hostCompletionTimeout (.chan c) ⟨va, seen⟩) s =
      (if z.waits w (z.chanCtx c w) va .host (hpPort c) then exec (.dmaAccessError c ⟨.noCompletion va, seen⟩) s else .next s)) ∧
  ∀ (s : State) (w : Nat) (va : Addr) (seen : List (Nat × Byte)),
    exec (.peerTimeout (.reader w) ⟨va, seen⟩) s = .next s ∧
    ((s.ward w).dist = none → exec (.hostCompletionTimeout (.reader w) ⟨va, seen⟩) s = .next s) ∧
    ∀ x, (s.ward w).dist = some x →
      (s.live = false ∨ x.reader = false ∨ x.held = true → exec (.hostCompletionTimeout (.reader w) ⟨va, seen⟩) s = .next s) ∧
      (s.live = true → x.reader = true → x.held = false →
        (x.alt ≠ 0 → x.onAlt = false → Answers (.hostCompletionTimeout (.reader w) ⟨va, seen⟩) s fun t =>
          (t.ward w).dist = some { x with onAlt := true }) ∧
        (x.alt = 0 ∨ x.onAlt = true → Answers (.hostCompletionTimeout (.reader w) ⟨va, seen⟩) s fun t =>
          (t.ward w).distFailed = incSat (s.ward w).distFailed ∧ (t.ward w).dist = none))

/-- A legal write of the ward's WRD_STAT_CTL by its owner asks for a snapshot with bit 0, sets the clear mode with bit 1 and
clears the failed bit with bit 2; a ward that counts no beats takes the snapshot at once; anybody else is refused. The end of
the snapshot in progress, where every record of the ward's dies may be written: the snapshot's beat is reported, none is in
progress, the accumulators stay. Where the first may not: the snapshot has failed, that die's controller makes an event with the
status, the snapshot's beat stays, and accumulators that it had zeroed are as they would be without it. Without a snapshot in
progress nothing changes. Answered with a next state under these conditions: STAT_SNAP_REQUEST, STAT_SNAPSHOT_COMPLETE. (R36,
R59, R60, R61, R62, R63, R415) -/
def Obligations.StatisticsSnapshots : Prop :=
  (∀ (s : State) (r : Req) (w : Nat) (g : RegW) (y : Ward), s.live = true → w < 8 →
    y = { s.ward w with statFailed := (s.ward w).statFailed && !g.lo.getLsbD 2, statClear := g.lo.getLsbD 1,
                        statSnap := (s.ward w).statSnap || g.lo.getLsbD 0 } →
    (s.owns r w = false → exec (.statSnapRequest r w g) s = .next s.refuse) ∧
    (s.owns r w = true → g.legal = true → g.off = 0x1000208 + w * 0x100000 →
      (y.hasBeat = true ∨ y.statSnap = false ∨ y.snap.isSome = true → Answers (.statSnapRequest r w g) s fun t => OnlyWard s t w y) ∧
      (y.hasBeat = false → y.statSnap = true → y.snap = none → Answers (.statSnapRequest r w g) s fun t =>
        (∃ l, (t.ward w).snap = some (y.num, l)) ∧ (t.ward w).statZeroed = g.lo.getLsbD 1))) ∧
  ∀ (s : State) (w : Nat) (y : Ward), y = s.ward w →
    (y.snap = none → exec (.statSnapshotComplete w) s = .next s) ∧
    (∀ beat sites, y.snap = some (beat, sites) →
      ((∀ n ∈ y.dieList, s.checkRange w 0 (y.reg oWrdStatBase + n * 0xC000) 0xC000 true = none) → Answers (.statSnapshotComplete w) s fun t =>
        OneWard s t w { y with statSnap := false, snap := none, statBeat := beat, statZeroed := false, statKept := [] } ∧ t.sites = s.sites ∧
        ((∀ i, (s.tile i).badWords = []) → SameUnits s t)) ∧
      (∀ n r st bad, y.dieList = n :: r → s.checkRange w 0 (y.reg oWrdStatBase + n * 0xC000) 0xC000 true = some (st, bad) →
        Answers (.statSnapshotComplete w) s fun t =>
        OneWard s t w { y with statFailed := true, statSnap := false, snap := none, statZeroed := false, statKept := [] } ∧
        ((∀ i, (s.tile i).badWords = []) → SameUnits s t) ∧ (∃ e c, t.sent = (s.writeVa w 0 (y.reg oWrdStatBase + n * 0xC000)
          ((dieRecords sites n).take (bad - (y.reg oWrdStatBase + n * 0xC000)))).sent ++ [.event n 11 0 st.code e c]) ∧
        (y.statZeroed = false → t.sites = s.sites) ∧ (∀ k a, y.statZeroed = true → y.statKept = [(k, a)] → t.sites.get k = a)))

/-- An untrained link of a live module: without two lanes it is down; with a far end the route plan and device map know, it is
up with the latency, ends and width measured, a new session, counts and sequence numbers 0 and full credits; with another far
end it is down and a record is written. Loss of alignment of an up link: it retrains, keeping session, sequence numbers and
retry buffer. Retraining that succeeds: up again, and every flit of the retry buffer is sent again unchanged, in order; that
fails for the first or second time: another try; for the third: down, with a record of ST_TIER_FAIL, and a waiting LINK_RETRAIN
completes with ST_TIER_FAIL. LINK_RETRAIN of a die that is absent or fenced: ST_ABSENT; of a link not down: ST_PROTECTION; else
the link retrains, the command waiting. A rekey starts a new session and counts. In other link states each event changes
nothing. Answered with a next state under these conditions: LINK_TRAINED, LINK_TRAIN_RETRY, LANE_ALIGNMENT_LOSS,
LINK_RETRAIN_COMPLETE, SESSION_REKEY, LINK_RETRAIN. (R368, R369, R376, R377, R378, R379) -/
def Obligations.LinksTrainFailAndComeBack : Prop :=
  (∀ (s : State) (l : Nat) (x : TrainedLink) (y : Link), y = s.link l → s.live = true → l < 48 →
    let note (u t : State) (scope : Nat) (st : Byte) := Reports u t
      { cls := 0x0A, scope := scope, status := st, unit := 6, die := l / 6, idx := l % 6, src := 2,
        detail := BitVec.ofNat 128 ((u.link l).stateWord + (u.link l).errWord * 2 ^ 64) }
    (y.st ≠ .untrained ∨ s.dies.contains (l / 6) = false → exec (.linkTrained l x) s = .next s) ∧
    (y.st = .untrained → s.dies.contains (l / 6) = true →
      (x.lanesOk = false → Answers (.linkTrained l x) s fun t => OnlyLink s t l { y with st := .down }) ∧
      (x.lanesOk = true → s.peerKnown x = true → y.txq = [] → Answers (.linkTrained l x) s fun t => OnlyLink s t l
        { y with st := .up, lat := BitVec.ofNat 16 x.lat, peerAddr := x.peerAddr, peerLink := x.peerLink, peerId := x.peerId, two := x.two,
                 session := y.session + 1, rxCount := 0, txCount := 0, rxNext := 0, txNext := 0, nakDue := false, retry := [],
                 credits := [32, 320, 128, 32], owed := [0, 0, 0, 0], replays := 0, replaySeq := 0, tries := 0, rxXfer := [] }) ∧
      (x.lanesOk = true → s.peerKnown x = false → Answers (.linkTrained l x) s fun t => ∃ u : State, note u t 0 0 ∧ OnlyLink s u l
        { y with st := .down, lat := BitVec.ofNat 16 x.lat, peerAddr := x.peerAddr, peerLink := x.peerLink, two := x.two })) ∧
    (s.dies.contains (l / 6) = true → s.dieFencedAt (l / 6) = false → y.st = .down → y.session = 0 →
      Answers (.linkTrainRetry l) s fun t => OnlyLink s t l { y with st := .untrained }) ∧
    (y.st ≠ .down ∨ y.session ≠ 0 → exec (.linkTrainRetry l) s = .next s) ∧
    (y.st ≠ .up → exec (.laneAlignmentLoss l) s = .next s) ∧
    (y.st = .up → Answers (.laneAlignmentLoss l) s fun t => ∃ u : State, note u t 0 0 ∧ OnlyLink s u l
      { y with st := .retraining, tries := 0, replays := 0, retrains := incSat y.retrains }) ∧
    (y.st ≠ .retraining → exec (.linkRetrainComplete l x) s = .next s) ∧
    (y.st = .retraining →
      (x.lanesOk = true → y.cmdJseq = none → y.txq = [] → Answers (.linkRetrainComplete l x) s fun t =>
        t.link l = { y with st := .up, tries := 0, two := x.two, lat := BitVec.ofNat 16 x.lat } ∧ (∀ k, k ≠ l → t.link k = s.link k) ∧
        t = { s with links := t.links, sent := s.sent ++ y.retry.map fun e => .flit l e.1 e.2 }) ∧
      (x.lanesOk = true → ∀ j, y.cmdJseq = some j → s.peerKnown x = true → y.txq = [] → Answers (.linkRetrainComplete l x) s fun t =>
        ∃ u : State, t = u.complete j .ok ∧ OnlyLink s u l
          { y with st := .up, lat := BitVec.ofNat 16 x.lat, peerAddr := x.peerAddr, peerLink := x.peerLink, peerId := x.peerId, two := x.two,
                   session := y.session + 1, rxCount := 0, txCount := 0, rxNext := 0, txNext := 0, nakDue := false, retry := [],
                   credits := [32, 320, 128, 32], owed := [0, 0, 0, 0], replays := 0, replaySeq := 0, tries := 0, rxXfer := [],
                   cmdJseq := none }) ∧
      (x.lanesOk = false → y.tries < 2 → Answers (.linkRetrainComplete l x) s fun t =>
        OnlyLink s t l { y with tries := y.tries + 1, retrains := incSat y.retrains }) ∧
      (x.lanesOk = false → 2 ≤ y.tries → y.retry = [] → y.txq = [] → s.mcWait = [] → s.tko = none → Answers (.linkRetrainComplete l x) s fun t => ∃ u v z : State,
        u.link l = { y with st := .down, tries := 0, nakDue := false, rxXfer := [] } ∧ (∀ k, k ≠ l → u.link k = s.link k) ∧
        u = { s with links := u.links, xferPaths := s.xferPaths.filter fun p => p.port ≠ l } ∧ note u v 1 St.tierFail.code ∧
        z = v.modLink l (fun q => { q with cmdJseq := none }) ∧
        t = match y.cmdJseq with
          | some j => z.complete j .tierFail
          | none => z)) ∧
    (∀ n, y.st = .up → (n = y.txNext → Answers (.sessionRekey l n) s fun t =>
        OnlyLink s t l { y with session := y.session + 1, rxCount := 0, txCount := 0 }) ∧
      (n ≠ y.txNext → exec (.sessionRekey l n) s = .next s))) ∧
  ∀ (s a : State) (src : Src) (die link : Nat) (x : OpCtx) (y : Link), s.takesHere src (.linkRetrain die link) = true →
    a = s.taken src (.linkRetrain die link) → x = s.ctxOf src (.linkRetrain die link) → y = s.link (6 * die + link) →
    (die ∉ s.dies ∨ 5 < link ∨ s.dieFencedAt die = true → exec (.linkRetrain src die link) s = .next (a.complete x.jseq .absent)) ∧
    (die ∈ s.dies → link ≤ 5 → s.dieFencedAt die = false →
      (y.st ≠ .down ∨ y.cmdJseq ≠ none → exec (.linkRetrain src die link) s = .next (a.complete x.jseq .protection)) ∧
      (y.st = .down → y.cmdJseq = none → Answers (.linkRetrain src die link) s fun t => OnlyLink a t (6 * die + link)
        { y with st := .retraining, tries := 0, retrains := incSat y.retrains, cmdJseq := some x.jseq }))

/-- For a flit command of each kind, on a link that is up; elsewhere, or where the flit is not of the command's kind, nothing
changes. A flit that fails CRC, or, but for IDLE, whose SEQ is not the next expected: it is dropped and counted, the next flit
the other way carries NAK with the last sequence number accepted, and only this link changes. One that passes CRC and sequence
but fails its tag: counted, the link retrains and a record is written. An illegal address: counted in BADADDR. A good IDLE flit
takes its acknowledgement and credits, and nothing else; with NAK, everything after ACK is sent again unchanged, in order. A
flit for another module that leaves on one free port goes on there, changed in SEQ, ACK, NAK and the credit fields only.
Answered with a next state under these conditions: FLIT_IDLE. (R368, R372, R373, R375, R376, R377, R383, R386) -/
def Obligations.FlitsAreCheckedBeforeTheyAct : Prop :=
  ∀ (s : State) (c : Instr) (k : Nat) (f : Flit) (chk : FlitCheck) (ty : Nat) (y : Link), flitCmd c = some (k, f, chk, ty) → y = s.link k →
    (f.type ≠ ty ∨ s.live = false ∨ 48 ≤ k ∨ y.st ≠ .up → exec c s = .next s) ∧
    (f.type = ty → s.live = true → k < 48 → y.st = .up →
      (chk.crcOk = false ∨ ty ≠ 0 ∧ f.seq ≠ y.rxNext → Answers c s fun t =>
        t.link k = ({ y with corrected := incSat y.corrected chk.corrected, crc := incSat y.crc, nakDue := true } : Link).gave ∧
        (∀ j, j ≠ k → t.link j = s.link j) ∧ t = { s with links := t.links, sent := t.sent } ∧
        ∃ g : Flit, t.sent = s.sent ++ [.flit k g []] ∧ g.nak = true ∧ g.ack = (y.rxNext + 4095) % 4096 ∧ g.type = 0) ∧
      (chk.crcOk = true → (ty ≠ 0 → f.seq = y.rxNext) → chk.tagOk = false → Answers c s fun t => ∃ u : State,
        OnlyLink s u k { y with corrected := incSat y.corrected chk.corrected, auth := incSat y.auth, st := .retraining, tries := 0, replays := 0,
                                retrains := incSat y.retrains } ∧
        Reports u t { cls := 0x0A, unit := 6, die := k / 6, idx := k % 6, src := 2,
                      detail := BitVec.ofNat 128 ((u.link k).stateWord + (u.link k).errWord * 2 ^ 64) }) ∧
      (ty = 0 → chk.crcOk = true → chk.tagOk = true → y.txq = [] → s.mcWait = [] →
        ∀ z, z = ({ y with corrected := incSat y.corrected chk.corrected, rxCount := y.rxCount + 1 } : Link).ackTo f.ack →
        ∀ z', z' = { z with credits := z.credits.set f.crvc (min (vcSize f.crvc) (z.credits.getD f.crvc 0 + f.crcnt)) } →
        (f.nak = false ∨ z.retry = [] → Answers (.flitIdle k f chk) s fun t => OnlyLink s t k z') ∧
        (∀ e r, f.nak = true → z.retry = e :: r → y.replays < 15 → Answers (.flitIdle k f chk) s fun t =>
          t.link k = { z' with replaySeq := e.1.seq, replays := if y.replaySeq = e.1.seq ∧ y.replays ≠ 0 then y.replays + 1 else 1 } ∧
          (∀ j, j ≠ k → t.link j = s.link j) ∧
          t = { s with links := t.links, sent := s.sent ++ z.retry.map fun e => .flit k e.1 e.2 })) ∧
      (∀ u, s.accepts u k f chk → ty = f.type →
        (67 < f.dst ∨ 67 < f.src → Answers c s fun t => (t.link k).badaddr = incSat y.badaddr ∧ (t.link k).rxNext = (y.rxNext + 1) % 4096 ∧
          (∀ j, j ≠ k → t.link j = s.link j) ∧ t = { s with links := t.links, sent := t.sent }) ∧
        (∀ j, f.dst ≤ 67 → f.src ≤ 67 → ty ≠ 6 → f.dst ≠ s.linkAddr → (s.routeOf f.dst).loc = false → s.leavesOn f.dst f.vc j →
          Answers c s fun t => t.mem = s.mem ∧ t.wards = s.wards ∧ t.tiles = s.tiles ∧
            ∃ (g : Flit) (p : List Byte), .flit j g p ∈ t.sent ∧
              g = { f with seq := g.seq, ack := g.ack, nak := g.nak, crvc := g.crvc, crcnt := g.crcnt } ∧
              (∀ va n q, c = .flitData k f chk (some (va, n)) q → p = xferHeader va.toNat n ++ q) ∧ (∀ q, c = .flitData k f chk none q → p = q))))

/-- For a good flit in sequence, addressed to this module. Of a ward without a job: counted in NOWARD; of a retired epoch:
counted in EPOCH; neither changes memory or a ward. Else DATA, and MCAST where its tree is local and names no port, writes the
payload, cut to the transfer's length, at the transfer's address as an access of the ward and context; REDUCE adds each FP32
element to what stands there, or copies. A READ_REQ that may be read, of up to 224 bytes that leave on one free port of the
ward's own dies, is answered on it by one last RESP with the bytes, the requester's address and its transfer number. A RESP that
matches an open read fills its next bytes and ends it with the last flit. DATA of a beat that the module has not entered waits
in the receive buffer: it writes nothing, and its credit does not go back. Answered with a next state under these conditions:
FLIT_DATA, FLIT_READ_REQ, FLIT_RESP, FLIT_REDUCE, FLIT_MCAST. (R21, R183, R372, R376, R380, R381, R392, R393) -/
def Obligations.FlitsActAtTheirDestination : Prop :=
  (∀ (s : State) (k : Nat) (f : Flit) (chk : FlitCheck) (hdr : Option (Addr × Nat)) (p : List Byte) (y : Link), y = s.link k → f.type = 1 →
    s.live = true → k < 48 → y.st = .up → y.txq = [] → s.mcWait = [] → chk.crcOk = true → chk.tagOk = true → f.nak = false → f.seq = y.rxNext →
    s.isKept f = true → f.dst = s.linkAddr → f.dst ≤ 67 → f.src ≤ 67 → s.modFenced = false → Answers (.flitData k f chk hdr p) s fun t =>
      t.mem = s.mem ∧ t.tiles = s.tiles ∧ (t.link k).rxNext = (y.rxNext + 1) % 4096 ∧ (∀ j, j ≠ k → t.link j = s.link j) ∧
      OneWard s t f.ward { s.ward f.ward with mb := { (s.ward f.ward).mb with
        early := (s.ward f.ward).mb.early ++ [{ link := k, flit := f, hdr := hdr, copy := false, payload := p }] } }) ∧
  ∀ (s u : State) (k : Nat) (f : Flit) (chk : FlitCheck) (y : Link), y = s.link k → s.accepts u k f chk → f.dst = s.linkAddr → f.dst ≤ 67 → f.src ≤ 67 →
    s.modFenced = false →
    (∀ c, flitCmd c = some (k, f, chk, f.type) → f.type ≠ 6 →
      (u.flitBad f = some false → Answers c s fun t => (t.link k).noward = incSat y.noward ∧ t.mem = s.mem ∧ t.wards = s.wards ∧ t.tiles = s.tiles) ∧
      (u.flitBad f = some true → Answers c s fun t => (t.link k).epoch = incSat y.epoch ∧ t.mem = s.mem ∧ t.wards = s.wards ∧ t.tiles = s.tiles)) ∧
    (∀ (va : Addr) (n : Nat) (p b : List Byte), u.flitBad f = none → b = p.take n → u.peerCheck f.ward f.ctx va.toNat b.length true = none →
      (f.type = 1 → Answers (.flitData k f chk (some (va, n)) p) s fun t => t.mem = (u.writeVa f.ward f.ctx va.toNat b).mem ∧ t.tiles = s.tiles) ∧
      (f.type = 6 → (s.trees.get f.tree).ports = 0 → (s.trees.get f.tree).loc = true →
        Answers (.flitMcast k f chk (some (va, n)) p) s fun t => t.mem = (u.writeVa f.ward f.ctx va.toNat b).mem ∧ t.tiles = s.tiles) ∧
      (∀ cp, f.type = 5 → Answers (.flitReduce k f chk (some (va, n)) cp p) s fun t =>
        (cp = true → t.mem = (u.writeVa f.ward f.ctx va.toNat b).mem) ∧
        (∀ v o, cp = false → b.length = 4 → u.readVa f.ward f.ctx va.toNat 4 = (v, o) →
          t.mem = (v.writeVa f.ward f.ctx va.toNat (toLE 4 (f32Add (BitVec.ofNat 32 (leNat b)) (elemVal 1 o)).toNat)).mem) ∧ t.tiles = s.tiles)) ∧
    (∀ (va : Addr) (n : Nat) (v : State) (o : RdOut) (j : Nat), f.type = 2 → u.flitBad f = none → u.peerCheck f.ward f.ctx va.toNat n false = none →
      u.readVa f.ward f.ctx va.toNat n = (v, o) → o.bad.any id = false → o.bytes.length ≤ 224 → s.leavesOn f.src 1 j →
      (s.ward f.ward).holds (j / 6) = true →
      Answers (.flitReadReq k f chk (va, n)) s fun t => ∃ g : Flit, .flit j g o.bytes ∈ t.sent ∧ g.type = 3 ∧ g.dst = f.src ∧
        g.src = s.linkAddr ∧ g.xid = f.xid ∧ g.ctx = f.ctx ∧ g.last = true ∧ g.len = o.bytes.length) ∧
    (∀ (p : List Byte) (r : PeerRead), f.type = 3 → u.flitBad f = none → (s.peerReads.find? fun r => r.xid = f.xid.toNat && r.peer = f.src) = some r →
      Answers (.flitResp k f chk .ok p) s fun t =>
        t.mem = (u.wrBytes (2 ^ 50 + r.peer * 2 ^ 42 + r.pva + r.got) (p.take (r.len - r.got))).mem ∧ t.wards = s.wards ∧ t.tiles = s.tiles ∧
        t.peerReads = if f.last = true then s.peerReads.filter fun x => x.xid ≠ r.xid
          else s.peerReads.map fun x => if x.xid = r.xid then { x with got := x.got + (p.take (r.len - r.got)).length } else x)

/-- A command for another module: where a port leads there it is sent with its journal number and waits; where none does, it
completes at once with ST_TIER_FAIL. Its returned completion completes it with the status and detail told, its timeout with
ST_TIER_FAIL, each once; for a number that waits for nothing, nothing changes. A command that arrives by relay takes the next
journal number, with PORT 2, ring 0xFF, its opcode, tag and ward and the origin's identity and number; with a reserved bit set
or a ward above 7 it completes with ST_PROTECTION; one on a job of several modules, or behind such a one, waits in its ward; any
other has its effect here. The completion goes back to the origin, under the number it came with. Answered with a next state
under these conditions: RELAYED_COMMAND, RELAY_COMPLETION, RELAY_TIMEOUT. (R389, R390, R434) -/
def Obligations.CommandsRelayBetweenModules : Prop :=
  (∀ (s : State) (j dest : Nat) (bs : List Byte),
    (s.reachable dest = false → s.sendRelay j dest bs = s.complete j .tierFail) ∧
    (s.reachable dest = true → let t := s.sendRelay j dest bs
      .relay dest j bs ∈ t.sent ∧ t.relays = s.relays ++ [{ jseq := j, dest := dest }] ∧ t.mem = s.mem ∧ t.wards = s.wards ∧ t.opens = s.opens)) ∧
  (∀ (s : State) (j : Nat) (st : St) (d : W32), s.live = true →
    ((s.relays.any fun r => r.jseq = j) = true →
      exec (.relayCompletion j st d) s = .next ({ s with relays := s.relays.filter fun r => r.jseq ≠ j }.complete j st d) ∧
      exec (.relayTimeout j) s = .next ({ s with relays := s.relays.filter fun r => r.jseq ≠ j }.complete j .tierFail)) ∧
    ((s.relays.any fun r => r.jseq = j) = false → exec (.relayTimeout j) s = .next s ∧
      ((∀ w < 8, ∀ d, (s.ward w).dist = some d → d.jseq ≠ j ∨ d.reader = false ∨ d.waits = 0) → exec (.relayCompletion j st d) s = .next s))) ∧
  ∀ (s a : State) (origin j n wd : Nat) (c : Relayed) (x : OpCtx) (bs : List Byte), s.live = true → origin ≤ 63 → j < 2 ^ 58 → 1 ≤ s.jrnNext →
    n = s.jrnNext → wd = (if c.op.wardScope then c.ward else 0xFF) →
    bs = cmdBytes { port := 0, func := 0, ring := 0, relay := true, wait := c.wait, force := c.force, ward := c.ward, dest := s.linkAddr,
                    tag := c.tag } c.op →
    a = s.journalRelay origin j c wd →
    x = { jseq := n, w := if c.op.wardScope then c.ward else 8, wait := c.wait, force := c.force, ring := noRing, tag := c.tag, port := 0, func := 0 } →
    (let r := a.jrnGet n
     r.seq = n ∧ r.port = 2 ∧ r.func = 0 ∧ r.ring = 0xFF ∧ r.ward = wd ∧ r.opc = BitVec.ofNat 8 c.op.opc ∧ r.tag = c.tag ∧ r.st = 0 ∧
     r.status = 0 ∧ r.origin = BitVec.ofNat 64 (origin * 2 ^ 58 + j) ∧ r.digest = digest16 bs ∧ r.beat = s.stamp wd) ∧
    a = { s with journal := a.journal, jrnNext := n + 1, opens := a.opens } ∧
    (c.op.bitsOk = false ∨ c.op.wardScope = true ∧ 7 < c.ward → exec (.relayedCommand origin j c) s = .next (a.complete n .protection)) ∧
    (c.op.bitsOk = true → (c.op.wardScope = true → c.ward ≤ 7) →
      (a.holds wd c.op = true → a.fromReader origin c = false → exec (.relayedCommand origin j c) s = .next (a.holdOp x c.op origin j bs)) ∧
      (a.holds wd c.op = false →
        (∀ first count dst, c.op = .journalRead first count dst → exec (.relayedCommand origin j c) s = .next ((a.doJournalRead x first.toNat count dst.toNat).settle wd)) ∧
        (∀ die link, c.op = .linkRetrain die link → exec (.relayedCommand origin j c) s = .next ((a.doLinkRetrain x die link).settle wd)) ∧
        (∀ va count size, c.op = .unmap va count size → exec (.relayedCommand origin j c) s = .next ((a.doUnmap x va.toNat count size).settle wd)) ∧
        (c.op = .wardDisable → exec (.relayedCommand origin j c) s = .next ((a.doWardDisable x).settle wd)) ∧
        (c.op = .jobEnd → exec (.relayedCommand origin j c) s = .next ((a.doJobEnd x).settle wd)))) ∧
    (∀ st d, .relayDone origin j (St.code st) d ∈ (a.complete n st d).sent)

/-- JOURNAL_READ that this module acts on: a count outside 1 to 64, or a destination not 64-byte aligned or not below 2^47,
completes with ST_PROTECTION and writes nothing. Else the records first to first + count - 1 stand at consecutive host
addresses, 64 bytes each: a held record as it is, with this very command's among them, zeros for a number not held; no other
byte changes; it completes with ST_OK, and DETAIL counts the held records. Where the host may not be written, for a relayed one,
or past the top of the host's space (the model's choice, log entry 73), ST_TIER_FAIL. A fetched command whose 64 bytes no opcode
allows takes the next journal number and completes with ST_PROTECTION. Answered with a next state under these conditions:
JOURNAL_READ, ILLEGAL_COMMAND. (R423, R424, R426, R429, R434) -/
def Obligations.JournalReadsAndIllegalCommands : Prop :=
  (∀ (s a : State) (src : Src) (first dst : W64) (count : Nat) (x : OpCtx), s.takesHere src (.journalRead first count dst) = true →
    a = s.taken src (.journalRead first count dst) → x = s.ctxOf src (.journalRead first count dst) →
    (count = 0 ∨ 64 < count ∨ dst.toNat % 64 ≠ 0 ∨ 2 ^ 47 ≤ dst.toNat →
      exec (.journalRead src first count dst) s = .next (a.complete x.jseq .protection)) ∧
    (1 ≤ count → count ≤ 64 → dst.toNat % 64 = 0 → dst.toNat < 2 ^ 47 → 2 ^ 47 < dst.toNat + 64 * count →
      exec (.journalRead src first count dst) s = .next (a.complete x.jseq .tierFail)) ∧
    (1 ≤ count → count ≤ 64 → dst.toNat % 64 = 0 → dst.toNat + 64 * count ≤ 2 ^ 47 → Answers (.journalRead src first count dst) s fun t => ∃ u : State,
      t = u.complete x.jseq .ok (BitVec.ofNat 32 ((List.range count).filter fun k => a.jrnOldest ≤ first.toNat + k && first.toNat + k < a.jrnNext).length) ∧
      u = { a with mem := u.mem } ∧
      (∀ k < count, u.rdBytes (hostBase src.port (dst.toNat + 64 * k)) 64 =
        if a.jrnOldest ≤ first.toNat + k ∧ first.toNat + k < a.jrnNext then (a.jrnGet (first.toNat + k)).bytes else List.replicate 64 0) ∧
      SameOutside a u (hostBase src.port dst.toNat) (64 * count))) ∧
  (∀ (a : State) (x : OpCtx) (first count dst : Nat), 1 ≤ count → count ≤ 64 → dst % 64 = 0 → dst < 2 ^ 47 → a.canIssue x.port x.func = false →
    a.doJournalRead x first count dst = a.complete x.jseq .tierFail) ∧
  ∀ (s : State) (src : Src) (opc : Byte) (bs : List Byte) (ws : Bool) (w : Nat), bs.length = 64 → bs.head? = some opc →
    w = leNat ((bs.drop 2).take 1) → ws = (match opcTable.find? fun e => e.1 = opc.toNat with | some e => e.2.2.2.1 | none => false) →
    (s.canFetch (srcKey src) = false ∨ bytesIllegal src.func bs = false → exec (.illegalCommand src opc bs) s = .next s) ∧
    (s.canFetch (srcKey src) = true → bytesIllegal src.func bs = true →
      (s.canIssue src.port src.func = false → exec (.illegalCommand src opc bs) s = .next (s.ringError (srcKey src) 1)) ∧
      (s.canIssue src.port src.func = true → exec (.illegalCommand src opc bs) s = .next ((s.journalCmd src opc.toNat bs
        (if src.func = 0 then (if ws && decide (w < 8) then w else 0xFF) else (s.wardOfVf src.port src.func).getD 0xFF) 0).complete
          s.jrnNext .protection)))

/-- TAKEOVER at a module that is not the coordinator goes on to it. The coordinator queues it behind one in progress; with no
standby wired and free it completes with ST_ABSENT; else the generation rises by one, the table's row is written, the jobs that
span m are faulted, and TKO goes to every other module. A loss does the same where the image asks for it and m cannot be
reached. TKO with a newer generation: the standby named takes m's address and plan; any other module writes its row for m; both
record the generation and acknowledge it. The last acknowledgement, or its timeout, ends the takeover: nothing is held, every
other module but the standby number is told, and the command completes with ST_OK; TKO_DONE ends it at the others. A TKO that is
not newer, a second acknowledgement and a wrong generation change nothing. Answered with a next state under these conditions:
TAKEOVER, TKO, TKO_ACK, TKO_DONE, TKO_ACK_TIMEOUT, LOSS_TIMEOUT. (R394, R395, R396, R397, R398) -/
def Obligations.TakeoversRunInOrder : Prop :=
  (∀ (s a : State) (src : Src) (m sb : Nat) (x : OpCtx) (o : Option Nat), s.takesHere src (.takeover m sb) = true → a = s.taken src (.takeover m sb) →
    x = s.ctxOf src (.takeover m sb) → o = (if sb = 0xFF then none else some sb) →
    (s.isCoord m = false → exec (.takeover src m sb) s = .next (a.sendRelay x.jseq (s.coordOf m) (cmdBytes src (.takeover m sb)))) ∧
    (s.isCoord m = true →
      (s.tko ≠ none → Answers (.takeover src m sb) s fun t => (m, o, some x.jseq, false) ∈ t.tkoQueue ∧
        t.tkoQueue.length = s.tkoQueue.length + 1 ∧ t = { a with tkoQueue := t.tkoQueue }) ∧
      (s.tko = none → s.standbyFor m o = none → exec (.takeover src m sb) s = .next (a.complete x.jseq .absent)) ∧
      (∀ k e, s.tko = none → s.standbyFor m o = some k → s.tkoRow m k = some e → Answers (.takeover src m sb) s fun t =>
        t.tg = s.tg + 1 ∧ t.routes.get m = e ∧ (∀ b, b ≠ m → t.routes.get b = s.routes.get b) ∧
        (∃ y : Takeover, t.tko = some y ∧ y.m = m ∧ y.s = k ∧ y.coord = true ∧ y.acks = [] ∧ y.jseq = some x.jseq) ∧
        (∀ b ∈ t.others, b ≠ m → .tko b m k (s.tg + 1) ∈ t.sent) ∧ t.tiles = s.tiles ∧
        ∀ w < 8, if (s.ward w).multi && ((s.ward w).job.map (·.prog.modules) |>.getD []).contains m
          then (t.ward w).mb.dead = true ∧ (∃ j : Job, (t.ward w).job = some j ∧ j.fault ≠ none) else t.ward w = s.ward w))) ∧
  (∀ (s : State) (m : Nat), (s.live = false ∨ s.image.autoLoss = false ∨ 63 < m ∨ m = s.linkAddr ∨ (s.routeOf m).valid = false ∨
      s.reachable m = true ∨ s.isCoord m = false → exec (.lossTimeout m) s = .next s) ∧
    (s.live = true → s.image.autoLoss = true → m < 64 → m ≠ s.linkAddr → (s.routeOf m).valid = true → s.reachable m = false → s.isCoord m = true →
      (s.tko = none → s.standbyFor m none = none → exec (.lossTimeout m) s = .next s) ∧
      (∀ k e, s.tko = none → s.standbyFor m none = some k → s.tkoRow m k = some e → Answers (.lossTimeout m) s fun t => t.tg = s.tg + 1 ∧
        t.routes.get m = e ∧ (∃ y : Takeover, t.tko = some y ∧ y.m = m ∧ y.s = k ∧ y.coord = true ∧ y.jseq = none) ∧
        ∀ b ∈ t.others, b ≠ m → .tko b m k (s.tg + 1) ∈ t.sent))) ∧
  (∀ (s : State) (m sb tg : Nat) (v : Bool), (s.live = false ∨ tg ≤ s.tg ∨ 63 < m ∨ 3 < sb → exec (.tko m sb tg v) s = .next s) ∧
    (s.live = true → s.tg < tg → m ≤ 63 → sb ≤ 3 → Answers (.tko m sb tg v) s fun t => t.tg = tg ∧ .tkoAck (s.coordOf m) tg ∈ t.sent ∧
      t.mem = s.mem ∧ t.tiles = s.tiles ∧
      (s.standby = true ∧ s.linkAddr = 64 + sb → t.linkAddr = m ∧ t.standby = false ∧ t.image.plan = s.image.planOf.get m ∧
        t.routes.get m = { valid := true, loc := true } ∧ t.routes.get (64 + sb) = {} ∧ t.tko = s.tko ∧ t.wards = s.wards) ∧
      (s.linkAddr = m → (m, sb) ∈ s.tkoLog → t.linkAddr = s.linkAddr ∧ t.routes = s.routes ∧ t.wards = s.wards ∧ t.tko = s.tko) ∧
      (s.standby = false ∨ s.linkAddr ≠ 64 + sb → ¬ (s.linkAddr = m ∧ (m, sb) ∈ s.tkoLog) → t.linkAddr = s.linkAddr ∧ (∃ y : Takeover, t.tko = some y ∧ y.m = m ∧ y.s = sb) ∧
        (∀ b, b ≠ m → t.routes.get b = s.routes.get b) ∧ (∀ e, s.tkoRow m sb = some e → t.routes.get m = e)))) ∧
  ∀ (s : State) (y : Takeover), s.live = true → s.tko = some y → s.heldXfers = [] → s.tkoQueue = [] →
    let ended (t : State) := t.tko = none ∧ t.tg = s.tg ∧ t.tiles = s.tiles ∧ t.routes = s.routes ∧
      (∀ b ∈ s.others, y.coord = true → b ≠ 64 + y.s → .tkoDone b y.m s.tg ∈ t.sent) ∧ (∀ j, y.coord = true → y.jseq = some j → t.opens.get j = none)
    (∀ b tg, (y.coord = false ∨ tg ≠ s.tg ∨ b ∈ y.acks → exec (.tkoAck b tg) s = .next s) ∧
      (y.coord = true → tg = s.tg → b ∉ y.acks →
        (s.acked { y with acks := y.acks ++ [b] } = false → exec (.tkoAck b tg) s = .next { s with tko := some { y with acks := y.acks ++ [b] } }) ∧
        (s.acked { y with acks := y.acks ++ [b] } = true → Answers (.tkoAck b tg) s ended))) ∧
    (∀ tg, (y.coord = false ∨ tg ≠ s.tg → exec (.tkoAckTimeout tg) s = .next s) ∧
      (y.coord = true → tg = s.tg → Answers (.tkoAckTimeout tg) s ended)) ∧
    (∀ m tg, (y.coord = true ∨ y.m ≠ m ∨ tg ≠ s.tg → exec (.tkoDone m tg) s = .next s) ∧
      (y.coord = false → y.m = m → tg = s.tg → Answers (.tkoDone m tg) s ended))

/-- A roll call of a live module sends its own record, with its address, generation and configuration digest, to every other
module, and counts the sending; it is evaluated only outside a takeover. A received record of a legal address replaces that
sender's, with the time of receipt, and starts the links from the sender again. ROLLCALL_CLEAR at the beat master of a held job
lets it go and completes with ST_OK; at any other, ST_PROTECTION. A stop marker from a legal address takes the links from its
sender out of use, and faults with ST_SUPPLY the job of each ward that spans the sender; other wards stay as they are. Answered
with a next state under these conditions: ROLLCALL_SEND, ROLLCALL_RECORD, ROLLCALL_CLEAR, STOP_MARKER. (R399, R400, R401, R398,
R520) -/
def Obligations.RollCallAndStopMarkers : Prop :=
  (∀ s : State, (s.live = false → exec .rollcallSend s = .next s) ∧
    (s.live = true → Answers .rollcallSend s fun t => t.rollSends = s.rollSends + 1 ∧ t.tiles = s.tiles ∧
      (∀ a ∈ s.others, ∃ r : RollRec, .rollcall a r ∈ t.sent ∧ r.addr = s.linkAddr ∧ r.tg = s.tg ∧ r.tick = s.tick ∧ r.img = s.sec.cfgDigest) ∧
      (s.tko ≠ none → t.rollRounds = s.rollRounds ∧ t.wards = s.wards ∧ t.faults = s.faults) ∧ (s.tko = none → t.rollRounds = s.rollRounds + 1))) ∧
  (∀ (s : State) (r : RollRec), (s.live = false ∨ 67 < r.addr → exec (.rollcallRecord r) s = .next s) ∧
    (s.live = true → r.addr ≤ 67 → Answers (.rollcallRecord r) s fun t => t.rollRecs.get r.addr = r ∧ t.rollAt.get r.addr = s.rollSends ∧
      (∀ a, a ≠ r.addr → t.rollRecs.get a = s.rollRecs.get a ∧ t.rollAt.get a = s.rollAt.get a) ∧
      t = { s with rollRecs := t.rollRecs, rollAt := t.rollAt, links := t.links } ∧
      ∀ e ∈ s.links, if e.2.peerAddr = r.addr then (e.1, { e.2 with stopped := false }) ∈ t.links else e ∈ t.links)) ∧
  (∀ (s a : State) (src : Src) (x : OpCtx), s.takesHere src .rollcallClear = true → a = s.taken src .rollcallClear → x = s.ctxOf src .rollcallClear →
    ((s.ward x.w).master = false ∨ (s.ward x.w).mb.rollHeld = false → exec (.rollcallClear src) s = .next (a.complete x.jseq .protection)) ∧
    ((s.ward x.w).master = true → (s.ward x.w).mb.rollHeld = true → Answers (.rollcallClear src) s fun t => ∃ u : State,
      t = u.complete x.jseq .ok ∧ u = { a with wards := u.wards, rollHeld := s.rollHeld &&& ~~~(1#8 <<< x.w) } ∧
      u.ward x.w = { s.ward x.w with mb := { (s.ward x.w).mb with rollHeld := false } } ∧ ∀ v, v ≠ x.w → u.ward v = s.ward v)) ∧
  ∀ (s : State) (m : Nat) (ev : Byte), (s.live = false ∨ 67 < m → exec (.stopMarker m ev) s = .next s) ∧
    (s.live = true → m ≤ 67 → Answers (.stopMarker m ev) s fun t => t = { s with links := t.links, wards := t.wards } ∧
      (∀ e ∈ s.links, if e.2.peerAddr = m then (e.1, { e.2 with stopped := true }) ∈ t.links else e ∈ t.links) ∧
      ∀ w, if w < 8 ∧ (s.ward w).multi = true ∧ ((s.ward w).job.map (·.prog.modules) |>.getD []).contains m = true
        then ∀ j, (s.ward w).job = some j → t.ward w = { s.ward w with
          job := some { j with fault := some (j.fault.getD .supply) }, mb := { (s.ward w).mb with dead := true, lostMark := true } }
        else t.ward w = s.ward w)

/-- For a request to a function block that exists, on a live module, ring below 16; elsewhere nothing changes. A doorbell sets
the submission tail. A completion head lets a waiting completion go: with nothing waiting only the head changes; with one, room
for it and a host that may be written, its 32 bytes stand at the completion tail and the tail moves on. RING_CTL of an enabled
ring is locked but for clearing EN, which stops the ring and drops what waits; of a disabled ring it sets sizes, vector and EN;
enabling starts at entry 0 with the phase set and no error, or, with a size outside 6 to 16, stops the ring with error 3.
Unmasking a vector sends its interrupt once if it was pending. Only that ring or function changes. Answered with a next state
under these conditions: SQ_TAIL_WRITE, CQ_HEAD_WRITE, RING_CTL_WRITE, MSIX_UNMASK. (R408, R410, R423, R427) -/
def Obligations.RingRegistersAndInterrupts : Prop :=
  ∀ (s : State) (r : Req) (n k : Nat) (y : Ring), k = ringKey r.port r.func n → y = s.ring k →
    (s.live = false ∨ s.hasBlock r = false ∨ 15 < n → ∀ a b c, exec (.sqTailWrite r n a) s = .next s ∧ exec (.cqHeadWrite r n b) s = .next s ∧
      exec (.ringCtlWrite r n c) s = .next s) ∧
    (s.live = true → s.hasBlock r = true → n ≤ 15 →
      (∀ v, Answers (.sqTailWrite r n v) s fun t => OnlyRing s t k { y with sqTail := v }) ∧
      (∀ v, y.unposted = [] → Answers (.cqHeadWrite r n v) s fun t => OnlyRing s t k { y with cqHead := v }) ∧
      (∀ v c a, y.unposted = [c] → y.st = 1 → ({ y with cqHead := v } : Ring).cqFull = false → s.canIssue r.port r.func = true →
        a = hostBase r.port (y.cqBase.toNat + y.cqTail.toNat * 32) → Answers (.cqHeadWrite r n v) s fun t =>
          t.rdBytes a 32 = c.bytes y.phase ∧ SameOutside s t a 32 ∧ (∀ j, j ≠ k → t.ring j = s.ring j) ∧
          t.ring k = { y with cqHead := v, unposted := [], cqTail := BitVec.ofNat 16 ((y.cqTail.toNat + 1) % 2 ^ y.cqLog),
                              phase := if (y.cqTail.toNat + 1) % 2 ^ y.cqLog = 0 then !y.phase else y.phase }) ∧
      (∀ v, y.en = true → v.getLsbD 31 = true → exec (.ringCtlWrite r n v) s = .next s) ∧
      (∀ v, y.en = true → v.getLsbD 31 = false → Answers (.ringCtlWrite r n v) s fun t =>
        OnlyRing s t k { y with en := false, st := 0, unposted := [] }) ∧
      (∀ v sq cq, y.en = false → sq = v.toNat / 2 ^ 24 % 32 → cq = v.toNat / 2 ^ 16 % 32 →
        (v.getLsbD 31 = false → Answers (.ringCtlWrite r n v) s fun t =>
          OnlyRing s t k { y with en := false, sqLog := sq, cqLog := cq, vec := v.setWidth 11 }) ∧
        (v.getLsbD 31 = true → 6 ≤ sq ∧ sq ≤ 16 ∧ 6 ≤ cq ∧ cq ≤ 16 → Answers (.ringCtlWrite r n v) s fun t => OnlyRing s t k
          { y with en := true, sqLog := sq, cqLog := cq, vec := v.setWidth 11, sqHead := 0, cqTail := 0, phase := true, unposted := [], err := 0,
                   st := 1 }) ∧
        (v.getLsbD 31 = true → ¬ (6 ≤ sq ∧ sq ≤ 16 ∧ 6 ≤ cq ∧ cq ≤ 16) → Answers (.ringCtlWrite r n v) s fun t =>
          (t.ring k).st = 2 ∧ (t.ring k).err = 3 ∧ (∀ j, j ≠ k → t.ring j = s.ring j) ∧ t.mem = s.mem ∧ t.wards = s.wards))) ∧
    (∀ v f, f = s.func (funcKey r.port r.func) →
      (s.live = false ∨ 2047 < v ∨ s.hasBlock r = false → exec (.msixUnmask r v) s = .next s) ∧
      (s.live = true → v ≤ 2047 → s.hasBlock r = true → Answers (.msixUnmask r v) s fun t => ∃ g : Func,
        t.func (funcKey r.port r.func) = g ∧ v ∈ g.unmasked ∧ v ∉ g.pend ∧ (∀ u, u ≠ v → (u ∈ g.unmasked ↔ u ∈ f.unmasked) ∧ (u ∈ g.pend ↔ u ∈ f.pend)) ∧
        (∀ j, j ≠ funcKey r.port r.func → t.func j = s.func j) ∧ t = { s with funcs := t.funcs, sent := t.sent } ∧
        t.sent = if v ∈ f.pend then s.sent ++ [.msix r.port r.func v] else s.sent))

/-- For a live module and ports 0 and 1; elsewhere nothing changes. A reset of a VF clears its 16 rings and its MSI-X table,
counts in its ward, and lasts until the drain, which counts what it drained; a reset of PF0 clears PF0's rings and table on that
port and no ward. PERST does that for PF0 and every VF of the port and takes its link down; the link comes up only after its
release, with a legal rate and width. A link that goes down, or Bus Master Enable cleared, with no access of its wards on the
host, changes only the port or the function. Each second adds the rail energy to the module's energy; with every accounting
table off, each entry written before is written again with a raised FLUSH, and each ward's energy is the sum of its entries.
Answered with a next state under these conditions: VF_FLR, FLR_DRAIN_TIMEOUT, PF0_FLR, PERST, ACCOUNTING_SECOND, PCIE_LINK_DOWN,
PCIE_LINK_UP, PERST_RELEASE, BUS_MASTER_ENABLE_WRITE. (R407, R420, R421, R422, R430, R431, R432) -/
def Obligations.FunctionResetsAndPciePorts : Prop :=
  (∀ (s : State) (p v : Nat), s.live = true → p < 2 → 1 ≤ v → v ≤ 8 →
    let k := funcKey p v
    (Answers (.vfFlr p v) s fun t => (∀ n < 16, t.ring (ringKey p v n) = {}) ∧ (∀ j, (∀ n < 16, j ≠ ringKey p v n) → t.ring j = s.ring j) ∧
      t.func k = { inFlr := true } ∧ (∀ j, j ≠ k → t.func j = s.func j) ∧ t = { s with rings := t.rings, funcs := t.funcs, wards := t.wards } ∧
      (s.wardOfVf p v = none → t.wards = s.wards) ∧
      (∀ w, s.wardOfVf p v = some w → OneWard s t w
        { s.ward w with flrs := incSat (s.ward w).flrs, flrDev := 0, flrDma := 0, flrDrained := 0 })) ∧
    (∀ n, (s.func k).inFlr = false → exec (.flrDrainTimeout p v n) s = .next s) ∧
    (∀ n, (s.func k).inFlr = true →
      (s.wardOfVf p v = none → Answers (.flrDrainTimeout p v n) s fun t => OnlyFunc s t k { s.func k with inFlr := false }) ∧
      (∀ w, s.wardOfVf p v = some w → (∀ c ∈ (s.ward w).chans, s.hostAccess c w = none) → (∀ d ∈ (s.ward w).dieList, s.devOnHost d = false) →
        Answers (.flrDrainTimeout p v n) s fun t => t.func k = { s.func k with inFlr := false } ∧ (∀ j, j ≠ k → t.func j = s.func j) ∧
          t = { s with funcs := t.funcs, wards := t.wards } ∧
          OneWard s t w { s.ward w with flrDev := incSat (s.ward w).flrDev 0, flrDma := incSat (s.ward w).flrDma 0,
                                        flrDrained := incSat (s.ward w).flrDrained n }))) ∧
  (∀ (s : State) (p : Nat), s.live = true → p < 2 →
    (Answers (.pf0Flr p) s fun t => (∀ n < 16, t.ring (ringKey p 0 n) = {}) ∧ (∀ j, (∀ n < 16, j ≠ ringKey p 0 n) → t.ring j = s.ring j) ∧
      t.func (funcKey p 0) = {} ∧ (∀ j, j ≠ funcKey p 0 → t.func j = s.func j) ∧ t = { s with rings := t.rings, funcs := t.funcs }) ∧
    (Answers (.perst p) s fun t => t.port p = { s.port p with perst := true, up := false, rate := 0, width := 0 } ∧
      (∀ q, q ≠ p → t.port q = s.port q) ∧ (∀ f n, f ≤ 8 → n < 16 → t.ring (ringKey p f n) = {}) ∧
      (∀ f, f ≤ 8 → t.func (funcKey p f) = { inFlr := decide (1 ≤ f) }) ∧ t.tiles = s.tiles ∧ t.mem = s.mem) ∧
    (Answers (.perstRelease p) s fun t => OnlyPort s t p { s.port p with perst := false }) ∧
    (∀ r w, (s.port p).perst = false → (s.port p).detect = false → 1 ≤ r → r ≤ 5 → w ∈ [1, 2, 4, 8, 16] → Answers (.pcieLinkUp p r w) s fun t =>
      OnlyPort s t p { s.port p with up := true, rate := r, width := w }) ∧
    (∀ r w, ((s.port p).perst = true ∨ (s.port p).detect = true ∨ r = 0 ∨ 5 < r ∨ w ∉ [1, 2, 4, 8, 16]) → exec (.pcieLinkUp p r w) s = .next s) ∧
    ((s.port p).up = false → exec (.pcieLinkDown p) s = .next s) ∧
    ((s.port p).up = true → s.wardsOnPort p = [] → Answers (.pcieLinkDown p) s fun t =>
      OnlyPort s t p { s.port p with up := false, rate := 0, width := 0 })) ∧
  (∀ (s : State) (r : Req) (on : Bool), s.live = true → r.port ≤ 1 → r.func ≤ 8 → let k := funcKey r.port r.func
    ((s.func k).inFlr = true → exec (.busMasterEnableWrite r on) s = .next s) ∧
    ((s.func k).inFlr = false → (on = true ∨ r.func = 0 ∨ s.wardOfVf r.port r.func = none) → Answers (.busMasterEnableWrite r on) s fun t =>
      OnlyFunc s t k { s.func k with bme := on })) ∧
  ∀ (s : State) (rail idle : Nat), (s.live = false → exec (.accountingSecond rail idle) s = .next s) ∧
    (s.live = true → (∀ w < 8, (s.ward w).reg oAcctBase / 2 ^ 23 % 2 ^ 25 = 0) → Answers (.accountingSecond rail idle) s fun t =>
      t.pwr = { s.pwr with energyMj := s.pwr.energyMj + BitVec.ofNat 64 rail } ∧ t = { s with pwr := t.pwr, fresh := t.fresh, wards := t.wards } ∧
      ∀ w < 8, if (s.ward w).hasBeat = true then
          (t.ward w).acctEnergy = BitVec.ofNat 64 ((t.ward w).acct.map fun e => e.2.energyMj).sum ∧
          ∀ c, 0 < ((s.ward w).acct.get c).flush → ((t.ward w).acct.get c).flush = ((s.ward w).acct.get c).flush + 2 ∧ ((t.ward w).acct.get c).tick = s.tick
        else t.ward w = s.ward w)

/-- For commands this module acts on. KEY_ALLOC by a placed ward of a context in none of its LIVE slots: the lowest free slot
becomes LIVE with a fresh key and that one member, DETAIL names slot and epoch; else ST_PROTECTION. KEY_SHARE adds a member to a
LIVE slot of the ward, up to four, or leaves one that is there; else ST_PROTECTION. KEY_RETIRE of a LIVE slot of the ward: its
epoch rises by one, its key is zeroed, it is in quarantine and the command waits, to complete with ST_OK after its boundary and
scrub; the slot is free after quarantine, its epoch kept. The peek shows a slot to PF0 alone. ATTEST that is refused completes
with ST_PROTECTION and signs nothing; else it waits its turn with the slot's epoch, and is signed under that epoch or ends with
ST_KEY_RETIRED. OWNER_SET needs a good signature and no older version; its record holds if a copy was written. CERT_READ writes
both certificates; IDE_KEY installs the stream. Answered with a next state under these conditions: SEC_SLOT_PEEK_IDX, KEY_ALLOC,
KEY_RETIRE, KEY_RETIRE_COMPLETE, KEY_SHARE, ATTEST, OWNER_SET, CERT_READ, IDE_KEY, QUARANTINE_EXPIRE, ATTESTATION_SIGNED,
OWNER_RECORD_WRITTEN. (R442, R445, R446, R454, R455, R462, R463, R467) -/
def Obligations.KeySlotsAndCertificates : Prop :=
  (∀ (s a : State) (src : Src) (op : HostOp) (x : OpCtx) (y : Ward), s.takesHere src op = true → a = s.taken src op → x = s.ctxOf src op → y = s.ward x.w →
    (∀ c, op = .keyAlloc c →
      (s.freeSlot = none ∨ y.st = .disabled ∨ y.st = .placing ∨ c = 0 ∨ (s.ctxSlot x.w c).isSome = true →
        exec (.keyAlloc src c) s = .next (a.complete x.jseq .protection)) ∧
      (∀ k, s.freeSlot = some k → y.st ≠ .disabled → y.st ≠ .placing → c ≠ 0 → s.ctxSlot x.w c = none → Answers (.keyAlloc src c) s fun t => ∃ u : State,
        t = u.complete x.jseq .ok (BitVec.ofNat 32 (k + (s.slot k).epoch.toNat % 2 ^ 16 * 2 ^ 16)) ∧ u = { a with slots := u.slots, keyNext := s.keyNext + 1 } ∧
        u.slot k = { s.slot k with st := .live, ward := x.w, members := [c], key := s.keyNext } ∧ ∀ j, j ≠ k → u.slot j = s.slot j)) ∧
    (∀ k c, op = .keyShare k c → let z := s.slot k
      (z.st ≠ .live ∨ z.ward ≠ x.w ∨ c = 0 ∨ (c ∉ z.members ∧ (4 ≤ z.members.length ∨ (s.ctxSlot x.w c).isSome = true)) →
        exec (.keyShare src k c) s = .next (a.complete x.jseq .protection)) ∧
      (z.st = .live → z.ward = x.w → c ≠ 0 → c ∈ z.members → exec (.keyShare src k c) s = .next (a.complete x.jseq .ok)) ∧
      (z.st = .live → z.ward = x.w → c ≠ 0 → c ∉ z.members → z.members.length < 4 → s.ctxSlot x.w c = none →
        Answers (.keyShare src k c) s fun t => ∃ u : State, t = u.complete x.jseq .ok ∧ OnlySlot a u k { z with members := z.members ++ [c] })) ∧
    (∀ k, op = .keyRetire k → let z := s.slot k
      (z.st ≠ .live ∨ z.ward ≠ x.w → exec (.keyRetire src k) s = .next (a.complete x.jseq .protection)) ∧
      (z.st = .live → z.ward = x.w → Answers (.keyRetire src k) s fun t =>
        t.slot k = { z with epoch := z.epoch + 1, key := 0, st := .quarantine } ∧ (∀ j, j ≠ k → t.slot j = s.slot j) ∧
        t.retires = s.retires ++ [{ slot := k, ward := x.w, members := z.members, jseq := x.jseq }] ∧
        t.sec.retires = incSat s.sec.retires ∧ ∀ e ∈ t.atts, e.slot ≠ k)) ∧
    (∀ c ol rq out ok n, op = .attest c ol rq out ok n →
      ((y.registry.get c).st ≠ .registered ∨ ok = false ∨ ol < 65536 ∨ s.ctxSlot x.w c = none →
        exec (.attest src c ol rq out ok n) s = .next (a.complete x.jseq .protection)) ∧
      (∀ k, (y.registry.get c).st = .registered → ok = true → 65536 ≤ ol → s.ctxSlot x.w c = some k →
        exec (.attest src c ol rq out ok n) s = .next { a with atts := s.atts ++ [
          { ward := x.w, ctx := c, slot := k, epoch := (s.slot k).epoch, nonce := n, out := out.setWidth 48, jseq := x.jseq }] })) ∧
    (∀ r n ok v id, op = .ownerSet r n ok v id →
      (ok = false ∨ v < s.sec.ownerVer → exec (.ownerSet src r n ok v id) s = .next (a.complete x.jseq .protection)) ∧
      (ok = true → s.sec.ownerVer ≤ v → exec (.ownerSet src r n ok v id) s =
        .next { a with flash := { s.flash with ownerSets := s.flash.ownerSets ++ [(x.jseq, v)] } })) ∧
    (∀ out ol bs, op = .certRead out ol → bs = s.identityCert ++ s.akCert →
      (ol < bs.length → exec (.certRead src out ol) s = .next (a.complete x.jseq .protection)) ∧
      (bs.length ≤ ol → out.toNat % 2 ^ 47 + bs.length ≤ 2 ^ 47 → Answers (.certRead src out ol) s fun t => ∃ u : State,
        t = u.complete x.jseq .ok (BitVec.ofNat 32 bs.length) ∧ u = { a with mem := u.mem } ∧
        u.rdBytes (hostBase src.port out.toNat) bs.length = bs ∧ SameOutside a u (hostBase src.port out.toNat) bs.length)) ∧
    (∀ p n rq ok, op = .ideKey p n rq ok →
      (1 < p ∨ 3 < n ∨ ok = false → exec (.ideKey src p n rq ok) s = .next (a.complete x.jseq .protection)) ∧
      (p ≤ 1 → n ≤ 3 → ok = true → Answers (.ideKey src p n rq ok) s fun t => ∃ u : State, t = u.complete x.jseq .ok ∧
        OnlyPort a u p { s.port p with streams := if n ∈ (s.port p).streams then (s.port p).streams else (s.port p).streams ++ [n] }))) ∧
  ∀ (s : State), s.live = true →
    (∀ k, (s.slot k).st ≠ .quarantine → exec (.quarantineExpire k) s = .next s) ∧
    (∀ k, (s.slot k).st = .quarantine → (∀ w < 8, (s.ward w).st ≠ .placing) → Answers (.quarantineExpire k) s fun t =>
      OnlySlot s t k { s.slot k with st := .free, ward := 0, members := [] }) ∧
    (∀ k, (∀ r ∈ s.retires, r.slot = k → r.boundaryDone = false ∨ (s.ward r.ward).scrubDue = true) → exec (.keyRetireComplete k) s = .next s) ∧
    (∀ k r, s.retires = [r] → r.slot = k → r.boundaryDone = true → (s.ward r.ward).scrubDue = false →
      exec (.keyRetireComplete k) s = .next ({ s with retires := [] }.complete r.jseq .ok)) ∧
    (∀ (r : Req) (v : W32) (k : Nat), k = v.toNat % 2 ^ 14 → (r.func ≠ 0 → exec (.secSlotPeekIdx r v) s = .next s.refuse) ∧
      (r.func = 0 → exec (.secSlotPeekIdx r v) s = .next { s with sec := { s.sec with
        peekIdx := BitVec.ofNat 16 k, peekData := BitVec.ofNat 64 (s.slot k).peekData, peekMem := BitVec.ofNat 64 (s.slot k).peekMem } })) ∧
    (s.atts = [] → exec .attestationSigned s = .next s) ∧
    (∀ a r, s.atts = a :: r →
      ((s.slot a.slot).st ≠ .live ∨ (s.slot a.slot).epoch ≠ a.epoch → exec .attestationSigned s = .next ({ s with atts := r }.complete a.jseq .keyRetired)) ∧
      (∀ o bs p, (s.slot a.slot).st = .live → (s.slot a.slot).epoch = a.epoch → s.opens.get a.jseq = some o → p = o.ring / 16 →
        bs = s.attCert a ++ s.akCert ++ s.identityCert → a.out.toNat % 2 ^ 47 + bs.length ≤ 2 ^ 47 → s.canIssue (p / 9) (p % 9) = true →
        Answers .attestationSigned s fun t => ∃ u : State, t = u.complete a.jseq .ok (BitVec.ofNat 32 bs.length) ∧
          u = { s with atts := r, fresh := u.fresh, mem := u.mem, sec := { s.sec with attests := incSat s.sec.attests } } ∧
          u.rdBytes (hostBase (p / 9) a.out.toNat) bs.length = bs ∧ SameOutside s u (hostBase (p / 9) a.out.toNat) bs.length)) ∧
    (s.flash.ownerSets = [] → ∀ a b, exec (.ownerRecordWritten a b) s = .next s) ∧
    (∀ j v r a b, s.flash.ownerSets = (j, v) :: r → exec (.ownerRecordWritten a b) s = .next (
      { s with flash := { s.flash with ownerSets := r, copies := (s.flash.copies.set 4 a).set 5 b },
               sec := { s.sec with ownerPending := s.sec.ownerPending || a || b } }.complete j (if a || b then .ok else .tierFail)))

/-- A heartbeat of a live die keeps the greater tick, and the errors that have come about in its tiles' memories: an
uncorrectable word of a store stays noted there, a pair of well elements is poisoned, with a record of class 0x08. Sixteen ticks
of silence, or an uncorrectable error of its memory, fence a die that is fitted and not fenced: die 0 halts the module, with a
record that waits for the collector; another die's links go down. A patrol cycle of a running ward starts a pass, or, while one
runs, notes the lateness with a record; a patrol read that finds no poison moves to the next sector or ends the pass; one that
does faults the job with ST_POISON. At most 40 records go out in a datagram, each once; an acknowledgement removes the records
below it and, from the fall-back, sends the others again; a timer sends one record again. Silence of the collector and loss of
sync enter the fall-back. The fault ring is shown to PF0 alone, zeros for a record not held. Answered with a next state under
these conditions: SAF_RING_IDX, HEARTBEAT, WATCHDOG_EXPIRE, PATROL_CYCLE, PATROL_READ, SAFELIGHT_SEND, COLLECTOR_ACK,
RESEND_TIMER, ALIVE_EXPIRE, PCS_SYNC_LOSS, PCS_SYNC, CONTROLLER_MEMORY_ERROR. (R470, R472, R474, R475, R476, R483, R489, R490,
R491, R499, R502) -/
def Obligations.ControllersPatrolsAndSafelight : Prop :=
  (∀ (s : State) (d n : Nat),
    (s.live = true → d ∈ s.dies → s.dieFencedAt d = false →
      let beat (t : State) := t.beats.get d = max (s.beats.get d) n ∧ (∀ k, k ≠ d → t.beats.get k = s.beats.get k) ∧ t.tick = max s.tick n ∧ t.mem = s.mem
      (∀ us : List Upset, (∀ u ∈ us, u.tile / 64 ≠ d) → Answers (.heartbeat d ⟨n, us⟩) s fun t => beat t ∧ t = { s with beats := t.beats, tick := t.tick }) ∧
      (∀ i k, i / 64 = d → k < 262144 → Answers (.heartbeat d ⟨n, [⟨i, .store, k⟩]⟩) s fun t => beat t ∧ t.saf = s.saf ∧
        t.tile i = { s.tile i with badWords := ((s.tile i).badWords ++ [k]).dedup } ∧ ∀ j, j ≠ i → t.tile j = s.tile j) ∧
      (∀ i k, i / 64 = d → k < 65536 → Answers (.heartbeat d ⟨n, [⟨i, .well, k⟩]⟩) s fun t => beat t ∧ t.saf.seqNext = s.saf.seqNext + 1 ∧
        (let r := t.faults.get ((s.saf.seqNext - 1) % faultRing)
         r.cls = 8 ∧ r.die = d ∧ r.idx = i % 64 ∧ r.detail = BitVec.ofNat 128 (k + 2 * 2 ^ 64)) ∧
        ((t.tile i).wells.get (k / 128)).poison = ((s.tile i).wells.get (k / 128)).poison ||| (3#256 <<< (2 * (k % 128))) ∧
        (∀ w, w ≠ k / 128 → (t.tile i).wells.get w = (s.tile i).wells.get w) ∧ ∀ j, j ≠ i → t.tile j = s.tile j)) ∧
    (s.live = false ∨ d ∉ s.dies ∨ s.dieFencedAt d = true → (∀ us, exec (.heartbeat d ⟨n, us⟩) s = .next s) ∧ exec (.controllerMemoryError d) s = .next s) ∧
    (s.beats.get d + 16 ≤ s.tick → exec (.watchdogExpire d) s = .next (s.fenceDie d 0)) ∧ (s.tick < s.beats.get d + 16 → exec (.watchdogExpire d) s = .next s) ∧
    exec (.controllerMemoryError d) s = .next (s.fenceDie d 1) ∧
    (s.live = true → d ∈ s.dies → s.dieFencedAt d = false → ∀ c t, t = s.fenceDie d c → d < 8 → t.dieFencedAt d = true ∧
      (d = 0 → t.saf.seqNext = s.saf.seqNext + 1 ∧ t.life = .halted ∧ t.wards = s.wards ∧ t.journal = s.journal ∧ t.opens = s.opens ∧ t.mem = s.mem ∧ t.tiles = s.tiles ∧
        (let r := t.faults.get ((s.saf.seqNext - 1) % faultRing)
         r.cls = 0x0F ∧ r.scope = 7 ∧ r.die = 0 ∧ r.detail = BitVec.ofNat 128 c)))) ∧
  (∀ (s : State) (d c : Nat) (t : State), s.live = true → d ∈ s.dies → s.dieFencedAt d = false → d ≠ 0 → s.wardOfDie d = none →
    (∀ j < 6, (s.link (6 * d + j)).st = .missing ∨ (s.link (6 * d + j)).st = .down) → t = s.fenceDie d c → ∃ u : State, t = { u with dieFenced := s.dieFenced ||| (1#8 <<< d) } ∧
    Reports s u { cls := 0x0F, scope := 6, status := St.poison.code, unit := 0xA, die := d, src := 3, detail := BitVec.ofNat 128 c }) ∧
  (∀ (s : State) (w : Nat) (y : Ward), y = s.ward w →
    (s.live = false ∨ y.running = false ∨ y.reg oPatrol / 2 ^ 16 % 2 = 1 → exec (.patrolCycle w) s = .next s) ∧
    (s.live = true → y.running = true → y.reg oPatrol / 2 ^ 16 % 2 = 0 →
      (y.patBusy = true → Answers (.patrolCycle w) s fun t => ∃ u : State, OnlyWard s u w { y with patLate := true, patDue := true } ∧ ∃ e : Nat, Reports u t
        { cls := 0x12, scope := 0, ward := w, unit := 0xA, die := (u.ward w).lowDie, src := 3, detail := BitVec.ofNat 128 e }) ∧
      (y.patBusy = false → Answers (.patrolCycle w) s fun t => OnlyWard s t w (if y.patrolPages = []
        then { y with patPasses := y.patPasses + 1, patDue := false, patNext := 0 } else { y with patBusy := true, patDue := false, patNext := 0 }))) ∧
    (∀ rep, s.live = true → y.running = true → y.patBusy = true → nthSector y.patrolPages y.patNext = some rep.sector → rep.uncorr = false →
      (rep.corrected = 0 → s.secTags.get rep.sector = default ∨ ((s.secTags.get rep.sector).key = (s.slot y.keySlot).key ∧
          (s.secTags.get rep.sector).kind ≠ .poison) →
        Answers (.patrolRead w rep) s fun t => t.mem = s.mem ∧ t.tiles = s.tiles ∧ (∀ v, v ≠ w → t.ward v = s.ward v) ∧
          (nthSector y.patrolPages (y.patNext + 1) ≠ none → t.ward w = { y with patNext := y.patNext + 1 }) ∧
          (nthSector y.patrolPages (y.patNext + 1) = none → y.patDue = false →
            t.ward w = { y with patPasses := y.patPasses + 1, patBusy := false, patNext := 0 })) ∧
      (∀ j, s.secTags.get rep.sector ≠ default → (s.secTags.get rep.sector).key = (s.slot y.keySlot).key → (s.secTags.get rep.sector).kind = .poison →
        y.job = some j → Answers (.patrolRead w rep) s fun t => (∃ k : Job, (t.ward w).job = some k ∧ k.fault = some (j.fault.getD .poison)) ∧
          t.saf.seqNext = s.saf.seqNext + 1 ∧ ∀ v, v ≠ w → t.ward v = s.ward v)) ∧
    (∀ rep, s.live = false ∨ y.running = false ∨ y.patBusy = false ∨ nthSector y.patrolPages y.patNext ≠ some rep.sector →
      exec (.patrolRead w rep) s = .next s)) ∧
  ∀ (s : State) (f : Saf), f = s.saf →
    (∀ l, l = ((f.unacked.filter fun c => !c.sent).take 40).map (·.seq) →
      (s.managed = false ∨ f.pcsUp = false ∨ l = [] → exec .safelightSend s = .next s) ∧
      (s.managed = true → f.pcsUp = true → l ≠ [] → exec .safelightSend s = .next { s with
        sent := s.sent ++ [.records 0 0 l (s.datagramBytes 0 0 l)], saf := { f with unacked := f.unacked.map fun c => if c.seq ∈ l then { c with sent := true } else c } })) ∧
    (∀ dev a, (s.managed = false ∨ f.pcsUp = false ∨ dev ≠ s.devid → exec (.collectorAck dev a) s = .next s) ∧
      (s.managed = true → f.pcsUp = true → dev = s.devid → ∀ g, g = { f with
          acked := (if f.acked.toNat < a.toNat then a else f.acked), unacked := f.unacked.filter fun c => a.toNat ≤ c.seq } →
        (f.reachable = true → exec (.collectorAck dev a) s = .next { s with saf := g }) ∧
        (f.reachable = false → g.unacked.length ≤ 40 → f.discardedFrom = false → Answers (.collectorAck dev a) s fun t =>
          t.saf = { g with reachable := true, fallback := false, resent := incSat f.resent g.unacked.length,
                           unacked := g.unacked.map fun c => { c with sent := true } } ∧ t = { s with saf := t.saf, sent := t.sent } ∧
          ∀ l, l = g.unacked.map (·.seq) →
            t.sent = if g.unacked = [] then s.sent else s.sent ++ [.records 1 0 l ({ s with saf := g }.datagramBytes 1 0 l)]))) ∧
    (∀ q, (s.managed = false ∨ f.reachable = false ∨ (f.unacked.any fun c => c.seq = q && c.sent) = false → exec (.resendTimer q) s = .next s) ∧
      (s.managed = true → f.reachable = true → (f.unacked.any fun c => c.seq = q && c.sent) = true →
        exec (.resendTimer q) s = .next { s with sent := s.sent ++ [.records 1 0 [q] (s.datagramBytes 1 0 [q])], saf := { f with resent := incSat f.resent } })) ∧
    (s.managed = true → f.reachable = true → exec .aliveExpire s = .next { s with saf := { f with reachable := false, fallback := true } }) ∧
    (s.managed = false ∨ f.reachable = false → exec .aliveExpire s = .next s) ∧
    (s.managed = true → f.pcsUp = true → exec .pcsSyncLoss s = .next { s with saf := { f with pcsUp := false, reachable := false, fallback := true } }) ∧
    (s.managed = false ∨ f.pcsUp = false → exec .pcsSyncLoss s = .next s) ∧
    (s.managed = true → exec .pcsSync s = .next { s with saf := { f with pcsUp := true } }) ∧ (s.managed = false → exec .pcsSync s = .next s) ∧
    (∀ (r : Req) (v : W64), s.live = true → (r.func ≠ 0 → exec (.safRingIdx r v) s = .next s.refuse) ∧
      (∀ b, b = (if s.faultHeld v.toNat then (s.faults.get ((v.toNat - 1) % faultRing)).bytes else List.replicate 128 0) → r.func = 0 →
        exec (.safRingIdx r v) s = .next { s with saf := { f with ringIdx := v, ringData := b } }))

/-- While the module is powered and out of reset: ENTDAA gives the I3C address; with an address, Set Endpoint ID sets the
identifier and record events are turned on or off; the endpoint, the message types (their numbers are the model's, log entry
71), a sensor's value, compact records by number and the three status registers are sent, and nothing else changes. A sensor
that the module does not have sends nothing. Without power or an address nothing changes. With the safelight port in sync, an
echo is answered with its own data, a neighbour solicitation for the port's address too, and an ARP request where an image gave
an IPv4 address. Answered with a next state under these conditions: ENTDAA, SET_ENDPOINT_ID, GET_ENDPOINT_ID,
GET_MESSAGE_TYPE_SUPPORT, PLDM_SENSOR_READ, READ_COMPACT_RECORDS, READ_STATUS_REGISTERS, ARP_REQUEST, NEIGHBOUR_SOLICITATION,
ICMP_ECHO, RECORD_EVENT_ENABLE. (R488, R493, R494) -/
def Obligations.ManagementPortsAnswer : Prop :=
  (∀ s : State, s.managed = true →
    (∀ da, exec (.entdaa da) s = .next { s with saf := { s.saf with da := da } }) ∧
    (s.saf.da ≠ 0 → (∀ e, exec (.setEndpointId e) s = .next { s with saf := { s.saf with eid := e } }) ∧
      (∀ on, exec (.recordEventEnable on) s = .next { s with saf := { s.saf with recEvents := on } }) ∧
      exec .getEndpointId s = .next { s with sent := s.sent ++ [.mctpEid s.saf.eid] } ∧
      exec .getMessageTypeSupport s = .next { s with sent := s.sent ++ [.mctpTypes [0x00, 0x01, 0x7F]] } ∧
      (∀ n, n < 10 → exec (.pldmSensorRead n) s = .next { s with sent := s.sent ++ [.pldm n (Tab.getD (-32768) s.pwr.temps n)] }) ∧
      exec (.pldmSensorRead 10) s = .next { s with sent := s.sent ++ [.pldm 10 s.pwr.vin] } ∧
      exec (.pldmSensorRead 11) s = .next { s with sent := s.sent ++ [.pldm 11 s.pwr.pin] } ∧
      (∀ a n, Answers (.readCompactRecords a n) s fun t => ∃ l : List FRec,
        t = { s with sent := s.sent ++ [.compact (l.map (·.seq)) (l.flatMap (·.compact))] } ∧
        ∀ r, r ∈ l ↔ a ≤ r.seq ∧ r.seq < a + n ∧ ∃ e ∈ s.faults, e.2 = r) ∧
      Answers .readStatusRegisters s fun t => ∃ h f x : W64, t = { s with sent := s.sent ++ [.status h f x] } ∧
        (f.getLsbD 0 = s.saf.image ∧ f.getLsbD 1 = s.saf.pcsUp ∧ f.getLsbD 2 = s.saf.reachable ∧ f.getLsbD 3 = s.saf.fallback ∧
          f.toNat / 2 ^ 17 % 2 ^ 7 = s.saf.da.toNat ∧ f.toNat / 2 ^ 24 = s.saf.eid.toNat) ∧ h.getLsbD 32 = s.modFenced ∧
        x.getLsbD 4 = s.sec.owner ∧ x.getLsbD 0 = s.sec.bootVerified)) ∧
  (∀ s : State, s.managed = false ∨ s.saf.da = 0 → (s.managed = false → ∀ da, exec (.entdaa da) s = .next s) ∧
    (∀ e, exec (.setEndpointId e) s = .next s) ∧ (∀ on, exec (.recordEventEnable on) s = .next s) ∧ exec .getEndpointId s = .next s ∧
    exec .getMessageTypeSupport s = .next s ∧ (∀ n, exec (.pldmSensorRead n) s = .next s) ∧ (∀ a n, exec (.readCompactRecords a n) s = .next s) ∧
    exec .readStatusRegisters s = .next s) ∧
  (∀ (s : State) (n : Nat), 11 < n → exec (.pldmSensorRead n) s = .next s) ∧
  ∀ s : State, (s.managed = true → s.saf.pcsUp = true →
      (∀ i q d, exec (.icmpEcho i q d) s = .next { s with sent := s.sent ++ [.echoReply i q d] }) ∧
      (∀ m, exec (.neighbourSolicitation m) s = .next (if m then { s with sent := s.sent ++ [.naReply] } else s)) ∧
      (∀ m, exec (.arpRequest m) s = .next (if m && s.saf.image && s.image.family == 4 then { s with sent := s.sent ++ [.arpReply] } else s))) ∧
    (s.managed = false ∨ s.saf.pcsUp = false → (∀ i q d, exec (.icmpEcho i q d) s = .next s) ∧
      (∀ m, exec (.neighbourSolicitation m) s = .next s ∧ exec (.arpRequest m) s = .next s))

/-- POWER_ON of a module without power, and the release of RESET_N, run the boot; RESET_N and the automatic restart after an
ordered stop, which needs the input from 42.5 V to 60 V and cool sensors, start from reset. Every field is at its reset value
then, but flash copies, host and stack bytes, whose tags name dead keys. A boot without readable flash, with a bad identity,
owner record, image or firmware in both copies or a bad stack fails: nothing runs, item and reason are kept and a record of
class 0x11 is written, which is sent again on its timer. An image passes exactly where it can be read, header, signature,
version, variant and every section are good, the device stands in its map and no section names an absent unit. Else the module
is up under its image: address, route table, module key in slot 0, an empty journal, ports out of Detect. Only PF0 writes flash;
a write is refused before anything is erased for a bad item or a failed check of either copy; its end leaves the target copy
valid exactly where the compare succeeded. Answered with a next state under these conditions: POWER_ON, BOOT_FAIL_RESEND,
RESET_N_ASSERT, RESET_N_RELEASE, FLASH_WRITE, FLASH_WRITE_COMPLETE, AUTO_RESET. (R8, R435, R445, R503, R505, R506, R508, R511,
R512, R515, R516, R521) -/
def Obligations.BootResetAndFlash : Prop :=
  (∀ (s : State) (b : BootIn), (s.life = .off → exec (.powerOn b) s = .next ((s.afterReset .off).bootUp b)) ∧
    (s.life ≠ .off → exec (.powerOn b) s = .next s ∧ exec .resetNAssert s = .next (s.afterReset .reset)) ∧ (s.life = .off → exec .resetNAssert s = .next s) ∧
    (s.life = .reset → exec (.resetNRelease b) s = .next (s.bootUp b)) ∧ (s.life ≠ .reset → exec (.resetNRelease b) s = .next s) ∧
    (s.life ≠ .stopping ∨ s.pwr.vin < 4250 ∨ 6000 < s.pwr.vin → exec (.autoReset b) s = .next s) ∧
    (s.life = .stopping → 4250 ≤ s.pwr.vin → s.pwr.vin ≤ 6000 → Tab.getD (-32768) s.pwr.temps 9 < 8 * (s.pwr.outT : Int) →
      ((∀ d ∈ s.dies, Tab.getD (-32768) s.pwr.temps d < 8 * (s.pwr.tj : Int) - 80) ∧ 0 < s.pwr.tj →
        exec (.autoReset b) s = .next ((s.afterReset .off).bootUp b)) ∧
      ((∃ d ∈ s.dies, 8 * (s.pwr.tj : Int) - 80 ≤ Tab.getD (-32768) s.pwr.temps d ∧ -32768 < Tab.getD (-32768) s.pwr.temps d) →
        exec (.autoReset b) s = .next s))) ∧
  (∀ (s t : State) (l : Life), t = s.afterReset l → Memory.wf s.mem = true →
    (∀ a, t.rdByte a = if a < 2 ^ 42 ∨ 2 ^ 48 ≤ a then s.rdByte a else 0) ∧
    t = { State.reset with pending := s.pending, fresh := s.fresh, variant := s.variant, life := l, keyNext := s.keyNext, sent := s.sent, mem := t.mem,
                           secTags := s.secTags, flash := { copies := s.flash.copies } }) ∧
  (∀ (s t : State) (b : BootIn), t = s.bootUp b →
    (∀ f, bootChecks s.variant b = .error f → t.life = .bootFailed ∧ t.boot.stage = 0xE ∧ t.boot.item = BitVec.ofNat 8 f.item ∧
      t.boot.reason = BitVec.ofNat 8 f.reason ∧ t.saf.seqNext = s.saf.seqNext + 1 ∧ t.wards = s.wards ∧ t.tiles = s.tiles ∧
      (let r := t.faults.get ((s.saf.seqNext - 1) % faultRing)
       r.cls = 0x11 ∧ r.scope = 7 ∧ r.detail = BitVec.ofNat 128 f.detail)) ∧
    (∀ n a m, bootChecks s.variant b = .ok n → bootAddr s.variant b = some a → m = bootImage s.variant b → t.life = .up ∧
      t.boot = { n with stage := 0xB } ∧ t.image = m ∧ t.linkAddr = a ∧ t.standby = decide (64 ≤ a) ∧ t.routes = m.routes ∧ t.jrnNext = 1 ∧
      t.jrnBoot = b.jrnBoot ∧ t.slot 0 = { st := .modul, key := s.keyNext } ∧ (∀ k, k ≠ 0 → t.slot k = s.slot k) ∧ t.keyNext = s.keyNext + 1 ∧
      (∀ p < 2, (t.port p).detect = false ∧ (t.port p).up = (s.port p).up) ∧ t.sec.cfgDigest = (cfgUsed s.variant b).digest ∧
      t.wards = s.wards ∧ t.tiles = s.tiles ∧ t.mem = s.mem ∧ ∀ l < 48, l / 6 ∉ s.dies → (t.link l).st = .missing)) ∧
  (∀ (v : Variant) (b : BootIn) (good : CopyCheck × CopyCheck → Prop), good = (fun c => c.1.ok = true ∨ c.2.ok = true) →
    let fails (item : Nat) := ∃ f, bootChecks v b = .error f ∧ f.item = item
    (b.flashC0 = false ∧ b.flashC4 = false → fails 0) ∧
    (b.flashC0 = true ∨ b.flashC4 = true → (¬ good b.ident → fails 1) ∧
      (good b.ident → (b.ownerErased = false ∧ ¬ good b.owner → fails 2) ∧
        (b.ownerErased = true ∨ good b.owner → (¬ good (cfgChecks v b) → fails 3) ∧
          (good (cfgChecks v b) → (¬ good (fwChecks v b) → fails 4) ∧
            (good (fwChecks v b) → (∀ k, b.badStack = some k → fails 5) ∧
              (b.badStack = none → bootAddr v b ≠ none ∧ ∃ n, bootChecks v b = .ok n ∧ n.fwCopy = !(fwChecks v b).1.ok ∧
                n.cfgCopy = !(cfgChecks v b).1.ok))))))) ∧
  (∀ (v : Variant) (ver : Nat) (dev : BitVec 256) (c : ImgCopy),
    ((cfgCheck v ver dev c).ok = true ↔ ∃ x a, c.bytes = some x ∧ headerOk x = true ∧ c.sigOk = true ∧ ver ≤ imgAt x 12 4 ∧
      (imgAt x 16 1).testBit (Config.variantCode v) = true ∧ badSection v x = none ∧ addrOf (devmapOf x) dev = some a ∧
      absentAt v (imageOf x a) = none) ∧
    (c.bytes = none → (cfgCheck v ver dev c).reason = 1) ∧
    (∀ x, c.bytes = some x → headerOk x = true → c.sigOk = true → ver ≤ imgAt x 12 4 → (imgAt x 16 1).testBit (Config.variantCode v) = true →
      ∀ i, badSection v x = some i → cfgCheck v ver dev c = { ok := false, reason := 2, idx := i }) ∧
    ∀ x i (y : Section), badSection v x = none → (sectionsOf x)[i]? = some y → y.type = i + 1 ∧ y.clean = true ∧ y.len % 16 = 0 ∧
      bodyMin x y ≤ y.len ∧ y.at' + y.len ≤ imgAt x 8 4 ∧ bodyOk v x y = true) ∧
  (∀ (m : Image) (c : ImgCopy), (fwCheck m c).ok = true ↔ ∃ x, c.bytes = some x ∧ fwHeaderOk x = true ∧ c.sigOk = true ∧
    m.fwMin ≤ imgAt x 12 4 ∧ (m.fwPin = 0 ∨ c.digest = m.fwPin)) ∧
  (∀ s : State, (s.life = .bootFailed → s.saf.pcsUp = true → exec .bootFailResend s =
      .next { s with sent := s.sent ++ [.records 1 0 [1] (s.datagramBytes 1 0 [1])], saf := { s.saf with resent := incSat s.saf.resent } }) ∧
    (s.life ≠ .bootFailed ∨ s.saf.pcsUp = false → exec .bootFailResend s = .next s)) ∧
  (∀ (s : State) (r : Req) (v : W64) (img : StagedIn) (other : ImgCopy) (a : RegW) (f : Flash), s.live = true → a = { off := 0x10010, size := 4, val := v } →
    f = { s.flash with ctlLo := v.setWidth 32 &&& 0xF2 } →
    (r.func ≠ 0 → exec (.flashWrite r a img other) s = .next s.refuse) ∧
    (r.func = 0 → let item := f.ctlLo.toNat / 16
      (v.getLsbD 0 = false ∨ s.flash.st = .busy → exec (.flashWrite r a img other) s = .next { s with flash := f }) ∧
      (v.getLsbD 0 = true → s.flash.st ≠ .busy →
        (item ≠ 3 ∧ item ≠ 4 → exec (.flashWrite r a img other) s = .next { s with flash := { f with st := .refused, reason := 2 } }) ∧
        (item = 3 ∨ item = 4 →
          (s.canIssue (s.flash.src.toNat / 2 ^ 47 % 2) 0 = false →
            exec (.flashWrite r a img other) s = .next { s with flash := { f with st := .refused, reason := 1 } }) ∧
          (s.canIssue (s.flash.src.toNat / 2 ^ 47 % 2) 0 = true → ∀ c d, c = s.imageCheck item (s.staged img) → d = s.imageCheck item other →
            (c.ok = false → exec (.flashWrite r a img other) s = .next { s with flash := { f with st := .refused, reason := c.reason } }) ∧
            (c.ok = true → d.ok = false →
              exec (.flashWrite r a img other) s = .next { s with flash := { f with st := .refused, reason := d.reason } }) ∧
            (c.ok = true → d.ok = true → exec (.flashWrite r a img other) s = .next { s with flash :=
              { f with st := .busy, reason := 0, target := some (item, v.getLsbD 1) } })))))) ∧
  ∀ (s : State) (ok : Bool), s.live = true → (s.flash.st ≠ .busy ∨ s.flash.target = none → exec (.flashWriteComplete ok) s = .next s) ∧
    (∀ i c, s.flash.st = .busy → s.flash.target = some (i, c) → Answers (.flashWriteComplete ok) s fun t => t = { s with flash := t.flash } ∧
      t.flash.st = (if ok then .done else .failed) ∧ t.flash.target = none ∧ t.flash.copies.get (2 * i + if c then 1 else 0) = ok ∧
      ∀ j, j ≠ 2 * i + (if c then 1 else 0) → t.flash.copies.get j = s.flash.copies.get j)

/-- Each supply sample updates the mean of the last eight, the supply step by its falling and rising thresholds, the stop timer
below 38 V and the clamp above 60 V; power and thermal ticks move their steps by the table's amounts within 16 to 64; the clock
is the least of the four limits, at least 16. An ordered stop needs its condition (timer, clamp, a die from 110 C, the outlet
from 70 C) and a live module: no job is left, the last record is of class 0x10 with ST_SUPPLY, and the module is stopping; the
rails off leave the module as after reset. A register write by a requester that does not own the block, like a refused read, is
counted and changes nothing; one of illegal width or to no block changes nothing; the owner's write reaches its one unit; the
beat length takes 16 to 4096 times 256 cycles only while no job runs, at once in a ward that counts no beats. A refused read
returns zero; MOD_CAP_UNITS and MOD_CAP_SIZE tell the variant, whole and by halves, and each ward's copies the same;
MOD_DIE_WARD tells who holds each die, MOD_ID the module's place in its domain. Answered with a next state under these
conditions: SUPPLY_SAMPLE, POWER_LIMIT_TICK, THERMAL_TICK, STOP_TIMER_EXPIRE, OVERVOLTAGE_TIMEOUT, DIE_OVERTEMP,
OUTLET_OVERTEMP, RAIL_SWITCH_OFF, REGISTER_WRITE, REGISTER_READ_REFUSED. (R2, R3, R4, R23, R24, R35, R36, R189, R517, R518,
R519, R522) -/
def Obligations.PowerClocksAndRegisters : Prop :=
  (∀ (s : State) (v : Nat) (xs : List Nat), xs = (s.pwr.samples ++ [v]).drop (s.pwr.samples.length + 1 - 8) →
    (s.measures = false → exec (.supplySample v) s = .next s) ∧
    (s.measures = true → Answers (.supplySample v) s fun t => let p := t.pwr
      p.samples = xs ∧ p.vin = xs.sum / xs.length ∧ (p.timer = true ↔ xs.sum < 3800 * xs.length) ∧ (p.clamp = true ↔ 6000 * xs.length < xs.sum) ∧
      p.nSupply = supplyStep s.pwr.nSupply xs.sum xs.length ∧ p.n = max 16 (min (min p.nmax p.nSupply) (min p.nPower p.nThermal)) ∧
      p.nmax = s.pwr.nmax ∧ p.nPower = s.pwr.nPower ∧ p.nThermal = s.pwr.nThermal ∧ t.wards = s.wards ∧ t.tiles = s.tiles ∧ t.life = s.life)) ∧
  (∀ cur v n : Nat, 0 < n →
    (4250 ≤ v → supplyStep cur (v * n) n = 64) ∧
    (v < 3800 → supplyStep cur (v * n) n = 24) ∧
    (∀ k, k < 4 → 4100 - 100 * k ≤ v → v < 4200 - 100 * k → (56 - 8 * k < cur → supplyStep cur (v * n) n = 56 - 8 * k) ∧
      (cur = 56 - 8 * k → supplyStep cur (v * n) n = 56 - 8 * k)) ∧
    (∀ k, k < 4 → 4150 - 100 * k ≤ v → v < 4200 - 100 * k → cur ≤ 56 - 8 * k → supplyStep cur (v * n) n = 56 - 8 * k)) ∧
  (∀ (s : State) (a b : Nat) (ds : Tab Nat) (h ovr low : Bool), ovr = (decide (s.pwr.peakW < a) || s.dies.any fun d =>
        s.pwr.dieW.get d != 0 && decide (s.pwr.dieW.get d < ds.get d)) →
    low = (decide (100 * a < 97 * s.pwr.peakW) && decide (100 * b < 97 * s.pwr.designW) && s.dies.all fun d =>
        s.pwr.dieW.get d == 0 || decide (100 * ds.get d < 97 * s.pwr.dieW.get d)) →
    (s.live = false → exec (.powerLimitTick a b ds h) s = .next s) ∧
    (s.live = true → 24 ≤ s.pwr.nPower → s.pwr.nPower < 64 → Answers (.powerLimitTick a b ds h) s fun t => t.pwr.pin = b ∧
      (t.pwr.nPower : Int) = s.pwr.nPower - (if ovr then 4 else 0) + (if h then (if s.pwr.designW < b then -1 else if low then 1 else 0) else 0) ∧
      t.pwr.n = max 16 (min (min s.pwr.nmax s.pwr.nSupply) (min t.pwr.nPower s.pwr.nThermal)) ∧ t.wards = s.wards ∧ t.tiles = s.tiles)) ∧
  (∀ (s : State) (ds : Tab Int) (inl out : Int) (ten hot cool : Bool),
    hot = (s.dies.any fun d => decide (8 * (s.pwr.tj : Int) < Tab.getD (-32768) ds d)) →
    cool = (s.dies.all fun d => decide (Tab.getD (-32768) ds d < 8 * (s.pwr.tj : Int) - 24)) →
    (s.measures = false → exec (.thermalTick ds inl out ten) s = .next s) ∧
    (s.measures = true → Answers (.thermalTick ds inl out ten) s fun t => (∀ d ∈ s.dies, Tab.getD (-32768) t.pwr.temps d = Tab.getD (-32768) ds d) ∧
      Tab.getD (-32768) t.pwr.temps 8 = inl ∧ Tab.getD (-32768) t.pwr.temps 9 = out ∧ t.wards = s.wards ∧ t.tiles = s.tiles ∧
      (s.live = true → 18 ≤ s.pwr.nThermal → s.pwr.nThermal < 64 → out ≤ 8 * (s.pwr.outT : Int) →
        (hot = true → t.pwr.nThermal = s.pwr.nThermal - 2) ∧
        (hot = false → ten = true → cool = true → out < 8 * (s.pwr.outT : Int) → t.pwr.nThermal = s.pwr.nThermal + 1) ∧
        (hot = false → ten = false ∨ cool = false → t.pwr.nThermal = s.pwr.nThermal)) ∧
      (s.live = true → 8 * (s.pwr.outT : Int) < out → t.pwr.nThermal ≤ 48))) ∧
  (∀ (s : State) (d : Nat),
    let stopped (t : State) := t.life = .stopping ∧ t.boot.stage = 0xF ∧ t.pwr.stopping = true ∧ (∀ w < 8, (s.ward w).hasBeat = true → (t.ward w).job = none) ∧
      (let r := t.faults.get ((t.saf.seqNext - 2) % faultRing)
       r.cls = 0x10 ∧ r.scope = 7 ∧ r.status = St.supply.code)
    (s.live = false ∨ s.pwr.timer = false → exec .stopTimerExpire s = .next s) ∧ (s.live = true → s.pwr.timer = true → Answers .stopTimerExpire s stopped) ∧
    (s.live = false ∨ s.pwr.clamp = false → exec .overvoltageTimeout s = .next s) ∧
    (s.live = true → s.pwr.clamp = true → Answers .overvoltageTimeout s stopped) ∧
    (s.live = false ∨ d ∉ s.dies ∨ Tab.getD (-32768) s.pwr.temps d < 880 → exec (.dieOvertemp d) s = .next s) ∧
    (s.live = true → d ∈ s.dies → 880 ≤ Tab.getD (-32768) s.pwr.temps d → Answers (.dieOvertemp d) s stopped) ∧
    (s.live = false ∨ Tab.getD (-32768) s.pwr.temps 9 < 560 → exec .outletOvertemp s = .next s) ∧
    (s.live = true → 560 ≤ Tab.getD (-32768) s.pwr.temps 9 → Answers .outletOvertemp s stopped) ∧
    exec .railSwitchOff s = .next (s.afterReset .off)) ∧
  ∀ (s : State) (r : Req) (a : RegW), s.live = true →
    (s.mayAccess r (blockOf a.off) = false → exec (.registerWrite r a) s = .next s.refuse) ∧
    (s.mayAccess r (blockOf a.off) = false ∨ inStore a.off = true ∧ r.func ≠ 0 → exec (.registerReadRefused r a.off) s = .next s.refuse ∧
      ∀ n, s.regRead r a.off n = 0) ∧
    (r.func = 0 → ∀ u z : W64, (u, z) = (match s.variant with
        | .full => (0xFFFF01, 0x000209B030204008) | .half => (0x333302, 0x000204D818104004) | .serve => (0xFF03, 0x000209B030204008)) →
      s.regRead r 0 4 = u ∧ s.regRead r 0 8 = u ∧ s.regRead r 4 4 = 0 ∧ s.regRead r 8 8 = z ∧ s.regRead r 8 4 = z &&& 0xFFFFFFFF ∧
      s.regRead r 12 4 = z >>> 32 ∧ ∀ w < 8, s.regRead r (0x1000010 + 0x100000 * w) 4 = u ∧ s.regRead r (0x1000018 + 0x100000 * w) 8 = z) ∧
    (r.func = 0 → ∀ d < 8, (s.regRead r 0x10 4).toNat / 16 ^ d % 16 = (match s.wardOfDie d with | some w => 8 + w | none => 0)) ∧
    (r.func = 0 → s.linkAddr < 68 → s.image.domainSize ≤ 64 → s.regRead r 0x18 4 =
      BitVec.ofNat 64 (256 * s.image.domainSize + if s.standby then 128 else s.linkAddr % 64)) ∧
    (s.mayAccess r (blockOf a.off) = true → (inStore a.off = false → exec (.registerReadRefused r a.off) s = .next s) ∧
      (a.legal = false ∨ blockOf a.off = .none → exec (.registerWrite r a) s = .next s) ∧
      (∀ w, a.legal = true → blockOf a.off = .ward w → Answers (.registerWrite r a) s fun t =>
        OnlyWard s t w ((s.ward w).write { a with off := (a.off - 0x1000000) % 0x100000 })) ∧
      (∀ w v, a = { off := 0x1000000 + 0x100000 * w + oBeaLen, size := 4, val := v } → w < 8 → v.toNat < 2 ^ 13 →
        ((s.ward w).running = true ∨ v.toNat < 16 ∨ 4096 < v.toNat → Answers (.registerWrite r a) s fun t => OnlyWard s t w (s.ward w)) ∧
        ((s.ward w).running = false → 16 ≤ v.toNat → v.toNat ≤ 4096 → Answers (.registerWrite r a) s fun t => OnlyWard s t w
          (if (s.ward w).hasBeat then { s.ward w with newLen := some (BitVec.ofNat 13 v.toNat) }
           else { ((s.ward w).setReg oBeaLen v) with newLen := none }))) ∧
      (∀ n v, a = { off := oFunc + 0x100 * n, size := 8, val := v } → n < 16 → s.hasBlock r = true → Answers (.registerWrite r a) s fun t =>
        ∃ y : Ring, OnlyRing s t (ringKey r.port r.func n) y ∧ y = { s.ring (ringKey r.port r.func n) with sqBase := y.sqBase } ∧
          (v.toNat < 2 ^ 48 → v.toNat % 2 ^ 12 = 0 → (s.ring (ringKey r.port r.func n)).sqBase.toNat < 2 ^ 48 →
            (s.ring (ringKey r.port r.func n)).sqBase.toNat % 2 ^ 12 = 0 → y.sqBase = v)) ∧
      (∀ v, a = { off := 0x40008, size := 4, val := v } → s.variant = .full → v.toNat < 2 ^ 32 → Answers (.registerWrite r a) s fun t =>
        t = { s with pwr := { s.pwr with designW := max 500 (min 4200 (v.toNat % 2 ^ 16)), peakW := max 500 (min 4800 (v.toNat / 2 ^ 16)) } }))
end

