-- ==== Sys2Proof/Laws/Host.lean ====
section
/-! SUPPORT. What a command of a ring does where this module takes it, said once. -/

namespace Sys2Proof.Machine
open Sys2Proof

/-- A command that this module takes is numbered and journalled, and then acts with the context it came with; an error that its
ward's tables met on the way resets the ward. -/
theorem State.command_takes (s : State) (x : Src) (op : HostOp) (f : OpCtx → State → State) (h : s.takesHere x op = true) :
    s.command x op f = (f (s.ctxOf x op) (s.taken x op)).settle (s.cmdWard x op) := by
  simp only [State.takesHere, Bool.and_eq_true, Bool.not_eq_true'] at h
  obtain ⟨⟨⟨⟨⟨h1, h2⟩, h3⟩, h4⟩, h5⟩, -⟩ := h
  have h6 : ¬(x.relay = true ∧ ¬x.dest = s.linkAddr) := by
    intro ⟨a, b⟩; simp [State.goesAway, a, b] at h4
  have h7 : ∀ b n, (s.journalCmd x op.opc b (s.cmdWard x op) n).holds (s.cmdWard x op) op = false := fun _ _ => h5
  simp only [State.command, h1, h2, h3, h4, State.taken, State.ctxOf]
  simp only [State.cmdWard] at h7 ⊢
  simp [h6, h7]

/-- A command whose ring cannot be fetched from changes nothing. -/
theorem State.command_idle (s : State) (x : Src) (op : HostOp) (f : OpCtx → State → State) (h : s.canFetch (srcKey x) = false) :
    s.command x op f = s := by
  simp [State.command, h]

end Sys2Proof.Machine
end

