-- ==== Sys2Proof/Laws/Tab.lean ====
section
/-! SUPPORT. Sparse tables: what a read after a write gives, and the canonical form that every operation keeps. -/

namespace Sys2Proof

section
variable {β : Type}

theorem Tab.getD_dropWhile (d : β) (t : Tab β) (i j : Nat) (h : i < j) :
    Tab.getD d (t.dropWhile fun e => decide (e.1 ≤ i)) j = Tab.getD d t j := by
  induction t with
  | nil => rfl
  | cons e r ih =>
    obtain ⟨k, v⟩ := e
    simp only [List.dropWhile_cons]
    split
    · rename_i hk
      have hk : k ≤ i := by simpa using hk
      rw [ih, Tab.getD, if_neg (by omega), if_neg (by omega)]
    · rfl

theorem Tab.getD_dropWhile_same (d : β) (t : Tab β) (i : Nat) :
    Tab.getD d (t.dropWhile fun e => decide (e.1 ≤ i)) i = d := by
  induction t with
  | nil => rfl
  | cons e r ih =>
    obtain ⟨k, v⟩ := e
    simp only [List.dropWhile_cons]
    split
    · exact ih
    · rename_i hk
      have hk : ¬ k ≤ i := by simpa using hk
      rw [Tab.getD, if_neg (by omega), if_pos (by omega)]

theorem Tab.getD_dropWhile_below (d : β) (t : Tab β) (i j : Nat) (h : j ≤ i) :
    Tab.getD d (t.dropWhile fun e => decide (e.1 ≤ i)) j = d := by
  induction t with
  | nil => rfl
  | cons e r ih =>
    obtain ⟨k, v⟩ := e
    simp only [List.dropWhile_cons]
    split
    · exact ih
    · rename_i hk
      have hk : ¬ k ≤ i := by simpa using hk
      rw [Tab.getD, if_neg (by omega), if_pos (by omega)]

variable [DecidableEq β]

theorem Tab.getD_setD_same (d : β) (t : Tab β) (i : Nat) (v : β) : Tab.getD d (Tab.setD d t i v) i = v := by
  induction t with
  | nil => unfold Tab.setD; split <;> simp_all [Tab.getD]
  | cons e r ih =>
    obtain ⟨k, w⟩ := e
    unfold Tab.setD
    split
    · rename_i h
      split
      · subst v; rw [Tab.getD, if_neg (by omega), if_pos h]
      · simp [Tab.getD]
    · split
      · split
        · subst v; exact Tab.getD_dropWhile_same d r i
        · simp [Tab.getD]
      · rw [Tab.getD, if_neg (by omega), if_neg (by omega)]; exact ih

theorem Tab.getD_setD_other (d : β) (t : Tab β) (i j : Nat) (v : β) (h : j ≠ i) :
    Tab.getD d (Tab.setD d t i v) j = Tab.getD d t j := by
  induction t with
  | nil =>
    unfold Tab.setD
    split
    · rfl
    · simp [Tab.getD, Ne.symm h]
  | cons e r ih =>
    obtain ⟨k, w⟩ := e
    unfold Tab.setD
    split
    · rename_i hk
      split
      · rfl
      · conv_lhs => rw [Tab.getD, if_neg (Ne.symm h)]
        split
        · rw [Tab.getD, if_neg (by omega), if_pos (by omega)]
        · rfl
    · split
      · rename_i hk; subst hk
        conv_rhs => rw [Tab.getD, if_neg (Ne.symm h)]
        split
        · split
          · exact Tab.getD_dropWhile_below d r i j (by omega)
          · exact Tab.getD_dropWhile d r i j (by omega)
        · rw [Tab.getD, if_neg (Ne.symm h)]
      · conv_lhs => rw [Tab.getD]
        conv_rhs => rw [Tab.getD]
        rw [ih]

theorem Tab.wfFrom_mono (d : β) (t : Tab β) (lo hi : Option Nat) (h : Tab.wfFrom d hi t = true)
    (hl : ∀ a, lo = some a → ∃ b, hi = some b ∧ a ≤ b) : Tab.wfFrom d lo t = true := by
  cases t with
  | nil => rfl
  | cons e r =>
    obtain ⟨k, v⟩ := e
    simp only [Tab.wfFrom, Bool.and_eq_true] at h ⊢
    refine ⟨⟨?_, h.1.2⟩, h.2⟩
    cases lo with
    | none => rfl
    | some a =>
      obtain ⟨b, hb, hab⟩ := hl a rfl
      subst hb
      have := h.1.1
      simp only [decide_eq_true_eq] at this ⊢
      omega

theorem Tab.wfFrom_dropWhile (d : β) (t : Tab β) (i : Nat) (lo : Option Nat) (h : Tab.wfFrom d lo t = true)
    (hi : ∀ a, lo = some a → a ≤ i) : Tab.wfFrom d (some i) (t.dropWhile fun e => decide (e.1 ≤ i)) = true := by
  induction t generalizing lo with
  | nil => rfl
  | cons e r ih =>
    obtain ⟨k, v⟩ := e
    simp only [Tab.wfFrom, Bool.and_eq_true] at h
    simp only [List.dropWhile_cons]
    split
    · rename_i hk
      exact ih (some k) h.2 (by intro a ha; cases ha; simpa using hk)
    · rename_i hk
      simp only [Tab.wfFrom, Bool.and_eq_true]
      exact ⟨⟨by simp at hk ⊢; omega, h.1.2⟩, h.2⟩

theorem Tab.wfFrom_cons (d : β) (lo : Option Nat) (k : Nat) (v : β) (r : Tab β) :
    Tab.wfFrom d lo ((k, v) :: r) = true ↔
      (∀ a, lo = some a → a < k) ∧ v ≠ d ∧ Tab.wfFrom d (some k) r = true := by
  cases lo <;> simp [Tab.wfFrom, and_assoc]

theorem Tab.wfFrom_setD (d : β) (t : Tab β) (i : Nat) (v : β) (lo : Option Nat) (h : Tab.wfFrom d lo t = true)
    (hi : ∀ a, lo = some a → a < i) : Tab.wfFrom d lo (Tab.setD d t i v) = true := by
  induction t generalizing lo with
  | nil =>
    unfold Tab.setD
    split
    · rfl
    · rw [Tab.wfFrom_cons]; exact ⟨hi, ‹_›, rfl⟩
  | cons e r ih =>
    obtain ⟨k, w⟩ := e
    have h0 := h
    rw [Tab.wfFrom_cons] at h
    unfold Tab.setD
    split
    · split
      · exact h0
      · rw [Tab.wfFrom_cons, Tab.wfFrom_cons]
        exact ⟨hi, ‹_›, by rintro a ⟨⟩; assumption, h.2⟩
    · split
      · rename_i hk; subst hk
        split
        · refine Tab.wfFrom_mono d _ lo (some i) (Tab.wfFrom_dropWhile d r i (some i) h.2.2 (by simp)) ?_
          intro a ha; exact ⟨i, rfl, le_of_lt (hi a ha)⟩
        · rw [Tab.wfFrom_cons]; exact ⟨hi, ‹_›, h.2.2⟩
      · rw [Tab.wfFrom_cons]
        exact ⟨h.1, h.2.1, ih (some k) h.2.2 (by rintro a ⟨⟩; omega)⟩

/-- A write keeps the canonical form. -/
theorem Tab.wf_setD (d : β) (t : Tab β) (i : Nat) (v : β) (h : Tab.wf d t = true) :
    Tab.wf d (Tab.setD d t i v) = true :=
  Tab.wfFrom_setD d t i v none h (by simp)

theorem Tab.wfFrom_filter (d : β) (t : Tab β) (p : Nat × β → Bool) (lo : Option Nat)
    (h : Tab.wfFrom d lo t = true) : Tab.wfFrom d lo (t.filter p) = true := by
  induction t generalizing lo with
  | nil => exact h
  | cons e r ih =>
    obtain ⟨k, v⟩ := e
    simp only [Tab.wfFrom, Bool.and_eq_true] at h
    rw [List.filter_cons]
    split
    · simp only [Tab.wfFrom, Bool.and_eq_true]
      exact ⟨h.1, ih (some k) h.2⟩
    · refine ih lo (Tab.wfFrom_mono d r lo (some k) h.2 ?_)
      intro a ha
      subst ha
      exact ⟨k, rfl, le_of_lt (by simpa using h.1.1)⟩

/-- Leaving entries out keeps the canonical form. -/
theorem Tab.wf_filter (d : β) (t : Tab β) (p : Nat × β → Bool) (h : Tab.wf d t = true) :
    Tab.wf d (t.filter p) = true := Tab.wfFrom_filter d t p none h

/-- Nothing at or below the bound is listed. -/
theorem Tab.getD_low (d : β) (t : Tab β) (lo c : Nat) (hc : c ≤ lo) (h : Tab.wfFrom d (some lo) t = true) :
    Tab.getD d t c = d := by
  cases t with
  | nil => rfl
  | cons e r =>
    obtain ⟨k, v⟩ := e
    rw [Tab.wfFrom_cons] at h
    have := h.1 lo rfl
    rw [Tab.getD, if_neg (by omega), if_pos (by omega)]

theorem Tab.getD_filterFrom (d : β) (t : Tab β) (p : Nat → Bool) (c : Nat) (lo : Option Nat)
    (h : Tab.wfFrom d lo t = true) :
    Tab.getD d (t.filter fun e => p e.1) c = if p c then Tab.getD d t c else d := by
  induction t generalizing lo with
  | nil => simp [Tab.getD]
  | cons e r ih =>
    obtain ⟨k, v⟩ := e
    rw [Tab.wfFrom_cons] at h
    have hr := ih (some k) h.2.2
    rw [List.filter_cons]
    by_cases hk : k = c
    · subst hk
      by_cases hp : p k = true
      · simp [hp, Tab.getD]
      · simp only [hp, if_false, Bool.false_eq_true] at hr ⊢; exact hr
    · by_cases hc : c < k
      · have z := Tab.getD_low d r k c (by omega) h.2.2
        by_cases hp : p k = true
        · simp [hp, Tab.getD, hk, hc]
        · simp only [hp, if_false, Bool.false_eq_true]
          rw [hr, z, Tab.getD, if_neg hk, if_pos hc]
      · by_cases hp : p k = true
        · simp only [hp, if_true]
          rw [Tab.getD, if_neg hk, if_neg hc, hr, Tab.getD, if_neg hk, if_neg hc]
        · simp only [hp, if_false, Bool.false_eq_true]
          rw [hr, Tab.getD, if_neg hk, if_neg hc]

theorem Tab.getD_filter (d : β) (t : Tab β) (p : Nat → Bool) (c : Nat) (h : Tab.wf d t = true) :
    Tab.getD d (t.filter fun e => p e.1) c = if p c then Tab.getD d t c else d :=
  Tab.getD_filterFrom d t p c none h

end

section
variable {β : Type} [Inhabited β] [DecidableEq β]

@[simp] theorem Tab.get_set_same (t : Tab β) (i : Nat) (v : β) : (Tab.set t i v).get i = v :=
  Tab.getD_setD_same default t i v

@[simp] theorem Tab.get_set_other (t : Tab β) (i j : Nat) (v : β) (h : j ≠ i) : (Tab.set t i v).get j = t.get j :=
  Tab.getD_setD_other default t i j v h

theorem Tab.get_set (t : Tab β) (i j : Nat) (v : β) : (Tab.set t i v).get j = if j = i then v else t.get j := by
  split
  · subst j; exact Tab.get_set_same t i v
  · exact Tab.get_set_other t i j v ‹_›

@[simp] theorem Tab.get_modify_same (t : Tab β) (i : Nat) (f : β → β) : (Tab.modify t i f).get i = f (t.get i) :=
  Tab.get_set_same t i _

@[simp] theorem Tab.get_modify_other (t : Tab β) (i j : Nat) (f : β → β) (h : j ≠ i) :
    (Tab.modify t i f).get j = t.get j := Tab.get_set_other t i j _ h

theorem Tab.get_modify (t : Tab β) (i j : Nat) (f : β → β) :
    (Tab.modify t i f).get j = if j = i then f (t.get i) else t.get j := Tab.get_set t i j _

omit [DecidableEq β] in
@[simp] theorem Tab.get_nil (i : Nat) : Tab.get ([] : Tab β) i = default := rfl

theorem Tab.wf_set (t : Tab β) (i : Nat) (v : β) (h : Tab.wf default t = true) : Tab.wf default (Tab.set t i v) = true :=
  Tab.wf_setD default t i v h

theorem Tab.wf_modify (t : Tab β) (i : Nat) (f : β → β) (h : Tab.wf default t = true) :
    Tab.wf default (Tab.modify t i f) = true := Tab.wf_set t i _ h

end

end Sys2Proof
end

