-- ==== Sys2Proof/Laws/State.lean ====
section
/-! SUPPORT. One lemma per field of the state per update: what the field is after it. -/

namespace Sys2Proof.Machine
open Sys2Proof

/-! ### modTile -/

section
variable (s : State) (i : Nat) (f : Tile → Tile)
@[simp] theorem State.modTile_pending : (s.modTile i f).pending = s.pending := rfl
@[simp] theorem State.modTile_fresh : (s.modTile i f).fresh = s.fresh := rfl
@[simp] theorem State.modTile_variant : (s.modTile i f).variant = s.variant := rfl
@[simp] theorem State.modTile_life : (s.modTile i f).life = s.life := rfl
@[simp] theorem State.modTile_image : (s.modTile i f).image = s.image := rfl
@[simp] theorem State.modTile_linkAddr : (s.modTile i f).linkAddr = s.linkAddr := rfl
@[simp] theorem State.modTile_standby : (s.modTile i f).standby = s.standby := rfl
@[simp] theorem State.modTile_tick : (s.modTile i f).tick = s.tick := rfl
@[simp] theorem State.modTile_mem : (s.modTile i f).mem = s.mem := rfl
@[simp] theorem State.modTile_secTags : (s.modTile i f).secTags = s.secTags := rfl
@[simp] theorem State.modTile_keyNext : (s.modTile i f).keyNext = s.keyNext := rfl
@[simp] theorem State.modTile_tiles : (s.modTile i f).tiles = Tab.modify s.tiles i f := rfl
@[simp] theorem State.modTile_quads : (s.modTile i f).quads = s.quads := rfl
@[simp] theorem State.modTile_chans : (s.modTile i f).chans = s.chans := rfl
@[simp] theorem State.modTile_devs : (s.modTile i f).devs = s.devs := rfl
@[simp] theorem State.modTile_upds : (s.modTile i f).upds = s.upds := rfl
@[simp] theorem State.modTile_tblRegs : (s.modTile i f).tblRegs = s.tblRegs := rfl
@[simp] theorem State.modTile_links : (s.modTile i f).links = s.links := rfl
@[simp] theorem State.modTile_arbs : (s.modTile i f).arbs = s.arbs := rfl
@[simp] theorem State.modTile_hbms : (s.modTile i f).hbms = s.hbms := rfl
@[simp] theorem State.modTile_sites : (s.modTile i f).sites = s.sites := rfl
@[simp] theorem State.modTile_wards : (s.modTile i f).wards = s.wards := rfl
@[simp] theorem State.modTile_dieFenced : (s.modTile i f).dieFenced = s.dieFenced := rfl
@[simp] theorem State.modTile_modFenced : (s.modTile i f).modFenced = s.modFenced := rfl
@[simp] theorem State.modTile_beats : (s.modTile i f).beats = s.beats := rfl
@[simp] theorem State.modTile_funcs : (s.modTile i f).funcs = s.funcs := rfl
@[simp] theorem State.modTile_ports : (s.modTile i f).ports = s.ports := rfl
@[simp] theorem State.modTile_rings : (s.modTile i f).rings = s.rings := rfl
@[simp] theorem State.modTile_opens : (s.modTile i f).opens = s.opens := rfl
@[simp] theorem State.modTile_journal : (s.modTile i f).journal = s.journal := rfl
@[simp] theorem State.modTile_jrnNext : (s.modTile i f).jrnNext = s.jrnNext := rfl
@[simp] theorem State.modTile_jrnBoot : (s.modTile i f).jrnBoot = s.jrnBoot := rfl
@[simp] theorem State.modTile_relays : (s.modTile i f).relays = s.relays := rfl
@[simp] theorem State.modTile_routes : (s.modTile i f).routes = s.routes := rfl
@[simp] theorem State.modTile_tg : (s.modTile i f).tg = s.tg := rfl
@[simp] theorem State.modTile_tko : (s.modTile i f).tko = s.tko := rfl
@[simp] theorem State.modTile_tkoQueue : (s.modTile i f).tkoQueue = s.tkoQueue := rfl
@[simp] theorem State.modTile_heldXfers : (s.modTile i f).heldXfers = s.heldXfers := rfl
@[simp] theorem State.modTile_rot : (s.modTile i f).rot = s.rot := rfl
@[simp] theorem State.modTile_xferPaths : (s.modTile i f).xferPaths = s.xferPaths := rfl
@[simp] theorem State.modTile_xidNext : (s.modTile i f).xidNext = s.xidNext := rfl
@[simp] theorem State.modTile_uncounted : (s.modTile i f).uncounted = s.uncounted := rfl
@[simp] theorem State.modTile_peerReads : (s.modTile i f).peerReads = s.peerReads := rfl
@[simp] theorem State.modTile_trees : (s.modTile i f).trees = s.trees := rfl
@[simp] theorem State.modTile_mcWait : (s.modTile i f).mcWait = s.mcWait := rfl
@[simp] theorem State.modTile_tkoLog : (s.modTile i f).tkoLog = s.tkoLog := rfl
@[simp] theorem State.modTile_rollSends : (s.modTile i f).rollSends = s.rollSends := rfl
@[simp] theorem State.modTile_rollAt : (s.modTile i f).rollAt = s.rollAt := rfl
@[simp] theorem State.modTile_rollRounds : (s.modTile i f).rollRounds = s.rollRounds := rfl
@[simp] theorem State.modTile_rollHeld : (s.modTile i f).rollHeld = s.rollHeld := rfl
@[simp] theorem State.modTile_rollSelfDiv : (s.modTile i f).rollSelfDiv = s.rollSelfDiv := rfl
@[simp] theorem State.modTile_rollSelfBad : (s.modTile i f).rollSelfBad = s.rollSelfBad := rfl
@[simp] theorem State.modTile_rollDiv : (s.modTile i f).rollDiv = s.rollDiv := rfl
@[simp] theorem State.modTile_rollSilent : (s.modTile i f).rollSilent = s.rollSilent := rfl
@[simp] theorem State.modTile_rollRecs : (s.modTile i f).rollRecs = s.rollRecs := rfl
@[simp] theorem State.modTile_ctlTmo : (s.modTile i f).ctlTmo = s.ctlTmo := rfl
@[simp] theorem State.modTile_slots : (s.modTile i f).slots = s.slots := rfl
@[simp] theorem State.modTile_retires : (s.modTile i f).retires = s.retires := rfl
@[simp] theorem State.modTile_atts : (s.modTile i f).atts = s.atts := rfl
@[simp] theorem State.modTile_faults : (s.modTile i f).faults = s.faults := rfl
@[simp] theorem State.modTile_saf : (s.modTile i f).saf = s.saf := rfl
@[simp] theorem State.modTile_pwr : (s.modTile i f).pwr = s.pwr := rfl
@[simp] theorem State.modTile_boot : (s.modTile i f).boot = s.boot := rfl
@[simp] theorem State.modTile_flash : (s.modTile i f).flash = s.flash := rfl
@[simp] theorem State.modTile_sec : (s.modTile i f).sec = s.sec := rfl
@[simp] theorem State.modTile_sent : (s.modTile i f).sent = s.sent := rfl
end

/-! ### modQuad -/

section
variable (s : State) (i : Nat) (f : Quad → Quad)
@[simp] theorem State.modQuad_pending : (s.modQuad i f).pending = s.pending := rfl
@[simp] theorem State.modQuad_fresh : (s.modQuad i f).fresh = s.fresh := rfl
@[simp] theorem State.modQuad_variant : (s.modQuad i f).variant = s.variant := rfl
@[simp] theorem State.modQuad_life : (s.modQuad i f).life = s.life := rfl
@[simp] theorem State.modQuad_image : (s.modQuad i f).image = s.image := rfl
@[simp] theorem State.modQuad_linkAddr : (s.modQuad i f).linkAddr = s.linkAddr := rfl
@[simp] theorem State.modQuad_standby : (s.modQuad i f).standby = s.standby := rfl
@[simp] theorem State.modQuad_tick : (s.modQuad i f).tick = s.tick := rfl
@[simp] theorem State.modQuad_mem : (s.modQuad i f).mem = s.mem := rfl
@[simp] theorem State.modQuad_secTags : (s.modQuad i f).secTags = s.secTags := rfl
@[simp] theorem State.modQuad_keyNext : (s.modQuad i f).keyNext = s.keyNext := rfl
@[simp] theorem State.modQuad_tiles : (s.modQuad i f).tiles = s.tiles := rfl
@[simp] theorem State.modQuad_quads : (s.modQuad i f).quads = Tab.modify s.quads i f := rfl
@[simp] theorem State.modQuad_chans : (s.modQuad i f).chans = s.chans := rfl
@[simp] theorem State.modQuad_devs : (s.modQuad i f).devs = s.devs := rfl
@[simp] theorem State.modQuad_upds : (s.modQuad i f).upds = s.upds := rfl
@[simp] theorem State.modQuad_tblRegs : (s.modQuad i f).tblRegs = s.tblRegs := rfl
@[simp] theorem State.modQuad_links : (s.modQuad i f).links = s.links := rfl
@[simp] theorem State.modQuad_arbs : (s.modQuad i f).arbs = s.arbs := rfl
@[simp] theorem State.modQuad_hbms : (s.modQuad i f).hbms = s.hbms := rfl
@[simp] theorem State.modQuad_sites : (s.modQuad i f).sites = s.sites := rfl
@[simp] theorem State.modQuad_wards : (s.modQuad i f).wards = s.wards := rfl
@[simp] theorem State.modQuad_dieFenced : (s.modQuad i f).dieFenced = s.dieFenced := rfl
@[simp] theorem State.modQuad_modFenced : (s.modQuad i f).modFenced = s.modFenced := rfl
@[simp] theorem State.modQuad_beats : (s.modQuad i f).beats = s.beats := rfl
@[simp] theorem State.modQuad_funcs : (s.modQuad i f).funcs = s.funcs := rfl
@[simp] theorem State.modQuad_ports : (s.modQuad i f).ports = s.ports := rfl
@[simp] theorem State.modQuad_rings : (s.modQuad i f).rings = s.rings := rfl
@[simp] theorem State.modQuad_opens : (s.modQuad i f).opens = s.opens := rfl
@[simp] theorem State.modQuad_journal : (s.modQuad i f).journal = s.journal := rfl
@[simp] theorem State.modQuad_jrnNext : (s.modQuad i f).jrnNext = s.jrnNext := rfl
@[simp] theorem State.modQuad_jrnBoot : (s.modQuad i f).jrnBoot = s.jrnBoot := rfl
@[simp] theorem State.modQuad_relays : (s.modQuad i f).relays = s.relays := rfl
@[simp] theorem State.modQuad_routes : (s.modQuad i f).routes = s.routes := rfl
@[simp] theorem State.modQuad_tg : (s.modQuad i f).tg = s.tg := rfl
@[simp] theorem State.modQuad_tko : (s.modQuad i f).tko = s.tko := rfl
@[simp] theorem State.modQuad_tkoQueue : (s.modQuad i f).tkoQueue = s.tkoQueue := rfl
@[simp] theorem State.modQuad_heldXfers : (s.modQuad i f).heldXfers = s.heldXfers := rfl
@[simp] theorem State.modQuad_rot : (s.modQuad i f).rot = s.rot := rfl
@[simp] theorem State.modQuad_xferPaths : (s.modQuad i f).xferPaths = s.xferPaths := rfl
@[simp] theorem State.modQuad_xidNext : (s.modQuad i f).xidNext = s.xidNext := rfl
@[simp] theorem State.modQuad_uncounted : (s.modQuad i f).uncounted = s.uncounted := rfl
@[simp] theorem State.modQuad_peerReads : (s.modQuad i f).peerReads = s.peerReads := rfl
@[simp] theorem State.modQuad_trees : (s.modQuad i f).trees = s.trees := rfl
@[simp] theorem State.modQuad_mcWait : (s.modQuad i f).mcWait = s.mcWait := rfl
@[simp] theorem State.modQuad_tkoLog : (s.modQuad i f).tkoLog = s.tkoLog := rfl
@[simp] theorem State.modQuad_rollSends : (s.modQuad i f).rollSends = s.rollSends := rfl
@[simp] theorem State.modQuad_rollAt : (s.modQuad i f).rollAt = s.rollAt := rfl
@[simp] theorem State.modQuad_rollRounds : (s.modQuad i f).rollRounds = s.rollRounds := rfl
@[simp] theorem State.modQuad_rollHeld : (s.modQuad i f).rollHeld = s.rollHeld := rfl
@[simp] theorem State.modQuad_rollSelfDiv : (s.modQuad i f).rollSelfDiv = s.rollSelfDiv := rfl
@[simp] theorem State.modQuad_rollSelfBad : (s.modQuad i f).rollSelfBad = s.rollSelfBad := rfl
@[simp] theorem State.modQuad_rollDiv : (s.modQuad i f).rollDiv = s.rollDiv := rfl
@[simp] theorem State.modQuad_rollSilent : (s.modQuad i f).rollSilent = s.rollSilent := rfl
@[simp] theorem State.modQuad_rollRecs : (s.modQuad i f).rollRecs = s.rollRecs := rfl
@[simp] theorem State.modQuad_ctlTmo : (s.modQuad i f).ctlTmo = s.ctlTmo := rfl
@[simp] theorem State.modQuad_slots : (s.modQuad i f).slots = s.slots := rfl
@[simp] theorem State.modQuad_retires : (s.modQuad i f).retires = s.retires := rfl
@[simp] theorem State.modQuad_atts : (s.modQuad i f).atts = s.atts := rfl
@[simp] theorem State.modQuad_faults : (s.modQuad i f).faults = s.faults := rfl
@[simp] theorem State.modQuad_saf : (s.modQuad i f).saf = s.saf := rfl
@[simp] theorem State.modQuad_pwr : (s.modQuad i f).pwr = s.pwr := rfl
@[simp] theorem State.modQuad_boot : (s.modQuad i f).boot = s.boot := rfl
@[simp] theorem State.modQuad_flash : (s.modQuad i f).flash = s.flash := rfl
@[simp] theorem State.modQuad_sec : (s.modQuad i f).sec = s.sec := rfl
@[simp] theorem State.modQuad_sent : (s.modQuad i f).sent = s.sent := rfl
end

/-! ### modChan -/

section
variable (s : State) (i : Nat) (f : Chan → Chan)
@[simp] theorem State.modChan_pending : (s.modChan i f).pending = s.pending := rfl
@[simp] theorem State.modChan_fresh : (s.modChan i f).fresh = s.fresh := rfl
@[simp] theorem State.modChan_variant : (s.modChan i f).variant = s.variant := rfl
@[simp] theorem State.modChan_life : (s.modChan i f).life = s.life := rfl
@[simp] theorem State.modChan_image : (s.modChan i f).image = s.image := rfl
@[simp] theorem State.modChan_linkAddr : (s.modChan i f).linkAddr = s.linkAddr := rfl
@[simp] theorem State.modChan_standby : (s.modChan i f).standby = s.standby := rfl
@[simp] theorem State.modChan_tick : (s.modChan i f).tick = s.tick := rfl
@[simp] theorem State.modChan_mem : (s.modChan i f).mem = s.mem := rfl
@[simp] theorem State.modChan_secTags : (s.modChan i f).secTags = s.secTags := rfl
@[simp] theorem State.modChan_keyNext : (s.modChan i f).keyNext = s.keyNext := rfl
@[simp] theorem State.modChan_tiles : (s.modChan i f).tiles = s.tiles := rfl
@[simp] theorem State.modChan_quads : (s.modChan i f).quads = s.quads := rfl
@[simp] theorem State.modChan_chans : (s.modChan i f).chans = Tab.modify s.chans i f := rfl
@[simp] theorem State.modChan_devs : (s.modChan i f).devs = s.devs := rfl
@[simp] theorem State.modChan_upds : (s.modChan i f).upds = s.upds := rfl
@[simp] theorem State.modChan_tblRegs : (s.modChan i f).tblRegs = s.tblRegs := rfl
@[simp] theorem State.modChan_links : (s.modChan i f).links = s.links := rfl
@[simp] theorem State.modChan_arbs : (s.modChan i f).arbs = s.arbs := rfl
@[simp] theorem State.modChan_hbms : (s.modChan i f).hbms = s.hbms := rfl
@[simp] theorem State.modChan_sites : (s.modChan i f).sites = s.sites := rfl
@[simp] theorem State.modChan_wards : (s.modChan i f).wards = s.wards := rfl
@[simp] theorem State.modChan_dieFenced : (s.modChan i f).dieFenced = s.dieFenced := rfl
@[simp] theorem State.modChan_modFenced : (s.modChan i f).modFenced = s.modFenced := rfl
@[simp] theorem State.modChan_beats : (s.modChan i f).beats = s.beats := rfl
@[simp] theorem State.modChan_funcs : (s.modChan i f).funcs = s.funcs := rfl
@[simp] theorem State.modChan_ports : (s.modChan i f).ports = s.ports := rfl
@[simp] theorem State.modChan_rings : (s.modChan i f).rings = s.rings := rfl
@[simp] theorem State.modChan_opens : (s.modChan i f).opens = s.opens := rfl
@[simp] theorem State.modChan_journal : (s.modChan i f).journal = s.journal := rfl
@[simp] theorem State.modChan_jrnNext : (s.modChan i f).jrnNext = s.jrnNext := rfl
@[simp] theorem State.modChan_jrnBoot : (s.modChan i f).jrnBoot = s.jrnBoot := rfl
@[simp] theorem State.modChan_relays : (s.modChan i f).relays = s.relays := rfl
@[simp] theorem State.modChan_routes : (s.modChan i f).routes = s.routes := rfl
@[simp] theorem State.modChan_tg : (s.modChan i f).tg = s.tg := rfl
@[simp] theorem State.modChan_tko : (s.modChan i f).tko = s.tko := rfl
@[simp] theorem State.modChan_tkoQueue : (s.modChan i f).tkoQueue = s.tkoQueue := rfl
@[simp] theorem State.modChan_heldXfers : (s.modChan i f).heldXfers = s.heldXfers := rfl
@[simp] theorem State.modChan_rot : (s.modChan i f).rot = s.rot := rfl
@[simp] theorem State.modChan_xferPaths : (s.modChan i f).xferPaths = s.xferPaths := rfl
@[simp] theorem State.modChan_xidNext : (s.modChan i f).xidNext = s.xidNext := rfl
@[simp] theorem State.modChan_uncounted : (s.modChan i f).uncounted = s.uncounted := rfl
@[simp] theorem State.modChan_peerReads : (s.modChan i f).peerReads = s.peerReads := rfl
@[simp] theorem State.modChan_trees : (s.modChan i f).trees = s.trees := rfl
@[simp] theorem State.modChan_mcWait : (s.modChan i f).mcWait = s.mcWait := rfl
@[simp] theorem State.modChan_tkoLog : (s.modChan i f).tkoLog = s.tkoLog := rfl
@[simp] theorem State.modChan_rollSends : (s.modChan i f).rollSends = s.rollSends := rfl
@[simp] theorem State.modChan_rollAt : (s.modChan i f).rollAt = s.rollAt := rfl
@[simp] theorem State.modChan_rollRounds : (s.modChan i f).rollRounds = s.rollRounds := rfl
@[simp] theorem State.modChan_rollHeld : (s.modChan i f).rollHeld = s.rollHeld := rfl
@[simp] theorem State.modChan_rollSelfDiv : (s.modChan i f).rollSelfDiv = s.rollSelfDiv := rfl
@[simp] theorem State.modChan_rollSelfBad : (s.modChan i f).rollSelfBad = s.rollSelfBad := rfl
@[simp] theorem State.modChan_rollDiv : (s.modChan i f).rollDiv = s.rollDiv := rfl
@[simp] theorem State.modChan_rollSilent : (s.modChan i f).rollSilent = s.rollSilent := rfl
@[simp] theorem State.modChan_rollRecs : (s.modChan i f).rollRecs = s.rollRecs := rfl
@[simp] theorem State.modChan_ctlTmo : (s.modChan i f).ctlTmo = s.ctlTmo := rfl
@[simp] theorem State.modChan_slots : (s.modChan i f).slots = s.slots := rfl
@[simp] theorem State.modChan_retires : (s.modChan i f).retires = s.retires := rfl
@[simp] theorem State.modChan_atts : (s.modChan i f).atts = s.atts := rfl
@[simp] theorem State.modChan_faults : (s.modChan i f).faults = s.faults := rfl
@[simp] theorem State.modChan_saf : (s.modChan i f).saf = s.saf := rfl
@[simp] theorem State.modChan_pwr : (s.modChan i f).pwr = s.pwr := rfl
@[simp] theorem State.modChan_boot : (s.modChan i f).boot = s.boot := rfl
@[simp] theorem State.modChan_flash : (s.modChan i f).flash = s.flash := rfl
@[simp] theorem State.modChan_sec : (s.modChan i f).sec = s.sec := rfl
@[simp] theorem State.modChan_sent : (s.modChan i f).sent = s.sent := rfl
end

/-! ### modDev -/

section
variable (s : State) (i : Nat) (f : Dev → Dev)
@[simp] theorem State.modDev_pending : (s.modDev i f).pending = s.pending := rfl
@[simp] theorem State.modDev_fresh : (s.modDev i f).fresh = s.fresh := rfl
@[simp] theorem State.modDev_variant : (s.modDev i f).variant = s.variant := rfl
@[simp] theorem State.modDev_life : (s.modDev i f).life = s.life := rfl
@[simp] theorem State.modDev_image : (s.modDev i f).image = s.image := rfl
@[simp] theorem State.modDev_linkAddr : (s.modDev i f).linkAddr = s.linkAddr := rfl
@[simp] theorem State.modDev_standby : (s.modDev i f).standby = s.standby := rfl
@[simp] theorem State.modDev_tick : (s.modDev i f).tick = s.tick := rfl
@[simp] theorem State.modDev_mem : (s.modDev i f).mem = s.mem := rfl
@[simp] theorem State.modDev_secTags : (s.modDev i f).secTags = s.secTags := rfl
@[simp] theorem State.modDev_keyNext : (s.modDev i f).keyNext = s.keyNext := rfl
@[simp] theorem State.modDev_tiles : (s.modDev i f).tiles = s.tiles := rfl
@[simp] theorem State.modDev_quads : (s.modDev i f).quads = s.quads := rfl
@[simp] theorem State.modDev_chans : (s.modDev i f).chans = s.chans := rfl
@[simp] theorem State.modDev_devs : (s.modDev i f).devs = Tab.modify s.devs i f := rfl
@[simp] theorem State.modDev_upds : (s.modDev i f).upds = s.upds := rfl
@[simp] theorem State.modDev_tblRegs : (s.modDev i f).tblRegs = s.tblRegs := rfl
@[simp] theorem State.modDev_links : (s.modDev i f).links = s.links := rfl
@[simp] theorem State.modDev_arbs : (s.modDev i f).arbs = s.arbs := rfl
@[simp] theorem State.modDev_hbms : (s.modDev i f).hbms = s.hbms := rfl
@[simp] theorem State.modDev_sites : (s.modDev i f).sites = s.sites := rfl
@[simp] theorem State.modDev_wards : (s.modDev i f).wards = s.wards := rfl
@[simp] theorem State.modDev_dieFenced : (s.modDev i f).dieFenced = s.dieFenced := rfl
@[simp] theorem State.modDev_modFenced : (s.modDev i f).modFenced = s.modFenced := rfl
@[simp] theorem State.modDev_beats : (s.modDev i f).beats = s.beats := rfl
@[simp] theorem State.modDev_funcs : (s.modDev i f).funcs = s.funcs := rfl
@[simp] theorem State.modDev_ports : (s.modDev i f).ports = s.ports := rfl
@[simp] theorem State.modDev_rings : (s.modDev i f).rings = s.rings := rfl
@[simp] theorem State.modDev_opens : (s.modDev i f).opens = s.opens := rfl
@[simp] theorem State.modDev_journal : (s.modDev i f).journal = s.journal := rfl
@[simp] theorem State.modDev_jrnNext : (s.modDev i f).jrnNext = s.jrnNext := rfl
@[simp] theorem State.modDev_jrnBoot : (s.modDev i f).jrnBoot = s.jrnBoot := rfl
@[simp] theorem State.modDev_relays : (s.modDev i f).relays = s.relays := rfl
@[simp] theorem State.modDev_routes : (s.modDev i f).routes = s.routes := rfl
@[simp] theorem State.modDev_tg : (s.modDev i f).tg = s.tg := rfl
@[simp] theorem State.modDev_tko : (s.modDev i f).tko = s.tko := rfl
@[simp] theorem State.modDev_tkoQueue : (s.modDev i f).tkoQueue = s.tkoQueue := rfl
@[simp] theorem State.modDev_heldXfers : (s.modDev i f).heldXfers = s.heldXfers := rfl
@[simp] theorem State.modDev_rot : (s.modDev i f).rot = s.rot := rfl
@[simp] theorem State.modDev_xferPaths : (s.modDev i f).xferPaths = s.xferPaths := rfl
@[simp] theorem State.modDev_xidNext : (s.modDev i f).xidNext = s.xidNext := rfl
@[simp] theorem State.modDev_uncounted : (s.modDev i f).uncounted = s.uncounted := rfl
@[simp] theorem State.modDev_peerReads : (s.modDev i f).peerReads = s.peerReads := rfl
@[simp] theorem State.modDev_trees : (s.modDev i f).trees = s.trees := rfl
@[simp] theorem State.modDev_mcWait : (s.modDev i f).mcWait = s.mcWait := rfl
@[simp] theorem State.modDev_tkoLog : (s.modDev i f).tkoLog = s.tkoLog := rfl
@[simp] theorem State.modDev_rollSends : (s.modDev i f).rollSends = s.rollSends := rfl
@[simp] theorem State.modDev_rollAt : (s.modDev i f).rollAt = s.rollAt := rfl
@[simp] theorem State.modDev_rollRounds : (s.modDev i f).rollRounds = s.rollRounds := rfl
@[simp] theorem State.modDev_rollHeld : (s.modDev i f).rollHeld = s.rollHeld := rfl
@[simp] theorem State.modDev_rollSelfDiv : (s.modDev i f).rollSelfDiv = s.rollSelfDiv := rfl
@[simp] theorem State.modDev_rollSelfBad : (s.modDev i f).rollSelfBad = s.rollSelfBad := rfl
@[simp] theorem State.modDev_rollDiv : (s.modDev i f).rollDiv = s.rollDiv := rfl
@[simp] theorem State.modDev_rollSilent : (s.modDev i f).rollSilent = s.rollSilent := rfl
@[simp] theorem State.modDev_rollRecs : (s.modDev i f).rollRecs = s.rollRecs := rfl
@[simp] theorem State.modDev_ctlTmo : (s.modDev i f).ctlTmo = s.ctlTmo := rfl
@[simp] theorem State.modDev_slots : (s.modDev i f).slots = s.slots := rfl
@[simp] theorem State.modDev_retires : (s.modDev i f).retires = s.retires := rfl
@[simp] theorem State.modDev_atts : (s.modDev i f).atts = s.atts := rfl
@[simp] theorem State.modDev_faults : (s.modDev i f).faults = s.faults := rfl
@[simp] theorem State.modDev_saf : (s.modDev i f).saf = s.saf := rfl
@[simp] theorem State.modDev_pwr : (s.modDev i f).pwr = s.pwr := rfl
@[simp] theorem State.modDev_boot : (s.modDev i f).boot = s.boot := rfl
@[simp] theorem State.modDev_flash : (s.modDev i f).flash = s.flash := rfl
@[simp] theorem State.modDev_sec : (s.modDev i f).sec = s.sec := rfl
@[simp] theorem State.modDev_sent : (s.modDev i f).sent = s.sent := rfl
end

/-! ### modUpd -/

section
variable (s : State) (i : Nat) (f : Upd → Upd)
@[simp] theorem State.modUpd_pending : (s.modUpd i f).pending = s.pending := rfl
@[simp] theorem State.modUpd_fresh : (s.modUpd i f).fresh = s.fresh := rfl
@[simp] theorem State.modUpd_variant : (s.modUpd i f).variant = s.variant := rfl
@[simp] theorem State.modUpd_life : (s.modUpd i f).life = s.life := rfl
@[simp] theorem State.modUpd_image : (s.modUpd i f).image = s.image := rfl
@[simp] theorem State.modUpd_linkAddr : (s.modUpd i f).linkAddr = s.linkAddr := rfl
@[simp] theorem State.modUpd_standby : (s.modUpd i f).standby = s.standby := rfl
@[simp] theorem State.modUpd_tick : (s.modUpd i f).tick = s.tick := rfl
@[simp] theorem State.modUpd_mem : (s.modUpd i f).mem = s.mem := rfl
@[simp] theorem State.modUpd_secTags : (s.modUpd i f).secTags = s.secTags := rfl
@[simp] theorem State.modUpd_keyNext : (s.modUpd i f).keyNext = s.keyNext := rfl
@[simp] theorem State.modUpd_tiles : (s.modUpd i f).tiles = s.tiles := rfl
@[simp] theorem State.modUpd_quads : (s.modUpd i f).quads = s.quads := rfl
@[simp] theorem State.modUpd_chans : (s.modUpd i f).chans = s.chans := rfl
@[simp] theorem State.modUpd_devs : (s.modUpd i f).devs = s.devs := rfl
@[simp] theorem State.modUpd_upds : (s.modUpd i f).upds = Tab.modify s.upds i f := rfl
@[simp] theorem State.modUpd_tblRegs : (s.modUpd i f).tblRegs = s.tblRegs := rfl
@[simp] theorem State.modUpd_links : (s.modUpd i f).links = s.links := rfl
@[simp] theorem State.modUpd_arbs : (s.modUpd i f).arbs = s.arbs := rfl
@[simp] theorem State.modUpd_hbms : (s.modUpd i f).hbms = s.hbms := rfl
@[simp] theorem State.modUpd_sites : (s.modUpd i f).sites = s.sites := rfl
@[simp] theorem State.modUpd_wards : (s.modUpd i f).wards = s.wards := rfl
@[simp] theorem State.modUpd_dieFenced : (s.modUpd i f).dieFenced = s.dieFenced := rfl
@[simp] theorem State.modUpd_modFenced : (s.modUpd i f).modFenced = s.modFenced := rfl
@[simp] theorem State.modUpd_beats : (s.modUpd i f).beats = s.beats := rfl
@[simp] theorem State.modUpd_funcs : (s.modUpd i f).funcs = s.funcs := rfl
@[simp] theorem State.modUpd_ports : (s.modUpd i f).ports = s.ports := rfl
@[simp] theorem State.modUpd_rings : (s.modUpd i f).rings = s.rings := rfl
@[simp] theorem State.modUpd_opens : (s.modUpd i f).opens = s.opens := rfl
@[simp] theorem State.modUpd_journal : (s.modUpd i f).journal = s.journal := rfl
@[simp] theorem State.modUpd_jrnNext : (s.modUpd i f).jrnNext = s.jrnNext := rfl
@[simp] theorem State.modUpd_jrnBoot : (s.modUpd i f).jrnBoot = s.jrnBoot := rfl
@[simp] theorem State.modUpd_relays : (s.modUpd i f).relays = s.relays := rfl
@[simp] theorem State.modUpd_routes : (s.modUpd i f).routes = s.routes := rfl
@[simp] theorem State.modUpd_tg : (s.modUpd i f).tg = s.tg := rfl
@[simp] theorem State.modUpd_tko : (s.modUpd i f).tko = s.tko := rfl
@[simp] theorem State.modUpd_tkoQueue : (s.modUpd i f).tkoQueue = s.tkoQueue := rfl
@[simp] theorem State.modUpd_heldXfers : (s.modUpd i f).heldXfers = s.heldXfers := rfl
@[simp] theorem State.modUpd_rot : (s.modUpd i f).rot = s.rot := rfl
@[simp] theorem State.modUpd_xferPaths : (s.modUpd i f).xferPaths = s.xferPaths := rfl
@[simp] theorem State.modUpd_xidNext : (s.modUpd i f).xidNext = s.xidNext := rfl
@[simp] theorem State.modUpd_uncounted : (s.modUpd i f).uncounted = s.uncounted := rfl
@[simp] theorem State.modUpd_peerReads : (s.modUpd i f).peerReads = s.peerReads := rfl
@[simp] theorem State.modUpd_trees : (s.modUpd i f).trees = s.trees := rfl
@[simp] theorem State.modUpd_mcWait : (s.modUpd i f).mcWait = s.mcWait := rfl
@[simp] theorem State.modUpd_tkoLog : (s.modUpd i f).tkoLog = s.tkoLog := rfl
@[simp] theorem State.modUpd_rollSends : (s.modUpd i f).rollSends = s.rollSends := rfl
@[simp] theorem State.modUpd_rollAt : (s.modUpd i f).rollAt = s.rollAt := rfl
@[simp] theorem State.modUpd_rollRounds : (s.modUpd i f).rollRounds = s.rollRounds := rfl
@[simp] theorem State.modUpd_rollHeld : (s.modUpd i f).rollHeld = s.rollHeld := rfl
@[simp] theorem State.modUpd_rollSelfDiv : (s.modUpd i f).rollSelfDiv = s.rollSelfDiv := rfl
@[simp] theorem State.modUpd_rollSelfBad : (s.modUpd i f).rollSelfBad = s.rollSelfBad := rfl
@[simp] theorem State.modUpd_rollDiv : (s.modUpd i f).rollDiv = s.rollDiv := rfl
@[simp] theorem State.modUpd_rollSilent : (s.modUpd i f).rollSilent = s.rollSilent := rfl
@[simp] theorem State.modUpd_rollRecs : (s.modUpd i f).rollRecs = s.rollRecs := rfl
@[simp] theorem State.modUpd_ctlTmo : (s.modUpd i f).ctlTmo = s.ctlTmo := rfl
@[simp] theorem State.modUpd_slots : (s.modUpd i f).slots = s.slots := rfl
@[simp] theorem State.modUpd_retires : (s.modUpd i f).retires = s.retires := rfl
@[simp] theorem State.modUpd_atts : (s.modUpd i f).atts = s.atts := rfl
@[simp] theorem State.modUpd_faults : (s.modUpd i f).faults = s.faults := rfl
@[simp] theorem State.modUpd_saf : (s.modUpd i f).saf = s.saf := rfl
@[simp] theorem State.modUpd_pwr : (s.modUpd i f).pwr = s.pwr := rfl
@[simp] theorem State.modUpd_boot : (s.modUpd i f).boot = s.boot := rfl
@[simp] theorem State.modUpd_flash : (s.modUpd i f).flash = s.flash := rfl
@[simp] theorem State.modUpd_sec : (s.modUpd i f).sec = s.sec := rfl
@[simp] theorem State.modUpd_sent : (s.modUpd i f).sent = s.sent := rfl
end

/-! ### modLink -/

section
variable (s : State) (i : Nat) (f : Link → Link)
@[simp] theorem State.modLink_pending : (s.modLink i f).pending = s.pending := rfl
@[simp] theorem State.modLink_fresh : (s.modLink i f).fresh = s.fresh := rfl
@[simp] theorem State.modLink_variant : (s.modLink i f).variant = s.variant := rfl
@[simp] theorem State.modLink_life : (s.modLink i f).life = s.life := rfl
@[simp] theorem State.modLink_image : (s.modLink i f).image = s.image := rfl
@[simp] theorem State.modLink_linkAddr : (s.modLink i f).linkAddr = s.linkAddr := rfl
@[simp] theorem State.modLink_standby : (s.modLink i f).standby = s.standby := rfl
@[simp] theorem State.modLink_tick : (s.modLink i f).tick = s.tick := rfl
@[simp] theorem State.modLink_mem : (s.modLink i f).mem = s.mem := rfl
@[simp] theorem State.modLink_secTags : (s.modLink i f).secTags = s.secTags := rfl
@[simp] theorem State.modLink_keyNext : (s.modLink i f).keyNext = s.keyNext := rfl
@[simp] theorem State.modLink_tiles : (s.modLink i f).tiles = s.tiles := rfl
@[simp] theorem State.modLink_quads : (s.modLink i f).quads = s.quads := rfl
@[simp] theorem State.modLink_chans : (s.modLink i f).chans = s.chans := rfl
@[simp] theorem State.modLink_devs : (s.modLink i f).devs = s.devs := rfl
@[simp] theorem State.modLink_upds : (s.modLink i f).upds = s.upds := rfl
@[simp] theorem State.modLink_tblRegs : (s.modLink i f).tblRegs = s.tblRegs := rfl
@[simp] theorem State.modLink_links : (s.modLink i f).links = Tab.modify s.links i f := rfl
@[simp] theorem State.modLink_arbs : (s.modLink i f).arbs = s.arbs := rfl
@[simp] theorem State.modLink_hbms : (s.modLink i f).hbms = s.hbms := rfl
@[simp] theorem State.modLink_sites : (s.modLink i f).sites = s.sites := rfl
@[simp] theorem State.modLink_wards : (s.modLink i f).wards = s.wards := rfl
@[simp] theorem State.modLink_dieFenced : (s.modLink i f).dieFenced = s.dieFenced := rfl
@[simp] theorem State.modLink_modFenced : (s.modLink i f).modFenced = s.modFenced := rfl
@[simp] theorem State.modLink_beats : (s.modLink i f).beats = s.beats := rfl
@[simp] theorem State.modLink_funcs : (s.modLink i f).funcs = s.funcs := rfl
@[simp] theorem State.modLink_ports : (s.modLink i f).ports = s.ports := rfl
@[simp] theorem State.modLink_rings : (s.modLink i f).rings = s.rings := rfl
@[simp] theorem State.modLink_opens : (s.modLink i f).opens = s.opens := rfl
@[simp] theorem State.modLink_journal : (s.modLink i f).journal = s.journal := rfl
@[simp] theorem State.modLink_jrnNext : (s.modLink i f).jrnNext = s.jrnNext := rfl
@[simp] theorem State.modLink_jrnBoot : (s.modLink i f).jrnBoot = s.jrnBoot := rfl
@[simp] theorem State.modLink_relays : (s.modLink i f).relays = s.relays := rfl
@[simp] theorem State.modLink_routes : (s.modLink i f).routes = s.routes := rfl
@[simp] theorem State.modLink_tg : (s.modLink i f).tg = s.tg := rfl
@[simp] theorem State.modLink_tko : (s.modLink i f).tko = s.tko := rfl
@[simp] theorem State.modLink_tkoQueue : (s.modLink i f).tkoQueue = s.tkoQueue := rfl
@[simp] theorem State.modLink_heldXfers : (s.modLink i f).heldXfers = s.heldXfers := rfl
@[simp] theorem State.modLink_rot : (s.modLink i f).rot = s.rot := rfl
@[simp] theorem State.modLink_xferPaths : (s.modLink i f).xferPaths = s.xferPaths := rfl
@[simp] theorem State.modLink_xidNext : (s.modLink i f).xidNext = s.xidNext := rfl
@[simp] theorem State.modLink_uncounted : (s.modLink i f).uncounted = s.uncounted := rfl
@[simp] theorem State.modLink_peerReads : (s.modLink i f).peerReads = s.peerReads := rfl
@[simp] theorem State.modLink_trees : (s.modLink i f).trees = s.trees := rfl
@[simp] theorem State.modLink_mcWait : (s.modLink i f).mcWait = s.mcWait := rfl
@[simp] theorem State.modLink_tkoLog : (s.modLink i f).tkoLog = s.tkoLog := rfl
@[simp] theorem State.modLink_rollSends : (s.modLink i f).rollSends = s.rollSends := rfl
@[simp] theorem State.modLink_rollAt : (s.modLink i f).rollAt = s.rollAt := rfl
@[simp] theorem State.modLink_rollRounds : (s.modLink i f).rollRounds = s.rollRounds := rfl
@[simp] theorem State.modLink_rollHeld : (s.modLink i f).rollHeld = s.rollHeld := rfl
@[simp] theorem State.modLink_rollSelfDiv : (s.modLink i f).rollSelfDiv = s.rollSelfDiv := rfl
@[simp] theorem State.modLink_rollSelfBad : (s.modLink i f).rollSelfBad = s.rollSelfBad := rfl
@[simp] theorem State.modLink_rollDiv : (s.modLink i f).rollDiv = s.rollDiv := rfl
@[simp] theorem State.modLink_rollSilent : (s.modLink i f).rollSilent = s.rollSilent := rfl
@[simp] theorem State.modLink_rollRecs : (s.modLink i f).rollRecs = s.rollRecs := rfl
@[simp] theorem State.modLink_ctlTmo : (s.modLink i f).ctlTmo = s.ctlTmo := rfl
@[simp] theorem State.modLink_slots : (s.modLink i f).slots = s.slots := rfl
@[simp] theorem State.modLink_retires : (s.modLink i f).retires = s.retires := rfl
@[simp] theorem State.modLink_atts : (s.modLink i f).atts = s.atts := rfl
@[simp] theorem State.modLink_faults : (s.modLink i f).faults = s.faults := rfl
@[simp] theorem State.modLink_saf : (s.modLink i f).saf = s.saf := rfl
@[simp] theorem State.modLink_pwr : (s.modLink i f).pwr = s.pwr := rfl
@[simp] theorem State.modLink_boot : (s.modLink i f).boot = s.boot := rfl
@[simp] theorem State.modLink_flash : (s.modLink i f).flash = s.flash := rfl
@[simp] theorem State.modLink_sec : (s.modLink i f).sec = s.sec := rfl
@[simp] theorem State.modLink_sent : (s.modLink i f).sent = s.sent := rfl
end

/-! ### modHbm -/

section
variable (s : State) (i : Nat) (f : Hbm → Hbm)
@[simp] theorem State.modHbm_pending : (s.modHbm i f).pending = s.pending := rfl
@[simp] theorem State.modHbm_fresh : (s.modHbm i f).fresh = s.fresh := rfl
@[simp] theorem State.modHbm_variant : (s.modHbm i f).variant = s.variant := rfl
@[simp] theorem State.modHbm_life : (s.modHbm i f).life = s.life := rfl
@[simp] theorem State.modHbm_image : (s.modHbm i f).image = s.image := rfl
@[simp] theorem State.modHbm_linkAddr : (s.modHbm i f).linkAddr = s.linkAddr := rfl
@[simp] theorem State.modHbm_standby : (s.modHbm i f).standby = s.standby := rfl
@[simp] theorem State.modHbm_tick : (s.modHbm i f).tick = s.tick := rfl
@[simp] theorem State.modHbm_mem : (s.modHbm i f).mem = s.mem := rfl
@[simp] theorem State.modHbm_secTags : (s.modHbm i f).secTags = s.secTags := rfl
@[simp] theorem State.modHbm_keyNext : (s.modHbm i f).keyNext = s.keyNext := rfl
@[simp] theorem State.modHbm_tiles : (s.modHbm i f).tiles = s.tiles := rfl
@[simp] theorem State.modHbm_quads : (s.modHbm i f).quads = s.quads := rfl
@[simp] theorem State.modHbm_chans : (s.modHbm i f).chans = s.chans := rfl
@[simp] theorem State.modHbm_devs : (s.modHbm i f).devs = s.devs := rfl
@[simp] theorem State.modHbm_upds : (s.modHbm i f).upds = s.upds := rfl
@[simp] theorem State.modHbm_tblRegs : (s.modHbm i f).tblRegs = s.tblRegs := rfl
@[simp] theorem State.modHbm_links : (s.modHbm i f).links = s.links := rfl
@[simp] theorem State.modHbm_arbs : (s.modHbm i f).arbs = s.arbs := rfl
@[simp] theorem State.modHbm_hbms : (s.modHbm i f).hbms = Tab.modify s.hbms i f := rfl
@[simp] theorem State.modHbm_sites : (s.modHbm i f).sites = s.sites := rfl
@[simp] theorem State.modHbm_wards : (s.modHbm i f).wards = s.wards := rfl
@[simp] theorem State.modHbm_dieFenced : (s.modHbm i f).dieFenced = s.dieFenced := rfl
@[simp] theorem State.modHbm_modFenced : (s.modHbm i f).modFenced = s.modFenced := rfl
@[simp] theorem State.modHbm_beats : (s.modHbm i f).beats = s.beats := rfl
@[simp] theorem State.modHbm_funcs : (s.modHbm i f).funcs = s.funcs := rfl
@[simp] theorem State.modHbm_ports : (s.modHbm i f).ports = s.ports := rfl
@[simp] theorem State.modHbm_rings : (s.modHbm i f).rings = s.rings := rfl
@[simp] theorem State.modHbm_opens : (s.modHbm i f).opens = s.opens := rfl
@[simp] theorem State.modHbm_journal : (s.modHbm i f).journal = s.journal := rfl
@[simp] theorem State.modHbm_jrnNext : (s.modHbm i f).jrnNext = s.jrnNext := rfl
@[simp] theorem State.modHbm_jrnBoot : (s.modHbm i f).jrnBoot = s.jrnBoot := rfl
@[simp] theorem State.modHbm_relays : (s.modHbm i f).relays = s.relays := rfl
@[simp] theorem State.modHbm_routes : (s.modHbm i f).routes = s.routes := rfl
@[simp] theorem State.modHbm_tg : (s.modHbm i f).tg = s.tg := rfl
@[simp] theorem State.modHbm_tko : (s.modHbm i f).tko = s.tko := rfl
@[simp] theorem State.modHbm_tkoQueue : (s.modHbm i f).tkoQueue = s.tkoQueue := rfl
@[simp] theorem State.modHbm_heldXfers : (s.modHbm i f).heldXfers = s.heldXfers := rfl
@[simp] theorem State.modHbm_rot : (s.modHbm i f).rot = s.rot := rfl
@[simp] theorem State.modHbm_xferPaths : (s.modHbm i f).xferPaths = s.xferPaths := rfl
@[simp] theorem State.modHbm_xidNext : (s.modHbm i f).xidNext = s.xidNext := rfl
@[simp] theorem State.modHbm_uncounted : (s.modHbm i f).uncounted = s.uncounted := rfl
@[simp] theorem State.modHbm_peerReads : (s.modHbm i f).peerReads = s.peerReads := rfl
@[simp] theorem State.modHbm_trees : (s.modHbm i f).trees = s.trees := rfl
@[simp] theorem State.modHbm_mcWait : (s.modHbm i f).mcWait = s.mcWait := rfl
@[simp] theorem State.modHbm_tkoLog : (s.modHbm i f).tkoLog = s.tkoLog := rfl
@[simp] theorem State.modHbm_rollSends : (s.modHbm i f).rollSends = s.rollSends := rfl
@[simp] theorem State.modHbm_rollAt : (s.modHbm i f).rollAt = s.rollAt := rfl
@[simp] theorem State.modHbm_rollRounds : (s.modHbm i f).rollRounds = s.rollRounds := rfl
@[simp] theorem State.modHbm_rollHeld : (s.modHbm i f).rollHeld = s.rollHeld := rfl
@[simp] theorem State.modHbm_rollSelfDiv : (s.modHbm i f).rollSelfDiv = s.rollSelfDiv := rfl
@[simp] theorem State.modHbm_rollSelfBad : (s.modHbm i f).rollSelfBad = s.rollSelfBad := rfl
@[simp] theorem State.modHbm_rollDiv : (s.modHbm i f).rollDiv = s.rollDiv := rfl
@[simp] theorem State.modHbm_rollSilent : (s.modHbm i f).rollSilent = s.rollSilent := rfl
@[simp] theorem State.modHbm_rollRecs : (s.modHbm i f).rollRecs = s.rollRecs := rfl
@[simp] theorem State.modHbm_ctlTmo : (s.modHbm i f).ctlTmo = s.ctlTmo := rfl
@[simp] theorem State.modHbm_slots : (s.modHbm i f).slots = s.slots := rfl
@[simp] theorem State.modHbm_retires : (s.modHbm i f).retires = s.retires := rfl
@[simp] theorem State.modHbm_atts : (s.modHbm i f).atts = s.atts := rfl
@[simp] theorem State.modHbm_faults : (s.modHbm i f).faults = s.faults := rfl
@[simp] theorem State.modHbm_saf : (s.modHbm i f).saf = s.saf := rfl
@[simp] theorem State.modHbm_pwr : (s.modHbm i f).pwr = s.pwr := rfl
@[simp] theorem State.modHbm_boot : (s.modHbm i f).boot = s.boot := rfl
@[simp] theorem State.modHbm_flash : (s.modHbm i f).flash = s.flash := rfl
@[simp] theorem State.modHbm_sec : (s.modHbm i f).sec = s.sec := rfl
@[simp] theorem State.modHbm_sent : (s.modHbm i f).sent = s.sent := rfl
end

/-! ### modWard -/

section
variable (s : State) (i : Nat) (f : Ward → Ward)
@[simp] theorem State.modWard_pending : (s.modWard i f).pending = s.pending := rfl
@[simp] theorem State.modWard_fresh : (s.modWard i f).fresh = s.fresh := rfl
@[simp] theorem State.modWard_variant : (s.modWard i f).variant = s.variant := rfl
@[simp] theorem State.modWard_life : (s.modWard i f).life = s.life := rfl
@[simp] theorem State.modWard_image : (s.modWard i f).image = s.image := rfl
@[simp] theorem State.modWard_linkAddr : (s.modWard i f).linkAddr = s.linkAddr := rfl
@[simp] theorem State.modWard_standby : (s.modWard i f).standby = s.standby := rfl
@[simp] theorem State.modWard_tick : (s.modWard i f).tick = s.tick := rfl
@[simp] theorem State.modWard_mem : (s.modWard i f).mem = s.mem := rfl
@[simp] theorem State.modWard_secTags : (s.modWard i f).secTags = s.secTags := rfl
@[simp] theorem State.modWard_keyNext : (s.modWard i f).keyNext = s.keyNext := rfl
@[simp] theorem State.modWard_tiles : (s.modWard i f).tiles = s.tiles := rfl
@[simp] theorem State.modWard_quads : (s.modWard i f).quads = s.quads := rfl
@[simp] theorem State.modWard_chans : (s.modWard i f).chans = s.chans := rfl
@[simp] theorem State.modWard_devs : (s.modWard i f).devs = s.devs := rfl
@[simp] theorem State.modWard_upds : (s.modWard i f).upds = s.upds := rfl
@[simp] theorem State.modWard_tblRegs : (s.modWard i f).tblRegs = s.tblRegs := rfl
@[simp] theorem State.modWard_links : (s.modWard i f).links = s.links := rfl
@[simp] theorem State.modWard_arbs : (s.modWard i f).arbs = s.arbs := rfl
@[simp] theorem State.modWard_hbms : (s.modWard i f).hbms = s.hbms := rfl
@[simp] theorem State.modWard_sites : (s.modWard i f).sites = s.sites := rfl
@[simp] theorem State.modWard_wards : (s.modWard i f).wards = Tab.modify s.wards i f := rfl
@[simp] theorem State.modWard_dieFenced : (s.modWard i f).dieFenced = s.dieFenced := rfl
@[simp] theorem State.modWard_modFenced : (s.modWard i f).modFenced = s.modFenced := rfl
@[simp] theorem State.modWard_beats : (s.modWard i f).beats = s.beats := rfl
@[simp] theorem State.modWard_funcs : (s.modWard i f).funcs = s.funcs := rfl
@[simp] theorem State.modWard_ports : (s.modWard i f).ports = s.ports := rfl
@[simp] theorem State.modWard_rings : (s.modWard i f).rings = s.rings := rfl
@[simp] theorem State.modWard_opens : (s.modWard i f).opens = s.opens := rfl
@[simp] theorem State.modWard_journal : (s.modWard i f).journal = s.journal := rfl
@[simp] theorem State.modWard_jrnNext : (s.modWard i f).jrnNext = s.jrnNext := rfl
@[simp] theorem State.modWard_jrnBoot : (s.modWard i f).jrnBoot = s.jrnBoot := rfl
@[simp] theorem State.modWard_relays : (s.modWard i f).relays = s.relays := rfl
@[simp] theorem State.modWard_routes : (s.modWard i f).routes = s.routes := rfl
@[simp] theorem State.modWard_tg : (s.modWard i f).tg = s.tg := rfl
@[simp] theorem State.modWard_tko : (s.modWard i f).tko = s.tko := rfl
@[simp] theorem State.modWard_tkoQueue : (s.modWard i f).tkoQueue = s.tkoQueue := rfl
@[simp] theorem State.modWard_heldXfers : (s.modWard i f).heldXfers = s.heldXfers := rfl
@[simp] theorem State.modWard_rot : (s.modWard i f).rot = s.rot := rfl
@[simp] theorem State.modWard_xferPaths : (s.modWard i f).xferPaths = s.xferPaths := rfl
@[simp] theorem State.modWard_xidNext : (s.modWard i f).xidNext = s.xidNext := rfl
@[simp] theorem State.modWard_uncounted : (s.modWard i f).uncounted = s.uncounted := rfl
@[simp] theorem State.modWard_peerReads : (s.modWard i f).peerReads = s.peerReads := rfl
@[simp] theorem State.modWard_trees : (s.modWard i f).trees = s.trees := rfl
@[simp] theorem State.modWard_mcWait : (s.modWard i f).mcWait = s.mcWait := rfl
@[simp] theorem State.modWard_tkoLog : (s.modWard i f).tkoLog = s.tkoLog := rfl
@[simp] theorem State.modWard_rollSends : (s.modWard i f).rollSends = s.rollSends := rfl
@[simp] theorem State.modWard_rollAt : (s.modWard i f).rollAt = s.rollAt := rfl
@[simp] theorem State.modWard_rollRounds : (s.modWard i f).rollRounds = s.rollRounds := rfl
@[simp] theorem State.modWard_rollHeld : (s.modWard i f).rollHeld = s.rollHeld := rfl
@[simp] theorem State.modWard_rollSelfDiv : (s.modWard i f).rollSelfDiv = s.rollSelfDiv := rfl
@[simp] theorem State.modWard_rollSelfBad : (s.modWard i f).rollSelfBad = s.rollSelfBad := rfl
@[simp] theorem State.modWard_rollDiv : (s.modWard i f).rollDiv = s.rollDiv := rfl
@[simp] theorem State.modWard_rollSilent : (s.modWard i f).rollSilent = s.rollSilent := rfl
@[simp] theorem State.modWard_rollRecs : (s.modWard i f).rollRecs = s.rollRecs := rfl
@[simp] theorem State.modWard_ctlTmo : (s.modWard i f).ctlTmo = s.ctlTmo := rfl
@[simp] theorem State.modWard_slots : (s.modWard i f).slots = s.slots := rfl
@[simp] theorem State.modWard_retires : (s.modWard i f).retires = s.retires := rfl
@[simp] theorem State.modWard_atts : (s.modWard i f).atts = s.atts := rfl
@[simp] theorem State.modWard_faults : (s.modWard i f).faults = s.faults := rfl
@[simp] theorem State.modWard_saf : (s.modWard i f).saf = s.saf := rfl
@[simp] theorem State.modWard_pwr : (s.modWard i f).pwr = s.pwr := rfl
@[simp] theorem State.modWard_boot : (s.modWard i f).boot = s.boot := rfl
@[simp] theorem State.modWard_flash : (s.modWard i f).flash = s.flash := rfl
@[simp] theorem State.modWard_sec : (s.modWard i f).sec = s.sec := rfl
@[simp] theorem State.modWard_sent : (s.modWard i f).sent = s.sent := rfl
end

/-! ### modRing -/

section
variable (s : State) (i : Nat) (f : Ring → Ring)
@[simp] theorem State.modRing_pending : (s.modRing i f).pending = s.pending := rfl
@[simp] theorem State.modRing_fresh : (s.modRing i f).fresh = s.fresh := rfl
@[simp] theorem State.modRing_variant : (s.modRing i f).variant = s.variant := rfl
@[simp] theorem State.modRing_life : (s.modRing i f).life = s.life := rfl
@[simp] theorem State.modRing_image : (s.modRing i f).image = s.image := rfl
@[simp] theorem State.modRing_linkAddr : (s.modRing i f).linkAddr = s.linkAddr := rfl
@[simp] theorem State.modRing_standby : (s.modRing i f).standby = s.standby := rfl
@[simp] theorem State.modRing_tick : (s.modRing i f).tick = s.tick := rfl
@[simp] theorem State.modRing_mem : (s.modRing i f).mem = s.mem := rfl
@[simp] theorem State.modRing_secTags : (s.modRing i f).secTags = s.secTags := rfl
@[simp] theorem State.modRing_keyNext : (s.modRing i f).keyNext = s.keyNext := rfl
@[simp] theorem State.modRing_tiles : (s.modRing i f).tiles = s.tiles := rfl
@[simp] theorem State.modRing_quads : (s.modRing i f).quads = s.quads := rfl
@[simp] theorem State.modRing_chans : (s.modRing i f).chans = s.chans := rfl
@[simp] theorem State.modRing_devs : (s.modRing i f).devs = s.devs := rfl
@[simp] theorem State.modRing_upds : (s.modRing i f).upds = s.upds := rfl
@[simp] theorem State.modRing_tblRegs : (s.modRing i f).tblRegs = s.tblRegs := rfl
@[simp] theorem State.modRing_links : (s.modRing i f).links = s.links := rfl
@[simp] theorem State.modRing_arbs : (s.modRing i f).arbs = s.arbs := rfl
@[simp] theorem State.modRing_hbms : (s.modRing i f).hbms = s.hbms := rfl
@[simp] theorem State.modRing_sites : (s.modRing i f).sites = s.sites := rfl
@[simp] theorem State.modRing_wards : (s.modRing i f).wards = s.wards := rfl
@[simp] theorem State.modRing_dieFenced : (s.modRing i f).dieFenced = s.dieFenced := rfl
@[simp] theorem State.modRing_modFenced : (s.modRing i f).modFenced = s.modFenced := rfl
@[simp] theorem State.modRing_beats : (s.modRing i f).beats = s.beats := rfl
@[simp] theorem State.modRing_funcs : (s.modRing i f).funcs = s.funcs := rfl
@[simp] theorem State.modRing_ports : (s.modRing i f).ports = s.ports := rfl
@[simp] theorem State.modRing_rings : (s.modRing i f).rings = Tab.modify s.rings i f := rfl
@[simp] theorem State.modRing_opens : (s.modRing i f).opens = s.opens := rfl
@[simp] theorem State.modRing_journal : (s.modRing i f).journal = s.journal := rfl
@[simp] theorem State.modRing_jrnNext : (s.modRing i f).jrnNext = s.jrnNext := rfl
@[simp] theorem State.modRing_jrnBoot : (s.modRing i f).jrnBoot = s.jrnBoot := rfl
@[simp] theorem State.modRing_relays : (s.modRing i f).relays = s.relays := rfl
@[simp] theorem State.modRing_routes : (s.modRing i f).routes = s.routes := rfl
@[simp] theorem State.modRing_tg : (s.modRing i f).tg = s.tg := rfl
@[simp] theorem State.modRing_tko : (s.modRing i f).tko = s.tko := rfl
@[simp] theorem State.modRing_tkoQueue : (s.modRing i f).tkoQueue = s.tkoQueue := rfl
@[simp] theorem State.modRing_heldXfers : (s.modRing i f).heldXfers = s.heldXfers := rfl
@[simp] theorem State.modRing_rot : (s.modRing i f).rot = s.rot := rfl
@[simp] theorem State.modRing_xferPaths : (s.modRing i f).xferPaths = s.xferPaths := rfl
@[simp] theorem State.modRing_xidNext : (s.modRing i f).xidNext = s.xidNext := rfl
@[simp] theorem State.modRing_uncounted : (s.modRing i f).uncounted = s.uncounted := rfl
@[simp] theorem State.modRing_peerReads : (s.modRing i f).peerReads = s.peerReads := rfl
@[simp] theorem State.modRing_trees : (s.modRing i f).trees = s.trees := rfl
@[simp] theorem State.modRing_mcWait : (s.modRing i f).mcWait = s.mcWait := rfl
@[simp] theorem State.modRing_tkoLog : (s.modRing i f).tkoLog = s.tkoLog := rfl
@[simp] theorem State.modRing_rollSends : (s.modRing i f).rollSends = s.rollSends := rfl
@[simp] theorem State.modRing_rollAt : (s.modRing i f).rollAt = s.rollAt := rfl
@[simp] theorem State.modRing_rollRounds : (s.modRing i f).rollRounds = s.rollRounds := rfl
@[simp] theorem State.modRing_rollHeld : (s.modRing i f).rollHeld = s.rollHeld := rfl
@[simp] theorem State.modRing_rollSelfDiv : (s.modRing i f).rollSelfDiv = s.rollSelfDiv := rfl
@[simp] theorem State.modRing_rollSelfBad : (s.modRing i f).rollSelfBad = s.rollSelfBad := rfl
@[simp] theorem State.modRing_rollDiv : (s.modRing i f).rollDiv = s.rollDiv := rfl
@[simp] theorem State.modRing_rollSilent : (s.modRing i f).rollSilent = s.rollSilent := rfl
@[simp] theorem State.modRing_rollRecs : (s.modRing i f).rollRecs = s.rollRecs := rfl
@[simp] theorem State.modRing_ctlTmo : (s.modRing i f).ctlTmo = s.ctlTmo := rfl
@[simp] theorem State.modRing_slots : (s.modRing i f).slots = s.slots := rfl
@[simp] theorem State.modRing_retires : (s.modRing i f).retires = s.retires := rfl
@[simp] theorem State.modRing_atts : (s.modRing i f).atts = s.atts := rfl
@[simp] theorem State.modRing_faults : (s.modRing i f).faults = s.faults := rfl
@[simp] theorem State.modRing_saf : (s.modRing i f).saf = s.saf := rfl
@[simp] theorem State.modRing_pwr : (s.modRing i f).pwr = s.pwr := rfl
@[simp] theorem State.modRing_boot : (s.modRing i f).boot = s.boot := rfl
@[simp] theorem State.modRing_flash : (s.modRing i f).flash = s.flash := rfl
@[simp] theorem State.modRing_sec : (s.modRing i f).sec = s.sec := rfl
@[simp] theorem State.modRing_sent : (s.modRing i f).sent = s.sent := rfl
end

/-! ### modFunc -/

section
variable (s : State) (i : Nat) (f : Func → Func)
@[simp] theorem State.modFunc_pending : (s.modFunc i f).pending = s.pending := rfl
@[simp] theorem State.modFunc_fresh : (s.modFunc i f).fresh = s.fresh := rfl
@[simp] theorem State.modFunc_variant : (s.modFunc i f).variant = s.variant := rfl
@[simp] theorem State.modFunc_life : (s.modFunc i f).life = s.life := rfl
@[simp] theorem State.modFunc_image : (s.modFunc i f).image = s.image := rfl
@[simp] theorem State.modFunc_linkAddr : (s.modFunc i f).linkAddr = s.linkAddr := rfl
@[simp] theorem State.modFunc_standby : (s.modFunc i f).standby = s.standby := rfl
@[simp] theorem State.modFunc_tick : (s.modFunc i f).tick = s.tick := rfl
@[simp] theorem State.modFunc_mem : (s.modFunc i f).mem = s.mem := rfl
@[simp] theorem State.modFunc_secTags : (s.modFunc i f).secTags = s.secTags := rfl
@[simp] theorem State.modFunc_keyNext : (s.modFunc i f).keyNext = s.keyNext := rfl
@[simp] theorem State.modFunc_tiles : (s.modFunc i f).tiles = s.tiles := rfl
@[simp] theorem State.modFunc_quads : (s.modFunc i f).quads = s.quads := rfl
@[simp] theorem State.modFunc_chans : (s.modFunc i f).chans = s.chans := rfl
@[simp] theorem State.modFunc_devs : (s.modFunc i f).devs = s.devs := rfl
@[simp] theorem State.modFunc_upds : (s.modFunc i f).upds = s.upds := rfl
@[simp] theorem State.modFunc_tblRegs : (s.modFunc i f).tblRegs = s.tblRegs := rfl
@[simp] theorem State.modFunc_links : (s.modFunc i f).links = s.links := rfl
@[simp] theorem State.modFunc_arbs : (s.modFunc i f).arbs = s.arbs := rfl
@[simp] theorem State.modFunc_hbms : (s.modFunc i f).hbms = s.hbms := rfl
@[simp] theorem State.modFunc_sites : (s.modFunc i f).sites = s.sites := rfl
@[simp] theorem State.modFunc_wards : (s.modFunc i f).wards = s.wards := rfl
@[simp] theorem State.modFunc_dieFenced : (s.modFunc i f).dieFenced = s.dieFenced := rfl
@[simp] theorem State.modFunc_modFenced : (s.modFunc i f).modFenced = s.modFenced := rfl
@[simp] theorem State.modFunc_beats : (s.modFunc i f).beats = s.beats := rfl
@[simp] theorem State.modFunc_funcs : (s.modFunc i f).funcs = Tab.modify s.funcs i f := rfl
@[simp] theorem State.modFunc_ports : (s.modFunc i f).ports = s.ports := rfl
@[simp] theorem State.modFunc_rings : (s.modFunc i f).rings = s.rings := rfl
@[simp] theorem State.modFunc_opens : (s.modFunc i f).opens = s.opens := rfl
@[simp] theorem State.modFunc_journal : (s.modFunc i f).journal = s.journal := rfl
@[simp] theorem State.modFunc_jrnNext : (s.modFunc i f).jrnNext = s.jrnNext := rfl
@[simp] theorem State.modFunc_jrnBoot : (s.modFunc i f).jrnBoot = s.jrnBoot := rfl
@[simp] theorem State.modFunc_relays : (s.modFunc i f).relays = s.relays := rfl
@[simp] theorem State.modFunc_routes : (s.modFunc i f).routes = s.routes := rfl
@[simp] theorem State.modFunc_tg : (s.modFunc i f).tg = s.tg := rfl
@[simp] theorem State.modFunc_tko : (s.modFunc i f).tko = s.tko := rfl
@[simp] theorem State.modFunc_tkoQueue : (s.modFunc i f).tkoQueue = s.tkoQueue := rfl
@[simp] theorem State.modFunc_heldXfers : (s.modFunc i f).heldXfers = s.heldXfers := rfl
@[simp] theorem State.modFunc_rot : (s.modFunc i f).rot = s.rot := rfl
@[simp] theorem State.modFunc_xferPaths : (s.modFunc i f).xferPaths = s.xferPaths := rfl
@[simp] theorem State.modFunc_xidNext : (s.modFunc i f).xidNext = s.xidNext := rfl
@[simp] theorem State.modFunc_uncounted : (s.modFunc i f).uncounted = s.uncounted := rfl
@[simp] theorem State.modFunc_peerReads : (s.modFunc i f).peerReads = s.peerReads := rfl
@[simp] theorem State.modFunc_trees : (s.modFunc i f).trees = s.trees := rfl
@[simp] theorem State.modFunc_mcWait : (s.modFunc i f).mcWait = s.mcWait := rfl
@[simp] theorem State.modFunc_tkoLog : (s.modFunc i f).tkoLog = s.tkoLog := rfl
@[simp] theorem State.modFunc_rollSends : (s.modFunc i f).rollSends = s.rollSends := rfl
@[simp] theorem State.modFunc_rollAt : (s.modFunc i f).rollAt = s.rollAt := rfl
@[simp] theorem State.modFunc_rollRounds : (s.modFunc i f).rollRounds = s.rollRounds := rfl
@[simp] theorem State.modFunc_rollHeld : (s.modFunc i f).rollHeld = s.rollHeld := rfl
@[simp] theorem State.modFunc_rollSelfDiv : (s.modFunc i f).rollSelfDiv = s.rollSelfDiv := rfl
@[simp] theorem State.modFunc_rollSelfBad : (s.modFunc i f).rollSelfBad = s.rollSelfBad := rfl
@[simp] theorem State.modFunc_rollDiv : (s.modFunc i f).rollDiv = s.rollDiv := rfl
@[simp] theorem State.modFunc_rollSilent : (s.modFunc i f).rollSilent = s.rollSilent := rfl
@[simp] theorem State.modFunc_rollRecs : (s.modFunc i f).rollRecs = s.rollRecs := rfl
@[simp] theorem State.modFunc_ctlTmo : (s.modFunc i f).ctlTmo = s.ctlTmo := rfl
@[simp] theorem State.modFunc_slots : (s.modFunc i f).slots = s.slots := rfl
@[simp] theorem State.modFunc_retires : (s.modFunc i f).retires = s.retires := rfl
@[simp] theorem State.modFunc_atts : (s.modFunc i f).atts = s.atts := rfl
@[simp] theorem State.modFunc_faults : (s.modFunc i f).faults = s.faults := rfl
@[simp] theorem State.modFunc_saf : (s.modFunc i f).saf = s.saf := rfl
@[simp] theorem State.modFunc_pwr : (s.modFunc i f).pwr = s.pwr := rfl
@[simp] theorem State.modFunc_boot : (s.modFunc i f).boot = s.boot := rfl
@[simp] theorem State.modFunc_flash : (s.modFunc i f).flash = s.flash := rfl
@[simp] theorem State.modFunc_sec : (s.modFunc i f).sec = s.sec := rfl
@[simp] theorem State.modFunc_sent : (s.modFunc i f).sent = s.sent := rfl
end

/-! ### modPort -/

section
variable (s : State) (i : Nat) (f : Port → Port)
@[simp] theorem State.modPort_pending : (s.modPort i f).pending = s.pending := rfl
@[simp] theorem State.modPort_fresh : (s.modPort i f).fresh = s.fresh := rfl
@[simp] theorem State.modPort_variant : (s.modPort i f).variant = s.variant := rfl
@[simp] theorem State.modPort_life : (s.modPort i f).life = s.life := rfl
@[simp] theorem State.modPort_image : (s.modPort i f).image = s.image := rfl
@[simp] theorem State.modPort_linkAddr : (s.modPort i f).linkAddr = s.linkAddr := rfl
@[simp] theorem State.modPort_standby : (s.modPort i f).standby = s.standby := rfl
@[simp] theorem State.modPort_tick : (s.modPort i f).tick = s.tick := rfl
@[simp] theorem State.modPort_mem : (s.modPort i f).mem = s.mem := rfl
@[simp] theorem State.modPort_secTags : (s.modPort i f).secTags = s.secTags := rfl
@[simp] theorem State.modPort_keyNext : (s.modPort i f).keyNext = s.keyNext := rfl
@[simp] theorem State.modPort_tiles : (s.modPort i f).tiles = s.tiles := rfl
@[simp] theorem State.modPort_quads : (s.modPort i f).quads = s.quads := rfl
@[simp] theorem State.modPort_chans : (s.modPort i f).chans = s.chans := rfl
@[simp] theorem State.modPort_devs : (s.modPort i f).devs = s.devs := rfl
@[simp] theorem State.modPort_upds : (s.modPort i f).upds = s.upds := rfl
@[simp] theorem State.modPort_tblRegs : (s.modPort i f).tblRegs = s.tblRegs := rfl
@[simp] theorem State.modPort_links : (s.modPort i f).links = s.links := rfl
@[simp] theorem State.modPort_arbs : (s.modPort i f).arbs = s.arbs := rfl
@[simp] theorem State.modPort_hbms : (s.modPort i f).hbms = s.hbms := rfl
@[simp] theorem State.modPort_sites : (s.modPort i f).sites = s.sites := rfl
@[simp] theorem State.modPort_wards : (s.modPort i f).wards = s.wards := rfl
@[simp] theorem State.modPort_dieFenced : (s.modPort i f).dieFenced = s.dieFenced := rfl
@[simp] theorem State.modPort_modFenced : (s.modPort i f).modFenced = s.modFenced := rfl
@[simp] theorem State.modPort_beats : (s.modPort i f).beats = s.beats := rfl
@[simp] theorem State.modPort_funcs : (s.modPort i f).funcs = s.funcs := rfl
@[simp] theorem State.modPort_ports : (s.modPort i f).ports = Tab.modify s.ports i f := rfl
@[simp] theorem State.modPort_rings : (s.modPort i f).rings = s.rings := rfl
@[simp] theorem State.modPort_opens : (s.modPort i f).opens = s.opens := rfl
@[simp] theorem State.modPort_journal : (s.modPort i f).journal = s.journal := rfl
@[simp] theorem State.modPort_jrnNext : (s.modPort i f).jrnNext = s.jrnNext := rfl
@[simp] theorem State.modPort_jrnBoot : (s.modPort i f).jrnBoot = s.jrnBoot := rfl
@[simp] theorem State.modPort_relays : (s.modPort i f).relays = s.relays := rfl
@[simp] theorem State.modPort_routes : (s.modPort i f).routes = s.routes := rfl
@[simp] theorem State.modPort_tg : (s.modPort i f).tg = s.tg := rfl
@[simp] theorem State.modPort_tko : (s.modPort i f).tko = s.tko := rfl
@[simp] theorem State.modPort_tkoQueue : (s.modPort i f).tkoQueue = s.tkoQueue := rfl
@[simp] theorem State.modPort_heldXfers : (s.modPort i f).heldXfers = s.heldXfers := rfl
@[simp] theorem State.modPort_rot : (s.modPort i f).rot = s.rot := rfl
@[simp] theorem State.modPort_xferPaths : (s.modPort i f).xferPaths = s.xferPaths := rfl
@[simp] theorem State.modPort_xidNext : (s.modPort i f).xidNext = s.xidNext := rfl
@[simp] theorem State.modPort_uncounted : (s.modPort i f).uncounted = s.uncounted := rfl
@[simp] theorem State.modPort_peerReads : (s.modPort i f).peerReads = s.peerReads := rfl
@[simp] theorem State.modPort_trees : (s.modPort i f).trees = s.trees := rfl
@[simp] theorem State.modPort_mcWait : (s.modPort i f).mcWait = s.mcWait := rfl
@[simp] theorem State.modPort_tkoLog : (s.modPort i f).tkoLog = s.tkoLog := rfl
@[simp] theorem State.modPort_rollSends : (s.modPort i f).rollSends = s.rollSends := rfl
@[simp] theorem State.modPort_rollAt : (s.modPort i f).rollAt = s.rollAt := rfl
@[simp] theorem State.modPort_rollRounds : (s.modPort i f).rollRounds = s.rollRounds := rfl
@[simp] theorem State.modPort_rollHeld : (s.modPort i f).rollHeld = s.rollHeld := rfl
@[simp] theorem State.modPort_rollSelfDiv : (s.modPort i f).rollSelfDiv = s.rollSelfDiv := rfl
@[simp] theorem State.modPort_rollSelfBad : (s.modPort i f).rollSelfBad = s.rollSelfBad := rfl
@[simp] theorem State.modPort_rollDiv : (s.modPort i f).rollDiv = s.rollDiv := rfl
@[simp] theorem State.modPort_rollSilent : (s.modPort i f).rollSilent = s.rollSilent := rfl
@[simp] theorem State.modPort_rollRecs : (s.modPort i f).rollRecs = s.rollRecs := rfl
@[simp] theorem State.modPort_ctlTmo : (s.modPort i f).ctlTmo = s.ctlTmo := rfl
@[simp] theorem State.modPort_slots : (s.modPort i f).slots = s.slots := rfl
@[simp] theorem State.modPort_retires : (s.modPort i f).retires = s.retires := rfl
@[simp] theorem State.modPort_atts : (s.modPort i f).atts = s.atts := rfl
@[simp] theorem State.modPort_faults : (s.modPort i f).faults = s.faults := rfl
@[simp] theorem State.modPort_saf : (s.modPort i f).saf = s.saf := rfl
@[simp] theorem State.modPort_pwr : (s.modPort i f).pwr = s.pwr := rfl
@[simp] theorem State.modPort_boot : (s.modPort i f).boot = s.boot := rfl
@[simp] theorem State.modPort_flash : (s.modPort i f).flash = s.flash := rfl
@[simp] theorem State.modPort_sec : (s.modPort i f).sec = s.sec := rfl
@[simp] theorem State.modPort_sent : (s.modPort i f).sent = s.sent := rfl
end

/-! ### modSlot -/

section
variable (s : State) (i : Nat) (f : Slot → Slot)
@[simp] theorem State.modSlot_pending : (s.modSlot i f).pending = s.pending := rfl
@[simp] theorem State.modSlot_fresh : (s.modSlot i f).fresh = s.fresh := rfl
@[simp] theorem State.modSlot_variant : (s.modSlot i f).variant = s.variant := rfl
@[simp] theorem State.modSlot_life : (s.modSlot i f).life = s.life := rfl
@[simp] theorem State.modSlot_image : (s.modSlot i f).image = s.image := rfl
@[simp] theorem State.modSlot_linkAddr : (s.modSlot i f).linkAddr = s.linkAddr := rfl
@[simp] theorem State.modSlot_standby : (s.modSlot i f).standby = s.standby := rfl
@[simp] theorem State.modSlot_tick : (s.modSlot i f).tick = s.tick := rfl
@[simp] theorem State.modSlot_mem : (s.modSlot i f).mem = s.mem := rfl
@[simp] theorem State.modSlot_secTags : (s.modSlot i f).secTags = s.secTags := rfl
@[simp] theorem State.modSlot_keyNext : (s.modSlot i f).keyNext = s.keyNext := rfl
@[simp] theorem State.modSlot_tiles : (s.modSlot i f).tiles = s.tiles := rfl
@[simp] theorem State.modSlot_quads : (s.modSlot i f).quads = s.quads := rfl
@[simp] theorem State.modSlot_chans : (s.modSlot i f).chans = s.chans := rfl
@[simp] theorem State.modSlot_devs : (s.modSlot i f).devs = s.devs := rfl
@[simp] theorem State.modSlot_upds : (s.modSlot i f).upds = s.upds := rfl
@[simp] theorem State.modSlot_tblRegs : (s.modSlot i f).tblRegs = s.tblRegs := rfl
@[simp] theorem State.modSlot_links : (s.modSlot i f).links = s.links := rfl
@[simp] theorem State.modSlot_arbs : (s.modSlot i f).arbs = s.arbs := rfl
@[simp] theorem State.modSlot_hbms : (s.modSlot i f).hbms = s.hbms := rfl
@[simp] theorem State.modSlot_sites : (s.modSlot i f).sites = s.sites := rfl
@[simp] theorem State.modSlot_wards : (s.modSlot i f).wards = s.wards := rfl
@[simp] theorem State.modSlot_dieFenced : (s.modSlot i f).dieFenced = s.dieFenced := rfl
@[simp] theorem State.modSlot_modFenced : (s.modSlot i f).modFenced = s.modFenced := rfl
@[simp] theorem State.modSlot_beats : (s.modSlot i f).beats = s.beats := rfl
@[simp] theorem State.modSlot_funcs : (s.modSlot i f).funcs = s.funcs := rfl
@[simp] theorem State.modSlot_ports : (s.modSlot i f).ports = s.ports := rfl
@[simp] theorem State.modSlot_rings : (s.modSlot i f).rings = s.rings := rfl
@[simp] theorem State.modSlot_opens : (s.modSlot i f).opens = s.opens := rfl
@[simp] theorem State.modSlot_journal : (s.modSlot i f).journal = s.journal := rfl
@[simp] theorem State.modSlot_jrnNext : (s.modSlot i f).jrnNext = s.jrnNext := rfl
@[simp] theorem State.modSlot_jrnBoot : (s.modSlot i f).jrnBoot = s.jrnBoot := rfl
@[simp] theorem State.modSlot_relays : (s.modSlot i f).relays = s.relays := rfl
@[simp] theorem State.modSlot_routes : (s.modSlot i f).routes = s.routes := rfl
@[simp] theorem State.modSlot_tg : (s.modSlot i f).tg = s.tg := rfl
@[simp] theorem State.modSlot_tko : (s.modSlot i f).tko = s.tko := rfl
@[simp] theorem State.modSlot_tkoQueue : (s.modSlot i f).tkoQueue = s.tkoQueue := rfl
@[simp] theorem State.modSlot_heldXfers : (s.modSlot i f).heldXfers = s.heldXfers := rfl
@[simp] theorem State.modSlot_rot : (s.modSlot i f).rot = s.rot := rfl
@[simp] theorem State.modSlot_xferPaths : (s.modSlot i f).xferPaths = s.xferPaths := rfl
@[simp] theorem State.modSlot_xidNext : (s.modSlot i f).xidNext = s.xidNext := rfl
@[simp] theorem State.modSlot_uncounted : (s.modSlot i f).uncounted = s.uncounted := rfl
@[simp] theorem State.modSlot_peerReads : (s.modSlot i f).peerReads = s.peerReads := rfl
@[simp] theorem State.modSlot_trees : (s.modSlot i f).trees = s.trees := rfl
@[simp] theorem State.modSlot_mcWait : (s.modSlot i f).mcWait = s.mcWait := rfl
@[simp] theorem State.modSlot_tkoLog : (s.modSlot i f).tkoLog = s.tkoLog := rfl
@[simp] theorem State.modSlot_rollSends : (s.modSlot i f).rollSends = s.rollSends := rfl
@[simp] theorem State.modSlot_rollAt : (s.modSlot i f).rollAt = s.rollAt := rfl
@[simp] theorem State.modSlot_rollRounds : (s.modSlot i f).rollRounds = s.rollRounds := rfl
@[simp] theorem State.modSlot_rollHeld : (s.modSlot i f).rollHeld = s.rollHeld := rfl
@[simp] theorem State.modSlot_rollSelfDiv : (s.modSlot i f).rollSelfDiv = s.rollSelfDiv := rfl
@[simp] theorem State.modSlot_rollSelfBad : (s.modSlot i f).rollSelfBad = s.rollSelfBad := rfl
@[simp] theorem State.modSlot_rollDiv : (s.modSlot i f).rollDiv = s.rollDiv := rfl
@[simp] theorem State.modSlot_rollSilent : (s.modSlot i f).rollSilent = s.rollSilent := rfl
@[simp] theorem State.modSlot_rollRecs : (s.modSlot i f).rollRecs = s.rollRecs := rfl
@[simp] theorem State.modSlot_ctlTmo : (s.modSlot i f).ctlTmo = s.ctlTmo := rfl
@[simp] theorem State.modSlot_slots : (s.modSlot i f).slots = Tab.modify s.slots i f := rfl
@[simp] theorem State.modSlot_retires : (s.modSlot i f).retires = s.retires := rfl
@[simp] theorem State.modSlot_atts : (s.modSlot i f).atts = s.atts := rfl
@[simp] theorem State.modSlot_faults : (s.modSlot i f).faults = s.faults := rfl
@[simp] theorem State.modSlot_saf : (s.modSlot i f).saf = s.saf := rfl
@[simp] theorem State.modSlot_pwr : (s.modSlot i f).pwr = s.pwr := rfl
@[simp] theorem State.modSlot_boot : (s.modSlot i f).boot = s.boot := rfl
@[simp] theorem State.modSlot_flash : (s.modSlot i f).flash = s.flash := rfl
@[simp] theorem State.modSlot_sec : (s.modSlot i f).sec = s.sec := rfl
@[simp] theorem State.modSlot_sent : (s.modSlot i f).sent = s.sent := rfl
end

/-! ### modSite -/

section
variable (s : State) (i : Nat) (f : Site → Site)
@[simp] theorem State.modSite_pending : (s.modSite i f).pending = s.pending := rfl
@[simp] theorem State.modSite_fresh : (s.modSite i f).fresh = s.fresh := rfl
@[simp] theorem State.modSite_variant : (s.modSite i f).variant = s.variant := rfl
@[simp] theorem State.modSite_life : (s.modSite i f).life = s.life := rfl
@[simp] theorem State.modSite_image : (s.modSite i f).image = s.image := rfl
@[simp] theorem State.modSite_linkAddr : (s.modSite i f).linkAddr = s.linkAddr := rfl
@[simp] theorem State.modSite_standby : (s.modSite i f).standby = s.standby := rfl
@[simp] theorem State.modSite_tick : (s.modSite i f).tick = s.tick := rfl
@[simp] theorem State.modSite_mem : (s.modSite i f).mem = s.mem := rfl
@[simp] theorem State.modSite_secTags : (s.modSite i f).secTags = s.secTags := rfl
@[simp] theorem State.modSite_keyNext : (s.modSite i f).keyNext = s.keyNext := rfl
@[simp] theorem State.modSite_tiles : (s.modSite i f).tiles = s.tiles := rfl
@[simp] theorem State.modSite_quads : (s.modSite i f).quads = s.quads := rfl
@[simp] theorem State.modSite_chans : (s.modSite i f).chans = s.chans := rfl
@[simp] theorem State.modSite_devs : (s.modSite i f).devs = s.devs := rfl
@[simp] theorem State.modSite_upds : (s.modSite i f).upds = s.upds := rfl
@[simp] theorem State.modSite_tblRegs : (s.modSite i f).tblRegs = s.tblRegs := rfl
@[simp] theorem State.modSite_links : (s.modSite i f).links = s.links := rfl
@[simp] theorem State.modSite_arbs : (s.modSite i f).arbs = s.arbs := rfl
@[simp] theorem State.modSite_hbms : (s.modSite i f).hbms = s.hbms := rfl
@[simp] theorem State.modSite_sites : (s.modSite i f).sites = Tab.modify s.sites i f := rfl
@[simp] theorem State.modSite_wards : (s.modSite i f).wards = s.wards := rfl
@[simp] theorem State.modSite_dieFenced : (s.modSite i f).dieFenced = s.dieFenced := rfl
@[simp] theorem State.modSite_modFenced : (s.modSite i f).modFenced = s.modFenced := rfl
@[simp] theorem State.modSite_beats : (s.modSite i f).beats = s.beats := rfl
@[simp] theorem State.modSite_funcs : (s.modSite i f).funcs = s.funcs := rfl
@[simp] theorem State.modSite_ports : (s.modSite i f).ports = s.ports := rfl
@[simp] theorem State.modSite_rings : (s.modSite i f).rings = s.rings := rfl
@[simp] theorem State.modSite_opens : (s.modSite i f).opens = s.opens := rfl
@[simp] theorem State.modSite_journal : (s.modSite i f).journal = s.journal := rfl
@[simp] theorem State.modSite_jrnNext : (s.modSite i f).jrnNext = s.jrnNext := rfl
@[simp] theorem State.modSite_jrnBoot : (s.modSite i f).jrnBoot = s.jrnBoot := rfl
@[simp] theorem State.modSite_relays : (s.modSite i f).relays = s.relays := rfl
@[simp] theorem State.modSite_routes : (s.modSite i f).routes = s.routes := rfl
@[simp] theorem State.modSite_tg : (s.modSite i f).tg = s.tg := rfl
@[simp] theorem State.modSite_tko : (s.modSite i f).tko = s.tko := rfl
@[simp] theorem State.modSite_tkoQueue : (s.modSite i f).tkoQueue = s.tkoQueue := rfl
@[simp] theorem State.modSite_heldXfers : (s.modSite i f).heldXfers = s.heldXfers := rfl
@[simp] theorem State.modSite_rot : (s.modSite i f).rot = s.rot := rfl
@[simp] theorem State.modSite_xferPaths : (s.modSite i f).xferPaths = s.xferPaths := rfl
@[simp] theorem State.modSite_xidNext : (s.modSite i f).xidNext = s.xidNext := rfl
@[simp] theorem State.modSite_uncounted : (s.modSite i f).uncounted = s.uncounted := rfl
@[simp] theorem State.modSite_peerReads : (s.modSite i f).peerReads = s.peerReads := rfl
@[simp] theorem State.modSite_trees : (s.modSite i f).trees = s.trees := rfl
@[simp] theorem State.modSite_mcWait : (s.modSite i f).mcWait = s.mcWait := rfl
@[simp] theorem State.modSite_tkoLog : (s.modSite i f).tkoLog = s.tkoLog := rfl
@[simp] theorem State.modSite_rollSends : (s.modSite i f).rollSends = s.rollSends := rfl
@[simp] theorem State.modSite_rollAt : (s.modSite i f).rollAt = s.rollAt := rfl
@[simp] theorem State.modSite_rollRounds : (s.modSite i f).rollRounds = s.rollRounds := rfl
@[simp] theorem State.modSite_rollHeld : (s.modSite i f).rollHeld = s.rollHeld := rfl
@[simp] theorem State.modSite_rollSelfDiv : (s.modSite i f).rollSelfDiv = s.rollSelfDiv := rfl
@[simp] theorem State.modSite_rollSelfBad : (s.modSite i f).rollSelfBad = s.rollSelfBad := rfl
@[simp] theorem State.modSite_rollDiv : (s.modSite i f).rollDiv = s.rollDiv := rfl
@[simp] theorem State.modSite_rollSilent : (s.modSite i f).rollSilent = s.rollSilent := rfl
@[simp] theorem State.modSite_rollRecs : (s.modSite i f).rollRecs = s.rollRecs := rfl
@[simp] theorem State.modSite_ctlTmo : (s.modSite i f).ctlTmo = s.ctlTmo := rfl
@[simp] theorem State.modSite_slots : (s.modSite i f).slots = s.slots := rfl
@[simp] theorem State.modSite_retires : (s.modSite i f).retires = s.retires := rfl
@[simp] theorem State.modSite_atts : (s.modSite i f).atts = s.atts := rfl
@[simp] theorem State.modSite_faults : (s.modSite i f).faults = s.faults := rfl
@[simp] theorem State.modSite_saf : (s.modSite i f).saf = s.saf := rfl
@[simp] theorem State.modSite_pwr : (s.modSite i f).pwr = s.pwr := rfl
@[simp] theorem State.modSite_boot : (s.modSite i f).boot = s.boot := rfl
@[simp] theorem State.modSite_flash : (s.modSite i f).flash = s.flash := rfl
@[simp] theorem State.modSite_sec : (s.modSite i f).sec = s.sec := rfl
@[simp] theorem State.modSite_sent : (s.modSite i f).sent = s.sent := rfl
end

/-! ### emit -/

section
variable (s : State) (o : Output)
@[simp] theorem State.emit_pending : (s.emit o).pending = s.pending := rfl
@[simp] theorem State.emit_fresh : (s.emit o).fresh = s.fresh := rfl
@[simp] theorem State.emit_variant : (s.emit o).variant = s.variant := rfl
@[simp] theorem State.emit_life : (s.emit o).life = s.life := rfl
@[simp] theorem State.emit_image : (s.emit o).image = s.image := rfl
@[simp] theorem State.emit_linkAddr : (s.emit o).linkAddr = s.linkAddr := rfl
@[simp] theorem State.emit_standby : (s.emit o).standby = s.standby := rfl
@[simp] theorem State.emit_tick : (s.emit o).tick = s.tick := rfl
@[simp] theorem State.emit_mem : (s.emit o).mem = s.mem := rfl
@[simp] theorem State.emit_secTags : (s.emit o).secTags = s.secTags := rfl
@[simp] theorem State.emit_keyNext : (s.emit o).keyNext = s.keyNext := rfl
@[simp] theorem State.emit_tiles : (s.emit o).tiles = s.tiles := rfl
@[simp] theorem State.emit_quads : (s.emit o).quads = s.quads := rfl
@[simp] theorem State.emit_chans : (s.emit o).chans = s.chans := rfl
@[simp] theorem State.emit_devs : (s.emit o).devs = s.devs := rfl
@[simp] theorem State.emit_upds : (s.emit o).upds = s.upds := rfl
@[simp] theorem State.emit_tblRegs : (s.emit o).tblRegs = s.tblRegs := rfl
@[simp] theorem State.emit_links : (s.emit o).links = s.links := rfl
@[simp] theorem State.emit_arbs : (s.emit o).arbs = s.arbs := rfl
@[simp] theorem State.emit_hbms : (s.emit o).hbms = s.hbms := rfl
@[simp] theorem State.emit_sites : (s.emit o).sites = s.sites := rfl
@[simp] theorem State.emit_wards : (s.emit o).wards = s.wards := rfl
@[simp] theorem State.emit_dieFenced : (s.emit o).dieFenced = s.dieFenced := rfl
@[simp] theorem State.emit_modFenced : (s.emit o).modFenced = s.modFenced := rfl
@[simp] theorem State.emit_beats : (s.emit o).beats = s.beats := rfl
@[simp] theorem State.emit_funcs : (s.emit o).funcs = s.funcs := rfl
@[simp] theorem State.emit_ports : (s.emit o).ports = s.ports := rfl
@[simp] theorem State.emit_rings : (s.emit o).rings = s.rings := rfl
@[simp] theorem State.emit_opens : (s.emit o).opens = s.opens := rfl
@[simp] theorem State.emit_journal : (s.emit o).journal = s.journal := rfl
@[simp] theorem State.emit_jrnNext : (s.emit o).jrnNext = s.jrnNext := rfl
@[simp] theorem State.emit_jrnBoot : (s.emit o).jrnBoot = s.jrnBoot := rfl
@[simp] theorem State.emit_relays : (s.emit o).relays = s.relays := rfl
@[simp] theorem State.emit_routes : (s.emit o).routes = s.routes := rfl
@[simp] theorem State.emit_tg : (s.emit o).tg = s.tg := rfl
@[simp] theorem State.emit_tko : (s.emit o).tko = s.tko := rfl
@[simp] theorem State.emit_tkoQueue : (s.emit o).tkoQueue = s.tkoQueue := rfl
@[simp] theorem State.emit_heldXfers : (s.emit o).heldXfers = s.heldXfers := rfl
@[simp] theorem State.emit_rot : (s.emit o).rot = s.rot := rfl
@[simp] theorem State.emit_xferPaths : (s.emit o).xferPaths = s.xferPaths := rfl
@[simp] theorem State.emit_xidNext : (s.emit o).xidNext = s.xidNext := rfl
@[simp] theorem State.emit_uncounted : (s.emit o).uncounted = s.uncounted := rfl
@[simp] theorem State.emit_peerReads : (s.emit o).peerReads = s.peerReads := rfl
@[simp] theorem State.emit_trees : (s.emit o).trees = s.trees := rfl
@[simp] theorem State.emit_mcWait : (s.emit o).mcWait = s.mcWait := rfl
@[simp] theorem State.emit_tkoLog : (s.emit o).tkoLog = s.tkoLog := rfl
@[simp] theorem State.emit_rollSends : (s.emit o).rollSends = s.rollSends := rfl
@[simp] theorem State.emit_rollAt : (s.emit o).rollAt = s.rollAt := rfl
@[simp] theorem State.emit_rollRounds : (s.emit o).rollRounds = s.rollRounds := rfl
@[simp] theorem State.emit_rollHeld : (s.emit o).rollHeld = s.rollHeld := rfl
@[simp] theorem State.emit_rollSelfDiv : (s.emit o).rollSelfDiv = s.rollSelfDiv := rfl
@[simp] theorem State.emit_rollSelfBad : (s.emit o).rollSelfBad = s.rollSelfBad := rfl
@[simp] theorem State.emit_rollDiv : (s.emit o).rollDiv = s.rollDiv := rfl
@[simp] theorem State.emit_rollSilent : (s.emit o).rollSilent = s.rollSilent := rfl
@[simp] theorem State.emit_rollRecs : (s.emit o).rollRecs = s.rollRecs := rfl
@[simp] theorem State.emit_ctlTmo : (s.emit o).ctlTmo = s.ctlTmo := rfl
@[simp] theorem State.emit_slots : (s.emit o).slots = s.slots := rfl
@[simp] theorem State.emit_retires : (s.emit o).retires = s.retires := rfl
@[simp] theorem State.emit_atts : (s.emit o).atts = s.atts := rfl
@[simp] theorem State.emit_faults : (s.emit o).faults = s.faults := rfl
@[simp] theorem State.emit_saf : (s.emit o).saf = s.saf := rfl
@[simp] theorem State.emit_pwr : (s.emit o).pwr = s.pwr := rfl
@[simp] theorem State.emit_boot : (s.emit o).boot = s.boot := rfl
@[simp] theorem State.emit_flash : (s.emit o).flash = s.flash := rfl
@[simp] theorem State.emit_sec : (s.emit o).sec = s.sec := rfl
end

@[simp] theorem State.emit_sent (s : State) (o : Output) : (s.emit o).sent = s.sent ++ [o] := rfl

/-! ### wrByte -/

section
variable (s : State) (pa : Nat) (b : Byte)
@[simp] theorem State.wrByte_pending : (s.wrByte pa b).pending = s.pending := rfl
@[simp] theorem State.wrByte_fresh : (s.wrByte pa b).fresh = s.fresh := rfl
@[simp] theorem State.wrByte_variant : (s.wrByte pa b).variant = s.variant := rfl
@[simp] theorem State.wrByte_life : (s.wrByte pa b).life = s.life := rfl
@[simp] theorem State.wrByte_image : (s.wrByte pa b).image = s.image := rfl
@[simp] theorem State.wrByte_linkAddr : (s.wrByte pa b).linkAddr = s.linkAddr := rfl
@[simp] theorem State.wrByte_standby : (s.wrByte pa b).standby = s.standby := rfl
@[simp] theorem State.wrByte_tick : (s.wrByte pa b).tick = s.tick := rfl
@[simp] theorem State.wrByte_secTags : (s.wrByte pa b).secTags = s.secTags := rfl
@[simp] theorem State.wrByte_keyNext : (s.wrByte pa b).keyNext = s.keyNext := rfl
@[simp] theorem State.wrByte_tiles : (s.wrByte pa b).tiles = s.tiles := rfl
@[simp] theorem State.wrByte_quads : (s.wrByte pa b).quads = s.quads := rfl
@[simp] theorem State.wrByte_chans : (s.wrByte pa b).chans = s.chans := rfl
@[simp] theorem State.wrByte_devs : (s.wrByte pa b).devs = s.devs := rfl
@[simp] theorem State.wrByte_upds : (s.wrByte pa b).upds = s.upds := rfl
@[simp] theorem State.wrByte_tblRegs : (s.wrByte pa b).tblRegs = s.tblRegs := rfl
@[simp] theorem State.wrByte_links : (s.wrByte pa b).links = s.links := rfl
@[simp] theorem State.wrByte_arbs : (s.wrByte pa b).arbs = s.arbs := rfl
@[simp] theorem State.wrByte_hbms : (s.wrByte pa b).hbms = s.hbms := rfl
@[simp] theorem State.wrByte_sites : (s.wrByte pa b).sites = s.sites := rfl
@[simp] theorem State.wrByte_wards : (s.wrByte pa b).wards = s.wards := rfl
@[simp] theorem State.wrByte_dieFenced : (s.wrByte pa b).dieFenced = s.dieFenced := rfl
@[simp] theorem State.wrByte_modFenced : (s.wrByte pa b).modFenced = s.modFenced := rfl
@[simp] theorem State.wrByte_beats : (s.wrByte pa b).beats = s.beats := rfl
@[simp] theorem State.wrByte_funcs : (s.wrByte pa b).funcs = s.funcs := rfl
@[simp] theorem State.wrByte_ports : (s.wrByte pa b).ports = s.ports := rfl
@[simp] theorem State.wrByte_rings : (s.wrByte pa b).rings = s.rings := rfl
@[simp] theorem State.wrByte_opens : (s.wrByte pa b).opens = s.opens := rfl
@[simp] theorem State.wrByte_journal : (s.wrByte pa b).journal = s.journal := rfl
@[simp] theorem State.wrByte_jrnNext : (s.wrByte pa b).jrnNext = s.jrnNext := rfl
@[simp] theorem State.wrByte_jrnBoot : (s.wrByte pa b).jrnBoot = s.jrnBoot := rfl
@[simp] theorem State.wrByte_relays : (s.wrByte pa b).relays = s.relays := rfl
@[simp] theorem State.wrByte_routes : (s.wrByte pa b).routes = s.routes := rfl
@[simp] theorem State.wrByte_tg : (s.wrByte pa b).tg = s.tg := rfl
@[simp] theorem State.wrByte_tko : (s.wrByte pa b).tko = s.tko := rfl
@[simp] theorem State.wrByte_tkoQueue : (s.wrByte pa b).tkoQueue = s.tkoQueue := rfl
@[simp] theorem State.wrByte_heldXfers : (s.wrByte pa b).heldXfers = s.heldXfers := rfl
@[simp] theorem State.wrByte_rot : (s.wrByte pa b).rot = s.rot := rfl
@[simp] theorem State.wrByte_xferPaths : (s.wrByte pa b).xferPaths = s.xferPaths := rfl
@[simp] theorem State.wrByte_xidNext : (s.wrByte pa b).xidNext = s.xidNext := rfl
@[simp] theorem State.wrByte_uncounted : (s.wrByte pa b).uncounted = s.uncounted := rfl
@[simp] theorem State.wrByte_peerReads : (s.wrByte pa b).peerReads = s.peerReads := rfl
@[simp] theorem State.wrByte_trees : (s.wrByte pa b).trees = s.trees := rfl
@[simp] theorem State.wrByte_mcWait : (s.wrByte pa b).mcWait = s.mcWait := rfl
@[simp] theorem State.wrByte_tkoLog : (s.wrByte pa b).tkoLog = s.tkoLog := rfl
@[simp] theorem State.wrByte_rollSends : (s.wrByte pa b).rollSends = s.rollSends := rfl
@[simp] theorem State.wrByte_rollAt : (s.wrByte pa b).rollAt = s.rollAt := rfl
@[simp] theorem State.wrByte_rollRounds : (s.wrByte pa b).rollRounds = s.rollRounds := rfl
@[simp] theorem State.wrByte_rollHeld : (s.wrByte pa b).rollHeld = s.rollHeld := rfl
@[simp] theorem State.wrByte_rollSelfDiv : (s.wrByte pa b).rollSelfDiv = s.rollSelfDiv := rfl
@[simp] theorem State.wrByte_rollSelfBad : (s.wrByte pa b).rollSelfBad = s.rollSelfBad := rfl
@[simp] theorem State.wrByte_rollDiv : (s.wrByte pa b).rollDiv = s.rollDiv := rfl
@[simp] theorem State.wrByte_rollSilent : (s.wrByte pa b).rollSilent = s.rollSilent := rfl
@[simp] theorem State.wrByte_rollRecs : (s.wrByte pa b).rollRecs = s.rollRecs := rfl
@[simp] theorem State.wrByte_ctlTmo : (s.wrByte pa b).ctlTmo = s.ctlTmo := rfl
@[simp] theorem State.wrByte_slots : (s.wrByte pa b).slots = s.slots := rfl
@[simp] theorem State.wrByte_retires : (s.wrByte pa b).retires = s.retires := rfl
@[simp] theorem State.wrByte_atts : (s.wrByte pa b).atts = s.atts := rfl
@[simp] theorem State.wrByte_faults : (s.wrByte pa b).faults = s.faults := rfl
@[simp] theorem State.wrByte_saf : (s.wrByte pa b).saf = s.saf := rfl
@[simp] theorem State.wrByte_pwr : (s.wrByte pa b).pwr = s.pwr := rfl
@[simp] theorem State.wrByte_boot : (s.wrByte pa b).boot = s.boot := rfl
@[simp] theorem State.wrByte_flash : (s.wrByte pa b).flash = s.flash := rfl
@[simp] theorem State.wrByte_sec : (s.wrByte pa b).sec = s.sec := rfl
@[simp] theorem State.wrByte_sent : (s.wrByte pa b).sent = s.sent := rfl
end

/-! ### wrBytes -/

section
variable (s : State) (pa : Nat) (bs : List Byte)
@[simp] theorem State.wrBytes_pending : (s.wrBytes pa bs).pending = s.pending := rfl
@[simp] theorem State.wrBytes_fresh : (s.wrBytes pa bs).fresh = s.fresh := rfl
@[simp] theorem State.wrBytes_variant : (s.wrBytes pa bs).variant = s.variant := rfl
@[simp] theorem State.wrBytes_life : (s.wrBytes pa bs).life = s.life := rfl
@[simp] theorem State.wrBytes_image : (s.wrBytes pa bs).image = s.image := rfl
@[simp] theorem State.wrBytes_linkAddr : (s.wrBytes pa bs).linkAddr = s.linkAddr := rfl
@[simp] theorem State.wrBytes_standby : (s.wrBytes pa bs).standby = s.standby := rfl
@[simp] theorem State.wrBytes_tick : (s.wrBytes pa bs).tick = s.tick := rfl
@[simp] theorem State.wrBytes_secTags : (s.wrBytes pa bs).secTags = s.secTags := rfl
@[simp] theorem State.wrBytes_keyNext : (s.wrBytes pa bs).keyNext = s.keyNext := rfl
@[simp] theorem State.wrBytes_tiles : (s.wrBytes pa bs).tiles = s.tiles := rfl
@[simp] theorem State.wrBytes_quads : (s.wrBytes pa bs).quads = s.quads := rfl
@[simp] theorem State.wrBytes_chans : (s.wrBytes pa bs).chans = s.chans := rfl
@[simp] theorem State.wrBytes_devs : (s.wrBytes pa bs).devs = s.devs := rfl
@[simp] theorem State.wrBytes_upds : (s.wrBytes pa bs).upds = s.upds := rfl
@[simp] theorem State.wrBytes_tblRegs : (s.wrBytes pa bs).tblRegs = s.tblRegs := rfl
@[simp] theorem State.wrBytes_links : (s.wrBytes pa bs).links = s.links := rfl
@[simp] theorem State.wrBytes_arbs : (s.wrBytes pa bs).arbs = s.arbs := rfl
@[simp] theorem State.wrBytes_hbms : (s.wrBytes pa bs).hbms = s.hbms := rfl
@[simp] theorem State.wrBytes_sites : (s.wrBytes pa bs).sites = s.sites := rfl
@[simp] theorem State.wrBytes_wards : (s.wrBytes pa bs).wards = s.wards := rfl
@[simp] theorem State.wrBytes_dieFenced : (s.wrBytes pa bs).dieFenced = s.dieFenced := rfl
@[simp] theorem State.wrBytes_modFenced : (s.wrBytes pa bs).modFenced = s.modFenced := rfl
@[simp] theorem State.wrBytes_beats : (s.wrBytes pa bs).beats = s.beats := rfl
@[simp] theorem State.wrBytes_funcs : (s.wrBytes pa bs).funcs = s.funcs := rfl
@[simp] theorem State.wrBytes_ports : (s.wrBytes pa bs).ports = s.ports := rfl
@[simp] theorem State.wrBytes_rings : (s.wrBytes pa bs).rings = s.rings := rfl
@[simp] theorem State.wrBytes_opens : (s.wrBytes pa bs).opens = s.opens := rfl
@[simp] theorem State.wrBytes_journal : (s.wrBytes pa bs).journal = s.journal := rfl
@[simp] theorem State.wrBytes_jrnNext : (s.wrBytes pa bs).jrnNext = s.jrnNext := rfl
@[simp] theorem State.wrBytes_jrnBoot : (s.wrBytes pa bs).jrnBoot = s.jrnBoot := rfl
@[simp] theorem State.wrBytes_relays : (s.wrBytes pa bs).relays = s.relays := rfl
@[simp] theorem State.wrBytes_routes : (s.wrBytes pa bs).routes = s.routes := rfl
@[simp] theorem State.wrBytes_tg : (s.wrBytes pa bs).tg = s.tg := rfl
@[simp] theorem State.wrBytes_tko : (s.wrBytes pa bs).tko = s.tko := rfl
@[simp] theorem State.wrBytes_tkoQueue : (s.wrBytes pa bs).tkoQueue = s.tkoQueue := rfl
@[simp] theorem State.wrBytes_heldXfers : (s.wrBytes pa bs).heldXfers = s.heldXfers := rfl
@[simp] theorem State.wrBytes_rot : (s.wrBytes pa bs).rot = s.rot := rfl
@[simp] theorem State.wrBytes_xferPaths : (s.wrBytes pa bs).xferPaths = s.xferPaths := rfl
@[simp] theorem State.wrBytes_xidNext : (s.wrBytes pa bs).xidNext = s.xidNext := rfl
@[simp] theorem State.wrBytes_uncounted : (s.wrBytes pa bs).uncounted = s.uncounted := rfl
@[simp] theorem State.wrBytes_peerReads : (s.wrBytes pa bs).peerReads = s.peerReads := rfl
@[simp] theorem State.wrBytes_trees : (s.wrBytes pa bs).trees = s.trees := rfl
@[simp] theorem State.wrBytes_mcWait : (s.wrBytes pa bs).mcWait = s.mcWait := rfl
@[simp] theorem State.wrBytes_tkoLog : (s.wrBytes pa bs).tkoLog = s.tkoLog := rfl
@[simp] theorem State.wrBytes_rollSends : (s.wrBytes pa bs).rollSends = s.rollSends := rfl
@[simp] theorem State.wrBytes_rollAt : (s.wrBytes pa bs).rollAt = s.rollAt := rfl
@[simp] theorem State.wrBytes_rollRounds : (s.wrBytes pa bs).rollRounds = s.rollRounds := rfl
@[simp] theorem State.wrBytes_rollHeld : (s.wrBytes pa bs).rollHeld = s.rollHeld := rfl
@[simp] theorem State.wrBytes_rollSelfDiv : (s.wrBytes pa bs).rollSelfDiv = s.rollSelfDiv := rfl
@[simp] theorem State.wrBytes_rollSelfBad : (s.wrBytes pa bs).rollSelfBad = s.rollSelfBad := rfl
@[simp] theorem State.wrBytes_rollDiv : (s.wrBytes pa bs).rollDiv = s.rollDiv := rfl
@[simp] theorem State.wrBytes_rollSilent : (s.wrBytes pa bs).rollSilent = s.rollSilent := rfl
@[simp] theorem State.wrBytes_rollRecs : (s.wrBytes pa bs).rollRecs = s.rollRecs := rfl
@[simp] theorem State.wrBytes_ctlTmo : (s.wrBytes pa bs).ctlTmo = s.ctlTmo := rfl
@[simp] theorem State.wrBytes_slots : (s.wrBytes pa bs).slots = s.slots := rfl
@[simp] theorem State.wrBytes_retires : (s.wrBytes pa bs).retires = s.retires := rfl
@[simp] theorem State.wrBytes_atts : (s.wrBytes pa bs).atts = s.atts := rfl
@[simp] theorem State.wrBytes_faults : (s.wrBytes pa bs).faults = s.faults := rfl
@[simp] theorem State.wrBytes_saf : (s.wrBytes pa bs).saf = s.saf := rfl
@[simp] theorem State.wrBytes_pwr : (s.wrBytes pa bs).pwr = s.pwr := rfl
@[simp] theorem State.wrBytes_boot : (s.wrBytes pa bs).boot = s.boot := rfl
@[simp] theorem State.wrBytes_flash : (s.wrBytes pa bs).flash = s.flash := rfl
@[simp] theorem State.wrBytes_sec : (s.wrBytes pa bs).sec = s.sec := rfl
@[simp] theorem State.wrBytes_sent : (s.wrBytes pa bs).sent = s.sent := rfl
end

/-! ### clearRange -/

section
variable (s : State) (pa n : Nat)
@[simp] theorem State.clearRange_pending : (s.clearRange pa n).pending = s.pending := rfl
@[simp] theorem State.clearRange_fresh : (s.clearRange pa n).fresh = s.fresh := rfl
@[simp] theorem State.clearRange_variant : (s.clearRange pa n).variant = s.variant := rfl
@[simp] theorem State.clearRange_life : (s.clearRange pa n).life = s.life := rfl
@[simp] theorem State.clearRange_image : (s.clearRange pa n).image = s.image := rfl
@[simp] theorem State.clearRange_linkAddr : (s.clearRange pa n).linkAddr = s.linkAddr := rfl
@[simp] theorem State.clearRange_standby : (s.clearRange pa n).standby = s.standby := rfl
@[simp] theorem State.clearRange_tick : (s.clearRange pa n).tick = s.tick := rfl
@[simp] theorem State.clearRange_secTags : (s.clearRange pa n).secTags = s.secTags := rfl
@[simp] theorem State.clearRange_keyNext : (s.clearRange pa n).keyNext = s.keyNext := rfl
@[simp] theorem State.clearRange_tiles : (s.clearRange pa n).tiles = s.tiles := rfl
@[simp] theorem State.clearRange_quads : (s.clearRange pa n).quads = s.quads := rfl
@[simp] theorem State.clearRange_chans : (s.clearRange pa n).chans = s.chans := rfl
@[simp] theorem State.clearRange_devs : (s.clearRange pa n).devs = s.devs := rfl
@[simp] theorem State.clearRange_upds : (s.clearRange pa n).upds = s.upds := rfl
@[simp] theorem State.clearRange_tblRegs : (s.clearRange pa n).tblRegs = s.tblRegs := rfl
@[simp] theorem State.clearRange_links : (s.clearRange pa n).links = s.links := rfl
@[simp] theorem State.clearRange_arbs : (s.clearRange pa n).arbs = s.arbs := rfl
@[simp] theorem State.clearRange_hbms : (s.clearRange pa n).hbms = s.hbms := rfl
@[simp] theorem State.clearRange_sites : (s.clearRange pa n).sites = s.sites := rfl
@[simp] theorem State.clearRange_wards : (s.clearRange pa n).wards = s.wards := rfl
@[simp] theorem State.clearRange_dieFenced : (s.clearRange pa n).dieFenced = s.dieFenced := rfl
@[simp] theorem State.clearRange_modFenced : (s.clearRange pa n).modFenced = s.modFenced := rfl
@[simp] theorem State.clearRange_beats : (s.clearRange pa n).beats = s.beats := rfl
@[simp] theorem State.clearRange_funcs : (s.clearRange pa n).funcs = s.funcs := rfl
@[simp] theorem State.clearRange_ports : (s.clearRange pa n).ports = s.ports := rfl
@[simp] theorem State.clearRange_rings : (s.clearRange pa n).rings = s.rings := rfl
@[simp] theorem State.clearRange_opens : (s.clearRange pa n).opens = s.opens := rfl
@[simp] theorem State.clearRange_journal : (s.clearRange pa n).journal = s.journal := rfl
@[simp] theorem State.clearRange_jrnNext : (s.clearRange pa n).jrnNext = s.jrnNext := rfl
@[simp] theorem State.clearRange_jrnBoot : (s.clearRange pa n).jrnBoot = s.jrnBoot := rfl
@[simp] theorem State.clearRange_relays : (s.clearRange pa n).relays = s.relays := rfl
@[simp] theorem State.clearRange_routes : (s.clearRange pa n).routes = s.routes := rfl
@[simp] theorem State.clearRange_tg : (s.clearRange pa n).tg = s.tg := rfl
@[simp] theorem State.clearRange_tko : (s.clearRange pa n).tko = s.tko := rfl
@[simp] theorem State.clearRange_tkoQueue : (s.clearRange pa n).tkoQueue = s.tkoQueue := rfl
@[simp] theorem State.clearRange_heldXfers : (s.clearRange pa n).heldXfers = s.heldXfers := rfl
@[simp] theorem State.clearRange_rot : (s.clearRange pa n).rot = s.rot := rfl
@[simp] theorem State.clearRange_xferPaths : (s.clearRange pa n).xferPaths = s.xferPaths := rfl
@[simp] theorem State.clearRange_xidNext : (s.clearRange pa n).xidNext = s.xidNext := rfl
@[simp] theorem State.clearRange_uncounted : (s.clearRange pa n).uncounted = s.uncounted := rfl
@[simp] theorem State.clearRange_peerReads : (s.clearRange pa n).peerReads = s.peerReads := rfl
@[simp] theorem State.clearRange_trees : (s.clearRange pa n).trees = s.trees := rfl
@[simp] theorem State.clearRange_mcWait : (s.clearRange pa n).mcWait = s.mcWait := rfl
@[simp] theorem State.clearRange_tkoLog : (s.clearRange pa n).tkoLog = s.tkoLog := rfl
@[simp] theorem State.clearRange_rollSends : (s.clearRange pa n).rollSends = s.rollSends := rfl
@[simp] theorem State.clearRange_rollAt : (s.clearRange pa n).rollAt = s.rollAt := rfl
@[simp] theorem State.clearRange_rollRounds : (s.clearRange pa n).rollRounds = s.rollRounds := rfl
@[simp] theorem State.clearRange_rollHeld : (s.clearRange pa n).rollHeld = s.rollHeld := rfl
@[simp] theorem State.clearRange_rollSelfDiv : (s.clearRange pa n).rollSelfDiv = s.rollSelfDiv := rfl
@[simp] theorem State.clearRange_rollSelfBad : (s.clearRange pa n).rollSelfBad = s.rollSelfBad := rfl
@[simp] theorem State.clearRange_rollDiv : (s.clearRange pa n).rollDiv = s.rollDiv := rfl
@[simp] theorem State.clearRange_rollSilent : (s.clearRange pa n).rollSilent = s.rollSilent := rfl
@[simp] theorem State.clearRange_rollRecs : (s.clearRange pa n).rollRecs = s.rollRecs := rfl
@[simp] theorem State.clearRange_ctlTmo : (s.clearRange pa n).ctlTmo = s.ctlTmo := rfl
@[simp] theorem State.clearRange_slots : (s.clearRange pa n).slots = s.slots := rfl
@[simp] theorem State.clearRange_retires : (s.clearRange pa n).retires = s.retires := rfl
@[simp] theorem State.clearRange_atts : (s.clearRange pa n).atts = s.atts := rfl
@[simp] theorem State.clearRange_faults : (s.clearRange pa n).faults = s.faults := rfl
@[simp] theorem State.clearRange_saf : (s.clearRange pa n).saf = s.saf := rfl
@[simp] theorem State.clearRange_pwr : (s.clearRange pa n).pwr = s.pwr := rfl
@[simp] theorem State.clearRange_boot : (s.clearRange pa n).boot = s.boot := rfl
@[simp] theorem State.clearRange_flash : (s.clearRange pa n).flash = s.flash := rfl
@[simp] theorem State.clearRange_sec : (s.clearRange pa n).sec = s.sec := rfl
@[simp] theorem State.clearRange_sent : (s.clearRange pa n).sent = s.sent := rfl
end

/-! ### seen -/

section
variable (s : State) (cells : List (Nat × Byte))
@[simp] theorem State.seen_pending : (s.seen cells).pending = s.pending := rfl
@[simp] theorem State.seen_fresh : (s.seen cells).fresh = s.fresh := rfl
@[simp] theorem State.seen_variant : (s.seen cells).variant = s.variant := rfl
@[simp] theorem State.seen_life : (s.seen cells).life = s.life := rfl
@[simp] theorem State.seen_image : (s.seen cells).image = s.image := rfl
@[simp] theorem State.seen_linkAddr : (s.seen cells).linkAddr = s.linkAddr := rfl
@[simp] theorem State.seen_standby : (s.seen cells).standby = s.standby := rfl
@[simp] theorem State.seen_tick : (s.seen cells).tick = s.tick := rfl
@[simp] theorem State.seen_secTags : (s.seen cells).secTags = s.secTags := rfl
@[simp] theorem State.seen_keyNext : (s.seen cells).keyNext = s.keyNext := rfl
@[simp] theorem State.seen_tiles : (s.seen cells).tiles = s.tiles := rfl
@[simp] theorem State.seen_quads : (s.seen cells).quads = s.quads := rfl
@[simp] theorem State.seen_chans : (s.seen cells).chans = s.chans := rfl
@[simp] theorem State.seen_devs : (s.seen cells).devs = s.devs := rfl
@[simp] theorem State.seen_upds : (s.seen cells).upds = s.upds := rfl
@[simp] theorem State.seen_tblRegs : (s.seen cells).tblRegs = s.tblRegs := rfl
@[simp] theorem State.seen_links : (s.seen cells).links = s.links := rfl
@[simp] theorem State.seen_arbs : (s.seen cells).arbs = s.arbs := rfl
@[simp] theorem State.seen_hbms : (s.seen cells).hbms = s.hbms := rfl
@[simp] theorem State.seen_sites : (s.seen cells).sites = s.sites := rfl
@[simp] theorem State.seen_wards : (s.seen cells).wards = s.wards := rfl
@[simp] theorem State.seen_dieFenced : (s.seen cells).dieFenced = s.dieFenced := rfl
@[simp] theorem State.seen_modFenced : (s.seen cells).modFenced = s.modFenced := rfl
@[simp] theorem State.seen_beats : (s.seen cells).beats = s.beats := rfl
@[simp] theorem State.seen_funcs : (s.seen cells).funcs = s.funcs := rfl
@[simp] theorem State.seen_ports : (s.seen cells).ports = s.ports := rfl
@[simp] theorem State.seen_rings : (s.seen cells).rings = s.rings := rfl
@[simp] theorem State.seen_opens : (s.seen cells).opens = s.opens := rfl
@[simp] theorem State.seen_journal : (s.seen cells).journal = s.journal := rfl
@[simp] theorem State.seen_jrnNext : (s.seen cells).jrnNext = s.jrnNext := rfl
@[simp] theorem State.seen_jrnBoot : (s.seen cells).jrnBoot = s.jrnBoot := rfl
@[simp] theorem State.seen_relays : (s.seen cells).relays = s.relays := rfl
@[simp] theorem State.seen_routes : (s.seen cells).routes = s.routes := rfl
@[simp] theorem State.seen_tg : (s.seen cells).tg = s.tg := rfl
@[simp] theorem State.seen_tko : (s.seen cells).tko = s.tko := rfl
@[simp] theorem State.seen_tkoQueue : (s.seen cells).tkoQueue = s.tkoQueue := rfl
@[simp] theorem State.seen_heldXfers : (s.seen cells).heldXfers = s.heldXfers := rfl
@[simp] theorem State.seen_rot : (s.seen cells).rot = s.rot := rfl
@[simp] theorem State.seen_xferPaths : (s.seen cells).xferPaths = s.xferPaths := rfl
@[simp] theorem State.seen_xidNext : (s.seen cells).xidNext = s.xidNext := rfl
@[simp] theorem State.seen_uncounted : (s.seen cells).uncounted = s.uncounted := rfl
@[simp] theorem State.seen_peerReads : (s.seen cells).peerReads = s.peerReads := rfl
@[simp] theorem State.seen_trees : (s.seen cells).trees = s.trees := rfl
@[simp] theorem State.seen_mcWait : (s.seen cells).mcWait = s.mcWait := rfl
@[simp] theorem State.seen_tkoLog : (s.seen cells).tkoLog = s.tkoLog := rfl
@[simp] theorem State.seen_rollSends : (s.seen cells).rollSends = s.rollSends := rfl
@[simp] theorem State.seen_rollAt : (s.seen cells).rollAt = s.rollAt := rfl
@[simp] theorem State.seen_rollRounds : (s.seen cells).rollRounds = s.rollRounds := rfl
@[simp] theorem State.seen_rollHeld : (s.seen cells).rollHeld = s.rollHeld := rfl
@[simp] theorem State.seen_rollSelfDiv : (s.seen cells).rollSelfDiv = s.rollSelfDiv := rfl
@[simp] theorem State.seen_rollSelfBad : (s.seen cells).rollSelfBad = s.rollSelfBad := rfl
@[simp] theorem State.seen_rollDiv : (s.seen cells).rollDiv = s.rollDiv := rfl
@[simp] theorem State.seen_rollSilent : (s.seen cells).rollSilent = s.rollSilent := rfl
@[simp] theorem State.seen_rollRecs : (s.seen cells).rollRecs = s.rollRecs := rfl
@[simp] theorem State.seen_ctlTmo : (s.seen cells).ctlTmo = s.ctlTmo := rfl
@[simp] theorem State.seen_slots : (s.seen cells).slots = s.slots := rfl
@[simp] theorem State.seen_retires : (s.seen cells).retires = s.retires := rfl
@[simp] theorem State.seen_atts : (s.seen cells).atts = s.atts := rfl
@[simp] theorem State.seen_faults : (s.seen cells).faults = s.faults := rfl
@[simp] theorem State.seen_saf : (s.seen cells).saf = s.saf := rfl
@[simp] theorem State.seen_pwr : (s.seen cells).pwr = s.pwr := rfl
@[simp] theorem State.seen_boot : (s.seen cells).boot = s.boot := rfl
@[simp] theorem State.seen_flash : (s.seen cells).flash = s.flash := rfl
@[simp] theorem State.seen_sec : (s.seen cells).sec = s.sec := rfl
@[simp] theorem State.seen_sent : (s.seen cells).sent = s.sent := rfl
end

end Sys2Proof.Machine
end

