-- ==== Sys2Proof/Laws/Units.lean ====
section
/-! SUPPORT. A unit of the module after an update: the named one takes the new value, every other stays. -/

namespace Sys2Proof.Machine
open Sys2Proof

section
variable (s : State) (i : Nat) (f : Tile → Tile)
@[simp] theorem State.modTile_tile_same : (s.modTile i f).tile i = f (s.tile i) := Tab.get_modify_same _ i f
@[simp] theorem State.modTile_tile_other (j : Nat) (h : j ≠ i) : (s.modTile i f).tile j = s.tile j :=
  Tab.get_modify_other _ i j f h
@[simp] theorem State.modTile_quad (j : Nat) : (s.modTile i f).quad j = s.quad j := rfl
@[simp] theorem State.modTile_chan (j : Nat) : (s.modTile i f).chan j = s.chan j := rfl
@[simp] theorem State.modTile_dev (j : Nat) : (s.modTile i f).dev j = s.dev j := rfl
@[simp] theorem State.modTile_upd (j : Nat) : (s.modTile i f).upd j = s.upd j := rfl
@[simp] theorem State.modTile_link (j : Nat) : (s.modTile i f).link j = s.link j := rfl
@[simp] theorem State.modTile_ward (j : Nat) : (s.modTile i f).ward j = s.ward j := rfl
@[simp] theorem State.modTile_ring (j : Nat) : (s.modTile i f).ring j = s.ring j := rfl
@[simp] theorem State.modTile_func (j : Nat) : (s.modTile i f).func j = s.func j := rfl
@[simp] theorem State.modTile_port (j : Nat) : (s.modTile i f).port j = s.port j := rfl
@[simp] theorem State.modTile_slot (j : Nat) : (s.modTile i f).slot j = s.slot j := rfl
@[simp] theorem State.modTile_rdByte (a : Nat) : (s.modTile i f).rdByte a = s.rdByte a := rfl
@[simp] theorem State.modTile_rdBytes (a n : Nat) : (s.modTile i f).rdBytes a n = s.rdBytes a n := rfl
@[simp] theorem State.modTile_rdStore (j a : Nat) : (s.modTile i f).rdStore j a = s.rdStore j a := rfl
@[simp] theorem State.modTile_istWord (j a : Nat) : (s.modTile i f).istWord j a = s.istWord j a := rfl
@[simp] theorem State.modTile_dies : (s.modTile i f).dies = s.dies := rfl
@[simp] theorem State.modTile_wardOfDie (n : Nat) : (s.modTile i f).wardOfDie n = s.wardOfDie n := rfl
@[simp] theorem State.modTile_stamp (n : Nat) : (s.modTile i f).stamp n = s.stamp n := rfl
end

section
variable (s : State) (i : Nat) (f : Quad → Quad)
@[simp] theorem State.modQuad_quad_same : (s.modQuad i f).quad i = f (s.quad i) := Tab.get_modify_same _ i f
@[simp] theorem State.modQuad_quad_other (j : Nat) (h : j ≠ i) : (s.modQuad i f).quad j = s.quad j :=
  Tab.get_modify_other _ i j f h
@[simp] theorem State.modQuad_tile (j : Nat) : (s.modQuad i f).tile j = s.tile j := rfl
@[simp] theorem State.modQuad_chan (j : Nat) : (s.modQuad i f).chan j = s.chan j := rfl
@[simp] theorem State.modQuad_dev (j : Nat) : (s.modQuad i f).dev j = s.dev j := rfl
@[simp] theorem State.modQuad_upd (j : Nat) : (s.modQuad i f).upd j = s.upd j := rfl
@[simp] theorem State.modQuad_link (j : Nat) : (s.modQuad i f).link j = s.link j := rfl
@[simp] theorem State.modQuad_ward (j : Nat) : (s.modQuad i f).ward j = s.ward j := rfl
@[simp] theorem State.modQuad_ring (j : Nat) : (s.modQuad i f).ring j = s.ring j := rfl
@[simp] theorem State.modQuad_func (j : Nat) : (s.modQuad i f).func j = s.func j := rfl
@[simp] theorem State.modQuad_port (j : Nat) : (s.modQuad i f).port j = s.port j := rfl
@[simp] theorem State.modQuad_slot (j : Nat) : (s.modQuad i f).slot j = s.slot j := rfl
@[simp] theorem State.modQuad_rdByte (a : Nat) : (s.modQuad i f).rdByte a = s.rdByte a := rfl
@[simp] theorem State.modQuad_rdBytes (a n : Nat) : (s.modQuad i f).rdBytes a n = s.rdBytes a n := rfl
@[simp] theorem State.modQuad_rdStore (j a : Nat) : (s.modQuad i f).rdStore j a = s.rdStore j a := rfl
@[simp] theorem State.modQuad_istWord (j a : Nat) : (s.modQuad i f).istWord j a = s.istWord j a := rfl
@[simp] theorem State.modQuad_dies : (s.modQuad i f).dies = s.dies := rfl
@[simp] theorem State.modQuad_wardOfDie (n : Nat) : (s.modQuad i f).wardOfDie n = s.wardOfDie n := rfl
@[simp] theorem State.modQuad_stamp (n : Nat) : (s.modQuad i f).stamp n = s.stamp n := rfl
end

section
variable (s : State) (i : Nat) (f : Chan → Chan)
@[simp] theorem State.modChan_chan_same : (s.modChan i f).chan i = f (s.chan i) := Tab.get_modify_same _ i f
@[simp] theorem State.modChan_chan_other (j : Nat) (h : j ≠ i) : (s.modChan i f).chan j = s.chan j :=
  Tab.get_modify_other _ i j f h
@[simp] theorem State.modChan_tile (j : Nat) : (s.modChan i f).tile j = s.tile j := rfl
@[simp] theorem State.modChan_quad (j : Nat) : (s.modChan i f).quad j = s.quad j := rfl
@[simp] theorem State.modChan_dev (j : Nat) : (s.modChan i f).dev j = s.dev j := rfl
@[simp] theorem State.modChan_upd (j : Nat) : (s.modChan i f).upd j = s.upd j := rfl
@[simp] theorem State.modChan_link (j : Nat) : (s.modChan i f).link j = s.link j := rfl
@[simp] theorem State.modChan_ward (j : Nat) : (s.modChan i f).ward j = s.ward j := rfl
@[simp] theorem State.modChan_ring (j : Nat) : (s.modChan i f).ring j = s.ring j := rfl
@[simp] theorem State.modChan_func (j : Nat) : (s.modChan i f).func j = s.func j := rfl
@[simp] theorem State.modChan_port (j : Nat) : (s.modChan i f).port j = s.port j := rfl
@[simp] theorem State.modChan_slot (j : Nat) : (s.modChan i f).slot j = s.slot j := rfl
@[simp] theorem State.modChan_rdByte (a : Nat) : (s.modChan i f).rdByte a = s.rdByte a := rfl
@[simp] theorem State.modChan_rdBytes (a n : Nat) : (s.modChan i f).rdBytes a n = s.rdBytes a n := rfl
@[simp] theorem State.modChan_rdStore (j a : Nat) : (s.modChan i f).rdStore j a = s.rdStore j a := rfl
@[simp] theorem State.modChan_istWord (j a : Nat) : (s.modChan i f).istWord j a = s.istWord j a := rfl
@[simp] theorem State.modChan_dies : (s.modChan i f).dies = s.dies := rfl
@[simp] theorem State.modChan_wardOfDie (n : Nat) : (s.modChan i f).wardOfDie n = s.wardOfDie n := rfl
@[simp] theorem State.modChan_stamp (n : Nat) : (s.modChan i f).stamp n = s.stamp n := rfl
end

section
variable (s : State) (i : Nat) (f : Dev → Dev)
@[simp] theorem State.modDev_dev_same : (s.modDev i f).dev i = f (s.dev i) := Tab.get_modify_same _ i f
@[simp] theorem State.modDev_dev_other (j : Nat) (h : j ≠ i) : (s.modDev i f).dev j = s.dev j :=
  Tab.get_modify_other _ i j f h
@[simp] theorem State.modDev_tile (j : Nat) : (s.modDev i f).tile j = s.tile j := rfl
@[simp] theorem State.modDev_quad (j : Nat) : (s.modDev i f).quad j = s.quad j := rfl
@[simp] theorem State.modDev_chan (j : Nat) : (s.modDev i f).chan j = s.chan j := rfl
@[simp] theorem State.modDev_upd (j : Nat) : (s.modDev i f).upd j = s.upd j := rfl
@[simp] theorem State.modDev_link (j : Nat) : (s.modDev i f).link j = s.link j := rfl
@[simp] theorem State.modDev_ward (j : Nat) : (s.modDev i f).ward j = s.ward j := rfl
@[simp] theorem State.modDev_ring (j : Nat) : (s.modDev i f).ring j = s.ring j := rfl
@[simp] theorem State.modDev_func (j : Nat) : (s.modDev i f).func j = s.func j := rfl
@[simp] theorem State.modDev_port (j : Nat) : (s.modDev i f).port j = s.port j := rfl
@[simp] theorem State.modDev_slot (j : Nat) : (s.modDev i f).slot j = s.slot j := rfl
@[simp] theorem State.modDev_rdByte (a : Nat) : (s.modDev i f).rdByte a = s.rdByte a := rfl
@[simp] theorem State.modDev_rdBytes (a n : Nat) : (s.modDev i f).rdBytes a n = s.rdBytes a n := rfl
@[simp] theorem State.modDev_rdStore (j a : Nat) : (s.modDev i f).rdStore j a = s.rdStore j a := rfl
@[simp] theorem State.modDev_istWord (j a : Nat) : (s.modDev i f).istWord j a = s.istWord j a := rfl
@[simp] theorem State.modDev_dies : (s.modDev i f).dies = s.dies := rfl
@[simp] theorem State.modDev_wardOfDie (n : Nat) : (s.modDev i f).wardOfDie n = s.wardOfDie n := rfl
@[simp] theorem State.modDev_stamp (n : Nat) : (s.modDev i f).stamp n = s.stamp n := rfl
end

section
variable (s : State) (i : Nat) (f : Upd → Upd)
@[simp] theorem State.modUpd_upd_same : (s.modUpd i f).upd i = f (s.upd i) := Tab.get_modify_same _ i f
@[simp] theorem State.modUpd_upd_other (j : Nat) (h : j ≠ i) : (s.modUpd i f).upd j = s.upd j :=
  Tab.get_modify_other _ i j f h
@[simp] theorem State.modUpd_tile (j : Nat) : (s.modUpd i f).tile j = s.tile j := rfl
@[simp] theorem State.modUpd_quad (j : Nat) : (s.modUpd i f).quad j = s.quad j := rfl
@[simp] theorem State.modUpd_chan (j : Nat) : (s.modUpd i f).chan j = s.chan j := rfl
@[simp] theorem State.modUpd_dev (j : Nat) : (s.modUpd i f).dev j = s.dev j := rfl
@[simp] theorem State.modUpd_link (j : Nat) : (s.modUpd i f).link j = s.link j := rfl
@[simp] theorem State.modUpd_ward (j : Nat) : (s.modUpd i f).ward j = s.ward j := rfl
@[simp] theorem State.modUpd_ring (j : Nat) : (s.modUpd i f).ring j = s.ring j := rfl
@[simp] theorem State.modUpd_func (j : Nat) : (s.modUpd i f).func j = s.func j := rfl
@[simp] theorem State.modUpd_port (j : Nat) : (s.modUpd i f).port j = s.port j := rfl
@[simp] theorem State.modUpd_slot (j : Nat) : (s.modUpd i f).slot j = s.slot j := rfl
@[simp] theorem State.modUpd_rdByte (a : Nat) : (s.modUpd i f).rdByte a = s.rdByte a := rfl
@[simp] theorem State.modUpd_rdBytes (a n : Nat) : (s.modUpd i f).rdBytes a n = s.rdBytes a n := rfl
@[simp] theorem State.modUpd_rdStore (j a : Nat) : (s.modUpd i f).rdStore j a = s.rdStore j a := rfl
@[simp] theorem State.modUpd_istWord (j a : Nat) : (s.modUpd i f).istWord j a = s.istWord j a := rfl
@[simp] theorem State.modUpd_dies : (s.modUpd i f).dies = s.dies := rfl
@[simp] theorem State.modUpd_wardOfDie (n : Nat) : (s.modUpd i f).wardOfDie n = s.wardOfDie n := rfl
@[simp] theorem State.modUpd_stamp (n : Nat) : (s.modUpd i f).stamp n = s.stamp n := rfl
end

section
variable (s : State) (i : Nat) (f : Link → Link)
@[simp] theorem State.modLink_link_same : (s.modLink i f).link i = f (s.link i) := Tab.get_modify_same _ i f
@[simp] theorem State.modLink_link_other (j : Nat) (h : j ≠ i) : (s.modLink i f).link j = s.link j :=
  Tab.get_modify_other _ i j f h
@[simp] theorem State.modLink_tile (j : Nat) : (s.modLink i f).tile j = s.tile j := rfl
@[simp] theorem State.modLink_quad (j : Nat) : (s.modLink i f).quad j = s.quad j := rfl
@[simp] theorem State.modLink_chan (j : Nat) : (s.modLink i f).chan j = s.chan j := rfl
@[simp] theorem State.modLink_dev (j : Nat) : (s.modLink i f).dev j = s.dev j := rfl
@[simp] theorem State.modLink_upd (j : Nat) : (s.modLink i f).upd j = s.upd j := rfl
@[simp] theorem State.modLink_ward (j : Nat) : (s.modLink i f).ward j = s.ward j := rfl
@[simp] theorem State.modLink_ring (j : Nat) : (s.modLink i f).ring j = s.ring j := rfl
@[simp] theorem State.modLink_func (j : Nat) : (s.modLink i f).func j = s.func j := rfl
@[simp] theorem State.modLink_port (j : Nat) : (s.modLink i f).port j = s.port j := rfl
@[simp] theorem State.modLink_slot (j : Nat) : (s.modLink i f).slot j = s.slot j := rfl
@[simp] theorem State.modLink_rdByte (a : Nat) : (s.modLink i f).rdByte a = s.rdByte a := rfl
@[simp] theorem State.modLink_rdBytes (a n : Nat) : (s.modLink i f).rdBytes a n = s.rdBytes a n := rfl
@[simp] theorem State.modLink_rdStore (j a : Nat) : (s.modLink i f).rdStore j a = s.rdStore j a := rfl
@[simp] theorem State.modLink_istWord (j a : Nat) : (s.modLink i f).istWord j a = s.istWord j a := rfl
@[simp] theorem State.modLink_dies : (s.modLink i f).dies = s.dies := rfl
@[simp] theorem State.modLink_wardOfDie (n : Nat) : (s.modLink i f).wardOfDie n = s.wardOfDie n := rfl
@[simp] theorem State.modLink_stamp (n : Nat) : (s.modLink i f).stamp n = s.stamp n := rfl
end

section
variable (s : State) (i : Nat) (f : Ward → Ward)
@[simp] theorem State.modWard_ward_same : (s.modWard i f).ward i = f (s.ward i) := Tab.get_modify_same _ i f
@[simp] theorem State.modWard_ward_other (j : Nat) (h : j ≠ i) : (s.modWard i f).ward j = s.ward j :=
  Tab.get_modify_other _ i j f h
@[simp] theorem State.modWard_tile (j : Nat) : (s.modWard i f).tile j = s.tile j := rfl
@[simp] theorem State.modWard_quad (j : Nat) : (s.modWard i f).quad j = s.quad j := rfl
@[simp] theorem State.modWard_chan (j : Nat) : (s.modWard i f).chan j = s.chan j := rfl
@[simp] theorem State.modWard_dev (j : Nat) : (s.modWard i f).dev j = s.dev j := rfl
@[simp] theorem State.modWard_upd (j : Nat) : (s.modWard i f).upd j = s.upd j := rfl
@[simp] theorem State.modWard_link (j : Nat) : (s.modWard i f).link j = s.link j := rfl
@[simp] theorem State.modWard_ring (j : Nat) : (s.modWard i f).ring j = s.ring j := rfl
@[simp] theorem State.modWard_func (j : Nat) : (s.modWard i f).func j = s.func j := rfl
@[simp] theorem State.modWard_port (j : Nat) : (s.modWard i f).port j = s.port j := rfl
@[simp] theorem State.modWard_slot (j : Nat) : (s.modWard i f).slot j = s.slot j := rfl
@[simp] theorem State.modWard_rdByte (a : Nat) : (s.modWard i f).rdByte a = s.rdByte a := rfl
@[simp] theorem State.modWard_rdBytes (a n : Nat) : (s.modWard i f).rdBytes a n = s.rdBytes a n := rfl
@[simp] theorem State.modWard_rdStore (j a : Nat) : (s.modWard i f).rdStore j a = s.rdStore j a := rfl
@[simp] theorem State.modWard_istWord (j a : Nat) : (s.modWard i f).istWord j a = s.istWord j a := rfl
@[simp] theorem State.modWard_dies : (s.modWard i f).dies = s.dies := rfl
end

section
variable (s : State) (i : Nat) (f : Ring → Ring)
@[simp] theorem State.modRing_ring_same : (s.modRing i f).ring i = f (s.ring i) := Tab.get_modify_same _ i f
@[simp] theorem State.modRing_ring_other (j : Nat) (h : j ≠ i) : (s.modRing i f).ring j = s.ring j :=
  Tab.get_modify_other _ i j f h
@[simp] theorem State.modRing_tile (j : Nat) : (s.modRing i f).tile j = s.tile j := rfl
@[simp] theorem State.modRing_quad (j : Nat) : (s.modRing i f).quad j = s.quad j := rfl
@[simp] theorem State.modRing_chan (j : Nat) : (s.modRing i f).chan j = s.chan j := rfl
@[simp] theorem State.modRing_dev (j : Nat) : (s.modRing i f).dev j = s.dev j := rfl
@[simp] theorem State.modRing_upd (j : Nat) : (s.modRing i f).upd j = s.upd j := rfl
@[simp] theorem State.modRing_link (j : Nat) : (s.modRing i f).link j = s.link j := rfl
@[simp] theorem State.modRing_ward (j : Nat) : (s.modRing i f).ward j = s.ward j := rfl
@[simp] theorem State.modRing_func (j : Nat) : (s.modRing i f).func j = s.func j := rfl
@[simp] theorem State.modRing_port (j : Nat) : (s.modRing i f).port j = s.port j := rfl
@[simp] theorem State.modRing_slot (j : Nat) : (s.modRing i f).slot j = s.slot j := rfl
@[simp] theorem State.modRing_rdByte (a : Nat) : (s.modRing i f).rdByte a = s.rdByte a := rfl
@[simp] theorem State.modRing_rdBytes (a n : Nat) : (s.modRing i f).rdBytes a n = s.rdBytes a n := rfl
@[simp] theorem State.modRing_rdStore (j a : Nat) : (s.modRing i f).rdStore j a = s.rdStore j a := rfl
@[simp] theorem State.modRing_istWord (j a : Nat) : (s.modRing i f).istWord j a = s.istWord j a := rfl
@[simp] theorem State.modRing_dies : (s.modRing i f).dies = s.dies := rfl
@[simp] theorem State.modRing_wardOfDie (n : Nat) : (s.modRing i f).wardOfDie n = s.wardOfDie n := rfl
@[simp] theorem State.modRing_stamp (n : Nat) : (s.modRing i f).stamp n = s.stamp n := rfl
end

section
variable (s : State) (i : Nat) (f : Func → Func)
@[simp] theorem State.modFunc_func_same : (s.modFunc i f).func i = f (s.func i) := Tab.get_modify_same _ i f
@[simp] theorem State.modFunc_func_other (j : Nat) (h : j ≠ i) : (s.modFunc i f).func j = s.func j :=
  Tab.get_modify_other _ i j f h
@[simp] theorem State.modFunc_tile (j : Nat) : (s.modFunc i f).tile j = s.tile j := rfl
@[simp] theorem State.modFunc_quad (j : Nat) : (s.modFunc i f).quad j = s.quad j := rfl
@[simp] theorem State.modFunc_chan (j : Nat) : (s.modFunc i f).chan j = s.chan j := rfl
@[simp] theorem State.modFunc_dev (j : Nat) : (s.modFunc i f).dev j = s.dev j := rfl
@[simp] theorem State.modFunc_upd (j : Nat) : (s.modFunc i f).upd j = s.upd j := rfl
@[simp] theorem State.modFunc_link (j : Nat) : (s.modFunc i f).link j = s.link j := rfl
@[simp] theorem State.modFunc_ward (j : Nat) : (s.modFunc i f).ward j = s.ward j := rfl
@[simp] theorem State.modFunc_ring (j : Nat) : (s.modFunc i f).ring j = s.ring j := rfl
@[simp] theorem State.modFunc_port (j : Nat) : (s.modFunc i f).port j = s.port j := rfl
@[simp] theorem State.modFunc_slot (j : Nat) : (s.modFunc i f).slot j = s.slot j := rfl
@[simp] theorem State.modFunc_rdByte (a : Nat) : (s.modFunc i f).rdByte a = s.rdByte a := rfl
@[simp] theorem State.modFunc_rdBytes (a n : Nat) : (s.modFunc i f).rdBytes a n = s.rdBytes a n := rfl
@[simp] theorem State.modFunc_rdStore (j a : Nat) : (s.modFunc i f).rdStore j a = s.rdStore j a := rfl
@[simp] theorem State.modFunc_istWord (j a : Nat) : (s.modFunc i f).istWord j a = s.istWord j a := rfl
@[simp] theorem State.modFunc_dies : (s.modFunc i f).dies = s.dies := rfl
@[simp] theorem State.modFunc_wardOfDie (n : Nat) : (s.modFunc i f).wardOfDie n = s.wardOfDie n := rfl
@[simp] theorem State.modFunc_stamp (n : Nat) : (s.modFunc i f).stamp n = s.stamp n := rfl
end

section
variable (s : State) (i : Nat) (f : Port → Port)
@[simp] theorem State.modPort_port_same : (s.modPort i f).port i = f (s.port i) := Tab.get_modify_same _ i f
@[simp] theorem State.modPort_port_other (j : Nat) (h : j ≠ i) : (s.modPort i f).port j = s.port j :=
  Tab.get_modify_other _ i j f h
@[simp] theorem State.modPort_tile (j : Nat) : (s.modPort i f).tile j = s.tile j := rfl
@[simp] theorem State.modPort_quad (j : Nat) : (s.modPort i f).quad j = s.quad j := rfl
@[simp] theorem State.modPort_chan (j : Nat) : (s.modPort i f).chan j = s.chan j := rfl
@[simp] theorem State.modPort_dev (j : Nat) : (s.modPort i f).dev j = s.dev j := rfl
@[simp] theorem State.modPort_upd (j : Nat) : (s.modPort i f).upd j = s.upd j := rfl
@[simp] theorem State.modPort_link (j : Nat) : (s.modPort i f).link j = s.link j := rfl
@[simp] theorem State.modPort_ward (j : Nat) : (s.modPort i f).ward j = s.ward j := rfl
@[simp] theorem State.modPort_ring (j : Nat) : (s.modPort i f).ring j = s.ring j := rfl
@[simp] theorem State.modPort_func (j : Nat) : (s.modPort i f).func j = s.func j := rfl
@[simp] theorem State.modPort_slot (j : Nat) : (s.modPort i f).slot j = s.slot j := rfl
@[simp] theorem State.modPort_rdByte (a : Nat) : (s.modPort i f).rdByte a = s.rdByte a := rfl
@[simp] theorem State.modPort_rdBytes (a n : Nat) : (s.modPort i f).rdBytes a n = s.rdBytes a n := rfl
@[simp] theorem State.modPort_rdStore (j a : Nat) : (s.modPort i f).rdStore j a = s.rdStore j a := rfl
@[simp] theorem State.modPort_istWord (j a : Nat) : (s.modPort i f).istWord j a = s.istWord j a := rfl
@[simp] theorem State.modPort_dies : (s.modPort i f).dies = s.dies := rfl
@[simp] theorem State.modPort_wardOfDie (n : Nat) : (s.modPort i f).wardOfDie n = s.wardOfDie n := rfl
@[simp] theorem State.modPort_stamp (n : Nat) : (s.modPort i f).stamp n = s.stamp n := rfl
end

section
variable (s : State) (i : Nat) (f : Slot → Slot)
@[simp] theorem State.modSlot_slot_same : (s.modSlot i f).slot i = f (s.slot i) := Tab.get_modify_same _ i f
@[simp] theorem State.modSlot_slot_other (j : Nat) (h : j ≠ i) : (s.modSlot i f).slot j = s.slot j :=
  Tab.get_modify_other _ i j f h
@[simp] theorem State.modSlot_tile (j : Nat) : (s.modSlot i f).tile j = s.tile j := rfl
@[simp] theorem State.modSlot_quad (j : Nat) : (s.modSlot i f).quad j = s.quad j := rfl
@[simp] theorem State.modSlot_chan (j : Nat) : (s.modSlot i f).chan j = s.chan j := rfl
@[simp] theorem State.modSlot_dev (j : Nat) : (s.modSlot i f).dev j = s.dev j := rfl
@[simp] theorem State.modSlot_upd (j : Nat) : (s.modSlot i f).upd j = s.upd j := rfl
@[simp] theorem State.modSlot_link (j : Nat) : (s.modSlot i f).link j = s.link j := rfl
@[simp] theorem State.modSlot_ward (j : Nat) : (s.modSlot i f).ward j = s.ward j := rfl
@[simp] theorem State.modSlot_ring (j : Nat) : (s.modSlot i f).ring j = s.ring j := rfl
@[simp] theorem State.modSlot_func (j : Nat) : (s.modSlot i f).func j = s.func j := rfl
@[simp] theorem State.modSlot_port (j : Nat) : (s.modSlot i f).port j = s.port j := rfl
@[simp] theorem State.modSlot_rdByte (a : Nat) : (s.modSlot i f).rdByte a = s.rdByte a := rfl
@[simp] theorem State.modSlot_rdBytes (a n : Nat) : (s.modSlot i f).rdBytes a n = s.rdBytes a n := rfl
@[simp] theorem State.modSlot_rdStore (j a : Nat) : (s.modSlot i f).rdStore j a = s.rdStore j a := rfl
@[simp] theorem State.modSlot_istWord (j a : Nat) : (s.modSlot i f).istWord j a = s.istWord j a := rfl
@[simp] theorem State.modSlot_dies : (s.modSlot i f).dies = s.dies := rfl
@[simp] theorem State.modSlot_wardOfDie (n : Nat) : (s.modSlot i f).wardOfDie n = s.wardOfDie n := rfl
@[simp] theorem State.modSlot_stamp (n : Nat) : (s.modSlot i f).stamp n = s.stamp n := rfl
end

section
variable (s : State) (o : Output)
@[simp] theorem State.emit_tile (j : Nat) : (s.emit o).tile j = s.tile j := rfl
@[simp] theorem State.emit_quad (j : Nat) : (s.emit o).quad j = s.quad j := rfl
@[simp] theorem State.emit_chan (j : Nat) : (s.emit o).chan j = s.chan j := rfl
@[simp] theorem State.emit_dev (j : Nat) : (s.emit o).dev j = s.dev j := rfl
@[simp] theorem State.emit_upd (j : Nat) : (s.emit o).upd j = s.upd j := rfl
@[simp] theorem State.emit_link (j : Nat) : (s.emit o).link j = s.link j := rfl
@[simp] theorem State.emit_ward (j : Nat) : (s.emit o).ward j = s.ward j := rfl
@[simp] theorem State.emit_ring (j : Nat) : (s.emit o).ring j = s.ring j := rfl
@[simp] theorem State.emit_func (j : Nat) : (s.emit o).func j = s.func j := rfl
@[simp] theorem State.emit_port (j : Nat) : (s.emit o).port j = s.port j := rfl
@[simp] theorem State.emit_slot (j : Nat) : (s.emit o).slot j = s.slot j := rfl
@[simp] theorem State.emit_wardOfDie (n : Nat) : (s.emit o).wardOfDie n = s.wardOfDie n := rfl
end

section
variable (s : State) (pa : Nat) (b : Byte)
@[simp] theorem State.wrByte_tile (j : Nat) : (s.wrByte pa b).tile j = s.tile j := rfl
@[simp] theorem State.wrByte_quad (j : Nat) : (s.wrByte pa b).quad j = s.quad j := rfl
@[simp] theorem State.wrByte_chan (j : Nat) : (s.wrByte pa b).chan j = s.chan j := rfl
@[simp] theorem State.wrByte_dev (j : Nat) : (s.wrByte pa b).dev j = s.dev j := rfl
@[simp] theorem State.wrByte_upd (j : Nat) : (s.wrByte pa b).upd j = s.upd j := rfl
@[simp] theorem State.wrByte_link (j : Nat) : (s.wrByte pa b).link j = s.link j := rfl
@[simp] theorem State.wrByte_ward (j : Nat) : (s.wrByte pa b).ward j = s.ward j := rfl
@[simp] theorem State.wrByte_ring (j : Nat) : (s.wrByte pa b).ring j = s.ring j := rfl
@[simp] theorem State.wrByte_func (j : Nat) : (s.wrByte pa b).func j = s.func j := rfl
@[simp] theorem State.wrByte_port (j : Nat) : (s.wrByte pa b).port j = s.port j := rfl
@[simp] theorem State.wrByte_slot (j : Nat) : (s.wrByte pa b).slot j = s.slot j := rfl
@[simp] theorem State.wrByte_wardOfDie (n : Nat) : (s.wrByte pa b).wardOfDie n = s.wardOfDie n := rfl
end

section
variable (s : State) (pa : Nat) (bs : List Byte)
@[simp] theorem State.wrBytes_tile (j : Nat) : (s.wrBytes pa bs).tile j = s.tile j := rfl
@[simp] theorem State.wrBytes_quad (j : Nat) : (s.wrBytes pa bs).quad j = s.quad j := rfl
@[simp] theorem State.wrBytes_chan (j : Nat) : (s.wrBytes pa bs).chan j = s.chan j := rfl
@[simp] theorem State.wrBytes_dev (j : Nat) : (s.wrBytes pa bs).dev j = s.dev j := rfl
@[simp] theorem State.wrBytes_upd (j : Nat) : (s.wrBytes pa bs).upd j = s.upd j := rfl
@[simp] theorem State.wrBytes_link (j : Nat) : (s.wrBytes pa bs).link j = s.link j := rfl
@[simp] theorem State.wrBytes_ward (j : Nat) : (s.wrBytes pa bs).ward j = s.ward j := rfl
@[simp] theorem State.wrBytes_ring (j : Nat) : (s.wrBytes pa bs).ring j = s.ring j := rfl
@[simp] theorem State.wrBytes_func (j : Nat) : (s.wrBytes pa bs).func j = s.func j := rfl
@[simp] theorem State.wrBytes_port (j : Nat) : (s.wrBytes pa bs).port j = s.port j := rfl
@[simp] theorem State.wrBytes_slot (j : Nat) : (s.wrBytes pa bs).slot j = s.slot j := rfl
@[simp] theorem State.wrBytes_wardOfDie (n : Nat) : (s.wrBytes pa bs).wardOfDie n = s.wardOfDie n := rfl
end

section
variable (s : State) (pa n : Nat)
@[simp] theorem State.clearRange_tile (j : Nat) : (s.clearRange pa n).tile j = s.tile j := rfl
@[simp] theorem State.clearRange_quad (j : Nat) : (s.clearRange pa n).quad j = s.quad j := rfl
@[simp] theorem State.clearRange_chan (j : Nat) : (s.clearRange pa n).chan j = s.chan j := rfl
@[simp] theorem State.clearRange_dev (j : Nat) : (s.clearRange pa n).dev j = s.dev j := rfl
@[simp] theorem State.clearRange_upd (j : Nat) : (s.clearRange pa n).upd j = s.upd j := rfl
@[simp] theorem State.clearRange_link (j : Nat) : (s.clearRange pa n).link j = s.link j := rfl
@[simp] theorem State.clearRange_ward (j : Nat) : (s.clearRange pa n).ward j = s.ward j := rfl
@[simp] theorem State.clearRange_ring (j : Nat) : (s.clearRange pa n).ring j = s.ring j := rfl
@[simp] theorem State.clearRange_func (j : Nat) : (s.clearRange pa n).func j = s.func j := rfl
@[simp] theorem State.clearRange_port (j : Nat) : (s.clearRange pa n).port j = s.port j := rfl
@[simp] theorem State.clearRange_slot (j : Nat) : (s.clearRange pa n).slot j = s.slot j := rfl
@[simp] theorem State.clearRange_wardOfDie (n : Nat) : (s.clearRange pa n).wardOfDie n = s.wardOfDie n := rfl
end

section
variable (s : State) (cells : List (Nat × Byte))
@[simp] theorem State.seen_tile (j : Nat) : (s.seen cells).tile j = s.tile j := rfl
@[simp] theorem State.seen_quad (j : Nat) : (s.seen cells).quad j = s.quad j := rfl
@[simp] theorem State.seen_chan (j : Nat) : (s.seen cells).chan j = s.chan j := rfl
@[simp] theorem State.seen_dev (j : Nat) : (s.seen cells).dev j = s.dev j := rfl
@[simp] theorem State.seen_upd (j : Nat) : (s.seen cells).upd j = s.upd j := rfl
@[simp] theorem State.seen_link (j : Nat) : (s.seen cells).link j = s.link j := rfl
@[simp] theorem State.seen_ward (j : Nat) : (s.seen cells).ward j = s.ward j := rfl
@[simp] theorem State.seen_ring (j : Nat) : (s.seen cells).ring j = s.ring j := rfl
@[simp] theorem State.seen_func (j : Nat) : (s.seen cells).func j = s.func j := rfl
@[simp] theorem State.seen_port (j : Nat) : (s.seen cells).port j = s.port j := rfl
@[simp] theorem State.seen_slot (j : Nat) : (s.seen cells).slot j = s.slot j := rfl
@[simp] theorem State.seen_wardOfDie (n : Nat) : (s.seen cells).wardOfDie n = s.wardOfDie n := rfl
end

end Sys2Proof.Machine
end

