-- ==== Sys2Proof/Laws/Memory.lean ====
section
/-! SUPPORT. Memory: a read after a write, and the canonical form that every memory operation keeps. -/

namespace Sys2Proof.Machine
open Sys2Proof

/-! ### Reads after writes -/

@[simp] theorem State.rdByte_wrByte_same (s : State) (a : Nat) (b : Byte) : (s.wrByte a b).rdByte a = b :=
  Tab.get_set_same (β := Byte) s.mem a b

@[simp] theorem State.rdByte_wrByte_other (s : State) (a c : Nat) (b : Byte) (h : c ≠ a) :
    (s.wrByte a b).rdByte c = s.rdByte c := Tab.get_set_other (β := Byte) s.mem a c b h

theorem wrCells_below (m : List Host.Cell) (a : Nat) (bs : List Byte) (c : Nat) (h : c < a ∨ a + bs.length ≤ c) :
    Tab.get (β := Byte) (wrCells m a bs) c = Tab.get (β := Byte) m c := by
  induction bs generalizing m a with
  | nil => rfl
  | cons b r ih =>
    simp only [List.length_cons] at h
    rw [wrCells, ih _ _ (by omega), Tab.get_set_other (β := Byte) m a c b (by omega)]

theorem wrCells_in (m : List Host.Cell) (a : Nat) (bs : List Byte) (k : Nat) (h : k < bs.length) :
    Tab.get (β := Byte) (wrCells m a bs) (a + k) = bs[k] := by
  induction bs generalizing m a k with
  | nil => simp at h
  | cons b r ih =>
    rw [wrCells]
    cases k with
    | zero =>
      rw [wrCells_below _ _ _ _ (by omega)]; exact Tab.get_set_same (β := Byte) m a b
    | succ k =>
      rw [show a + (k + 1) = a + 1 + k by omega, ih _ _ k (by simpa using h)]; rfl

/-- A store leaves every byte outside it as it was. -/
theorem State.rdByte_wrBytes_out (s : State) (a : Nat) (bs : List Byte) (c : Nat) (h : c < a ∨ a + bs.length ≤ c) :
    (s.wrBytes a bs).rdByte c = s.rdByte c := wrCells_below s.mem a bs c h

/-- A store's bytes read back. -/
theorem State.rdByte_wrBytes_in (s : State) (a : Nat) (bs : List Byte) (k : Nat) (h : k < bs.length) :
    (s.wrBytes a bs).rdByte (a + k) = bs[k] := wrCells_in s.mem a bs k h

theorem State.rdBytes_wrBytes_same (s : State) (a : Nat) (bs : List Byte) :
    (s.wrBytes a bs).rdBytes a bs.length = bs := by
  apply List.ext_getElem
  · simp [State.rdBytes]
  · intro k h1 h2
    simp only [State.rdBytes, List.getElem_map, List.getElem_range]
    exact State.rdByte_wrBytes_in s a bs k h2

/-- A cleared range reads 0, every other byte as before. -/
theorem State.rdByte_clearRange (s : State) (a n c : Nat) (h : Memory.wf s.mem = true) :
    (s.clearRange a n).rdByte c = if a ≤ c ∧ c < a + n then 0 else s.rdByte c := by
  have := Tab.getD_filter (0 : Byte) s.mem (fun c => !(decide (a ≤ c) && decide (c < a + n))) c h
  simp only [State.rdByte, State.clearRange, Tab.get]
  refine this.trans ?_
  by_cases hc : a ≤ c ∧ c < a + n
  · simp [hc]
  · have : (!(decide (a ≤ c) && decide (c < a + n))) = true := by
      simp only [Bool.not_eq_true', Bool.and_eq_false_iff, decide_eq_false_iff_not]
      omega
    simp only [this, if_true, if_neg hc]
    rfl

/-! ### The canonical form -/

theorem wf_wrCells (m : List Host.Cell) (a : Nat) (bs : List Byte) (h : Memory.wf m = true) :
    Memory.wf (wrCells m a bs) = true := by
  induction bs generalizing m a with
  | nil => exact h
  | cons b r ih => exact ih _ _ (Tab.wf_set (β := Byte) m a b h)

theorem State.wf_wrByte (s : State) (a : Nat) (b : Byte) (h : Memory.wf s.mem = true) :
    Memory.wf (s.wrByte a b).mem = true := Tab.wf_set (β := Byte) s.mem a b h

theorem State.wf_wrBytes (s : State) (a : Nat) (bs : List Byte) (h : Memory.wf s.mem = true) :
    Memory.wf (s.wrBytes a bs).mem = true := wf_wrCells s.mem a bs h

theorem State.wf_clearRange (s : State) (a n : Nat) (h : Memory.wf s.mem = true) :
    Memory.wf (s.clearRange a n).mem = true := Tab.wf_filter (0 : Byte) s.mem _ h

theorem wf_foldl {α : Type} (xs : List α) (f : List Host.Cell → α → List Host.Cell)
    (hf : ∀ m a, Memory.wf m = true → Memory.wf (f m a) = true) (m : List Host.Cell) (h : Memory.wf m = true) :
    Memory.wf (xs.foldl f m) = true := by
  induction xs generalizing m with
  | nil => exact h
  | cons x r ih => exact ih _ (hf _ _ h)

theorem State.wf_seen (s : State) (cells : List (Nat × Byte)) (h : Memory.wf s.mem = true) :
    Memory.wf (s.seen cells).mem = true := by
  refine wf_foldl cells _ ?_ s.mem h
  rintro m ⟨a, b⟩ hm
  dsimp only
  split
  · exact Tab.wf_set (β := Byte) m a b hm
  · exact hm

/-- The bytes that a drain, a statistics copy or a chain engine lands keep it. -/
theorem wf_landCells (m : List Host.Cell) (base : Nat) (cells : List (Nat × Byte)) (h : Memory.wf m = true) :
    Memory.wf (cells.foldl (fun m (o, b) => Tab.set (β := Byte) m (base + o) b) m) = true :=
  wf_foldl cells _ (fun m e hm => Tab.wf_set (β := Byte) m (base + e.1) e.2 hm) m h

/-- Work over a list of units keeps whatever each part of it keeps. -/
theorem forEach_keeps {α : Type} (P : State → Prop) (xs : List α) (f : State → α → State)
    (hf : ∀ s a, P s → P (f s a)) (s : State) (h : P s) : P (forEach xs s f) := by
  unfold forEach
  induction xs generalizing s with
  | nil => exact h
  | cons x r ih => exact ih _ (hf _ _ h)

end Sys2Proof.Machine
end

