-- ==== Sys2Proof/Laws/Issue.lean ====
section
/-! SUPPORT. The frame of an update of one unit, and what an issue does once its instruction's answer is known. -/

namespace Sys2Proof.Machine
open Sys2Proof

theorem State.modTile_only (s : State) (i : Nat) (f : Tile → Tile) : OnlyTile s (s.modTile i f) i (f (s.tile i)) :=
  ⟨State.modTile_tile_same s i f, State.modTile_tile_other s i f, fun _ => rfl, rfl⟩
theorem State.modQuad_only (s : State) (i : Nat) (f : Quad → Quad) : OnlyQuad s (s.modQuad i f) i (f (s.quad i)) :=
  ⟨State.modQuad_quad_same s i f, State.modQuad_quad_other s i f, fun _ => rfl, rfl⟩
theorem State.modChan_only (s : State) (i : Nat) (f : Chan → Chan) : OnlyChan s (s.modChan i f) i (f (s.chan i)) :=
  ⟨State.modChan_chan_same s i f, State.modChan_chan_other s i f, fun _ => rfl, rfl⟩
theorem State.modDev_only (s : State) (i : Nat) (f : Dev → Dev) : OnlyDev s (s.modDev i f) i (f (s.dev i)) :=
  ⟨State.modDev_dev_same s i f, State.modDev_dev_other s i f, fun _ => rfl, rfl⟩
theorem State.modUpd_only (s : State) (i : Nat) (f : Upd → Upd) : OnlyUpd s (s.modUpd i f) i (f (s.upd i)) :=
  ⟨State.modUpd_upd_same s i f, State.modUpd_upd_other s i f, fun _ => rfl, rfl⟩
theorem State.modLink_only (s : State) (i : Nat) (f : Link → Link) : OnlyLink s (s.modLink i f) i (f (s.link i)) :=
  ⟨State.modLink_link_same s i f, State.modLink_link_other s i f, fun _ => rfl, rfl⟩
theorem State.modWard_only (s : State) (i : Nat) (f : Ward → Ward) : OnlyWard s (s.modWard i f) i (f (s.ward i)) :=
  ⟨State.modWard_ward_same s i f, State.modWard_ward_other s i f, fun _ => rfl, rfl⟩
theorem State.modRing_only (s : State) (i : Nat) (f : Ring → Ring) : OnlyRing s (s.modRing i f) i (f (s.ring i)) :=
  ⟨State.modRing_ring_same s i f, State.modRing_ring_other s i f, fun _ => rfl, rfl⟩
theorem State.modFunc_only (s : State) (i : Nat) (f : Func → Func) : OnlyFunc s (s.modFunc i f) i (f (s.func i)) :=
  ⟨State.modFunc_func_same s i f, State.modFunc_func_other s i f, fun _ => rfl, rfl⟩
theorem State.modPort_only (s : State) (i : Nat) (f : Port → Port) : OnlyPort s (s.modPort i f) i (f (s.port i)) :=
  ⟨State.modPort_port_same s i f, State.modPort_port_other s i f, fun _ => rfl, rfl⟩
theorem State.modSlot_only (s : State) (i : Nat) (f : Slot → Slot) : OnlySlot s (s.modSlot i f) i (f (s.slot i)) :=
  ⟨State.modSlot_slot_same s i f, State.modSlot_slot_other s i f, fun _ => rfl, rfl⟩

/-! ### Issue (R120, R121, R158) -/

/-- Tile `i` is `x` with STALL `n` higher; of the rest only the counter of free values may have moved. -/
def StallOnly (s u : State) (i n : Nat) : Prop :=
  OnlyTile { s with fresh := u.fresh } u i { s.tile i with stall := (s.tile i).stall + BitVec.ofNat 32 n }

theorem State.issue_done (s t : State) (i : Nat) (c : Instr) : ∃ u n, n ≤ 4 ∧ ((s.tile i).waitsLoad c = false → n = 0) ∧ StallOnly t u i n ∧
    (if (s.tile i).waitsLoad c = true then
      t.takeFresh.2.modTile i fun y => { y with stall := y.stall + BitVec.ofNat 32 ((Config.freeW32 t.takeFresh.1).toNat % 5) } else t) = u := by
  by_cases h : (s.tile i).waitsLoad c = true
  · let f : Tile → Tile := fun y => { y with stall := y.stall + BitVec.ofNat 32 ((Config.freeW32 t.fresh).toNat % 5) }
    refine ⟨({ t with fresh := t.fresh + 1 } : State).modTile i f, (Config.freeW32 t.fresh).toNat % 5, by omega, by simp [h], ?_, by simp [h, State.takeFresh, f]⟩
    exact State.modTile_only ({ t with fresh := t.fresh + 1 } : State) i f
  · refine ⟨t, 0, by omega, by simp, ⟨?_, fun _ _ => rfl, fun _ => rfl, rfl⟩, by simp [h]⟩
    simp

/-- The tile after an issue that goes on at word `pc`. -/
def Tile.goesOn (x y : Tile) (c : Instr) (pc : Nat) : Tile :=
  { y with pc := pc, issued := y.issued + 1, loads := x.loadsAfter c, st := if y.st = .stalled then .running else y.st }

theorem State.issue_jump (s : State) (i w : Nat) (c : Instr) (body : Nat → Issue) (t : State) (pc : Nat)
    (h : s.fetches i c w) (hb : body w = .jump t pc) : ∃ u n, n ≤ 4 ∧ ((s.tile i).waitsLoad c = false → n = 0) ∧ StallOnly t u i n ∧
    s.issue i c body = (u.modTile i fun y => (s.tile i).goesOn y c pc).checkPc w i := by
  obtain ⟨u, n, hn, h0, hu, e⟩ := State.issue_done s t i c
  refine ⟨u, n, hn, h0, hu, ?_⟩
  unfold State.issue
  rw [h.1]
  simp only [h.2.1, h.2.2, hb, ne_eq, not_true_eq_false, if_false, e, Tile.goesOn]

theorem State.issue_go (s : State) (i w : Nat) (c : Instr) (body : Nat → Issue) (t : State) (h : s.fetches i c w)
    (hb : body w = .go t) : ∃ u n, n ≤ 4 ∧ ((s.tile i).waitsLoad c = false → n = 0) ∧ StallOnly t u i n ∧
    s.issue i c body = (u.modTile i fun y => (s.tile i).goesOn y c (s.nextPc i)).checkPc w i := by
  obtain ⟨u, n, hn, h0, hu, e⟩ := State.issue_done s t i c
  refine ⟨u, n, hn, h0, hu, ?_⟩
  unfold State.issue
  rw [h.1]
  simp only [h.2.1, h.2.2, hb, ne_eq, not_true_eq_false, if_false, e, Tile.goesOn, State.nextPc]

theorem State.issue_exc (s : State) (i w : Nat) (c : Instr) (body : Nat → Issue) (cause : Nat) (d : W32)
    (h : s.fetches i c w) (hb : body w = .exc cause d) : s.issue i c body = s.takeExc w i cause d := by
  unfold State.issue
  rw [h.1]
  simp only [h.2.1, h.2.2, hb, ne_eq, not_true_eq_false, if_false]

theorem State.issue_stall (s : State) (i w : Nat) (c : Instr) (body : Nat → Issue) (h : s.fetches i c w)
    (hb : body w = .stall) :
    s.issue i c body = ({ s with fresh := s.fresh + 1 }).modTile i fun x =>
      { x with st := .stalled, stall := x.stall + Config.freeW32 s.fresh } := by
  unfold State.issue
  rw [h.1]
  simp only [h.2.1, h.2.2, hb, ne_eq, not_true_eq_false, if_false, State.takeFresh]

/-- A tile whose read at issue meets an uncorrectable error takes a main-array fault and issues nothing (R470). -/
theorem State.issue_soft (s : State) (i w : Nat) (c : Instr) (body : Nat → Issue) (k a : Nat) (h : s.issuer i = some w)
    (hf : s.fetched i = some c) (hs : s.softFetch i c = some (k, a)) : s.issue i c body = s.mainFault i k a := by
  unfold State.issue
  rw [h]
  simp only [hf, hs, ne_eq, not_true_eq_false, if_false]

/-- A tile that may not issue, or fetches another instruction, does nothing. -/
theorem State.issue_not (s : State) (i : Nat) (c : Instr) (body : Nat → Issue) (h : ∀ w, ¬ (s.issuer i = some w ∧ s.fetched i = some c)) :
    s.issue i c body = s := by
  unfold State.issue
  split
  · rfl
  · rename_i w hw
    split
    · rfl
    · rename_i hf
      exact absurd ⟨hw, by simpa using hf⟩ (h w)

/-- A running tile within its code takes no PC_RANGE. -/
theorem State.checkPc_in (s : State) (w i : Nat) (h : (s.tile i).pc < (s.tile i).codeEnd) : s.checkPc w i = s := by
  unfold State.checkPc
  simp only
  rw [if_neg]
  omega

/-- A tile that no longer runs takes no PC_RANGE. -/
theorem State.checkPc_idle (s : State) (w i : Nat) (h : (s.tile i).st ≠ .running) : s.checkPc w i = s := by
  unfold State.checkPc
  simp only
  rw [if_neg]
  exact fun x => h x.1

/-- The tile that fetches is running or stalled, and its pc lies in its code. -/
theorem State.fetches_runs (s : State) (i w : Nat) (c : Instr) (h : s.fetches i c w) :
    ((s.tile i).st = .running ∨ (s.tile i).st = .stalled) ∧ (s.tile i).pc < (s.tile i).codeEnd := by
  obtain ⟨h1, h2, -⟩ := h
  constructor
  · unfold State.issuer at h1
    simp only at h1
    split at h1
    · rename_i h; exact h.2.2.2.1
    · cases h1
  · unfold State.fetched at h2
    simp only at h2
    split at h2
    · assumption
    · cases h2

/-- An instruction that only changes its own tile and goes on within the code. -/
theorem State.issue_only (s : State) (i w : Nat) (c : Instr) (body : Nat → Issue) (f : Tile → Tile) (pc : Nat)
    (h : s.fetches i c w) (hb : body w = .go (s.modTile i f) ∧ pc = s.nextPc i ∨ body w = .jump (s.modTile i f) pc)
    (hp : pc < (f (s.tile i)).codeEnd) : Issued s (s.issue i c body) i c (f (s.tile i)) pc := by
  have e : ∃ u n, n ≤ 4 ∧ ((s.tile i).waitsLoad c = false → n = 0) ∧ StallOnly (s.modTile i f) u i n ∧
      s.issue i c body = (u.modTile i fun y => (s.tile i).goesOn y c pc).checkPc w i := by
    obtain ⟨hb, hpc⟩ | hb := hb
    · rw [hpc]; exact State.issue_go s i w c body _ h hb
    · exact State.issue_jump s i w c body _ _ h hb
  obtain ⟨u, n, hn, h0, ⟨hu, huo, hum, hur⟩, e⟩ := e
  rw [State.checkPc_in _ _ _ (by simpa [Tile.goesOn, hu] using hp)] at e
  refine ⟨n, hn, h0, ?_, ?_, ?_, ?_⟩
  · rw [e]; simp [Tile.goesOn, hu]
  · intro j hj
    rw [e]
    exact (State.modTile_tile_other u i _ j hj).trans ((huo j hj).trans (State.modTile_tile_other s i f j hj))
  · intro a; rw [e]; exact hum a
  · rw [e]; conv => lhs; rw [State.modTile, hur]
    rfl

end Sys2Proof.Machine
end

