-- ==== Sys2Proof/Laws/Kept.lean ====
section
/-! SUPPORT. What every operation of the block keeps, and how to show it of a composed one: the variant never changes
(R1), no meaning touches the queue of commands, and memory stays in canonical form. -/

namespace Sys2Proof.Machine
open Sys2Proof

/-- The state still has the variant `v₀`, the queue `q₀`, and memory in canonical form. -/
def Kept (v₀ : Variant) (q₀ : List Instr) (s : State) : Prop :=
  s.variant = v₀ ∧ s.pending = q₀ ∧ Memory.wf s.mem = true

/-- The same of what an instruction answers at issue. -/
def KeptI (v₀ : Variant) (q₀ : List Instr) : Issue → Prop
  | .stall => True
  | .exc _ _ => True
  | .go s => Kept v₀ q₀ s
  | .jump s _ => Kept v₀ q₀ s

/-- The same of the outcome of a meaning. -/
def KeptX (v₀ : Variant) (q₀ : List Instr) : Host.Outcome State Fault Refusal → Prop
  | .next t => Kept v₀ q₀ t
  | .fault _ => True
  | .refused _ => True

variable {v₀ : Variant} {q₀ : List Instr}

theorem KeptX.next {t : State} (h : Kept v₀ q₀ t) : KeptX v₀ q₀ (.next t) := h

theorem KeptI.stall : KeptI v₀ q₀ .stall := trivial
theorem KeptI.exc (c : Nat) (d : W32) : KeptI v₀ q₀ (.exc c d) := trivial
theorem KeptI.go {t : State} (h : Kept v₀ q₀ t) : KeptI v₀ q₀ (.go t) := h
theorem KeptI.jump {t : State} (p : Nat) (h : Kept v₀ q₀ t) : KeptI v₀ q₀ (.jump t p) := h

theorem Kept.of {s t : State} (h : Kept v₀ q₀ s) (h1 : t.variant = s.variant) (h2 : t.pending = s.pending)
    (h3 : t.mem = s.mem) : Kept v₀ q₀ t := by
  unfold Kept at *; rw [h1, h2, h3]; exact h

theorem Kept.forEach {α : Type} (xs : List α) (f : State → α → State)
    (hf : ∀ s a, Kept v₀ q₀ s → Kept v₀ q₀ (f s a)) (s : State) (h : Kept v₀ q₀ s) : Kept v₀ q₀ (forEach xs s f) :=
  forEach_keeps (Kept v₀ q₀) xs f hf s h

theorem Kept.foldl {α : Type} (xs : List α) (f : State → α → State)
    (hf : ∀ s a, Kept v₀ q₀ s → Kept v₀ q₀ (f s a)) (s : State) (h : Kept v₀ q₀ s) : Kept v₀ q₀ (xs.foldl f s) :=
  forEach_keeps (Kept v₀ q₀) xs f hf s h


theorem Kept.foldlBy {α σ : Type} (g : σ → State) (xs : List α) (f : σ → α → σ)
    (hf : ∀ p a, Kept v₀ q₀ (g p) → Kept v₀ q₀ (g (f p a))) (p : σ) (h : Kept v₀ q₀ (g p)) :
    Kept v₀ q₀ (g (xs.foldl f p)) := by
  induction xs generalizing p with
  | nil => exact h
  | cons x r ih => exact ih _ (hf _ _ h)

theorem Kept.foldlFst {α β : Type} (xs : List α) (f : State × β → α → State × β)
    (hf : ∀ p a, Kept v₀ q₀ p.1 → Kept v₀ q₀ (f p a).1) (p : State × β) (h : Kept v₀ q₀ p.1) :
    Kept v₀ q₀ (xs.foldl f p).1 := Kept.foldlBy Prod.fst xs f hf p h

theorem Kept.foldlSnd {α β : Type} (xs : List α) (f : β × State → α → β × State)
    (hf : ∀ p a, Kept v₀ q₀ p.2 → Kept v₀ q₀ (f p a).2) (p : β × State) (h : Kept v₀ q₀ p.2) :
    Kept v₀ q₀ (xs.foldl f p).2 := Kept.foldlBy Prod.snd xs f hf p h

theorem Kept.foldlD {α : Type} (xs : List α) (f : DOut → α → DOut)
    (hf : ∀ p a, Kept v₀ q₀ p.s → Kept v₀ q₀ (f p a).s) (p : DOut) (h : Kept v₀ q₀ p.s) :
    Kept v₀ q₀ (xs.foldl f p).s := Kept.foldlBy DOut.s xs f hf p h

theorem Kept.foldlP2 {α : Type} (xs : List α) (f : PassTwo → α → PassTwo)
    (hf : ∀ p a, Kept v₀ q₀ p.s → Kept v₀ q₀ (f p a).s) (p : PassTwo) (h : Kept v₀ q₀ p.s) :
    Kept v₀ q₀ (xs.foldl f p).s := Kept.foldlBy PassTwo.s xs f hf p h

theorem Kept.foldlD1 {α β : Type} (xs : List α) (f : DOut × β → α → DOut × β)
    (hf : ∀ p a, Kept v₀ q₀ p.1.s → Kept v₀ q₀ (f p a).1.s) (p : DOut × β) (h : Kept v₀ q₀ p.1.s) :
    Kept v₀ q₀ (xs.foldl f p).1.s := Kept.foldlBy (fun p => p.1.s) xs f hf p h

theorem Kept.lit {s : State} {fresh : Nat} {life : Life} {image : Image} {linkAddr : Nat} {standby : Bool} {tick : Nat} {secTags : Tab SecTag} {keyNext : Nat} {tiles : Tab Tile} {quads : Tab Quad} {chans : Tab Chan} {devs : Tab Dev} {upds : Tab Upd} {tblRegs : Tab W64} {links : Tab Link} {arbs : Tab W32} {hbms : Tab Hbm} {sites : Tab Site} {wards : Tab Ward} {dieFenced : Byte} {modFenced : Bool} {beats : Tab Nat} {funcs : Tab Func} {ports : Tab Port} {rings : Tab Ring} {opens : Tab (Option OpenCmd)} {journal : Tab JRec} {jrnNext : Nat} {jrnBoot : W64} {relays : List RelayOut} {routes : Tab RouteEnt} {tg : Nat} {tko : Option Takeover} {tkoQueue : List (Nat × Option Nat × Option Nat × Bool)} {heldXfers : List HeldXfer} {rot : Tab Nat} {xferPaths : List XferPath} {xidNext : Nat} {uncounted : List Nat} {peerReads : List PeerRead} {trees : Tab Tree} {mcWait : List (List Nat × Flit × List Byte)} {tkoLog : List (Nat × Nat)} {rollSends : Nat} {rollAt : Tab Nat} {rollRounds : W32} {rollHeld : Byte} {rollSelfDiv : Bool} {rollSelfBad : Bool} {rollDiv : W64} {rollSilent : W64} {rollRecs : Tab RollRec} {ctlTmo : W32} {slots : Tab Slot} {retires : List Retire} {atts : List Att} {faults : Tab FRec} {saf : Saf} {pwr : Pwr} {boot : Boot} {flash : Flash} {sec : Sec} {sent : List Output} (h : Kept v₀ q₀ s) :
    Kept v₀ q₀ { pending := s.pending, fresh := fresh, variant := s.variant, life := life, image := image, linkAddr := linkAddr, standby := standby, tick := tick, mem := s.mem, secTags := secTags, keyNext := keyNext, tiles := tiles, quads := quads, chans := chans, devs := devs, upds := upds, tblRegs := tblRegs, links := links, arbs := arbs, hbms := hbms, sites := sites, wards := wards, dieFenced := dieFenced, modFenced := modFenced, beats := beats, funcs := funcs, ports := ports, rings := rings, opens := opens, journal := journal, jrnNext := jrnNext, jrnBoot := jrnBoot, relays := relays, routes := routes, tg := tg, tko := tko, tkoQueue := tkoQueue, heldXfers := heldXfers, rot := rot, xferPaths := xferPaths, xidNext := xidNext, uncounted := uncounted, peerReads := peerReads, trees := trees, mcWait := mcWait, tkoLog := tkoLog, rollSends := rollSends, rollAt := rollAt, rollRounds := rollRounds, rollHeld := rollHeld, rollSelfDiv := rollSelfDiv, rollSelfBad := rollSelfBad, rollDiv := rollDiv, rollSilent := rollSilent, rollRecs := rollRecs, ctlTmo := ctlTmo, slots := slots, retires := retires, atts := atts, faults := faults, saf := saf, pwr := pwr, boot := boot, flash := flash, sec := sec, sent := sent } := h

theorem Kept.litMem {s : State} {fresh : Nat} {life : Life} {image : Image} {linkAddr : Nat} {standby : Bool} {tick : Nat} {secTags : Tab SecTag} {keyNext : Nat} {tiles : Tab Tile} {quads : Tab Quad} {chans : Tab Chan} {devs : Tab Dev} {upds : Tab Upd} {tblRegs : Tab W64} {links : Tab Link} {arbs : Tab W32} {hbms : Tab Hbm} {sites : Tab Site} {wards : Tab Ward} {dieFenced : Byte} {modFenced : Bool} {beats : Tab Nat} {funcs : Tab Func} {ports : Tab Port} {rings : Tab Ring} {opens : Tab (Option OpenCmd)} {journal : Tab JRec} {jrnNext : Nat} {jrnBoot : W64} {relays : List RelayOut} {routes : Tab RouteEnt} {tg : Nat} {tko : Option Takeover} {tkoQueue : List (Nat × Option Nat × Option Nat × Bool)} {heldXfers : List HeldXfer} {rot : Tab Nat} {xferPaths : List XferPath} {xidNext : Nat} {uncounted : List Nat} {peerReads : List PeerRead} {trees : Tab Tree} {mcWait : List (List Nat × Flit × List Byte)} {tkoLog : List (Nat × Nat)} {rollSends : Nat} {rollAt : Tab Nat} {rollRounds : W32} {rollHeld : Byte} {rollSelfDiv : Bool} {rollSelfBad : Bool} {rollDiv : W64} {rollSilent : W64} {rollRecs : Tab RollRec} {ctlTmo : W32} {slots : Tab Slot} {retires : List Retire} {atts : List Att} {faults : Tab FRec} {saf : Saf} {pwr : Pwr} {boot : Boot} {flash : Flash} {sec : Sec} {sent : List Output} {m : List Host.Cell} (h : Kept v₀ q₀ s) (hm : Memory.wf m = true) :
    Kept v₀ q₀ { pending := s.pending, fresh := fresh, variant := s.variant, life := life, image := image, linkAddr := linkAddr, standby := standby, tick := tick, mem := m, secTags := secTags, keyNext := keyNext, tiles := tiles, quads := quads, chans := chans, devs := devs, upds := upds, tblRegs := tblRegs, links := links, arbs := arbs, hbms := hbms, sites := sites, wards := wards, dieFenced := dieFenced, modFenced := modFenced, beats := beats, funcs := funcs, ports := ports, rings := rings, opens := opens, journal := journal, jrnNext := jrnNext, jrnBoot := jrnBoot, relays := relays, routes := routes, tg := tg, tko := tko, tkoQueue := tkoQueue, heldXfers := heldXfers, rot := rot, xferPaths := xferPaths, xidNext := xidNext, uncounted := uncounted, peerReads := peerReads, trees := trees, mcWait := mcWait, tkoLog := tkoLog, rollSends := rollSends, rollAt := rollAt, rollRounds := rollRounds, rollHeld := rollHeld, rollSelfDiv := rollSelfDiv, rollSelfBad := rollSelfBad, rollDiv := rollDiv, rollSilent := rollSilent, rollRecs := rollRecs, ctlTmo := ctlTmo, slots := slots, retires := retires, atts := atts, faults := faults, saf := saf, pwr := pwr, boot := boot, flash := flash, sec := sec, sent := sent } := ⟨h.1, h.2.1, hm⟩

theorem Kept.mem {s : State} (h : Kept v₀ q₀ s) : Memory.wf s.mem = true := h.2.2

end Sys2Proof.Machine
end

