-- ==== Sys2Proof/Laws/KeptTile.lean ====
section
/-! SUPPORT. What is kept by the links, the shared operations, translation, the tiles and the chain engine: every operation and every meaning keeps the variant, the queue and the
canonical form of memory (`Kept`). -/

set_option linter.unusedTactic false
set_option linter.unreachableTactic false
set_option linter.unusedVariables false

namespace Sys2Proof.Machine
open Sys2Proof
variable {v₀ : Variant} {q₀ : List Instr}

/-! ### State -/

/-! ### Units -/

theorem State.modTile_kept (s : State) (i : Nat) (f : Tile → Tile) (h0 : Kept v₀ q₀ s) : Kept v₀ q₀ (State.modTile s i f) := by
  unfold State.modTile
  try dsimp only
  repeat' (first | (with_reducible first | assumption) | intro _ | fail_if_no_progress (with_reducible apply Kept.lit) | split | fail_if_no_progress dsimp only | fail_if_no_progress dsimp only [id])

theorem State.modQuad_kept (s : State) (i : Nat) (f : Quad → Quad) (h0 : Kept v₀ q₀ s) : Kept v₀ q₀ (State.modQuad s i f) := by
  unfold State.modQuad
  try dsimp only
  repeat' (first | (with_reducible first | assumption) | intro _ | fail_if_no_progress (with_reducible apply Kept.lit) | split | fail_if_no_progress dsimp only | fail_if_no_progress dsimp only [id])

theorem State.modChan_kept (s : State) (i : Nat) (f : Chan → Chan) (h0 : Kept v₀ q₀ s) : Kept v₀ q₀ (State.modChan s i f) := by
  unfold State.modChan
  try dsimp only
  repeat' (first | (with_reducible first | assumption) | intro _ | fail_if_no_progress (with_reducible apply Kept.lit) | split | fail_if_no_progress dsimp only | fail_if_no_progress dsimp only [id])

theorem State.modDev_kept (s : State) (i : Nat) (f : Dev → Dev) (h0 : Kept v₀ q₀ s) : Kept v₀ q₀ (State.modDev s i f) := by
  unfold State.modDev
  try dsimp only
  repeat' (first | (with_reducible first | assumption) | intro _ | fail_if_no_progress (with_reducible apply Kept.lit) | split | fail_if_no_progress dsimp only | fail_if_no_progress dsimp only [id])

theorem State.modUpd_kept (s : State) (i : Nat) (f : Upd → Upd) (h0 : Kept v₀ q₀ s) : Kept v₀ q₀ (State.modUpd s i f) := by
  unfold State.modUpd
  try dsimp only
  repeat' (first | (with_reducible first | assumption) | intro _ | fail_if_no_progress (with_reducible apply Kept.lit) | split | fail_if_no_progress dsimp only | fail_if_no_progress dsimp only [id])

theorem State.modLink_kept (s : State) (i : Nat) (f : Link → Link) (h0 : Kept v₀ q₀ s) : Kept v₀ q₀ (State.modLink s i f) := by
  unfold State.modLink
  try dsimp only
  repeat' (first | (with_reducible first | assumption) | intro _ | fail_if_no_progress (with_reducible apply Kept.lit) | split | fail_if_no_progress dsimp only | fail_if_no_progress dsimp only [id])

theorem State.modHbm_kept (s : State) (i : Nat) (f : Hbm → Hbm) (h0 : Kept v₀ q₀ s) : Kept v₀ q₀ (State.modHbm s i f) := by
  unfold State.modHbm
  try dsimp only
  repeat' (first | (with_reducible first | assumption) | intro _ | fail_if_no_progress (with_reducible apply Kept.lit) | split | fail_if_no_progress dsimp only | fail_if_no_progress dsimp only [id])

theorem State.modWard_kept (s : State) (i : Nat) (f : Ward → Ward) (h0 : Kept v₀ q₀ s) : Kept v₀ q₀ (State.modWard s i f) := by
  unfold State.modWard
  try dsimp only
  repeat' (first | (with_reducible first | assumption) | intro _ | fail_if_no_progress (with_reducible apply Kept.lit) | split | fail_if_no_progress dsimp only | fail_if_no_progress dsimp only [id])

theorem State.modRing_kept (s : State) (i : Nat) (f : Ring → Ring) (h0 : Kept v₀ q₀ s) : Kept v₀ q₀ (State.modRing s i f) := by
  unfold State.modRing
  try dsimp only
  repeat' (first | (with_reducible first | assumption) | intro _ | fail_if_no_progress (with_reducible apply Kept.lit) | split | fail_if_no_progress dsimp only | fail_if_no_progress dsimp only [id])

theorem State.modFunc_kept (s : State) (i : Nat) (f : Func → Func) (h0 : Kept v₀ q₀ s) : Kept v₀ q₀ (State.modFunc s i f) := by
  unfold State.modFunc
  try dsimp only
  repeat' (first | (with_reducible first | assumption) | intro _ | fail_if_no_progress (with_reducible apply Kept.lit) | split | fail_if_no_progress dsimp only | fail_if_no_progress dsimp only [id])

theorem State.modPort_kept (s : State) (i : Nat) (f : Port → Port) (h0 : Kept v₀ q₀ s) : Kept v₀ q₀ (State.modPort s i f) := by
  unfold State.modPort
  try dsimp only
  repeat' (first | (with_reducible first | assumption) | intro _ | fail_if_no_progress (with_reducible apply Kept.lit) | split | fail_if_no_progress dsimp only | fail_if_no_progress dsimp only [id])

theorem State.modSlot_kept (s : State) (i : Nat) (f : Slot → Slot) (h0 : Kept v₀ q₀ s) : Kept v₀ q₀ (State.modSlot s i f) := by
  unfold State.modSlot
  try dsimp only
  repeat' (first | (with_reducible first | assumption) | intro _ | fail_if_no_progress (with_reducible apply Kept.lit) | split | fail_if_no_progress dsimp only | fail_if_no_progress dsimp only [id])

theorem State.modSite_kept (s : State) (i : Nat) (f : Site → Site) (h0 : Kept v₀ q₀ s) : Kept v₀ q₀ (State.modSite s i f) := by
  unfold State.modSite
  try dsimp only
  repeat' (first | (with_reducible first | assumption) | intro _ | fail_if_no_progress (with_reducible apply Kept.lit) | split | fail_if_no_progress dsimp only | fail_if_no_progress dsimp only [id])

theorem State.emit_kept (s : State) (o : Output) (h0 : Kept v₀ q₀ s) : Kept v₀ q₀ (State.emit s o) := by
  unfold State.emit
  try dsimp only
  repeat' (first | (with_reducible first | assumption) | intro _ | fail_if_no_progress (with_reducible apply Kept.lit) | split | fail_if_no_progress dsimp only | fail_if_no_progress dsimp only [id])

theorem State.takeFresh_kept (s : State) (h0 : Kept v₀ q₀ s) : Kept v₀ q₀ (State.takeFresh s).2 := by
  unfold State.takeFresh
  try dsimp only
  repeat' (first | (with_reducible first | assumption) | intro _ | fail_if_no_progress (with_reducible apply Kept.lit) | split | fail_if_no_progress dsimp only | fail_if_no_progress dsimp only [id])

theorem State.takeFresh_keptEq {s : State} {x} {y} (h0 : Kept v₀ q₀ s) (e : (State.takeFresh s) = (x, y)) : Kept v₀ q₀ y := by
  have e' := congrArg Prod.snd e
  dsimp only at e'
  subst e'
  exact State.takeFresh_kept s h0

/-! ### LinkTx -/

theorem State.sendOne_kept (s : State) (k : Nat) (h : Kept v₀ q₀ s) : ∀ t, State.sendOne s k = some t → Kept v₀ q₀ t := by
  intro t ht
  unfold State.sendOne at ht
  dsimp only at ht
  repeat' (first | cases ht | split at ht)
  exact h

theorem State.sendOne_keptSome {s : State} {k : Nat} {t : State} (h0 : Kept v₀ q₀ s) (hsome : (State.sendOne s k) = some t) : Kept v₀ q₀ t := State.sendOne_kept s k h0 t hsome

theorem State.pumpN_kept (n : Nat) (s : State) (k : Nat) (h : Kept v₀ q₀ s) : Kept v₀ q₀ (State.pumpN n s k) := by
  induction n generalizing s with
  | zero => exact h
  | succ n ih =>
    unfold State.pumpN
    split
    · exact ih _ (State.sendOne_kept s k h _ ‹_›)
    · exact h

theorem State.pump_kept (s : State) (k : Nat) (h0 : Kept v₀ q₀ s) : Kept v₀ q₀ (State.pump s k) := by
  unfold State.pump
  try dsimp only
  repeat' (first | (with_reducible first | assumption | apply State.pumpN_kept) | intro _ | fail_if_no_progress (with_reducible apply Kept.lit) | split | fail_if_no_progress dsimp only | fail_if_no_progress dsimp only [id])

theorem State.idleFlit_kept (s : State) (k : Nat) (h0 : Kept v₀ q₀ s) : Kept v₀ q₀ (State.idleFlit s k) := by
  unfold State.idleFlit
  try dsimp only
  repeat' (first | (with_reducible first | assumption | apply State.modLink_kept | apply State.emit_kept) | intro _ | fail_if_no_progress (with_reducible apply Kept.lit) | split | fail_if_no_progress dsimp only | fail_if_no_progress dsimp only [id])

theorem State.enqueue_kept (s : State) (k : Nat) (f : Flit) (p : List Byte) (h0 : Kept v₀ q₀ s) : Kept v₀ q₀ (State.enqueue s k f p) := by
  unfold State.enqueue
  try dsimp only
  repeat' (first | (with_reducible first | assumption | apply State.modLink_kept | apply State.pump_kept) | intro _ | fail_if_no_progress (with_reducible apply Kept.lit) | split | fail_if_no_progress dsimp only | fail_if_no_progress dsimp only [id])

theorem State.mcPump_kept (n : Nat) (s : State) (h : Kept v₀ q₀ s) : Kept v₀ q₀ (State.mcPump n s) := by
  induction n generalizing s with
  | zero => exact h
  | succ n ih =>
    unfold State.mcPump
    split
    · exact h
    · dsimp only
      split
      · exact ih _ (Kept.forEach _ _ (fun t a ht => State.enqueue_kept t a _ _ ht) _ h)
      · exact h

theorem State.mcSend_kept (s : State) (ports : List Nat) (f : Flit) (p : List Byte) (h0 : Kept v₀ q₀ s) : Kept v₀ q₀ (State.mcSend s ports f p) := by
  unfold State.mcSend
  try dsimp only
  repeat' (first | (with_reducible first | assumption | apply State.mcPump_kept) | intro _ | fail_if_no_progress (with_reducible apply Kept.lit) | split | fail_if_no_progress dsimp only | fail_if_no_progress dsimp only [id])

theorem State.portOf_kept (s : State) (own : Option Nat) (f : Flit) (h0 : Kept v₀ q₀ s) : Kept v₀ q₀ (State.portOf s own f).2 := by
  unfold State.portOf
  try dsimp only
  repeat' (first | (with_reducible first | assumption) | intro _ | fail_if_no_progress (with_reducible apply Kept.lit) | split | fail_if_no_progress dsimp only | fail_if_no_progress dsimp only [id])

theorem State.portOf_keptEq {s : State} {own : Option Nat} {f : Flit} {x} {y} (h0 : Kept v₀ q₀ s) (e : (State.portOf s own f) = (x, y)) : Kept v₀ q₀ y := by
  have e' := congrArg Prod.snd e
  dsimp only at e'
  subst e'
  exact State.portOf_kept s own f h0

theorem State.route_kept (s : State) (f : Flit) (p : List Byte) (own : Option Nat) (h0 : Kept v₀ q₀ s) : Kept v₀ q₀ (State.route s f p own) := by
  unfold State.route
  try dsimp only
  repeat' (first | (with_reducible first | assumption | apply State.enqueue_kept | apply State.portOf_kept) | (refine State.portOf_keptEq ?_ ‹_›) | intro _ | fail_if_no_progress (with_reducible apply Kept.lit) | split | fail_if_no_progress dsimp only | fail_if_no_progress dsimp only [id])

theorem State.uncount_kept (s : State) (t : State) (h0 : Kept v₀ q₀ s) (h1 : Kept v₀ q₀ t) : Kept v₀ q₀ (State.uncount s t) := by
  unfold State.uncount
  try dsimp only
  repeat' (first | (with_reducible first | assumption) | intro _ | fail_if_no_progress (with_reducible apply Kept.lit) | split | fail_if_no_progress dsimp only | fail_if_no_progress dsimp only [id])

theorem State.pruneUncounted_kept (s : State) (h0 : Kept v₀ q₀ s) : Kept v₀ q₀ (State.pruneUncounted s) := by
  unfold State.pruneUncounted
  try dsimp only
  repeat' (first | (with_reducible first | assumption) | intro _ | fail_if_no_progress (with_reducible apply Kept.lit) | split | fail_if_no_progress dsimp only | fail_if_no_progress dsimp only [id])

theorem State.nextXid_kept (s : State) (h0 : Kept v₀ q₀ s) : Kept v₀ q₀ (State.nextXid s).2 := by
  unfold State.nextXid
  try dsimp only
  repeat' (first | (with_reducible first | assumption) | intro _ | fail_if_no_progress (with_reducible apply Kept.lit) | split | fail_if_no_progress dsimp only | fail_if_no_progress dsimp only [id])

theorem State.nextXid_keptEq {s : State} {x} {y} (h0 : Kept v₀ q₀ s) (e : (State.nextXid s) = (x, y)) : Kept v₀ q₀ y := by
  have e' := congrArg Prod.snd e
  dsimp only at e'
  subst e'
  exact State.nextXid_kept s h0

theorem State.sendXfer_kept (s : State) (x : Sender) (type : Nat) (vc : Nat) (bs : List Byte) (h0 : Kept v₀ q₀ s) : Kept v₀ q₀ (State.sendXfer s x type vc bs) := by
  unfold State.sendXfer
  try dsimp only
  repeat' (first | (with_reducible first | assumption | apply Kept.forEach | apply State.route_kept) | intro _ | fail_if_no_progress (with_reducible apply Kept.lit) | split | fail_if_no_progress dsimp only | fail_if_no_progress dsimp only [id])

theorem State.sender_kept (s : State) (w : Nat) (c : Nat) (m : Nat) (h0 : Kept v₀ q₀ s) : Kept v₀ q₀ (State.sender s w c m).2 := by
  unfold State.sender
  try dsimp only
  repeat' (first | (with_reducible first | assumption | apply State.nextXid_kept) | (refine State.nextXid_keptEq ?_ ‹_›) | intro _ | fail_if_no_progress (with_reducible apply Kept.lit) | split | fail_if_no_progress dsimp only | fail_if_no_progress dsimp only [id])

theorem State.sender_keptEq {s : State} {w : Nat} {c : Nat} {m : Nat} {x} {y} (h0 : Kept v₀ q₀ s) (e : (State.sender s w c m) = (x, y)) : Kept v₀ q₀ y := by
  have e' := congrArg Prod.snd e
  dsimp only at e'
  subst e'
  exact State.sender_kept s w c m h0

theorem State.sendWrite_kept (s : State) (w : Nat) (c : Nat) (m : Nat) (va : Nat) (bs : List Byte) (h0 : Kept v₀ q₀ s) : Kept v₀ q₀ (State.sendWrite s w c m va bs) := by
  unfold State.sendWrite
  try dsimp only
  repeat' (first | (with_reducible first | assumption | apply State.sendXfer_kept | apply State.sender_kept) | (refine State.sender_keptEq ?_ ‹_›) | intro _ | fail_if_no_progress (with_reducible apply Kept.lit) | split | fail_if_no_progress dsimp only | fail_if_no_progress dsimp only [id])

theorem State.sendRead_kept (s : State) (w : Nat) (c : Nat) (ch : Nat) (at' : Nat) (m : Nat) (va : Nat) (n : Nat) (h0 : Kept v₀ q₀ s) : Kept v₀ q₀ (State.sendRead s w c ch at' m va n) := by
  unfold State.sendRead
  try dsimp only
  repeat' (first | (with_reducible first | assumption | apply State.sendXfer_kept | apply State.sender_kept) | (refine State.sender_keptEq ?_ ‹_›) | intro _ | fail_if_no_progress (with_reducible apply Kept.lit) | split | fail_if_no_progress dsimp only | fail_if_no_progress dsimp only [id])

theorem State.ctlFlit_kept (s : State) (a : Nat) (h0 : Kept v₀ q₀ s) : Kept v₀ q₀ (State.ctlFlit s a) := by
  unfold State.ctlFlit
  try dsimp only
  repeat' (first | (with_reducible first | assumption | apply State.takeFresh_kept | apply State.route_kept | apply State.nextXid_kept) | (refine State.takeFresh_keptEq ?_ ‹_›) | (refine State.nextXid_keptEq ?_ ‹_›) | intro _ | fail_if_no_progress (with_reducible apply Kept.lit) | split | fail_if_no_progress dsimp only | fail_if_no_progress dsimp only [id])

theorem State.ctl_kept (s : State) (a : Nat) (o : Output) (h0 : Kept v₀ q₀ s) : Kept v₀ q₀ (State.ctl s a o) := by
  unfold State.ctl
  try dsimp only
  repeat' (first | (with_reducible first | assumption | apply State.emit_kept | apply State.ctlFlit_kept) | intro _ | fail_if_no_progress (with_reducible apply Kept.lit) | split | fail_if_no_progress dsimp only | fail_if_no_progress dsimp only [id])

theorem State.ctlBytes_kept (s : State) (a : Nat) (o : Output) (bs : List Byte) (h0 : Kept v₀ q₀ s) : Kept v₀ q₀ (State.ctlBytes s a o bs) := by
  unfold State.ctlBytes
  try dsimp only
  repeat' (first | (with_reducible first | assumption | apply State.emit_kept | apply State.nextXid_kept | apply State.sendXfer_kept) | (refine State.nextXid_keptEq ?_ ‹_›) | intro _ | fail_if_no_progress (with_reducible apply Kept.lit) | split | fail_if_no_progress dsimp only | fail_if_no_progress dsimp only [id])

theorem State.sendMarker_kept (s : State) (a : Nat) (kind : Nat) (ward : Nat) (master : Nat) (beat : W64) (cmds : List (Nat × Nat)) (h0 : Kept v₀ q₀ s) : Kept v₀ q₀ (State.sendMarker s a kind ward master beat cmds) := by
  unfold State.sendMarker
  try dsimp only
  repeat' (first | (with_reducible first | assumption | apply State.emit_kept | apply State.route_kept | apply State.nextXid_kept) | (refine State.nextXid_keptEq ?_ ‹_›) | intro _ | fail_if_no_progress (with_reducible apply Kept.lit) | split | fail_if_no_progress dsimp only | fail_if_no_progress dsimp only [id])

theorem State.stopMarkers_kept (s : State) (ev : Nat) (h0 : Kept v₀ q₀ s) : Kept v₀ q₀ (State.stopMarkers s ev) := by
  unfold State.stopMarkers
  try dsimp only
  repeat' (first | (with_reducible first | assumption | apply Kept.forEach | apply State.enqueue_kept | apply State.nextXid_kept) | (refine State.nextXid_keptEq ?_ ‹_›) | intro _ | fail_if_no_progress (with_reducible apply Kept.lit) | split | fail_if_no_progress dsimp only | fail_if_no_progress dsimp only [id])

/-! ### Ops -/

theorem State.wrByte_kept (s : State) (pa : Nat) (b : Byte) (h : Kept v₀ q₀ s) : Kept v₀ q₀ (State.wrByte s pa b) :=
  ⟨h.1, h.2.1, State.wf_wrByte s pa b h.2.2⟩

theorem State.wrBytes_kept (s : State) (pa : Nat) (bs : List Byte) (h : Kept v₀ q₀ s) : Kept v₀ q₀ (State.wrBytes s pa bs) :=
  ⟨h.1, h.2.1, State.wf_wrBytes s pa bs h.2.2⟩

theorem State.seen_kept (s : State) (cells : List (Nat × Byte)) (h : Kept v₀ q₀ s) : Kept v₀ q₀ (State.seen s cells) :=
  ⟨h.1, h.2.1, State.wf_seen s cells h.2.2⟩

theorem State.mendStore_kept (s : State) (i : Nat) (off : Nat) (n : Nat) (h0 : Kept v₀ q₀ s) : Kept v₀ q₀ (State.mendStore s i off n) := by
  unfold State.mendStore
  try dsimp only
  repeat' (first | (with_reducible first | assumption | apply State.modTile_kept) | intro _ | fail_if_no_progress (with_reducible apply Kept.lit) | split | fail_if_no_progress dsimp only | fail_if_no_progress dsimp only [id])

theorem State.wrStore_kept (s : State) (i : Nat) (off : Nat) (bs : List Byte) (h0 : Kept v₀ q₀ s) : Kept v₀ q₀ (State.wrStore s i off bs) := by
  unfold State.wrStore
  try dsimp only
  repeat' (first | (with_reducible first | assumption | apply State.wrBytes_kept | apply State.mendStore_kept) | intro _ | fail_if_no_progress (with_reducible apply Kept.lit) | split | fail_if_no_progress dsimp only | fail_if_no_progress dsimp only [id])

theorem State.wrStoreCells_kept (s : State) (i : Nat) (cells : List (Nat × Byte)) (h : Kept v₀ q₀ s) :
    Kept v₀ q₀ (State.wrStoreCells s i cells) := by
  have k : Kept v₀ q₀ ({ s with mem := cells.foldl (fun m (o, b) => Tab.set (β := Byte) m (tileBase i + o) b) s.mem } : State) :=
    ⟨h.1, h.2.1, wf_landCells s.mem _ _ h.2.2⟩
  unfold State.wrStoreCells
  split
  · exact k
  · exact State.modTile_kept _ _ _ k

theorem State.clearRange_kept (s : State) (pa n : Nat) (h : Kept v₀ q₀ s) : Kept v₀ q₀ (State.clearRange s pa n) :=
  ⟨h.1, h.2.1, State.wf_clearRange s pa n h.2.2⟩

theorem State.msix_kept (s : State) (port : Nat) (func : Nat) (vec : Nat) (h0 : Kept v₀ q₀ s) : Kept v₀ q₀ (State.msix s port func vec) := by
  unfold State.msix
  try dsimp only
  repeat' (first | (with_reducible first | assumption | apply State.modFunc_kept | apply State.emit_kept) | intro _ | fail_if_no_progress (with_reducible apply Kept.lit) | split | fail_if_no_progress dsimp only | fail_if_no_progress dsimp only [id])

theorem State.hostWrite_kept (s : State) (port func addr : Nat) (bs : List Byte) (h : Kept v₀ q₀ s) :
    ∀ t, State.hostWrite s port func addr bs = some t → Kept v₀ q₀ t := by
  intro t ht
  unfold State.hostWrite at ht
  split at ht
  · cases ht; exact State.wrBytes_kept s _ bs h
  · cases ht

theorem State.hostWrite_keptSome {s : State} {port : Nat} {func : Nat} {addr : Nat} {bs : List Byte} {t : State} (h0 : Kept v₀ q₀ s) (hsome : (State.hostWrite s port func addr bs) = some t) : Kept v₀ q₀ t := State.hostWrite_kept s port func addr bs h0 t hsome

theorem State.jrnAdd_kept (s : State) (r : JRec) (h0 : Kept v₀ q₀ s) : Kept v₀ q₀ (State.jrnAdd s r) := by
  unfold State.jrnAdd
  try dsimp only
  repeat' (first | (with_reducible first | assumption) | intro _ | fail_if_no_progress (with_reducible apply Kept.lit) | split | fail_if_no_progress dsimp only | fail_if_no_progress dsimp only [id])

theorem State.jrnDone_kept (s : State) (seq : Nat) (status : Byte) (st : Nat) (beat : W64) (h0 : Kept v₀ q₀ s) : Kept v₀ q₀ (State.jrnDone s seq status st beat) := by
  unfold State.jrnDone
  try dsimp only
  repeat' (first | (with_reducible first | assumption) | intro _ | fail_if_no_progress (with_reducible apply Kept.lit) | split | fail_if_no_progress dsimp only | fail_if_no_progress dsimp only [id])

theorem State.mirrorTo_kept (s : State) (port : Nat) (en : Bool) (reg : W64) (r : FRec) (h0 : Kept v₀ q₀ s) : Kept v₀ q₀ (State.mirrorTo s port en reg r) := by
  unfold State.mirrorTo
  try dsimp only
  repeat' (first | (with_reducible first | assumption | apply State.msix_kept) | (refine State.hostWrite_keptSome ?_ ‹_›) | intro _ | fail_if_no_progress (with_reducible apply Kept.lit) | split | fail_if_no_progress dsimp only | fail_if_no_progress dsimp only [id])

theorem State.report_kept (s : State) (r : FRec) (h0 : Kept v₀ q₀ s) : Kept v₀ q₀ (State.report s r) := by
  unfold State.report
  try dsimp only
  repeat' (first | (with_reducible first | assumption | apply State.emit_kept | apply State.takeFresh_kept | apply State.jrnAdd_kept | apply State.mirrorTo_kept) | (refine State.takeFresh_keptEq ?_ ‹_›) | intro _ | fail_if_no_progress (with_reducible apply Kept.lit) | split | fail_if_no_progress dsimp only | fail_if_no_progress dsimp only [id])

theorem State.noteSoft_kept (s : State) (i : Nat) (rs : List (Nat × Nat)) (h0 : Kept v₀ q₀ s) : Kept v₀ q₀ (State.noteSoft s i rs) := by
  unfold State.noteSoft
  try dsimp only
  repeat' (first | (with_reducible first | assumption | apply Kept.forEach | apply State.report_kept) | intro _ | fail_if_no_progress (with_reducible apply Kept.lit) | split | fail_if_no_progress dsimp only | fail_if_no_progress dsimp only [id])

theorem State.cqWrite_kept (s : State) (k : Nat) (c : Cpl) (h0 : Kept v₀ q₀ s) : Kept v₀ q₀ (State.cqWrite s k c) := by
  unfold State.cqWrite
  try dsimp only
  repeat' (first | (with_reducible first | assumption | apply State.modRing_kept | apply State.msix_kept) | (refine State.hostWrite_keptSome ?_ ‹_›) | intro _ | fail_if_no_progress (with_reducible apply Kept.lit) | split | fail_if_no_progress dsimp only | fail_if_no_progress dsimp only [id])

theorem State.post_kept (s : State) (k : Nat) (c : Cpl) (h0 : Kept v₀ q₀ s) : Kept v₀ q₀ (State.post s k c) := by
  unfold State.post
  try dsimp only
  repeat' (first | (with_reducible first | assumption | apply State.modRing_kept | apply State.cqWrite_kept) | intro _ | fail_if_no_progress (with_reducible apply Kept.lit) | split | fail_if_no_progress dsimp only | fail_if_no_progress dsimp only [id])

theorem State.drainCq_kept (n : Nat) (s : State) (k : Nat) (h : Kept v₀ q₀ s) : Kept v₀ q₀ (State.drainCq n s k) := by
  induction n generalizing s with
  | zero => exact h
  | succ n ih =>
    unfold State.drainCq
    dsimp only
    split
    · exact h
    · split
      · exact h
      · exact ih _ (State.cqWrite_kept _ k _ h)

theorem State.complete_kept (s : State) (jseq : Nat) (st : St) (detail : W32) (h0 : Kept v₀ q₀ s) : Kept v₀ q₀ (State.complete s jseq st detail) := by
  unfold State.complete
  try dsimp only
  repeat' (first | (with_reducible first | assumption | apply State.ctl_kept | apply State.jrnDone_kept | apply State.post_kept) | intro _ | fail_if_no_progress (with_reducible apply Kept.lit) | split | fail_if_no_progress dsimp only | fail_if_no_progress dsimp only [id])

theorem State.jobFault_kept (s : State) (w : Nat) (st : St) (h0 : Kept v₀ q₀ s) : Kept v₀ q₀ (State.jobFault s w st) := by
  unfold State.jobFault
  try dsimp only
  repeat' (first | (with_reducible first | assumption | apply State.modWard_kept) | intro _ | fail_if_no_progress (with_reducible apply Kept.lit) | split | fail_if_no_progress dsimp only | fail_if_no_progress dsimp only [id])

theorem State.jobFaultDie_kept (s : State) (n : Nat) (st : St) (h0 : Kept v₀ q₀ s) : Kept v₀ q₀ (State.jobFaultDie s n st) := by
  unfold State.jobFaultDie
  try dsimp only
  repeat' (first | (with_reducible first | assumption | apply State.jobFault_kept) | intro _ | fail_if_no_progress (with_reducible apply Kept.lit) | split | fail_if_no_progress dsimp only | fail_if_no_progress dsimp only [id])

theorem State.losePositions_kept (s : State) (w : Nat) (c : Nat) (b : Nat) (st : St) (pos : Option Nat) (h0 : Kept v₀ q₀ s) : Kept v₀ q₀ (State.losePositions s w c b st pos) := by
  unfold State.losePositions
  try dsimp only
  repeat' (first | (with_reducible first | assumption | apply State.modWard_kept) | intro _ | fail_if_no_progress (with_reducible apply Kept.lit) | split | fail_if_no_progress dsimp only | fail_if_no_progress dsimp only [id])

theorem State.notePoison_kept (s : State) (i : Nat) (bank : Nat) (unit : Nat) (idx : Nat) (h0 : Kept v₀ q₀ s) : Kept v₀ q₀ (State.notePoison s i bank unit idx) := by
  unfold State.notePoison
  try dsimp only
  repeat' (first | (with_reducible first | assumption | apply State.report_kept | apply State.jobFault_kept | apply State.losePositions_kept) | intro _ | fail_if_no_progress (with_reducible apply Kept.lit) | split | fail_if_no_progress dsimp only | fail_if_no_progress dsimp only [id])

theorem State.onSite_kept (s : State) (i : Nat) (f : Site → Site) (h0 : Kept v₀ q₀ s) : Kept v₀ q₀ (State.onSite s i f) := by
  unfold State.onSite
  try dsimp only
  repeat' (first | (with_reducible first | assumption | apply State.modWard_kept | apply State.modSite_kept) | intro _ | fail_if_no_progress (with_reducible apply Kept.lit) | split | fail_if_no_progress dsimp only | fail_if_no_progress dsimp only [id])

theorem State.addSite_kept (s : State) (n : Nat) (k : Nat) (d : SiteDelta) (h0 : Kept v₀ q₀ s) : Kept v₀ q₀ (State.addSite s n k d) := by
  unfold State.addSite
  try dsimp only
  repeat' (first | (with_reducible first | assumption | apply State.onSite_kept) | intro _ | fail_if_no_progress (with_reducible apply Kept.lit) | split | fail_if_no_progress dsimp only | fail_if_no_progress dsimp only [id])

/-! ### Xlate -/

theorem State.poisonSec_kept (s : State) (sec : Nat) (key : Nat) (h0 : Kept v₀ q₀ s) : Kept v₀ q₀ (State.poisonSec s sec key) := by
  unfold State.poisonSec
  try dsimp only
  repeat' (first | (with_reducible first | assumption | apply State.modHbm_kept) | intro _ | fail_if_no_progress (with_reducible apply Kept.lit) | split | fail_if_no_progress dsimp only | fail_if_no_progress dsimp only [id])

theorem State.hbmRecord_kept (s : State) (cls : Nat) (sec : Nat) (ward : Nat) (ctx : Nat) (h0 : Kept v₀ q₀ s) : Kept v₀ q₀ (State.hbmRecord s cls sec ward ctx) := by
  unfold State.hbmRecord
  try dsimp only
  repeat' (first | (with_reducible first | assumption | apply State.report_kept) | intro _ | fail_if_no_progress (with_reducible apply Kept.lit) | split | fail_if_no_progress dsimp only | fail_if_no_progress dsimp only [id])

theorem State.readTag_kept (s : State) (sec : Nat) (key : Nat) (ward : Nat) (ctx : Nat) (uncorr : Bool) (h0 : Kept v₀ q₀ s) : Kept v₀ q₀ (State.readTag s sec key ward ctx uncorr).1 := by
  unfold State.readTag
  try dsimp only
  repeat' (first | (with_reducible first | assumption | apply State.modHbm_kept | apply State.poisonSec_kept | apply State.hbmRecord_kept) | intro _ | fail_if_no_progress (with_reducible apply Kept.lit) | split | fail_if_no_progress dsimp only | fail_if_no_progress dsimp only [id])

theorem State.readTag_keptEq {s : State} {sec : Nat} {key : Nat} {ward : Nat} {ctx : Nat} {uncorr : Bool} {x} {y} (h0 : Kept v₀ q₀ s) (e : (State.readTag s sec key ward ctx uncorr) = (x, y)) : Kept v₀ q₀ x := by
  have e' := congrArg Prod.fst e
  dsimp only at e'
  subst e'
  exact State.readTag_kept s sec key ward ctx uncorr h0

theorem State.writeSec_kept (s : State) (key : Nat) (pa : Nat) (bs : List Byte) (ward : Nat) (ctx : Nat) (h0 : Kept v₀ q₀ s) : Kept v₀ q₀ (State.writeSec s key pa bs ward ctx) := by
  unfold State.writeSec
  try dsimp only
  repeat' (first | (with_reducible first | assumption | apply State.modHbm_kept | apply State.wrBytes_kept | apply State.clearRange_kept | apply State.readTag_kept) | (refine State.readTag_keptEq ?_ ‹_›) | intro _ | fail_if_no_progress (with_reducible apply Kept.lit) | split | fail_if_no_progress dsimp only | fail_if_no_progress dsimp only [id])

theorem State.wrHostLine_kept (s : State) (slot : Nat) (line : Nat) (upd : List (Nat × Byte)) (h0 : Kept v₀ q₀ s) : Kept v₀ q₀ (State.wrHostLine s slot line upd) := by
  unfold State.wrHostLine
  try dsimp only
  repeat' (first | (with_reducible first | assumption | apply State.wrBytes_kept) | intro _ | fail_if_no_progress (with_reducible apply Kept.lit) | split | fail_if_no_progress dsimp only | fail_if_no_progress dsimp only [id])

theorem State.wrHost_kept (s : State) (slot : Nat) (pa : Nat) (bs : List Byte) (h0 : Kept v₀ q₀ s) : Kept v₀ q₀ (State.wrHost s slot pa bs) := by
  unfold State.wrHost
  try dsimp only
  repeat' (first | (with_reducible first | assumption | apply Kept.forEach | apply State.wrBytes_kept | apply State.wrHostLine_kept) | intro _ | fail_if_no_progress (with_reducible apply Kept.lit) | split | fail_if_no_progress dsimp only | fail_if_no_progress dsimp only [id])

theorem State.readVa_kept (s : State) (w : Nat) (c : Nat) (va : Nat) (n : Nat) (uncorr : List Nat) (h0 : Kept v₀ q₀ s) : Kept v₀ q₀ (State.readVa s w c va n uncorr).1 := by
  unfold State.readVa
  try dsimp only
  repeat' (first | (with_reducible first | assumption | apply Kept.foldl | apply Kept.foldlFst | apply Kept.foldlSnd | apply Kept.foldlD | apply Kept.foldlP2 | apply Kept.foldlD1 | apply State.readTag_kept) | (refine State.readTag_keptEq ?_ ‹_›) | intro _ | fail_if_no_progress (with_reducible apply Kept.lit) | split | fail_if_no_progress dsimp only | fail_if_no_progress dsimp only [id])

theorem State.readVa_keptEq {s : State} {w : Nat} {c : Nat} {va : Nat} {n : Nat} {uncorr : List Nat} {x} {y} (h0 : Kept v₀ q₀ s) (e : (State.readVa s w c va n uncorr) = (x, y)) : Kept v₀ q₀ x := by
  have e' := congrArg Prod.fst e
  dsimp only at e'
  subst e'
  exact State.readVa_kept s w c va n uncorr h0

theorem State.writeVa_kept (s : State) (w : Nat) (c : Nat) (va : Nat) (bs : List Byte) (h0 : Kept v₀ q₀ s) : Kept v₀ q₀ (State.writeVa s w c va bs) := by
  unfold State.writeVa
  try dsimp only
  repeat' (first | (with_reducible first | assumption | apply Kept.foldl | apply Kept.foldlFst | apply Kept.foldlSnd | apply Kept.foldlD | apply Kept.foldlP2 | apply Kept.foldlD1 | apply State.sendWrite_kept | apply State.wrStore_kept | apply State.writeSec_kept | apply State.wrHost_kept) | intro _ | fail_if_no_progress (with_reducible apply Kept.lit) | split | fail_if_no_progress dsimp only | fail_if_no_progress dsimp only [id])

theorem State.wrStruct_kept (s : State) (w : Nat) (va : Nat) (bs : List Byte) (h0 : Kept v₀ q₀ s) : Kept v₀ q₀ (State.wrStruct s w va bs) := by
  unfold State.wrStruct
  try dsimp only
  repeat' (first | (with_reducible first | assumption | apply Kept.foldl | apply Kept.foldlFst | apply Kept.foldlSnd | apply Kept.foldlD | apply Kept.foldlP2 | apply Kept.foldlD1 | apply State.modWard_kept | apply State.readTag_kept | apply State.writeSec_kept) | (refine State.readTag_keptEq ?_ ‹_›) | intro _ | fail_if_no_progress (with_reducible apply Kept.lit) | split | fail_if_no_progress dsimp only | fail_if_no_progress dsimp only [id])

theorem State.freshTag_kept (s : State) (w : Nat) (c : Nat) (va : Nat) (n : Nat) (h0 : Kept v₀ q₀ s) : Kept v₀ q₀ (State.freshTag s w c va n) := by
  unfold State.freshTag
  try dsimp only
  repeat' (first | (with_reducible first | assumption | apply Kept.foldl | apply Kept.foldlFst | apply Kept.foldlSnd | apply Kept.foldlD | apply Kept.foldlP2 | apply Kept.foldlD1 | apply State.modHbm_kept) | intro _ | fail_if_no_progress (with_reducible apply Kept.lit) | split | fail_if_no_progress dsimp only | fail_if_no_progress dsimp only [id])

theorem State.countFault_kept (s : State) (w : Nat) (h0 : Kept v₀ q₀ s) : Kept v₀ q₀ (State.countFault s w) := by
  unfold State.countFault
  try dsimp only
  repeat' (first | (with_reducible first | assumption | apply State.modWard_kept) | intro _ | fail_if_no_progress (with_reducible apply Kept.lit) | split | fail_if_no_progress dsimp only | fail_if_no_progress dsimp only [id])

/-! ### TileOps -/

theorem State.scrubTile_kept (s : State) (i : Nat) (h0 : Kept v₀ q₀ s) : Kept v₀ q₀ (State.scrubTile s i) := by
  unfold State.scrubTile
  try dsimp only
  repeat' (first | (with_reducible first | assumption | apply State.modTile_kept | apply State.mendStore_kept | apply State.clearRange_kept) | intro _ | fail_if_no_progress (with_reducible apply Kept.lit) | split | fail_if_no_progress dsimp only | fail_if_no_progress dsimp only [id])

theorem State.raiseStandIns_kept (s : State) (w : Nat) (i : Nat) (h0 : Kept v₀ q₀ s) : Kept v₀ q₀ (State.raiseStandIns s w i) := by
  unfold State.raiseStandIns
  try dsimp only
  repeat' (first | (with_reducible first | assumption | apply Kept.forEach | apply State.modTile_kept) | intro _ | fail_if_no_progress (with_reducible apply Kept.lit) | split | fail_if_no_progress dsimp only | fail_if_no_progress dsimp only [id])

theorem State.loseFeeds_kept (s : State) (w : Nat) (i : Nat) (h0 : Kept v₀ q₀ s) : Kept v₀ q₀ (State.loseFeeds s w i) := by
  unfold State.loseFeeds
  try dsimp only
  repeat' (first | (with_reducible first | assumption | apply Kept.forEach | apply State.takeFresh_kept | apply State.losePositions_kept) | (refine State.takeFresh_keptEq ?_ ‹_›) | intro _ | fail_if_no_progress (with_reducible apply Kept.lit) | split | fail_if_no_progress dsimp only | fail_if_no_progress dsimp only [id])

theorem State.dropChain_kept (s : State) (i : Nat) (h0 : Kept v₀ q₀ s) : Kept v₀ q₀ (State.dropChain s i) := by
  unfold State.dropChain
  try dsimp only
  repeat' (first | (with_reducible first | assumption | apply State.modQuad_kept) | intro _ | fail_if_no_progress (with_reducible apply Kept.lit) | split | fail_if_no_progress dsimp only | fail_if_no_progress dsimp only [id])

theorem State.fenceTile_kept (s : State) (i : Nat) (h0 : Kept v₀ q₀ s) : Kept v₀ q₀ (State.fenceTile s i) := by
  unfold State.fenceTile
  try dsimp only
  repeat' (first | (with_reducible first | assumption | apply State.modTile_kept | apply State.scrubTile_kept | apply State.raiseStandIns_kept | apply State.loseFeeds_kept | apply State.dropChain_kept) | intro _ | fail_if_no_progress (with_reducible apply Kept.lit) | split | fail_if_no_progress dsimp only | fail_if_no_progress dsimp only [id])

theorem State.proofRecord_kept (s : State) (i : Nat) (scope : Nat) (st : Byte) (p : LastProof) (h0 : Kept v₀ q₀ s) : Kept v₀ q₀ (State.proofRecord s i scope st p) := by
  unfold State.proofRecord
  try dsimp only
  repeat' (first | (with_reducible first | assumption | apply State.report_kept) | intro _ | fail_if_no_progress (with_reducible apply Kept.lit) | split | fail_if_no_progress dsimp only | fail_if_no_progress dsimp only [id])

theorem State.mainFault_kept (s : State) (i : Nat) (struct : Nat) (word : Nat) (h0 : Kept v₀ q₀ s) : Kept v₀ q₀ (State.mainFault s i struct word) := by
  unfold State.mainFault
  try dsimp only
  repeat' (first | (with_reducible first | assumption | apply State.modTile_kept | apply State.report_kept | apply State.fenceTile_kept) | intro _ | fail_if_no_progress (with_reducible apply Kept.lit) | split | fail_if_no_progress dsimp only | fail_if_no_progress dsimp only [id])

theorem State.verdictMain_kept (s : State) (i : Nat) (l : LastProof) (h0 : Kept v₀ q₀ s) : Kept v₀ q₀ (State.verdictMain s i l) := by
  unfold State.verdictMain
  try dsimp only
  repeat' (first | (with_reducible first | assumption | apply State.modTile_kept | apply State.fenceTile_kept | apply State.proofRecord_kept) | intro _ | fail_if_no_progress (with_reducible apply Kept.lit) | split | fail_if_no_progress dsimp only | fail_if_no_progress dsimp only [id])

theorem State.verdictBoth_kept (s : State) (i : Nat) (both : Bool) (sr : W16) (h0 : Kept v₀ q₀ s) : Kept v₀ q₀ (State.verdictBoth s i both sr) := by
  unfold State.verdictBoth
  try dsimp only
  repeat' (first | (with_reducible first | assumption | apply State.modTile_kept | apply State.jobFaultDie_kept | apply State.fenceTile_kept | apply State.proofRecord_kept) | intro _ | fail_if_no_progress (with_reducible apply Kept.lit) | split | fail_if_no_progress dsimp only | fail_if_no_progress dsimp only [id])

theorem State.takeExc_kept (s : State) (w : Nat) (i : Nat) (cause : Nat) (detail : W32) (h0 : Kept v₀ q₀ s) : Kept v₀ q₀ (State.takeExc s w i cause detail) := by
  unfold State.takeExc
  try dsimp only
  repeat' (first | (with_reducible first | assumption | apply State.modTile_kept | apply State.report_kept | apply State.jobFault_kept | apply State.raiseStandIns_kept) | intro _ | fail_if_no_progress (with_reducible apply Kept.lit) | split | fail_if_no_progress dsimp only | fail_if_no_progress dsimp only [id])

theorem State.checkPc_kept (s : State) (w : Nat) (i : Nat) (h0 : Kept v₀ q₀ s) : Kept v₀ q₀ (State.checkPc s w i) := by
  unfold State.checkPc
  try dsimp only
  repeat' (first | (with_reducible first | assumption | apply State.takeExc_kept) | intro _ | fail_if_no_progress (with_reducible apply Kept.lit) | split | fail_if_no_progress dsimp only | fail_if_no_progress dsimp only [id])

theorem State.issue_kept (s : State) (i : Nat) (c : Instr) (body : Nat → Issue) (h : Kept v₀ q₀ s)
    (hb : ∀ w, KeptI v₀ q₀ (body w)) : Kept v₀ q₀ (State.issue s i c body) := by
  unfold State.issue
  split
  · exact h
  · rename_i w _
    split
    · exact h
    · split
      · exact State.mainFault_kept _ _ _ _ h
      · have hw := hb w
        have hd : ∀ (t : State), Kept v₀ q₀ t → ∀ (p : Prop) [Decidable p] (f : Tile → Tile), Kept v₀ q₀ (if p then t.takeFresh.2.modTile i f else t) := by
          intro t ht p _ f
          split
          · exact State.modTile_kept _ _ _ (State.takeFresh_kept t ht)
          · exact ht
        dsimp only
        split
        · exact State.modTile_kept _ _ _ h
        · exact State.takeExc_kept _ _ _ _ _ h
        · rename_i e; rw [e] at hw; exact State.checkPc_kept _ _ _ (State.modTile_kept _ _ _ (hd _ hw _ _))
        · rename_i e; rw [e] at hw; exact State.checkPc_kept _ _ _ (State.modTile_kept _ _ _ (hd _ hw _ _))

/-! ### TileArray -/

theorem State.latchBody_kept (s : State) (i : Nat) (f : LatchF) (h0 : Kept v₀ q₀ s) : KeptI v₀ q₀ (State.latchBody s i f) := by
  unfold State.latchBody
  try dsimp only
  repeat' (first | (with_reducible first | assumption | apply State.modTile_kept | exact KeptI.stall | exact KeptI.exc _ _ | apply KeptI.go | apply KeptI.jump) | intro _ | fail_if_no_progress (with_reducible apply Kept.lit) | split | fail_if_no_progress dsimp only | fail_if_no_progress dsimp only [id])

theorem execLatch_kept (t : Nat) (f : LatchF) (s : State) (h0 : Kept v₀ q₀ s) : KeptX v₀ q₀ (execLatch t f s) := by
  unfold execLatch
  try dsimp only
  repeat' (first | (with_reducible first | assumption | apply KeptX.next | apply State.issue_kept | apply State.latchBody_kept | exact KeptI.stall | exact KeptI.exc _ _ | apply KeptI.go | apply KeptI.jump) | intro _ | fail_if_no_progress (with_reducible apply Kept.lit) | split | fail_if_no_progress dsimp only | fail_if_no_progress dsimp only [id])

theorem execLatchComplete_kept (t : Nat) (s : State) (h0 : Kept v₀ q₀ s) : KeptX v₀ q₀ (execLatchComplete t s) := by
  unfold execLatchComplete
  try dsimp only
  repeat' (first | (with_reducible first | assumption | apply KeptX.next | apply State.modTile_kept | apply State.noteSoft_kept) | intro _ | fail_if_no_progress (with_reducible apply Kept.lit) | split | fail_if_no_progress dsimp only | fail_if_no_progress dsimp only [id])

theorem execSwap_kept (t : Nat) (s : State) (h0 : Kept v₀ q₀ s) : KeptX v₀ q₀ (execSwap t s) := by
  unfold execSwap
  try dsimp only
  repeat' (first | (with_reducible first | assumption | apply KeptX.next | apply State.modTile_kept | apply State.issue_kept | exact KeptI.stall | exact KeptI.exc _ _ | apply KeptI.go | apply KeptI.jump) | intro _ | fail_if_no_progress (with_reducible apply Kept.lit) | split | fail_if_no_progress dsimp only | fail_if_no_progress dsimp only [id])

theorem State.passBody_kept (s : State) (i : Nat) (trans : Bool) (f : PassF) (w : Nat) (h0 : Kept v₀ q₀ s) : KeptI v₀ q₀ (State.passBody s i trans f w) := by
  unfold State.passBody
  try dsimp only
  repeat' (first | (with_reducible first | assumption | apply Kept.foldl | apply Kept.foldlFst | apply Kept.foldlSnd | apply Kept.foldlD | apply Kept.foldlP2 | apply Kept.foldlD1 | apply State.modTile_kept | exact KeptI.stall | exact KeptI.exc _ _ | apply KeptI.go | apply KeptI.jump) | intro _ | fail_if_no_progress (with_reducible apply Kept.lit) | split | fail_if_no_progress dsimp only | fail_if_no_progress dsimp only [id])

theorem execPass_kept (t : Nat) (f : PassF) (s : State) (h0 : Kept v₀ q₀ s) : KeptX v₀ q₀ (execPass t f s) := by
  unfold execPass
  try dsimp only
  repeat' (first | (with_reducible first | assumption | apply KeptX.next | apply State.issue_kept | apply State.passBody_kept | exact KeptI.stall | exact KeptI.exc _ _ | apply KeptI.go | apply KeptI.jump) | intro _ | fail_if_no_progress (with_reducible apply Kept.lit) | split | fail_if_no_progress dsimp only | fail_if_no_progress dsimp only [id])

theorem execPasst_kept (t : Nat) (f : PassF) (s : State) (h0 : Kept v₀ q₀ s) : KeptX v₀ q₀ (execPasst t f s) := by
  unfold execPasst
  try dsimp only
  repeat' (first | (with_reducible first | assumption | apply KeptX.next | apply State.issue_kept | apply State.passBody_kept | exact KeptI.stall | exact KeptI.exc _ _ | apply KeptI.go | apply KeptI.jump) | intro _ | fail_if_no_progress (with_reducible apply Kept.lit) | split | fail_if_no_progress dsimp only | fail_if_no_progress dsimp only [id])

theorem execPassStreamStart_kept (t : Nat) (s : State) (h0 : Kept v₀ q₀ s) : KeptX v₀ q₀ (execPassStreamStart t s) := by
  unfold execPassStreamStart
  try dsimp only
  repeat' (first | (with_reducible first | assumption | apply KeptX.next | apply State.modTile_kept | apply State.noteSoft_kept) | intro _ | fail_if_no_progress (with_reducible apply Kept.lit) | split | fail_if_no_progress dsimp only | fail_if_no_progress dsimp only [id])

theorem State.mismatch_kept (s : State) (i : Nat) (p : PassRun) (sm : W16) (sw : W16) (h0 : Kept v₀ q₀ s) : Kept v₀ q₀ (State.mismatch s i p sm sw) := by
  unfold State.mismatch
  try dsimp only
  repeat' (first | (with_reducible first | assumption | apply State.modTile_kept | apply State.proofRecord_kept | apply State.verdictMain_kept | apply State.verdictBoth_kept) | intro _ | fail_if_no_progress (with_reducible apply Kept.lit) | split | fail_if_no_progress dsimp only | fail_if_no_progress dsimp only [id])

theorem execPromotion_kept (t : Nat) (e : CellErr) (s : State) (h0 : Kept v₀ q₀ s) : KeptX v₀ q₀ (execPromotion t e s) := by
  unfold execPromotion
  try dsimp only
  repeat' (first | (with_reducible first | assumption | apply KeptX.next | apply State.modTile_kept | apply State.mismatch_kept) | intro _ | fail_if_no_progress (with_reducible apply Kept.lit) | split | fail_if_no_progress dsimp only | fail_if_no_progress dsimp only [id])

theorem execProofRunStart_kept (t : Nat) (s : State) (h0 : Kept v₀ q₀ s) : KeptX v₀ q₀ (execProofRunStart t s) := by
  unfold execProofRunStart
  try dsimp only
  repeat' (first | (with_reducible first | assumption | apply KeptX.next | apply State.modTile_kept) | intro _ | fail_if_no_progress (with_reducible apply Kept.lit) | split | fail_if_no_progress dsimp only | fail_if_no_progress dsimp only [id])

theorem execProofVerdict_kept (t : Nat) (errs : List ReplayErr) (s : State) (h0 : Kept v₀ q₀ s) : KeptX v₀ q₀ (execProofVerdict t errs s) := by
  unfold execProofVerdict
  try dsimp only
  repeat' (first | (with_reducible first | assumption | apply KeptX.next | apply State.modTile_kept | apply State.proofRecord_kept | apply State.verdictMain_kept | apply State.verdictBoth_kept | apply State.checkPc_kept) | intro _ | fail_if_no_progress (with_reducible apply Kept.lit) | split | fail_if_no_progress dsimp only | fail_if_no_progress dsimp only [id])

theorem State.wzeroBody_kept (s : State) (i : Nat) (f : WzeroF) (h0 : Kept v₀ q₀ s) : KeptI v₀ q₀ (State.wzeroBody s i f) := by
  unfold State.wzeroBody
  try dsimp only
  repeat' (first | (with_reducible first | assumption | apply Kept.foldl | apply Kept.foldlFst | apply Kept.foldlSnd | apply Kept.foldlD | apply Kept.foldlP2 | apply Kept.foldlD1 | apply State.modTile_kept | exact KeptI.stall | exact KeptI.exc _ _ | apply KeptI.go | apply KeptI.jump) | intro _ | fail_if_no_progress (with_reducible apply Kept.lit) | split | fail_if_no_progress dsimp only | fail_if_no_progress dsimp only [id])

theorem execWzero_kept (t : Nat) (f : WzeroF) (s : State) (h0 : Kept v₀ q₀ s) : KeptX v₀ q₀ (execWzero t f s) := by
  unfold execWzero
  try dsimp only
  repeat' (first | (with_reducible first | assumption | apply KeptX.next | apply State.issue_kept | apply State.wzeroBody_kept | exact KeptI.stall | exact KeptI.exc _ _ | apply KeptI.go | apply KeptI.jump) | intro _ | fail_if_no_progress (with_reducible apply Kept.lit) | split | fail_if_no_progress dsimp only | fail_if_no_progress dsimp only [id])

theorem execWzeroComplete_kept (t : Nat) (s : State) (h0 : Kept v₀ q₀ s) : KeptX v₀ q₀ (execWzeroComplete t s) := by
  unfold execWzeroComplete
  try dsimp only
  repeat' (first | (with_reducible first | assumption | apply KeptX.next | apply State.modTile_kept) | intro _ | fail_if_no_progress (with_reducible apply Kept.lit) | split | fail_if_no_progress dsimp only | fail_if_no_progress dsimp only [id])

theorem State.drainBody_kept (s : State) (i : Nat) (f : DrainF) (h0 : Kept v₀ q₀ s) : KeptI v₀ q₀ (State.drainBody s i f) := by
  unfold State.drainBody
  try dsimp only
  repeat' (first | (with_reducible first | assumption | apply Kept.foldl | apply Kept.foldlFst | apply Kept.foldlSnd | apply Kept.foldlD | apply Kept.foldlP2 | apply Kept.foldlD1 | apply State.modTile_kept | apply State.noteSoft_kept | apply State.land_kept | exact KeptI.stall | exact KeptI.exc _ _ | apply KeptI.go | apply KeptI.jump) | intro _ | fail_if_no_progress (with_reducible apply Kept.lit) | split | fail_if_no_progress dsimp only | fail_if_no_progress dsimp only [id])

theorem execDrain_kept (t : Nat) (f : DrainF) (s : State) (h0 : Kept v₀ q₀ s) : KeptX v₀ q₀ (execDrain t f s) := by
  unfold execDrain
  try dsimp only
  repeat' (first | (with_reducible first | assumption | apply KeptX.next | apply State.issue_kept | apply State.drainBody_kept | exact KeptI.stall | exact KeptI.exc _ _ | apply KeptI.go | apply KeptI.jump) | intro _ | fail_if_no_progress (with_reducible apply Kept.lit) | split | fail_if_no_progress dsimp only | fail_if_no_progress dsimp only [id])

theorem State.land_kept (s : State) (i : Nat) (l : Landing) (h : Kept v₀ q₀ s) : Kept v₀ q₀ (State.land s i l) :=
  State.wrStoreCells_kept s i _ h

theorem execDrainComplete_kept (t : Nat) (s : State) (h0 : Kept v₀ q₀ s) : KeptX v₀ q₀ (execDrainComplete t s) := by
  unfold execDrainComplete
  try dsimp only
  repeat' (first | (with_reducible first | assumption | apply Kept.forEach | apply KeptX.next | apply State.modTile_kept | apply State.notePoison_kept | apply State.addSite_kept | apply State.land_kept) | intro _ | fail_if_no_progress (with_reducible apply Kept.lit) | split | fail_if_no_progress dsimp only | fail_if_no_progress dsimp only [id])

/-! ### TileSeq -/

theorem execChain_kept (t : Nat) (f : ChainF) (s : State) (h0 : Kept v₀ q₀ s) : KeptX v₀ q₀ (execChain t f s) := by
  unfold execChain
  try dsimp only
  repeat' (first | (with_reducible first | assumption | apply KeptX.next | apply State.modQuad_kept | apply State.issue_kept | exact KeptI.stall | exact KeptI.exc _ _ | apply KeptI.go | apply KeptI.jump) | intro _ | fail_if_no_progress (with_reducible apply Kept.lit) | split | fail_if_no_progress dsimp only | fail_if_no_progress dsimp only [id])

theorem execKick_kept (t : Nat) (f : KickF) (s : State) (h0 : Kept v₀ q₀ s) : KeptX v₀ q₀ (execKick t f s) := by
  unfold execKick
  try dsimp only
  repeat' (first | (with_reducible first | assumption | apply KeptX.next | apply State.modChan_kept | apply State.issue_kept | exact KeptI.stall | exact KeptI.exc _ _ | apply KeptI.go | apply KeptI.jump) | intro _ | fail_if_no_progress (with_reducible apply Kept.lit) | split | fail_if_no_progress dsimp only | fail_if_no_progress dsimp only [id])

theorem State.retag_kept (s : State) (i : Nat) (banks : List Nat) (tag : W16) (h0 : Kept v₀ q₀ s) : Kept v₀ q₀ (State.retag s i banks tag) := by
  unfold State.retag
  try dsimp only
  repeat' (first | (with_reducible first | assumption | apply Kept.forEach | apply State.modTile_kept | apply State.mendStore_kept | apply State.clearRange_kept) | intro _ | fail_if_no_progress (with_reducible apply Kept.lit) | split | fail_if_no_progress dsimp only | fail_if_no_progress dsimp only [id])

theorem execTag_kept (t : Nat) (f : TagF) (s : State) (h0 : Kept v₀ q₀ s) : KeptX v₀ q₀ (execTag t f s) := by
  unfold execTag
  try dsimp only
  repeat' (first | (with_reducible first | assumption | apply KeptX.next | apply State.issue_kept | apply State.retag_kept | exact KeptI.stall | exact KeptI.exc _ _ | apply KeptI.go | apply KeptI.jump) | intro _ | fail_if_no_progress (with_reducible apply Kept.lit) | split | fail_if_no_progress dsimp only | fail_if_no_progress dsimp only [id])

theorem execTagClearComplete_kept (t : Nat) (bank : Nat) (s : State) (h0 : Kept v₀ q₀ s) : KeptX v₀ q₀ (execTagClearComplete t bank s) := by
  unfold execTagClearComplete
  try dsimp only
  repeat' (first | (with_reducible first | assumption | apply KeptX.next | apply State.modTile_kept) | intro _ | fail_if_no_progress (with_reducible apply Kept.lit) | split | fail_if_no_progress dsimp only | fail_if_no_progress dsimp only [id])

theorem execStat_kept (t : Nat) (f : StatF) (s : State) (h0 : Kept v₀ q₀ s) : KeptX v₀ q₀ (execStat t f s) := by
  unfold execStat
  try dsimp only
  repeat' (first | (with_reducible first | assumption | apply Kept.forEach | apply KeptX.next | apply State.modTile_kept | apply State.onSite_kept | apply State.issue_kept | exact KeptI.stall | exact KeptI.exc _ _ | apply KeptI.go | apply KeptI.jump) | intro _ | fail_if_no_progress (with_reducible apply Kept.lit) | split | fail_if_no_progress dsimp only | fail_if_no_progress dsimp only [id])

theorem execStatComplete_kept (t : Nat) (s : State) (h : Kept v₀ q₀ s) : KeptX v₀ q₀ (execStatComplete t s) := by
  unfold execStatComplete
  split
  · exact h
  · split
    · exact h
    · exact State.modTile_kept _ _ _ (State.wrStoreCells_kept _ _ _ h)

theorem execBeat_kept (t : Nat) (s : State) (h0 : Kept v₀ q₀ s) : KeptX v₀ q₀ (execBeat t s) := by
  unfold execBeat
  try dsimp only
  repeat' (first | (with_reducible first | assumption | apply KeptX.next | apply State.modTile_kept | apply State.issue_kept | exact KeptI.stall | exact KeptI.exc _ _ | apply KeptI.go | apply KeptI.jump) | intro _ | fail_if_no_progress (with_reducible apply Kept.lit) | split | fail_if_no_progress dsimp only | fail_if_no_progress dsimp only [id])

theorem execFence_kept (t : Nat) (cls : Byte) (s : State) (h0 : Kept v₀ q₀ s) : KeptX v₀ q₀ (execFence t cls s) := by
  unfold execFence
  try dsimp only
  repeat' (first | (with_reducible first | assumption | apply KeptX.next | apply State.issue_kept | exact KeptI.stall | exact KeptI.exc _ _ | apply KeptI.go | apply KeptI.jump) | intro _ | fail_if_no_progress (with_reducible apply Kept.lit) | split | fail_if_no_progress dsimp only | fail_if_no_progress dsimp only [id])

theorem execSig_kept (t : Nat) (f : SigF) (s : State) (h0 : Kept v₀ q₀ s) : KeptX v₀ q₀ (execSig t f s) := by
  unfold execSig
  try dsimp only
  repeat' (first | (with_reducible first | assumption | apply KeptX.next | apply State.modTile_kept | apply State.issue_kept | exact KeptI.stall | exact KeptI.exc _ _ | apply KeptI.go | apply KeptI.jump) | intro _ | fail_if_no_progress (with_reducible apply Kept.lit) | split | fail_if_no_progress dsimp only | fail_if_no_progress dsimp only [id])

theorem execFlagArrive_kept (src : Nat) (tgt : Nat) (s : State) (h0 : Kept v₀ q₀ s) : KeptX v₀ q₀ (execFlagArrive src tgt s) := by
  unfold execFlagArrive
  try dsimp only
  repeat' (first | (with_reducible first | assumption | apply KeptX.next | apply State.modTile_kept) | intro _ | fail_if_no_progress (with_reducible apply Kept.lit) | split | fail_if_no_progress dsimp only | fail_if_no_progress dsimp only [id])

theorem execWaitf_kept (t : Nat) (f : WaitfF) (s : State) (h0 : Kept v₀ q₀ s) : KeptX v₀ q₀ (execWaitf t f s) := by
  unfold execWaitf
  try dsimp only
  repeat' (first | (with_reducible first | assumption | apply KeptX.next | apply State.modTile_kept | apply State.issue_kept | exact KeptI.stall | exact KeptI.exc _ _ | apply KeptI.go | apply KeptI.jump) | intro _ | fail_if_no_progress (with_reducible apply Kept.lit) | split | fail_if_no_progress dsimp only | fail_if_no_progress dsimp only [id])

theorem execWaitfWake_kept (t : Nat) (s : State) (h0 : Kept v₀ q₀ s) : KeptX v₀ q₀ (execWaitfWake t s) := by
  unfold execWaitfWake
  try dsimp only
  repeat' (first | (with_reducible first | assumption | apply KeptX.next | apply State.modTile_kept | apply State.takeFresh_kept | apply State.checkPc_kept) | (refine State.takeFresh_keptEq ?_ ‹_›) | intro _ | fail_if_no_progress (with_reducible apply Kept.lit) | split | fail_if_no_progress dsimp only | fail_if_no_progress dsimp only [id])

theorem execLoop_kept (t : Nat) (f : LoopF) (s : State) (h0 : Kept v₀ q₀ s) : KeptX v₀ q₀ (execLoop t f s) := by
  unfold execLoop
  try dsimp only
  repeat' (first | (with_reducible first | assumption | apply KeptX.next | apply State.modTile_kept | apply State.issue_kept | exact KeptI.stall | exact KeptI.exc _ _ | apply KeptI.go | apply KeptI.jump) | intro _ | fail_if_no_progress (with_reducible apply Kept.lit) | split | fail_if_no_progress dsimp only | fail_if_no_progress dsimp only [id])

theorem execEndl_kept (t : Nat) (s : State) (h0 : Kept v₀ q₀ s) : KeptX v₀ q₀ (execEndl t s) := by
  unfold execEndl
  try dsimp only
  repeat' (first | (with_reducible first | assumption | apply KeptX.next | apply State.modTile_kept | apply State.issue_kept | exact KeptI.stall | exact KeptI.exc _ _ | apply KeptI.go | apply KeptI.jump) | intro _ | fail_if_no_progress (with_reducible apply Kept.lit) | split | fail_if_no_progress dsimp only | fail_if_no_progress dsimp only [id])

theorem execJmp_kept (t : Nat) (f : JmpF) (s : State) (h0 : Kept v₀ q₀ s) : KeptX v₀ q₀ (execJmp t f s) := by
  unfold execJmp
  try dsimp only
  repeat' (first | (with_reducible first | assumption | apply KeptX.next | apply State.modTile_kept | apply State.issue_kept | exact KeptI.stall | exact KeptI.exc _ _ | apply KeptI.go | apply KeptI.jump) | intro _ | fail_if_no_progress (with_reducible apply Kept.lit) | split | fail_if_no_progress dsimp only | fail_if_no_progress dsimp only [id])

theorem execHalt_kept (t : Nat) (s : State) (h0 : Kept v₀ q₀ s) : KeptX v₀ q₀ (execHalt t s) := by
  unfold execHalt
  try dsimp only
  repeat' (first | (with_reducible first | assumption | apply KeptX.next | apply State.modTile_kept | apply State.issue_kept | exact KeptI.stall | exact KeptI.exc _ _ | apply KeptI.go | apply KeptI.jump) | intro _ | fail_if_no_progress (with_reducible apply Kept.lit) | split | fail_if_no_progress dsimp only | fail_if_no_progress dsimp only [id])

theorem execSeta_kept (t : Nat) (f : SetaF) (s : State) (h0 : Kept v₀ q₀ s) : KeptX v₀ q₀ (execSeta t f s) := by
  unfold execSeta
  try dsimp only
  repeat' (first | (with_reducible first | assumption | apply KeptX.next | apply State.modTile_kept | apply State.issue_kept | exact KeptI.stall | exact KeptI.exc _ _ | apply KeptI.go | apply KeptI.jump) | intro _ | fail_if_no_progress (with_reducible apply Kept.lit) | split | fail_if_no_progress dsimp only | fail_if_no_progress dsimp only [id])

theorem execAdda_kept (t : Nat) (f : AddaF) (s : State) (h0 : Kept v₀ q₀ s) : KeptX v₀ q₀ (execAdda t f s) := by
  unfold execAdda
  try dsimp only
  repeat' (first | (with_reducible first | assumption | apply KeptX.next | apply State.modTile_kept | apply State.issue_kept | exact KeptI.stall | exact KeptI.exc _ _ | apply KeptI.go | apply KeptI.jump) | intro _ | fail_if_no_progress (with_reducible apply Kept.lit) | split | fail_if_no_progress dsimp only | fail_if_no_progress dsimp only [id])

theorem execSetk_kept (t : Nat) (f : SetkF) (s : State) (h0 : Kept v₀ q₀ s) : KeptX v₀ q₀ (execSetk t f s) := by
  unfold execSetk
  try dsimp only
  repeat' (first | (with_reducible first | assumption | apply KeptX.next | apply State.modTile_kept | apply State.issue_kept | exact KeptI.stall | exact KeptI.exc _ _ | apply KeptI.go | apply KeptI.jump) | intro _ | fail_if_no_progress (with_reducible apply Kept.lit) | split | fail_if_no_progress dsimp only | fail_if_no_progress dsimp only [id])

/-! ### ChainEngine -/

theorem State.chainError_kept (s : State) (q : Nat) (p : ChainProg) (cause : Nat) (record : Nat) (detail : Nat) (h0 : Kept v₀ q₀ s) : Kept v₀ q₀ (State.chainError s q p cause record detail) := by
  unfold State.chainError
  try dsimp only
  repeat' (first | (with_reducible first | assumption | apply State.modQuad_kept | apply State.report_kept | apply State.jobFaultDie_kept) | intro _ | fail_if_no_progress (with_reducible apply Kept.lit) | split | fail_if_no_progress dsimp only | fail_if_no_progress dsimp only [id])

theorem State.blur_kept (s : State) (q : Nat) (cl : List (Nat × Nat × Nat)) (h0 : Kept v₀ q₀ s) : Kept v₀ q₀ (State.blur s q cl) := by
  unfold State.blur
  try dsimp only
  repeat' (first | (with_reducible first | assumption | apply Kept.forEach | apply State.wrStore_kept) | intro _ | fail_if_no_progress (with_reducible apply Kept.lit) | split | fail_if_no_progress dsimp only | fail_if_no_progress dsimp only [id])

theorem execChainProgramStart_kept (q : Nat) (s : State) (h0 : Kept v₀ q₀ s) : KeptX v₀ q₀ (execChainProgramStart q s) := by
  unfold execChainProgramStart
  try dsimp only
  repeat' (first | (with_reducible first | assumption | apply KeptX.next | apply State.modQuad_kept | apply State.mainFault_kept | apply State.chainError_kept | apply State.blur_kept | exact KeptI.stall | exact KeptI.exc _ _ | apply KeptI.go | apply KeptI.jump) | intro _ | fail_if_no_progress (with_reducible apply Kept.lit) | split | fail_if_no_progress dsimp only | fail_if_no_progress dsimp only [id])

theorem State.chainWrite_kept (s : State) (q t : Nat) (cl : List (Nat × Nat × Nat)) (cells : List (Nat × Byte))
    (h : Kept v₀ q₀ s) : Kept v₀ q₀ (State.chainWrite s q t cl cells) :=
  Kept.of (State.wrStoreCells_kept s _ _ h) rfl rfl rfl

theorem State.chainNote_kept (s : State) (q : Nat) (hits : List (Nat × Nat)) (h0 : Kept v₀ q₀ s) : Kept v₀ q₀ (State.chainNote s q hits) := by
  unfold State.chainNote
  try dsimp only
  repeat' (first | (with_reducible first | assumption | apply Kept.forEach | apply State.modQuad_kept | apply State.notePoison_kept) | intro _ | fail_if_no_progress (with_reducible apply Kept.lit) | split | fail_if_no_progress dsimp only | fail_if_no_progress dsimp only [id])

theorem State.chainOut_kept (s : State) (q : Nat) (run : ChainRun) (bad : Bool) (p : List W32) (h0 : Kept v₀ q₀ s) : Kept v₀ q₀ (State.chainOut s q run bad p) := by
  unfold State.chainOut
  try dsimp only
  repeat' (first | (with_reducible first | assumption | apply State.modQuad_kept | apply State.addSite_kept | apply State.chainWrite_kept | apply State.chainNote_kept) | intro _ | fail_if_no_progress (with_reducible apply Kept.lit) | split | fail_if_no_progress dsimp only | fail_if_no_progress dsimp only [id])

theorem State.chainMismatch_kept (s : State) (q : Nat) (chk : ChainCheck) (h0 : Kept v₀ q₀ s) : Kept v₀ q₀ (State.chainMismatch s q chk) := by
  unfold State.chainMismatch
  try dsimp only
  repeat' (first | (with_reducible first | assumption | apply State.modQuad_kept | apply State.report_kept | apply State.jobFaultDie_kept) | intro _ | fail_if_no_progress (with_reducible apply Kept.lit) | split | fail_if_no_progress dsimp only | fail_if_no_progress dsimp only [id])

theorem State.chainLand_kept (s : State) (q : Nat) (run : ChainRun) (h0 : Kept v₀ q₀ s) : Kept v₀ q₀ (State.chainLand s q run) := by
  unfold State.chainLand
  try dsimp only
  repeat' (first | (with_reducible first | assumption | apply Kept.forEach | apply State.modQuad_kept | apply State.chainWrite_kept | apply State.chainNote_kept) | intro _ | fail_if_no_progress (with_reducible apply Kept.lit) | split | fail_if_no_progress dsimp only | fail_if_no_progress dsimp only [id])

theorem execChainRow_kept (q : Nat) (served : Bool) (chk : ChainCheck) (s : State) (h0 : Kept v₀ q₀ s) : KeptX v₀ q₀ (execChainRow q served chk s) := by
  unfold execChainRow
  try dsimp only
  repeat' (first | (with_reducible first | assumption | apply Kept.forEach | apply KeptX.next | apply State.modQuad_kept | apply State.noteSoft_kept | apply State.mainFault_kept | apply State.chainOut_kept | apply State.chainMismatch_kept | apply State.chainLand_kept) | intro _ | fail_if_no_progress (with_reducible apply Kept.lit) | split | fail_if_no_progress dsimp only | fail_if_no_progress dsimp only [id])

theorem execChainProgramComplete_kept (q : Nat) (s : State) (h0 : Kept v₀ q₀ s) : KeptX v₀ q₀ (execChainProgramComplete q s) := by
  unfold execChainProgramComplete
  try dsimp only
  repeat' (first | (with_reducible first | assumption | apply KeptX.next | apply State.modQuad_kept | apply State.chainLand_kept) | intro _ | fail_if_no_progress (with_reducible apply Kept.lit) | split | fail_if_no_progress dsimp only | fail_if_no_progress dsimp only [id])

end Sys2Proof.Machine
end

