-- ==== Sys2Proof/Laws/KeptServe.lean ====
section
/-! SUPPORT. What is kept by serving, training arithmetic, the DMA channels, wards, the developer: every operation and every meaning keeps the variant, the queue and the
canonical form of memory (`Kept`). -/

set_option linter.unusedTactic false
set_option linter.unreachableTactic false
set_option linter.unusedVariables false

namespace Sys2Proof.Machine
open Sys2Proof
variable {v₀ : Variant} {q₀ : List Instr}

/-! ### Serving -/

theorem State.setReg_kept (s : State) (w : Nat) (c : Nat) (f : RegEnt → RegEnt) (h0 : Kept v₀ q₀ s) : Kept v₀ q₀ (State.setReg s w c f) := by
  unfold State.setReg
  try dsimp only
  repeat' (first | (with_reducible first | assumption | apply State.modWard_kept | apply State.wrStruct_kept) | intro _ | fail_if_no_progress (with_reducible apply Kept.lit) | split | fail_if_no_progress dsimp only | fail_if_no_progress dsimp only [id])

theorem State.setBlk_kept (s : State) (w : Nat) (b : Nat) (f : Blk → Blk) (h0 : Kept v₀ q₀ s) : Kept v₀ q₀ (State.setBlk s w b f) := by
  unfold State.setBlk
  try dsimp only
  repeat' (first | (with_reducible first | assumption | apply State.modWard_kept | apply State.wrStruct_kept) | intro _ | fail_if_no_progress (with_reducible apply Kept.lit) | split | fail_if_no_progress dsimp only | fail_if_no_progress dsimp only [id])

theorem State.setSq_kept (s : State) (w : Nat) (i : Nat) (f : Sq → Sq) (h0 : Kept v₀ q₀ s) : Kept v₀ q₀ (State.setSq s w i f) := by
  unfold State.setSq
  try dsimp only
  repeat' (first | (with_reducible first | assumption | apply State.modWard_kept) | intro _ | fail_if_no_progress (with_reducible apply Kept.lit) | split | fail_if_no_progress dsimp only | fail_if_no_progress dsimp only [id])

theorem State.setCtxEnt_kept (s : State) (w : Nat) (k : Nat) (e : CtxEnt) (h0 : Kept v₀ q₀ s) : Kept v₀ q₀ (State.setCtxEnt s w k e) := by
  unfold State.setCtxEnt
  try dsimp only
  repeat' (first | (with_reducible first | assumption | apply State.modWard_kept | apply State.wrStruct_kept) | intro _ | fail_if_no_progress (with_reducible apply Kept.lit) | split | fail_if_no_progress dsimp only | fail_if_no_progress dsimp only [id])

theorem State.dieEvent_kept (s : State) (w : Nat) (d : Nat) (what : Nat) (arg : Nat) (st : St) (h0 : Kept v₀ q₀ s) : Kept v₀ q₀ (State.dieEvent s w d what arg st) := by
  unfold State.dieEvent
  try dsimp only
  repeat' (first | (with_reducible first | assumption | apply State.emit_kept | apply State.takeFresh_kept | apply State.event_kept) | (refine State.takeFresh_keptEq ?_ ‹_›) | intro _ | fail_if_no_progress (with_reducible apply Kept.lit) | split | fail_if_no_progress dsimp only | fail_if_no_progress dsimp only [id])

theorem State.event_kept (s : State) (w : Nat) (what : Nat) (arg : Nat) (st : St) (h0 : Kept v₀ q₀ s) : Kept v₀ q₀ (State.event s w what arg st) := by
  unfold State.event
  try dsimp only
  repeat' (first | (with_reducible first | assumption | apply State.dieEvent_kept) | intro _ | fail_if_no_progress (with_reducible apply Kept.lit) | split | fail_if_no_progress dsimp only | fail_if_no_progress dsimp only [id])

theorem State.giveBlock_kept (s : State) (w : Nat) (i : Nat) (b : Nat) (o : Nat) (st : Nat) (prev : Option Nat) (h0 : Kept v₀ q₀ s) : Kept v₀ q₀ (State.giveBlock s w i b o st prev) := by
  unfold State.giveBlock
  try dsimp only
  repeat' (first | (with_reducible first | assumption | apply Kept.forEach | apply State.freshTag_kept | apply State.setBlk_kept | apply State.setSq_kept) | intro _ | fail_if_no_progress (with_reducible apply Kept.lit) | split | fail_if_no_progress dsimp only | fail_if_no_progress dsimp only [id])

theorem State.giveBlocks_kept (s : State) (w : Nat) (i : Nat) (o : Nat) (n : Nat) (st : Nat) (h0 : Kept v₀ q₀ s) : Kept v₀ q₀ (State.giveBlocks s w i o n st) := by
  unfold State.giveBlocks
  try dsimp only
  repeat' (first | (with_reducible first | assumption | apply Kept.foldl | apply Kept.foldlFst | apply Kept.foldlSnd | apply Kept.foldlD | apply Kept.foldlP2 | apply Kept.foldlD1 | apply State.giveBlock_kept) | intro _ | fail_if_no_progress (with_reducible apply Kept.lit) | split | fail_if_no_progress dsimp only | fail_if_no_progress dsimp only [id])

theorem State.freeBlocksOf_kept (s : State) (w : Nat) (i : Nat) (p : Nat → Bool) (h0 : Kept v₀ q₀ s) : Kept v₀ q₀ (State.freeBlocksOf s w i p) := by
  unfold State.freeBlocksOf
  try dsimp only
  repeat' (first | (with_reducible first | assumption | apply Kept.forEach | apply State.setBlk_kept) | intro _ | fail_if_no_progress (with_reducible apply Kept.lit) | split | fail_if_no_progress dsimp only | fail_if_no_progress dsimp only [id])

theorem State.freeSpillOf_kept (s : State) (w : Nat) (i : Nat) (h0 : Kept v₀ q₀ s) : Kept v₀ q₀ (State.freeSpillOf s w i) := by
  unfold State.freeSpillOf
  try dsimp only
  repeat' (first | (with_reducible first | assumption | apply Kept.foldl | apply Kept.foldlFst | apply Kept.foldlSnd | apply Kept.foldlD | apply Kept.foldlP2 | apply Kept.foldlD1 | apply State.modWard_kept | apply State.setSq_kept) | intro _ | fail_if_no_progress (with_reducible apply Kept.lit) | split | fail_if_no_progress dsimp only | fail_if_no_progress dsimp only [id])

theorem State.devIssue_kept (s : State) (d : Nat) (op : DevOp) (h0 : Kept v₀ q₀ s) : Kept v₀ q₀ (State.devIssue s d op) := by
  unfold State.devIssue
  try dsimp only
  repeat' (first | (with_reducible first | assumption | apply State.modDev_kept) | intro _ | fail_if_no_progress (with_reducible apply Kept.lit) | split | fail_if_no_progress dsimp only | fail_if_no_progress dsimp only [id])

theorem State.devDrop_kept (s : State) (w : Nat) (p : DevOp → Bool) (h0 : Kept v₀ q₀ s) : Kept v₀ q₀ (State.devDrop s w p) := by
  unfold State.devDrop
  try dsimp only
  repeat' (first | (with_reducible first | assumption | apply Kept.forEach | apply State.modDev_kept) | intro _ | fail_if_no_progress (with_reducible apply Kept.lit) | split | fail_if_no_progress dsimp only | fail_if_no_progress dsimp only [id])

theorem State.pfDone_kept (s : State) (w : Nat) (k : Nat) (h0 : Kept v₀ q₀ s) : Kept v₀ q₀ (State.pfDone s w k) := by
  unfold State.pfDone
  try dsimp only
  repeat' (first | (with_reducible first | assumption | apply State.modWard_kept) | intro _ | fail_if_no_progress (with_reducible apply Kept.lit) | split | fail_if_no_progress dsimp only | fail_if_no_progress dsimp only [id])

theorem State.noteRead_kept (s : State) (w : Nat) (i : Nat) (h0 : Kept v₀ q₀ s) : Kept v₀ q₀ (State.noteRead s w i) := by
  unfold State.noteRead
  try dsimp only
  repeat' (first | (with_reducible first | assumption | apply Kept.forEach | apply State.setBlk_kept) | intro _ | fail_if_no_progress (with_reducible apply Kept.lit) | split | fail_if_no_progress dsimp only | fail_if_no_progress dsimp only [id])

theorem State.endSeq_kept (s : State) (w : Nat) (i : Nat) (st : St) (endc : Nat) (h0 : Kept v₀ q₀ s) : Kept v₀ q₀ (State.endSeq s w i st endc) := by
  unfold State.endSeq
  try dsimp only
  repeat' (first | (with_reducible first | assumption | apply State.modWard_kept | apply State.post_kept | apply State.setReg_kept | apply State.setSq_kept | apply State.freeBlocksOf_kept | apply State.freeSpillOf_kept | apply State.devDrop_kept) | intro _ | fail_if_no_progress (with_reducible apply Kept.lit) | split | fail_if_no_progress dsimp only | fail_if_no_progress dsimp only [id])

theorem State.markSeq_kept (s : State) (w : Nat) (i : Nat) (st : St) (endc : Nat) (now : Bool) (h0 : Kept v₀ q₀ s) : Kept v₀ q₀ (State.markSeq s w i st endc now) := by
  unfold State.markSeq
  try dsimp only
  repeat' (first | (with_reducible first | assumption | apply State.setSq_kept) | intro _ | fail_if_no_progress (with_reducible apply Kept.lit) | split | fail_if_no_progress dsimp only | fail_if_no_progress dsimp only [id])

theorem State.markCtx_kept (s : State) (w : Nat) (p : Sq → Bool) (st : St) (endc : Nat) (now : Bool) (h0 : Kept v₀ q₀ s) : Kept v₀ q₀ (State.markCtx s w p st endc now) := by
  unfold State.markCtx
  try dsimp only
  repeat' (first | (with_reducible first | assumption | apply Kept.forEach | apply State.markSeq_kept) | intro _ | fail_if_no_progress (with_reducible apply Kept.lit) | split | fail_if_no_progress dsimp only | fail_if_no_progress dsimp only [id])

theorem State.allocHot_kept (s : State) (w : Nat) (c : Nat) (n : Nat) (h0 : Kept v₀ q₀ s) : Kept v₀ q₀ (State.allocHot s w c n).2 := by
  unfold State.allocHot
  try dsimp only
  repeat' (first | (with_reducible first | assumption | apply Kept.forEach | apply Kept.foldl | apply Kept.foldlFst | apply Kept.foldlSnd | apply Kept.foldlD | apply Kept.foldlP2 | apply Kept.foldlD1 | apply State.modWard_kept | apply State.freshTag_kept) | intro _ | fail_if_no_progress (with_reducible apply Kept.lit) | split | fail_if_no_progress dsimp only | fail_if_no_progress dsimp only [id])

theorem State.allocHot_keptEq {s : State} {w : Nat} {c : Nat} {n : Nat} {x} {y} (h0 : Kept v₀ q₀ s) (e : (State.allocHot s w c n) = (x, y)) : Kept v₀ q₀ y := by
  have e' := congrArg Prod.snd e
  dsimp only at e'
  subst e'
  exact State.allocHot_kept s w c n h0

theorem State.freeHotList_kept (s : State) (w : Nat) (ch : List Nat) (h0 : Kept v₀ q₀ s) : Kept v₀ q₀ (State.freeHotList s w ch) := by
  unfold State.freeHotList
  try dsimp only
  repeat' (first | (with_reducible first | assumption | apply Kept.foldl | apply Kept.foldlFst | apply Kept.foldlSnd | apply Kept.foldlD | apply Kept.foldlP2 | apply Kept.foldlD1 | apply State.modWard_kept) | intro _ | fail_if_no_progress (with_reducible apply Kept.lit) | split | fail_if_no_progress dsimp only | fail_if_no_progress dsimp only [id])

theorem State.freeCopy_kept (s : State) (w : Nat) (c : Nat) (k : Nat) (h0 : Kept v₀ q₀ s) : Kept v₀ q₀ (State.freeCopy s w c k) := by
  unfold State.freeCopy
  try dsimp only
  repeat' (first | (with_reducible first | assumption | apply State.setReg_kept | apply State.freeHotList_kept) | intro _ | fail_if_no_progress (with_reducible apply Kept.lit) | split | fail_if_no_progress dsimp only | fail_if_no_progress dsimp only [id])

theorem State.writeList_kept (s : State) (w : Nat) (c : Nat) (k : Nat) (h0 : Kept v₀ q₀ s) : Kept v₀ q₀ (State.writeList s w c k) := by
  unfold State.writeList
  try dsimp only
  repeat' (first | (with_reducible first | assumption | apply State.writeVa_kept) | intro _ | fail_if_no_progress (with_reducible apply Kept.lit) | split | fail_if_no_progress dsimp only | fail_if_no_progress dsimp only [id])

theorem State.evictHot_kept (s : State) (w : Nat) (c : Nat) (h0 : Kept v₀ q₀ s) : Kept v₀ q₀ (State.evictHot s w c) := by
  unfold State.evictHot
  try dsimp only
  repeat' (first | (with_reducible first | assumption | apply State.modWard_kept | apply State.setReg_kept | apply State.event_kept | apply State.freeCopy_kept) | intro _ | fail_if_no_progress (with_reducible apply Kept.lit) | split | fail_if_no_progress dsimp only | fail_if_no_progress dsimp only [id])

theorem State.evictFor_kept (w n : Nat) (l : List Nat) (s : State) (h : Kept v₀ q₀ s) :
    Kept v₀ q₀ (State.evictFor w n l s) := by
  induction l generalizing s with
  | nil => exact h
  | cons a r ih =>
    unfold State.evictFor
    split
    · exact h
    · refine ih _ ?_
      with_reducible apply State.event_kept
      with_reducible apply State.modWard_kept
      with_reducible apply State.setReg_kept
      with_reducible apply State.freeCopy_kept
      exact h

theorem State.tryCopy_kept (s : State) (w : Nat) (c : Nat) (k : Nat) (src : Addr) (use : DevFor) (h0 : Kept v₀ q₀ s) : Kept v₀ q₀ (State.tryCopy s w c k src use) := by
  unfold State.tryCopy
  try dsimp only
  repeat' (first | (with_reducible first | assumption | apply State.setReg_kept | apply State.devIssue_kept | apply State.allocHot_kept | apply State.evictFor_kept) | (refine State.allocHot_keptEq ?_ ‹_›) | intro _ | fail_if_no_progress (with_reducible apply Kept.lit) | split | fail_if_no_progress dsimp only | fail_if_no_progress dsimp only [id])

theorem State.loadAdapter_kept (s : State) (w : Nat) (c : Nat) (h0 : Kept v₀ q₀ s) : Kept v₀ q₀ (State.loadAdapter s w c) := by
  unfold State.loadAdapter
  try dsimp only
  repeat' (first | (with_reducible first | assumption | apply State.modWard_kept | apply State.setReg_kept | apply State.event_kept | apply State.tryCopy_kept) | intro _ | fail_if_no_progress (with_reducible apply Kept.lit) | split | fail_if_no_progress dsimp only | fail_if_no_progress dsimp only [id])

theorem State.roomCopy_kept (s : State) (w c k : Nat) (h0 : Kept v₀ q₀ s) :
    ∀ x, State.roomCopy s w c k = some x → Kept v₀ q₀ x.2 := by
  intro x hx
  unfold State.roomCopy at hx
  dsimp only at hx
  split at hx
  · cases hx
  · cases hx
    exact State.setReg_kept _ _ _ _ (State.allocHot_kept _ _ _ _ (State.evictFor_kept _ _ _ _ h0))

theorem State.tryPublish_kept (s : State) (w c h : Nat) (h0 : Kept v₀ q₀ s) : Kept v₀ q₀ (State.tryPublish s w c h) := by
  unfold State.tryPublish
  cases e : State.roomCopy s w c _ with
  | none => exact h0
  | some x => exact State.setReg_kept _ _ _ _ (State.devIssue_kept _ _ _ (State.roomCopy_kept _ _ _ _ h0 _ e))

theorem State.retryCopies_kept (s : State) (w : Nat) (h0 : Kept v₀ q₀ s) : Kept v₀ q₀ (State.retryCopies s w) := by
  unfold State.retryCopies
  try dsimp only
  repeat' (first | (with_reducible first | assumption | apply Kept.forEach | apply State.setReg_kept | apply State.tryCopy_kept | apply State.tryPublish_kept) | intro _ | fail_if_no_progress (with_reducible apply Kept.lit) | split | fail_if_no_progress dsimp only | fail_if_no_progress dsimp only [id])

theorem State.preempt_kept (s : State) (w : Nat) (i : Nat) (h0 : Kept v₀ q₀ s) : Kept v₀ q₀ (State.preempt s w i) := by
  unfold State.preempt
  try dsimp only
  repeat' (first | (with_reducible first | assumption | apply Kept.forEach | apply Kept.foldl | apply Kept.foldlFst | apply Kept.foldlSnd | apply Kept.foldlD | apply Kept.foldlP2 | apply Kept.foldlD1 | apply State.modWard_kept | apply State.setBlk_kept | apply State.setSq_kept | apply State.event_kept | apply State.devIssue_kept | apply State.endSeq_kept) | intro _ | fail_if_no_progress (with_reducible apply Kept.lit) | split | fail_if_no_progress dsimp only | fail_if_no_progress dsimp only [id])

theorem State.freeSpilled_kept (s : State) (w : Nat) (h0 : Kept v₀ q₀ s) : Kept v₀ q₀ (State.freeSpilled s w) := by
  unfold State.freeSpilled
  try dsimp only
  repeat' (first | (with_reducible first | assumption | apply Kept.forEach | apply State.setBlk_kept) | intro _ | fail_if_no_progress (with_reducible apply Kept.lit) | split | fail_if_no_progress dsimp only | fail_if_no_progress dsimp only [id])

theorem State.stepEnd_kept (s : State) (w : Nat) (b : Nat) (h0 : Kept v₀ q₀ s) : Kept v₀ q₀ (State.stepEnd s w b) := by
  unfold State.stepEnd
  try dsimp only
  repeat' (first | (with_reducible first | assumption | apply Kept.forEach | apply State.modWard_kept | apply State.setReg_kept | apply State.setSq_kept | apply State.markSeq_kept) | intro _ | fail_if_no_progress (with_reducible apply Kept.lit) | split | fail_if_no_progress dsimp only | fail_if_no_progress dsimp only [id])

theorem State.hinges_kept (s : State) (w : Nat) (p : JobProg) (t : Nat) (h0 : Kept v₀ q₀ s) : Kept v₀ q₀ (State.hinges s w p t) := by
  unfold State.hinges
  try dsimp only
  repeat' (first | (with_reducible first | assumption | apply Kept.forEach | apply State.modWard_kept | apply State.setReg_kept | apply State.event_kept) | intro _ | fail_if_no_progress (with_reducible apply Kept.lit) | split | fail_if_no_progress dsimp only | fail_if_no_progress dsimp only [id])

theorem State.freeOld_kept (s : State) (w : Nat) (h0 : Kept v₀ q₀ s) : Kept v₀ q₀ (State.freeOld s w) := by
  unfold State.freeOld
  try dsimp only
  repeat' (first | (with_reducible first | assumption | apply Kept.forEach | apply State.modWard_kept | apply State.complete_kept | apply State.setReg_kept | apply State.event_kept | apply State.devDrop_kept | apply State.freeCopy_kept) | intro _ | fail_if_no_progress (with_reducible apply Kept.lit) | split | fail_if_no_progress dsimp only | fail_if_no_progress dsimp only [id])

theorem State.release_kept (s : State) (w : Nat) (g : Option Nat) (h0 : Kept v₀ q₀ s) : Kept v₀ q₀ (State.release s w g) := by
  unfold State.release
  try dsimp only
  repeat' (first | (with_reducible first | assumption | apply Kept.forEach | apply State.endSeq_kept | apply State.freeOld_kept) | intro _ | fail_if_no_progress (with_reducible apply Kept.lit) | split | fail_if_no_progress dsimp only | fail_if_no_progress dsimp only [id])

theorem State.squeeze_kept (w g n : Nat) (s : State) (h : Kept v₀ q₀ s) : Kept v₀ q₀ (State.squeeze w g n s) := by
  induction n generalizing s with
  | zero => exact h
  | succ n ih =>
    unfold State.squeeze
    dsimp only
    split
    · exact h
    · split
      · exact h
      · exact ih _ (State.preempt_kept _ _ _ h)

theorem State.growOne_kept (s : State) (w : Nat) (e : Nat × Sq) (h0 : Kept v₀ q₀ s) : Kept v₀ q₀ (State.growOne s w e) := by
  unfold State.growOne
  try dsimp only
  repeat' (first | (with_reducible first | assumption | apply State.modWard_kept | apply State.setSq_kept | apply State.giveBlocks_kept) | intro _ | fail_if_no_progress (with_reducible apply Kept.lit) | split | fail_if_no_progress dsimp only | fail_if_no_progress dsimp only [id])

theorem State.growth_kept (s : State) (w : Nat) (g : Option Nat) (h0 : Kept v₀ q₀ s) : Kept v₀ q₀ (State.growth s w g).2 := by
  unfold State.growth
  try dsimp only
  repeat' (first | (with_reducible first | assumption | apply Kept.forEach | apply State.squeeze_kept | apply State.growOne_kept) | intro _ | fail_if_no_progress (with_reducible apply Kept.lit) | split | fail_if_no_progress dsimp only | fail_if_no_progress dsimp only [id])

theorem State.growth_keptEq {s : State} {w : Nat} {g : Option Nat} {x} {y} (h0 : Kept v₀ q₀ s) (e : (State.growth s w g) = (x, y)) : Kept v₀ q₀ y := by
  have e' := congrArg Prod.snd e
  dsimp only at e'
  subst e'
  exact State.growth_kept s w g h0

theorem State.seat_kept (s : State) (w : Nat) (i : Nat) (b : Nat) (r : Nat × Nat) (h0 : Kept v₀ q₀ s) : Kept v₀ q₀ (State.seat s w i b r) := by
  unfold State.seat
  try dsimp only
  repeat' (first | (with_reducible first | assumption | apply State.setSq_kept) | intro _ | fail_if_no_progress (with_reducible apply Kept.lit) | split | fail_if_no_progress dsimp only | fail_if_no_progress dsimp only [id])

theorem State.restore_kept (s : State) (w : Nat) (i : Nat) (h0 : Kept v₀ q₀ s) : Kept v₀ q₀ (State.restore s w i) := by
  unfold State.restore
  try dsimp only
  repeat' (first | (with_reducible first | assumption | apply Kept.forEach | apply State.setSq_kept | apply State.giveBlocks_kept | apply State.devIssue_kept) | intro _ | fail_if_no_progress (with_reducible apply Kept.lit) | split | fail_if_no_progress dsimp only | fail_if_no_progress dsimp only [id])

theorem State.admitAll_kept (w : Nat) (p : JobProg) (t : Nat) (ending : Bool) (l : List Nat) (s : State)
    (h : Kept v₀ q₀ s) : Kept v₀ q₀ (State.admitAll w p t ending l s) := by
  induction l generalizing s with
  | nil => exact h
  | cons i r ih =>
    unfold State.admitAll
    dsimp only
    repeat' (first | with_reducible assumption | with_reducible apply ih | with_reducible apply State.loadAdapter_kept | with_reducible apply State.setReg_kept | with_reducible apply State.seat_kept | with_reducible apply State.setSq_kept | with_reducible apply State.giveBlocks_kept | with_reducible apply State.restore_kept | split)

theorem State.joinRestored_kept (s : State) (w : Nat) (p : JobProg) (t : Nat) (h0 : Kept v₀ q₀ s) : Kept v₀ q₀ (State.joinRestored s w p t) := by
  unfold State.joinRestored
  try dsimp only
  repeat' (first | (with_reducible first | assumption | apply Kept.forEach | apply State.setBlk_kept | apply State.setSq_kept | apply State.freeSpillOf_kept | apply State.seat_kept) | intro _ | fail_if_no_progress (with_reducible apply Kept.lit) | split | fail_if_no_progress dsimp only | fail_if_no_progress dsimp only [id])

theorem State.admission_kept (s : State) (w : Nat) (p : JobProg) (t : Nat) (may : Bool) (h0 : Kept v₀ q₀ s) : Kept v₀ q₀ (State.admission s w p t may) := by
  unfold State.admission
  try dsimp only
  repeat' (first | (with_reducible first | assumption | apply State.modWard_kept | apply State.admitAll_kept | apply State.joinRestored_kept) | intro _ | fail_if_no_progress (with_reducible apply Kept.lit) | split | fail_if_no_progress dsimp only | fail_if_no_progress dsimp only [id])

theorem State.writeRow_kept (s : State) (w : Nat) (p : JobProg) (b : Nat) (h0 : Kept v₀ q₀ s) : Kept v₀ q₀ (State.writeRow s w p b) := by
  unfold State.writeRow
  try dsimp only
  repeat' (first | (with_reducible first | assumption | apply Kept.forEach | apply State.modWard_kept | apply State.setReg_kept | apply State.setCtxEnt_kept) | intro _ | fail_if_no_progress (with_reducible apply Kept.lit) | split | fail_if_no_progress dsimp only | fail_if_no_progress dsimp only [id])

theorem State.poolMark_kept (s : State) (w : Nat) (h0 : Kept v₀ q₀ s) : Kept v₀ q₀ (State.poolMark s w) := by
  unfold State.poolMark
  try dsimp only
  repeat' (first | (with_reducible first | assumption | apply State.modWard_kept) | intro _ | fail_if_no_progress (with_reducible apply Kept.lit) | split | fail_if_no_progress dsimp only | fail_if_no_progress dsimp only [id])

theorem State.hotLoads_kept (s : State) (w : Nat) (h0 : Kept v₀ q₀ s) : Kept v₀ q₀ (State.hotLoads s w) := by
  unfold State.hotLoads
  try dsimp only
  repeat' (first | (with_reducible first | assumption | apply Kept.forEach | apply State.setReg_kept) | intro _ | fail_if_no_progress (with_reducible apply Kept.lit) | split | fail_if_no_progress dsimp only | fail_if_no_progress dsimp only [id])

theorem State.serveHinges_kept (s : State) (w : Nat) (p : JobProg) (t : Nat) (h0 : Kept v₀ q₀ s) : Kept v₀ q₀ (State.serveHinges s w p t) := by
  unfold State.serveHinges
  try dsimp only
  repeat' (first | (with_reducible first | assumption | apply State.freeSpilled_kept | apply State.stepEnd_kept | apply State.hinges_kept | apply State.hotLoads_kept) | intro _ | fail_if_no_progress (with_reducible apply Kept.lit) | split | fail_if_no_progress dsimp only | fail_if_no_progress dsimp only [id])

/-! ### TrainOps -/

theorem State.modTrain_kept (s : State) (w : Nat) (c : Nat) (f : Train → Train) (h0 : Kept v₀ q₀ s) : Kept v₀ q₀ (State.modTrain s w c f) := by
  unfold State.modTrain
  try dsimp only
  repeat' (first | (with_reducible first | assumption | apply State.modWard_kept) | intro _ | fail_if_no_progress (with_reducible apply Kept.lit) | split | fail_if_no_progress dsimp only | fail_if_no_progress dsimp only [id])

theorem State.rdF_kept (s : State) (w : Nat) (c : Nat) (va : Nat) (n : Nat) (h0 : Kept v₀ q₀ s) : Kept v₀ q₀ (State.rdF s w c va n).1 := by
  unfold State.rdF
  try dsimp only
  repeat' (first | (with_reducible first | assumption | apply State.readVa_kept) | (refine State.readVa_keptEq ?_ ‹_›) | intro _ | fail_if_no_progress (with_reducible apply Kept.lit) | split | fail_if_no_progress dsimp only | fail_if_no_progress dsimp only [id])

theorem State.rdF_keptEq {s : State} {w : Nat} {c : Nat} {va : Nat} {n : Nat} {x} {y} (h0 : Kept v₀ q₀ s) (e : (State.rdF s w c va n) = (x, y)) : Kept v₀ q₀ x := by
  have e' := congrArg Prod.fst e
  dsimp only at e'
  subst e'
  exact State.rdF_kept s w c va n h0

theorem State.wrF_kept (s : State) (w : Nat) (c : Nat) (va : Nat) (xs : List W32) (h0 : Kept v₀ q₀ s) : Kept v₀ q₀ (State.wrF s w c va xs) := by
  unfold State.wrF
  try dsimp only
  repeat' (first | (with_reducible first | assumption | apply State.writeVa_kept) | intro _ | fail_if_no_progress (with_reducible apply Kept.lit) | split | fail_if_no_progress dsimp only | fail_if_no_progress dsimp only [id])

theorem State.zeroVa_kept (s : State) (w : Nat) (c : Nat) (va : Nat) (n : Nat) (h0 : Kept v₀ q₀ s) : Kept v₀ q₀ (State.zeroVa s w c va n) := by
  unfold State.zeroVa
  try dsimp only
  repeat' (first | (with_reducible first | assumption | apply State.writeVa_kept) | intro _ | fail_if_no_progress (with_reducible apply Kept.lit) | split | fail_if_no_progress dsimp only | fail_if_no_progress dsimp only [id])

theorem State.freeVa_kept (s : State) (w : Nat) (c : Nat) (va : Nat) (n : Nat) (h0 : Kept v₀ q₀ s) : Kept v₀ q₀ (State.freeVa s w c va n) := by
  unfold State.freeVa
  try dsimp only
  repeat' (first | (with_reducible first | assumption | apply State.writeVa_kept) | intro _ | fail_if_no_progress (with_reducible apply Kept.lit) | split | fail_if_no_progress dsimp only | fail_if_no_progress dsimp only [id])

theorem State.clearAcc_kept (s : State) (w : Nat) (c : Nat) (h0 : Kept v₀ q₀ s) : Kept v₀ q₀ (State.clearAcc s w c) := by
  unfold State.clearAcc
  try dsimp only
  repeat' (first | (with_reducible first | assumption | apply Kept.forEach | apply State.zeroVa_kept) | intro _ | fail_if_no_progress (with_reducible apply Kept.lit) | split | fail_if_no_progress dsimp only | fail_if_no_progress dsimp only [id])

theorem State.rdArrays_kept (s : State) (w : Nat) (c : Nat) (base : Nat) (lens : List Nat) (h0 : Kept v₀ q₀ s) : Kept v₀ q₀ (State.rdArrays s w c base lens).1 := by
  unfold State.rdArrays
  try dsimp only
  repeat' (first | (with_reducible first | assumption | apply Kept.foldl | apply Kept.foldlFst | apply Kept.foldlSnd | apply Kept.foldlD | apply Kept.foldlP2 | apply Kept.foldlD1 | apply State.rdF_kept) | (refine State.rdF_keptEq ?_ ‹_›) | intro _ | fail_if_no_progress (with_reducible apply Kept.lit) | split | fail_if_no_progress dsimp only | fail_if_no_progress dsimp only [id])

theorem State.rdArrays_keptEq {s : State} {w : Nat} {c : Nat} {base : Nat} {lens : List Nat} {x} {y} (h0 : Kept v₀ q₀ s) (e : (State.rdArrays s w c base lens) = (x, y)) : Kept v₀ q₀ x := by
  have e' := congrArg Prod.fst e
  dsimp only at e'
  subst e'
  exact State.rdArrays_kept s w c base lens h0

theorem State.wrArrays_kept (s : State) (w : Nat) (c : Nat) (base : Nat) (xs : List (List W32)) (h0 : Kept v₀ q₀ s) : Kept v₀ q₀ (State.wrArrays s w c base xs) := by
  unfold State.wrArrays
  try dsimp only
  repeat' (first | (with_reducible first | assumption | apply Kept.foldl | apply Kept.foldlFst | apply Kept.foldlSnd | apply Kept.foldlD | apply Kept.foldlP2 | apply Kept.foldlD1 | apply State.wrF_kept) | intro _ | fail_if_no_progress (with_reducible apply Kept.lit) | split | fail_if_no_progress dsimp only | fail_if_no_progress dsimp only [id])

theorem State.stepReport_kept (s : State) (w : Nat) (c : Nat) (n : Nat) (st : Byte) (rolled : Bool) (h0 : Kept v₀ q₀ s) : Kept v₀ q₀ (State.stepReport s w c n st rolled) := by
  unfold State.stepReport
  try dsimp only
  repeat' (first | (with_reducible first | assumption | apply State.report_kept | apply State.writeVa_kept | apply State.event_kept | apply State.modTrain_kept) | intro _ | fail_if_no_progress (with_reducible apply Kept.lit) | split | fail_if_no_progress dsimp only | fail_if_no_progress dsimp only [id])

theorem State.updIdle_kept (s : State) (w : Nat) (c : Nat) (h0 : Kept v₀ q₀ s) : Kept v₀ q₀ (State.updIdle s w c) := by
  unfold State.updIdle
  try dsimp only
  repeat' (first | (with_reducible first | assumption | apply Kept.forEach | apply State.modUpd_kept) | intro _ | fail_if_no_progress (with_reducible apply Kept.lit) | split | fail_if_no_progress dsimp only | fail_if_no_progress dsimp only [id])

theorem State.updWork_kept (s : State) (w : Nat) (c : Nat) (k : UpdWork) (h0 : Kept v₀ q₀ s) : Kept v₀ q₀ (State.updWork s w c k) := by
  unfold State.updWork
  try dsimp only
  repeat' (first | (with_reducible first | assumption | apply Kept.forEach | apply State.modUpd_kept) | intro _ | fail_if_no_progress (with_reducible apply Kept.lit) | split | fail_if_no_progress dsimp only | fail_if_no_progress dsimp only [id])

theorem State.dropRows_kept (s : State) (w : Nat) (c : Nat) (h0 : Kept v₀ q₀ s) : Kept v₀ q₀ (State.dropRows s w c) := by
  unfold State.dropRows
  try dsimp only
  repeat' (first | (with_reducible first | assumption | apply State.modWard_kept) | intro _ | fail_if_no_progress (with_reducible apply Kept.lit) | split | fail_if_no_progress dsimp only | fail_if_no_progress dsimp only [id])

theorem State.freeSwap_kept (s : State) (w : Nat) (c : Nat) (h0 : Kept v₀ q₀ s) : Kept v₀ q₀ (State.freeSwap s w c) := by
  unfold State.freeSwap
  try dsimp only
  repeat' (first | (with_reducible first | assumption | apply Kept.foldl | apply Kept.foldlFst | apply Kept.foldlSnd | apply Kept.foldlD | apply Kept.foldlP2 | apply Kept.foldlD1 | apply State.modWard_kept | apply State.modTrain_kept) | intro _ | fail_if_no_progress (with_reducible apply Kept.lit) | split | fail_if_no_progress dsimp only | fail_if_no_progress dsimp only [id])

theorem State.endTraining_kept (s : State) (w : Nat) (c : Nat) (h0 : Kept v₀ q₀ s) : Kept v₀ q₀ (State.endTraining s w c) := by
  unfold State.endTraining
  try dsimp only
  repeat' (first | (with_reducible first | assumption | apply Kept.forEach | apply State.modWard_kept | apply State.complete_kept | apply State.setReg_kept | apply State.updIdle_kept | apply State.freeSwap_kept) | intro _ | fail_if_no_progress (with_reducible apply Kept.lit) | split | fail_if_no_progress dsimp only | fail_if_no_progress dsimp only [id])

theorem State.abandonStep_kept (s : State) (w : Nat) (c : Nat) (st : Byte) (rolled : Bool) (h0 : Kept v₀ q₀ s) : Kept v₀ q₀ (State.abandonStep s w c st rolled) := by
  unfold State.abandonStep
  try dsimp only
  repeat' (first | (with_reducible first | assumption | apply State.modTrain_kept | apply State.clearAcc_kept | apply State.stepReport_kept | apply State.updIdle_kept | apply State.dropRows_kept | apply State.endTraining_kept) | intro _ | fail_if_no_progress (with_reducible apply Kept.lit) | split | fail_if_no_progress dsimp only | fail_if_no_progress dsimp only [id])

theorem State.faultTraining_kept (s : State) (w : Nat) (c : Nat) (st : St) (h0 : Kept v₀ q₀ s) : Kept v₀ q₀ (State.faultTraining s w c st) := by
  unfold State.faultTraining
  try dsimp only
  repeat' (first | (with_reducible first | assumption | apply State.modTrain_kept | apply State.clearAcc_kept | apply State.stepReport_kept | apply State.updIdle_kept | apply State.dropRows_kept | apply State.endTraining_kept) | intro _ | fail_if_no_progress (with_reducible apply Kept.lit) | split | fail_if_no_progress dsimp only | fail_if_no_progress dsimp only [id])

theorem State.dropTraining_kept (s : State) (w : Nat) (st : Byte) (h0 : Kept v₀ q₀ s) : Kept v₀ q₀ (State.dropTraining s w st) := by
  unfold State.dropTraining
  try dsimp only
  repeat' (first | (with_reducible first | assumption | apply Kept.forEach | apply State.stepReport_kept | apply State.endTraining_kept) | intro _ | fail_if_no_progress (with_reducible apply Kept.lit) | split | fail_if_no_progress dsimp only | fail_if_no_progress dsimp only [id])

theorem gradOf_kept (s : State) (w : Nat) (c : Nat) (r : TrainRec) (t : Tensor) (h0 : Kept v₀ q₀ s) : Kept v₀ q₀ (gradOf s w c r t).1 := by
  unfold gradOf
  try dsimp only
  repeat' (first | (with_reducible first | assumption | apply State.rdF_kept) | (refine State.rdF_keptEq ?_ ‹_›) | intro _ | fail_if_no_progress (with_reducible apply Kept.lit) | split | fail_if_no_progress dsimp only | fail_if_no_progress dsimp only [id])

theorem gradOf_keptEq {s : State} {w : Nat} {c : Nat} {r : TrainRec} {t : Tensor} {x} {y} (h0 : Kept v₀ q₀ s) (e : (gradOf s w c r t) = (x, y)) : Kept v₀ q₀ x := by
  have e' := congrArg Prod.fst e
  dsimp only at e'
  subst e'
  exact gradOf_kept s w c r t h0

theorem State.passOneDie_kept (s : State) (w : Nat) (c : Nat) (r : TrainRec) (h : Nat) (o : StepScal) (d : Nat) (h0 : Kept v₀ q₀ s) : Kept v₀ q₀ (State.passOneDie s w c r h o d).1 := by
  unfold State.passOneDie
  try dsimp only
  repeat' (first | (with_reducible first | assumption | apply Kept.foldl | apply Kept.foldlFst | apply Kept.foldlSnd | apply Kept.foldlD | apply Kept.foldlP2 | apply Kept.foldlD1 | apply State.rdF_kept | apply gradOf_kept) | (refine State.rdF_keptEq ?_ ‹_›) | (refine gradOf_keptEq ?_ ‹_›) | intro _ | fail_if_no_progress (with_reducible apply Kept.lit) | split | fail_if_no_progress dsimp only | fail_if_no_progress dsimp only [id])

theorem State.passOneDie_keptEq {s : State} {w : Nat} {c : Nat} {r : TrainRec} {h : Nat} {o : StepScal} {d : Nat} {x} {y} (h0 : Kept v₀ q₀ s) (e : (State.passOneDie s w c r h o d) = (x, y)) : Kept v₀ q₀ x := by
  have e' := congrArg Prod.fst e
  dsimp only at e'
  subst e'
  exact State.passOneDie_kept s w c r h o d h0

theorem State.passOne_kept (s : State) (w : Nat) (c : Nat) (h0 : Kept v₀ q₀ s) : Kept v₀ q₀ (State.passOne s w c).1 := by
  unfold State.passOne
  try dsimp only
  repeat' (first | (with_reducible first | assumption | apply Kept.foldl | apply Kept.foldlFst | apply Kept.foldlSnd | apply Kept.foldlD | apply Kept.foldlP2 | apply Kept.foldlD1 | apply State.passOneDie_kept) | (refine State.passOneDie_keptEq ?_ ‹_›) | intro _ | fail_if_no_progress (with_reducible apply Kept.lit) | split | fail_if_no_progress dsimp only | fail_if_no_progress dsimp only [id])

theorem State.passOne_keptEq {s : State} {w : Nat} {c : Nat} {x} {y} (h0 : Kept v₀ q₀ s) (e : (State.passOne s w c) = (x, y)) : Kept v₀ q₀ x := by
  have e' := congrArg Prod.fst e
  dsimp only at e'
  subst e'
  exact State.passOne_kept s w c h0

theorem State.combine_kept (s : State) (w : Nat) (c : Nat) (ps : List PartIn) (h0 : Kept v₀ q₀ s) : Kept v₀ q₀ (State.combine s w c ps).1 := by
  unfold State.combine
  try dsimp only
  repeat' (first | (with_reducible first | assumption | apply Kept.foldl | apply Kept.foldlFst | apply Kept.foldlSnd | apply Kept.foldlD | apply Kept.foldlP2 | apply Kept.foldlD1 | apply State.rdF_kept) | (refine State.rdF_keptEq ?_ ‹_›) | intro _ | fail_if_no_progress (with_reducible apply Kept.lit) | split | fail_if_no_progress dsimp only | fail_if_no_progress dsimp only [id])

theorem State.combine_keptEq {s : State} {w : Nat} {c : Nat} {ps : List PartIn} {x} {y} (h0 : Kept v₀ q₀ s) (e : (State.combine s w c ps) = (x, y)) : Kept v₀ q₀ x := by
  have e' := congrArg Prod.fst e
  dsimp only at e'
  subst e'
  exact State.combine_kept s w c ps h0

theorem passTwoTensor_kept (w : Nat) (c : Nat) (r : TrainRec) (h : Nat) (n : Nat) (sg : Nat → W32) (o : PassTwo) (p : Nat × Tensor) (h0 : Kept v₀ q₀ o.s) : Kept v₀ q₀ (passTwoTensor w c r h n sg o p).s := by
  unfold passTwoTensor
  try dsimp only
  repeat' (first | (with_reducible first | assumption | apply State.modUpd_kept | apply State.writeVa_kept | apply State.rdArrays_kept | apply State.wrArrays_kept | apply gradOf_kept) | (refine State.rdArrays_keptEq ?_ ‹_›) | (refine gradOf_keptEq ?_ ‹_›) | intro _ | fail_if_no_progress (with_reducible apply Kept.lit) | split | fail_if_no_progress dsimp only | fail_if_no_progress dsimp only [id])

theorem State.passTwo_kept (s : State) (w : Nat) (c : Nat) (sg : Nat → W32) (ds : List Nat) (h0 : Kept v₀ q₀ s) : Kept v₀ q₀ (State.passTwo s w c sg ds).s := by
  unfold State.passTwo
  try dsimp only
  repeat' (first | (with_reducible first | assumption | apply Kept.foldl | apply Kept.foldlFst | apply Kept.foldlSnd | apply Kept.foldlD | apply Kept.foldlP2 | apply Kept.foldlD1 | apply passTwoTensor_kept) | intro _ | fail_if_no_progress (with_reducible apply Kept.lit) | split | fail_if_no_progress dsimp only | fail_if_no_progress dsimp only [id])

theorem State.addBlocks_kept (s : State) (d : Nat) (n : Nat) (bs : List (Nat × Nat × SiteDelta)) (h0 : Kept v₀ q₀ s) : Kept v₀ q₀ (State.addBlocks s d n bs) := by
  unfold State.addBlocks
  try dsimp only
  repeat' (first | (with_reducible first | assumption | apply Kept.forEach | apply State.addSite_kept) | intro _ | fail_if_no_progress (with_reducible apply Kept.lit) | split | fail_if_no_progress dsimp only | fail_if_no_progress dsimp only [id])

theorem State.regenImage_kept (s : State) (w : Nat) (c : Nat) (h : Nat) (h0 : Kept v₀ q₀ s) : Kept v₀ q₀ (State.regenImage s w c h) := by
  unfold State.regenImage
  try dsimp only
  repeat' (first | (with_reducible first | assumption | apply Kept.forEach | apply State.addSite_kept | apply State.writeVa_kept | apply State.rdF_kept) | (refine State.rdF_keptEq ?_ ‹_›) | intro _ | fail_if_no_progress (with_reducible apply Kept.lit) | split | fail_if_no_progress dsimp only | fail_if_no_progress dsimp only [id])

theorem State.copyRegion_kept (s : State) (w : Nat) (c : Nat) (src : TrainRec → Nat → Nat) (dst : TrainRec → Nat → Nat) (h0 : Kept v₀ q₀ s) : Kept v₀ q₀ (State.copyRegion s w c src dst).1 := by
  unfold State.copyRegion
  try dsimp only
  repeat' (first | (with_reducible first | assumption | apply Kept.foldl | apply Kept.foldlFst | apply Kept.foldlSnd | apply Kept.foldlD | apply Kept.foldlP2 | apply Kept.foldlD1 | apply State.readVa_kept | apply State.writeVa_kept) | (refine State.readVa_keptEq ?_ ‹_›) | intro _ | fail_if_no_progress (with_reducible apply Kept.lit) | split | fail_if_no_progress dsimp only | fail_if_no_progress dsimp only [id])

theorem State.copyRegion_keptEq {s : State} {w : Nat} {c : Nat} {src : TrainRec → Nat → Nat} {dst : TrainRec → Nat → Nat} {x} {y} (h0 : Kept v₀ q₀ s) (e : (State.copyRegion s w c src dst) = (x, y)) : Kept v₀ q₀ x := by
  have e' := congrArg Prod.fst e
  dsimp only at e'
  subst e'
  exact State.copyRegion_kept s w c src dst h0

theorem State.accSlice_kept (s : State) (w : Nat) (d : Nat) (e : SliceEnt) (h0 : Kept v₀ q₀ s) : Kept v₀ q₀ (State.accSlice s w d e) := by
  unfold State.accSlice
  try dsimp only
  repeat' (first | (with_reducible first | assumption | apply State.modUpd_kept | apply State.modTrain_kept | apply State.rdF_kept | apply State.wrF_kept) | (refine State.rdF_keptEq ?_ ‹_›) | intro _ | fail_if_no_progress (with_reducible apply Kept.lit) | split | fail_if_no_progress dsimp only | fail_if_no_progress dsimp only [id])

theorem State.accSlices_kept (s : State) (w : Nat) (t : Nat) (h0 : Kept v₀ q₀ s) : Kept v₀ q₀ (State.accSlices s w t) := by
  unfold State.accSlices
  try dsimp only
  repeat' (first | (with_reducible first | assumption | apply Kept.forEach | apply State.accSlice_kept) | intro _ | fail_if_no_progress (with_reducible apply Kept.lit) | split | fail_if_no_progress dsimp only | fail_if_no_progress dsimp only [id])

/-! ### DmaData -/

theorem copyUnit_kept (w : Nat) (d : Desc) (un : List Nat) (o : DOut) (i : List Nat) (h0 : Kept v₀ q₀ o.s) : Kept v₀ q₀ (copyUnit w d un o i).s := by
  unfold copyUnit
  try dsimp only
  repeat' (first | (with_reducible first | assumption | apply State.readVa_kept) | (refine State.readVa_keptEq ?_ ‹_›) | intro _ | fail_if_no_progress (with_reducible apply Kept.lit) | split | fail_if_no_progress dsimp only | fail_if_no_progress dsimp only [id])

theorem packElems_kept (w : Nat) (d : Desc) (un : List Nat) (s : State) (is : List (List Nat)) (h0 : Kept v₀ q₀ s) : Kept v₀ q₀ (packElems w d un s is).1 := by
  unfold packElems
  try dsimp only
  repeat' (first | (with_reducible first | assumption | apply Kept.foldl | apply Kept.foldlFst | apply Kept.foldlSnd | apply Kept.foldlD | apply Kept.foldlP2 | apply Kept.foldlD1 | apply State.readVa_kept) | (refine State.readVa_keptEq ?_ ‹_›) | intro _ | fail_if_no_progress (with_reducible apply Kept.lit) | split | fail_if_no_progress dsimp only | fail_if_no_progress dsimp only [id])

theorem packElems_keptEq {w : Nat} {d : Desc} {un : List Nat} {s : State} {is : List (List Nat)} {x} {y} (h0 : Kept v₀ q₀ s) (e : (packElems w d un s is) = (x, y)) : Kept v₀ q₀ x := by
  have e' := congrArg Prod.fst e
  dsimp only at e'
  subst e'
  exact packElems_kept w d un s is h0

theorem packPlate_kept (w : Nat) (d : Desc) (un : List Nat) (o : DOut) (n : Nat) (h0 : Kept v₀ q₀ o.s) : Kept v₀ q₀ (packPlate w d un o n).s := by
  unfold packPlate
  try dsimp only
  repeat' (first | (with_reducible first | assumption | apply Kept.foldl | apply Kept.foldlFst | apply Kept.foldlSnd | apply Kept.foldlD | apply Kept.foldlP2 | apply Kept.foldlD1 | apply packElems_kept) | (refine packElems_keptEq ?_ ‹_›) | intro _ | fail_if_no_progress (with_reducible apply Kept.lit) | split | fail_if_no_progress dsimp only | fail_if_no_progress dsimp only [id])

theorem unpackElem_kept (w : Nat) (d : Desc) (un : List Nat) (o : DOut) (i : List Nat) (h0 : Kept v₀ q₀ o.s) : Kept v₀ q₀ (unpackElem w d un o i).s := by
  unfold unpackElem
  try dsimp only
  repeat' (first | (with_reducible first | assumption | apply State.readVa_kept) | (refine State.readVa_keptEq ?_ ‹_›) | intro _ | fail_if_no_progress (with_reducible apply Kept.lit) | split | fail_if_no_progress dsimp only | fail_if_no_progress dsimp only [id])

theorem skewVec_kept (w : Nat) (d : Desc) (un : List Nat) (o : DOut) (v : Nat) (h0 : Kept v₀ q₀ o.s) : Kept v₀ q₀ (skewVec w d un o v).1.s := by
  unfold skewVec
  try dsimp only
  repeat' (first | (with_reducible first | assumption | apply Kept.foldl | apply Kept.foldlFst | apply Kept.foldlSnd | apply Kept.foldlD | apply Kept.foldlP2 | apply Kept.foldlD1 | apply State.readVa_kept | apply packElems_kept) | (refine State.readVa_keptEq ?_ ‹_›) | (refine packElems_keptEq ?_ ‹_›) | intro _ | fail_if_no_progress (with_reducible apply Kept.lit) | split | fail_if_no_progress dsimp only | fail_if_no_progress dsimp only [id])

theorem dmaPlan_kept (s : State) (w : Nat) (d : Desc) (gen : W32) (jb : Nat) (un : List Nat) (h0 : Kept v₀ q₀ s) :
    Kept v₀ q₀ (dmaPlan s w d gen jb un).s := by
  unfold dmaPlan
  dsimp only
  split
  · exact Kept.foldlD _ _ (fun p a hp => packPlate_kept w d un p a hp) _ h0
  · exact Kept.foldlD _ _ (fun p a hp => unpackElem_kept w d un p _ hp) _ h0
  · refine Kept.foldlD1 _ _ ?_ _ h0
    intro p a hp
    exact skewVec_kept w d un p.1 a hp
  · exact Kept.foldlD _ _ (fun p a hp => copyUnit_kept w d un p _ hp) _ h0

theorem State.someBlocks_kept (s : State) (n : Nat) (out : Bool) (ds : List SiteDelta) (h0 : Kept v₀ q₀ s) : Kept v₀ q₀ (State.someBlocks s n out ds).1 := by
  unfold State.someBlocks
  try dsimp only
  repeat' (first | (with_reducible first | assumption | apply State.takeFresh_kept) | (refine State.takeFresh_keptEq ?_ ‹_›) | intro _ | fail_if_no_progress (with_reducible apply Kept.lit) | split | fail_if_no_progress dsimp only | fail_if_no_progress dsimp only [id])

theorem State.someBlocks_keptEq {s : State} {n : Nat} {out : Bool} {ds : List SiteDelta} {x} {y} (h0 : Kept v₀ q₀ s) (e : (State.someBlocks s n out ds) = (x, y)) : Kept v₀ q₀ x := by
  have e' := congrArg Prod.fst e
  dsimp only at e'
  subst e'
  exact State.someBlocks_kept s n out ds h0

theorem State.countPart_kept (s : State) (c : Nat) (w : Nat) (h0 : Kept v₀ q₀ s) : Kept v₀ q₀ (State.countPart s c w) := by
  unfold State.countPart
  try dsimp only
  repeat' (first | (with_reducible first | assumption | apply State.modChan_kept | apply State.addSite_kept | apply dmaPlan_kept | apply State.someBlocks_kept) | (refine State.someBlocks_keptEq ?_ ‹_›) | intro _ | fail_if_no_progress (with_reducible apply Kept.lit) | split | fail_if_no_progress dsimp only | fail_if_no_progress dsimp only [id])

theorem State.mixBytes_kept (s : State) (w : Nat) (c : Nat) (va : Nat) (bs : List Byte) (pick : Nat → Bool) (h0 : Kept v₀ q₀ s) : Kept v₀ q₀ (State.mixBytes s w c va bs pick).2 := by
  unfold State.mixBytes
  try dsimp only
  repeat' (first | (with_reducible first | assumption | apply State.readVa_kept) | (refine State.readVa_keptEq ?_ ‹_›) | intro _ | fail_if_no_progress (with_reducible apply Kept.lit) | split | fail_if_no_progress dsimp only | fail_if_no_progress dsimp only [id])

theorem State.mixBytes_keptEq {s : State} {w : Nat} {c : Nat} {va : Nat} {bs : List Byte} {pick : Nat → Bool} {x} {y} (h0 : Kept v₀ q₀ s) (e : (State.mixBytes s w c va bs pick) = (x, y)) : Kept v₀ q₀ y := by
  have e' := congrArg Prod.snd e
  dsimp only at e'
  subst e'
  exact State.mixBytes_kept s w c va bs pick h0

theorem State.dmaWrite_kept (s : State) (w : Nat) (c : Nat) (mix : Bool) (reads : List (Nat × Nat)) (x : DWr) (h0 : Kept v₀ q₀ s) : Kept v₀ q₀ (State.dmaWrite s w c mix reads x) := by
  unfold State.dmaWrite
  try dsimp only
  repeat' (first | (with_reducible first | assumption | apply Kept.forEach | apply State.poisonSec_kept | apply State.writeVa_kept | apply State.mixBytes_kept) | (refine State.mixBytes_keptEq ?_ ‹_›) | intro _ | fail_if_no_progress (with_reducible apply Kept.lit) | split | fail_if_no_progress dsimp only | fail_if_no_progress dsimp only [id])

/-! ### Wards -/

theorem State.chanIrq_kept (s : State) (c : Nat) (h0 : Kept v₀ q₀ s) : Kept v₀ q₀ (State.chanIrq s c) := by
  unfold State.chanIrq
  try dsimp only
  repeat' (first | (with_reducible first | assumption | apply State.modChan_kept | apply State.msix_kept) | intro _ | fail_if_no_progress (with_reducible apply Kept.lit) | split | fail_if_no_progress dsimp only | fail_if_no_progress dsimp only [id])

theorem State.chanRecord_kept (s : State) (c : Nat) (w : Nat) (scope : Nat) (st : St) (cause : Nat) (ctx : Nat) (va : Nat) (word0 : W64) (h0 : Kept v₀ q₀ s) : Kept v₀ q₀ (State.chanRecord s c w scope st cause ctx va word0) := by
  unfold State.chanRecord
  try dsimp only
  repeat' (first | (with_reducible first | assumption | apply State.report_kept) | intro _ | fail_if_no_progress (with_reducible apply Kept.lit) | split | fail_if_no_progress dsimp only | fail_if_no_progress dsimp only [id])

theorem State.openWrites_kept (s : State) (ws : List DWr) (h0 : Kept v₀ q₀ s) : Kept v₀ q₀ (State.openWrites s ws).2 := by
  unfold State.openWrites
  try dsimp only
  repeat' (first | (with_reducible first | assumption | apply Kept.foldl | apply Kept.foldlFst | apply Kept.foldlSnd | apply Kept.foldlD | apply Kept.foldlP2 | apply Kept.foldlD1) | intro _ | fail_if_no_progress (with_reducible apply Kept.lit) | split | fail_if_no_progress dsimp only | fail_if_no_progress dsimp only [id])

theorem State.openWrites_keptEq {s : State} {ws : List DWr} {x} {y} (h0 : Kept v₀ q₀ s) (e : (State.openWrites s ws) = (x, y)) : Kept v₀ q₀ y := by
  have e' := congrArg Prod.snd e
  dsimp only at e'
  subst e'
  exact State.openWrites_kept s ws h0

theorem State.mixDesc_kept (s : State) (c : Nat) (w : Nat) (h0 : Kept v₀ q₀ s) : Kept v₀ q₀ (State.mixDesc s c w) := by
  unfold State.mixDesc
  try dsimp only
  repeat' (first | (with_reducible first | assumption | apply Kept.forEach | apply State.modChan_kept | apply State.takeFresh_kept | apply State.freeVa_kept | apply dmaPlan_kept | apply State.countPart_kept | apply State.dmaWrite_kept | apply State.openWrites_kept) | (refine State.takeFresh_keptEq ?_ ‹_›) | (refine State.openWrites_keptEq ?_ ‹_›) | intro _ | fail_if_no_progress (with_reducible apply Kept.lit) | split | fail_if_no_progress dsimp only | fail_if_no_progress dsimp only [id])

theorem State.nextDesc_kept (s : State) (c : Nat) (h0 : Kept v₀ q₀ s) : Kept v₀ q₀ (State.nextDesc s c) := by
  unfold State.nextDesc
  try dsimp only
  repeat' (first | (with_reducible first | assumption | apply State.modChan_kept | apply State.chanIrq_kept) | intro _ | fail_if_no_progress (with_reducible apply Kept.lit) | split | fail_if_no_progress dsimp only | fail_if_no_progress dsimp only [id])

theorem State.doneDesc_kept (s : State) (c : Nat) (h0 : Kept v₀ q₀ s) : Kept v₀ q₀ (State.doneDesc s c) := by
  unfold State.doneDesc
  try dsimp only
  repeat' (first | (with_reducible first | assumption | apply State.modChan_kept | apply State.nextDesc_kept) | intro _ | fail_if_no_progress (with_reducible apply Kept.lit) | split | fail_if_no_progress dsimp only | fail_if_no_progress dsimp only [id])

theorem State.squashRun_kept (s : State) (c : Nat) (w : Nat) (st : St) (h0 : Kept v₀ q₀ s) : Kept v₀ q₀ (State.squashRun s c w st) := by
  unfold State.squashRun
  try dsimp only
  repeat' (first | (with_reducible first | assumption | apply State.modChan_kept | apply State.mixDesc_kept) | intro _ | fail_if_no_progress (with_reducible apply Kept.lit) | split | fail_if_no_progress dsimp only | fail_if_no_progress dsimp only [id])

theorem State.squashDone_kept (s : State) (c : Nat) (h0 : Kept v₀ q₀ s) : Kept v₀ q₀ (State.squashDone s c) := by
  unfold State.squashDone
  try dsimp only
  repeat' (first | (with_reducible first | assumption | apply State.modChan_kept | apply State.chanIrq_kept) | intro _ | fail_if_no_progress (with_reducible apply Kept.lit) | split | fail_if_no_progress dsimp only | fail_if_no_progress dsimp only [id])

theorem State.squashDesc_kept (s : State) (k : Nat) (w : Nat) (c : Nat) (st : St) (h0 : Kept v₀ q₀ s) : Kept v₀ q₀ (State.squashDesc s k w c st) := by
  unfold State.squashDesc
  try dsimp only
  repeat' (first | (with_reducible first | assumption | apply State.modChan_kept | apply State.chanRecord_kept | apply State.mixDesc_kept | apply State.nextDesc_kept) | intro _ | fail_if_no_progress (with_reducible apply Kept.lit) | split | fail_if_no_progress dsimp only | fail_if_no_progress dsimp only [id])

theorem State.clearDist_kept (s : State) (w : Nat) (st : St) (detail : W32) (h0 : Kept v₀ q₀ s) : Kept v₀ q₀ (State.clearDist s w st detail) := by
  unfold State.clearDist
  try dsimp only
  repeat' (first | (with_reducible first | assumption | apply Kept.foldl | apply Kept.foldlFst | apply Kept.foldlSnd | apply Kept.foldlD | apply Kept.foldlP2 | apply Kept.foldlD1 | apply State.modWard_kept | apply State.complete_kept | apply State.event_kept) | intro _ | fail_if_no_progress (with_reducible apply Kept.lit) | split | fail_if_no_progress dsimp only | fail_if_no_progress dsimp only [id])

theorem State.dropBuild_kept (s : State) (w : Nat) (c : Nat) (st : St) (h0 : Kept v₀ q₀ s) : Kept v₀ q₀ (State.dropBuild s w c st) := by
  unfold State.dropBuild
  try dsimp only
  repeat' (first | (with_reducible first | assumption | apply State.complete_kept | apply State.setReg_kept | apply State.devDrop_kept | apply State.freeCopy_kept | apply State.clearDist_kept) | intro _ | fail_if_no_progress (with_reducible apply Kept.lit) | split | fail_if_no_progress dsimp only | fail_if_no_progress dsimp only [id])

theorem State.dropBase_kept (s : State) (w : Nat) (st : St) (h0 : Kept v₀ q₀ s) : Kept v₀ q₀ (State.dropBase s w st) := by
  unfold State.dropBase
  try dsimp only
  repeat' (first | (with_reducible first | assumption | apply State.modWard_kept | apply State.complete_kept | apply State.clearDist_kept) | intro _ | fail_if_no_progress (with_reducible apply Kept.lit) | split | fail_if_no_progress dsimp only | fail_if_no_progress dsimp only [id])

theorem State.endDist_kept (s : State) (w : Nat) (st : St) (detail : W32) (h0 : Kept v₀ q₀ s) : Kept v₀ q₀ (State.endDist s w st detail) := by
  unfold State.endDist
  try dsimp only
  repeat' (first | (with_reducible first | assumption | apply State.clearDist_kept | apply State.dropBuild_kept | apply State.dropBase_kept) | intro _ | fail_if_no_progress (with_reducible apply Kept.lit) | split | fail_if_no_progress dsimp only | fail_if_no_progress dsimp only [id])

theorem State.devLost_kept (s : State) (w : Nat) (st : St) (o : DevOp) (h0 : Kept v₀ q₀ s) : Kept v₀ q₀ (State.devLost s w st o) := by
  unfold State.devLost
  try dsimp only
  repeat' (first | (with_reducible first | assumption | apply State.setReg_kept | apply State.pfDone_kept | apply State.markSeq_kept | apply State.freeCopy_kept | apply State.restore_kept | apply State.modTrain_kept | apply State.freeSwap_kept | apply State.dropBuild_kept | apply State.swapIn_kept | apply State.swapOut_kept) | intro _ | fail_if_no_progress (with_reducible apply Kept.lit) | split | fail_if_no_progress dsimp only | fail_if_no_progress dsimp only [id])

theorem State.squashCtx_kept (s : State) (w : Nat) (c : Nat) (st : St) (h0 : Kept v₀ q₀ s) : Kept v₀ q₀ (State.squashCtx s w c st) := by
  unfold State.squashCtx
  try dsimp only
  repeat' (first | (with_reducible first | assumption | apply Kept.forEach | apply State.devDrop_kept | apply State.squashDesc_kept | apply State.devLost_kept) | intro _ | fail_if_no_progress (with_reducible apply Kept.lit) | split | fail_if_no_progress dsimp only | fail_if_no_progress dsimp only [id])

theorem State.scrubWard_kept (s : State) (w : Nat) (h0 : Kept v₀ q₀ s) : Kept v₀ q₀ (State.scrubWard s w) := by
  unfold State.scrubWard
  try dsimp only
  repeat' (first | (with_reducible first | assumption | apply Kept.forEach | apply State.modQuad_kept | apply State.modChan_kept | apply State.modDev_kept | apply State.modUpd_kept | apply State.modWard_kept | apply State.scrubTile_kept) | intro _ | fail_if_no_progress (with_reducible apply Kept.lit) | split | fail_if_no_progress dsimp only | fail_if_no_progress dsimp only [id])

theorem State.dropEarly_kept (s : State) (w : Nat) (h0 : Kept v₀ q₀ s) : Kept v₀ q₀ (State.dropEarly s w) := by
  unfold State.dropEarly
  try dsimp only
  repeat' (first | (with_reducible first | assumption | apply Kept.forEach | apply State.modLink_kept) | intro _ | fail_if_no_progress (with_reducible apply Kept.lit) | split | fail_if_no_progress dsimp only | fail_if_no_progress dsimp only [id])

theorem State.stopJob_kept (s : State) (w : Nat) (st : St) (seqSt : St) (endc : Nat) (h0 : Kept v₀ q₀ s) : Kept v₀ q₀ (State.stopJob s w st seqSt endc) := by
  unfold State.stopJob
  try dsimp only
  repeat' (first | (with_reducible first | assumption | apply Kept.forEach | apply State.modTile_kept | apply State.modWard_kept | apply State.post_kept | apply State.complete_kept | apply State.setReg_kept | apply State.devDrop_kept | apply State.endSeq_kept | apply State.freeCopy_kept | apply State.freeOld_kept | apply State.restore_kept | apply State.dropTraining_kept | apply State.squashRun_kept | apply State.dropBuild_kept | apply State.dropBase_kept | apply State.endDist_kept | apply State.devLost_kept | apply State.scrubWard_kept | apply State.dropEarly_kept | apply State.boundary_kept) | intro _ | fail_if_no_progress (with_reducible apply Kept.lit) | split | fail_if_no_progress dsimp only | fail_if_no_progress dsimp only [id])

theorem State.faultNow_kept (s : State) (w : Nat) (st : St) (h0 : Kept v₀ q₀ s) : Kept v₀ q₀ (State.faultNow s w st) := by
  unfold State.faultNow
  try dsimp only
  repeat' (first | (with_reducible first | assumption | apply State.stopJob_kept) | intro _ | fail_if_no_progress (with_reducible apply Kept.lit) | split | fail_if_no_progress dsimp only | fail_if_no_progress dsimp only [id])

theorem State.retireKey_kept (s : State) (slot : Nat) (h0 : Kept v₀ q₀ s) : Kept v₀ q₀ (State.retireKey s slot) := by
  unfold State.retireKey
  try dsimp only
  repeat' (first | (with_reducible first | assumption | apply Kept.forEach | apply State.modSlot_kept | apply State.complete_kept | apply State.squashCtx_kept) | intro _ | fail_if_no_progress (with_reducible apply Kept.lit) | split | fail_if_no_progress dsimp only | fail_if_no_progress dsimp only [id])

theorem State.retireStep_kept (s : State) (r : Retire) (h0 : Kept v₀ q₀ s) : Kept v₀ q₀ (State.retireStep s r) := by
  unfold State.retireStep
  try dsimp only
  repeat' (first | (with_reducible first | assumption | apply Kept.forEach | apply State.modTile_kept | apply State.modWard_kept | apply State.mendStore_kept | apply State.clearRange_kept | apply State.complete_kept | apply State.setReg_kept | apply State.endSeq_kept | apply State.freeCopy_kept | apply State.stepReport_kept | apply State.dropRows_kept | apply State.endTraining_kept | apply State.dropBuild_kept) | intro _ | fail_if_no_progress (with_reducible apply Kept.lit) | split | fail_if_no_progress dsimp only | fail_if_no_progress dsimp only [id])

theorem State.retireSteps_kept (s : State) (w : Nat) (h0 : Kept v₀ q₀ s) : Kept v₀ q₀ (State.retireSteps s w) := by
  unfold State.retireSteps
  try dsimp only
  repeat' (first | (with_reducible first | assumption | apply Kept.forEach | apply State.retireStep_kept) | intro _ | fail_if_no_progress (with_reducible apply Kept.lit) | split | fail_if_no_progress dsimp only | fail_if_no_progress dsimp only [id])

theorem State.zeroCarve_kept (s : State) (lo : Nat) (n : Nat) (h0 : Kept v₀ q₀ s) : Kept v₀ q₀ (State.zeroCarve s lo n) := by
  unfold State.zeroCarve
  try dsimp only
  repeat' (first | (with_reducible first | assumption | apply State.clearRange_kept) | intro _ | fail_if_no_progress (with_reducible apply Kept.lit) | split | fail_if_no_progress dsimp only | fail_if_no_progress dsimp only [id])

theorem State.wardLoss_kept (s : State) (w : Nat) (poison : Bool) (h0 : Kept v₀ q₀ s) : Kept v₀ q₀ (State.wardLoss s w poison) := by
  unfold State.wardLoss
  try dsimp only
  repeat' (first | (with_reducible first | assumption | apply Kept.forEach | apply State.modWard_kept | apply State.complete_kept | apply State.wrStruct_kept | apply State.endSeq_kept | apply State.dropTraining_kept | apply State.squashRun_kept | apply State.dropBuild_kept | apply State.dropBase_kept | apply State.endDist_kept | apply State.scrubWard_kept | apply State.faultNow_kept | apply State.retireKey_kept | apply State.zeroCarve_kept) | intro _ | fail_if_no_progress (with_reducible apply Kept.lit) | split | fail_if_no_progress dsimp only | fail_if_no_progress dsimp only [id])

theorem State.startReset_kept (s : State) (w : Nat) (poison : Bool) (jseq : Option Nat) (h0 : Kept v₀ q₀ s) : Kept v₀ q₀ (State.startReset s w poison jseq) := by
  unfold State.startReset
  try dsimp only
  repeat' (first | (with_reducible first | assumption | apply State.modWard_kept | apply State.jobFault_kept | apply State.wardLoss_kept) | intro _ | fail_if_no_progress (with_reducible apply Kept.lit) | split | fail_if_no_progress dsimp only | fail_if_no_progress dsimp only [id])

theorem State.resetByPoison_kept (s : State) (w : Nat) (h0 : Kept v₀ q₀ s) : Kept v₀ q₀ (State.resetByPoison s w) := by
  unfold State.resetByPoison
  try dsimp only
  repeat' (first | (with_reducible first | assumption | apply State.startReset_kept) | intro _ | fail_if_no_progress (with_reducible apply Kept.lit) | split | fail_if_no_progress dsimp only | fail_if_no_progress dsimp only [id])

theorem State.ctrlError_kept (s : State) (w : Nat) (reps : List HbmRep) (h0 : Kept v₀ q₀ s) :
    ∀ t, State.ctrlError s w reps = some t → Kept v₀ q₀ t := by
  intro t ht
  unfold State.ctrlError at ht
  split at ht
  · cases ht
  · cases ht
    exact State.resetByPoison_kept _ _ (Kept.forEach _ _ (fun u r hu => State.readTag_kept u _ _ _ _ _ hu) _ h0)

theorem State.ctrlError_keptSome {s : State} {w : Nat} {reps : List HbmRep} {t : State} (h0 : Kept v₀ q₀ s) (hsome : (State.ctrlError s w reps) = some t) : Kept v₀ q₀ t := State.ctrlError_kept s w reps h0 t hsome

theorem State.settle_kept (s : State) (w : Nat) (h0 : Kept v₀ q₀ s) : Kept v₀ q₀ (State.settle s w) := by
  unfold State.settle
  try dsimp only
  repeat' (first | (with_reducible first | assumption | apply State.modWard_kept | apply State.resetByPoison_kept) | intro _ | fail_if_no_progress (with_reducible apply Kept.lit) | split | fail_if_no_progress dsimp only | fail_if_no_progress dsimp only [id])

theorem State.shutDown_kept (s : State) (w : Nat) (h0 : Kept v₀ q₀ s) : Kept v₀ q₀ (State.shutDown s w) := by
  unfold State.shutDown
  try dsimp only
  repeat' (first | (with_reducible first | assumption | apply State.modWard_kept | apply State.wardLoss_kept) | intro _ | fail_if_no_progress (with_reducible apply Kept.lit) | split | fail_if_no_progress dsimp only | fail_if_no_progress dsimp only [id])

theorem State.freshKey_kept (s : State) (h0 : Kept v₀ q₀ s) : Kept v₀ q₀ (State.freshKey s).2 := by
  unfold State.freshKey
  try dsimp only
  repeat' (first | (with_reducible first | assumption) | intro _ | fail_if_no_progress (with_reducible apply Kept.lit) | split | fail_if_no_progress dsimp only | fail_if_no_progress dsimp only [id])

theorem State.freshKey_keptEq {s : State} {x} {y} (h0 : Kept v₀ q₀ s) (e : (State.freshKey s) = (x, y)) : Kept v₀ q₀ y := by
  have e' := congrArg Prod.snd e
  dsimp only at e'
  subst e'
  exact State.freshKey_kept s h0

theorem State.placeWard_kept (s : State) (w : Nat) (e : OpenEnable) (slot : Nat) (h0 : Kept v₀ q₀ s) : Kept v₀ q₀ (State.placeWard s w e slot) := by
  unfold State.placeWard
  try dsimp only
  repeat' (first | (with_reducible first | assumption | apply State.modWard_kept | apply State.modSlot_kept | apply State.complete_kept | apply State.freshKey_kept) | (refine State.freshKey_keptEq ?_ ‹_›) | intro _ | fail_if_no_progress (with_reducible apply Kept.lit) | split | fail_if_no_progress dsimp only | fail_if_no_progress dsimp only [id])

theorem State.placeAll_kept (n : Nat) (s : State) (h : Kept v₀ q₀ s) : Kept v₀ q₀ (State.placeAll n s) := by
  induction n generalizing s with
  | zero => exact h
  | succ n ih =>
    unfold State.placeAll
    dsimp only
    repeat' (first | with_reducible assumption | with_reducible apply ih | with_reducible apply State.placeWard_kept | split)

theorem State.tryEnable_kept (s : State) (w : Nat) (e : OpenEnable) (waits : Bool) (h0 : Kept v₀ q₀ s) : Kept v₀ q₀ (State.tryEnable s w e waits) := by
  unfold State.tryEnable
  try dsimp only
  repeat' (first | (with_reducible first | assumption | apply State.modWard_kept | apply State.complete_kept | apply State.placeWard_kept) | intro _ | fail_if_no_progress (with_reducible apply Kept.lit) | split | fail_if_no_progress dsimp only | fail_if_no_progress dsimp only [id])

theorem State.dropRings_kept (s : State) (port : Nat) (vf : Nat) (h0 : Kept v₀ q₀ s) : Kept v₀ q₀ (State.dropRings s port vf) := by
  unfold State.dropRings
  try dsimp only
  repeat' (first | (with_reducible first | assumption | apply Kept.forEach) | intro _ | fail_if_no_progress (with_reducible apply Kept.lit) | split | fail_if_no_progress dsimp only | fail_if_no_progress dsimp only [id])

theorem State.failSnap_kept (s : State) (w : Nat) (h0 : Kept v₀ q₀ s) : Kept v₀ q₀ (State.failSnap s w) := by
  unfold State.failSnap
  try dsimp only
  repeat' (first | (with_reducible first | assumption | apply State.modWard_kept | apply State.event_kept) | intro _ | fail_if_no_progress (with_reducible apply Kept.lit) | split | fail_if_no_progress dsimp only | fail_if_no_progress dsimp only [id])

theorem State.lastBoundary_kept (s : State) (w : Nat) (h0 : Kept v₀ q₀ s) : Kept v₀ q₀ (State.lastBoundary s w) := by
  unfold State.lastBoundary
  try dsimp only
  repeat' (first | (with_reducible first | assumption | apply Kept.forEach | apply State.modWard_kept | apply State.complete_kept | apply State.retireKey_kept | apply State.retireSteps_kept | apply State.placeAll_kept | apply State.tryEnable_kept | apply State.dropRings_kept | apply State.failSnap_kept) | intro _ | fail_if_no_progress (with_reducible apply Kept.lit) | split | fail_if_no_progress dsimp only | fail_if_no_progress dsimp only [id])

theorem execWardScrubComplete_kept (w : Nat) (s : State) (h0 : Kept v₀ q₀ s) : KeptX v₀ q₀ (execWardScrubComplete w s) := by
  unfold execWardScrubComplete
  try dsimp only
  repeat' (first | (with_reducible first | assumption | apply KeptX.next | apply State.modWard_kept | apply State.complete_kept | apply State.shutDown_kept | apply State.lastBoundary_kept) | intro _ | fail_if_no_progress (with_reducible apply Kept.lit) | split | fail_if_no_progress dsimp only | fail_if_no_progress dsimp only [id])

/-! ### Swap -/

theorem State.setBlocked_kept (s : State) (w : Nat) (h0 : Kept v₀ q₀ s) : Kept v₀ q₀ (State.setBlocked s w) := by
  unfold State.setBlocked
  try dsimp only
  repeat' (first | (with_reducible first | assumption | apply Kept.forEach | apply State.setReg_kept) | intro _ | fail_if_no_progress (with_reducible apply Kept.lit) | split | fail_if_no_progress dsimp only | fail_if_no_progress dsimp only [id])

theorem State.swapIn_kept (s : State) (w : Nat) (c : Nat) (h0 : Kept v₀ q₀ s) : Kept v₀ q₀ (State.swapIn s w c) := by
  unfold State.swapIn
  try dsimp only
  repeat' (first | (with_reducible first | assumption | apply Kept.forEach | apply State.modWard_kept | apply State.setReg_kept | apply State.event_kept | apply State.devIssue_kept | apply State.modTrain_kept) | intro _ | fail_if_no_progress (with_reducible apply Kept.lit) | split | fail_if_no_progress dsimp only | fail_if_no_progress dsimp only [id])

theorem State.swapOut_kept (s : State) (w : Nat) (c : Nat) (h0 : Kept v₀ q₀ s) : Kept v₀ q₀ (State.swapOut s w c) := by
  unfold State.swapOut
  try dsimp only
  repeat' (first | (with_reducible first | assumption | apply Kept.forEach | apply Kept.foldl | apply Kept.foldlFst | apply Kept.foldlSnd | apply Kept.foldlD | apply Kept.foldlP2 | apply Kept.foldlD1 | apply State.modWard_kept | apply State.setReg_kept | apply State.event_kept | apply State.devIssue_kept | apply State.modTrain_kept) | intro _ | fail_if_no_progress (with_reducible apply Kept.lit) | split | fail_if_no_progress dsimp only | fail_if_no_progress dsimp only [id])

theorem State.swapStep_kept (s : State) (w : Nat) (c : Nat) (bad : Option St) (h0 : Kept v₀ q₀ s) : Kept v₀ q₀ (State.swapStep s w c bad) := by
  unfold State.swapStep
  try dsimp only
  repeat' (first | (with_reducible first | assumption | apply State.setReg_kept | apply State.markCtx_kept | apply State.modTrain_kept | apply State.freeSwap_kept | apply State.regenImage_kept) | intro _ | fail_if_no_progress (with_reducible apply Kept.lit) | split | fail_if_no_progress dsimp only | fail_if_no_progress dsimp only [id])

theorem State.swaps_kept (w n : Nat) (s : State) (h : Kept v₀ q₀ s) : Kept v₀ q₀ (State.swaps w n s) := by
  induction n generalizing s with
  | zero => exact h
  | succ n ih =>
    unfold State.swaps
    dsimp only
    split
    · exact h
    · split
      · exact ih _ (State.swapIn_kept _ _ _ h)
      · split
        · split
          · exact State.swapOut_kept _ _ _ (State.swapIn_kept _ _ _ h)
          · exact h
        · exact h

theorem State.retrySwapOut_kept (s : State) (w : Nat) (h0 : Kept v₀ q₀ s) : Kept v₀ q₀ (State.retrySwapOut s w) := by
  unfold State.retrySwapOut
  try dsimp only
  repeat' (first | (with_reducible first | assumption | apply State.swapOut_kept) | intro _ | fail_if_no_progress (with_reducible apply Kept.lit) | split | fail_if_no_progress dsimp only | fail_if_no_progress dsimp only [id])

theorem State.serveRest_kept (s : State) (w : Nat) (p : JobProg) (t : Nat) (h0 : Kept v₀ q₀ s) : Kept v₀ q₀ (State.serveRest s w p t) := by
  unfold State.serveRest
  try dsimp only
  repeat' (first | (with_reducible first | assumption | apply State.retryCopies_kept | apply State.release_kept | apply State.growth_kept | apply State.admission_kept | apply State.writeRow_kept | apply State.poolMark_kept | apply State.setBlocked_kept | apply State.swaps_kept | apply State.retrySwapOut_kept) | (refine State.growth_keptEq ?_ ‹_›) | intro _ | fail_if_no_progress (with_reducible apply Kept.lit) | split | fail_if_no_progress dsimp only | fail_if_no_progress dsimp only [id])

/-! ### Access -/

theorem State.refuse_kept (s : State) (h0 : Kept v₀ q₀ s) : Kept v₀ q₀ (State.refuse s) := by
  unfold State.refuse
  try dsimp only
  repeat' (first | (with_reducible first | assumption) | intro _ | fail_if_no_progress (with_reducible apply Kept.lit) | split | fail_if_no_progress dsimp only | fail_if_no_progress dsimp only [id])

theorem State.hbmReports_kept (s : State) (reps : List HbmRep) (h0 : Kept v₀ q₀ s) : Kept v₀ q₀ (State.hbmReports s reps) := by
  unfold State.hbmReports
  try dsimp only
  repeat' (first | (with_reducible first | assumption | apply Kept.forEach | apply State.modHbm_kept) | intro _ | fail_if_no_progress (with_reducible apply Kept.lit) | split | fail_if_no_progress dsimp only | fail_if_no_progress dsimp only [id])

/-! ### Dma -/

theorem State.stopRun_kept (s : State) (c : Nat) (w : Nat) (d : Desc) (st : St) (cause : Nat) (va : Nat) (h0 : Kept v₀ q₀ s) : Kept v₀ q₀ (State.stopRun s c w d st cause va) := by
  unfold State.stopRun
  try dsimp only
  repeat' (first | (with_reducible first | assumption | apply State.modChan_kept | apply State.jobFault_kept | apply State.chanIrq_kept | apply State.chanRecord_kept | apply State.mixDesc_kept) | intro _ | fail_if_no_progress (with_reducible apply Kept.lit) | split | fail_if_no_progress dsimp only | fail_if_no_progress dsimp only [id])

theorem State.cword_kept (s : State) (w : Nat) (d : Desc) (pos : Nat) (cause : Nat) (st : St) (h0 : Kept v₀ q₀ s) : Kept v₀ q₀ (State.cword s w d pos cause st) := by
  unfold State.cword
  try dsimp only
  repeat' (first | (with_reducible first | assumption | apply State.writeVa_kept) | intro _ | fail_if_no_progress (with_reducible apply Kept.lit) | split | fail_if_no_progress dsimp only | fail_if_no_progress dsimp only [id])

theorem State.cwordRefused_kept (s : State) (w : Nat) (d : Desc) (port : Option Nat) (h0 : Kept v₀ q₀ s) : Kept v₀ q₀ (State.cwordRefused s w d port) := by
  unfold State.cwordRefused
  try dsimp only
  repeat' (first | (with_reducible first | assumption | apply State.countFault_kept) | intro _ | fail_if_no_progress (with_reducible apply Kept.lit) | split | fail_if_no_progress dsimp only | fail_if_no_progress dsimp only [id])

theorem State.loseCtx_kept (s : State) (w : Nat) (n : Nat) (ctx : Nat) (st : St) (h0 : Kept v₀ q₀ s) : Kept v₀ q₀ (State.loseCtx s w n ctx st) := by
  unfold State.loseCtx
  try dsimp only
  repeat' (first | (with_reducible first | assumption | apply State.losePositions_kept) | intro _ | fail_if_no_progress (with_reducible apply Kept.lit) | split | fail_if_no_progress dsimp only | fail_if_no_progress dsimp only [id])

theorem State.confine_kept (s : State) (c : Nat) (w : Nat) (d : Desc) (st : St) (va : Nat) (port : Option Nat) (h0 : Kept v₀ q₀ s) : Kept v₀ q₀ (State.confine s c w d st va port) := by
  unfold State.confine
  try dsimp only
  repeat' (first | (with_reducible first | assumption | apply State.modChan_kept | apply State.chanRecord_kept | apply State.mixDesc_kept | apply State.doneDesc_kept | apply State.stopRun_kept | apply State.cword_kept | apply State.cwordRefused_kept | apply State.loseCtx_kept) | intro _ | fail_if_no_progress (with_reducible apply Kept.lit) | split | fail_if_no_progress dsimp only | fail_if_no_progress dsimp only [id])

theorem execDmaStart_kept (r : Req) (c : Nat) (a : RegW) (s : State) (h0 : Kept v₀ q₀ s) : KeptX v₀ q₀ (execDmaStart r c a s) := by
  unfold execDmaStart
  try dsimp only
  repeat' (first | (with_reducible first | assumption | apply KeptX.next | apply State.modChan_kept | apply State.refuse_kept) | intro _ | fail_if_no_progress (with_reducible apply Kept.lit) | split | fail_if_no_progress dsimp only | fail_if_no_progress dsimp only [id])

theorem State.readShape_kept (s : State) (w : Nat) (ctx : Nat) (va : Nat) (port : Option Nat) (h0 : Kept v₀ q₀ s) : Kept v₀ q₀ (State.readShape s w ctx va port).1 := by
  unfold State.readShape
  try dsimp only
  repeat' (first | (with_reducible first | assumption | apply State.readVa_kept) | (refine State.readVa_keptEq ?_ ‹_›) | intro _ | fail_if_no_progress (with_reducible apply Kept.lit) | split | fail_if_no_progress dsimp only | fail_if_no_progress dsimp only [id])

theorem State.readShape_keptEq {s : State} {w : Nat} {ctx : Nat} {va : Nat} {port : Option Nat} {x} {y} (h0 : Kept v₀ q₀ s) (e : (State.readShape s w ctx va port) = (x, y)) : Kept v₀ q₀ x := by
  have e' := congrArg Prod.fst e
  dsimp only at e'
  subst e'
  exact State.readShape_kept s w ctx va port h0

theorem State.charge_kept (s : State) (w : Nat) (c : Nat) (va : Nat) (n : Nat) (wr : Bool) (h0 : Kept v₀ q₀ s) : Kept v₀ q₀ (State.charge s w c va n wr) := by
  unfold State.charge
  try dsimp only
  repeat' (first | (with_reducible first | assumption | apply State.modWard_kept) | intro _ | fail_if_no_progress (with_reducible apply Kept.lit) | split | fail_if_no_progress dsimp only | fail_if_no_progress dsimp only [id])

theorem execDmaDescriptorComplete_kept (c : Nat) (seen : List (Nat × Byte)) (reports : List HbmRep) (s : State) (h0 : Kept v₀ q₀ s) : KeptX v₀ q₀ (execDmaDescriptorComplete c seen reports s) := by
  unfold execDmaDescriptorComplete
  try dsimp only
  repeat' (first | (with_reducible first | assumption | apply Kept.forEach | apply KeptX.next | apply State.modChan_kept | apply State.uncount_kept | apply State.seen_kept | apply State.notePoison_kept | apply State.addSite_kept | apply State.freeVa_kept | apply dmaPlan_kept | apply State.dmaWrite_kept | apply State.doneDesc_kept | apply State.hbmReports_kept | apply State.cword_kept | apply State.charge_kept) | intro _ | fail_if_no_progress (with_reducible apply Kept.lit) | split | fail_if_no_progress dsimp only | fail_if_no_progress dsimp only [id])

theorem State.confineAt_kept (s : State) (c : Nat) (w : Nat) (st : St) (va : Nat) (h0 : Kept v₀ q₀ s) : Kept v₀ q₀ (State.confineAt s c w st va) := by
  unfold State.confineAt
  try dsimp only
  repeat' (first | (with_reducible first | assumption | apply State.modChan_kept | apply State.chanRecord_kept | apply State.doneDesc_kept | apply State.stopRun_kept | apply State.cword_kept | apply State.cwordRefused_kept | apply State.loseCtx_kept | apply State.confine_kept) | intro _ | fail_if_no_progress (with_reducible apply Kept.lit) | split | fail_if_no_progress dsimp only | fail_if_no_progress dsimp only [id])

theorem State.failAccess_kept (s : State) (c : Nat) (w : Nat) (st : St) (va : Nat) (h0 : Kept v₀ q₀ s) : Kept v₀ q₀ (State.failAccess s c w st va) := by
  unfold State.failAccess
  try dsimp only
  repeat' (first | (with_reducible first | assumption | apply State.stopRun_kept | apply State.confineAt_kept) | intro _ | fail_if_no_progress (with_reducible apply Kept.lit) | split | fail_if_no_progress dsimp only | fail_if_no_progress dsimp only [id])

theorem State.accessError_kept (s : State) (c w : Nat) (e : AccErr) (h0 : Kept v₀ q₀ s) :
    ∀ t, State.accessError s c w e = some t → Kept v₀ q₀ t := by
  intro t ht
  have hp := fun ctx va o => State.newPoison s w ctx va o
  unfold State.accessError at ht
  dsimp only at ht
  repeat' split at ht
  all_goals cases ht
  all_goals repeat' (first | with_reducible assumption | with_reducible apply State.failAccess_kept | with_reducible apply State.stopRun_kept | with_reducible apply State.confineAt_kept | with_reducible apply State.countFault_kept | with_reducible apply State.resetByPoison_kept | with_reducible apply State.mainFault_kept | with_reducible apply State.readVa_kept | with_reducible apply dmaPlan_kept)

theorem State.accessError_keptSome {s : State} {c : Nat} {w : Nat} {e : AccErr} {t : State} (h0 : Kept v₀ q₀ s) (hsome : (State.accessError s c w e) = some t) : Kept v₀ q₀ t := State.accessError_kept s c w e h0 t hsome

theorem execDmaAccessError_kept (c : Nat) (e : AccFault) (s : State) (h0 : Kept v₀ q₀ s) :
    KeptX v₀ q₀ (execDmaAccessError c e s) := by
  unfold execDmaAccessError
  repeat' split
  · exact KeptX.next h0
  · exact KeptX.next h0
  · apply KeptX.next
    have hs := State.seen_kept s e.seen h0
    generalize State.seen s e.seen = t at hs
    rename_i w _ _
    cases ha : State.accessError t c w e.err with
    | none => exact h0
    | some u => exact State.accessError_kept t c w e.err hs u ha

theorem State.beginDesc_kept (s : State) (c : Nat) (w : Nat) (d : Desc) (h0 : Kept v₀ q₀ s) : Kept v₀ q₀ (State.beginDesc s c w d) := by
  unfold State.beginDesc
  try dsimp only
  repeat' (first | (with_reducible first | assumption | apply Kept.forEach | apply State.modChan_kept | apply State.uncount_kept | apply State.sendRead_kept | apply State.failAccess_kept) | intro _ | fail_if_no_progress (with_reducible apply Kept.lit) | split | fail_if_no_progress dsimp only | fail_if_no_progress dsimp only [id])

theorem execDmaDescriptorFetch_kept (c : Nat) (seen : List (Nat × Byte)) (s : State) (h0 : Kept v₀ q₀ s) : KeptX v₀ q₀ (execDmaDescriptorFetch c seen s) := by
  unfold execDmaDescriptorFetch
  try dsimp only
  repeat' (first | (with_reducible first | assumption | apply KeptX.next | apply State.modChan_kept | apply State.takeFresh_kept | apply State.seen_kept | apply State.readVa_kept | apply State.stopRun_kept | apply State.readShape_kept | apply State.beginDesc_kept) | (refine State.takeFresh_keptEq ?_ ‹_›) | (refine State.readVa_keptEq ?_ ‹_›) | (refine State.readShape_keptEq ?_ ‹_›) | intro _ | fail_if_no_progress (with_reducible apply Kept.lit) | split | fail_if_no_progress dsimp only | fail_if_no_progress dsimp only [id])

theorem execSquashComplete_kept (c : Nat) (s : State) (h0 : Kept v₀ q₀ s) : KeptX v₀ q₀ (execSquashComplete c s) := by
  unfold execSquashComplete
  try dsimp only
  repeat' (first | (with_reducible first | assumption | apply KeptX.next | apply State.squashDone_kept) | intro _ | fail_if_no_progress (with_reducible apply Kept.lit) | split | fail_if_no_progress dsimp only | fail_if_no_progress dsimp only [id])

/-! ### Developer -/

theorem State.readSpans_kept (s : State) (w : Nat) (c : Nat) (sp : List (Nat × Nat)) (un : List Nat) (h0 : Kept v₀ q₀ s) : Kept v₀ q₀ (State.readSpans s w c sp un).1 := by
  unfold State.readSpans
  try dsimp only
  repeat' (first | (with_reducible first | assumption | apply Kept.foldl | apply Kept.foldlFst | apply Kept.foldlSnd | apply Kept.foldlD | apply Kept.foldlP2 | apply Kept.foldlD1 | apply State.readVa_kept | apply State.charge_kept) | (refine State.readVa_keptEq ?_ ‹_›) | intro _ | fail_if_no_progress (with_reducible apply Kept.lit) | split | fail_if_no_progress dsimp only | fail_if_no_progress dsimp only [id])

theorem State.readSpans_keptEq {s : State} {w : Nat} {c : Nat} {sp : List (Nat × Nat)} {un : List Nat} {x} {y} (h0 : Kept v₀ q₀ s) (e : (State.readSpans s w c sp un) = (x, y)) : Kept v₀ q₀ x := by
  have e' := congrArg Prod.fst e
  dsimp only at e'
  subst e'
  exact State.readSpans_kept s w c sp un h0

theorem State.writeSpans_kept (s : State) (w : Nat) (c : Nat) (sp : List (Nat × Nat)) (bs : List Byte) (h0 : Kept v₀ q₀ s) : Kept v₀ q₀ (State.writeSpans s w c sp bs) := by
  unfold State.writeSpans
  try dsimp only
  repeat' (first | (with_reducible first | assumption | apply Kept.foldl | apply Kept.foldlFst | apply Kept.foldlSnd | apply Kept.foldlD | apply Kept.foldlP2 | apply Kept.foldlD1 | apply State.writeVa_kept | apply State.charge_kept) | intro _ | fail_if_no_progress (with_reducible apply Kept.lit) | split | fail_if_no_progress dsimp only | fail_if_no_progress dsimp only [id])

theorem State.devEnd_kept (s : State) (d : Nat) (e : DevEnd) (h0 : Kept v₀ q₀ s) : Kept v₀ q₀ (State.devEnd s d e) := by
  unfold State.devEnd
  try dsimp only
  repeat' (first | (with_reducible first | assumption | apply State.modDev_kept) | intro _ | fail_if_no_progress (with_reducible apply Kept.lit) | split | fail_if_no_progress dsimp only | fail_if_no_progress dsimp only [id])

theorem State.devFails_kept (s : State) (d : Nat) (w : Nat) (f : AccFail) (frame : Nat) (h0 : Kept v₀ q₀ s) : Kept v₀ q₀ (State.devFails s d w f frame) := by
  unfold State.devFails
  try dsimp only
  repeat' (first | (with_reducible first | assumption | apply State.countFault_kept | apply State.devEnd_kept) | intro _ | fail_if_no_progress (with_reducible apply Kept.lit) | split | fail_if_no_progress dsimp only | fail_if_no_progress dsimp only [id])

theorem State.devWrite_kept (s : State) (d : Nat) (w : Nat) (c : Nat) (ws : List (List (Nat × Nat) × List Byte × Bool)) (h0 : Kept v₀ q₀ s) : Kept v₀ q₀ (State.devWrite s d w c ws) := by
  unfold State.devWrite
  try dsimp only
  repeat' (first | (with_reducible first | assumption | apply Kept.forEach | apply Kept.foldl | apply Kept.foldlFst | apply Kept.foldlSnd | apply Kept.foldlD | apply Kept.foldlP2 | apply Kept.foldlD1 | apply State.modDev_kept | apply State.notePoison_kept | apply State.writeSpans_kept) | intro _ | fail_if_no_progress (with_reducible apply Kept.lit) | split | fail_if_no_progress dsimp only | fail_if_no_progress dsimp only [id])

theorem State.developFrames_kept (d : Nat) (o : DevOp) (n : Neg) (g : DevIn) (l : List (Nat × Nat)) (s : State)
    (h : Kept v₀ q₀ s) : Kept v₀ q₀ (State.developFrames d o n g l s) := by
  induction l generalizing s with
  | nil => exact State.devEnd_kept _ _ _ h
  | cons i r ih =>
    unfold State.developFrames
    dsimp only
    repeat' (first | with_reducible assumption | with_reducible apply ih | with_reducible apply State.devEnd_kept | with_reducible apply State.devFails_kept | with_reducible apply State.devWrite_kept | with_reducible apply State.readSpans_kept | split)

theorem State.runDevelop_kept (s : State) (d : Nat) (o : DevOp) (g : DevIn) (h0 : Kept v₀ q₀ s) : Kept v₀ q₀ (State.runDevelop s d o g) := by
  unfold State.runDevelop
  try dsimp only
  repeat' (first | (with_reducible first | assumption | apply State.readSpans_kept | apply State.devEnd_kept | apply State.devFails_kept | apply State.developFrames_kept) | (refine State.readSpans_keptEq ?_ ‹_›) | intro _ | fail_if_no_progress (with_reducible apply Kept.lit) | split | fail_if_no_progress dsimp only | fail_if_no_progress dsimp only [id])

theorem State.quantBlock_kept (s : State) (o : DevOp) (un : List Nat) (g : W32) (runs : List (Nat × Nat)) (h0 : Kept v₀ q₀ s) : Kept v₀ q₀ (State.quantBlock s o un g runs).1 := by
  unfold State.quantBlock
  try dsimp only
  repeat' (first | (with_reducible first | assumption | apply Kept.foldl | apply Kept.foldlFst | apply Kept.foldlSnd | apply Kept.foldlD | apply Kept.foldlP2 | apply Kept.foldlD1 | apply State.readSpans_kept) | (refine State.readSpans_keptEq ?_ ‹_›) | intro _ | fail_if_no_progress (with_reducible apply Kept.lit) | split | fail_if_no_progress dsimp only | fail_if_no_progress dsimp only [id])

theorem State.quantBlock_keptEq {s : State} {o : DevOp} {un : List Nat} {g : W32} {runs : List (Nat × Nat)} {x} {y} (h0 : Kept v₀ q₀ s) (e : (State.quantBlock s o un g runs) = (x, y)) : Kept v₀ q₀ x := by
  have e' := congrArg Prod.fst e
  dsimp only at e'
  subst e'
  exact State.quantBlock_kept s o un g runs h0

theorem State.quantPlates_kept (s : State) (d : Nat) (o : DevOp) (un : List Nat) (h0 : Kept v₀ q₀ s) : Kept v₀ q₀ (State.quantPlates s d o un).1 := by
  unfold State.quantPlates
  try dsimp only
  repeat' (first | (with_reducible first | assumption | apply Kept.foldl | apply Kept.foldlFst | apply Kept.foldlSnd | apply Kept.foldlD | apply Kept.foldlP2 | apply Kept.foldlD1 | apply State.quantBlock_kept) | (refine State.quantBlock_keptEq ?_ ‹_›) | intro _ | fail_if_no_progress (with_reducible apply Kept.lit) | split | fail_if_no_progress dsimp only | fail_if_no_progress dsimp only [id])

theorem State.quantPlates_keptEq {s : State} {d : Nat} {o : DevOp} {un : List Nat} {x} {y} (h0 : Kept v₀ q₀ s) (e : (State.quantPlates s d o un) = (x, y)) : Kept v₀ q₀ x := by
  have e' := congrArg Prod.fst e
  dsimp only at e'
  subst e'
  exact State.quantPlates_kept s d o un h0

theorem State.runQuant_kept (s : State) (d : Nat) (o : DevOp) (g : DevIn) (h0 : Kept v₀ q₀ s) : Kept v₀ q₀ (State.runQuant s d o g) := by
  unfold State.runQuant
  try dsimp only
  repeat' (first | (with_reducible first | assumption | apply State.modDev_kept | apply State.addSite_kept | apply State.devEnd_kept | apply State.devFails_kept | apply State.devWrite_kept | apply State.quantPlates_kept) | (refine State.quantPlates_keptEq ?_ ‹_›) | intro _ | fail_if_no_progress (with_reducible apply Kept.lit) | split | fail_if_no_progress dsimp only | fail_if_no_progress dsimp only [id])

theorem State.countQuant_kept (s : State) (d : Nat) (h0 : Kept v₀ q₀ s) : Kept v₀ q₀ (State.countQuant s d) := by
  unfold State.countQuant
  try dsimp only
  repeat' (first | (with_reducible first | assumption | apply State.modDev_kept | apply State.addSite_kept | apply State.someBlocks_kept | apply State.quantPlates_kept) | (refine State.someBlocks_keptEq ?_ ‹_›) | (refine State.quantPlates_keptEq ?_ ‹_›) | intro _ | fail_if_no_progress (with_reducible apply Kept.lit) | split | fail_if_no_progress dsimp only | fail_if_no_progress dsimp only [id])

theorem State.readUnits_kept (s : State) (o : DevOp) (un : List Nat) (n : Nat) (u : Nat) (h0 : Kept v₀ q₀ s) : Kept v₀ q₀ (State.readUnits s o un n u).1 := by
  unfold State.readUnits
  try dsimp only
  repeat' (first | (with_reducible first | assumption | apply Kept.foldl | apply Kept.foldlFst | apply Kept.foldlSnd | apply Kept.foldlD | apply Kept.foldlP2 | apply Kept.foldlD1 | apply State.readSpans_kept) | (refine State.readSpans_keptEq ?_ ‹_›) | intro _ | fail_if_no_progress (with_reducible apply Kept.lit) | split | fail_if_no_progress dsimp only | fail_if_no_progress dsimp only [id])

theorem State.readUnits_keptEq {s : State} {o : DevOp} {un : List Nat} {n : Nat} {u : Nat} {x} {y} (h0 : Kept v₀ q₀ s) (e : (State.readUnits s o un n u) = (x, y)) : Kept v₀ q₀ x := by
  have e' := congrArg Prod.fst e
  dsimp only at e'
  subst e'
  exact State.readUnits_kept s o un n u h0

theorem State.publishCopy_kept (s : State) (d : Nat) (w : Nat) (c : Nat) (o : DevOp) (h0 : Kept v₀ q₀ s) : Kept v₀ q₀ (State.publishCopy s d w c o) := by
  unfold State.publishCopy
  try dsimp only
  repeat' (first | (with_reducible first | assumption | apply Kept.foldl | apply Kept.foldlFst | apply Kept.foldlSnd | apply Kept.foldlD | apply Kept.foldlP2 | apply Kept.foldlD1 | apply State.modDev_kept | apply State.readSpans_kept | apply State.writeSpans_kept) | (refine State.readSpans_keptEq ?_ ‹_›) | intro _ | fail_if_no_progress (with_reducible apply Kept.lit) | split | fail_if_no_progress dsimp only | fail_if_no_progress dsimp only [id])

theorem State.runMove_kept (s : State) (d : Nat) (o : DevOp) (g : DevIn) (h0 : Kept v₀ q₀ s) : Kept v₀ q₀ (State.runMove s d o g) := by
  unfold State.runMove
  try dsimp only
  repeat' (first | (with_reducible first | assumption | apply State.devEnd_kept | apply State.devFails_kept | apply State.devWrite_kept | apply State.readUnits_kept | apply State.publishCopy_kept) | (refine State.readUnits_keptEq ?_ ‹_›) | intro _ | fail_if_no_progress (with_reducible apply Kept.lit) | split | fail_if_no_progress dsimp only | fail_if_no_progress dsimp only [id])

theorem State.spillDst_kept (s : State) (o : DevOp) (n : Nat) (h0 : Kept v₀ q₀ s) : Kept v₀ q₀ (State.spillDst s o n).1 := by
  unfold State.spillDst
  try dsimp only
  repeat' (first | (with_reducible first | assumption | apply Kept.foldl | apply Kept.foldlFst | apply Kept.foldlSnd | apply Kept.foldlD | apply Kept.foldlP2 | apply Kept.foldlD1 | apply State.modWard_kept | apply State.swapOut_kept) | intro _ | fail_if_no_progress (with_reducible apply Kept.lit) | split | fail_if_no_progress dsimp only | fail_if_no_progress dsimp only [id])

theorem State.spillDst_keptEq {s : State} {o : DevOp} {n : Nat} {x} {y} (h0 : Kept v₀ q₀ s) (e : (State.spillDst s o n) = (x, y)) : Kept v₀ q₀ x := by
  have e' := congrArg Prod.fst e
  dsimp only at e'
  subst e'
  exact State.spillDst_kept s o n h0

theorem State.spillNote_kept (s : State) (d : Nat) (o : DevOp) (n : Nat) (h0 : Kept v₀ q₀ s) : Kept v₀ q₀ (State.spillNote s d o n) := by
  unfold State.spillNote
  try dsimp only
  repeat' (first | (with_reducible first | assumption | apply State.setSq_kept | apply State.modTrain_kept | apply State.swapOut_kept) | intro _ | fail_if_no_progress (with_reducible apply Kept.lit) | split | fail_if_no_progress dsimp only | fail_if_no_progress dsimp only [id])

theorem State.runEncode_kept (s : State) (d : Nat) (o : DevOp) (g : DevIn) (h0 : Kept v₀ q₀ s) : Kept v₀ q₀ (State.runEncode s d o g) := by
  unfold State.runEncode
  try dsimp only
  repeat' (first | (with_reducible first | assumption | apply State.modDev_kept | apply State.readVa_kept | apply State.swapOut_kept | apply State.writeSpans_kept | apply State.devEnd_kept | apply State.devFails_kept | apply State.readUnits_kept | apply State.spillDst_kept | apply State.spillNote_kept) | (refine State.readVa_keptEq ?_ ‹_›) | (refine State.readUnits_keptEq ?_ ‹_›) | (refine State.spillDst_keptEq ?_ ‹_›) | intro _ | fail_if_no_progress (with_reducible apply Kept.lit) | split | fail_if_no_progress dsimp only | fail_if_no_progress dsimp only [id])

theorem State.runDev_kept (s : State) (d : Nat) (o : DevOp) (seen : List (Nat × Byte)) (reports : List HbmRep) (lost : Option Nat) (h0 : Kept v₀ q₀ s) : Kept v₀ q₀ (State.runDev s d o seen reports lost) := by
  unfold State.runDev
  try dsimp only
  repeat' (first | (with_reducible first | assumption | apply State.seen_kept | apply State.hbmReports_kept | apply State.devEnd_kept | apply State.runDevelop_kept | apply State.runQuant_kept | apply State.runMove_kept | apply State.runEncode_kept) | (refine State.ctrlError_keptSome ?_ ‹_›) | intro _ | fail_if_no_progress (with_reducible apply Kept.lit) | split | fail_if_no_progress dsimp only | fail_if_no_progress dsimp only [id])

theorem execDevelop_kept (d : Nat) (seen : List (Nat × Byte)) (reports : List HbmRep) (s : State) (h0 : Kept v₀ q₀ s) : KeptX v₀ q₀ (execDevelop d seen reports s) := by
  unfold execDevelop
  try dsimp only
  repeat' (first | (with_reducible first | assumption | apply KeptX.next | apply State.seen_kept | apply State.runDev_kept) | intro _ | fail_if_no_progress (with_reducible apply Kept.lit) | split | fail_if_no_progress dsimp only | fail_if_no_progress dsimp only [id])

theorem execQuant_kept (d : Nat) (x : Arrived) (s : State) (h0 : Kept v₀ q₀ s) : KeptX v₀ q₀ (execQuant d x s) := by
  unfold execQuant
  try dsimp only
  repeat' (first | (with_reducible first | assumption | apply KeptX.next | apply State.seen_kept | apply State.runDev_kept) | intro _ | fail_if_no_progress (with_reducible apply Kept.lit) | split | fail_if_no_progress dsimp only | fail_if_no_progress dsimp only [id])

theorem execEncode_kept (d : Nat) (x : Arrived) (s : State) (h0 : Kept v₀ q₀ s) : KeptX v₀ q₀ (execEncode d x s) := by
  unfold execEncode
  try dsimp only
  repeat' (first | (with_reducible first | assumption | apply KeptX.next | apply State.seen_kept | apply State.runDev_kept) | intro _ | fail_if_no_progress (with_reducible apply Kept.lit) | split | fail_if_no_progress dsimp only | fail_if_no_progress dsimp only [id])

theorem State.devFail_kept (s : State) (d : Nat) (o : DevOp) (e : DevEnd) (scope : Nat) (entry : Nat) (h0 : Kept v₀ q₀ s) : Kept v₀ q₀ (State.devFail s d o e scope entry) := by
  unfold State.devFail
  try dsimp only
  repeat' (first | (with_reducible first | assumption | apply State.modDev_kept | apply State.report_kept) | intro _ | fail_if_no_progress (with_reducible apply Kept.lit) | split | fail_if_no_progress dsimp only | fail_if_no_progress dsimp only [id])

theorem State.countTier_kept (s : State) (w : Nat) (st : St) (h0 : Kept v₀ q₀ s) : Kept v₀ q₀ (State.countTier s w st) := by
  unfold State.countTier
  try dsimp only
  repeat' (first | (with_reducible first | assumption | apply State.modWard_kept) | intro _ | fail_if_no_progress (with_reducible apply Kept.lit) | split | fail_if_no_progress dsimp only | fail_if_no_progress dsimp only [id])

theorem State.pfLost_kept (s : State) (w : Nat) (d : Nat) (p : PfRun) (st : St) (h0 : Kept v₀ q₀ s) : Kept v₀ q₀ (State.pfLost s w d p st) := by
  unfold State.pfLost
  try dsimp only
  repeat' (first | (with_reducible first | assumption | apply State.modWard_kept | apply State.losePositions_kept | apply State.countTier_kept) | intro _ | fail_if_no_progress (with_reducible apply Kept.lit) | split | fail_if_no_progress dsimp only | fail_if_no_progress dsimp only [id])

theorem State.pfRecord_kept (s : State) (w : Nat) (d : Nat) (p : PfRun) (st : St) (cause : Nat) (h0 : Kept v₀ q₀ s) : Kept v₀ q₀ (State.pfRecord s w d p st cause) := by
  unfold State.pfRecord
  try dsimp only
  repeat' (first | (with_reducible first | assumption | apply State.report_kept) | intro _ | fail_if_no_progress (with_reducible apply Kept.lit) | split | fail_if_no_progress dsimp only | fail_if_no_progress dsimp only [id])

theorem State.pfOver_kept (s : State) (w : Nat) (d : Nat) (p : PfRun) (st : St) (low : St) (h0 : Kept v₀ q₀ s) : Kept v₀ q₀ (State.pfOver s w d p st low) := by
  unfold State.pfOver
  try dsimp only
  repeat' (first | (with_reducible first | assumption | apply State.jobFault_kept | apply State.pfLost_kept) | intro _ | fail_if_no_progress (with_reducible apply Kept.lit) | split | fail_if_no_progress dsimp only | fail_if_no_progress dsimp only [id])

theorem State.pfPoison_kept (s : State) (w : Nat) (d : Nat) (p : PfRun) (h0 : Kept v₀ q₀ s) : Kept v₀ q₀ (State.pfPoison s w d p) := by
  unfold State.pfPoison
  try dsimp only
  repeat' (first | (with_reducible first | assumption | apply State.evictHot_kept | apply State.pfLost_kept) | intro _ | fail_if_no_progress (with_reducible apply Kept.lit) | split | fail_if_no_progress dsimp only | fail_if_no_progress dsimp only [id])

theorem State.devGood_kept (s : State) (d : Nat) (o : DevOp) (e : DevEnd) (h0 : Kept v₀ q₀ s) : Kept v₀ q₀ (State.devGood s d o e) := by
  unfold State.devGood
  try dsimp only
  repeat' (first | (with_reducible first | assumption | apply State.complete_kept | apply State.setReg_kept | apply State.setSq_kept | apply State.event_kept | apply State.pfDone_kept | apply State.noteRead_kept | apply State.writeList_kept | apply State.restore_kept | apply State.swapIn_kept | apply State.swapOut_kept | apply State.swapStep_kept | apply State.pfPoison_kept | apply State.arm_kept) | intro _ | fail_if_no_progress (with_reducible apply Kept.lit) | split | fail_if_no_progress dsimp only | fail_if_no_progress dsimp only [id])

theorem State.devBad_kept (s : State) (d : Nat) (o : DevOp) (e : DevEnd) (h0 : Kept v₀ q₀ s) : Kept v₀ q₀ (State.devBad s d o e) := by
  unfold State.devBad
  try dsimp only
  repeat' (first | (with_reducible first | assumption | apply State.setReg_kept | apply State.setSq_kept | apply State.pfDone_kept | apply State.noteRead_kept | apply State.markSeq_kept | apply State.markCtx_kept | apply State.freeCopy_kept | apply State.evictHot_kept | apply State.restore_kept | apply State.dropBuild_kept | apply State.swapIn_kept | apply State.swapOut_kept | apply State.swapStep_kept | apply State.devFail_kept | apply State.countTier_kept | apply State.pfOver_kept) | intro _ | fail_if_no_progress (with_reducible apply Kept.lit) | split | fail_if_no_progress dsimp only | fail_if_no_progress dsimp only [id])

theorem execDevOperationComplete_kept (d : Nat) (s : State) (h0 : Kept v₀ q₀ s) : KeptX v₀ q₀ (execDevOperationComplete d s) := by
  unfold execDevOperationComplete
  try dsimp only
  repeat' (first | (with_reducible first | assumption | apply KeptX.next | apply State.modDev_kept | apply State.devGood_kept | apply State.devBad_kept) | intro _ | fail_if_no_progress (with_reducible apply Kept.lit) | split | fail_if_no_progress dsimp only | fail_if_no_progress dsimp only [id])

theorem State.copyFails_kept (s : State) (d : Nat) (o : DevOp) (f : AccFail) (h0 : Kept v₀ q₀ s) : Kept v₀ q₀ (State.copyFails s d o f) := by
  unfold State.copyFails
  try dsimp only
  repeat' (first | (with_reducible first | assumption | apply State.countFault_kept | apply State.pfDone_kept | apply State.pfRecord_kept | apply State.pfOver_kept) | intro _ | fail_if_no_progress (with_reducible apply Kept.lit) | split | fail_if_no_progress dsimp only | fail_if_no_progress dsimp only [id])

theorem State.runCopy_kept (s : State) (d : Nat) (o : DevOp) (un : List Nat) (h0 : Kept v₀ q₀ s) : Kept v₀ q₀ (State.runCopy s d o un) := by
  unfold State.runCopy
  try dsimp only
  repeat' (first | (with_reducible first | assumption | apply Kept.forEach | apply State.mainFault_kept | apply State.pfDone_kept | apply State.dmaWrite_kept | apply State.readSpans_kept | apply State.copyFails_kept) | (refine State.readSpans_keptEq ?_ ‹_›) | intro _ | fail_if_no_progress (with_reducible apply Kept.lit) | split | fail_if_no_progress dsimp only | fail_if_no_progress dsimp only [id])

theorem execMove_kept (d : Nat) (x : Arrived) (s : State) (h0 : Kept v₀ q₀ s) : KeptX v₀ q₀ (execMove d x s) := by
  unfold execMove
  try dsimp only
  repeat' (first | (with_reducible first | assumption | apply KeptX.next | apply State.modDev_kept | apply State.seen_kept | apply State.hbmReports_kept | apply State.runDev_kept | apply State.runCopy_kept) | intro _ | fail_if_no_progress (with_reducible apply Kept.lit) | split | fail_if_no_progress dsimp only | fail_if_no_progress dsimp only [id])

theorem execSpillReadComplete_kept (w : Nat) (seqIdx : Nat) (s : State) (h0 : Kept v₀ q₀ s) : KeptX v₀ q₀ (execSpillReadComplete w seqIdx s) := by
  unfold execSpillReadComplete
  try dsimp only
  repeat' (first | (with_reducible first | assumption | apply KeptX.next | apply State.noteRead_kept) | intro _ | fail_if_no_progress (with_reducible apply Kept.lit) | split | fail_if_no_progress dsimp only | fail_if_no_progress dsimp only [id])

theorem State.chanTimeout_kept (s : State) (c : Nat) (va : Addr) (k : LocKind) (seen : List (Nat × Byte)) (h0 : Kept v₀ q₀ s) :
    KeptX v₀ q₀ (State.chanTimeout s c va k seen) := by
  unfold State.chanTimeout
  repeat' split
  all_goals first | exact KeptX.next h0 | exact execDmaAccessError_kept _ _ _ h0

theorem State.devTimeout_kept (s : State) (d : Nat) (va : Addr) (k : LocKind) (seen : List (Nat × Byte)) (h0 : Kept v₀ q₀ s) :
    Kept v₀ q₀ (State.devTimeout s d va k seen) := by
  have hd : ∀ u, (match (s.dev d).queue, (s.dev d).ended with
      | o :: _, none =>
        if s.waits o.ward o.ctx va k none then
          let t := s.runDev d o seen [] (some va.toNat)
          if (t.dev d).ended.any (·.lost) then some t else none
        else none
      | _, _ => none) = some u → Kept v₀ q₀ u := by
    intro u hu
    repeat' (first | split at hu | dsimp only at hu)
    all_goals cases hu
    exact State.runDev_kept _ _ _ _ _ _ h0
  unfold State.devTimeout
  extract_lets dev
  have hd : ∀ u, dev = some u → Kept v₀ q₀ u := hd
  clear_value dev
  split
  · exact hd _ rfl
  · repeat' (first | with_reducible assumption | with_reducible apply State.copyFails_kept | with_reducible apply State.modDev_kept | split)
  · exact h0

end Sys2Proof.Machine
end

