-- ==== Sys2Proof/Laws/KeptHost.lean ====
section
/-! SUPPORT. What is kept by host commands, the domain, training: every operation and every meaning keeps the variant, the queue and the
canonical form of memory (`Kept`). -/

set_option linter.unusedTactic false
set_option linter.unreachableTactic false
set_option linter.unusedVariables false

namespace Sys2Proof.Machine
open Sys2Proof
variable {v₀ : Variant} {q₀ : List Instr}

/-! ### HostOps -/

theorem State.ringError_kept (s : State) (k : Nat) (err : Nat) (h0 : Kept v₀ q₀ s) : Kept v₀ q₀ (State.ringError s k err) := by
  unfold State.ringError
  try dsimp only
  repeat' (first | (with_reducible first | assumption | apply State.modRing_kept | apply State.msix_kept) | intro _ | fail_if_no_progress (with_reducible apply Kept.lit) | split | fail_if_no_progress dsimp only | fail_if_no_progress dsimp only [id])

theorem State.journalCmd_kept (s : State) (x : Src) (opc : Nat) (bytes : List Byte) (wd : Nat) (st : Nat) (h0 : Kept v₀ q₀ s) : Kept v₀ q₀ (State.journalCmd s x opc bytes wd st) := by
  unfold State.journalCmd
  try dsimp only
  repeat' (first | (with_reducible first | assumption | apply State.modRing_kept | apply State.jrnAdd_kept) | intro _ | fail_if_no_progress (with_reducible apply Kept.lit) | split | fail_if_no_progress dsimp only | fail_if_no_progress dsimp only [id])

theorem State.sendRelay_kept (s : State) (j : Nat) (dest : Nat) (bytes : List Byte) (h0 : Kept v₀ q₀ s) : Kept v₀ q₀ (State.sendRelay s j dest bytes) := by
  unfold State.sendRelay
  try dsimp only
  repeat' (first | (with_reducible first | assumption | apply State.ctl_kept | apply State.complete_kept) | intro _ | fail_if_no_progress (with_reducible apply Kept.lit) | split | fail_if_no_progress dsimp only | fail_if_no_progress dsimp only [id])

theorem State.holdOp_kept (s : State) (x : OpCtx) (op : HostOp) (origin : Nat) (oseq : Nat) (bytes : List Byte) (h0 : Kept v₀ q₀ s) : Kept v₀ q₀ (State.holdOp s x op origin oseq bytes) := by
  unfold State.holdOp
  try dsimp only
  repeat' (first | (with_reducible first | assumption | apply Kept.forEach | apply State.modWard_kept | apply State.ctl_kept) | intro _ | fail_if_no_progress (with_reducible apply Kept.lit) | split | fail_if_no_progress dsimp only | fail_if_no_progress dsimp only [id])

theorem State.command_kept (s : State) (x : Src) (op : HostOp) (f : OpCtx → State → State) (h : Kept v₀ q₀ s)
    (hf : ∀ c t, Kept v₀ q₀ t → Kept v₀ q₀ (f c t)) : Kept v₀ q₀ (State.command s x op f) := by
  unfold State.command
  dsimp only
  repeat' (first | with_reducible assumption | with_reducible apply hf | with_reducible apply State.ringError_kept | with_reducible apply State.complete_kept | with_reducible apply State.sendRelay_kept | with_reducible apply State.holdOp_kept | with_reducible apply State.journalCmd_kept | with_reducible apply State.settle_kept | split)

theorem execIllegalCommand_kept (src : Src) (opc : Byte) (bytes : List Byte) (s : State) (h0 : Kept v₀ q₀ s) : KeptX v₀ q₀ (execIllegalCommand src opc bytes s) := by
  unfold execIllegalCommand
  try dsimp only
  repeat' (first | (with_reducible first | assumption | apply KeptX.next | apply State.complete_kept | apply State.ringError_kept | apply State.journalCmd_kept) | intro _ | fail_if_no_progress (with_reducible apply Kept.lit) | split | fail_if_no_progress dsimp only | fail_if_no_progress dsimp only [id])

/-! ### WardCmds -/

theorem State.doWardEnable_kept (s : State) (x : OpCtx) (dies : Nat) (port : Nat) (vf : Nat) (h0 : Kept v₀ q₀ s) : Kept v₀ q₀ (State.doWardEnable s x dies port vf) := by
  unfold State.doWardEnable
  try dsimp only
  repeat' (first | (with_reducible first | assumption | apply State.modWard_kept | apply State.complete_kept | apply State.tryEnable_kept) | intro _ | fail_if_no_progress (with_reducible apply Kept.lit) | split | fail_if_no_progress dsimp only | fail_if_no_progress dsimp only [id])

theorem State.doWardDisable_kept (s : State) (x : OpCtx) (h0 : Kept v₀ q₀ s) : Kept v₀ q₀ (State.doWardDisable s x) := by
  unfold State.doWardDisable
  try dsimp only
  repeat' (first | (with_reducible first | assumption | apply State.modWard_kept | apply State.complete_kept | apply State.shutDown_kept | apply State.placeAll_kept | apply State.dropRings_kept) | intro _ | fail_if_no_progress (with_reducible apply Kept.lit) | split | fail_if_no_progress dsimp only | fail_if_no_progress dsimp only [id])

theorem State.doWardReset_kept (s : State) (x : OpCtx) (h0 : Kept v₀ q₀ s) : Kept v₀ q₀ (State.doWardReset s x) := by
  unfold State.doWardReset
  try dsimp only
  repeat' (first | (with_reducible first | assumption | apply State.complete_kept | apply State.startReset_kept) | intro _ | fail_if_no_progress (with_reducible apply Kept.lit) | split | fail_if_no_progress dsimp only | fail_if_no_progress dsimp only [id])

theorem execWardEnable_kept (src : Src) (dies : Nat) (port : Nat) (vf : Nat) (s : State) (h0 : Kept v₀ q₀ s) : KeptX v₀ q₀ (execWardEnable src dies port vf s) := by
  unfold execWardEnable
  try dsimp only
  repeat' (first | (with_reducible first | assumption | apply KeptX.next | apply State.command_kept | apply State.doWardEnable_kept) | intro _ | fail_if_no_progress (with_reducible apply Kept.lit) | split | fail_if_no_progress dsimp only | fail_if_no_progress dsimp only [id])

theorem execWardDisable_kept (src : Src) (s : State) (h0 : Kept v₀ q₀ s) : KeptX v₀ q₀ (execWardDisable src s) := by
  unfold execWardDisable
  try dsimp only
  repeat' (first | (with_reducible first | assumption | apply KeptX.next | apply State.command_kept | apply State.doWardDisable_kept) | intro _ | fail_if_no_progress (with_reducible apply Kept.lit) | split | fail_if_no_progress dsimp only | fail_if_no_progress dsimp only [id])

theorem execWardReset_kept (src : Src) (s : State) (h0 : Kept v₀ q₀ s) : KeptX v₀ q₀ (execWardReset src s) := by
  unfold execWardReset
  try dsimp only
  repeat' (first | (with_reducible first | assumption | apply KeptX.next | apply State.command_kept | apply State.doWardReset_kept) | intro _ | fail_if_no_progress (with_reducible apply Kept.lit) | split | fail_if_no_progress dsimp only | fail_if_no_progress dsimp only [id])

theorem State.loadStore_kept (s : State) (i : Nat) (p : TileProg) (h0 : Kept v₀ q₀ s) : Kept v₀ q₀ (State.loadStore s i p) := by
  unfold State.loadStore
  try dsimp only
  repeat' (first | (with_reducible first | assumption | apply Kept.foldl | apply Kept.foldlFst | apply Kept.foldlSnd | apply Kept.foldlD | apply Kept.foldlP2 | apply Kept.foldlD1 | apply State.modTile_kept | apply State.wrBytes_kept | apply State.clearRange_kept) | intro _ | fail_if_no_progress (with_reducible apply Kept.lit) | split | fail_if_no_progress dsimp only | fail_if_no_progress dsimp only [id])

theorem State.loadTile_kept (s : State) (i : Nat) (p : TileProg) (h0 : Kept v₀ q₀ s) : Kept v₀ q₀ (State.loadTile s i p) := by
  unfold State.loadTile
  try dsimp only
  repeat' (first | (with_reducible first | assumption | apply State.modTile_kept | apply State.loadStore_kept) | intro _ | fail_if_no_progress (with_reducible apply Kept.lit) | split | fail_if_no_progress dsimp only | fail_if_no_progress dsimp only [id])

theorem State.clearForJob_kept (s : State) (w : Nat) (h0 : Kept v₀ q₀ s) : Kept v₀ q₀ (State.clearForJob s w) := by
  unfold State.clearForJob
  try dsimp only
  repeat' (first | (with_reducible first | assumption | apply Kept.forEach | apply State.modTile_kept | apply State.modQuad_kept | apply State.modChan_kept | apply State.modDev_kept | apply State.modUpd_kept | apply State.modWard_kept) | intro _ | fail_if_no_progress (with_reducible apply Kept.lit) | split | fail_if_no_progress dsimp only | fail_if_no_progress dsimp only [id])

theorem State.writeTables_kept (s : State) (w : Nat) (h0 : Kept v₀ q₀ s) : Kept v₀ q₀ (State.writeTables s w) := by
  unfold State.writeTables
  try dsimp only
  repeat' (first | (with_reducible first | assumption | apply Kept.forEach | apply State.wrStruct_kept | apply State.setReg_kept | apply State.setBlk_kept) | intro _ | fail_if_no_progress (with_reducible apply Kept.lit) | split | fail_if_no_progress dsimp only | fail_if_no_progress dsimp only [id])

theorem State.doJobStart_kept (s : State) (x : OpCtx) (program : Addr) (len : Nat) (p : JobProg) (h0 : Kept v₀ q₀ s) : Kept v₀ q₀ (State.doJobStart s x program len p) := by
  unfold State.doJobStart
  try dsimp only
  repeat' (first | (with_reducible first | assumption | apply Kept.forEach | apply Kept.foldl | apply Kept.foldlFst | apply Kept.foldlSnd | apply Kept.foldlD | apply Kept.foldlP2 | apply Kept.foldlD1 | apply State.modTile_kept | apply State.modWard_kept | apply State.report_kept | apply State.complete_kept | apply State.loadTile_kept | apply State.clearForJob_kept | apply State.writeTables_kept) | intro _ | fail_if_no_progress (with_reducible apply Kept.lit) | split | fail_if_no_progress dsimp only | fail_if_no_progress dsimp only [id])

theorem execJobStart_kept (src : Src) (program : Addr) (len : Nat) (prog : JobProg) (seen : List (Nat × Byte)) (s : State) (h0 : Kept v₀ q₀ s) : KeptX v₀ q₀ (execJobStart src program len prog seen s) := by
  unfold execJobStart
  try dsimp only
  repeat' (first | (with_reducible first | assumption | apply KeptX.next | apply State.seen_kept | apply State.command_kept | apply State.doJobStart_kept) | intro _ | fail_if_no_progress (with_reducible apply Kept.lit) | split | fail_if_no_progress dsimp only | fail_if_no_progress dsimp only [id])

theorem State.doJobEnd_kept (s : State) (x : OpCtx) (h0 : Kept v₀ q₀ s) : Kept v₀ q₀ (State.doJobEnd s x) := by
  unfold State.doJobEnd
  try dsimp only
  repeat' (first | (with_reducible first | assumption | apply Kept.forEach | apply State.modWard_kept | apply State.complete_kept | apply State.endSeq_kept) | intro _ | fail_if_no_progress (with_reducible apply Kept.lit) | split | fail_if_no_progress dsimp only | fail_if_no_progress dsimp only [id])

theorem execJobEnd_kept (src : Src) (s : State) (h0 : Kept v₀ q₀ s) : KeptX v₀ q₀ (execJobEnd src s) := by
  unfold execJobEnd
  try dsimp only
  repeat' (first | (with_reducible first | assumption | apply KeptX.next | apply State.command_kept | apply State.doJobEnd_kept) | intro _ | fail_if_no_progress (with_reducible apply Kept.lit) | split | fail_if_no_progress dsimp only | fail_if_no_progress dsimp only [id])

theorem State.cleanPage_kept (s : State) (w : Nat) (va : Nat) (n : Nat) (h0 : Kept v₀ q₀ s) : Kept v₀ q₀ (State.cleanPage s w va n) := by
  unfold State.cleanPage
  try dsimp only
  repeat' (first | (with_reducible first | assumption | apply Kept.forEach | apply State.writeSec_kept) | intro _ | fail_if_no_progress (with_reducible apply Kept.lit) | split | fail_if_no_progress dsimp only | fail_if_no_progress dsimp only [id])

theorem State.doMap_kept (s : State) (x : OpCtx) (va : Nat) (pa : Nat) (count : Nat) (size : Nat) (rights : Nat) (kslot : Nat) (h0 : Kept v₀ q₀ s) : Kept v₀ q₀ (State.doMap s x va pa count size rights kslot) := by
  unfold State.doMap
  try dsimp only
  repeat' (first | (with_reducible first | assumption | apply Kept.forEach | apply State.modWard_kept | apply State.complete_kept | apply State.cleanPage_kept) | intro _ | fail_if_no_progress (with_reducible apply Kept.lit) | split | fail_if_no_progress dsimp only | fail_if_no_progress dsimp only [id])

theorem State.doUnmap_kept (s : State) (x : OpCtx) (va : Nat) (count : Nat) (size : Nat) (h0 : Kept v₀ q₀ s) : Kept v₀ q₀ (State.doUnmap s x va count size) := by
  unfold State.doUnmap
  try dsimp only
  repeat' (first | (with_reducible first | assumption | apply Kept.forEach | apply State.modWard_kept | apply State.complete_kept | apply State.cleanPage_kept) | intro _ | fail_if_no_progress (with_reducible apply Kept.lit) | split | fail_if_no_progress dsimp only | fail_if_no_progress dsimp only [id])

theorem execMap_kept (src : Src) (va : W64) (pa : W64) (count : Nat) (size : Nat) (rights : Nat) (kslot : Nat) (s : State) (h0 : Kept v₀ q₀ s) : KeptX v₀ q₀ (execMap src va pa count size rights kslot s) := by
  unfold execMap
  try dsimp only
  repeat' (first | (with_reducible first | assumption | apply KeptX.next | apply State.command_kept | apply State.doMap_kept) | intro _ | fail_if_no_progress (with_reducible apply Kept.lit) | split | fail_if_no_progress dsimp only | fail_if_no_progress dsimp only [id])

theorem execUnmap_kept (src : Src) (va : W64) (count : Nat) (size : Nat) (s : State) (h0 : Kept v₀ q₀ s) : KeptX v₀ q₀ (execUnmap src va count size s) := by
  unfold execUnmap
  try dsimp only
  repeat' (first | (with_reducible first | assumption | apply KeptX.next | apply State.command_kept | apply State.doUnmap_kept) | intro _ | fail_if_no_progress (with_reducible apply Kept.lit) | split | fail_if_no_progress dsimp only | fail_if_no_progress dsimp only [id])

/-! ### ServeCmds -/

theorem State.doRegister_kept (s : State) (x : OpCtx) (c : Nat) (kslot : Nat) (rslot : Nat) (rank : Nat) (mats : Nat) (image : Nat) (negVa : Nat) (negLen : Nat) (h0 : Kept v₀ q₀ s) : Kept v₀ q₀ (State.doRegister s x c kslot rslot rank mats image negVa negLen) := by
  unfold State.doRegister
  try dsimp only
  repeat' (first | (with_reducible first | assumption | apply State.modWard_kept | apply State.complete_kept | apply State.setReg_kept | apply State.event_kept) | intro _ | fail_if_no_progress (with_reducible apply Kept.lit) | split | fail_if_no_progress dsimp only | fail_if_no_progress dsimp only [id])

theorem execRegister_kept (src : Src) (c : Nat) (kslot : Nat) (rslot : Nat) (rank : Nat) (mats : Nat) (image : Nat) (negVa : W64) (negLen : W64) (s : State) (h0 : Kept v₀ q₀ s) : KeptX v₀ q₀ (execRegister src c kslot rslot rank mats image negVa negLen s) := by
  unfold execRegister
  try dsimp only
  repeat' (first | (with_reducible first | assumption | apply KeptX.next | apply State.command_kept | apply State.doRegister_kept) | intro _ | fail_if_no_progress (with_reducible apply Kept.lit) | split | fail_if_no_progress dsimp only | fail_if_no_progress dsimp only [id])

theorem State.doWithdraw_kept (s : State) (x : OpCtx) (c : Nat) (h0 : Kept v₀ q₀ s) : Kept v₀ q₀ (State.doWithdraw s x c) := by
  unfold State.doWithdraw
  try dsimp only
  repeat' (first | (with_reducible first | assumption | apply State.complete_kept | apply State.setReg_kept | apply State.event_kept | apply State.markCtx_kept | apply State.modTrain_kept | apply State.dropBuild_kept | apply State.squashCtx_kept) | intro _ | fail_if_no_progress (with_reducible apply Kept.lit) | split | fail_if_no_progress dsimp only | fail_if_no_progress dsimp only [id])

theorem execWithdraw_kept (src : Src) (c : Nat) (s : State) (h0 : Kept v₀ q₀ s) : KeptX v₀ q₀ (execWithdraw src c s) := by
  unfold execWithdraw
  try dsimp only
  repeat' (first | (with_reducible first | assumption | apply KeptX.next | apply State.command_kept | apply State.doWithdraw_kept) | intro _ | fail_if_no_progress (with_reducible apply Kept.lit) | split | fail_if_no_progress dsimp only | fail_if_no_progress dsimp only [id])

theorem State.setPairs_kept (s : State) (w : Nat) (c : Nat) (l : List (Nat × Nat)) (v : Nat) (h0 : Kept v₀ q₀ s) : Kept v₀ q₀ (State.setPairs s w c l v) := by
  unfold State.setPairs
  try dsimp only
  repeat' (first | (with_reducible first | assumption | apply Kept.foldl | apply Kept.foldlFst | apply Kept.foldlSnd | apply Kept.foldlD | apply Kept.foldlP2 | apply Kept.foldlD1 | apply State.modWard_kept | apply State.setReg_kept) | intro _ | fail_if_no_progress (with_reducible apply Kept.lit) | split | fail_if_no_progress dsimp only | fail_if_no_progress dsimp only [id])

theorem State.doClaim_kept (s : State) (x : OpCtx) (c : Nat) (count : Nat) (pairs : Option (List (Nat × Nat))) (h0 : Kept v₀ q₀ s) : Kept v₀ q₀ (State.doClaim s x c count pairs) := by
  unfold State.doClaim
  try dsimp only
  repeat' (first | (with_reducible first | assumption | apply State.complete_kept | apply State.event_kept | apply State.setPairs_kept) | intro _ | fail_if_no_progress (with_reducible apply Kept.lit) | split | fail_if_no_progress dsimp only | fail_if_no_progress dsimp only [id])

theorem State.doUnclaim_kept (s : State) (x : OpCtx) (c : Nat) (count : Nat) (pairs : Option (List (Nat × Nat))) (h0 : Kept v₀ q₀ s) : Kept v₀ q₀ (State.doUnclaim s x c count pairs) := by
  unfold State.doUnclaim
  try dsimp only
  repeat' (first | (with_reducible first | assumption | apply State.complete_kept | apply State.event_kept | apply State.setPairs_kept) | intro _ | fail_if_no_progress (with_reducible apply Kept.lit) | split | fail_if_no_progress dsimp only | fail_if_no_progress dsimp only [id])

theorem execClaim_kept (src : Src) (c : Nat) (count : Nat) (list : W64) (pairs : Option (List (Nat × Nat))) (s : State) (h0 : Kept v₀ q₀ s) : KeptX v₀ q₀ (execClaim src c count list pairs s) := by
  unfold execClaim
  try dsimp only
  repeat' (first | (with_reducible first | assumption | apply KeptX.next | apply State.command_kept | apply State.doClaim_kept) | intro _ | fail_if_no_progress (with_reducible apply Kept.lit) | split | fail_if_no_progress dsimp only | fail_if_no_progress dsimp only [id])

theorem execUnclaim_kept (src : Src) (c : Nat) (count : Nat) (list : W64) (pairs : Option (List (Nat × Nat))) (s : State) (h0 : Kept v₀ q₀ s) : KeptX v₀ q₀ (execUnclaim src c count list pairs s) := by
  unfold execUnclaim
  try dsimp only
  repeat' (first | (with_reducible first | assumption | apply KeptX.next | apply State.command_kept | apply State.doUnclaim_kept) | intro _ | fail_if_no_progress (with_reducible apply Kept.lit) | split | fail_if_no_progress dsimp only | fail_if_no_progress dsimp only [id])

theorem State.doSubmit_kept (s : State) (x : OpCtx) (i : Nat) (c : Nat) (prompt : Nat) (maxtok : Nat) (cookie : W64) (out : W64) (bytes : Option (List Byte)) (h0 : Kept v₀ q₀ s) : Kept v₀ q₀ (State.doSubmit s x i c prompt maxtok cookie out bytes) := by
  unfold State.doSubmit
  try dsimp only
  repeat' (first | (with_reducible first | assumption | apply State.complete_kept | apply State.setSq_kept) | intro _ | fail_if_no_progress (with_reducible apply Kept.lit) | split | fail_if_no_progress dsimp only | fail_if_no_progress dsimp only [id])

theorem execSubmit_kept (src : Src) (idx : Nat) (c : Nat) (prompt : Nat) (maxtok : Nat) (cookie : W64) (out : W64) (job : W64) (bytes : Option (List Byte)) (s : State) (h0 : Kept v₀ q₀ s) : KeptX v₀ q₀ (execSubmit src idx c prompt maxtok cookie out job bytes s) := by
  unfold execSubmit
  try dsimp only
  repeat' (first | (with_reducible first | assumption | apply KeptX.next | apply State.command_kept | apply State.doSubmit_kept) | intro _ | fail_if_no_progress (with_reducible apply Kept.lit) | split | fail_if_no_progress dsimp only | fail_if_no_progress dsimp only [id])

theorem State.doCancel_kept (s : State) (x : OpCtx) (i : Nat) (h0 : Kept v₀ q₀ s) : Kept v₀ q₀ (State.doCancel s x i) := by
  unfold State.doCancel
  try dsimp only
  repeat' (first | (with_reducible first | assumption | apply State.complete_kept | apply State.markSeq_kept) | intro _ | fail_if_no_progress (with_reducible apply Kept.lit) | split | fail_if_no_progress dsimp only | fail_if_no_progress dsimp only [id])

theorem execCancel_kept (src : Src) (idx : Nat) (s : State) (h0 : Kept v₀ q₀ s) : KeptX v₀ q₀ (execCancel src idx s) := by
  unfold execCancel
  try dsimp only
  repeat' (first | (with_reducible first | assumption | apply KeptX.next | apply State.command_kept | apply State.doCancel_kept) | intro _ | fail_if_no_progress (with_reducible apply Kept.lit) | split | fail_if_no_progress dsimp only | fail_if_no_progress dsimp only [id])

theorem execSeqPeekIdx_kept (r : Req) (w : Nat) (v : W32) (s : State) (h0 : Kept v₀ q₀ s) : KeptX v₀ q₀ (execSeqPeekIdx r w v s) := by
  unfold execSeqPeekIdx
  try dsimp only
  repeat' (first | (with_reducible first | assumption | apply KeptX.next | apply State.modWard_kept | apply State.refuse_kept) | intro _ | fail_if_no_progress (with_reducible apply Kept.lit) | split | fail_if_no_progress dsimp only | fail_if_no_progress dsimp only [id])

theorem State.buildTrees_kept (s : State) (ds : List W64) (h0 : Kept v₀ q₀ s) : Kept v₀ q₀ (State.buildTrees s ds).1 := by
  unfold State.buildTrees
  try dsimp only
  repeat' (first | (with_reducible first | assumption | apply Kept.foldl | apply Kept.foldlFst | apply Kept.foldlSnd | apply Kept.foldlD | apply Kept.foldlP2 | apply Kept.foldlD1) | intro _ | fail_if_no_progress (with_reducible apply Kept.lit) | split | fail_if_no_progress dsimp only | fail_if_no_progress dsimp only [id])

theorem State.buildTrees_keptEq {s : State} {ds : List W64} {x} {y} (h0 : Kept v₀ q₀ s) (e : (State.buildTrees s ds) = (x, y)) : Kept v₀ q₀ x := by
  have e' := congrArg Prod.fst e
  dsimp only at e'
  subst e'
  exact State.buildTrees_kept s ds h0

theorem State.openCopy_kept (s : State) (w c : Nat) (h : Kept v₀ q₀ s) : ∀ t, State.openCopy s w c = some t → Kept v₀ q₀ t := by
  intro t ht
  unfold State.openCopy at ht
  split at ht
  · cases ht
  · split at ht
    · cases ht; exact State.modWard_kept _ _ _ h
    · cases e : State.roomCopy s w c _ with
      | none => rw [e] at ht; cases ht
      | some x => rw [e] at ht; cases ht; exact State.setReg_kept _ _ _ _ (State.roomCopy_kept _ _ _ _ h _ e)

theorem State.openCopy_keptSome {s : State} {w : Nat} {c : Nat} {t : State} (h0 : Kept v₀ q₀ s) (hsome : (State.openCopy s w c) = some t) : Kept v₀ q₀ t := State.openCopy_kept s w c h0 t hsome

theorem State.distCheck_kept (s : State) (w : Nat) (h0 : Kept v₀ q₀ s) : Kept v₀ q₀ (State.distCheck s w) := by
  unfold State.distCheck
  try dsimp only
  repeat' (first | (with_reducible first | assumption | apply State.modWard_kept | apply State.setReg_kept | apply State.endDist_kept) | intro _ | fail_if_no_progress (with_reducible apply Kept.lit) | split | fail_if_no_progress dsimp only | fail_if_no_progress dsimp only [id])

theorem State.sendShard_kept (s : State) (w : Nat) (k : Nat) (dest : W64) (alt : Bool) (h0 : Kept v₀ q₀ s) : Kept v₀ q₀ (State.sendShard s w k dest alt) := by
  unfold State.sendShard
  try dsimp only
  repeat' (first | (with_reducible first | assumption | apply Kept.forEach | apply State.emit_kept | apply State.mcSend_kept | apply State.uncount_kept | apply State.nextXid_kept | apply State.sendXfer_kept | apply State.sender_kept) | (refine State.nextXid_keptEq ?_ ‹_›) | (refine State.sender_keptEq ?_ ‹_›) | intro _ | fail_if_no_progress (with_reducible apply Kept.lit) | split | fail_if_no_progress dsimp only | fail_if_no_progress dsimp only [id])

theorem State.sendPass_kept (s : State) (w : Nat) (h0 : Kept v₀ q₀ s) : Kept v₀ q₀ (State.sendPass s w) := by
  unfold State.sendPass
  try dsimp only
  repeat' (first | (with_reducible first | assumption | apply Kept.forEach | apply State.sendShard_kept) | intro _ | fail_if_no_progress (with_reducible apply Kept.lit) | split | fail_if_no_progress dsimp only | fail_if_no_progress dsimp only [id])

theorem State.openDist_kept (s : State) (x : OpCtx) (c : Nat) (package : W64) (alt : W64) (m : Manifest) (reader : Bool) (others : List Nat) (h0 : Kept v₀ q₀ s) : Kept v₀ q₀ (State.openDist s x c package alt m reader others) := by
  unfold State.openDist
  try dsimp only
  repeat' (first | (with_reducible first | assumption | apply Kept.forEach | apply State.modWard_kept | apply State.ctl_kept | apply State.complete_kept | apply State.setReg_kept | apply State.event_kept | apply State.buildTrees_kept | apply State.distCheck_kept | apply State.sendPass_kept) | (refine State.buildTrees_keptEq ?_ ‹_›) | (refine State.openCopy_keptSome ?_ ‹_›) | intro _ | fail_if_no_progress (with_reducible apply Kept.lit) | split | fail_if_no_progress dsimp only | fail_if_no_progress dsimp only [id])

theorem State.startDist_kept (s : State) (x : OpCtx) (c : Nat) (package : W64) (alt : W64) (m : Manifest) (reader : Bool) (h0 : Kept v₀ q₀ s) : Kept v₀ q₀ (State.startDist s x c package alt m reader) := by
  unfold State.startDist
  try dsimp only
  repeat' (first | (with_reducible first | assumption | apply State.complete_kept | apply State.openDist_kept) | intro _ | fail_if_no_progress (with_reducible apply Kept.lit) | split | fail_if_no_progress dsimp only | fail_if_no_progress dsimp only [id])

theorem State.doDistribute_kept (s : State) (x : OpCtx) (c : Nat) (package : W64) (alt : W64) (m : Manifest) (h0 : Kept v₀ q₀ s) : Kept v₀ q₀ (State.doDistribute s x c package alt m) := by
  unfold State.doDistribute
  try dsimp only
  repeat' (first | (with_reducible first | assumption | apply State.seen_kept | apply State.startDist_kept) | intro _ | fail_if_no_progress (with_reducible apply Kept.lit) | split | fail_if_no_progress dsimp only | fail_if_no_progress dsimp only [id])

theorem execDistribute_kept (src : Src) (target : Nat) (package : W64) (length : W64) (alt : W64) (m : Manifest) (s : State) (h0 : Kept v₀ q₀ s) : KeptX v₀ q₀ (execDistribute src target package length alt m s) := by
  unfold execDistribute
  try dsimp only
  repeat' (first | (with_reducible first | assumption | apply KeptX.next | apply State.command_kept | apply State.doDistribute_kept) | intro _ | fail_if_no_progress (with_reducible apply Kept.lit) | split | fail_if_no_progress dsimp only | fail_if_no_progress dsimp only [id])

theorem State.retryDist_kept (s : State) (w : Nat) (h0 : Kept v₀ q₀ s) : Kept v₀ q₀ (State.retryDist s w) := by
  unfold State.retryDist
  try dsimp only
  repeat' (first | (with_reducible first | assumption | apply State.modWard_kept | apply State.distCheck_kept | apply State.sendPass_kept) | (refine State.openCopy_keptSome ?_ ‹_›) | intro _ | fail_if_no_progress (with_reducible apply Kept.lit) | split | fail_if_no_progress dsimp only | fail_if_no_progress dsimp only [id])

theorem State.retryShard_kept (s : State) (w : Nat) (k : Nat) (h0 : Kept v₀ q₀ s) : Kept v₀ q₀ (State.retryShard s w k) := by
  unfold State.retryShard
  try dsimp only
  repeat' (first | (with_reducible first | assumption | apply State.modWard_kept | apply State.takeFresh_kept | apply State.ctl_kept) | (refine State.takeFresh_keptEq ?_ ‹_›) | intro _ | fail_if_no_progress (with_reducible apply Kept.lit) | split | fail_if_no_progress dsimp only | fail_if_no_progress dsimp only [id])

theorem State.writeShard_kept (s : State) (w : Nat) (d : Dist) (h : Shard) (bytes : List Byte) (h0 : Kept v₀ q₀ s) : Kept v₀ q₀ (State.writeShard s w d h bytes) := by
  unfold State.writeShard
  try dsimp only
  repeat' (first | (with_reducible first | assumption | apply Kept.forEach | apply State.writeVa_kept | apply State.wrStruct_kept) | intro _ | fail_if_no_progress (with_reducible apply Kept.lit) | split | fail_if_no_progress dsimp only | fail_if_no_progress dsimp only [id])

theorem execShardArrive_kept (w : Nat) (shard : Nat) (bytes : List Byte) (tagOk : Bool) (s : State) (h0 : Kept v₀ q₀ s) : KeptX v₀ q₀ (execShardArrive w shard bytes tagOk s) := by
  unfold execShardArrive
  try dsimp only
  repeat' (first | (with_reducible first | assumption | apply KeptX.next | apply State.modWard_kept | apply State.distCheck_kept | apply State.retryShard_kept | apply State.writeShard_kept) | intro _ | fail_if_no_progress (with_reducible apply Kept.lit) | split | fail_if_no_progress dsimp only | fail_if_no_progress dsimp only [id])

theorem execEndOfPass_kept (w : Nat) (s : State) (h0 : Kept v₀ q₀ s) : KeptX v₀ q₀ (execEndOfPass w s) := by
  unfold execEndOfPass
  try dsimp only
  repeat' (first | (with_reducible first | assumption | apply Kept.forEach | apply KeptX.next | apply State.retryShard_kept) | intro _ | fail_if_no_progress (with_reducible apply Kept.lit) | split | fail_if_no_progress dsimp only | fail_if_no_progress dsimp only [id])

theorem execShardRequest_kept (w : Nat) (shard : Nat) (fromAddr : Nat) (s : State) (h0 : Kept v₀ q₀ s) : KeptX v₀ q₀ (execShardRequest w shard fromAddr s) := by
  unfold execShardRequest
  try dsimp only
  repeat' (first | (with_reducible first | assumption | apply KeptX.next | apply State.modWard_kept | apply State.sendShard_kept) | intro _ | fail_if_no_progress (with_reducible apply Kept.lit) | split | fail_if_no_progress dsimp only | fail_if_no_progress dsimp only [id])

theorem State.distDetail_kept (s : State) (d : Dist) (h0 : Kept v₀ q₀ s) : Kept v₀ q₀ (State.distDetail s d).2 := by
  unfold State.distDetail
  try dsimp only
  repeat' (first | (with_reducible first | assumption | apply State.takeFresh_kept) | (refine State.takeFresh_keptEq ?_ ‹_›) | intro _ | fail_if_no_progress (with_reducible apply Kept.lit) | split | fail_if_no_progress dsimp only | fail_if_no_progress dsimp only [id])

theorem State.distDetail_keptEq {s : State} {d : Dist} {x} {y} (h0 : Kept v₀ q₀ s) (e : (State.distDetail s d) = (x, y)) : Kept v₀ q₀ y := by
  have e' := congrArg Prod.snd e
  dsimp only at e'
  subst e'
  exact State.distDetail_kept s d h0

theorem State.failDist_kept (s : State) (w : Nat) (h0 : Kept v₀ q₀ s) : Kept v₀ q₀ (State.failDist s w) := by
  unfold State.failDist
  try dsimp only
  repeat' (first | (with_reducible first | assumption | apply State.modWard_kept | apply State.endDist_kept | apply State.distDetail_kept) | (refine State.distDetail_keptEq ?_ ‹_›) | intro _ | fail_if_no_progress (with_reducible apply Kept.lit) | split | fail_if_no_progress dsimp only | fail_if_no_progress dsimp only [id])

theorem execDistributeTimeout_kept (w : Nat) (s : State) (h0 : Kept v₀ q₀ s) : KeptX v₀ q₀ (execDistributeTimeout w s) := by
  unfold execDistributeTimeout
  try dsimp only
  repeat' (first | (with_reducible first | assumption | apply KeptX.next | apply State.failDist_kept) | intro _ | fail_if_no_progress (with_reducible apply Kept.lit) | split | fail_if_no_progress dsimp only | fail_if_no_progress dsimp only [id])

theorem State.readerTimeout_kept (s : State) (w : Nat) (h0 : Kept v₀ q₀ s) : Kept v₀ q₀ (State.readerTimeout s w) := by
  unfold State.readerTimeout
  try dsimp only
  repeat' (first | (with_reducible first | assumption | apply State.modWard_kept | apply State.sendPass_kept | apply State.failDist_kept) | intro _ | fail_if_no_progress (with_reducible apply Kept.lit) | split | fail_if_no_progress dsimp only | fail_if_no_progress dsimp only [id])

theorem State.prepareBase_kept (s : State) (x : OpCtx) (source : W64) (h0 : Kept v₀ q₀ s) : Kept v₀ q₀ (State.prepareBase s x source) := by
  unfold State.prepareBase
  try dsimp only
  repeat' (first | (with_reducible first | assumption | apply State.modWard_kept | apply State.complete_kept | apply State.openDist_kept) | intro _ | fail_if_no_progress (with_reducible apply Kept.lit) | split | fail_if_no_progress dsimp only | fail_if_no_progress dsimp only [id])

theorem State.doPrepare_kept (s : State) (x : OpCtx) (c : Nat) (source : W64) (_len : W64) (h0 : Kept v₀ q₀ s) : Kept v₀ q₀ (State.doPrepare s x c source _len) := by
  unfold State.doPrepare
  try dsimp only
  repeat' (first | (with_reducible first | assumption | apply State.complete_kept | apply State.setReg_kept | apply State.tryCopy_kept | apply State.prepareBase_kept) | intro _ | fail_if_no_progress (with_reducible apply Kept.lit) | split | fail_if_no_progress dsimp only | fail_if_no_progress dsimp only [id])

theorem execPrepare_kept (src : Src) (target : Nat) (source : W64) (length : W64) (s : State) (h0 : Kept v₀ q₀ s) : KeptX v₀ q₀ (execPrepare src target source length s) := by
  unfold execPrepare
  try dsimp only
  repeat' (first | (with_reducible first | assumption | apply KeptX.next | apply State.command_kept | apply State.doPrepare_kept) | intro _ | fail_if_no_progress (with_reducible apply Kept.lit) | split | fail_if_no_progress dsimp only | fail_if_no_progress dsimp only [id])

theorem State.doSwitch_kept (s : State) (x : OpCtx) (c : Nat) (wait : Nat) (h0 : Kept v₀ q₀ s) : Kept v₀ q₀ (State.doSwitch s x c wait) := by
  unfold State.doSwitch
  try dsimp only
  repeat' (first | (with_reducible first | assumption | apply State.modWard_kept | apply State.complete_kept | apply State.setReg_kept) | intro _ | fail_if_no_progress (with_reducible apply Kept.lit) | split | fail_if_no_progress dsimp only | fail_if_no_progress dsimp only [id])

theorem execSwitch_kept (src : Src) (target : Nat) (wait : Nat) (s : State) (h0 : Kept v₀ q₀ s) : KeptX v₀ q₀ (execSwitch src target wait s) := by
  unfold execSwitch
  try dsimp only
  repeat' (first | (with_reducible first | assumption | apply KeptX.next | apply State.command_kept | apply State.doSwitch_kept) | intro _ | fail_if_no_progress (with_reducible apply Kept.lit) | split | fail_if_no_progress dsimp only | fail_if_no_progress dsimp only [id])

theorem execPeerTimeout_kept (u : Waiter) (x : LostAccess) (s : State) (h : Kept v₀ q₀ s) :
    KeptX v₀ q₀ (execPeerTimeout u x s) := by
  cases u with
  | chan c => exact State.chanTimeout_kept s c x.va .peer x.seen h
  | dev d => exact KeptX.next (State.devTimeout_kept s d x.va .peer x.seen h)
  | reader w => exact KeptX.next h

theorem execHostCompletionTimeout_kept (u : Waiter) (x : LostAccess) (s : State) (h : Kept v₀ q₀ s) :
    KeptX v₀ q₀ (execHostCompletionTimeout u x s) := by
  cases u with
  | chan c => exact State.chanTimeout_kept s c x.va .host x.seen h
  | dev d => exact KeptX.next (State.devTimeout_kept s d x.va .host x.seen h)
  | reader w => exact KeptX.next (State.readerTimeout_kept s w h)

/-! ### Domain -/

theorem State.faultSpanning_kept (s : State) (m : Nat) (st : St) (h0 : Kept v₀ q₀ s) : Kept v₀ q₀ (State.faultSpanning s m st) := by
  unfold State.faultSpanning
  try dsimp only
  repeat' (first | (with_reducible first | assumption | apply Kept.forEach | apply State.modWard_kept | apply State.jobFault_kept) | intro _ | fail_if_no_progress (with_reducible apply Kept.lit) | split | fail_if_no_progress dsimp only | fail_if_no_progress dsimp only [id])

theorem State.applyTko_kept (s : State) (m : Nat) (sb : Nat) (tg : Nat) (verdict : Bool) (h0 : Kept v₀ q₀ s) : Kept v₀ q₀ (State.applyTko s m sb tg verdict) := by
  unfold State.applyTko
  try dsimp only
  repeat' (first | (with_reducible first | assumption | apply State.faultSpanning_kept) | intro _ | fail_if_no_progress (with_reducible apply Kept.lit) | split | fail_if_no_progress dsimp only | fail_if_no_progress dsimp only [id])

theorem State.startTko_kept (s : State) (m : Nat) (sb : Option Nat) (jseq : Option Nat) (verdict : Bool) (h0 : Kept v₀ q₀ s) : Kept v₀ q₀ (State.startTko s m sb jseq verdict) := by
  unfold State.startTko
  try dsimp only
  repeat' (first | (with_reducible first | assumption | apply Kept.forEach | apply State.ctl_kept | apply State.report_kept | apply State.complete_kept | apply State.applyTko_kept) | intro _ | fail_if_no_progress (with_reducible apply Kept.lit) | split | fail_if_no_progress dsimp only | fail_if_no_progress dsimp only [id])

theorem State.askTko_kept (s : State) (m : Nat) (sb : Option Nat) (jseq : Option Nat) (verdict : Bool) (h0 : Kept v₀ q₀ s) : Kept v₀ q₀ (State.askTko s m sb jseq verdict) := by
  unfold State.askTko
  try dsimp only
  repeat' (first | (with_reducible first | assumption | apply State.startTko_kept) | intro _ | fail_if_no_progress (with_reducible apply Kept.lit) | split | fail_if_no_progress dsimp only | fail_if_no_progress dsimp only [id])

theorem State.resumeTko_kept (s : State) (h0 : Kept v₀ q₀ s) : Kept v₀ q₀ (State.resumeTko s) := by
  unfold State.resumeTko
  try dsimp only
  repeat' (first | (with_reducible first | assumption | apply Kept.forEach | apply State.ctl_kept) | intro _ | fail_if_no_progress (with_reducible apply Kept.lit) | split | fail_if_no_progress dsimp only | fail_if_no_progress dsimp only [id])

theorem State.releaseHeld_kept (s : State) (m : Nat) (h0 : Kept v₀ q₀ s) : Kept v₀ q₀ (State.releaseHeld s m) := by
  unfold State.releaseHeld
  try dsimp only
  repeat' (first | (with_reducible first | assumption | apply Kept.forEach | apply State.route_kept) | intro _ | fail_if_no_progress (with_reducible apply Kept.lit) | split | fail_if_no_progress dsimp only | fail_if_no_progress dsimp only [id])

theorem State.endTko_kept (s : State) (m : Nat) (h0 : Kept v₀ q₀ s) : Kept v₀ q₀ (State.endTko s m) := by
  unfold State.endTko
  try dsimp only
  repeat' (first | (with_reducible first | assumption | apply Kept.forEach | apply State.ctl_kept | apply State.complete_kept | apply State.startTko_kept | apply State.releaseHeld_kept) | intro _ | fail_if_no_progress (with_reducible apply Kept.lit) | split | fail_if_no_progress dsimp only | fail_if_no_progress dsimp only [id])

theorem State.doTakeover_kept (s : State) (x : OpCtx) (m : Nat) (sb : Nat) (bytes : List Byte) (h0 : Kept v₀ q₀ s) : Kept v₀ q₀ (State.doTakeover s x m sb bytes) := by
  unfold State.doTakeover
  try dsimp only
  repeat' (first | (with_reducible first | assumption | apply State.sendRelay_kept | apply State.askTko_kept) | intro _ | fail_if_no_progress (with_reducible apply Kept.lit) | split | fail_if_no_progress dsimp only | fail_if_no_progress dsimp only [id])

theorem execTakeover_kept (src : Src) (m : Nat) (s' : Nat) (s : State) (h0 : Kept v₀ q₀ s) : KeptX v₀ q₀ (execTakeover src m s' s) := by
  unfold execTakeover
  try dsimp only
  repeat' (first | (with_reducible first | assumption | apply KeptX.next | apply State.command_kept | apply State.doTakeover_kept) | intro _ | fail_if_no_progress (with_reducible apply Kept.lit) | split | fail_if_no_progress dsimp only | fail_if_no_progress dsimp only [id])

theorem execTko_kept (m : Nat) (s' : Nat) (tg : Nat) (verdict : Bool) (s : State) (h0 : Kept v₀ q₀ s) : KeptX v₀ q₀ (execTko m s' tg verdict s) := by
  unfold execTko
  try dsimp only
  repeat' (first | (with_reducible first | assumption | apply KeptX.next | apply State.ctl_kept | apply State.applyTko_kept) | intro _ | fail_if_no_progress (with_reducible apply Kept.lit) | split | fail_if_no_progress dsimp only | fail_if_no_progress dsimp only [id])

theorem execTkoAck_kept (addr : Nat) (tg : Nat) (s : State) (h0 : Kept v₀ q₀ s) : KeptX v₀ q₀ (execTkoAck addr tg s) := by
  unfold execTkoAck
  try dsimp only
  repeat' (first | (with_reducible first | assumption | apply KeptX.next | apply State.endTko_kept) | intro _ | fail_if_no_progress (with_reducible apply Kept.lit) | split | fail_if_no_progress dsimp only | fail_if_no_progress dsimp only [id])

theorem execTkoDone_kept (m : Nat) (tg : Nat) (s : State) (h0 : Kept v₀ q₀ s) : KeptX v₀ q₀ (execTkoDone m tg s) := by
  unfold execTkoDone
  try dsimp only
  repeat' (first | (with_reducible first | assumption | apply KeptX.next | apply State.endTko_kept) | intro _ | fail_if_no_progress (with_reducible apply Kept.lit) | split | fail_if_no_progress dsimp only | fail_if_no_progress dsimp only [id])

theorem execTkoAckTimeout_kept (tg : Nat) (s : State) (h0 : Kept v₀ q₀ s) : KeptX v₀ q₀ (execTkoAckTimeout tg s) := by
  unfold execTkoAckTimeout
  try dsimp only
  repeat' (first | (with_reducible first | assumption | apply KeptX.next | apply State.endTko_kept) | intro _ | fail_if_no_progress (with_reducible apply Kept.lit) | split | fail_if_no_progress dsimp only | fail_if_no_progress dsimp only [id])

theorem execLossTimeout_kept (m : Nat) (s : State) (h0 : Kept v₀ q₀ s) : KeptX v₀ q₀ (execLossTimeout m s) := by
  unfold execLossTimeout
  try dsimp only
  repeat' (first | (with_reducible first | assumption | apply KeptX.next | apply State.askTko_kept) | intro _ | fail_if_no_progress (with_reducible apply Kept.lit) | split | fail_if_no_progress dsimp only | fail_if_no_progress dsimp only [id])

theorem State.rollReport_kept (s : State) (detail : Nat) (h0 : Kept v₀ q₀ s) : Kept v₀ q₀ (State.rollReport s detail) := by
  unfold State.rollReport
  try dsimp only
  repeat' (first | (with_reducible first | assumption | apply State.report_kept) | intro _ | fail_if_no_progress (with_reducible apply Kept.lit) | split | fail_if_no_progress dsimp only | fail_if_no_progress dsimp only [id])

theorem State.rollEval_kept (s : State) (h0 : Kept v₀ q₀ s) : Kept v₀ q₀ (State.rollEval s) := by
  unfold State.rollEval
  try dsimp only
  repeat' (first | (with_reducible first | assumption | apply Kept.forEach | apply State.modWard_kept | apply State.rollReport_kept) | intro _ | fail_if_no_progress (with_reducible apply Kept.lit) | split | fail_if_no_progress dsimp only | fail_if_no_progress dsimp only [id])

theorem execRollcallSend_kept (s : State) (h0 : Kept v₀ q₀ s) : KeptX v₀ q₀ (execRollcallSend s) := by
  unfold execRollcallSend
  try dsimp only
  repeat' (first | (with_reducible first | assumption | apply Kept.forEach | apply KeptX.next | apply State.ctlBytes_kept | apply State.rollEval_kept) | intro _ | fail_if_no_progress (with_reducible apply Kept.lit) | split | fail_if_no_progress dsimp only | fail_if_no_progress dsimp only [id])

theorem execRollcallRecord_kept (r : RollRec) (s : State) (h0 : Kept v₀ q₀ s) : KeptX v₀ q₀ (execRollcallRecord r s) := by
  unfold execRollcallRecord
  try dsimp only
  repeat' (first | (with_reducible first | assumption | apply KeptX.next) | intro _ | fail_if_no_progress (with_reducible apply Kept.lit) | split | fail_if_no_progress dsimp only | fail_if_no_progress dsimp only [id])

theorem State.doRollcallClear_kept (s : State) (x : OpCtx) (h0 : Kept v₀ q₀ s) : Kept v₀ q₀ (State.doRollcallClear s x) := by
  unfold State.doRollcallClear
  try dsimp only
  repeat' (first | (with_reducible first | assumption | apply State.modWard_kept | apply State.complete_kept) | intro _ | fail_if_no_progress (with_reducible apply Kept.lit) | split | fail_if_no_progress dsimp only | fail_if_no_progress dsimp only [id])

theorem execRollcallClear_kept (src : Src) (s : State) (h0 : Kept v₀ q₀ s) : KeptX v₀ q₀ (execRollcallClear src s) := by
  unfold execRollcallClear
  try dsimp only
  repeat' (first | (with_reducible first | assumption | apply KeptX.next | apply State.command_kept | apply State.doRollcallClear_kept) | intro _ | fail_if_no_progress (with_reducible apply Kept.lit) | split | fail_if_no_progress dsimp only | fail_if_no_progress dsimp only [id])

theorem execStopMarker_kept (sender : Nat) (_ev : Byte) (s : State) (h0 : Kept v₀ q₀ s) : KeptX v₀ q₀ (execStopMarker sender _ev s) := by
  unfold execStopMarker
  try dsimp only
  repeat' (first | (with_reducible first | assumption | apply KeptX.next | apply State.sender_kept | apply State.faultSpanning_kept) | (refine State.sender_keptEq ?_ ‹_›) | intro _ | fail_if_no_progress (with_reducible apply Kept.lit) | split | fail_if_no_progress dsimp only | fail_if_no_progress dsimp only [id])

theorem execRelayCompletion_kept (jseq : Nat) (status : St) (detail : W32) (s : State) (h0 : Kept v₀ q₀ s) : KeptX v₀ q₀ (execRelayCompletion jseq status detail s) := by
  unfold execRelayCompletion
  try dsimp only
  repeat' (first | (with_reducible first | assumption | apply KeptX.next | apply State.modWard_kept | apply State.complete_kept | apply State.endDist_kept | apply State.distCheck_kept) | intro _ | fail_if_no_progress (with_reducible apply Kept.lit) | split | fail_if_no_progress dsimp only | fail_if_no_progress dsimp only [id])

theorem execRelayTimeout_kept (jseq : Nat) (s : State) (h0 : Kept v₀ q₀ s) : KeptX v₀ q₀ (execRelayTimeout jseq s) := by
  unfold execRelayTimeout
  try dsimp only
  repeat' (first | (with_reducible first | assumption | apply KeptX.next | apply State.complete_kept) | intro _ | fail_if_no_progress (with_reducible apply Kept.lit) | split | fail_if_no_progress dsimp only | fail_if_no_progress dsimp only [id])

/-! ### Training -/

theorem State.readRecord_kept (s : State) (w : Nat) (c : Nat) (va : Nat) (h0 : Kept v₀ q₀ s) : Kept v₀ q₀ (State.readRecord s w c va).1 := by
  unfold State.readRecord
  try dsimp only
  repeat' (first | (with_reducible first | assumption | apply State.readVa_kept) | (refine State.readVa_keptEq ?_ ‹_›) | intro _ | fail_if_no_progress (with_reducible apply Kept.lit) | split | fail_if_no_progress dsimp only | fail_if_no_progress dsimp only [id])

theorem State.readRecord_keptEq {s : State} {w : Nat} {c : Nat} {va : Nat} {x} {y} (h0 : Kept v₀ q₀ s) (e : (State.readRecord s w c va) = (x, y)) : Kept v₀ q₀ x := by
  have e' := congrArg Prod.fst e
  dsimp only at e'
  subst e'
  exact State.readRecord_kept s w c va h0

theorem State.tell_kept (s : State) (ms : List Nat) (o : Output) (h0 : Kept v₀ q₀ s) : Kept v₀ q₀ (State.tell s ms o) := by
  unfold State.tell
  try dsimp only
  repeat' (first | (with_reducible first | assumption | apply Kept.forEach | apply State.emit_kept | apply State.uncount_kept | apply State.ctlFlit_kept) | intro _ | fail_if_no_progress (with_reducible apply Kept.lit) | split | fail_if_no_progress dsimp only | fail_if_no_progress dsimp only [id])

theorem State.tellDigest_kept (s : State) (w : Nat) (c : Nat) (x : DigestIn) (h0 : Kept v₀ q₀ s) : Kept v₀ q₀ (State.tellDigest s w c x) := by
  unfold State.tellDigest
  try dsimp only
  repeat' (first | (with_reducible first | assumption | apply State.modTrain_kept | apply State.tell_kept) | intro _ | fail_if_no_progress (with_reducible apply Kept.lit) | split | fail_if_no_progress dsimp only | fail_if_no_progress dsimp only [id])

theorem State.holdRound_kept (s : State) (w : Nat) (c : Nat) (n : Nat) (x : DigestIn) (h0 : Kept v₀ q₀ s) : Kept v₀ q₀ (State.holdRound s w c n x) := by
  unfold State.holdRound
  try dsimp only
  repeat' (first | (with_reducible first | assumption | apply State.modTrain_kept | apply State.tellDigest_kept) | intro _ | fail_if_no_progress (with_reducible apply Kept.lit) | split | fail_if_no_progress dsimp only | fail_if_no_progress dsimp only [id])

theorem State.askRollback_kept (s : State) (w : Nat) (c : Nat) (st : Byte) (hold : Bool) (h0 : Kept v₀ q₀ s) : Kept v₀ q₀ (State.askRollback s w c st hold) := by
  unfold State.askRollback
  try dsimp only
  repeat' (first | (with_reducible first | assumption | apply State.modTrain_kept) | intro _ | fail_if_no_progress (with_reducible apply Kept.lit) | split | fail_if_no_progress dsimp only | fail_if_no_progress dsimp only [id])

theorem State.fenceModule_kept (s : State) (w : Nat) (m : Nat) (h0 : Kept v₀ q₀ s) : Kept v₀ q₀ (State.fenceModule s w m) := by
  unfold State.fenceModule
  try dsimp only
  repeat' (first | (with_reducible first | assumption | apply Kept.forEach | apply State.modWard_kept | apply State.report_kept | apply State.jobFault_kept | apply State.askTko_kept) | intro _ | fail_if_no_progress (with_reducible apply Kept.lit) | split | fail_if_no_progress dsimp only | fail_if_no_progress dsimp only [id])

theorem State.roundGood_kept (s : State) (w : Nat) (c : Nat) (n : Nat) (h0 : Kept v₀ q₀ s) : Kept v₀ q₀ (State.roundGood s w c n) := by
  unfold State.roundGood
  try dsimp only
  repeat' (first | (with_reducible first | assumption | apply State.modWard_kept | apply State.modTrain_kept) | intro _ | fail_if_no_progress (with_reducible apply Kept.lit) | split | fail_if_no_progress dsimp only | fail_if_no_progress dsimp only [id])

theorem State.roundOver_kept (s : State) (w : Nat) (c : Nat) (n : Nat) (h0 : Kept v₀ q₀ s) : Kept v₀ q₀ (State.roundOver s w c n) := by
  unfold State.roundOver
  try dsimp only
  repeat' (first | (with_reducible first | assumption | apply State.modWard_kept | apply State.modTrain_kept) | intro _ | fail_if_no_progress (with_reducible apply Kept.lit) | split | fail_if_no_progress dsimp only | fail_if_no_progress dsimp only [id])

theorem State.decideRound_kept (s : State) (w : Nat) (c : Nat) (n : Nat) (h0 : Kept v₀ q₀ s) : Kept v₀ q₀ (State.decideRound s w c n) := by
  unfold State.decideRound
  try dsimp only
  repeat' (first | (with_reducible first | assumption | apply Kept.forEach | apply State.jobFault_kept | apply State.modTrain_kept | apply State.updWork_kept | apply State.faultTraining_kept | apply State.askRollback_kept | apply State.fenceModule_kept | apply State.roundGood_kept | apply State.roundOver_kept) | intro _ | fail_if_no_progress (with_reducible apply Kept.lit) | split | fail_if_no_progress dsimp only | fail_if_no_progress dsimp only [id])

theorem State.startPassOne_kept (s : State) (w : Nat) (c : Nat) (h0 : Kept v₀ q₀ s) : Kept v₀ q₀ (State.startPassOne s w c) := by
  unfold State.startPassOne
  try dsimp only
  repeat' (first | (with_reducible first | assumption | apply State.modTrain_kept | apply State.updWork_kept) | intro _ | fail_if_no_progress (with_reducible apply Kept.lit) | split | fail_if_no_progress dsimp only | fail_if_no_progress dsimp only [id])

theorem State.sendChunk_kept (s : State) (w : Nat) (c : Nat) (d : Nat) (j : Nat) (copy : Bool) (h0 : Kept v₀ q₀ s) : Kept v₀ q₀ (State.sendChunk s w c d j copy) := by
  unfold State.sendChunk
  try dsimp only
  repeat' (first | (with_reducible first | assumption | apply Kept.forEach | apply State.uncount_kept | apply State.sendXfer_kept | apply State.sender_kept | apply State.rdF_kept) | (refine State.sender_keptEq ?_ ‹_›) | (refine State.rdF_keptEq ?_ ‹_›) | intro _ | fail_if_no_progress (with_reducible apply Kept.lit) | split | fail_if_no_progress dsimp only | fail_if_no_progress dsimp only [id])

theorem State.reduceTook_kept (s : State) (w : Nat) (c : Nat) (va : Nat) (n : Nat) (copy : Bool) (h0 : Kept v₀ q₀ s) : Kept v₀ q₀ (State.reduceTook s w c va n copy) := by
  unfold State.reduceTook
  try dsimp only
  repeat' (first | (with_reducible first | assumption | apply State.modTrain_kept | apply State.sendChunk_kept) | intro _ | fail_if_no_progress (with_reducible apply Kept.lit) | split | fail_if_no_progress dsimp only | fail_if_no_progress dsimp only [id])

theorem State.tryReduce_kept (s : State) (w : Nat) (c : Nat) (h0 : Kept v₀ q₀ s) : Kept v₀ q₀ (State.tryReduce s w c) := by
  unfold State.tryReduce
  try dsimp only
  repeat' (first | (with_reducible first | assumption | apply Kept.forEach | apply State.modTrain_kept | apply State.startPassOne_kept | apply State.sendChunk_kept) | intro _ | fail_if_no_progress (with_reducible apply Kept.lit) | split | fail_if_no_progress dsimp only | fail_if_no_progress dsimp only [id])

theorem State.othersArmed_kept (s : State) (w : Nat) (h0 : Kept v₀ q₀ s) : Kept v₀ q₀ (State.othersArmed s w).2 := by
  unfold State.othersArmed
  try dsimp only
  repeat' (first | (with_reducible first | assumption | apply State.takeFresh_kept) | (refine State.takeFresh_keptEq ?_ ‹_›) | intro _ | fail_if_no_progress (with_reducible apply Kept.lit) | split | fail_if_no_progress dsimp only | fail_if_no_progress dsimp only [id])

theorem State.othersArmed_keptEq {s : State} {w : Nat} {x} {y} (h0 : Kept v₀ q₀ s) (e : (State.othersArmed s w) = (x, y)) : Kept v₀ q₀ y := by
  have e' := congrArg Prod.snd e
  dsimp only at e'
  subst e'
  exact State.othersArmed_kept s w h0

theorem State.arm_kept (s : State) (w : Nat) (c : Nat) (h0 : Kept v₀ q₀ s) : Kept v₀ q₀ (State.arm s w c) := by
  unfold State.arm
  try dsimp only
  repeat' (first | (with_reducible first | assumption | apply State.modTrain_kept | apply State.tryReduce_kept | apply State.othersArmed_kept) | (refine State.othersArmed_keptEq ?_ ‹_›) | intro _ | fail_if_no_progress (with_reducible apply Kept.lit) | split | fail_if_no_progress dsimp only | fail_if_no_progress dsimp only [id])

theorem State.failStep_kept (s : State) (w : Nat) (c : Nat) (st : St) (v : Option VoteIn) (h0 : Kept v₀ q₀ s) : Kept v₀ q₀ (State.failStep s w c st v) := by
  unfold State.failStep
  try dsimp only
  repeat' (first | (with_reducible first | assumption | apply State.modTrain_kept | apply State.abandonStep_kept) | intro _ | fail_if_no_progress (with_reducible apply Kept.lit) | split | fail_if_no_progress dsimp only | fail_if_no_progress dsimp only [id])

theorem State.failMaster_kept (s : State) (w : Nat) (c : Nat) (h0 : Kept v₀ q₀ s) : Kept v₀ q₀ (State.failMaster s w c) := by
  unfold State.failMaster
  try dsimp only
  repeat' (first | (with_reducible first | assumption | apply State.askRollback_kept | apply State.failStep_kept) | intro _ | fail_if_no_progress (with_reducible apply Kept.lit) | split | fail_if_no_progress dsimp only | fail_if_no_progress dsimp only [id])

theorem State.decideVote1_kept (s : State) (w : Nat) (c : Nat) (h0 : Kept v₀ q₀ s) : Kept v₀ q₀ (State.decideVote1 s w c) := by
  unfold State.decideVote1
  try dsimp only
  repeat' (first | (with_reducible first | assumption | apply Kept.foldl | apply Kept.foldlFst | apply Kept.foldlSnd | apply Kept.foldlD | apply Kept.foldlP2 | apply Kept.foldlD1 | apply State.modTrain_kept | apply State.updWork_kept | apply State.failStep_kept | apply State.failMaster_kept) | intro _ | fail_if_no_progress (with_reducible apply Kept.lit) | split | fail_if_no_progress dsimp only | fail_if_no_progress dsimp only [id])

theorem State.dropAlternate_kept (s : State) (w : Nat) (c : Nat) (h0 : Kept v₀ q₀ s) : Kept v₀ q₀ (State.dropAlternate s w c) := by
  unfold State.dropAlternate
  try dsimp only
  repeat' (first | (with_reducible first | assumption | apply Kept.forEach | apply State.freeVa_kept) | intro _ | fail_if_no_progress (with_reducible apply Kept.lit) | split | fail_if_no_progress dsimp only | fail_if_no_progress dsimp only [id])

theorem State.decideVote2_kept (s : State) (w : Nat) (c : Nat) (h0 : Kept v₀ q₀ s) : Kept v₀ q₀ (State.decideVote2 s w c) := by
  unfold State.decideVote2
  try dsimp only
  repeat' (first | (with_reducible first | assumption | apply State.modWard_kept | apply State.modTrain_kept | apply State.updIdle_kept | apply State.failStep_kept | apply State.failMaster_kept | apply State.dropAlternate_kept) | intro _ | fail_if_no_progress (with_reducible apply Kept.lit) | split | fail_if_no_progress dsimp only | fail_if_no_progress dsimp only [id])

theorem State.takeVote_kept (s : State) (w : Nat) (c : Nat) (v : VoteIn) (h0 : Kept v₀ q₀ s) : Kept v₀ q₀ (State.takeVote s w c v) := by
  unfold State.takeVote
  try dsimp only
  repeat' (first | (with_reducible first | assumption | apply State.modTrain_kept | apply State.decideVote1_kept | apply State.decideVote2_kept) | intro _ | fail_if_no_progress (with_reducible apply Kept.lit) | split | fail_if_no_progress dsimp only | fail_if_no_progress dsimp only [id])

theorem State.castVote_kept (s : State) (w : Nat) (c : Nat) (v : VoteIn) (h0 : Kept v₀ q₀ s) : Kept v₀ q₀ (State.castVote s w c v) := by
  unfold State.castVote
  try dsimp only
  repeat' (first | (with_reducible first | assumption | apply State.tell_kept | apply State.takeVote_kept) | intro _ | fail_if_no_progress (with_reducible apply Kept.lit) | split | fail_if_no_progress dsimp only | fail_if_no_progress dsimp only [id])

theorem State.ownVote2_kept (s : State) (w : Nat) (c : Nat) (v : VoteIn) (h0 : Kept v₀ q₀ s) : Kept v₀ q₀ (State.ownVote2 s w c v) := by
  unfold State.ownVote2
  try dsimp only
  repeat' (first | (with_reducible first | assumption | apply State.modTrain_kept | apply State.castVote_kept) | intro _ | fail_if_no_progress (with_reducible apply Kept.lit) | split | fail_if_no_progress dsimp only | fail_if_no_progress dsimp only [id])

theorem execGradientReductionComplete_kept (w : Nat) (c : Nat) (s : State) (h0 : Kept v₀ q₀ s) : KeptX v₀ q₀ (execGradientReductionComplete w c s) := by
  unfold execGradientReductionComplete
  try dsimp only
  repeat' (first | (with_reducible first | assumption | apply KeptX.next | apply State.startPassOne_kept) | intro _ | fail_if_no_progress (with_reducible apply Kept.lit) | split | fail_if_no_progress dsimp only | fail_if_no_progress dsimp only [id])

theorem execPassOneComplete_kept (w : Nat) (x : PassOneIn) (s : State) (h0 : Kept v₀ q₀ s) : KeptX v₀ q₀ (execPassOneComplete w x s) := by
  unfold execPassOneComplete
  try dsimp only
  repeat' (first | (with_reducible first | assumption | apply Kept.forEach | apply KeptX.next | apply State.modTrain_kept | apply State.updIdle_kept | apply State.passOne_kept | apply State.combine_kept | apply State.tell_kept | apply State.castVote_kept) | (refine State.passOne_keptEq ?_ ‹_›) | (refine State.combine_keptEq ?_ ‹_›) | intro _ | fail_if_no_progress (with_reducible apply Kept.lit) | split | fail_if_no_progress dsimp only | fail_if_no_progress dsimp only [id])

theorem execVote_kept (w : Nat) (c : Nat) (v : VoteIn) (s : State) (h0 : Kept v₀ q₀ s) : KeptX v₀ q₀ (execVote w c v s) := by
  unfold execVote
  try dsimp only
  repeat' (first | (with_reducible first | assumption | apply KeptX.next | apply State.modTrain_kept | apply State.takeVote_kept | apply State.ownVote2_kept) | intro _ | fail_if_no_progress (with_reducible apply Kept.lit) | split | fail_if_no_progress dsimp only | fail_if_no_progress dsimp only [id])

theorem execPassTwoComplete_kept (w : Nat) (c : Nat) (s : State) (h0 : Kept v₀ q₀ s) : KeptX v₀ q₀ (execPassTwoComplete w c s) := by
  unfold execPassTwoComplete
  try dsimp only
  repeat' (first | (with_reducible first | assumption | apply Kept.forEach | apply KeptX.next | apply State.modTrain_kept | apply State.clearAcc_kept | apply State.updIdle_kept | apply State.passTwo_kept | apply State.addBlocks_kept | apply State.tell_kept | apply State.ownVote2_kept) | intro _ | fail_if_no_progress (with_reducible apply Kept.lit) | split | fail_if_no_progress dsimp only | fail_if_no_progress dsimp only [id])

theorem State.countUpd_kept (s : State) (w : Nat) (d : Nat) (h0 : Kept v₀ q₀ s) : Kept v₀ q₀ (State.countUpd s w d) := by
  unfold State.countUpd
  try dsimp only
  repeat' (first | (with_reducible first | assumption | apply State.modUpd_kept | apply State.takeFresh_kept | apply State.passTwo_kept | apply State.addBlocks_kept) | (refine State.takeFresh_keptEq ?_ ‹_›) | intro _ | fail_if_no_progress (with_reducible apply Kept.lit) | split | fail_if_no_progress dsimp only | fail_if_no_progress dsimp only [id])

theorem State.publish_kept (s : State) (w c h : Nat) (h0 : Kept v₀ q₀ s) : Kept v₀ q₀ (State.publish s w c h).1 := by
  unfold State.publish
  dsimp only
  repeat' (first | with_reducible assumption | with_reducible apply State.tryPublish_kept | with_reducible apply State.setReg_kept | split)

theorem State.publish_keptEq {s : State} {w : Nat} {c : Nat} {h : Nat} {x} {y} (h0 : Kept v₀ q₀ s) (e : (State.publish s w c h) = (x, y)) : Kept v₀ q₀ x := by
  have e' := congrArg Prod.fst e
  dsimp only at e'
  subst e'
  exact State.publish_kept s w c h h0

theorem State.startCopy_kept (s : State) (w : Nat) (c : Nat) (n : Nat) (h0 : Kept v₀ q₀ s) : Kept v₀ q₀ (State.startCopy s w c n) := by
  unfold State.startCopy
  try dsimp only
  repeat' (first | (with_reducible first | assumption | apply State.modTrain_kept | apply State.updWork_kept) | intro _ | fail_if_no_progress (with_reducible apply Kept.lit) | split | fail_if_no_progress dsimp only | fail_if_no_progress dsimp only [id])

theorem State.commitStep_kept (s : State) (w c : Nat) (h0 : Kept v₀ q₀ s) : Kept v₀ q₀ (State.commitStep s w c) := by
  unfold State.commitStep
  extract_lets t n r s1
  split
  · exact h0
  · generalize hxe : (if r.pub ∧ n % r.pubn = 0 then s1.publish w c (s1.train w c).half else (s1, false) : State × Bool) = x
    have hx : Kept v₀ q₀ x.1 := by
      have h1 : Kept v₀ q₀ s1 := State.modTrain_kept _ _ _ _ h0
      rw [← hxe]
      split
      · exact State.publish_kept _ _ _ _ h1
      · exact h1
    clear hxe
    obtain ⟨s2, pub⟩ := x
    dsimp only at hx ⊢
    generalize hs5 : (State.modTrain (State.stepReport _ w c n 0 false) w c _) = s5
    have h5 : Kept v₀ q₀ s5 := by
      rw [← hs5]
      exact State.modTrain_kept _ _ _ _ (State.stepReport_kept _ _ _ _ _ _ (State.modTrain_kept _ _ _ _ hx))
    repeat' (first | with_reducible assumption | with_reducible apply State.endTraining_kept | with_reducible apply State.startCopy_kept | with_reducible apply State.holdRound_kept | split)

theorem execCheckpointCopyComplete_kept (w : Nat) (c : Nat) (s : State) (h0 : Kept v₀ q₀ s) : KeptX v₀ q₀ (execCheckpointCopyComplete w c s) := by
  unfold execCheckpointCopyComplete
  try dsimp only
  repeat' (first | (with_reducible first | assumption | apply KeptX.next | apply State.modTrain_kept | apply State.updIdle_kept | apply State.copyRegion_kept) | (refine State.copyRegion_keptEq ?_ ‹_›) | intro _ | fail_if_no_progress (with_reducible apply Kept.lit) | split | fail_if_no_progress dsimp only | fail_if_no_progress dsimp only [id])

theorem State.beginRollback_kept (s : State) (w : Nat) (c : Nat) (h0 : Kept v₀ q₀ s) : Kept v₀ q₀ (State.beginRollback s w c) := by
  unfold State.beginRollback
  try dsimp only
  repeat' (first | (with_reducible first | assumption | apply State.modWard_kept | apply State.restore_kept | apply State.modTrain_kept | apply State.updWork_kept | apply State.abandonStep_kept | apply State.faultTraining_kept) | intro _ | fail_if_no_progress (with_reducible apply Kept.lit) | split | fail_if_no_progress dsimp only | fail_if_no_progress dsimp only [id])

theorem State.leaveHeld_kept (s : State) (w : Nat) (c : Nat) (h0 : Kept v₀ q₀ s) : Kept v₀ q₀ (State.leaveHeld s w c) := by
  unfold State.leaveHeld
  try dsimp only
  repeat' (first | (with_reducible first | assumption | apply State.modTrain_kept | apply State.runHeld_kept) | intro _ | fail_if_no_progress (with_reducible apply Kept.lit) | split | fail_if_no_progress dsimp only | fail_if_no_progress dsimp only [id])

theorem State.holdRun_kept (s : State) (w : Nat) (c : Nat) (n : Nat) (h0 : Kept v₀ q₀ s) : Kept v₀ q₀ (State.holdRun s w c n) := by
  unfold State.holdRun
  try dsimp only
  repeat' (first | (with_reducible first | assumption | apply State.modTrain_kept | apply State.tellDigest_kept | apply State.runHeld_kept) | intro _ | fail_if_no_progress (with_reducible apply Kept.lit) | split | fail_if_no_progress dsimp only | fail_if_no_progress dsimp only [id])

theorem execRollbackRestoreComplete_kept (w c : Nat) (s : State) (h0 : Kept v₀ q₀ s) :
    KeptX v₀ q₀ (execRollbackRestoreComplete w c s) := by
  unfold execRollbackRestoreComplete
  extract_lets t copy res
  split
  · exact h0
  · have hc : ∀ u k, Kept v₀ q₀ u → Kept v₀ q₀ (copy u k).1 := fun u k hu => State.copyRegion_kept _ _ _ _ _ hu
    have hr : ∀ u k, res = some (u, k) → Kept v₀ q₀ u := by
      intro u m e
      have e2 : (match t.newest with
        | none => (none : Option (State × Nat))
        | some k =>
          if !(copy s k).2 then some ((copy s k).1, k)
          else if (if 1 - k = 0 then t.k0Valid && t.k0Ver else t.k1Valid && t.k1Ver) then
            (if (copy (copy s k).1 (1 - k)).2 then none else some ((copy (copy s k).1 (1 - k)).1, 1 - k))
          else none) = some (u, m) := e
      clear e
      clear_value copy
      cases hn : t.newest with
      | none => simp [hn] at e2
      | some k =>
        simp only [hn] at e2
        generalize (if 1 - k = 0 then t.k0Valid && t.k0Ver else t.k1Valid && t.k1Ver) = g at e2
        have ha := hc s k h0
        have hb := hc (copy s k).1 (1 - k) ha
        generalize copy (copy s k).1 (1 - k) = y at e2 hb
        generalize copy s k = x at e2 ha
        obtain ⟨x1, x2⟩ := x
        obtain ⟨y1, y2⟩ := y
        cases x2 <;> cases y2 <;> cases g <;> simp at e2 <;> (obtain ⟨rfl, _⟩ := e2; assumption)
    clear_value res
    split
    · exact KeptX.next (State.faultTraining_kept _ _ _ _ h0)
    · rename_i u k
      have hu := hr u k rfl
      apply KeptX.next
      try dsimp only
      repeat' (first | with_reducible assumption | with_reducible apply State.holdRun_kept | with_reducible apply State.endTraining_kept | with_reducible apply State.updIdle_kept | with_reducible apply State.modTrain_kept | with_reducible apply State.clearAcc_kept | with_reducible apply State.regenImage_kept | split)

theorem execDigestExchange_kept (w : Nat) (c : Nat) (x : DigestIn) (s : State) (h0 : Kept v₀ q₀ s) : KeptX v₀ q₀ (execDigestExchange w c x s) := by
  unfold execDigestExchange
  try dsimp only
  repeat' (first | (with_reducible first | assumption | apply KeptX.next | apply State.modTrain_kept | apply State.tell_kept | apply State.runHeld_kept) | intro _ | fail_if_no_progress (with_reducible apply Kept.lit) | split | fail_if_no_progress dsimp only | fail_if_no_progress dsimp only [id])

theorem execRehashComplete_kept (w : Nat) (c : Nat) (x : RehashIn) (s : State) (h0 : Kept v₀ q₀ s) : KeptX v₀ q₀ (execRehashComplete w c x s) := by
  unfold execRehashComplete
  try dsimp only
  repeat' (first | (with_reducible first | assumption | apply KeptX.next | apply State.modWard_kept | apply State.modTrain_kept | apply State.updIdle_kept | apply State.tell_kept | apply State.askRollback_kept | apply State.roundGood_kept | apply State.roundOver_kept) | intro _ | fail_if_no_progress (with_reducible apply Kept.lit) | split | fail_if_no_progress dsimp only | fail_if_no_progress dsimp only [id])

theorem execPeerCheckpointArrive_kept (w : Nat) (c : Nat) (d : Nat) (fromReplica : Nat) (bytes : List Byte) (s : State) (h0 : Kept v₀ q₀ s) : KeptX v₀ q₀ (execPeerCheckpointArrive w c d fromReplica bytes s) := by
  unfold execPeerCheckpointArrive
  try dsimp only
  repeat' (first | (with_reducible first | assumption | apply KeptX.next | apply State.complete_kept | apply State.writeVa_kept | apply State.modTrain_kept | apply State.clearAcc_kept | apply State.endTraining_kept | apply State.regenImage_kept | apply State.copyRegion_kept | apply State.holdRun_kept | apply State.runHeld_kept) | (refine State.copyRegion_keptEq ?_ ‹_›) | intro _ | fail_if_no_progress (with_reducible apply Kept.lit) | split | fail_if_no_progress dsimp only | fail_if_no_progress dsimp only [id])

theorem execArmTimeout_kept (w : Nat) (c : Nat) (s : State) (h0 : Kept v₀ q₀ s) : KeptX v₀ q₀ (execArmTimeout w c s) := by
  unfold execArmTimeout
  try dsimp only
  repeat' (first | (with_reducible first | assumption | apply KeptX.next | apply State.faultTraining_kept) | intro _ | fail_if_no_progress (with_reducible apply Kept.lit) | split | fail_if_no_progress dsimp only | fail_if_no_progress dsimp only [id])

theorem State.beginTraining_kept (s : State) (x : OpCtx) (c : Nat) (mode : Nat) (r : TrainRec) (h0 : Kept v₀ q₀ s) : Kept v₀ q₀ (State.beginTraining s x c mode r) := by
  unfold State.beginTraining
  try dsimp only
  repeat' (first | (with_reducible first | assumption | apply State.modWard_kept | apply State.complete_kept | apply State.setReg_kept | apply State.modTrain_kept | apply State.clearAcc_kept | apply State.holdRound_kept | apply State.startCopy_kept) | intro _ | fail_if_no_progress (with_reducible apply Kept.lit) | split | fail_if_no_progress dsimp only | fail_if_no_progress dsimp only [id])

theorem State.doTrainStart_kept (s : State) (x : OpCtx) (c : Nat) (mode : Nat) (va : Nat) (h0 : Kept v₀ q₀ s) : Kept v₀ q₀ (State.doTrainStart s x c mode va) := by
  unfold State.doTrainStart
  try dsimp only
  repeat' (first | (with_reducible first | assumption | apply State.complete_kept | apply State.readRecord_kept | apply State.beginTraining_kept) | (refine State.readRecord_keptEq ?_ ‹_›) | intro _ | fail_if_no_progress (with_reducible apply Kept.lit) | split | fail_if_no_progress dsimp only | fail_if_no_progress dsimp only [id])

theorem State.doTrainStop_kept (s : State) (x : OpCtx) (c : Nat) (h0 : Kept v₀ q₀ s) : Kept v₀ q₀ (State.doTrainStop s x c) := by
  unfold State.doTrainStop
  try dsimp only
  repeat' (first | (with_reducible first | assumption | apply State.complete_kept | apply State.modTrain_kept) | intro _ | fail_if_no_progress (with_reducible apply Kept.lit) | split | fail_if_no_progress dsimp only | fail_if_no_progress dsimp only [id])

theorem State.doRollback_kept (s : State) (x : OpCtx) (c : Nat) (h0 : Kept v₀ q₀ s) : Kept v₀ q₀ (State.doRollback s x c) := by
  unfold State.doRollback
  try dsimp only
  repeat' (first | (with_reducible first | assumption | apply State.takeFresh_kept | apply State.complete_kept | apply State.askRollback_kept) | (refine State.takeFresh_keptEq ?_ ‹_›) | intro _ | fail_if_no_progress (with_reducible apply Kept.lit) | split | fail_if_no_progress dsimp only | fail_if_no_progress dsimp only [id])

theorem execTrainStart_kept (src : Src) (c : Nat) (mode : Nat) (record : W64) (seen : List (Nat × Byte)) (s : State) (h0 : Kept v₀ q₀ s) : KeptX v₀ q₀ (execTrainStart src c mode record seen s) := by
  unfold execTrainStart
  try dsimp only
  repeat' (first | (with_reducible first | assumption | apply KeptX.next | apply State.seen_kept | apply State.command_kept | apply State.doTrainStart_kept) | intro _ | fail_if_no_progress (with_reducible apply Kept.lit) | split | fail_if_no_progress dsimp only | fail_if_no_progress dsimp only [id])

theorem execTrainStop_kept (src : Src) (c : Nat) (s : State) (h0 : Kept v₀ q₀ s) : KeptX v₀ q₀ (execTrainStop src c s) := by
  unfold execTrainStop
  try dsimp only
  repeat' (first | (with_reducible first | assumption | apply KeptX.next | apply State.command_kept | apply State.doTrainStop_kept) | intro _ | fail_if_no_progress (with_reducible apply Kept.lit) | split | fail_if_no_progress dsimp only | fail_if_no_progress dsimp only [id])

theorem execRollback_kept (src : Src) (c : Nat) (s : State) (h0 : Kept v₀ q₀ s) : KeptX v₀ q₀ (execRollback src c s) := by
  unfold execRollback
  try dsimp only
  repeat' (first | (with_reducible first | assumption | apply KeptX.next | apply State.command_kept | apply State.doRollback_kept) | intro _ | fail_if_no_progress (with_reducible apply Kept.lit) | split | fail_if_no_progress dsimp only | fail_if_no_progress dsimp only [id])

theorem State.postStep_kept (s : State) (d : Nat) (w : Nat) (v : W64) (h0 : Kept v₀ q₀ s) : Kept v₀ q₀ (State.postStep s d w v) := by
  unfold State.postStep
  try dsimp only
  repeat' (first | (with_reducible first | assumption | apply State.modUpd_kept | apply State.modTrain_kept | apply State.tryReduce_kept) | intro _ | fail_if_no_progress (with_reducible apply Kept.lit) | split | fail_if_no_progress dsimp only | fail_if_no_progress dsimp only [id])

theorem execUpdStep_kept (r : Req) (d : Nat) (a : RegW) (s : State) (h0 : Kept v₀ q₀ s) : KeptX v₀ q₀ (execUpdStep r d a s) := by
  unfold execUpdStep
  try dsimp only
  repeat' (first | (with_reducible first | assumption | apply KeptX.next | apply State.modUpd_kept | apply State.refuse_kept | apply State.postStep_kept) | intro _ | fail_if_no_progress (with_reducible apply Kept.lit) | split | fail_if_no_progress dsimp only | fail_if_no_progress dsimp only [id])

theorem execUpdPeekCtx_kept (r : Req) (d : Nat) (v : W32) (s : State) (h0 : Kept v₀ q₀ s) : KeptX v₀ q₀ (execUpdPeekCtx r d v s) := by
  unfold execUpdPeekCtx
  try dsimp only
  repeat' (first | (with_reducible first | assumption | apply KeptX.next | apply State.modUpd_kept | apply State.refuse_kept) | intro _ | fail_if_no_progress (with_reducible apply Kept.lit) | split | fail_if_no_progress dsimp only | fail_if_no_progress dsimp only [id])

theorem State.trainAbandon_kept (s : State) (w : Nat) (c : Nat) (h0 : Kept v₀ q₀ s) : Kept v₀ q₀ (State.trainAbandon s w c) := by
  unfold State.trainAbandon
  try dsimp only
  repeat' (first | (with_reducible first | assumption | apply State.updIdle_kept | apply State.abandonStep_kept) | intro _ | fail_if_no_progress (with_reducible apply Kept.lit) | split | fail_if_no_progress dsimp only | fail_if_no_progress dsimp only [id])

theorem State.trainStarted_kept (s : State) (w : Nat) (c : Nat) (h0 : Kept v₀ q₀ s) : Kept v₀ q₀ (State.trainStarted s w c) := by
  unfold State.trainStarted
  try dsimp only
  repeat' (first | (with_reducible first | assumption | apply State.modTrain_kept) | intro _ | fail_if_no_progress (with_reducible apply Kept.lit) | split | fail_if_no_progress dsimp only | fail_if_no_progress dsimp only [id])

theorem State.trainStopped_kept (s : State) (w : Nat) (c : Nat) (h0 : Kept v₀ q₀ s) : Kept v₀ q₀ (State.trainStopped s w c) := by
  unfold State.trainStopped
  try dsimp only
  repeat' (first | (with_reducible first | assumption | apply State.endTraining_kept) | intro _ | fail_if_no_progress (with_reducible apply Kept.lit) | split | fail_if_no_progress dsimp only | fail_if_no_progress dsimp only [id])

theorem State.trainBoundary_kept (s : State) (w : Nat) (c : Nat) (h0 : Kept v₀ q₀ s) : Kept v₀ q₀ (State.trainBoundary s w c) := by
  unfold State.trainBoundary
  try dsimp only
  repeat' (first | (with_reducible first | assumption | apply Kept.forEach | apply State.decideRound_kept | apply State.arm_kept | apply State.commitStep_kept | apply State.beginRollback_kept | apply State.leaveHeld_kept | apply State.trainAbandon_kept | apply State.trainStarted_kept | apply State.trainStopped_kept) | intro _ | fail_if_no_progress (with_reducible apply Kept.lit) | split | fail_if_no_progress dsimp only | fail_if_no_progress dsimp only [id])

theorem State.trainingStep_kept (s : State) (w : Nat) (h0 : Kept v₀ q₀ s) : Kept v₀ q₀ (State.trainingStep s w) := by
  unfold State.trainingStep
  try dsimp only
  repeat' (first | (with_reducible first | assumption | apply Kept.forEach | apply State.trainBoundary_kept) | intro _ | fail_if_no_progress (with_reducible apply Kept.lit) | split | fail_if_no_progress dsimp only | fail_if_no_progress dsimp only [id])

end Sys2Proof.Machine
end

