-- ==== Sys2Proof/Laws/KeptRest.lean ====
section
/-! SUPPORT. What is kept by links, keys, faults, boot, registers, PCIe and the beat: every operation and every meaning keeps the variant, the queue and the
canonical form of memory (`Kept`). -/

set_option linter.unusedTactic false
set_option linter.unreachableTactic false
set_option linter.unusedVariables false

namespace Sys2Proof.Machine
open Sys2Proof
variable {v₀ : Variant} {q₀ : List Instr}

/-! ### Links -/

theorem State.linkRecord_kept (s : State) (k : Nat) (scope : Nat) (st : Byte) (h0 : Kept v₀ q₀ s) : Kept v₀ q₀ (State.linkRecord s k scope st) := by
  unfold State.linkRecord
  try dsimp only
  repeat' (first | (with_reducible first | assumption | apply State.report_kept) | intro _ | fail_if_no_progress (with_reducible apply Kept.lit) | split | fail_if_no_progress dsimp only | fail_if_no_progress dsimp only [id])

theorem State.failRead_kept (s : State) (r : PeerRead) (st : St) (h0 : Kept v₀ q₀ s) : Kept v₀ q₀ (State.failRead s r st) := by
  unfold State.failRead
  try dsimp only
  repeat' (first | (with_reducible first | assumption | apply State.countFault_kept | apply State.stopRun_kept | apply State.failAccess_kept) | intro _ | fail_if_no_progress (with_reducible apply Kept.lit) | split | fail_if_no_progress dsimp only | fail_if_no_progress dsimp only [id])

theorem State.failWrite_kept (s : State) (m : Nat) (ward : Nat) (ctx : Nat) (st : St) (h0 : Kept v₀ q₀ s) : Kept v₀ q₀ (State.failWrite s m ward ctx st) := by
  unfold State.failWrite
  try dsimp only
  repeat' (first | (with_reducible first | assumption | apply State.countFault_kept | apply State.stopRun_kept | apply State.failAccess_kept) | intro _ | fail_if_no_progress (with_reducible apply Kept.lit) | split | fail_if_no_progress dsimp only | fail_if_no_progress dsimp only [id])

theorem State.linkFail_kept (s : State) (k : Nat) (h0 : Kept v₀ q₀ s) : Kept v₀ q₀ (State.linkFail s k) := by
  unfold State.linkFail
  try dsimp only
  repeat' (first | (with_reducible first | assumption | apply Kept.forEach | apply State.modLink_kept | apply State.mcPump_kept | apply State.route_kept | apply State.resumeTko_kept | apply State.linkRecord_kept | apply State.failRead_kept | apply State.failWrite_kept) | intro _ | fail_if_no_progress (with_reducible apply Kept.lit) | split | fail_if_no_progress dsimp only | fail_if_no_progress dsimp only [id])

theorem State.startRetrain_kept (s : State) (k : Nat) (h0 : Kept v₀ q₀ s) : Kept v₀ q₀ (State.startRetrain s k) := by
  unfold State.startRetrain
  try dsimp only
  repeat' (first | (with_reducible first | assumption | apply State.modLink_kept | apply State.linkRecord_kept) | intro _ | fail_if_no_progress (with_reducible apply Kept.lit) | split | fail_if_no_progress dsimp only | fail_if_no_progress dsimp only [id])

theorem State.replay_kept (s : State) (k : Nat) (h0 : Kept v₀ q₀ s) : Kept v₀ q₀ (State.replay s k) := by
  unfold State.replay
  try dsimp only
  repeat' (first | (with_reducible first | assumption | apply Kept.forEach | apply State.emit_kept) | intro _ | fail_if_no_progress (with_reducible apply Kept.lit) | split | fail_if_no_progress dsimp only | fail_if_no_progress dsimp only [id])

theorem State.bringUp_kept (s : State) (k : Nat) (x : TrainedLink) (h0 : Kept v₀ q₀ s) : Kept v₀ q₀ (State.bringUp s k x) := by
  unfold State.bringUp
  try dsimp only
  repeat' (first | (with_reducible first | assumption | apply State.modLink_kept | apply State.pump_kept | apply State.linkRecord_kept) | intro _ | fail_if_no_progress (with_reducible apply Kept.lit) | split | fail_if_no_progress dsimp only | fail_if_no_progress dsimp only [id])

theorem execLinkTrained_kept (l : Nat) (x : TrainedLink) (s : State) (h0 : Kept v₀ q₀ s) : KeptX v₀ q₀ (execLinkTrained l x s) := by
  unfold execLinkTrained
  try dsimp only
  repeat' (first | (with_reducible first | assumption | apply KeptX.next | apply State.modLink_kept | apply State.bringUp_kept) | intro _ | fail_if_no_progress (with_reducible apply Kept.lit) | split | fail_if_no_progress dsimp only | fail_if_no_progress dsimp only [id])

theorem execLinkTrainRetry_kept (l : Nat) (s : State) (h0 : Kept v₀ q₀ s) : KeptX v₀ q₀ (execLinkTrainRetry l s) := by
  unfold execLinkTrainRetry
  try dsimp only
  repeat' (first | (with_reducible first | assumption | apply KeptX.next | apply State.modLink_kept) | intro _ | fail_if_no_progress (with_reducible apply Kept.lit) | split | fail_if_no_progress dsimp only | fail_if_no_progress dsimp only [id])

theorem execLaneAlignmentLoss_kept (l : Nat) (s : State) (h0 : Kept v₀ q₀ s) : KeptX v₀ q₀ (execLaneAlignmentLoss l s) := by
  unfold execLaneAlignmentLoss
  try dsimp only
  repeat' (first | (with_reducible first | assumption | apply KeptX.next | apply State.startRetrain_kept) | intro _ | fail_if_no_progress (with_reducible apply Kept.lit) | split | fail_if_no_progress dsimp only | fail_if_no_progress dsimp only [id])

theorem State.retrainDone_kept (s : State) (k : Nat) (st : St) (h0 : Kept v₀ q₀ s) : Kept v₀ q₀ (State.retrainDone s k st) := by
  unfold State.retrainDone
  try dsimp only
  repeat' (first | (with_reducible first | assumption | apply State.modLink_kept | apply State.complete_kept) | intro _ | fail_if_no_progress (with_reducible apply Kept.lit) | split | fail_if_no_progress dsimp only | fail_if_no_progress dsimp only [id])

theorem execLinkRetrainComplete_kept (l : Nat) (x : TrainedLink) (s : State) (h0 : Kept v₀ q₀ s) : KeptX v₀ q₀ (execLinkRetrainComplete l x s) := by
  unfold execLinkRetrainComplete
  try dsimp only
  repeat' (first | (with_reducible first | assumption | apply KeptX.next | apply State.modLink_kept | apply State.pump_kept | apply State.linkFail_kept | apply State.replay_kept | apply State.bringUp_kept | apply State.retrainDone_kept) | intro _ | fail_if_no_progress (with_reducible apply Kept.lit) | split | fail_if_no_progress dsimp only | fail_if_no_progress dsimp only [id])

theorem State.doLinkRetrain_kept (s : State) (x : OpCtx) (die : Nat) (link : Nat) (h0 : Kept v₀ q₀ s) : Kept v₀ q₀ (State.doLinkRetrain s x die link) := by
  unfold State.doLinkRetrain
  try dsimp only
  repeat' (first | (with_reducible first | assumption | apply State.modLink_kept | apply State.complete_kept) | intro _ | fail_if_no_progress (with_reducible apply Kept.lit) | split | fail_if_no_progress dsimp only | fail_if_no_progress dsimp only [id])

theorem execLinkRetrain_kept (src : Src) (die : Nat) (link : Nat) (s : State) (h0 : Kept v₀ q₀ s) : KeptX v₀ q₀ (execLinkRetrain src die link s) := by
  unfold execLinkRetrain
  try dsimp only
  repeat' (first | (with_reducible first | assumption | apply KeptX.next | apply State.command_kept | apply State.doLinkRetrain_kept) | intro _ | fail_if_no_progress (with_reducible apply Kept.lit) | split | fail_if_no_progress dsimp only | fail_if_no_progress dsimp only [id])

theorem execSessionRekey_kept (l : Nat) (atSeq : Nat) (s : State) (h0 : Kept v₀ q₀ s) : KeptX v₀ q₀ (execSessionRekey l atSeq s) := by
  unfold execSessionRekey
  try dsimp only
  repeat' (first | (with_reducible first | assumption | apply KeptX.next | apply State.modLink_kept) | intro _ | fail_if_no_progress (with_reducible apply Kept.lit) | split | fail_if_no_progress dsimp only | fail_if_no_progress dsimp only [id])

theorem State.takeAcks_kept (s : State) (k : Nat) (f : Flit) (h0 : Kept v₀ q₀ s) : Kept v₀ q₀ (State.takeAcks s k f) := by
  unfold State.takeAcks
  try dsimp only
  repeat' (first | (with_reducible first | assumption | apply State.modLink_kept | apply State.pump_kept | apply State.startRetrain_kept | apply State.replay_kept) | intro _ | fail_if_no_progress (with_reducible apply Kept.lit) | split | fail_if_no_progress dsimp only | fail_if_no_progress dsimp only [id])

theorem State.receive_kept (s : State) (k : Nat) (f : Flit) (chk : FlitCheck) (body : State → State) (h : Kept v₀ q₀ s)
    (hf : ∀ t, Kept v₀ q₀ t → Kept v₀ q₀ (body t)) : Kept v₀ q₀ (State.receive s k f chk body) := by
  unfold State.receive
  dsimp only
  repeat' (first | with_reducible assumption | with_reducible apply hf | with_reducible apply State.modLink_kept | with_reducible apply State.idleFlit_kept | with_reducible apply State.startRetrain_kept | with_reducible apply State.takeAcks_kept | with_reducible apply State.mcPump_kept | split)

theorem State.badAddr_kept (s : State) (k : Nat) (h0 : Kept v₀ q₀ s) : Kept v₀ q₀ (State.badAddr s k) := by
  unfold State.badAddr
  try dsimp only
  repeat' (first | (with_reducible first | assumption | apply State.modLink_kept) | intro _ | fail_if_no_progress (with_reducible apply Kept.lit) | split | fail_if_no_progress dsimp only | fail_if_no_progress dsimp only [id])

theorem State.forward_kept (s : State) (k : Nat) (f : Flit) (p : List Byte) (deliver : State → State) (h : Kept v₀ q₀ s)
    (hf : ∀ t, Kept v₀ q₀ t → Kept v₀ q₀ (deliver t)) : Kept v₀ q₀ (State.forward s k f p deliver) := by
  unfold State.forward
  repeat' (first | with_reducible assumption | with_reducible apply hf | with_reducible apply State.badAddr_kept | with_reducible apply State.route_kept | split)

theorem State.respond_kept (s : State) (f : Flit) (st : St) (data : List Byte) (h0 : Kept v₀ q₀ s) : Kept v₀ q₀ (State.respond s f st data) := by
  unfold State.respond
  try dsimp only
  repeat' (first | (with_reducible first | assumption | apply State.sendXfer_kept) | intro _ | fail_if_no_progress (with_reducible apply Kept.lit) | split | fail_if_no_progress dsimp only | fail_if_no_progress dsimp only [id])

theorem State.setXfer_kept (s : State) (k : Nat) (f : Flit) (e : Addr × Nat) (h0 : Kept v₀ q₀ s) : Kept v₀ q₀ (State.setXfer s k f e) := by
  unfold State.setXfer
  try dsimp only
  repeat' (first | (with_reducible first | assumption | apply State.modLink_kept) | intro _ | fail_if_no_progress (with_reducible apply Kept.lit) | split | fail_if_no_progress dsimp only | fail_if_no_progress dsimp only [id])

theorem State.takeWrite_kept (s : State) (k : Nat) (f : Flit) (hdr : Option (Addr × Nat)) (payload : List Byte)
    (put : State → Nat → List Byte → State) (h : Kept v₀ q₀ s)
    (hf : ∀ t a b, Kept v₀ q₀ t → Kept v₀ q₀ (put t a b)) : Kept v₀ q₀ (State.takeWrite s k f hdr payload put) := by
  unfold State.takeWrite
  dsimp only
  repeat' (first | with_reducible assumption | with_reducible apply hf | with_reducible apply State.modLink_kept | with_reducible apply State.setXfer_kept | with_reducible apply State.respond_kept | split)

theorem State.takeOrKeep_kept (s : State) (k : Nat) (f : Flit) (hdr : Option (Addr × Nat)) (copy : Bool) (payload : List Byte)
    (put : State → Nat → List Byte → State) (h : Kept v₀ q₀ s)
    (hf : ∀ t a b, Kept v₀ q₀ t → Kept v₀ q₀ (put t a b)) : Kept v₀ q₀ (State.takeOrKeep s k f hdr copy payload put) := by
  unfold State.takeOrKeep
  split
  · exact State.modWard_kept _ _ _ h
  · exact State.takeWrite_kept _ _ _ _ _ _ h hf

theorem execFlitData_kept (l : Nat) (f : Flit) (chk : FlitCheck) (hdr : Option (Addr × Nat)) (payload : List Byte) (s : State) (h0 : Kept v₀ q₀ s) : KeptX v₀ q₀ (execFlitData l f chk hdr payload s) := by
  unfold execFlitData
  try dsimp only
  repeat' (first | (with_reducible first | assumption | apply KeptX.next | apply State.writeVa_kept | apply State.receive_kept | apply State.forward_kept | apply State.takeOrKeep_kept) | intro _ | fail_if_no_progress (with_reducible apply Kept.lit) | split | fail_if_no_progress dsimp only | fail_if_no_progress dsimp only [id])

theorem execFlitReadReq_kept (l : Nat) (f : Flit) (chk : FlitCheck) (hdr : Addr × Nat) (s : State) (h0 : Kept v₀ q₀ s) : KeptX v₀ q₀ (execFlitReadReq l f chk hdr s) := by
  unfold execFlitReadReq
  try dsimp only
  repeat' (first | (with_reducible first | assumption | apply KeptX.next | apply State.modLink_kept | apply State.readVa_kept | apply State.receive_kept | apply State.forward_kept | apply State.respond_kept) | (refine State.readVa_keptEq ?_ ‹_›) | intro _ | fail_if_no_progress (with_reducible apply Kept.lit) | split | fail_if_no_progress dsimp only | fail_if_no_progress dsimp only [id])

theorem execFlitResp_kept (l : Nat) (f : Flit) (chk : FlitCheck) (status : St) (payload : List Byte) (s : State) (h0 : Kept v₀ q₀ s) : KeptX v₀ q₀ (execFlitResp l f chk status payload s) := by
  unfold execFlitResp
  try dsimp only
  repeat' (first | (with_reducible first | assumption | apply KeptX.next | apply State.modLink_kept | apply State.wrBytes_kept | apply State.failRead_kept | apply State.failWrite_kept | apply State.receive_kept | apply State.forward_kept) | intro _ | fail_if_no_progress (with_reducible apply Kept.lit) | split | fail_if_no_progress dsimp only | fail_if_no_progress dsimp only [id])

theorem State.reduceInto_kept (s : State) (w : Nat) (c : Nat) (va : Nat) (copy : Bool) (b : List Byte) (h0 : Kept v₀ q₀ s) : Kept v₀ q₀ (State.reduceInto s w c va copy b) := by
  unfold State.reduceInto
  try dsimp only
  repeat' (first | (with_reducible first | assumption | apply Kept.forEach | apply State.readVa_kept | apply State.writeVa_kept) | (refine State.readVa_keptEq ?_ ‹_›) | intro _ | fail_if_no_progress (with_reducible apply Kept.lit) | split | fail_if_no_progress dsimp only | fail_if_no_progress dsimp only [id])

theorem State.reduceFlit_kept (s : State) (f : Flit) (copy : Bool) (va : Nat) (b : List Byte) (h0 : Kept v₀ q₀ s) : Kept v₀ q₀ (State.reduceFlit s f copy va b) := by
  unfold State.reduceFlit
  try dsimp only
  repeat' (first | (with_reducible first | assumption | apply State.reduceTook_kept | apply State.reduceInto_kept) | intro _ | fail_if_no_progress (with_reducible apply Kept.lit) | split | fail_if_no_progress dsimp only | fail_if_no_progress dsimp only [id])

theorem execFlitReduce_kept (l : Nat) (f : Flit) (chk : FlitCheck) (hdr : Option (Addr × Nat)) (copy : Bool) (payload : List Byte) (s : State) (h0 : Kept v₀ q₀ s) : KeptX v₀ q₀ (execFlitReduce l f chk hdr copy payload s) := by
  unfold execFlitReduce
  try dsimp only
  repeat' (first | (with_reducible first | assumption | apply KeptX.next | apply State.receive_kept | apply State.forward_kept | apply State.takeOrKeep_kept | apply State.reduceFlit_kept) | intro _ | fail_if_no_progress (with_reducible apply Kept.lit) | split | fail_if_no_progress dsimp only | fail_if_no_progress dsimp only [id])

theorem State.takeEarly_kept (s : State) (w : Nat) (h0 : Kept v₀ q₀ s) : Kept v₀ q₀ (State.takeEarly s w) := by
  unfold State.takeEarly
  try dsimp only
  repeat' (first | (with_reducible first | assumption | apply Kept.forEach | apply State.modLink_kept | apply State.modWard_kept | apply State.idleFlit_kept | apply State.writeVa_kept | apply State.takeWrite_kept | apply State.reduceFlit_kept) | intro _ | fail_if_no_progress (with_reducible apply Kept.lit) | split | fail_if_no_progress dsimp only | fail_if_no_progress dsimp only [id])

theorem execFlitMcast_kept (l : Nat) (f : Flit) (chk : FlitCheck) (hdr : Option (Addr × Nat)) (payload : List Byte) (s : State) (h0 : Kept v₀ q₀ s) : KeptX v₀ q₀ (execFlitMcast l f chk hdr payload s) := by
  unfold execFlitMcast
  try dsimp only
  repeat' (first | (with_reducible first | assumption | apply KeptX.next | apply State.mcSend_kept | apply State.writeVa_kept | apply State.receive_kept | apply State.badAddr_kept | apply State.takeWrite_kept) | intro _ | fail_if_no_progress (with_reducible apply Kept.lit) | split | fail_if_no_progress dsimp only | fail_if_no_progress dsimp only [id])

theorem execFlitIdle_kept (l : Nat) (f : Flit) (chk : FlitCheck) (s : State) (h0 : Kept v₀ q₀ s) : KeptX v₀ q₀ (execFlitIdle l f chk s) := by
  unfold execFlitIdle
  try dsimp only
  repeat' (first | (with_reducible first | assumption | apply KeptX.next | apply State.receive_kept) | intro _ | fail_if_no_progress (with_reducible apply Kept.lit) | split | fail_if_no_progress dsimp only | fail_if_no_progress dsimp only [id])

theorem State.linksOfDieDown_kept (s : State) (d : Nat) (h0 : Kept v₀ q₀ s) : Kept v₀ q₀ (State.linksOfDieDown s d) := by
  unfold State.linksOfDieDown
  try dsimp only
  repeat' (first | (with_reducible first | assumption | apply Kept.forEach | apply State.linkFail_kept | apply State.retrainDone_kept) | intro _ | fail_if_no_progress (with_reducible apply Kept.lit) | split | fail_if_no_progress dsimp only | fail_if_no_progress dsimp only [id])

theorem State.reportHalt_kept (s : State) (r : FRec) (h0 : Kept v₀ q₀ s) : Kept v₀ q₀ (State.reportHalt s r) := by
  unfold State.reportHalt
  try dsimp only
  repeat' (first | (with_reducible first | assumption | apply State.report_kept) | intro _ | fail_if_no_progress (with_reducible apply Kept.lit) | split | fail_if_no_progress dsimp only | fail_if_no_progress dsimp only [id])

theorem State.fenceDie_kept (s : State) (d : Nat) (cause : Nat) (h0 : Kept v₀ q₀ s) : Kept v₀ q₀ (State.fenceDie s d cause) := by
  unfold State.fenceDie
  try dsimp only
  repeat' (first | (with_reducible first | assumption | apply State.stopMarkers_kept | apply State.report_kept | apply State.resetByPoison_kept | apply State.linksOfDieDown_kept | apply State.reportHalt_kept) | intro _ | fail_if_no_progress (with_reducible apply Kept.lit) | split | fail_if_no_progress dsimp only | fail_if_no_progress dsimp only [id])

/-! ### Keys -/

theorem State.doKeyAlloc_kept (s : State) (x : OpCtx) (c : Nat) (h0 : Kept v₀ q₀ s) : Kept v₀ q₀ (State.doKeyAlloc s x c) := by
  unfold State.doKeyAlloc
  try dsimp only
  repeat' (first | (with_reducible first | assumption | apply State.modSlot_kept | apply State.complete_kept | apply State.freshKey_kept) | (refine State.freshKey_keptEq ?_ ‹_›) | intro _ | fail_if_no_progress (with_reducible apply Kept.lit) | split | fail_if_no_progress dsimp only | fail_if_no_progress dsimp only [id])

theorem execKeyAlloc_kept (src : Src) (c : Nat) (s : State) (h0 : Kept v₀ q₀ s) : KeptX v₀ q₀ (execKeyAlloc src c s) := by
  unfold execKeyAlloc
  try dsimp only
  repeat' (first | (with_reducible first | assumption | apply KeptX.next | apply State.command_kept | apply State.doKeyAlloc_kept) | intro _ | fail_if_no_progress (with_reducible apply Kept.lit) | split | fail_if_no_progress dsimp only | fail_if_no_progress dsimp only [id])

theorem State.doKeyRetire_kept (s : State) (x : OpCtx) (k : Nat) (h0 : Kept v₀ q₀ s) : Kept v₀ q₀ (State.doKeyRetire s x k) := by
  unfold State.doKeyRetire
  try dsimp only
  repeat' (first | (with_reducible first | assumption | apply State.complete_kept | apply State.retireKey_kept) | intro _ | fail_if_no_progress (with_reducible apply Kept.lit) | split | fail_if_no_progress dsimp only | fail_if_no_progress dsimp only [id])

theorem execKeyRetire_kept (src : Src) (slot : Nat) (s : State) (h0 : Kept v₀ q₀ s) : KeptX v₀ q₀ (execKeyRetire src slot s) := by
  unfold execKeyRetire
  try dsimp only
  repeat' (first | (with_reducible first | assumption | apply KeptX.next | apply State.command_kept | apply State.doKeyRetire_kept) | intro _ | fail_if_no_progress (with_reducible apply Kept.lit) | split | fail_if_no_progress dsimp only | fail_if_no_progress dsimp only [id])

theorem execKeyRetireComplete_kept (slot : Nat) (s : State) (h0 : Kept v₀ q₀ s) : KeptX v₀ q₀ (execKeyRetireComplete slot s) := by
  unfold execKeyRetireComplete
  try dsimp only
  repeat' (first | (with_reducible first | assumption | apply KeptX.next | apply State.complete_kept) | intro _ | fail_if_no_progress (with_reducible apply Kept.lit) | split | fail_if_no_progress dsimp only | fail_if_no_progress dsimp only [id])

theorem State.doKeyShare_kept (s : State) (x : OpCtx) (k : Nat) (c : Nat) (h0 : Kept v₀ q₀ s) : Kept v₀ q₀ (State.doKeyShare s x k c) := by
  unfold State.doKeyShare
  try dsimp only
  repeat' (first | (with_reducible first | assumption | apply State.modSlot_kept | apply State.complete_kept) | intro _ | fail_if_no_progress (with_reducible apply Kept.lit) | split | fail_if_no_progress dsimp only | fail_if_no_progress dsimp only [id])

theorem execKeyShare_kept (src : Src) (slot : Nat) (c : Nat) (s : State) (h0 : Kept v₀ q₀ s) : KeptX v₀ q₀ (execKeyShare src slot c s) := by
  unfold execKeyShare
  try dsimp only
  repeat' (first | (with_reducible first | assumption | apply KeptX.next | apply State.command_kept | apply State.doKeyShare_kept) | intro _ | fail_if_no_progress (with_reducible apply Kept.lit) | split | fail_if_no_progress dsimp only | fail_if_no_progress dsimp only [id])

theorem execQuarantineExpire_kept (slot : Nat) (s : State) (h0 : Kept v₀ q₀ s) : KeptX v₀ q₀ (execQuarantineExpire slot s) := by
  unfold execQuarantineExpire
  try dsimp only
  repeat' (first | (with_reducible first | assumption | apply KeptX.next | apply State.modSlot_kept | apply State.placeAll_kept) | intro _ | fail_if_no_progress (with_reducible apply Kept.lit) | split | fail_if_no_progress dsimp only | fail_if_no_progress dsimp only [id])

theorem execSecSlotPeekIdx_kept (r : Req) (v : W32) (s : State) (h0 : Kept v₀ q₀ s) : KeptX v₀ q₀ (execSecSlotPeekIdx r v s) := by
  unfold execSecSlotPeekIdx
  try dsimp only
  repeat' (first | (with_reducible first | assumption | apply KeptX.next | apply State.refuse_kept) | intro _ | fail_if_no_progress (with_reducible apply Kept.lit) | split | fail_if_no_progress dsimp only | fail_if_no_progress dsimp only [id])

theorem State.cmdWrite_kept (s : State) (jseq addr : Nat) (bs : List Byte) (h : Kept v₀ q₀ s) :
    ∀ t, State.cmdWrite s jseq addr bs = some t → Kept v₀ q₀ t := by
  intro t ht
  unfold State.cmdWrite at ht
  split at ht
  · cases ht
  · split at ht
    · cases ht
    · exact State.hostWrite_kept s _ _ _ _ h t ht

theorem State.cmdWrite_keptSome {s : State} {jseq : Nat} {addr : Nat} {bs : List Byte} {t : State} (h0 : Kept v₀ q₀ s) (hsome : (State.cmdWrite s jseq addr bs) = some t) : Kept v₀ q₀ t := State.cmdWrite_kept s jseq addr bs h0 t hsome

theorem State.doAttest_kept (s : State) (x : OpCtx) (c : Nat) (outlen : Nat) (out : W64) (keyOk : Bool) (nonce : BitVec 256) (h0 : Kept v₀ q₀ s) : Kept v₀ q₀ (State.doAttest s x c outlen out keyOk nonce) := by
  unfold State.doAttest
  try dsimp only
  repeat' (first | (with_reducible first | assumption | apply State.complete_kept) | intro _ | fail_if_no_progress (with_reducible apply Kept.lit) | split | fail_if_no_progress dsimp only | fail_if_no_progress dsimp only [id])

theorem execAttest_kept (src : Src) (c : Nat) (outlen : Nat) (request : W64) (out : W64) (keyOk : Bool) (nonce : BitVec 256) (s : State) (h0 : Kept v₀ q₀ s) : KeptX v₀ q₀ (execAttest src c outlen request out keyOk nonce s) := by
  unfold execAttest
  try dsimp only
  repeat' (first | (with_reducible first | assumption | apply KeptX.next | apply State.command_kept | apply State.doAttest_kept) | intro _ | fail_if_no_progress (with_reducible apply Kept.lit) | split | fail_if_no_progress dsimp only | fail_if_no_progress dsimp only [id])

theorem execAttestationSigned_kept (s : State) (h0 : Kept v₀ q₀ s) : KeptX v₀ q₀ (execAttestationSigned s) := by
  unfold execAttestationSigned
  try dsimp only
  repeat' (first | (with_reducible first | assumption | apply KeptX.next | apply State.complete_kept) | (refine State.cmdWrite_keptSome ?_ ‹_›) | intro _ | fail_if_no_progress (with_reducible apply Kept.lit) | split | fail_if_no_progress dsimp only | fail_if_no_progress dsimp only [id])

theorem State.doOwnerSet_kept (s : State) (x : OpCtx) (sigOk : Bool) (secver : Nat) (h0 : Kept v₀ q₀ s) : Kept v₀ q₀ (State.doOwnerSet s x sigOk secver) := by
  unfold State.doOwnerSet
  try dsimp only
  repeat' (first | (with_reducible first | assumption | apply State.complete_kept) | intro _ | fail_if_no_progress (with_reducible apply Kept.lit) | split | fail_if_no_progress dsimp only | fail_if_no_progress dsimp only [id])

theorem execOwnerSet_kept (src : Src) (record : W64) (length : Nat) (sigOk : Bool) (secver : Nat) (ownerId : BitVec 256) (s : State) (h0 : Kept v₀ q₀ s) : KeptX v₀ q₀ (execOwnerSet src record length sigOk secver ownerId s) := by
  unfold execOwnerSet
  try dsimp only
  repeat' (first | (with_reducible first | assumption | apply KeptX.next | apply State.command_kept | apply State.doOwnerSet_kept) | intro _ | fail_if_no_progress (with_reducible apply Kept.lit) | split | fail_if_no_progress dsimp only | fail_if_no_progress dsimp only [id])

theorem execOwnerRecordWritten_kept (ok0 : Bool) (ok1 : Bool) (s : State) (h0 : Kept v₀ q₀ s) : KeptX v₀ q₀ (execOwnerRecordWritten ok0 ok1 s) := by
  unfold execOwnerRecordWritten
  try dsimp only
  repeat' (first | (with_reducible first | assumption | apply KeptX.next | apply State.complete_kept) | intro _ | fail_if_no_progress (with_reducible apply Kept.lit) | split | fail_if_no_progress dsimp only | fail_if_no_progress dsimp only [id])

theorem State.doCertRead_kept (s : State) (x : OpCtx) (out : W64) (outlen : Nat) (h0 : Kept v₀ q₀ s) : Kept v₀ q₀ (State.doCertRead s x out outlen) := by
  unfold State.doCertRead
  try dsimp only
  repeat' (first | (with_reducible first | assumption | apply State.complete_kept) | (refine State.cmdWrite_keptSome ?_ ‹_›) | intro _ | fail_if_no_progress (with_reducible apply Kept.lit) | split | fail_if_no_progress dsimp only | fail_if_no_progress dsimp only [id])

theorem execCertRead_kept (src : Src) (out : W64) (outlen : Nat) (s : State) (h0 : Kept v₀ q₀ s) : KeptX v₀ q₀ (execCertRead src out outlen s) := by
  unfold execCertRead
  try dsimp only
  repeat' (first | (with_reducible first | assumption | apply KeptX.next | apply State.command_kept | apply State.doCertRead_kept) | intro _ | fail_if_no_progress (with_reducible apply Kept.lit) | split | fail_if_no_progress dsimp only | fail_if_no_progress dsimp only [id])

theorem State.doIdeKey_kept (s : State) (x : OpCtx) (port : Nat) (stream : Nat) (wrapOk : Bool) (h0 : Kept v₀ q₀ s) : Kept v₀ q₀ (State.doIdeKey s x port stream wrapOk) := by
  unfold State.doIdeKey
  try dsimp only
  repeat' (first | (with_reducible first | assumption | apply State.modPort_kept | apply State.complete_kept) | intro _ | fail_if_no_progress (with_reducible apply Kept.lit) | split | fail_if_no_progress dsimp only | fail_if_no_progress dsimp only [id])

theorem execIdeKey_kept (src : Src) (port : Nat) (stream : Nat) (request : W64) (wrapOk : Bool) (s : State) (h0 : Kept v₀ q₀ s) : KeptX v₀ q₀ (execIdeKey src port stream request wrapOk s) := by
  unfold execIdeKey
  try dsimp only
  repeat' (first | (with_reducible first | assumption | apply KeptX.next | apply State.command_kept | apply State.doIdeKey_kept) | intro _ | fail_if_no_progress (with_reducible apply Kept.lit) | split | fail_if_no_progress dsimp only | fail_if_no_progress dsimp only [id])

/-! ### Faults -/

theorem State.upsetRecord_kept (s : State) (u : Upset) (struct : Nat) (unit : Nat) (h0 : Kept v₀ q₀ s) : Kept v₀ q₀ (State.upsetRecord s u struct unit) := by
  unfold State.upsetRecord
  try dsimp only
  repeat' (first | (with_reducible first | assumption | apply State.report_kept) | intro _ | fail_if_no_progress (with_reducible apply Kept.lit) | split | fail_if_no_progress dsimp only | fail_if_no_progress dsimp only [id])

theorem State.upset_kept (s : State) (u : Upset) (h0 : Kept v₀ q₀ s) : Kept v₀ q₀ (State.upset s u) := by
  unfold State.upset
  try dsimp only
  repeat' (first | (with_reducible first | assumption | apply State.modTile_kept | apply State.notePoison_kept | apply State.poisonSec_kept | apply State.upsetRecord_kept) | intro _ | fail_if_no_progress (with_reducible apply Kept.lit) | split | fail_if_no_progress dsimp only | fail_if_no_progress dsimp only [id])

theorem execHeartbeat_kept (d : Nat) (b : Beat) (s : State) (h0 : Kept v₀ q₀ s) : KeptX v₀ q₀ (execHeartbeat d b s) := by
  unfold execHeartbeat
  try dsimp only
  repeat' (first | (with_reducible first | assumption | apply Kept.forEach | apply KeptX.next | apply State.upset_kept) | intro _ | fail_if_no_progress (with_reducible apply Kept.lit) | split | fail_if_no_progress dsimp only | fail_if_no_progress dsimp only [id])

theorem execWatchdogExpire_kept (d : Nat) (s : State) (h0 : Kept v₀ q₀ s) : KeptX v₀ q₀ (execWatchdogExpire d s) := by
  unfold execWatchdogExpire
  try dsimp only
  repeat' (first | (with_reducible first | assumption | apply KeptX.next | apply State.fenceDie_kept) | intro _ | fail_if_no_progress (with_reducible apply Kept.lit) | split | fail_if_no_progress dsimp only | fail_if_no_progress dsimp only [id])

theorem execControllerMemoryError_kept (d : Nat) (s : State) (h0 : Kept v₀ q₀ s) : KeptX v₀ q₀ (execControllerMemoryError d s) := by
  unfold execControllerMemoryError
  try dsimp only
  repeat' (first | (with_reducible first | assumption | apply KeptX.next | apply State.fenceDie_kept) | intro _ | fail_if_no_progress (with_reducible apply Kept.lit) | split | fail_if_no_progress dsimp only | fail_if_no_progress dsimp only [id])

theorem State.patrolRecord_kept (s : State) (w : Nat) (scope : Nat) (st : Byte) (h0 : Kept v₀ q₀ s) : Kept v₀ q₀ (State.patrolRecord s w scope st) := by
  unfold State.patrolRecord
  try dsimp only
  repeat' (first | (with_reducible first | assumption | apply State.report_kept) | intro _ | fail_if_no_progress (with_reducible apply Kept.lit) | split | fail_if_no_progress dsimp only | fail_if_no_progress dsimp only [id])

theorem execPatrolCycle_kept (w : Nat) (s : State) (h0 : Kept v₀ q₀ s) : KeptX v₀ q₀ (execPatrolCycle w s) := by
  unfold execPatrolCycle
  try dsimp only
  repeat' (first | (with_reducible first | assumption | apply KeptX.next | apply State.modWard_kept | apply State.patrolRecord_kept) | intro _ | fail_if_no_progress (with_reducible apply Kept.lit) | split | fail_if_no_progress dsimp only | fail_if_no_progress dsimp only [id])

theorem execPatrolRead_kept (w : Nat) (rep : HbmRep) (s : State) (h0 : Kept v₀ q₀ s) : KeptX v₀ q₀ (execPatrolRead w rep s) := by
  unfold execPatrolRead
  try dsimp only
  repeat' (first | (with_reducible first | assumption | apply KeptX.next | apply State.modWard_kept | apply State.jobFault_kept | apply State.readTag_kept | apply State.hbmReports_kept | apply State.patrolRecord_kept) | (refine State.readTag_keptEq ?_ ‹_›) | intro _ | fail_if_no_progress (with_reducible apply Kept.lit) | split | fail_if_no_progress dsimp only | fail_if_no_progress dsimp only [id])

theorem State.datagram_kept (s : State) (flags : Nat) (from' : Nat) (l : List Nat) (h0 : Kept v₀ q₀ s) : Kept v₀ q₀ (State.datagram s flags from' l) := by
  unfold State.datagram
  try dsimp only
  repeat' (first | (with_reducible first | assumption | apply State.emit_kept) | intro _ | fail_if_no_progress (with_reducible apply Kept.lit) | split | fail_if_no_progress dsimp only | fail_if_no_progress dsimp only [id])

theorem execSafelightSend_kept (s : State) (h0 : Kept v₀ q₀ s) : KeptX v₀ q₀ (execSafelightSend s) := by
  unfold execSafelightSend
  try dsimp only
  repeat' (first | (with_reducible first | assumption | apply KeptX.next | apply State.datagram_kept) | intro _ | fail_if_no_progress (with_reducible apply Kept.lit) | split | fail_if_no_progress dsimp only | fail_if_no_progress dsimp only [id])

theorem State.leaveFallback_kept (s : State) (h0 : Kept v₀ q₀ s) : Kept v₀ q₀ (State.leaveFallback s) := by
  unfold State.leaveFallback
  try dsimp only
  repeat' (first | (with_reducible first | assumption | apply Kept.forEach | apply State.datagram_kept) | intro _ | fail_if_no_progress (with_reducible apply Kept.lit) | split | fail_if_no_progress dsimp only | fail_if_no_progress dsimp only [id])

theorem execCollectorAck_kept (dev : W64) (ack : W64) (s : State) (h0 : Kept v₀ q₀ s) : KeptX v₀ q₀ (execCollectorAck dev ack s) := by
  unfold execCollectorAck
  try dsimp only
  repeat' (first | (with_reducible first | assumption | apply KeptX.next | apply State.leaveFallback_kept) | intro _ | fail_if_no_progress (with_reducible apply Kept.lit) | split | fail_if_no_progress dsimp only | fail_if_no_progress dsimp only [id])

theorem execResendTimer_kept (seq : Nat) (s : State) (h0 : Kept v₀ q₀ s) : KeptX v₀ q₀ (execResendTimer seq s) := by
  unfold execResendTimer
  try dsimp only
  repeat' (first | (with_reducible first | assumption | apply KeptX.next | apply State.datagram_kept) | intro _ | fail_if_no_progress (with_reducible apply Kept.lit) | split | fail_if_no_progress dsimp only | fail_if_no_progress dsimp only [id])

theorem State.enterFallback_kept (s : State) (h0 : Kept v₀ q₀ s) : Kept v₀ q₀ (State.enterFallback s) := by
  unfold State.enterFallback
  try dsimp only
  repeat' (first | (with_reducible first | assumption) | intro _ | fail_if_no_progress (with_reducible apply Kept.lit) | split | fail_if_no_progress dsimp only | fail_if_no_progress dsimp only [id])

theorem execAliveExpire_kept (s : State) (h0 : Kept v₀ q₀ s) : KeptX v₀ q₀ (execAliveExpire s) := by
  unfold execAliveExpire
  try dsimp only
  repeat' (first | (with_reducible first | assumption | apply KeptX.next | apply State.enterFallback_kept) | intro _ | fail_if_no_progress (with_reducible apply Kept.lit) | split | fail_if_no_progress dsimp only | fail_if_no_progress dsimp only [id])

theorem execPcsSyncLoss_kept (s : State) (h0 : Kept v₀ q₀ s) : KeptX v₀ q₀ (execPcsSyncLoss s) := by
  unfold execPcsSyncLoss
  try dsimp only
  repeat' (first | (with_reducible first | assumption | apply KeptX.next | apply State.enterFallback_kept) | intro _ | fail_if_no_progress (with_reducible apply Kept.lit) | split | fail_if_no_progress dsimp only | fail_if_no_progress dsimp only [id])

theorem execPcsSync_kept (s : State) (h0 : Kept v₀ q₀ s) : KeptX v₀ q₀ (execPcsSync s) := by
  unfold execPcsSync
  try dsimp only
  repeat' (first | (with_reducible first | assumption | apply KeptX.next) | intro _ | fail_if_no_progress (with_reducible apply Kept.lit) | split | fail_if_no_progress dsimp only | fail_if_no_progress dsimp only [id])

theorem execSafRingIdx_kept (r : Req) (v : W64) (s : State) (h0 : Kept v₀ q₀ s) : KeptX v₀ q₀ (execSafRingIdx r v s) := by
  unfold execSafRingIdx
  try dsimp only
  repeat' (first | (with_reducible first | assumption | apply KeptX.next | apply State.refuse_kept) | intro _ | fail_if_no_progress (with_reducible apply Kept.lit) | split | fail_if_no_progress dsimp only | fail_if_no_progress dsimp only [id])

theorem execArpRequest_kept (targetMatches : Bool) (s : State) (h0 : Kept v₀ q₀ s) : KeptX v₀ q₀ (execArpRequest targetMatches s) := by
  unfold execArpRequest
  try dsimp only
  repeat' (first | (with_reducible first | assumption | apply KeptX.next | apply State.emit_kept) | intro _ | fail_if_no_progress (with_reducible apply Kept.lit) | split | fail_if_no_progress dsimp only | fail_if_no_progress dsimp only [id])

theorem execNeighbourSolicitation_kept (targetMatches : Bool) (s : State) (h0 : Kept v₀ q₀ s) : KeptX v₀ q₀ (execNeighbourSolicitation targetMatches s) := by
  unfold execNeighbourSolicitation
  try dsimp only
  repeat' (first | (with_reducible first | assumption | apply KeptX.next | apply State.emit_kept) | intro _ | fail_if_no_progress (with_reducible apply Kept.lit) | split | fail_if_no_progress dsimp only | fail_if_no_progress dsimp only [id])

theorem execIcmpEcho_kept (ident : Nat) (seq : Nat) (data : List Byte) (s : State) (h0 : Kept v₀ q₀ s) : KeptX v₀ q₀ (execIcmpEcho ident seq data s) := by
  unfold execIcmpEcho
  try dsimp only
  repeat' (first | (with_reducible first | assumption | apply KeptX.next | apply State.emit_kept) | intro _ | fail_if_no_progress (with_reducible apply Kept.lit) | split | fail_if_no_progress dsimp only | fail_if_no_progress dsimp only [id])

theorem execEntdaa_kept (da : BitVec 7) (s : State) (h0 : Kept v₀ q₀ s) : KeptX v₀ q₀ (execEntdaa da s) := by
  unfold execEntdaa
  try dsimp only
  repeat' (first | (with_reducible first | assumption | apply KeptX.next) | intro _ | fail_if_no_progress (with_reducible apply Kept.lit) | split | fail_if_no_progress dsimp only | fail_if_no_progress dsimp only [id])

theorem execSetEndpointId_kept (eid : Byte) (s : State) (h0 : Kept v₀ q₀ s) : KeptX v₀ q₀ (execSetEndpointId eid s) := by
  unfold execSetEndpointId
  try dsimp only
  repeat' (first | (with_reducible first | assumption | apply KeptX.next) | intro _ | fail_if_no_progress (with_reducible apply Kept.lit) | split | fail_if_no_progress dsimp only | fail_if_no_progress dsimp only [id])

theorem execGetEndpointId_kept (s : State) (h0 : Kept v₀ q₀ s) : KeptX v₀ q₀ (execGetEndpointId s) := by
  unfold execGetEndpointId
  try dsimp only
  repeat' (first | (with_reducible first | assumption | apply KeptX.next | apply State.emit_kept) | intro _ | fail_if_no_progress (with_reducible apply Kept.lit) | split | fail_if_no_progress dsimp only | fail_if_no_progress dsimp only [id])

theorem execGetMessageTypeSupport_kept (s : State) (h0 : Kept v₀ q₀ s) : KeptX v₀ q₀ (execGetMessageTypeSupport s) := by
  unfold execGetMessageTypeSupport
  try dsimp only
  repeat' (first | (with_reducible first | assumption | apply KeptX.next | apply State.emit_kept) | intro _ | fail_if_no_progress (with_reducible apply Kept.lit) | split | fail_if_no_progress dsimp only | fail_if_no_progress dsimp only [id])

theorem execPldmSensorRead_kept (sensor : Nat) (s : State) (h0 : Kept v₀ q₀ s) : KeptX v₀ q₀ (execPldmSensorRead sensor s) := by
  unfold execPldmSensorRead
  try dsimp only
  repeat' (first | (with_reducible first | assumption | apply KeptX.next | apply State.emit_kept) | intro _ | fail_if_no_progress (with_reducible apply Kept.lit) | split | fail_if_no_progress dsimp only | fail_if_no_progress dsimp only [id])

theorem execReadCompactRecords_kept (first : Nat) (count : Nat) (s : State) (h0 : Kept v₀ q₀ s) : KeptX v₀ q₀ (execReadCompactRecords first count s) := by
  unfold execReadCompactRecords
  try dsimp only
  repeat' (first | (with_reducible first | assumption | apply KeptX.next | apply State.emit_kept) | intro _ | fail_if_no_progress (with_reducible apply Kept.lit) | split | fail_if_no_progress dsimp only | fail_if_no_progress dsimp only [id])

theorem execReadStatusRegisters_kept (s : State) (h0 : Kept v₀ q₀ s) : KeptX v₀ q₀ (execReadStatusRegisters s) := by
  unfold execReadStatusRegisters
  try dsimp only
  repeat' (first | (with_reducible first | assumption | apply KeptX.next | apply State.emit_kept) | intro _ | fail_if_no_progress (with_reducible apply Kept.lit) | split | fail_if_no_progress dsimp only | fail_if_no_progress dsimp only [id])

theorem execRecordEventEnable_kept (on : Bool) (s : State) (h0 : Kept v₀ q₀ s) : KeptX v₀ q₀ (execRecordEventEnable on s) := by
  unfold execRecordEventEnable
  try dsimp only
  repeat' (first | (with_reducible first | assumption | apply KeptX.next) | intro _ | fail_if_no_progress (with_reducible apply Kept.lit) | split | fail_if_no_progress dsimp only | fail_if_no_progress dsimp only [id])

/-! ### Boot -/

theorem State.afterReset_kept (s : State) (life : Life) (h : Kept v₀ q₀ s) : Kept v₀ q₀ (State.afterReset s life) :=
  ⟨h.1, h.2.1, Tab.wf_filter (0 : Byte) s.mem _ h.2.2⟩

theorem State.bootFailed_kept (s : State) (b : BootIn) (f : BootFail) (h0 : Kept v₀ q₀ s) : Kept v₀ q₀ (State.bootFailed s b f) := by
  unfold State.bootFailed
  try dsimp only
  repeat' (first | (with_reducible first | assumption | apply State.report_kept) | intro _ | fail_if_no_progress (with_reducible apply Kept.lit) | split | fail_if_no_progress dsimp only | fail_if_no_progress dsimp only [id])

theorem State.bootDone_kept (s : State) (b : BootIn) (n : Boot) (h0 : Kept v₀ q₀ s) : Kept v₀ q₀ (State.bootDone s b n) := by
  unfold State.bootDone
  try dsimp only
  repeat' (first | (with_reducible first | assumption | apply Kept.foldl | apply Kept.foldlFst | apply Kept.foldlSnd | apply Kept.foldlD | apply Kept.foldlP2 | apply Kept.foldlD1 | apply State.freshKey_kept) | (refine State.freshKey_keptEq ?_ ‹_›) | intro _ | fail_if_no_progress (with_reducible apply Kept.lit) | split | fail_if_no_progress dsimp only | fail_if_no_progress dsimp only [id])

theorem State.bootUp_kept (s : State) (b : BootIn) (h0 : Kept v₀ q₀ s) : Kept v₀ q₀ (State.bootUp s b) := by
  unfold State.bootUp
  try dsimp only
  repeat' (first | (with_reducible first | assumption | apply State.bootFailed_kept | apply State.bootDone_kept) | intro _ | fail_if_no_progress (with_reducible apply Kept.lit) | split | fail_if_no_progress dsimp only | fail_if_no_progress dsimp only [id])

theorem execPowerOn_kept (b : BootIn) (s : State) (h0 : Kept v₀ q₀ s) : KeptX v₀ q₀ (execPowerOn b s) := by
  unfold execPowerOn
  try dsimp only
  repeat' (first | (with_reducible first | assumption | apply KeptX.next | apply State.afterReset_kept | apply State.bootUp_kept) | intro _ | fail_if_no_progress (with_reducible apply Kept.lit) | split | fail_if_no_progress dsimp only | fail_if_no_progress dsimp only [id])

theorem execBootFailResend_kept (s : State) (h0 : Kept v₀ q₀ s) : KeptX v₀ q₀ (execBootFailResend s) := by
  unfold execBootFailResend
  try dsimp only
  repeat' (first | (with_reducible first | assumption | apply KeptX.next | apply State.datagram_kept | apply State.bootFailed_kept) | intro _ | fail_if_no_progress (with_reducible apply Kept.lit) | split | fail_if_no_progress dsimp only | fail_if_no_progress dsimp only [id])

theorem execResetNAssert_kept (s : State) (h0 : Kept v₀ q₀ s) : KeptX v₀ q₀ (execResetNAssert s) := by
  unfold execResetNAssert
  try dsimp only
  repeat' (first | (with_reducible first | assumption | apply KeptX.next | apply State.reset_kept | apply State.afterReset_kept) | intro _ | fail_if_no_progress (with_reducible apply Kept.lit) | split | fail_if_no_progress dsimp only | fail_if_no_progress dsimp only [id])

theorem execResetNRelease_kept (b : BootIn) (s : State) (h0 : Kept v₀ q₀ s) : KeptX v₀ q₀ (execResetNRelease b s) := by
  unfold execResetNRelease
  try dsimp only
  repeat' (first | (with_reducible first | assumption | apply KeptX.next | apply State.reset_kept | apply State.bootUp_kept) | intro _ | fail_if_no_progress (with_reducible apply Kept.lit) | split | fail_if_no_progress dsimp only | fail_if_no_progress dsimp only [id])

theorem State.startFlash_kept (s : State) (img : StagedIn) (other : ImgCopy) (h0 : Kept v₀ q₀ s) : Kept v₀ q₀ (State.startFlash s img other) := by
  unfold State.startFlash
  try dsimp only
  repeat' (first | (with_reducible first | assumption | apply State.refuse_kept) | intro _ | fail_if_no_progress (with_reducible apply Kept.lit) | split | fail_if_no_progress dsimp only | fail_if_no_progress dsimp only [id])

theorem execFlashWrite_kept (r : Req) (a : RegW) (img : StagedIn) (other : ImgCopy) (s : State) (h0 : Kept v₀ q₀ s) : KeptX v₀ q₀ (execFlashWrite r a img other s) := by
  unfold execFlashWrite
  try dsimp only
  repeat' (first | (with_reducible first | assumption | apply KeptX.next | apply State.refuse_kept | apply State.startFlash_kept) | intro _ | fail_if_no_progress (with_reducible apply Kept.lit) | split | fail_if_no_progress dsimp only | fail_if_no_progress dsimp only [id])

theorem execFlashWriteComplete_kept (compareOk : Bool) (s : State) (h0 : Kept v₀ q₀ s) : KeptX v₀ q₀ (execFlashWriteComplete compareOk s) := by
  unfold execFlashWriteComplete
  try dsimp only
  repeat' (first | (with_reducible first | assumption | apply KeptX.next) | intro _ | fail_if_no_progress (with_reducible apply Kept.lit) | split | fail_if_no_progress dsimp only | fail_if_no_progress dsimp only [id])

theorem State.episodeRecord_kept (s : State) (event : Nat) (e : Episode) (h0 : Kept v₀ q₀ s) : Kept v₀ q₀ (State.episodeRecord s event e) := by
  unfold State.episodeRecord
  try dsimp only
  repeat' (first | (with_reducible first | assumption | apply State.report_kept | apply State.event_kept) | intro _ | fail_if_no_progress (with_reducible apply Kept.lit) | split | fail_if_no_progress dsimp only | fail_if_no_progress dsimp only [id])

theorem execSupplySample_kept (vin10mV : Nat) (s : State) (h0 : Kept v₀ q₀ s) : KeptX v₀ q₀ (execSupplySample vin10mV s) := by
  unfold execSupplySample
  try dsimp only
  repeat' (first | (with_reducible first | assumption | apply KeptX.next | apply State.episodeRecord_kept) | intro _ | fail_if_no_progress (with_reducible apply Kept.lit) | split | fail_if_no_progress dsimp only | fail_if_no_progress dsimp only [id])

theorem execPowerLimitTick_kept (avg10ms : Nat) (avg1s : Nat) (dies : Tab Nat) (hundred : Bool) (s : State) (h0 : Kept v₀ q₀ s) : KeptX v₀ q₀ (execPowerLimitTick avg10ms avg1s dies hundred s) := by
  unfold execPowerLimitTick
  try dsimp only
  repeat' (first | (with_reducible first | assumption | apply KeptX.next | apply State.episodeRecord_kept) | intro _ | fail_if_no_progress (with_reducible apply Kept.lit) | split | fail_if_no_progress dsimp only | fail_if_no_progress dsimp only [id])

theorem execThermalTick_kept (dies : Tab Int) (inlet : Int) (outlet : Int) (ten : Bool) (s : State) (h0 : Kept v₀ q₀ s) : KeptX v₀ q₀ (execThermalTick dies inlet outlet ten s) := by
  unfold execThermalTick
  try dsimp only
  repeat' (first | (with_reducible first | assumption | apply Kept.foldl | apply Kept.foldlFst | apply Kept.foldlSnd | apply Kept.foldlD | apply Kept.foldlP2 | apply Kept.foldlD1 | apply KeptX.next | apply State.episodeRecord_kept) | intro _ | fail_if_no_progress (with_reducible apply Kept.lit) | split | fail_if_no_progress dsimp only | fail_if_no_progress dsimp only [id])

theorem State.stopWard_kept (s : State) (w : Nat) (h0 : Kept v₀ q₀ s) : Kept v₀ q₀ (State.stopWard s w) := by
  unfold State.stopWard
  try dsimp only
  repeat' (first | (with_reducible first | assumption | apply Kept.forEach | apply State.setSq_kept | apply State.dropTraining_kept | apply State.stopJob_kept) | intro _ | fail_if_no_progress (with_reducible apply Kept.lit) | split | fail_if_no_progress dsimp only | fail_if_no_progress dsimp only [id])

theorem State.orderedStop_kept (s : State) (event : Nat) (sensor : Nat) (us : Nat) (h0 : Kept v₀ q₀ s) : Kept v₀ q₀ (State.orderedStop s event sensor us) := by
  unfold State.orderedStop
  try dsimp only
  repeat' (first | (with_reducible first | assumption | apply Kept.forEach | apply State.stopMarkers_kept | apply State.report_kept | apply State.event_kept | apply State.squashRun_kept | apply State.datagram_kept | apply State.stopWard_kept) | intro _ | fail_if_no_progress (with_reducible apply Kept.lit) | split | fail_if_no_progress dsimp only | fail_if_no_progress dsimp only [id])

theorem execStopTimerExpire_kept (s : State) (h0 : Kept v₀ q₀ s) : KeptX v₀ q₀ (execStopTimerExpire s) := by
  unfold execStopTimerExpire
  try dsimp only
  repeat' (first | (with_reducible first | assumption | apply KeptX.next | apply State.orderedStop_kept) | intro _ | fail_if_no_progress (with_reducible apply Kept.lit) | split | fail_if_no_progress dsimp only | fail_if_no_progress dsimp only [id])

theorem execOvervoltageTimeout_kept (s : State) (h0 : Kept v₀ q₀ s) : KeptX v₀ q₀ (execOvervoltageTimeout s) := by
  unfold execOvervoltageTimeout
  try dsimp only
  repeat' (first | (with_reducible first | assumption | apply KeptX.next | apply State.orderedStop_kept) | intro _ | fail_if_no_progress (with_reducible apply Kept.lit) | split | fail_if_no_progress dsimp only | fail_if_no_progress dsimp only [id])

theorem execDieOvertemp_kept (d : Nat) (s : State) (h0 : Kept v₀ q₀ s) : KeptX v₀ q₀ (execDieOvertemp d s) := by
  unfold execDieOvertemp
  try dsimp only
  repeat' (first | (with_reducible first | assumption | apply KeptX.next | apply State.orderedStop_kept) | intro _ | fail_if_no_progress (with_reducible apply Kept.lit) | split | fail_if_no_progress dsimp only | fail_if_no_progress dsimp only [id])

theorem execOutletOvertemp_kept (s : State) (h0 : Kept v₀ q₀ s) : KeptX v₀ q₀ (execOutletOvertemp s) := by
  unfold execOutletOvertemp
  try dsimp only
  repeat' (first | (with_reducible first | assumption | apply KeptX.next | apply State.orderedStop_kept) | intro _ | fail_if_no_progress (with_reducible apply Kept.lit) | split | fail_if_no_progress dsimp only | fail_if_no_progress dsimp only [id])

theorem execRailSwitchOff_kept (s : State) (h0 : Kept v₀ q₀ s) : KeptX v₀ q₀ (execRailSwitchOff s) := by
  unfold execRailSwitchOff
  try dsimp only
  repeat' (first | (with_reducible first | assumption | apply KeptX.next | apply State.afterReset_kept) | intro _ | fail_if_no_progress (with_reducible apply Kept.lit) | split | fail_if_no_progress dsimp only | fail_if_no_progress dsimp only [id])

theorem execAutoReset_kept (b : BootIn) (s : State) (h0 : Kept v₀ q₀ s) : KeptX v₀ q₀ (execAutoReset b s) := by
  unfold execAutoReset
  try dsimp only
  repeat' (first | (with_reducible first | assumption | apply KeptX.next | apply State.afterReset_kept | apply State.bootUp_kept) | intro _ | fail_if_no_progress (with_reducible apply Kept.lit) | split | fail_if_no_progress dsimp only | fail_if_no_progress dsimp only [id])

/-! ### Regs -/

theorem State.writeUpd_kept (s : State) (d : Nat) (a : RegW) (h0 : Kept v₀ q₀ s) : Kept v₀ q₀ (State.writeUpd s d a) := by
  unfold State.writeUpd
  try dsimp only
  repeat' (first | (with_reducible first | assumption | apply State.modUpd_kept) | intro _ | fail_if_no_progress (with_reducible apply Kept.lit) | split | fail_if_no_progress dsimp only | fail_if_no_progress dsimp only [id])

theorem State.writeDie_kept (s : State) (d : Nat) (o : Nat) (a : RegW) (h0 : Kept v₀ q₀ s) : Kept v₀ q₀ (State.writeDie s d o a) := by
  unfold State.writeDie
  try dsimp only
  repeat' (first | (with_reducible first | assumption | apply State.modTile_kept | apply State.modChan_kept | apply State.writeUpd_kept) | intro _ | fail_if_no_progress (with_reducible apply Kept.lit) | split | fail_if_no_progress dsimp only | fail_if_no_progress dsimp only [id])

theorem State.writeModule_kept (s : State) (a : RegW) (h : Kept v₀ q₀ s) : Kept v₀ q₀ (State.writeModule s a) := by
  have e : ∀ (p : Prop) [Decidable p] (x y : State), Kept v₀ q₀ x → Kept v₀ q₀ y → Kept v₀ q₀ (if p then x else y) := by
    intro p _ x y hx hy
    split
    · exact hx
    · exact hy
  have l : ∀ {t : State}, t.variant = s.variant → t.pending = s.pending → t.mem = s.mem → Kept v₀ q₀ t :=
    fun h1 h2 h3 => Kept.of h h1 h2 h3
  unfold State.writeModule
  dsimp only
  repeat' (first | exact l rfl rfl rfl | with_reducible apply e)

theorem State.writeFunc_kept (s : State) (r : Req) (a : RegW) (h0 : Kept v₀ q₀ s) : Kept v₀ q₀ (State.writeFunc s r a) := by
  unfold State.writeFunc
  try dsimp only
  repeat' (first | (with_reducible first | assumption | apply State.modRing_kept | apply State.modFunc_kept) | intro _ | fail_if_no_progress (with_reducible apply Kept.lit) | split | fail_if_no_progress dsimp only | fail_if_no_progress dsimp only [id])

theorem execRegisterWrite_kept (r : Req) (a : RegW) (s : State) (h0 : Kept v₀ q₀ s) : KeptX v₀ q₀ (execRegisterWrite r a s) := by
  unfold execRegisterWrite
  try dsimp only
  repeat' (first | (with_reducible first | assumption | apply KeptX.next | apply State.modWard_kept | apply State.refuse_kept | apply State.writeDie_kept | apply State.writeModule_kept | apply State.writeFunc_kept) | intro _ | fail_if_no_progress (with_reducible apply Kept.lit) | split | fail_if_no_progress dsimp only | fail_if_no_progress dsimp only [id])

theorem execRegisterReadRefused_kept (r : Req) (off : Nat) (s : State) (h0 : Kept v₀ q₀ s) : KeptX v₀ q₀ (execRegisterReadRefused r off s) := by
  unfold execRegisterReadRefused
  try dsimp only
  repeat' (first | (with_reducible first | assumption | apply KeptX.next | apply State.refuse_kept) | intro _ | fail_if_no_progress (with_reducible apply Kept.lit) | split | fail_if_no_progress dsimp only | fail_if_no_progress dsimp only [id])

theorem execSqTailWrite_kept (r : Req) (ring : Nat) (v : W16) (s : State) (h0 : Kept v₀ q₀ s) : KeptX v₀ q₀ (execSqTailWrite r ring v s) := by
  unfold execSqTailWrite
  try dsimp only
  repeat' (first | (with_reducible first | assumption | apply KeptX.next | apply State.modRing_kept) | intro _ | fail_if_no_progress (with_reducible apply Kept.lit) | split | fail_if_no_progress dsimp only | fail_if_no_progress dsimp only [id])

theorem execCqHeadWrite_kept (r : Req) (ring : Nat) (v : W16) (s : State) (h0 : Kept v₀ q₀ s) : KeptX v₀ q₀ (execCqHeadWrite r ring v s) := by
  unfold execCqHeadWrite
  try dsimp only
  repeat' (first | (with_reducible first | assumption | apply KeptX.next | apply State.modRing_kept | apply State.drainCq_kept) | intro _ | fail_if_no_progress (with_reducible apply Kept.lit) | split | fail_if_no_progress dsimp only | fail_if_no_progress dsimp only [id])

theorem execRingCtlWrite_kept (r : Req) (ring : Nat) (v : W32) (s : State) (h0 : Kept v₀ q₀ s) : KeptX v₀ q₀ (execRingCtlWrite r ring v s) := by
  unfold execRingCtlWrite
  try dsimp only
  repeat' (first | (with_reducible first | assumption | apply KeptX.next | apply State.modRing_kept | apply State.ringError_kept) | intro _ | fail_if_no_progress (with_reducible apply Kept.lit) | split | fail_if_no_progress dsimp only | fail_if_no_progress dsimp only [id])

theorem execMsixUnmask_kept (r : Req) (vec : Nat) (s : State) (h0 : Kept v₀ q₀ s) : KeptX v₀ q₀ (execMsixUnmask r vec s) := by
  unfold execMsixUnmask
  try dsimp only
  repeat' (first | (with_reducible first | assumption | apply KeptX.next | apply State.modFunc_kept | apply State.emit_kept | apply State.msix_kept) | intro _ | fail_if_no_progress (with_reducible apply Kept.lit) | split | fail_if_no_progress dsimp only | fail_if_no_progress dsimp only [id])

/-! ### Pcie -/

theorem State.failHost_kept (s : State) (w : Nat) (h0 : Kept v₀ q₀ s) : Kept v₀ q₀ (State.failHost s w).1 := by
  unfold State.failHost
  try dsimp only
  repeat' (first | (with_reducible first | assumption | apply Kept.foldl | apply Kept.foldlFst | apply Kept.foldlSnd | apply Kept.foldlD | apply Kept.foldlP2 | apply Kept.foldlD1 | apply State.failAccess_kept | apply State.devEnd_kept) | intro _ | fail_if_no_progress (with_reducible apply Kept.lit) | split | fail_if_no_progress dsimp only | fail_if_no_progress dsimp only [id])

theorem State.failHost_keptEq {s : State} {w : Nat} {x} {y} (h0 : Kept v₀ q₀ s) (e : (State.failHost s w) = (x, y)) : Kept v₀ q₀ x := by
  have e' := congrArg Prod.fst e
  dsimp only at e'
  subst e'
  exact State.failHost_kept s w h0

theorem State.clearFunc_kept (s : State) (port : Nat) (func : Nat) (inFlr : Bool) (h0 : Kept v₀ q₀ s) : Kept v₀ q₀ (State.clearFunc s port func inFlr) := by
  unfold State.clearFunc
  try dsimp only
  repeat' (first | (with_reducible first | assumption | apply State.dropRings_kept) | intro _ | fail_if_no_progress (with_reducible apply Kept.lit) | split | fail_if_no_progress dsimp only | fail_if_no_progress dsimp only [id])

theorem State.vfFlr_kept (s : State) (port : Nat) (vf : Nat) (h0 : Kept v₀ q₀ s) : Kept v₀ q₀ (State.vfFlr s port vf) := by
  unfold State.vfFlr
  try dsimp only
  repeat' (first | (with_reducible first | assumption | apply State.modWard_kept | apply State.clearFunc_kept) | intro _ | fail_if_no_progress (with_reducible apply Kept.lit) | split | fail_if_no_progress dsimp only | fail_if_no_progress dsimp only [id])

theorem execVfFlr_kept (port : Nat) (vf : Nat) (s : State) (h0 : Kept v₀ q₀ s) : KeptX v₀ q₀ (execVfFlr port vf s) := by
  unfold execVfFlr
  try dsimp only
  repeat' (first | (with_reducible first | assumption | apply KeptX.next | apply State.vfFlr_kept) | intro _ | fail_if_no_progress (with_reducible apply Kept.lit) | split | fail_if_no_progress dsimp only | fail_if_no_progress dsimp only [id])

theorem execFlrDrainTimeout_kept (port : Nat) (vf : Nat) (drained : Nat) (s : State) (h0 : Kept v₀ q₀ s) : KeptX v₀ q₀ (execFlrDrainTimeout port vf drained s) := by
  unfold execFlrDrainTimeout
  try dsimp only
  repeat' (first | (with_reducible first | assumption | apply KeptX.next | apply State.modWard_kept | apply State.modFunc_kept | apply State.failHost_kept) | (refine State.failHost_keptEq ?_ ‹_›) | intro _ | fail_if_no_progress (with_reducible apply Kept.lit) | split | fail_if_no_progress dsimp only | fail_if_no_progress dsimp only [id])

theorem execPf0Flr_kept (port : Nat) (s : State) (h0 : Kept v₀ q₀ s) : KeptX v₀ q₀ (execPf0Flr port s) := by
  unfold execPf0Flr
  try dsimp only
  repeat' (first | (with_reducible first | assumption | apply KeptX.next | apply State.clearFunc_kept) | intro _ | fail_if_no_progress (with_reducible apply Kept.lit) | split | fail_if_no_progress dsimp only | fail_if_no_progress dsimp only [id])

theorem execPerst_kept (port : Nat) (s : State) (h0 : Kept v₀ q₀ s) : KeptX v₀ q₀ (execPerst port s) := by
  unfold execPerst
  try dsimp only
  repeat' (first | (with_reducible first | assumption | apply Kept.forEach | apply KeptX.next | apply State.modPort_kept | apply State.clearFunc_kept | apply State.vfFlr_kept) | intro _ | fail_if_no_progress (with_reducible apply Kept.lit) | split | fail_if_no_progress dsimp only | fail_if_no_progress dsimp only [id])

theorem execPerstRelease_kept (port : Nat) (s : State) (h0 : Kept v₀ q₀ s) : KeptX v₀ q₀ (execPerstRelease port s) := by
  unfold execPerstRelease
  try dsimp only
  repeat' (first | (with_reducible first | assumption | apply KeptX.next | apply State.modPort_kept) | intro _ | fail_if_no_progress (with_reducible apply Kept.lit) | split | fail_if_no_progress dsimp only | fail_if_no_progress dsimp only [id])

theorem execPcieLinkUp_kept (port : Nat) (rate : Nat) (width : Nat) (s : State) (h0 : Kept v₀ q₀ s) : KeptX v₀ q₀ (execPcieLinkUp port rate width s) := by
  unfold execPcieLinkUp
  try dsimp only
  repeat' (first | (with_reducible first | assumption | apply KeptX.next | apply State.modPort_kept) | intro _ | fail_if_no_progress (with_reducible apply Kept.lit) | split | fail_if_no_progress dsimp only | fail_if_no_progress dsimp only [id])

theorem execPcieLinkDown_kept (port : Nat) (s : State) (h0 : Kept v₀ q₀ s) : KeptX v₀ q₀ (execPcieLinkDown port s) := by
  unfold execPcieLinkDown
  try dsimp only
  repeat' (first | (with_reducible first | assumption | apply Kept.forEach | apply KeptX.next | apply State.modPort_kept | apply State.failHost_kept) | (refine State.failHost_keptEq ?_ ‹_›) | intro _ | fail_if_no_progress (with_reducible apply Kept.lit) | split | fail_if_no_progress dsimp only | fail_if_no_progress dsimp only [id])

theorem execBusMasterEnableWrite_kept (r : Req) (on : Bool) (s : State) (h0 : Kept v₀ q₀ s) : KeptX v₀ q₀ (execBusMasterEnableWrite r on s) := by
  unfold execBusMasterEnableWrite
  try dsimp only
  repeat' (first | (with_reducible first | assumption | apply KeptX.next | apply State.modFunc_kept | apply State.failHost_kept) | (refine State.failHost_keptEq ?_ ‹_›) | intro _ | fail_if_no_progress (with_reducible apply Kept.lit) | split | fail_if_no_progress dsimp only | fail_if_no_progress dsimp only [id])

theorem State.doJournalRead_kept (s : State) (x : OpCtx) (first : Nat) (count : Nat) (dst : Nat) (h0 : Kept v₀ q₀ s) : Kept v₀ q₀ (State.doJournalRead s x first count dst) := by
  unfold State.doJournalRead
  try dsimp only
  repeat' (first | (with_reducible first | assumption | apply State.complete_kept) | (refine State.hostWrite_keptSome ?_ ‹_›) | intro _ | fail_if_no_progress (with_reducible apply Kept.lit) | split | fail_if_no_progress dsimp only | fail_if_no_progress dsimp only [id])

theorem execJournalRead_kept (src : Src) (first : W64) (count : Nat) (dst : W64) (s : State) (h0 : Kept v₀ q₀ s) : KeptX v₀ q₀ (execJournalRead src first count dst s) := by
  unfold execJournalRead
  try dsimp only
  repeat' (first | (with_reducible first | assumption | apply KeptX.next | apply State.command_kept | apply State.doJournalRead_kept) | intro _ | fail_if_no_progress (with_reducible apply Kept.lit) | split | fail_if_no_progress dsimp only | fail_if_no_progress dsimp only [id])

theorem State.estimates_kept (s : State) (h0 : Kept v₀ q₀ s) : Kept v₀ q₀ (State.estimates s).2 := by
  unfold State.estimates
  try dsimp only
  repeat' (first | (with_reducible first | assumption | apply Kept.foldl | apply Kept.foldlFst | apply Kept.foldlSnd | apply Kept.foldlD | apply Kept.foldlP2 | apply Kept.foldlD1 | apply State.takeFresh_kept) | (refine State.takeFresh_keptEq ?_ ‹_›) | intro _ | fail_if_no_progress (with_reducible apply Kept.lit) | split | fail_if_no_progress dsimp only | fail_if_no_progress dsimp only [id])

theorem State.estimates_keptEq {s : State} {x} {y} (h0 : Kept v₀ q₀ s) (e : (State.estimates s) = (x, y)) : Kept v₀ q₀ y := by
  have e' := congrArg Prod.snd e
  dsimp only at e'
  subst e'
  exact State.estimates_kept s h0

theorem State.flushAcct_kept (s : State) (w : Nat) (h0 : Kept v₀ q₀ s) : Kept v₀ q₀ (State.flushAcct s w) := by
  unfold State.flushAcct
  try dsimp only
  repeat' (first | (with_reducible first | assumption | apply Kept.forEach | apply Kept.foldl | apply Kept.foldlFst | apply Kept.foldlSnd | apply Kept.foldlD | apply Kept.foldlP2 | apply Kept.foldlD1 | apply State.modWard_kept | apply State.wrStruct_kept) | intro _ | fail_if_no_progress (with_reducible apply Kept.lit) | split | fail_if_no_progress dsimp only | fail_if_no_progress dsimp only [id])

theorem execAccountingSecond_kept (railMj : Nat) (idleMj : Nat) (s : State) (h0 : Kept v₀ q₀ s) : KeptX v₀ q₀ (execAccountingSecond railMj idleMj s) := by
  unfold execAccountingSecond
  try dsimp only
  repeat' (first | (with_reducible first | assumption | apply Kept.forEach | apply KeptX.next | apply State.modWard_kept | apply State.charge_kept | apply State.estimates_kept | apply State.flushAcct_kept) | (refine State.estimates_keptEq ?_ ‹_›) | intro _ | fail_if_no_progress (with_reducible apply Kept.lit) | split | fail_if_no_progress dsimp only | fail_if_no_progress dsimp only [id])

theorem State.countRunning_kept (s : State) (w : Nat) (h0 : Kept v₀ q₀ s) : Kept v₀ q₀ (State.countRunning s w) := by
  unfold State.countRunning
  try dsimp only
  repeat' (first | (with_reducible first | assumption | apply Kept.forEach | apply State.countPart_kept | apply State.countQuant_kept | apply State.countUpd_kept) | intro _ | fail_if_no_progress (with_reducible apply Kept.lit) | split | fail_if_no_progress dsimp only | fail_if_no_progress dsimp only [id])

theorem State.takeSnap_kept (s : State) (w : Nat) (h0 : Kept v₀ q₀ s) : Kept v₀ q₀ (State.takeSnap s w) := by
  unfold State.takeSnap
  try dsimp only
  repeat' (first | (with_reducible first | assumption | apply State.modWard_kept | apply State.countRunning_kept) | intro _ | fail_if_no_progress (with_reducible apply Kept.lit) | split | fail_if_no_progress dsimp only | fail_if_no_progress dsimp only [id])

theorem execStatSnapRequest_kept (r : Req) (w : Nat) (a : RegW) (s : State) (h0 : Kept v₀ q₀ s) : KeptX v₀ q₀ (execStatSnapRequest r w a s) := by
  unfold execStatSnapRequest
  try dsimp only
  repeat' (first | (with_reducible first | assumption | apply KeptX.next | apply State.modWard_kept | apply State.refuse_kept | apply State.takeSnap_kept) | intro _ | fail_if_no_progress (with_reducible apply Kept.lit) | split | fail_if_no_progress dsimp only | fail_if_no_progress dsimp only [id])

theorem State.writeRecords_kept (w base : Nat) (sites : Tab Site) (l : List Nat) (s : State) (h : Kept v₀ q₀ s) :
    Kept v₀ q₀ (State.writeRecords w base sites l s).1 := by
  induction l generalizing s with
  | nil => exact h
  | cons n r ih =>
    unfold State.writeRecords
    dsimp only
    split
    · exact ih _ (State.writeVa_kept _ _ _ _ _ h)
    · exact State.writeVa_kept _ _ _ _ _ h

theorem execStatSnapshotComplete_kept (w : Nat) (s : State) (h0 : Kept v₀ q₀ s) : KeptX v₀ q₀ (execStatSnapshotComplete w s) := by
  unfold execStatSnapshotComplete
  dsimp only
  split
  · exact KeptX.next h0
  · rename_i beat sites _
    have hr := State.writeRecords_kept w ((s.ward w).reg oWrdStatBase) sites (s.ward w).dieList s h0
    split <;> rename_i e <;> rw [e] at hr <;>
      repeat' (first | with_reducible assumption | with_reducible apply KeptX.next | with_reducible apply State.modWard_kept | with_reducible apply State.dieEvent_kept | fail_if_no_progress (with_reducible apply Kept.lit) | split)

/-! ### Commands -/

theorem State.runOp_kept (s : State) (x : OpCtx) (op : HostOp) (h0 : Kept v₀ q₀ s) : Kept v₀ q₀ (State.runOp s x op) := by
  unfold State.runOp
  try dsimp only
  repeat' (first | (with_reducible first | assumption | apply State.doWardEnable_kept | apply State.doWardDisable_kept | apply State.doWardReset_kept | apply State.doJobStart_kept | apply State.doJobEnd_kept | apply State.doMap_kept | apply State.doUnmap_kept | apply State.doRegister_kept | apply State.doWithdraw_kept | apply State.doClaim_kept | apply State.doUnclaim_kept | apply State.doSubmit_kept | apply State.doCancel_kept | apply State.doDistribute_kept | apply State.doPrepare_kept | apply State.doSwitch_kept | apply State.doTakeover_kept | apply State.doRollcallClear_kept | apply State.doTrainStart_kept | apply State.doTrainStop_kept | apply State.doRollback_kept | apply State.doLinkRetrain_kept | apply State.doKeyAlloc_kept | apply State.doKeyRetire_kept | apply State.doKeyShare_kept | apply State.doAttest_kept | apply State.doOwnerSet_kept | apply State.doCertRead_kept | apply State.doIdeKey_kept | apply State.doJournalRead_kept) | intro _ | fail_if_no_progress (with_reducible apply Kept.lit) | split | fail_if_no_progress dsimp only | fail_if_no_progress dsimp only [id])

theorem State.journalRelay_kept (s : State) (origin : Nat) (jseq : Nat) (c : Relayed) (wd : Nat) (h0 : Kept v₀ q₀ s) : Kept v₀ q₀ (State.journalRelay s origin jseq c wd) := by
  unfold State.journalRelay
  try dsimp only
  repeat' (first | (with_reducible first | assumption | apply State.jrnAdd_kept) | intro _ | fail_if_no_progress (with_reducible apply Kept.lit) | split | fail_if_no_progress dsimp only | fail_if_no_progress dsimp only [id])

theorem execRelayedCommand_kept (origin : Nat) (jseq : Nat) (cmd : Relayed) (s : State) (h0 : Kept v₀ q₀ s) : KeptX v₀ q₀ (execRelayedCommand origin jseq cmd s) := by
  unfold execRelayedCommand
  try dsimp only
  repeat' (first | (with_reducible first | assumption | apply KeptX.next | apply State.complete_kept | apply State.settle_kept | apply State.holdOp_kept | apply State.startDist_kept | apply State.doDistribute_kept | apply State.runOp_kept | apply State.journalRelay_kept) | intro _ | fail_if_no_progress (with_reducible apply Kept.lit) | split | fail_if_no_progress dsimp only | fail_if_no_progress dsimp only [id])

/-! ### Beats -/

theorem State.abandonLate_kept (s : State) (w : Nat) (h0 : Kept v₀ q₀ s) : Kept v₀ q₀ (State.abandonLate s w) := by
  unfold State.abandonLate
  try dsimp only
  repeat' (first | (with_reducible first | assumption | apply Kept.forEach | apply State.modWard_kept | apply State.pfLost_kept | apply State.pfRecord_kept) | intro _ | fail_if_no_progress (with_reducible apply Kept.lit) | split | fail_if_no_progress dsimp only | fail_if_no_progress dsimp only [id])

theorem State.holdStep_kept (s : State) (w : Nat) (u : Nat × Nat × Nat) (h0 : Kept v₀ q₀ s) : Kept v₀ q₀ (State.holdStep s w u) := by
  unfold State.holdStep
  try dsimp only
  repeat' (first | (with_reducible first | assumption | apply State.modWard_kept) | intro _ | fail_if_no_progress (with_reducible apply Kept.lit) | split | fail_if_no_progress dsimp only | fail_if_no_progress dsimp only [id])

theorem State.holdRecord_kept (s : State) (w : Nat) (scope : Nat) (st : Byte) (h0 : Kept v₀ q₀ s) : Kept v₀ q₀ (State.holdRecord s w scope st) := by
  unfold State.holdRecord
  try dsimp only
  repeat' (first | (with_reducible first | assumption | apply State.report_kept) | intro _ | fail_if_no_progress (with_reducible apply Kept.lit) | split | fail_if_no_progress dsimp only | fail_if_no_progress dsimp only [id])

theorem State.closeBeat_kept (s : State) (w : Nat) (h0 : Kept v₀ q₀ s) : Kept v₀ q₀ (State.closeBeat s w) := by
  unfold State.closeBeat
  try dsimp only
  repeat' (first | (with_reducible first | assumption | apply State.modWard_kept | apply State.dieEvent_kept | apply State.holdRecord_kept) | intro _ | fail_if_no_progress (with_reducible apply Kept.lit) | split | fail_if_no_progress dsimp only | fail_if_no_progress dsimp only [id])

theorem State.overrunBeat_kept (s : State) (w : Nat) (u : Nat × Nat × Nat) (h0 : Kept v₀ q₀ s) : Kept v₀ q₀ (State.overrunBeat s w u) := by
  unfold State.overrunBeat
  try dsimp only
  repeat' (first | (with_reducible first | assumption | apply State.modWard_kept | apply State.jobFault_kept | apply State.holdRecord_kept) | intro _ | fail_if_no_progress (with_reducible apply Kept.lit) | split | fail_if_no_progress dsimp only | fail_if_no_progress dsimp only [id])

theorem State.holdOrOverrun_kept (s : State) (w : Nat) (u : Nat × Nat × Nat) (h0 : Kept v₀ q₀ s) : Kept v₀ q₀ (State.holdOrOverrun s w u) := by
  unfold State.holdOrOverrun
  try dsimp only
  repeat' (first | (with_reducible first | assumption | apply State.holdStep_kept | apply State.overrunBeat_kept) | intro _ | fail_if_no_progress (with_reducible apply Kept.lit) | split | fail_if_no_progress dsimp only | fail_if_no_progress dsimp only [id])

theorem State.sendReady_kept (s : State) (w : Nat) (h0 : Kept v₀ q₀ s) : Kept v₀ q₀ (State.sendReady s w) := by
  unfold State.sendReady
  try dsimp only
  repeat' (first | (with_reducible first | assumption | apply State.modWard_kept | apply State.sendMarker_kept) | intro _ | fail_if_no_progress (with_reducible apply Kept.lit) | split | fail_if_no_progress dsimp only | fail_if_no_progress dsimp only [id])

theorem State.multiPoint_kept (s : State) (w : Nat) (h0 : Kept v₀ q₀ s) : Kept v₀ q₀ (State.multiPoint s w) := by
  unfold State.multiPoint
  try dsimp only
  repeat' (first | (with_reducible first | assumption | apply State.modWard_kept | apply State.abandonLate_kept | apply State.closeBeat_kept | apply State.holdOrOverrun_kept | apply State.sendReady_kept) | intro _ | fail_if_no_progress (with_reducible apply Kept.lit) | split | fail_if_no_progress dsimp only | fail_if_no_progress dsimp only [id])

theorem execBeatStepPoint_kept (w : Nat) (s : State) (h0 : Kept v₀ q₀ s) : KeptX v₀ q₀ (execBeatStepPoint w s) := by
  unfold execBeatStepPoint
  try dsimp only
  repeat' (first | (with_reducible first | assumption | apply KeptX.next | apply State.abandonLate_kept | apply State.closeBeat_kept | apply State.holdOrOverrun_kept | apply State.sendReady_kept | apply State.multiPoint_kept) | intro _ | fail_if_no_progress (with_reducible apply Kept.lit) | split | fail_if_no_progress dsimp only | fail_if_no_progress dsimp only [id])

theorem State.sendVerdict_kept (s : State) (w : Nat) (kind : Nat) (yes : Bool) (beat : W64) (cmds : List (Nat × Nat)) (h0 : Kept v₀ q₀ s) : Kept v₀ q₀ (State.sendVerdict s w kind yes beat cmds) := by
  unfold State.sendVerdict
  try dsimp only
  repeat' (first | (with_reducible first | assumption | apply Kept.forEach | apply State.modWard_kept | apply State.sendMarker_kept) | intro _ | fail_if_no_progress (with_reducible apply Kept.lit) | split | fail_if_no_progress dsimp only | fail_if_no_progress dsimp only [id])

theorem execMasterDecide_kept (w : Nat) (s : State) (h0 : Kept v₀ q₀ s) : KeptX v₀ q₀ (execMasterDecide w s) := by
  unfold execMasterDecide
  try dsimp only
  repeat' (first | (with_reducible first | assumption | apply KeptX.next | apply State.sendVerdict_kept) | intro _ | fail_if_no_progress (with_reducible apply Kept.lit) | split | fail_if_no_progress dsimp only | fail_if_no_progress dsimp only [id])

theorem execVerdictApply_kept (w : Nat) (late : Bool) (s : State) (h0 : Kept v₀ q₀ s) : KeptX v₀ q₀ (execVerdictApply w late s) := by
  unfold execVerdictApply
  try dsimp only
  repeat' (first | (with_reducible first | assumption | apply KeptX.next | apply State.modWard_kept | apply State.closeBeat_kept | apply State.holdOrOverrun_kept) | intro _ | fail_if_no_progress (with_reducible apply Kept.lit) | split | fail_if_no_progress dsimp only | fail_if_no_progress dsimp only [id])

theorem execMarkerLost_kept (w : Nat) (s : State) (h0 : Kept v₀ q₀ s) : KeptX v₀ q₀ (execMarkerLost w s) := by
  unfold execMarkerLost
  try dsimp only
  repeat' (first | (with_reducible first | assumption | apply KeptX.next | apply State.modWard_kept | apply State.holdOrOverrun_kept) | intro _ | fail_if_no_progress (with_reducible apply Kept.lit) | split | fail_if_no_progress dsimp only | fail_if_no_progress dsimp only [id])

theorem execMarkerReady_kept (w : Nat) (src : Nat) (m : Marker) (s : State) (h0 : Kept v₀ q₀ s) : KeptX v₀ q₀ (execMarkerReady w src m s) := by
  unfold execMarkerReady
  try dsimp only
  repeat' (first | (with_reducible first | assumption | apply KeptX.next | apply State.modWard_kept) | intro _ | fail_if_no_progress (with_reducible apply Kept.lit) | split | fail_if_no_progress dsimp only | fail_if_no_progress dsimp only [id])

theorem execMarkerBoundary_kept (w : Nat) (m : Marker) (s : State) (h0 : Kept v₀ q₀ s) : KeptX v₀ q₀ (execMarkerBoundary w m s) := by
  unfold execMarkerBoundary
  try dsimp only
  repeat' (first | (with_reducible first | assumption | apply KeptX.next | apply State.modWard_kept) | intro _ | fail_if_no_progress (with_reducible apply Kept.lit) | split | fail_if_no_progress dsimp only | fail_if_no_progress dsimp only [id])

theorem execMarkerHold_kept (w : Nat) (m : Marker) (s : State) (h0 : Kept v₀ q₀ s) : KeptX v₀ q₀ (execMarkerHold w m s) := by
  unfold execMarkerHold
  try dsimp only
  repeat' (first | (with_reducible first | assumption | apply KeptX.next | apply State.modWard_kept) | intro _ | fail_if_no_progress (with_reducible apply Kept.lit) | split | fail_if_no_progress dsimp only | fail_if_no_progress dsimp only [id])

theorem execMarkerStart_kept (w : Nat) (m : Marker) (s : State) (h0 : Kept v₀ q₀ s) : KeptX v₀ q₀ (execMarkerStart w m s) := by
  unfold execMarkerStart
  try dsimp only
  repeat' (first | (with_reducible first | assumption | apply KeptX.next | apply State.modWard_kept) | intro _ | fail_if_no_progress (with_reducible apply Kept.lit) | split | fail_if_no_progress dsimp only | fail_if_no_progress dsimp only [id])

theorem State.chargeBeat_kept (s : State) (w : Nat) (h0 : Kept v₀ q₀ s) : Kept v₀ q₀ (State.chargeBeat s w) := by
  unfold State.chargeBeat
  try dsimp only
  repeat' (first | (with_reducible first | assumption | apply Kept.forEach | apply State.modWard_kept | apply State.takeFresh_kept) | (refine State.takeFresh_keptEq ?_ ‹_›) | intro _ | fail_if_no_progress (with_reducible apply Kept.lit) | split | fail_if_no_progress dsimp only | fail_if_no_progress dsimp only [id])

theorem State.runHeldOp_kept (s : State) (w : Nat) (h : HeldOp) (h0 : Kept v₀ q₀ s) : Kept v₀ q₀ (State.runHeldOp s w h) := by
  unfold State.runHeldOp
  try dsimp only
  repeat' (first | (with_reducible first | assumption | apply State.modWard_kept | apply State.runOp_kept) | intro _ | fail_if_no_progress (with_reducible apply Kept.lit) | split | fail_if_no_progress dsimp only | fail_if_no_progress dsimp only [id])

theorem State.runWaiting_kept (n : Nat) (s : State) (w : Nat) (h : Kept v₀ q₀ s) : Kept v₀ q₀ (State.runWaiting n s w) := by
  induction n generalizing s with
  | zero => exact h
  | succ n ih =>
    unfold State.runWaiting
    split
    · split
      · exact ih _ (State.runHeldOp_kept _ _ _ h)
      · exact h
    · exact h

theorem State.runHeld_kept (s : State) (w : Nat) (h0 : Kept v₀ q₀ s) : Kept v₀ q₀ (State.runHeld s w) := by
  unfold State.runHeld
  try dsimp only
  repeat' (first | (with_reducible first | assumption | apply Kept.forEach | apply State.runHeldOp_kept | apply State.runWaiting_kept) | intro _ | fail_if_no_progress (with_reducible apply Kept.lit) | split | fail_if_no_progress dsimp only | fail_if_no_progress dsimp only [id])

theorem State.beginJob_kept (s : State) (w : Nat) (h0 : Kept v₀ q₀ s) : Kept v₀ q₀ (State.beginJob s w) := by
  unfold State.beginJob
  try dsimp only
  repeat' (first | (with_reducible first | assumption | apply State.modWard_kept | apply State.complete_kept) | intro _ | fail_if_no_progress (with_reducible apply Kept.lit) | split | fail_if_no_progress dsimp only | fail_if_no_progress dsimp only [id])

theorem State.jobEnds_kept (s : State) (w : Nat) (h0 : Kept v₀ q₀ s) : Kept v₀ q₀ (State.jobEnds s w) := by
  unfold State.jobEnds
  try dsimp only
  repeat' (first | (with_reducible first | assumption | apply State.stopJob_kept | apply State.faultNow_kept | apply State.wardLoss_kept | apply State.shutDown_kept) | intro _ | fail_if_no_progress (with_reducible apply Kept.lit) | split | fail_if_no_progress dsimp only | fail_if_no_progress dsimp only [id])

theorem State.takeSpares_kept (s : State) (w : Nat) (h0 : Kept v₀ q₀ s) : Kept v₀ q₀ (State.takeSpares s w) := by
  unfold State.takeSpares
  try dsimp only
  repeat' (first | (with_reducible first | assumption | apply Kept.forEach | apply State.modTile_kept | apply State.modWard_kept | apply State.loadTile_kept) | intro _ | fail_if_no_progress (with_reducible apply Kept.lit) | split | fail_if_no_progress dsimp only | fail_if_no_progress dsimp only [id])

theorem State.applyLost_kept (s : State) (w : Nat) (h0 : Kept v₀ q₀ s) : Kept v₀ q₀ (State.applyLost s w) := by
  unfold State.applyLost
  try dsimp only
  repeat' (first | (with_reducible first | assumption | apply Kept.forEach | apply State.modWard_kept | apply State.markCtx_kept | apply State.modTrain_kept) | intro _ | fail_if_no_progress (with_reducible apply Kept.lit) | split | fail_if_no_progress dsimp only | fail_if_no_progress dsimp only [id])

theorem State.pfShape_kept (s : State) (w : Nat) (c : Nat) (va : Nat) (h0 : Kept v₀ q₀ s) : Kept v₀ q₀ (State.pfShape s w c va).1 := by
  unfold State.pfShape
  try dsimp only
  repeat' (first | (with_reducible first | assumption | apply State.readVa_kept) | (refine State.readVa_keptEq ?_ ‹_›) | intro _ | fail_if_no_progress (with_reducible apply Kept.lit) | split | fail_if_no_progress dsimp only | fail_if_no_progress dsimp only [id])

theorem State.pfShape_keptEq {s : State} {w : Nat} {c : Nat} {va : Nat} {x} {y} (h0 : Kept v₀ q₀ s) (e : (State.pfShape s w c va) = (x, y)) : Kept v₀ q₀ x := by
  have e' := congrArg Prod.fst e
  dsimp only at e'
  subst e'
  exact State.pfShape_kept s w c va h0

theorem State.pfIssue_kept (s : State) (w : Nat) (p : JobProg) (t : Nat) (k : Nat) (e : PfEnt) (h0 : Kept v₀ q₀ s) : Kept v₀ q₀ (State.pfIssue s w p t k e) := by
  unfold State.pfIssue
  try dsimp only
  repeat' (first | (with_reducible first | assumption | apply Kept.forEach | apply State.modDev_kept | apply State.modWard_kept | apply State.countFault_kept | apply State.devIssue_kept | apply State.pfRecord_kept | apply State.pfOver_kept | apply State.pfShape_kept) | (refine State.pfShape_keptEq ?_ ‹_›) | intro _ | fail_if_no_progress (with_reducible apply Kept.lit) | split | fail_if_no_progress dsimp only | fail_if_no_progress dsimp only [id])

theorem State.issuePrefetch_kept (s : State) (w : Nat) (p : JobProg) (t : Nat) (h0 : Kept v₀ q₀ s) : Kept v₀ q₀ (State.issuePrefetch s w p t) := by
  unfold State.issuePrefetch
  try dsimp only
  repeat' (first | (with_reducible first | assumption | apply Kept.forEach | apply State.pfIssue_kept) | intro _ | fail_if_no_progress (with_reducible apply Kept.lit) | split | fail_if_no_progress dsimp only | fail_if_no_progress dsimp only [id])

theorem State.serve_kept (s : State) (w : Nat) (h0 : Kept v₀ q₀ s) : Kept v₀ q₀ (State.serve s w) := by
  unfold State.serve
  try dsimp only
  repeat' (first | (with_reducible first | assumption | apply State.release_kept | apply State.serveHinges_kept | apply State.accSlices_kept | apply State.retireSteps_kept | apply State.settle_kept | apply State.serveRest_kept | apply State.retryDist_kept | apply State.trainingStep_kept | apply State.applyLost_kept | apply State.issuePrefetch_kept) | intro _ | fail_if_no_progress (with_reducible apply Kept.lit) | split | fail_if_no_progress dsimp only | fail_if_no_progress dsimp only [id])

theorem State.clearStandIn_kept (s : State) (i : Nat) (h0 : Kept v₀ q₀ s) : Kept v₀ q₀ (State.clearStandIn s i) := by
  unfold State.clearStandIn
  try dsimp only
  repeat' (first | (with_reducible first | assumption | apply State.modTile_kept) | intro _ | fail_if_no_progress (with_reducible apply Kept.lit) | split | fail_if_no_progress dsimp only | fail_if_no_progress dsimp only [id])

theorem State.resumeTile_kept (s : State) (w : Nat) (i : Nat) (h0 : Kept v₀ q₀ s) : Kept v₀ q₀ (State.resumeTile s w i) := by
  unfold State.resumeTile
  try dsimp only
  repeat' (first | (with_reducible first | assumption | apply State.modTile_kept | apply State.checkPc_kept) | intro _ | fail_if_no_progress (with_reducible apply Kept.lit) | split | fail_if_no_progress dsimp only | fail_if_no_progress dsimp only [id])

theorem State.boundary_kept (s : State) (w : Nat) (ns : W32) (h0 : Kept v₀ q₀ s) : Kept v₀ q₀ (State.boundary s w ns) := by
  unfold State.boundary
  try dsimp only
  repeat' (first | (with_reducible first | assumption | apply Kept.forEach | apply State.modWard_kept | apply State.pruneUncounted_kept | apply State.settle_kept | apply State.takeEarly_kept | apply State.takeSnap_kept | apply State.chargeBeat_kept | apply State.runWaiting_kept | apply State.runHeld_kept | apply State.beginJob_kept | apply State.jobEnds_kept | apply State.takeSpares_kept | apply State.serve_kept | apply State.clearStandIn_kept | apply State.resumeTile_kept) | intro _ | fail_if_no_progress (with_reducible apply Kept.lit) | split | fail_if_no_progress dsimp only | fail_if_no_progress dsimp only [id])

theorem execBeatBoundary_kept (w : Nat) (ns : W32) (s : State) (h0 : Kept v₀ q₀ s) : KeptX v₀ q₀ (execBeatBoundary w ns s) := by
  unfold execBeatBoundary
  try dsimp only
  repeat' (first | (with_reducible first | assumption | apply KeptX.next | apply State.boundary_kept) | intro _ | fail_if_no_progress (with_reducible apply Kept.lit) | split | fail_if_no_progress dsimp only | fail_if_no_progress dsimp only [id])

end Sys2Proof.Machine
end

