-- ==== Sys2Proof/Tests/Slice0.lean ====
section
/-! SUPPORT. Tests: ill-formed operands are refused, instruction words and worked examples of the spec, and for each
statement states and operands that meet what it assumes. -/

namespace Sys2Proof.Tests
set_option Elab.async false
open Sys2Proof Sys2Proof.Machine

/-! ### Ill-formed operands: one for each check -/

def passF : PassF := { as := 1, vs := 0x080, vcnt := 256, wb := 0, wc := 256, pi := 3, rnd := .rne, wit := true, seed := 0 }
def latchF : LatchF := { as := 0, vs := 0, fmt := .b4, blk := true, trd := false, half := false, rows := 256, cols := 256 }
def drainF : DrainF := { wb := 0, wc := 32, ofmt := 0, half := false, ad := 0, vd := 0, cw := 0, aie := false, afmt := false, aa := 0, va := 0, sa := 0 }
def kickF : KickF := { ad := 2, hp := false, ch := 2, ks := false, ki := 0, cnt := 1 }
def statF : StatF := { ad := 0, site := 0, ns := 64, clr := false }
def loopF : LoopF := { k := 1, src := false, count := 10, fin := 10 }
def jmpF : JmpF := { cond := 1, k := 0, pop := 0, target := 1, fmask := 0 }
def setaF : SetaF := { ad := 3, mode := 0, as := 0, imm := 0, ext := 0x12340 }
def addaF : AddaF := { ad := 3, mode := 0, as := 4, at' := 5, k := 0, imm := 0 }
def setkF : SetkF := { kd := 1, mode := 0, ks := 0, as := 0, imm := 7 }
def pf0 : Src := { port := 0, func := 0, ring := 0 }
def rq0 : Req := { port := 0, func := 0 }
def wr0 : RegW := { off := 8, size := 8, val := 0 }
def flit0 : Flit :=
  { type := 0, vc := 0, dst := 0, src := 1, ward := 0, last := true, len := 0, ctx := 0, epoch := 0, seq := 0, ack := 0, nak := false, crvc := 0,
    crcnt := 0, tree := 0, xid := 0 }
def image0 : Image := { devmap := [(0, 1)], routes := [(0, { valid := true, loc := true }), (1, { valid := true, ports := 2 })] }
def marker0 : Marker := { jobward := 0, master := 0, beat := 1 }

theorem wf_good : Instr.wf (.pass 511 passF) ∧ Instr.wf (.latch 0 latchF) ∧ Instr.wf (.drain 0 drainF) ∧ Instr.wf (.kick 0 kickF) ∧
    Instr.wf (.stat 0 statF) ∧ Instr.wf (.loop 0 loopF) ∧ Instr.wf (.jmp 0 jmpF) ∧ Instr.wf (.seta 0 setaF) ∧ Instr.wf (.adda 0 addaF) ∧
    Instr.wf (.setk 0 setkF) ∧ Instr.wf (.powerOn {}) ∧ Instr.wf (.flitIdle 47 flit0 {}) ∧ Instr.wf (.wardDisable pf0) := by
  decide +kernel

theorem wf_refuses_numbers : !Instr.wf (.swap 512) ∧ !Instr.wf (.chainProgramStart 128) ∧ !Instr.wf (.move 8 ⟨[], []⟩) ∧ !Instr.wf (.masterDecide 8) ∧
    !Instr.wf (.laneAlignmentLoss 48) ∧ !Instr.wf (.pf0Flr 2) ∧ !Instr.wf (.vfFlr 0 0) ∧ !Instr.wf (.vfFlr 0 9) ∧ !Instr.wf (.armTimeout 0 65536) ∧
    !Instr.wf (.quarantineExpire 16384) ∧ !Instr.wf (.lossTimeout 64) ∧ !Instr.wf (.tkoAck 68 1) ∧ !Instr.wf (.squashComplete 40) ∧
    !Instr.wf (.squashComplete (64 + 32)) ∧ Instr.wf (.squashComplete (64 * 4 + 39)) ∧ !Instr.wf (.squashComplete (64 * 8)) ∧
    !Instr.wf (.tagClearComplete 0 32) ∧ !Instr.wf (.fence 0 0) ∧ !Instr.wf (.tko 0 4 1 false) ∧ !Instr.wf (.relayTimeout (2 ^ 58)) ∧
    !Instr.wf (.peerTimeout (.dev 8) ⟨0, []⟩) ∧ !Instr.wf (.dmaAccessError 0 ⟨.metaPoison 0 3, []⟩) ∧ !Instr.wf (.spillReadComplete 0 (2 ^ 21)) ∧
    !Instr.wf (.shardRequest 0 0 64) ∧ !Instr.wf (.pcieLinkUp 0 6 16) ∧ !Instr.wf (.pcieLinkUp 0 5 3) := by decide +kernel

theorem wf_refuses_requests : !Instr.wf (.wardDisable { pf0 with port := 2 }) ∧ !Instr.wf (.wardDisable { pf0 with func := 9 }) ∧
    !Instr.wf (.wardDisable { pf0 with ring := 16 }) ∧ !Instr.wf (.wardDisable { pf0 with ward := 256 }) ∧ !Instr.wf (.wardDisable { pf0 with dest := 256 }) ∧
    !Instr.wf (.secSlotPeekIdx { rq0 with func := 9 } 0) ∧ !Instr.wf (.sqTailWrite rq0 16 0) ∧ !Instr.wf (.msixUnmask rq0 2048) ∧
    !Instr.wf (.registerWrite rq0 { wr0 with size := 2 }) ∧ !Instr.wf (.registerWrite rq0 { wr0 with off := 4 }) ∧
    !Instr.wf (.registerWrite rq0 { wr0 with off := 2 ^ 29 }) ∧ !Instr.wf (.illegalCommand pf0 0 []) ∧
    !Instr.wf (.illegalCommand pf0 1 (List.replicate 64 0)) := by decide +kernel

theorem wf_refuses_passes : !Instr.wf (.pass 0 { passF with as := 32 }) ∧ !Instr.wf (.pass 0 { passF with vs := 4096 }) ∧
    !Instr.wf (.pass 0 { passF with vcnt := 0 }) ∧ !Instr.wf (.passt 0 { passF with vcnt := 7456 }) ∧ !Instr.wf (.pass 0 { passF with wb := 512 }) ∧
    !Instr.wf (.pass 0 { passF with wc := 0 }) ∧ !Instr.wf (.pass 0 { passF with pi := 7 }) ∧ !Instr.wf (.pass 0 { passF with seed := 8 }) ∧
    !Instr.wf (.pass 0 { passF with pi := 4, vcnt := 257 }) ∧ !Instr.wf (.wzero 0 { wb := 512, wc := 1 }) ∧ !Instr.wf (.wzero 0 { wb := 0, wc := 513 }) := by
  decide +kernel

theorem wf_refuses_latches : !Instr.wf (.latch 0 { latchF with as := 32 }) ∧ !Instr.wf (.latch 0 { latchF with vs := 4096 }) ∧
    !Instr.wf (.latch 0 { latchF with rows := 0 }) ∧ !Instr.wf (.latch 0 { latchF with rows := 257 }) ∧ !Instr.wf (.latch 0 { latchF with cols := 0 }) ∧
    !Instr.wf (.latch 0 { latchF with cols := 257 }) ∧ !Instr.wf (.latch 0 { latchF with fmt := .b1 }) ∧
    !Instr.wf (.latch 0 { latchF with blk := false, trd := true }) ∧ !Instr.wf (.latch 0 { latchF with half := true }) := by decide +kernel

theorem wf_refuses_drains : !Instr.wf (.drain 0 { drainF with wb := 512 }) ∧ !Instr.wf (.drain 0 { drainF with wc := 0 }) ∧
    !Instr.wf (.drain 0 { drainF with ofmt := 3 }) ∧ !Instr.wf (.drain 0 { drainF with ad := 32 }) ∧ !Instr.wf (.drain 0 { drainF with vd := 4096 }) ∧
    !Instr.wf (.drain 0 { drainF with cw := 1 }) ∧ !Instr.wf (.drain 0 { drainF with aa := 1 }) ∧ !Instr.wf (.drain 0 { drainF with afmt := true }) ∧
    !Instr.wf (.drain 0 { drainF with sa := 1 }) ∧ !Instr.wf (.drain 0 { drainF with half := true }) := by decide +kernel

theorem wf_refuses_transfers : !Instr.wf (.chain 0 { ad := 32, rows := 1 }) ∧ !Instr.wf (.chain 0 { ad := 0, rows := 0 }) ∧
    !Instr.wf (.chain 0 { ad := 0, rows := 8193 }) ∧ !Instr.wf (.kick 0 { kickF with ad := 32 }) ∧ !Instr.wf (.kick 0 { kickF with ch := 32 }) ∧
    !Instr.wf (.kick 0 { kickF with hp := true, ch := 8 }) ∧ !Instr.wf (.kick 0 { kickF with ki := 1 }) ∧ !Instr.wf (.kick 0 { kickF with cnt := 0 }) ∧
    !Instr.wf (.kick 0 { kickF with ks := true }) ∧ !Instr.wf (.kick 0 { kickF with cnt := 65536 }) ∧ !Instr.wf (.tag 0 { ac := 32, bmask := 1 }) ∧
    !Instr.wf (.tag 0 { ac := 4, bmask := 0 }) ∧ !Instr.wf (.stat 0 { statF with site := 1024 }) ∧ !Instr.wf (.stat 0 { statF with ns := 0 }) ∧
    !Instr.wf (.stat 0 { statF with ns := 65 }) ∧ !Instr.wf (.stat 0 { statF with site := 1000 }) := by decide +kernel

theorem wf_refuses_control : !Instr.wf (.sig 0 { tgt := 512, fmask := 1 }) ∧ !Instr.wf (.sig 0 { tgt := 0, fmask := 0 }) ∧
    !Instr.wf (.waitf 0 { fmask := 0, any := false, clr := false }) ∧ !Instr.wf (.loop 0 { loopF with k := 8 }) ∧
    !Instr.wf (.loop 0 { loopF with count := 2 ^ 24 }) ∧ !Instr.wf (.loop 0 { loopF with fin := 8192 }) ∧ !Instr.wf (.loop 0 { loopF with src := true }) ∧
    !Instr.wf (.jmp 0 { jmpF with cond := 6 }) ∧ !Instr.wf (.jmp 0 { jmpF with k := 8 }) ∧ !Instr.wf (.jmp 0 { jmpF with pop := 5 }) ∧
    !Instr.wf (.jmp 0 { jmpF with target := 8192 }) ∧ !Instr.wf (.jmp 0 { jmpF with cond := 0, k := 1 }) ∧ !Instr.wf (.jmp 0 { jmpF with cond := 3 }) ∧
    !Instr.wf (.jmp 0 { jmpF with fmask := 1 }) ∧ !Instr.wf (.seta 0 { setaF with mode := 3 }) ∧ !Instr.wf (.seta 0 { setaF with as := 1 }) ∧
    !Instr.wf (.seta 0 { setaF with mode := 1 }) ∧ !Instr.wf (.adda 0 { addaF with mode := 3 }) ∧ !Instr.wf (.adda 0 { addaF with k := 1 }) ∧
    !Instr.wf (.adda 0 { addaF with mode := 2 }) ∧ !Instr.wf (.setk 0 { setkF with mode := 4 }) ∧ !Instr.wf (.setk 0 { setkF with ks := 1 }) ∧
    !Instr.wf (.setk 0 { setkF with as := 1 }) ∧ !Instr.wf (.setk 0 { setkF with mode := 2 }) ∧ !Instr.wf (.setk 0 { setkF with kd := 8 }) := by decide +kernel

theorem wf_refuses_flits_and_images : !Instr.wf (.flitIdle 0 { flit0 with type := 16 } {}) ∧ !Instr.wf (.flitIdle 0 { flit0 with vc := 4 } {}) ∧
    !Instr.wf (.flitIdle 0 { flit0 with dst := 128 } {}) ∧ !Instr.wf (.flitIdle 0 { flit0 with len := 225 } {}) ∧
    !Instr.wf (.flitIdle 0 { flit0 with seq := 4096 } {}) ∧ !Instr.wf (.flitIdle 0 { flit0 with crcnt := 32 } {}) ∧
    !Instr.wf (.markerStart 0 { marker0 with jobward := 8 }) ∧ !Instr.wf (.markerStart 0 { marker0 with master := 64 }) ∧
    !Instr.wf (.markerStart 0 { marker0 with cmds := [(64, 0)] }) ∧ !Instr.wf (.markerStart 0 { marker0 with cmds := List.replicate 25 (0, 0) }) ∧
    !Instr.wf (.powerOn { cfg := ({}, { bytes := some [(2 ^ 22, 1)] }) }) ∧ !Instr.wf (.powerOn { fw := ({ bytes := some [(9, 1), (8, 1)] }, {}) }) ∧
    !Instr.wf (.powerOn { badStack := some 32 }) ∧ !Instr.wf (.flashWrite rq0 wr0 {} { bytes := some [(2 ^ 22, 1)] }) ∧
    !Instr.wf (.heartbeat 0 ⟨0, [{ tile := 512, kind := .store, at' := 0 }]⟩) ∧ !Instr.wf (.peerTimeout (.reader 8) ⟨0, []⟩) ∧
    !Instr.wf (.passOneComplete 0 ⟨1, [{ addr := 0, die := 8 }]⟩) ∧ !Instr.wf (.digestExchange 0 1 { replica := 1, step := 0, dig := 0, dies := [(68 * 8, 0)] }) ∧
    !Instr.wf (.jobStart pf0 0 64 { tiles := [{ rdie := 0, tile := 0, entry := 0, codeEnd := 1, words := [(8192, 1)] }] } []) ∧ !Instr.wf (.jobStart pf0 0 64 { peerWards := [(4, 8)] } []) ∧
    !Instr.wf (.linkTrained 0 { lanesOk := true, lat := 65536 }) ∧ !Instr.wf (.linkTrained 0 { lanesOk := true, peerAddr := 128 }) ∧
    !Instr.wf (.rollcallRecord { addr := 68, selfBad := false, tg := 0, tick := 0, img := 0, dom := 0 }) ∧
    !Instr.wf (.vote 0 1 { pass := 3, replica := 0, finite := true, loss := 0, lr := 0 }) ∧
    !Instr.wf (.vote 0 1 { pass := 1, replica := 64, finite := true, loss := 0, lr := 0 }) ∧
    !Instr.wf (.powerLimitTick 0 0 [(8, 1)] false) ∧ !Instr.wf (.thermalTick [(8, 1)] 0 0 false) := by decide +kernel

theorem wf_refuses_arguments : !Instr.wf (.wardEnable pf0 256 0 1) ∧ !Instr.wf (.wardEnable pf0 1 256 1) ∧ !Instr.wf (.wardEnable pf0 1 0 256) ∧
    !Instr.wf (.jobStart pf0 0 (2 ^ 32) {} []) ∧ !Instr.wf (.map pf0 0 0 (2 ^ 32) 0 0 0) ∧ !Instr.wf (.map pf0 0 0 1 256 0 0) ∧
    !Instr.wf (.map pf0 0 0 1 0 256 0) ∧ !Instr.wf (.map pf0 0 0 1 0 0 65536) ∧ !Instr.wf (.unmap pf0 0 1 256) ∧
    !Instr.wf (.register pf0 65536 0 0 0 0 0 0 0) ∧ !Instr.wf (.register pf0 1 0 256 0 0 0 0 0) ∧ !Instr.wf (.register pf0 1 0 0 65536 0 0 0 0) ∧
    !Instr.wf (.register pf0 1 0 0 0 0 (2 ^ 32) 0 0) ∧ !Instr.wf (.withdraw pf0 65536) ∧ !Instr.wf (.claim pf0 1 65536 0 none) ∧
    !Instr.wf (.submit pf0 (2 ^ 32) 1 1 1 0 0 0 none) ∧ !Instr.wf (.submit pf0 0 1 (2 ^ 32) 1 0 0 0 none) ∧ !Instr.wf (.cancel pf0 (2 ^ 32)) ∧
    !Instr.wf (.prepare pf0 65536 0 0) ∧ !Instr.wf (.switch pf0 1 256) ∧ !Instr.wf (.trainStart pf0 1 256 0 []) ∧ !Instr.wf (.takeover pf0 256 0) ∧
    !Instr.wf (.linkRetrain pf0 256 0) ∧ !Instr.wf (.journalRead pf0 0 (2 ^ 32) 0) ∧ !Instr.wf (.keyRetire pf0 65536) ∧ !Instr.wf (.keyShare pf0 0 65536) ∧
    !Instr.wf (.attest pf0 1 (2 ^ 32) 0 0 true 0) ∧ !Instr.wf (.ownerSet pf0 0 (2 ^ 32) true 0 0) ∧ !Instr.wf (.certRead pf0 0 (2 ^ 32)) ∧
    !Instr.wf (.ideKey pf0 256 0 0 true) := by decide +kernel

/-! ### Small states -/

/-- Die 0 of ward 0 runs a job; nothing else is set. -/
def job0 : Job := { prog := {}, program := 0, len := 0, jseq := 1, ring := 0, began := true }
def ward0 : Ward := { st := .running, dies := 1, vf := 1, job := some job0 }
def wardIdle : Ward := { st := .idle, dies := 1, vf := 1, keySlot := 1 }
def on : State := { State.reset with life := .up, linkAddr := 3, image := image0, wards := [(0, ward0)] }
def withTile (x : Tile) : State := { on with tiles := [(0, x)] }
/-- Tile 0 runs `c`, the word at pc 0 of its instruction store. -/
def runs (c : Instr) (x : Tile := {}) : State :=
  match encodeTile c with
  | some (_, w, e) => (withTile { x with st := .running, codeEnd := 16 }).wrBytes (tileBase 0 + 0x300000) (toLE 8 w.toNat ++ toLE 8 e.toNat)
  | none => on
/-- Ring 0 of PF0 on port A is enabled, holds one command, and may be fetched from. -/
def asks : State :=
  { on with ports := [(0, { up := true, detect := false })], funcs := [(0, { bme := true })], rings := [(0, { en := true, st := 1, sqTail := 1 })] }
def asksOf (y : Ward) : State := { asks with wards := [(0, y)] }

def pass0 (f : PassF) : PassRun := { f := f, trans := false, latch := {}, latchSrc := none, rows := [], forced := [] }

/-! ### Instruction words, written out from chapter 05 -/

theorem test_words_of_passes : decodeTile 5 0x0C2100100003FDA0 0 = .ok (.pass 5 passF) ∧
    decodeTile 5 0x0C4100100803FDA0 0 = .ok (.pass 5 { passF with as := 2, wb := 256 }) := by decide +kernel

theorem test_words_of_registers : decodeTile 5 0x4460000000000000 0x12340 = .ok (.seta 5 setaF) ∧
    decodeTile 5 0x3480000280140000 0 = .ok (.loop 5 loopF) ∧ decodeTile 5 0x3800000000000000 0 = .ok (.endl 5) ∧
    decodeTile 5 0x3C80001000000000 0 = .ok (.jmp 5 jmpF) ∧ decodeTile 5 0x4000000000000000 0 = .ok (.halt 5) := by decide +kernel

theorem test_words_of_transfers : decodeTile 5 0x2041000008000000 0 = .ok (.kick 5 kickF) ∧
    decodeTile 5 0x5080000000600000 0 = .ok (.tag 5 { ac := 4, bmask := 3 }) := by decide +kernel

theorem test_words_refused : decodeTile 5 0 0 = .error 0x01 ∧ decodeTile 5 0x5800000000000000 0 = .error 0x01 ∧
    decodeTile 5 0x4000000000000001 0 = .error 0x02 := by decide +kernel

/-! ### What the statements assume: the tile -/

theorem wit_MemoryForm : Memory.wf (runs (.halt 0)).mem = true ∧ (runs (.halt 0)).mem ≠ [] := by decide +kernel
/-- The step answers a next state. -/
def goesOn (s : State) : Bool := match step s with | .next _ => true | .fault _ => false | .refused _ => false
theorem wit_StepAnswers : goesOn { runs (.halt 0) with pending := [.halt 0] } = true ∧
    Memory.wf ({ runs (.halt 0) with pending := [.halt 0] } : State).mem = true := by decide +kernel
theorem wit_TileInstructions : Instr.wf (.seta 5 setaF) = true ∧ encodeTile (.seta 5 setaF) = some (5, 0x4460000000000000, 0x12340) := by decide +kernel
theorem wit_TileWords : (0x4460000000000000#64 : W64).toNat < 2 ^ 64 ∧ wf (0#64 : W64) 63 58 = 0 ∧ 0x16 ≤ wf (0x5800000000000000#64 : W64) 63 58 := by
  decide +kernel

theorem wit_Registers_seta : (runs (.seta 0 setaF)).fetches 0 (.seta 0 setaF) 0 ∧ (runs (.seta 0 setaF)).nextPc 0 < ((runs (.seta 0 setaF)).tile 0).codeEnd ∧
    (runs (.seta 0 setaF)).nextPc 0 = 2 ∧
    (let f : SetaF := { ad := 1, mode := 1, as := 0, imm := 0xFFFF, ext := 0 }; (runs (.seta 0 f)).fetches 0 (.seta 0 f) 0) ∧
    (let f : SetaF := { ad := 1, mode := 2, as := 0, imm := 0x7FFF, ext := 0 }
     (runs (.seta 0 f)).fetches 0 (.seta 0 f) 0 ∧
     (((runs (.seta 0 f)).tile 0).areg f.as + 8 * f.imm.signExtend 48).toNat / 8 * 8 + 8 ≤ storeBytes) := by decide +kernel
theorem wit_Registers_adda : (∀ m ∈ [0, 1], let f : AddaF := { addaF with mode := m }; (runs (.adda 0 f)).fetches 0 (.adda 0 f) 0) ∧
    (let f : AddaF := { ad := 1, mode := 2, as := 0, at' := 0, k := 7, imm := 0x8000 }; (runs (.adda 0 f)).fetches 0 (.adda 0 f) 0) ∧
    (runs (.adda 0 addaF)).nextPc 0 < ((runs (.adda 0 addaF)).tile 0).codeEnd := by decide +kernel
theorem wit_Registers_setk : (runs (.setk 0 setkF)).fetches 0 (.setk 0 setkF) 0 ∧
    (∀ f ∈ ([{ kd := 7, mode := 1, ks := 7, as := 0, imm := 0xFFFFFF }, { kd := 7, mode := 2, ks := 0, as := 31, imm := 0 },
             { kd := 7, mode := 3, ks := 0, as := 31, imm := 0 }] : List SetkF), (runs (.setk 0 f)).fetches 0 (.setk 0 f) 0 ∧
      (((runs (.setk 0 f)).tile 0).areg f.as).toNat / 8 * 8 + 8 ≤ storeBytes) := by decide +kernel
/-- A load from a bank under clearing, from a base outside the store, and from beyond its end. -/
theorem wit_Registers_loads : (let f : SetaF := { ad := 1, mode := 2, as := 0, imm := 0, ext := 0 }
     let s := runs (.seta 0 f) { clearing := 1 }; s.fetches 0 (.seta 0 f) 0 ∧ (s.tile 0).anyClearing [0] = true ∧ ((s.tile 0).areg 0).toNat < storeBytes) ∧
    (let f : SetaF := { ad := 1, mode := 2, as := 2, imm := 0xFFFF, ext := 0 }
     let s := runs (.seta 0 f) { a := [(2, 2097152)] }; s.fetches 0 (.seta 0 f) 0 ∧ storeBytes ≤ ((s.tile 0).areg 2).toNat) ∧
    (let f : SetkF := { kd := 7, mode := 2, ks := 0, as := 2, imm := 0 }
     let s := runs (.setk 0 f) { a := [(2, 2097152)] }; let t := runs (.setk 0 f) { clearing := 1 }
     s.fetches 0 (.setk 0 f) 0 ∧ storeBytes < ((s.tile 0).areg 2).toNat / 8 * 8 + 8 ∧ t.fetches 0 (.setk 0 f) 0 ∧ (t.tile 0).anyClearing [0] = true) := by
  decide +kernel

theorem wit_Loops : (runs (.loop 0 loopF)).fetches 0 (.loop 0 loopF) 0 ∧
    (let f : LoopF := { k := 0, src := false, count := 0, fin := 14 }; (runs (.loop 0 f)).fetches 0 (.loop 0 f) 0 ∧ f.fin + 1 < 16) := by decide +kernel
theorem wit_LoopEnds : (∀ n ∈ [1, 2], let s := runs (.endl 0) { k := [(3, BitVec.ofNat 24 n)], loops := [⟨1, 0, 3⟩] }
      s.fetches 0 (.endl 0) 0 ∧ ((s.tile 0).kreg 3).toNat = n ∧ (s.tile 0).loops = [⟨1, 0, 3⟩] ∧ s.nextPc 0 < 16) := by decide +kernel
theorem wit_Jumps : (∀ cond ∈ [0, 1, 2, 5], let f : JmpF := { jmpF with cond := cond, pop := 4 }
      let s := runs (.jmp 0 f) { k := [(0, 1)], loops := List.replicate 4 ⟨1, 0, 3⟩ }; s.fetches 0 (.jmp 0 f) 0 ∧ f.pop ≤ (s.tile 0).loops.length) ∧
    (∀ cond ∈ [3, 4], let f : JmpF := { jmpF with cond := cond, fmask := 0x8001 }
      let s := runs (.jmp 0 f) { flags := 0x8000 }; s.fetches 0 (.jmp 0 f) 0 ∧ s.nextPc 0 < 16 ∧ f.target < 16) := by decide +kernel
/-- No room for a fifth loop, an ENDL without its loop, and a jump that pops more than there is. -/
theorem wit_Loops_bad : (let s := runs (.loop 0 loopF) { loops := List.replicate 4 ⟨1, 0, 3⟩ }
     s.fetches 0 (.loop 0 loopF) 0 ∧ 4 ≤ (s.tile 0).loops.length) ∧
    (let s := runs (.endl 0) { loops := [⟨1, 5, 3⟩] }; s.fetches 0 (.endl 0) 0 ∧ ∀ e ∈ (s.tile 0).loops.head?, e.fin ≠ (s.tile 0).pc) ∧
    (let f : JmpF := { jmpF with cond := 0, pop := 1 }; let s := runs (.jmp 0 f); s.fetches 0 (.jmp 0 f) 0 ∧ (s.tile 0).loops.length < f.pop) := by
  decide +kernel

theorem wit_Flags : (∀ c ∈ ([.beat 0, .halt 0, .waitf 0 { fmask := 1, any := false, clr := true }, .sig 0 { tgt := 63, fmask := 1 },
      .sig 0 { tgt := 64, fmask := 1 }, .fence 0 1] : List Instr), (runs c).fetches 0 c 0 ∧ (runs c).nextPc 0 < 16) ∧
    ((on.ward 0).holds (63 / 64) = true ∧ (on.ward 0).holds (64 / 64) = false) ∧ (runs (.fence 0 0x1F)).classBusy 0 0x1F = false ∧
    (runs (.fence 0 0x1F) { zeroing := [⟨0, 1⟩], stats := [{}], sigs := [(1, 1)], draining := some (drainF, {}) }).classBusy 0 0x1F = true := by
  decide +kernel
theorem wit_FlagArrives : let s := withTile { sigs := [(1, 5), (2, 6)] }
    takeSig 2 (s.tile 0).sigs = some (6, [(1, 5)]) ∧ s.wardOfDie (2 / 64) = some 0 ∧ (s.ward 0).redirect 2 = 2 ∧ (s.tile 2).health ≠ .fenced := by
  decide +kernel
theorem wit_Wakes : (let s := withTile { st := .atWait, waiting := some { fmask := 3, any := false, clr := true }, flags := 3, codeEnd := 1 }
     (s.tile 0).st = .atWait ∧ waitHolds { fmask := 3, any := false, clr := true } (s.tile 0).flags = true ∧ (s.tile 0).pc < (s.tile 0).codeEnd) ∧
    (let s := withTile { st := .atWait, waiting := some { fmask := 3, any := false, clr := false }, flags := 3
                         proofs := [{ pass := pass0 passF, sig := [], firstPoint := 0 }] }
     (s.tile 0).proofs ≠ [] ∧ (s.tile 0).codeEnd ≤ (s.tile 0).pc) ∧
    waitHolds { fmask := 3, any := false, clr := true } 1 = false ∧ waitHolds { fmask := 3, any := true, clr := true } 1 = true := by decide +kernel

theorem wit_Latches : let f : LatchF := { latchF with vs := 0x80 }; let s := runs (.latch 0 f)
    s.fetches 0 (.latch 0 f) 0 ∧ ((viewsOf (.latch 0 f)).map fun e => (s.walkView 0 e.1 e.2.1 e.2.2.1 e.2.2.2).isOk) = [true] ∧
    s.replaying 0 = false ∧ (s.tile 0).latching = none ∧ s.nextPc 0 < 16 := by decide +kernel
theorem wit_Latches_busy : let s := runs (.latch 0 latchF) { latching := some ⟨latchF, []⟩ }; let t := runs (.swap 0) { latching := some ⟨latchF, []⟩ }
    s.fetches 0 (.latch 0 latchF) 0 ∧ (s.tile 0).latching ≠ none ∧ s.replaying 0 = false ∧ t.fetches 0 (.swap 0) 0 ∧
    (runs (.swap 0)).fetches 0 (.swap 0) 0 := by decide +kernel
theorem wit_Latch_outside : let f : LatchF := { latchF with as := 1 }
    let s := runs (.latch 0 f) { a := [(1, 0xFFFFFFFFFFF8)] }
    s.fetches 0 (.latch 0 f) 0 ∧ ((viewsOf (.latch 0 f)).map fun e => (s.walkView 0 e.1 e.2.1 e.2.2.1 e.2.2.2).isOk) = [false] := by decide +kernel

theorem wit_Passes : let s := runs (.pass 0 { passF with as := 0, vs := 0x80, vcnt := 1 })
    s.fetches 0 (.pass 0 { passF with as := 0, vs := 0x80, vcnt := 1 }) 0 ∧ (s.tile 0).passRoom = true ∧ s.nextPc 0 < 16 ∧
    (s.walkView 0 0 0x80 272 (1 + 255)).isOk = true := by decide +kernel
theorem wit_Passes_outside : let f : PassF := { passF with as := 1, vs := 0 }
    let s := runs (.pass 0 f) { a := [(1, 0xFFFFFFFFFFF8)] }
    s.fetches 0 (.pass 0 f) 0 ∧ (s.walkView 0 1 0 272 (256 + 255)).isOk = false := by decide +kernel
theorem wit_Passes_turned : let f : PassF := { passF with as := 0, vs := 0x80, vcnt := 1 }
    let s := runs (.passt 0 f); let t := runs (.passt 0 f) { act := { square := false } }
    s.fetches 0 (.passt 0 f) 0 ∧ (t.fetches 0 (.passt 0 f) 0) ∧ (t.tile 0).act.turnable = false := by decide +kernel
theorem wit_Passes_full : let s := runs (.pass 0 { passF with vcnt := 1 }) { passes := [pass0 passF, pass0 passF] }
    s.fetches 0 (.pass 0 { passF with vcnt := 1 }) 0 ∧ (s.tile 0).passRoom = false := by decide +kernel
theorem wit_Carries_full : 64 < carryNeed { passF with pi := 4, vcnt := 256, wc := 256 } [] := by decide +kernel
theorem wit_Stream : let p : PassRun := { pass0 passF with rows := [0] }
    (∀ h ∈ ([.normal, .degraded] : List Health), let s := withTile { passes := [p], health := h, clearing := 2 }
     (s.tile 0).passes = [] ++ p :: [] ∧ s.replaying 0 = false ∧ (s.tile 0).anyClearing (banksOf p.rows 272) = false ∧ (s.tile 0).health = h) ∧
    (let s := { withTile { passes := [p] } with
       tiles := [(0, { passes := [p] }), (partner 0, { proofs := [{ pass := p, sig := [], firstPoint := 0, started := true }] })] }
     s.replaying 0 = true) := by decide +kernel

/-! ### What the statements assume: array, faults, rings -/

theorem wit_Promotion : (let p : PassRun := { pass0 passF with started := true, forced := [3] }
     let s := withTile { passes := [p] }; (s.tile 0).passes = [p] ∧ (s.tile 0).anyClearing (banksOf p.rows 272) = false) ∧
    (∀ c ∈ [true, false], let p : PassRun := { pass0 { passF with vcnt := 1 } with started := true, checked := c, rows := List.replicate 256 0 }
     let s := withTile { passes := [p] }
     (s.tile 0).passes = [p] ∧ p.forced = [] ∧ p.mismatched = false ∧ s.posEmpty 0 0 = false ∧
     (let q := checkSums p.latch p.trans (s.passVec 0 p 0) (p.segsOf p.point)
      mod16 (q.1 + (0 : Int)) = mod16 (q.2 + 0) ∧ mod16 (q.1 + 1) ≠ mod16 (q.2 + 0))) := by decide +kernel

theorem wit_Wzero : let f : WzeroF := { wb := 511, wc := 2 }
    (let s := runs (.wzero 0 f); s.fetches 0 (.wzero 0 f) 0 ∧ s.nextPc 0 < 16 ∧ ∀ u ∈ wellsOf f.wb f.wc, (s.tile 0).wellBusy u = false) ∧
    (let s := runs (.wzero 0 f) { board := [(0, 1)] }; s.fetches 0 (.wzero 0 f) 0 ∧ ∃ u ∈ wellsOf f.wb f.wc, (s.tile 0).wellBusy u = true) := by
  decide +kernel
theorem wit_Drain : let f : DrainF := { drainF with vd := 0x80, wc := 1 }; let s := runs (.drain 0 f)
    s.fetches 0 (.drain 0 f) 0 ∧ s.nextPc 0 < 16 ∧ (s.tile 0).draining = none ∧ (s.drainOffs 0 f).isOk = true ∧
    (∀ u ∈ wellsOf f.wb f.wc, (s.tile 0).wellBusy u = false ∧ u ∉ (s.tile 0).held) ∧
    (let t := runs (.drain 0 f) { held := [0] }; t.fetches 0 (.drain 0 f) 0 ∧ ∃ u ∈ wellsOf f.wb f.wc, u ∈ (t.tile 0).held) := by decide +kernel
theorem wit_Drain_outside : let f : DrainF := { drainF with vd := 0x80, wc := 1, ad := 1 }; let s := runs (.drain 0 f) { a := [(1, 0xFFFFFFFFFFF8)] }
    s.fetches 0 (.drain 0 f) 0 ∧ (s.drainOffs 0 f).isOk = false := by decide +kernel
theorem wit_DrainComplete : let s := withTile { draining := some (drainF, { cells := [(0, 7)] }), clearing := 2 }
    (s.tile 0).draining = some (drainF, { cells := [(0, 7)] }) ∧
    (s.tile 0).anyClearing (([(0, (7 : Byte))].map fun c => c.1 / 65536).dedup ++ ({} : Landing).reads) = false := by decide +kernel

theorem wit_FaultRecords : 1 ≤ on.saf.seqNext ∧ on.saf.fallback = false ∧ on.saf.ringAlways = false ∧ (on.ward 0).job = some job0 ∧
    (on.ward 0).redirect 5 ≠ 6 := by decide +kernel
theorem wit_Verdicts : verdictOf [(1, 2)] [(1, 1)] true = 0 ∧ verdictOf [(1, 2)] [(2, 2)] true = 1 ∧ verdictOf [(1, 2)] [(3, 3)] true = 2 ∧
    verdictOf [(1, 2)] [(1, 2)] true = 2 ∧ verdictOf [(1, 2), (5, 5)] [(2, 2), (5, 5)] false = 1 := by decide +kernel
theorem wit_ProofRuns : let p : Proof := { pass := pass0 passF, sig := [], firstPoint := 0, started := true }
    (∀ l ∈ ([[], [p]] : List (List Proof)), let s := withTile { proofs := p :: l, codeEnd := 1 }
     (s.tile 0).proofs = p :: l ∧ (∀ q ∈ (s.tile 0).passes.head?, q.mismatched = false) ∧ (s.tile 0).pc < (s.tile 0).codeEnd) ∧
    (let q : Proof := { p with started := false }; (withTile { proofs := [q] }).tile 0 = { proofs := [q] }) := by decide +kernel

theorem wit_Rings_idle : on.canFetch (srcKey pf0) = false ∧ ringOf (.rollcallClear pf0) = some (pf0, .rollcallClear) := by decide +kernel
theorem wit_Rings_error : let s := { asks with funcs := [] }; s.canFetch (srcKey pf0) = true ∧ s.canIssue 0 0 = false := by decide +kernel
theorem wit_Rings_taken : asks.takesHere pf0 .rollcallClear = true ∧ 1 ≤ asks.jrnNext ∧ asks.canIssue 0 0 = true ∧
    cmdLegal { pf0 with ward := 8 } .jobEnd = false ∧ cmdLegal pf0 (.unmap (2 ^ 48) 1 0) = false ∧
    (let x := { pf0 with relay := true, dest := 1 }; cmdLegal x .jobEnd = true ∧ asks.goesAway x = true ∧ asks.canFetch (srcKey x) = true) ∧
    (let s := asksOf { ward0 with multi := true }
     s.canFetch (srcKey pf0) = true ∧ cmdLegal pf0 .jobEnd = true ∧ s.goesAway pf0 = false ∧ s.holds (s.cmdWard pf0 .jobEnd) .jobEnd = true) ∧
    (let s := asksOf { ward0 with heldOps := [{ origin := 3, oseq := 1, jseq := 1, force := false, op := .jobEnd }] }
     s.holds (s.cmdWard pf0 (.map 0 0 1 1 3 0)) (.map 0 0 1 1 3 0) = true) := by decide +kernel
theorem wit_Completions : on.opens.get 7 = none ∧ (let s : State := { asks with opens := [(7, some { ring := 0, tag := 5, ward := 0 })] }
      (s.opens.get 7).isSome = true ∧ ((s.opens.get 7).bind (·.origin)) = none) ∧ (on.ring 0).st ≠ 1 ∧
    ((asks.ring 0).st = 1 ∧ (asks.ring 0).unposted = [] ∧ (asks.ring 0).cqFull = false ∧ asks.canIssue (0 / 16 / 9) (0 / 16 % 9) = true) ∧
    (let s : State := { asks with rings := [(0, { st := 1, cqTail := 63 })] }; (s.ring 0).cqFull = true) ∧
    (let s : State := { asks with rings := [(0, { st := 1, cqTail := 62 })] }; (s.ring 0).cqFull = false) := by decide +kernel

/-! ### What the statements assume: wards -/

/-- The context with which a command comes is of ward 0 and the command is taken. -/
def takes (s : State) (x : Src) (op : HostOp) (w : Nat) : Bool := s.takesHere x op && decide ((s.ctxOf x op).w = w)
/-- Ward 0 idle with one page of 1 GiB at 0, its key slot and its schedule in it. -/
def mapped : State := { asksOf { wardIdle with l1 := [(0, leafWord 0 3 1)] } with slots := [(1, { st := .ward, ward := 0, key := 5 })] }

theorem wit_WardEnable : (let s := asksOf {}; takes s pf0 (.wardEnable 1 0 1) 0 = true ∧ (s.ward 0).st = .disabled ∧ s.vfTaken 0 0 1 = false ∧
      s.someonePlacing = false ∧ s.freeSlot = some 1 ∧ 8 ≤ s.dies.length ∧ 8 ≤ s.freeDies.length) ∧
    (let s := asksOf { st := .enablePending }; takes s pf0 (.wardEnable 8 1 8) 0 = true) ∧
    (let s := asksOf wardIdle; takes s pf0 (.wardEnable 1 0 2) 0 = true ∧ s.vfTaken 0 0 2 = false) ∧
    (let s := asksOf { st := .shutting, dies := 1 }; takes s pf0 (.wardEnable 1 0 2) 0 = true ∧ s.vfTaken 0 0 2 = false) := by decide +kernel
theorem wit_WardEnable_refused : (let s := asksOf {}; takes s pf0 (.wardEnable 3 0 1) 0 = true ∧ takes s pf0 (.wardEnable 1 2 1) 0 = true ∧
      takes s pf0 (.wardEnable 1 0 0) 0 = true ∧ takes s pf0 (.wardEnable 1 0 9) 0 = true) ∧
    (let s := { asksOf { st := .enablePending } with variant := .half }; takes s pf0 (.wardEnable 8 2 1) 0 = true ∧ s.dies.length < 8) ∧
    (let s := { asks with wards := [(1, wardIdle)] }; takes s pf0 (.wardEnable 1 0 1) 0 = true ∧ s.vfTaken 0 0 1 = true) ∧
    (let s := { asks with wards := [(1, { wardIdle with dies := 0xFF })] }
     takes s { pf0 with wait := true } (.wardEnable 1 0 2) 0 = true ∧ takes s pf0 (.wardEnable 1 0 2) 0 = true ∧ s.freeDies.length < 1 ∧
     s.vfTaken 0 0 2 = false) := by decide +kernel

theorem wit_WardsDown : takes (asksOf ward0) pf0 .wardDisable 0 = true ∧ takes (asksOf ward0) { pf0 with force := true } .wardDisable 0 = true ∧
    takes (asksOf { st := .shutting }) pf0 .wardDisable 0 = true ∧ takes (asksOf wardIdle) pf0 .wardDisable 0 = true ∧ wardIdle.job = none ∧
    takes (asksOf ward0) pf0 .wardReset 0 = true ∧ ward0.st = .running ∧ ward0.job = some job0 ∧
    takes (asksOf wardIdle) pf0 .wardReset 0 = true ∧ takes (asksOf {}) pf0 .wardReset 0 = true ∧
    (let s := { on with wards := [(0, { st := .resetting, scrubDue := true, resetJseq := some 4 })] }
     (s.ward 0).scrubDue = true ∧ (s.ward 0).disables = [] ∧ ∀ c ∈ (s.ward 0).chans, (s.chan c).squashing = none) := by decide +kernel

theorem wit_JobStart : (let s := { asks with variant := .serve }
     takes s pf0 (.jobStart 0 64 { training := [1] }) 0 = true ∧ s.updFitted = false) ∧
    (let s := asksOf { wardIdle with st := .placing }; takes s pf0 (.jobStart 0 64 {}) 0 = true ∧ (s.ward 0).st = .placing) ∧
    takes asks pf0 (.jobStart 0 64 {}) 0 = true ∧ takes mapped pf0 (.jobStart 0 64 {}) 0 = true ∧ (mapped.ward 0).st = .idle ∧
    (∀ p ∈ ([({}, true), ({ dies := 2 }, false)] : List (JobProg × Bool)),
      let a := (mapped.taken pf0 (.jobStart 0 64 p.1)).seen []
      takes mapped pf0 (.jobStart 0 64 p.1) 0 = true ∧
      (match (a.modWard 0 fun y => { y with closeMin := a.closeMin p.1 }).jobCheck 0 0 64 p.1 with | .ok _ => true | .error _ => false) = p.2) := by
  decide +kernel

theorem wit_JobEnd : takes mapped pf0 .jobEnd 0 = true ∧ (mapped.ward 0).job = none ∧ takes asks pf0 .jobEnd 0 = true ∧
    takes asks { pf0 with force := true } .jobEnd 0 = true ∧ (asks.ward 0).job = some job0 ∧ (asks.ward 0).live = [] := by decide +kernel

theorem wit_Pages : takes mapped pf0 (.map 0x40000000 0x40000000 1 1 3 0) 0 = true ∧ mapped.mapBad 0 0x40000000 0x40000000 1 1 3 0 = false ∧
    mapped.mapBad 0 1 0 1 1 3 0 = true ∧ takes mapped pf0 (.map 1 0 1 1 3 0) 0 = true ∧ takes mapped pf0 (.unmap 0 1 1) 0 = true ∧
    mapped.unmapBad 0 0 1 1 = false ∧ mapped.unmapBad 0 1 1 1 = true ∧ takes mapped pf0 (.unmap 1 1 1) 0 = true ∧
    (let s := asksOf { wardIdle with l1 := [(0, 0x4001#64)], l2 := [(512, leafWord 0 3 1)] }
     (((s.ward 0).tableAt 0).isSome = true ∧ s.mapBad 0 0 0 1 0 3 0 = false ∧ takes s pf0 (.map 0 0 1 0 3 0) 0 = true ∧
      s.unmapBad 0 0 1 0 = false ∧ takes s pf0 (.unmap 0 1 0) 0 = true)) := by decide +kernel

/-! ### What the statements assume: adapters and sequences -/

/-- Ward 0 runs a job with rank slot 0 and sequences 0 to 3. -/
def serves : Ward := { ward0 with rslots := [(0, { valid := true, imgMib := 1, rmax := 15, mats := 0xFFFF })] }
def ent1 : RegEnt := { st := .registered }
def served (e : RegEnt) : Ward := { serves with registry := [(1, e)] }
def servesOn (y : Ward) : State := { asksOf y with image := { image0 with plan := [(0, (0, 4))] } }

theorem wit_Registry : (let s := servesOn serves
     takes s pf0 (.register 1 16383 15 16 0xFFFF 1048576 0 0xFFFFFFFFFF) 0 = true ∧ takes s pf0 (.register 1 16383 0 16 0xFFFF 1048576 0 0xFFFFFFFFFF) 0 = true ∧
     ((s.ward 0).registry.get 1).st = .free ∧ (s.ward 0).running = true ∧ ((s.ward 0).rslots.get 0).takes 16 0xFFFF 1048576 = true ∧
     ((s.ward 0).rslots.get 0).takes 17 0xFFFF 1048576 = false ∧ ((s.ward 0).rslots.get 15).takes 0 0 0 = false ∧
     takes s pf0 (.withdraw 1) 0 = true) ∧
    (let s := servesOn (served ent1); takes s pf0 (.withdraw 1) 0 = true ∧ ((s.ward 0).registry.get 1).st ≠ .free ∧ (s.ward 0).seqs = [] ∧
     (s.train 0 1).st = .off ∧ ((s.ward 0).registry.get 1).nxt = false) := by decide +kernel
theorem wit_Claims : (let s := servesOn { serves with xclaim := [(0, 1), (2047, 1)] }
     takes s pf0 (.claim 1 2 0 (some [(0, 0), (255, 7)])) 0 = true ∧ (s.ward 0).pairsBad [(0, 0), (255, 7)] = false ∧
     (s.ward 0).pairsBad [(256, 0)] = true ∧ (s.ward 0).pairsBad [(0, 8)] = true ∧ (s.ward 0).pairsBad [(1, 0)] = true ∧
     (s.ward 0).pairsBad [(0, 0), (0, 0)] = true ∧ (∀ p ∈ [(0, 0), (255, 7)], (s.ward 0).xowner (pairIdx p) = some 0)) ∧
    (let s := servesOn { serves with xclaim := [(2047, 3)] }
     takes s pf0 (.claim 1 1 0 (some [(255, 7)])) 0 = true ∧ (s.ward 0).pairsBad [(255, 7)] = false ∧ (s.ward 0).xowner (pairIdx (255, 7)) = some 2 ∧
     takes s pf0 (.unclaim 2 1 0 (some [(255, 7)])) 0 = true ∧ takes s pf0 (.unclaim 1 1 0 (some [(255, 7)])) 0 = true ∧
     ((s.ward 0).registry.get 2).pins = 0) := by decide +kernel

theorem wit_Sequences : (let s := servesOn (served ent1)
     takes s pf0 (.submit 4 1 1 1 0 0 0 (some [])) 0 = true ∧ s.inRange 0 4 = false ∧ takes s pf0 (.submit 3 1 1 1 0 0 0 (some [])) 0 = true ∧
     takes s pf0 (.submit 0 1 1 1 0 0 0 none) 0 = true ∧ takes s pf0 (.submit 0 2 1 1 0 0 0 none) 0 = true ∧ s.inRange 0 3 = true ∧
     s.inRange 0 0 = true ∧ ((s.ward 0).seqs.get 3).st = .free ∧ ((s.ward 0).registry.get 1).st = .registered ∧ ((s.ward 0).registry.get 2).st ≠ .registered ∧
     takes s pf0 (.cancel 3) 0 = true ∧ takes s pf0 (.cancel 4) 0 = true) ∧
    (let s := servesOn { served ent1 with seqs := [(3, { st := .queued, ctx := 1 })] }
     takes s pf0 (.cancel 3) 0 = true ∧ s.inRange 0 3 = true ∧ ((s.ward 0).seqs.get 3).st ≠ .free) ∧
    (let s := servesOn { serves with blocks := [(0, { st := 2, seqIdx := 3 })] }
     (∀ d ∈ (s.ward 0).dieList, (s.dev d).queue = []) ∧ Tab.wf default (s.ward 0).blocks = true) ∧
    (let s := servesOn serves; s.live = true ∧ s.owns rq0 0 = true ∧ s.owns { port := 0, func := 2 } 0 = false) := by decide +kernel

theorem wit_Prepares : (let s := servesOn (served ent1)
     takes s pf0 (.prepare 0 0 0) 0 = true ∧ (s.ward 0).running = true ∧ (s.ward 0).basePrepJseq = none ∧ (s.ward 0).dist = none ∧
     (s.ward 0).baseState = 0 ∧ takes s pf0 (.prepare 2 0 0) 0 = true ∧ ((s.ward 0).registry.get 2).st ≠ .registered ∧
     (s.ward 0).oldHeld 1 = false ∧ takes s pf0 (.prepare 1 0 0) 0 = true ∧ ((s.ward 0).registry.get 1).train = false) ∧
    (let s := servesOn { serves with baseState := 1 }; takes s pf0 (.prepare 0 0 0) 0 = true ∧ takes s pf0 (.switch 0 1) 0 = true) ∧
    (let s := servesOn { serves with baseState := 3 }; takes s pf0 (.prepare 0 0 0) 0 = true ∧ (s.ward 0).basePrepJseq = none) ∧
    (let s := servesOn { serves with baseState := 2 }; takes s pf0 (.switch 0 0) 0 = true ∧ (s.ward 0).baseState = 2) ∧
    (let s := asks; takes s pf0 (.prepare 1 0 0) 0 = true) ∧
    (let s := servesOn (served { ent1 with oldmb := 1 }); takes s pf0 (.prepare 1 0 0) 0 = true ∧ (s.ward 0).oldHeld 1 = true) ∧
    (let s := servesOn (served { ent1 with nxt := true }); takes s pf0 (.prepare 1 0 0) 0 = true ∧ takes s pf0 (.switch 1 1) 0 = true ∧
     ((s.ward 0).registry.get 1).nxt = true) ∧
    (let s := servesOn (served ent1); takes s pf0 (.switch 1 0) 0 = true ∧ ((s.ward 0).registry.get 1).nxt = false) ∧
    takes mapped pf0 (.prepare 0 0 0) 0 = true ∧ (mapped.ward 0).running = false := by decide +kernel

def shard1 (d : Nat) : Shard := { digest := 0, dest := BitVec.ofNat 64 d, offset := 0, len := 1, src := 0 }
/-- Byte lists laid out at their offsets in `n` zeros. -/
def laid (n : Nat) (l : List (Nat × List Byte)) : List Byte :=
  l.foldl (fun b e => b.take e.1 ++ e.2 ++ b.drop (e.1 + e.2.length)) (List.replicate n 0)
/-- A package of one member, device 1, with a shard for module 3 and one for module 2. -/
def man (good : Bool) : Manifest :=
  { sigOk := good, keyKnown := true
    bytes := laid 1920 [(0, toLE 4 0x5032444C), (4, [1]), (6, [1]), (8, [2]), (128, [1]), (1792 + 32, [8]), (1792 + 48, toLE 4 4096),
                        (1856 + 32, [4]), (1856 + 48, toLE 4 4096)] }
def ownId (s : State) : State := { s with sec := { s.sec with deviceId := 1 }, image := { s.image with devmap := [(2, 1), (3, 1)] } }

def dist1 (st : Tab ShardState) (reader : Bool) : Dist :=
  { target := 0, package := 0, alt := 0, shards := [shard1 8, shard1 8, shard1 4], st := st, tries := [], reader := reader, jseq := 1 }

/-- A package at address 0 of the host's memory is taken as its signature says; zeros there are no package. -/
def packaged : State :=
  [(0, toLE 4 0x5032444C), (4, [1]), (6, [1]), (8, [2]), (128, [1]), (1824, [8]), (1840, toLE 4 4096), (1888, [4]), (1904, toLE 4 4096)].foldl
    (fun s e => s.wrBytes (hostBase 0 e.1) e.2) (ownId (servesOn serves))
theorem wit_Prepares_package : packaged.manifestOk (packaged.localManifest 0 0) = Config.packageSigned (packaged.localManifest 0 0).bytes ∧
    (∃ h ∈ (packaged.localManifest 0 0).shards, h.to packaged.linkAddr = true) ∧
    (servesOn serves).manifestOk ((servesOn serves).localManifest 0 0) = false := by
  have h1 : (packaged.localManifest 0 0).laidOut = true := by decide +kernel
  have h2 : (packaged.localManifest 0 0).devIds.contains packaged.sec.deviceId = true := by decide +kernel
  have h3 : ((List.range 64).all fun a => !((packaged.localManifest 0 0).shards.any fun h => h.to a) ||
      (packaged.localManifest 0 0).devIds.contains (if a = packaged.linkAddr then packaged.sec.deviceId else packaged.image.devmap.get a)) = true := by
    decide +kernel
  have h4 : ((servesOn serves).localManifest 0 0).laidOut = false := by decide +kernel
  refine ⟨?_, by decide +kernel, ?_⟩
  · unfold State.manifestOk
    rw [h1, h2, h3]
    simp [State.localManifest]
  · simp [State.manifestOk, h4]

theorem wit_Distribute : (let s := ownId (servesOn serves)
     takes s pf0 (.distribute 0 0 0 0 (man true)) 0 = true ∧ takes s pf0 (.distribute 0 0 0 0 (man false)) 0 = true ∧
     (s.ward 0).running = true ∧ (s.ward 0).dist = none ∧ (s.ward 0).buildable 0 = true ∧ (s.ward 0).oldHeld 0 = false ∧
     ((s.taken pf0 (.distribute 0 0 0 0 (man true))).seen []).manifestOk (man true) = true ∧
     ((s.taken pf0 (.distribute 0 0 0 0 (man true))).seen []).manifestOk (man false) = false ∧ ∃ h ∈ (man true).shards, h.to s.linkAddr = true) ∧
    (let s := servesOn { serves with baseState := 2 }
     takes s pf0 (.distribute 0 0 0 0 (man true)) 0 = true ∧ (s.ward 0).buildable 0 = false) ∧
    (let s := ownId (servesOn (served { ent1 with oldmb := 1 }))
     takes s pf0 (.distribute 1 0 0 0 (man true)) 0 = true ∧ (s.ward 0).buildable 1 = true ∧ (s.ward 0).oldHeld 1 = true) ∧
    takes mapped pf0 (.distribute 0 0 0 0 (man true)) 0 = true := by decide +kernel

theorem wit_Shards : (let s := servesOn { serves with dist := some (dist1 [(1, .good)] false) }
     s.live = true ∧ (shard1 4).to s.linkAddr = false ∧ (shard1 8).to s.linkAddr = true ∧ (dist1 [(1, .good)] false).st.get 1 = .good ∧
     (dist1 [(1, .good)] false).st.get 0 = .waiting ∧ (dist1 [] true).reader = true ∧ (dist1 [] true).held = false ∧
     (dist1 [] false).st.get 0 ≠ .good ∧ (dist1 [] false).shards[0]? = some (shard1 8)) ∧
    (dist1 [] false).shards[1]? = some (shard1 8) ∧ (1 : Nat) < (dist1 [] false).shards.length := by decide +kernel

/-- A shard whose bytes have the digest it names, and one whose tag fails. -/
theorem wit_ShardDigest : let h : Shard := { shard1 8 with digest := Config.sha256 [0] }
    (true && [0#8].length == h.len && Config.sha256 [0#8] == h.digest) = true ∧ (false && [0#8].length == h.len && Config.sha256 [0#8] == h.digest) = false := by
  simp [shard1]

/-! ### What the statements assume: training -/

/-- One tensor of one element on die 0, in the page at 0, under the key slot of context 1. -/
def rec1 : TrainRec :=
  { half := 128, acc := 64, img := 128, tt := 0x1000, loss := 0x2000, report := 0x4000, state := [(0, 0x10000)], start := 7,
    groups := [{ rule := 0, sites := [], lrm := f32One, b1 := 0, b2 := 0, eps := 0, wd := 0, da := 0, dr := 0 }],
    tensors := [{ die := 0, group := 0, role := 0, partner := 0, rows := 1, cols := 1, off := 0, goff := 0, ioff := 0, cw := 0 }] }
/-- The cells of its 1,024 bytes and of its tensor table's entry, by the offsets of R331 to R333. -/
def recCells : List (Nat × List Byte) :=
  [(0x6004, [32]), (0x6006, [1]), (0x6014, [1]), (0x6018, toLE 6 0x1000), (0x6020, toLE 6 0x2000), (0x6028, [1]), (0x6030, [128]), (0x6038, [64]),
   (0x6040, [128]), (0x6048, [7]), (0x6050, toLE 6 0x4000), (0x6080, toLE 6 0x10000), (0x6104, toLE 4 0x3F800000), (0x1008, [1]), (0x100C, [1])]
def withRecord (s : State) : State := recCells.foldl (fun s e => s.writeVa 0 1 e.1 e.2) s

def trainer (x : Train) : State :=
  { servesOn { served { ent1 with res := .resident } with l1 := [(0, leafWord 0 3 1)], trains := [(1, x)] } with
    slots := [(1, { st := .live, ward := 0, members := [1], key := 5 })] }

theorem wit_TrainRecord : let a := (withRecord (trainer {})).taken pf0 (.trainStart 1 0 0x6000)
    ((a.seen []).readRecord 0 1 0x6000).2 = some rec1 ∧ ((a.seen []).readRecord 0 1 0x6000).1.recordOk 0 1 rec1 = true ∧
    ((a.seen []).readRecord 0 1 0x40000000).2 = none ∧
    (let b := (a.writeVa 0 1 0x602C [1]).readRecord 0 1 0x6000; b.2 = some { rec1 with reservedZero := false } ∧
     b.1.recordOk 0 1 { rec1 with reservedZero := false } = false) := by decide +kernel
theorem wit_TrainStart : (let s := trainer {}
     takes s pf0 (.trainStart 1 0 0x6000) 0 = true ∧ takes s pf0 (.trainStart 1 1 0x6000) 0 = true ∧ takes s pf0 (.trainStart 1 2 0x6000) 0 = true ∧
     s.updFitted = true ∧ (s.ward 0).running = true ∧ ((s.ward 0).registry.get 1).st = .registered ∧ ((s.ward 0).registry.get 1).res = .resident ∧
     ((s.ward 0).registry.get 1).train = false) ∧
    (let s := { trainer {} with variant := .serve }
     s.updFitted = false ∧ takes s pf0 (.trainStart 1 0 0) 0 = true ∧ takes s pf0 (.trainStop 1) 0 = true) := by decide +kernel

theorem wit_TrainStop : (let s := trainer {}; takes s pf0 (.trainStop 1) 0 = true ∧ takes s pf0 (.rollback 1) 0 = true ∧ (s.train 0 1).active = false) ∧
    (let s := trainer { st := .accum, k0Valid := true, k0Ver := true }
     takes s pf0 (.trainStop 1) 0 = true ∧ takes s pf0 (.rollback 1) 0 = true ∧ (s.train 0 1).active = true ∧ (s.train 0 1).newest = some 0 ∧
     s.updFitted = true) ∧ ({ st := .faulted } : Train).active = true ∧ ({ st := .accum } : Train).newest = none := by decide +kernel
theorem wit_UpdStep : (let s := { trainer { st := .accum, stepDone := 7 } with upds := [(0, { stepLr := 0x3F800000 })] }
     s.live = true ∧ 0 ∈ s.dies ∧ RegW.legal { off := 0, size := 8, val := 0x0001000000000008 } = true ∧ s.updWard 0 = some 0 ∧ s.updFitted = true ∧
     field (0x0001000000000008#64 : W64).toNat 63 48 = 1 ∧ field (0x0001000000000008#64 : W64).toNat 31 0 = 8 ∧ (s.train 0 1).active = true ∧
     s.ownsDie rq0 0 = true ∧ s.ownsDie { port := 0, func := 2 } 0 = false ∧ (7 : Nat) ≤ (s.train 0 1).stepDone % 2 ^ 32 ∧
     (s.train 0 1).stepDone % 2 ^ 32 < 8 ∧ f32Finite (s.upd 0).stepLr = true ∧ f32Neg (s.upd 0).stepLr = false) ∧
    f32Finite 0x7FC00000 = false ∧ f32Finite 0x7F800000 = false ∧ (f32Neg 0xBF800000 = true ∧ f32IsZero 0xBF800000 = false) ∧
    (f32Neg 0x80000000 = true ∧ f32IsZero 0x80000000 = true) := by decide +kernel

def vote1 (r p : Nat) : VoteIn := { pass := p, replica := r, addr := r, finite := true, loss := 0, lr := f32One }

/-- The job has `n` replicas. -/
def replicas (n : Nat) (x : Train) : State :=
  let s := trainer x
  s.modWard 0 fun y => { y with job := some { job0 with prog := { nrep := n } } }
/-- The same, each replica on modules `ms`. -/
def spread (n : Nat) (ms : List Nat) (x : Train) : State :=
  let s := trainer x
  s.modWard 0 fun y => { y with job := some { job0 with prog := { nrep := n, modules := ms, replicas := [ms.map fun m => (m, 0)] } } }

theorem wit_Reduction : (let s := trainer { st := .reduce, stepDone := 7, posted := some (8, f32One) }
     s.live = true ∧ (s.train 0 1).st = .reduce ∧ 8 % 2 ^ 32 = (s.train 0 1).n % 2 ^ 32) ∧ (trainer {}).live = true ∧ ((trainer {}).train 0 1).st ≠ .reduce := by
  decide +kernel
theorem wit_PassOne : (let s := replicas 1 { st := .pass1 }
     let p := s.passOne 0 1
     let s2 := (p.1.modTrain 0 1 fun y => { y with scal := p.2.scal, passed1 := true }).updIdle 0 1
     let v := (s2.combine 0 1 (p.2.parts ++ [])).2
     (s.train 0 1).st = .pass1 ∧ (s.train 0 1).passed1 = false ∧ (s.ward 0).nrep = 1 ∧ (s.train 0 1).votes1 = [] ∧ s.leads 0 = true ∧
     s.otherModules 0 = [] ∧ v.replica = 0 ∧ v.finite = true ∧ v.master = false) ∧
    (let s := replicas 3 { st := .pass1, votes1 := [vote1 1 1] }
     (s.train 0 1).st = .pass1 ∧ (s.train 0 1).passed1 = false ∧ s.leads 0 = true ∧ (s.ward 0).nrep = 3 ∧
     ∀ u ∈ (s.train 0 1).votes1, u.replica ≠ 2) ∧
    (let s := spread 1 [1, 3] { st := .pass1 }; (s.train 0 1).passed1 = false ∧ s.leads 0 = false) ∧
    (let s := spread 1 [3, 4] { st := .pass1 }; s.leads 0 = true ∧ s.otherModules 0 = [4] ∧ (s.runModules 0 ≠ []) ∧
     (s.train 0 1).passed1 = false) := by decide +kernel

theorem wit_Votes : (let s := replicas 2 { st := .pass1 }
     (s.train 0 1).active = true ∧ (vote1 1 1).replica ≠ (s.ward 0).replica ∧ (vote1 1 1).replica < (s.ward 0).nrep ∧ (vote1 1 1).pass = 1 ∧
     s.awaitsVote 0 (vote1 2 1) = false ∧ ∀ u ∈ (s.train 0 1).votes1 ++ [vote1 1 1], u.replica ≠ 0) ∧
    (let s := replicas 2 { st := .pass2 }; (s.train 0 1).active = true ∧ (vote1 1 2).pass = 2 ∧ (s.train 0 1).passed2 = false) ∧
    (let s := replicas 2 { st := .pass1, votes1 := [vote1 0 1] }
     (s.train 0 1).st = .pass1 ∧ (let l := ((s.train 0 1).votes1.filter fun u => u.replica ≠ 1) ++ [vote1 1 1]
       (∀ r < (s.ward 0).nrep, ∃ u ∈ l, u.replica = r) ∧ (∀ u ∈ l, u.finite = true ∧ u.master = false ∧ u.lr = (vote1 1 1).lr))) ∧
    (let s := spread 2 [1, 3] { st := .pass1 }; let v : VoteIn := { vote1 0 1 with addr := 1 }
     (s.train 0 1).active = true ∧ v.replica = (s.ward 0).replica ∧ s.leads 0 = false ∧ v.addr = s.leadModule 0 ∧ v.pass = 1 ∧
     ∀ u ∈ (s.train 0 1).votes1 ++ [v], u.replica ≠ 1) := by decide +kernel

/-- Pass two of context 1 as PASS_TWO_COMPLETE runs it. -/
def passTwo1 (s : State) : PassTwo := s.passTwo 0 1 (s.train 0 1).steerFactor (s.train 0 1).record.dies
theorem wit_PassTwo : (let s := replicas 1 { st := .pass2 }
     (s.train 0 1).st = .pass2 ∧ (s.train 0 1).passed2 = false ∧ (s.train 0 1).copying = none ∧ (s.train 0 1).votes2 = [] ∧
     (s.train 0 1).own2 = [] ∧ (s.train 0 1).stopping = false ∧ (s.ward 0).nrep = 1 ∧ (s.ward 0).replica = 0 ∧ s.leads 0 = true ∧
     s.otherModules 0 = [] ∧ (passTwo1 s).poison = false ∧ (passTwo1 s).bad = none) ∧
    (∀ x ∈ ([{ st := .armed }, { st := .reduce }, { st := .pass1, passed1 := true }, { st := .pass2, passed2 := true }] : List Train),
      let s := replicas 2 x; (s.train 0 1).st = x.st ∧ (s.train 0 1).stopping = false) ∧
    (let s := replicas 1 { st := .accum }; (s.train 0 1).st = .accum) ∧ (let s := replicas 1 { st := .pass1 }; (s.train 0 1).passed1 = false) := by
  decide +kernel

theorem wit_PassTwo_bad : let s := (replicas 1 { st := .pass2, record := rec1 }).writeVa 0 1 0x10000 (List.replicate 64 0 ++ toLE 4 0x7F800000)
    ((passTwo1 s).poison = false ∧ (passTwo1 s).bad ≠ none) := by decide +kernel

def digest1 (r n : Nat) (d : BitVec 256) : DigestIn := { replica := r, step := n, dig := d, dies := [(0, d)] }
theorem wit_Digests : (let s := replicas 2 { st := .accum }
     (s.train 0 1).active = true ∧ (digest1 1 7 0).replica ≠ (s.ward 0).replica ∧ (digest1 1 7 0).replica < (s.ward 0).nrep) ∧
    (let s := spread 2 [3, 4] { st := .accum }
     (s.train 0 1).active = true ∧ (digest1 0 7 0).replica = (s.ward 0).replica ∧ (digest1 0 7 0).replica < (s.ward 0).nrep ∧ s.otherModules 0 ≠ []) ∧
    (let s := replicas 2 { st := .accum, pendRounds := [7], rehash := true }; (s.train 0 1).pendRounds = 7 :: [] ∧ (s.train 0 1).rehash = true) ∧
    (∀ k ∈ [0, 1], let s := trainer { st := .accum, copying := some (k, 0, 7) }; (s.train 0 1).copying = some (k, 0, 7)) := by decide +kernel

/-- A re-hash that agrees with this replica's own digest, and one that does not. -/
theorem wit_Rehash (own : BitVec 256) : (digest1 1 7 own).dig = own ∧ own ≠ (digest1 1 7 (own + 1)).dig := by
  refine ⟨rfl, fun h => ?_⟩
  have h : own = own + 1 := h
  bv_omega
theorem wit_Restores : (let s := trainer { st := .rollback }; (s.train 0 1).st = .rollback ∧ (s.train 0 1).newest = none ∧ (s.train 0 1).stopping = false) ∧
    (let s := trainer { st := .rollback, k1Valid := true, k1Ver := true }
     (s.train 0 1).newest = some 1 ∧ (s.train 0 1).runHold = false ∧
     (s.copyRegion 0 1 (fun r d => r.slotVa d 1) (fun r d => r.halfVa d (s.train 0 1).half)).2 = false) ∧
    (let x : Train := { peerMode := true, record := { rec1 with tensors := rec1.tensors ++ rec1.tensors.map fun t => { t with die := 4 } },
                        digests := [digest1 1 7 0, digest1 2 7 0] }
     let s := replicas 3 x
     (s.train 0 1).peerMode = true ∧ (s.train 0 1).st ≠ .runHeld ∧ 0 ∈ x.record.dies ∧ 0 ∉ x.peerGot ∧ (x.digests.find? fun y => y.replica = 1) = some (digest1 1 7 0) ∧
     (∃ e ∈ x.record.dies, e ≠ 0 ∧ e ∉ x.peerGot) ∧ x.peerTries.get 0 + 1 < 4 * (x.roundOf 7).length) := by decide +kernel

/-! ### What the statements assume: beats -/

/-- Ward 0's job of one module, its beat open; with `k` hold steps so far. -/
def beats (y : Ward) : State := { on with wards := [(0, y)] }
def spanned : Ward :=
  { ward0 with multi := true, job := some { job0 with prog := { modules := [3, 4], peerWards := [(4, 1)] } }, mb := { modules := [3, 4] }, masterId := 4 }
def mk (b : W64) : Marker := { jobward := 1, master := 4, beat := b, cmds := [(4, 9)] }

theorem wit_Holds : (let x := { ward0 with closed := true }; x.hasBeat = true ∧ (beats x).live = true ∧ x.closed = true) ∧
    (ward0.closed = false ∧ ward0.holdSteps = 0 ∧ wardIdle.running = false ∧ wardIdle.hasBeat = true) ∧
    (ward0.working = true ∧ ward0.multi = false ∧ ward0.latePlates = [] ∧ (beats ward0).unfinished 0 = []) ∧
    (let s := { beats { ward0 with holdSteps := 7 } with tiles := [(63, { st := .running })] }
     firstUnit (s.unfinished 0) = some (0, 0, 63) ∧ (s.ward 0).holdSteps < (s.ward 0).holdMax) ∧
    (let s := { beats { ward0 with holdSteps := 8 * ward0.beatLen } with tiles := [(63, { st := .running })] }
     firstUnit (s.unfinished 0) = some (0, 0, 63) ∧ (s.ward 0).holdMax ≤ (s.ward 0).holdSteps ∧ (s.ward 0).mb.rollHeld = false ∧
     1 ≤ s.saf.seqNext) := by decide +kernel
theorem wit_Boundaries : (let x := { ward0 with closed := true }; x.hasBeat = true ∧ x.mb.due = [] ∧ (∀ h ∈ x.heldOps, h.waits = false) ∧ (beats x).live = true) ∧
    (let x := { ward0 with closed := true, mb := { verdict := some (true, 9) } }; x.mb.due = [] ∧ x.mb.verdict = some (true, 9)) := by decide +kernel

theorem wit_Ready : let x := { spanned with master := true, mb := { modules := [3, 4], ready := [3] } }
    x.running = true ∧ x.multi = true ∧ x.master = true ∧ x.modules = [3, 4] ∧ x.working = true ∧ (mk 0).beat = x.num ∧ 4 ∈ x.modules ∧ 4 ∉ x.mb.ready ∧
    3 ∈ x.mb.ready ∧ ({ mk 0 with jobward := 0, master := 3 } : Marker).master = (beats x).linkAddr := by decide +kernel
theorem wit_Markers : spanned.takes (mk 1) = true ∧ spanned.working = true ∧ (mk 1).beat = spanned.num + 1 ∧ spanned.takes (mk 0) = true ∧
    (mk 0).beat = spanned.num ∧ (let x := { spanned with job := (spanned.job.map fun j : Job => { j with began := false }) }
      x.takes (mk 5) = true ∧ x.working = false) ∧ (spanned.takes { mk 1 with master := 5 } = false) ∧
    ({ spanned with master := true } : Ward).takes (mk 1) = false := by decide +kernel
theorem wit_Decides : (let x := { spanned with master := true, mb := { modules := [3, 4], ready := [3, 4] } }
     x.working = true ∧ x.multi = true ∧ x.master = true ∧ x.mb.verdict = none ∧ x.closed = false ∧ x.mb.dead = false ∧
     (∀ m ∈ x.modules, m ∈ x.mb.ready) ∧ x.mb.rollHeld = false) ∧
    (let x := { spanned with master := true, mb := { modules := [3, 4], ready := [3] } }; ∃ m ∈ x.modules, m ∉ x.mb.ready) ∧
    (let x := { spanned with mb := { modules := [3, 4], verdict := some (true, 1) } }
     x.running = true ∧ x.closed = false ∧ x.mb.lostMark = false ∧ x.mb.dead = false ∧ x.holdSteps = 0) ∧
    (let x := { spanned with holdSteps := 7, mb := { modules := [3, 4], verdict := some (false, 0) } }; x.holdSteps < x.holdMax) ∧
    (spanned.working = true ∧ spanned.multi = true ∧ spanned.master = false ∧ spanned.closed = false ∧ spanned.mb.verdict = none ∧
     spanned.mb.lostMark = false ∧ spanned.holdSteps < spanned.holdMax) := by decide +kernel

/-! ### What the statements assume: channels -/

/-- Context 1 of ward 0 may read and write the page at 0; channel `c` is `x`. -/
def chanOn (c : Nat) (x : Chan) : State := { trainer {} with chans := [(c, x)] }
def runChan : Chan := { st := .running, remain := 1, next := 0x1000, cur := 0x1000 }
/-- A dense RAW copy of 64 bytes from 0x3000 to 0x4000 for context 1, its source's shape record at 0x2000. -/
def words1 (dshp : Nat) : List W64 := [0, 0x3000, 0x4000, 0x2000, BitVec.ofNat 64 dshp, 0, 0, 0x0001000000000000]
def toBytes (ws : List W64) : List Byte := ws.flatMap fun w => toLE 8 w.toNat
def shape1 : List W64 := [1, 64, 0, 0, 0, 0, 0, 0]
def fetchOn : State := ((chanOn 63 runChan).writeVa 0 1 0x1000 (toBytes (words1 0))).writeVa 0 1 0x2000 (toBytes shape1)

theorem wit_ChannelStart : (let s := chanOn 511 { st := .running }; s.live = true ∧ s.chanExists (64 * 7 + 31) = true ∧ s.wardOfDie 0 = some 0) ∧
    (let s := chanOn 0 {}
     s.chanExists 0 = true ∧ s.chanExists 39 = true ∧ s.wardOfDie (39 / 64) = some 0 ∧ (s.chan 0).st ≠ .running ∧
     (let g : RegW := { off := 0, size := 8, val := 0x0001000000000000 }; g.legal = true ∧ g.hitsHi = true ∧ wf (g.into64 0) 63 48 ≠ 0) ∧
     (let g : RegW := { off := 0, size := 4, val := 5 }; g.legal = true ∧ g.hitsHi = false) ∧
     (let g : RegW := { off := 4, size := 4, val := 5 }; g.legal = true ∧ g.hitsHi = true ∧ wf (g.into64 0) 63 48 = 0) ∧
     s.ownsDie rq0 0 = true ∧ s.ownsDie { port := 0, func := 2 } 0 = false) ∧
    (let s := chanOn 5 { squashing := some .protection }; (s.chan 5).squashing = some .protection) := by decide +kernel
theorem wit_Fetch : let s := fetchOn; let x := s.chan 63
    s.wardOfDie (63 / 64) = some 0 ∧ x.st = .running ∧ x.desc = none ∧ x.squashing = none ∧ s.fetchCtx 0 x.next.toNat (hpPort 63) = some 1 ∧
    (s.readVa 0 1 x.next.toNat 64).2.bad.any id = false ∧ (s.readVa 0 1 x.next.toNat 64).2.soft.any id = false ∧ words8 (s.readVa 0 1 x.next.toNat 64).2.bytes = words1 0 := by decide +kernel
theorem wit_Fetch_illegal : ({ words := words1 0x2040, sshape := {}, dshape := {}, dense := true } : Desc).illegal = false ∧
    ({ words := words1 0x2041, sshape := {}, dshape := {}, dense := true } : Desc).illegal = true ∧
    ({ words := words1 0, sshape := {}, dshape := {}, dense := true } : Desc).illegal = false := by decide +kernel
theorem wit_Fetch_shape : let s := fetchOn; let d0 : Desc := { words := words1 0, sshape := {}, dshape := {}, dense := true }
    let b := (s.readVa 0 1 0x1000 64).1.modChan 63 fun x => { x with cur := x.next }
    d0.dshp = 0 ∧ b.ctxBad 0 0x1000 d0.ctx 1 (hpPort 63) = none ∧ (b.readShape 0 d0.ctx d0.sshp (hpPort 63)).2 = some shape1 ∧ shapeOk shape1 = true ∧
    (let b2 := (b.readShape 0 d0.ctx d0.sshp (hpPort 63)).1
     let d := { d0 with sshape := shapeOf shape1, dshape := ({ d0 with sshape := shapeOf shape1 } : Desc).denseShape }
     b2.fetchBad 0 d = none ∧ b2.peerPieces 63 0 d = []) := by decide +kernel
def desc1 : Desc :=
  let d : Desc := { words := words1 0, sshape := shapeOf shape1, dshape := {}, dense := true }
  { d with dshape := d.denseShape }
theorem wit_Complete : let s := chanOn 63 { runChan with desc := some desc1 }
    s.descOk 0 desc1 (hpPort 63) = true ∧ s.supBad 0 desc1 = false ∧ s.rawSoft 0 desc1 = false ∧
    s.waitsClear 0 desc1.ctx desc1.allAccesses (hpPort 63) = false ∧
    (let o := dmaPlan s 0 desc1 1 (s.ward 0).jb []
     s.cannotCarry 0 desc1.ctx o.ws = false ∧ desc1.cf = false ∧ desc1.stageBytes = 0 ∧ (s.chan 63).remain = 1 ∧
     (o.ws.all fun y => (List.range y.bytes.length).all fun k => match s.xlate 0 desc1.ctx (y.va + k) true with
       | .ok l => l.kind == .stack | .error _ => false) = true) := by decide +kernel
theorem wit_Refused : let d := { desc1 with words := (words1 0).set 1 0x40000000 }
    let s := chanOn 63 { runChan with desc := some d, kicked := true }
    ((s.chanAccesses 63 0).find? fun a => inAccess 0x40000000 (some false) a).isSome = true ∧
    ((s.chanAccesses 63 0).find? fun a => inAccess 0x40000040 (some false) a) = none ∧
    ((s.chanAccesses 63 0).find? fun a => inAccess 0x4000 (some true) a).isSome = true ∧
    (match s.xlate 0 1 0x40000000 false (hpPort 63) with | .ok _ => false | .error st => st != .keyRetired) = true ∧
    (match s.xlate 0 1 0x4000 true (hpPort 63) with | .ok _ => true | .error _ => false) = true ∧ (s.ward 0).job = some job0 := by decide +kernel

/-! ### What the statements assume: KICK, TAG, STAT, chain programs -/

theorem wit_Kicks : (let f := { kickF with ch := 31 }; let s := runs (.kick 0 f)
     s.fetches 0 (.kick 0 f) 0 ∧ (s.chan 31).st ≠ .running ∧ s.nextPc 0 < ((s.tile 0).codeEnd)) ∧
    (let f := { kickF with hp := true, ch := 7, ks := true, ki := 7, cnt := 0 }; let s := runs (.kick 0 f)
     s.fetches 0 (.kick 0 f) 0 ∧ ((s.tile 0).kreg 7).toNat % 65536 = 0 ∧ (s.chan (7 + 32)).st ≠ .running) ∧
    (let s := { runs (.kick 0 kickF) with chans := [(2, { st := .running })] }; s.fetches 0 (.kick 0 kickF) 0 ∧ (s.chan 2).st = .running) ∧
    (let f := { kickF with hp := true, ch := 0 }
     let s := { runs (.halt 0) with wards := [(0, { ward0 with dies := 2 })], tiles := [(64, { st := .running, codeEnd := 16 })] }
     let s := s.wrBytes (tileBase 64 + 0x300000) (match encodeTile (.kick 64 f) with | some (_, w, _) => toLE 8 w.toNat | none => [])
     s.fetches 64 (.kick 64 f) 0 ∧ f.hp = true ∧ (64 : Nat) / 64 ≠ 0 ∧ (64 : Nat) / 64 ≠ 4) := by decide +kernel
theorem wit_Tags : let f : TagF := { ac := 4, bmask := 0x80000001 }; let s := runs (.tag 0 f) { a := [(4, 7)], tags := [(31, 7)] }
    s.fetches 0 (.tag 0 f) 0 ∧ Memory.wf s.mem = true ∧ (s.busyBanks 0).any (bankList f.bmask).contains = false ∧
    (s.chainBanks 0).any (bankList f.bmask).contains = false ∧ s.nextPc 0 < (s.tile 0).codeEnd ∧
    (let t := runs (.tag 0 f) { a := [(4, 7)], zeroing := [⟨0, 1⟩], stats := [{ cells := [(0, 1)] }] }
     t.fetches 0 (.tag 0 f) 0 ∧ (t.busyBanks 0).any (bankList f.bmask).contains = true) := by decide +kernel
theorem wit_Stats : let f : StatF := { statF with site := 960, clr := true }; let s := runs (.stat 0 f)
    s.fetches 0 (.stat 0 f) 0 ∧ (s.tile 0).draining = none ∧ s.chainBusy 0 = false ∧ s.nextPc 0 < (s.tile 0).codeEnd ∧
    ((s.tile 0).areg f.ad).toNat / 16 * 16 + 48 * f.ns ≤ storeBytes ∧
    (let t := runs (.stat 0 f) { a := [(0, 0)], draining := some (drainF, {}) }; t.fetches 0 (.stat 0 f) 0 ∧ (t.tile 0).draining ≠ none) ∧
    (let g : StatF := { f with ad := 1 }; let t := runs (.stat 0 g) { a := [(1, 2097152)] }
     t.fetches 0 (.stat 0 g) 0 ∧ storeBytes < ((t.tile 0).areg g.ad).toNat / 16 * 16 + 48 * g.ns) ∧
    (let t := withTile { stats := [{ cells := [(0, 1), (2097151, 2)] }], clearing := 2 }
     (t.tile 0).anyClearing ([(0, (1 : Byte)), (2097151, 2)].map fun c => c.1 / 65536).dedup = false) := by decide +kernel

def chain1 : ChainF := { ad := 0, rows := 1 }
def withQuad (x : Quad) (s : State := runs (.chain 3 chain1)) : State := { s with quads := [(0, x)] }
/-- Tile 3 of the quad fetches CHAIN. -/
def issues3 (x : Quad) : State :=
  let s : State := { on with tiles := [(3, { st := .running, codeEnd := 16 })], quads := [(0, x)] }
  s.wrBytes (tileBase 3 + 0x300000) (match encodeTile (.chain 3 chain1) with | some (_, w, _) => toLE 8 w.toNat | none => [])
theorem wit_Chains : (∀ x ∈ ([{}, { fenced := true }, { queue := List.replicate 8 ⟨0, 0, 1⟩ }, { queue := List.replicate 7 ⟨0, 0, 1⟩ }] : List Quad),
      (issues3 x).fetches 3 (.chain 3 chain1) 0) ∧ (issues3 {}).nextPc 3 < ((issues3 {}).tile 3).codeEnd ∧
    (issues3 { fenced := true }).nextPc 3 < 16 ∧ ((issues3 { queue := List.replicate 8 ⟨0, 0, 1⟩ }).quad 0).queue.length = 8 := by decide +kernel
/-- One stream from 0x1000, one stage, its output at 0x2000; `h` is word 0. -/
def chainWords (h : W64) : List W64 :=
  [h, 0, BitVec.ofNat 64 (0x1000 * 2 ^ 41), 0, 0, 0, 0, 0, BitVec.ofNat 64 (0x2000 * 2 ^ 41), 0, 0, 0, 0x2080000000000000, 0]
def chainOn (h : W64) : State := (withQuad { queue := [⟨3, 0, 1⟩] } on).wrBytes (tileBase 3) (toBytes (chainWords h))
theorem wit_ChainStarts : let s := chainOn 0x0800000000000000; let wd := s.storeW64 (s.quadTile 0 3) 0; let d := chainDescOf wd
    (s.quad 0).run = none ∧ (s.quad 0).queue = ⟨3, 0, 1⟩ :: [] ∧ rangesBad [⟨0, 0, 16⟩] = none ∧ rangesBad [⟨0, 0, 96 + 16 * d.stages.length⟩] = none ∧
    descBad 1 wd = [] ∧ chainRange d 0 1 = none ∧ d.clashes 1 = [] ∧ d.seed = 0 := by decide +kernel
theorem wit_ChainStarts_bad : let s := chainOn 0; descBad 1 (s.storeW64 (s.quadTile 0 3) 0) = 0 :: [0x10] ∧ (s.quad 0).faultValid = false := by
  decide +kernel
def chainRun (row : Nat) : ChainRun :=
  { issuer := 3, rows := 2, desc := chainDescOf fun k => (chainWords 0x0800000000000000).getD k 0, row := row }
theorem wit_ChainRows : (let s := withQuad { run := some (chainRun 1) } on
     (s.quad 0).run = some (chainRun 1) ∧ (chainRun 1).row < (chainRun 1).rows ∧
     s.chainClearing 0 ((chainRun 1).desc.rowRanges (chainRun 1).results (chainRun 1).row) = false ∧
     (let t := { s with tiles := (List.range 4).map fun i => (i, { clearing := 1 }) }
      t.chainClearing 0 ((chainRun 1).desc.rowRanges (chainRun 1).results (chainRun 1).row) = true)) ∧
    (let s := withQuad { run := some (chainRun 2) } on; (s.quad 0).run = some (chainRun 2) ∧ (chainRun 2).rows ≤ (chainRun 2).row) ∧
    ∀ i, (on.tile i).badWords = [] := by
  refine ⟨by decide +kernel, by decide +kernel, fun i => rfl⟩

/-! ### What the statements assume: developers and snapshots -/

def onDev (o : DevOp) (e : Option DevEnd := none) (y : Ward := ward0) : State := { trainer {} with wards := [(0, { y with l1 := [(0, leafWord 0 3 1)] })], devs := [(7, { queue := [o], ended := e })] }
def op1 : DevOp := { kind := .move, src := 0x10000, dst := 0x20000, pkind := 2, pfmt := 0, ctx := 1, use := .load 1 }
theorem wit_Move : ((onDev { op1 with use := .build 1 }).dev 7).ended = none ∧ op1.count = 1 ∧ op1.use ≠ .build 0 ∧
    (let s := onDev op1; let y := s.ward 0
     s.spansBad 0 1 (y.srcSpans op1 0 (1 * devUnit 2 0)) false = none ∧ (op1.unitSpans y false 0 (devUnit 2 0)).isSome = true ∧
     (∀ sp, op1.unitSpans y false 0 (devUnit 2 0) = some sp → s.spansBad 0 1 sp true = none)) ∧
    (let o := { op1 with src := 0x40000000 }; let s := onDev o; (s.spansBad 0 1 ((s.ward 0).srcSpans o 0 4) false).isSome = true) := by
  refine ⟨by decide +kernel, by decide +kernel, by decide +kernel, ⟨by decide +kernel, by decide +kernel, ?_⟩, by decide +kernel⟩
  intro sp h
  have h : some [(0x20000, 4)] = some sp := h
  cases h
  decide +kernel
theorem wit_Quant : let o := { op1 with kind := .quant }; let s := onDev o; let y := s.ward 0; let c := cwOf o.cw
    s.spansBad 0 1 (y.srcSpans o 0 (4 * 512 * 1)) false = none ∧ c.square = false ∧ o.bf16 = false ∧ o.skew = false ∧
    ((List.range 1).filterMap fun k => o.unitSpans y true k (plateSize c.square c.fmt)) = [[(0x20000, plateSize c.square c.fmt)]] ∧
    s.spansBad 0 1 [(0x20000, plateSize c.square c.fmt)] true = none ∧
    (let p := { o with cw := 0x1000, skew := true }; s.spansBad 0 1 (y.dstSpans (p.plateDst true) 0 (272 * (2 * p.count + 255))) true = none) := by
  decide +kernel

/-- A table set in which symbol 0 alone has a code, of one bit. -/
def set1 : List Byte := (List.range 512).map fun k => if k % 128 = 0 then 1 else 0
def head1 : List Byte := [0x4E, 0x45, 0x47, 0x32, 2, 0, 1, 0] ++ toLE 8 1 ++ toLE 4 16 ++ toLE 4 576 ++ toLE 8 624
/-- A negative of one FP32 unit of value 0 in one frame, written out by R273 to R276 under the table set above. -/
def neg1 : List Byte :=
  head1 ++ toLE 4 0x1A805237 ++ List.replicate 28 0 ++ set1 ++ toLE 8 592 ++ List.replicate 8 0 ++
  (toLE 4 32 ++ toLE 4 0x42709AEA ++ List.replicate 24 0)
def one32 : List Byte := 1 :: List.replicate 31 0
def zero32 : List Byte := List.replicate 32 0
/-- The check's bytes in pieces, with the sum before and after each. -/
def crcRun : List (W32 × List Byte × W32) :=
  [(4294967295, head1, 2066958744), (2066958744, one32, 3685284082), (3685284082, zero32, 889949435), (889949435, zero32, 4209805795), (4209805795, zero32, 447767154), (447767154, one32, 3930544335), (3930544335, zero32, 321022652), (321022652, zero32, 1151378318), (1151378318, zero32, 1142194907), (1142194907, one32, 775382484), (775382484, zero32, 3134950438), (3134950438, zero32, 232858669), (232858669, zero32, 3867537866), (3867537866, one32, 617658000), (617658000, zero32, 3643831841), (3643831841, zero32, 4086777220), (4086777220, zero32, 3850350024)]
theorem crcRun_right : ∀ e ∈ crcRun, e.2.1.foldl crcByte e.1 = e.2.2 := by decide +kernel
theorem crc_chain : ∀ (l : List (W32 × List Byte × W32)) (a z : W32), (∀ e ∈ l, e.2.1.foldl crcByte e.1 = e.2.2) →
    (l.foldl (fun (o : Option W32) e => if o = some e.1 then some e.2.2 else none) (some a) = some z) →
    (l.flatMap fun e => e.2.1).foldl crcByte a = z
  | [], a, z, _, h => by simpa using h
  | e :: l, a, z, hl, h => by
    have none_stays : ∀ l : List (W32 × List Byte × W32),
        l.foldl (fun (o : Option W32) e => if o = some e.1 then some e.2.2 else none) none = none := by
      intro l
      induction l with
      | nil => rfl
      | cons e l ih => simpa using ih
    rw [List.foldl_cons] at h
    split at h
    · rename_i ha
      rw [List.flatMap_cons, List.foldl_append, show a = e.1 by simpa using ha, hl e (by simp)]
      exact crc_chain l e.2.2 z (fun x hx => hl x (by simp [hx])) h
    · rw [none_stays] at h
      cases h
theorem neg1_crc : crc32c (neg1.take 32 ++ (neg1.drop 64).take 512) = 0x1A805237 := by
  have h : neg1.take 32 ++ (neg1.drop 64).take 512 = crcRun.flatMap fun e => e.2.1 := by decide +kernel
  rw [crc32c, h, crc_chain crcRun _ 3850350024 crcRun_right (by decide +kernel)]
  decide +kernel
def headOf : Neg :=
  { kind := 2, fmt := .b1, pfmt := 0, frames := 1, units := 1, funits := 16, dirOff := 576, length := 624,
    tables := List.replicate 4 (1 :: List.replicate 255 0) }
theorem wit_Negative_head (n : Nat) (hn : n = 576 ∨ n = 624) : negOf (neg1.take n) = some headOf := by
  have hc : crc32c ((neg1.take n).take 32 ++ ((neg1.take n).drop 64).take 512) = 0x1A805237 := by
    rcases hn with rfl | rfl
    · rw [show (neg1.take 576).take 32 ++ ((neg1.take 576).drop 64).take 512 = neg1.take 32 ++ (neg1.drop 64).take 512 by decide +kernel]
      exact neg1_crc
    · rw [show (neg1.take 624).take 32 ++ ((neg1.take 624).drop 64).take 512 = neg1.take 32 ++ (neg1.drop 64).take 512 by decide +kernel]
      exact neg1_crc
  unfold negOf
  rw [hc]
  rcases hn with rfl | rfl <;> decide +kernel
theorem wit_Negative : headOf.frame (neg1.drop 592) 0 592 = .ok [[0, 0, 0, 0]] := by decide +kernel
def opDev : DevOp := { op1 with kind := .develop }
def devNeg : State := (onDev opDev).writeVa 0 1 0x10000 neg1
theorem wit_Develop : devNeg.spansBad 0 1 ((devNeg.ward 0).srcSpans (devNeg.devSource 7 opDev) 0 576) false = none ∧
    devNeg.spansBad 0 1 ((devNeg.ward 0).srcSpans opDev 592 16) false = none ∧ devNeg.spansBad 0 1 ((devNeg.ward 0).srcSpans opDev 592 32) false = none ∧
    devNeg.spansBad 0 1 [(0x20000, 4)] true = none ∧ 
    headOf.frameAt (sliceNat neg1 576 8) = some 592 ∧
    (frameWrites (devNeg.ward 0) opDev headOf 0 [[0, 0, 0, 0]]).map (fun e => (e.1, e.2.1)) = [([(0x20000, 4)], [0, 0, 0, 0])] ∧
    negOf (List.replicate 576 0) = none ∧ devNeg.softAt 0 1 ((devNeg.ward 0).srcSpans opDev 0 1) = none := by decide +kernel
theorem wit_Develop_header : (devNeg.readSpans 0 1 ((devNeg.ward 0).srcSpans opDev 0 576) []).2 = { bytes := neg1.take 576, bad := List.replicate 576 false, soft := List.replicate 576 false } := by decide +kernel
theorem wit_Develop_frame : (devNeg.readSpans 0 1 ((devNeg.ward 0).srcSpans opDev 576 8) []).2 = { bytes := neg1.drop 576 |>.take 8, bad := List.replicate 8 false, soft := List.replicate 8 false } ∧
    sliceNat neg1 576 8 = 592 ∧
    (devNeg.readSpans 0 1 ((devNeg.ward 0).srcSpans opDev 592 32) []).2 = { bytes := neg1.drop 592, bad := List.replicate 32 false, soft := List.replicate 32 false } := by decide +kernel
def spiller : Ward :=
  { ward0 with regs := [(oSpillBase, 0x200000), (oSpillSize, 0x200000)], seqs := [(3, { st := .preempted, ctx := 1, spilling := 1 })] }
theorem wit_Encode : let o := { op1 with kind := .encode, use := .spill 3 0 }; let s := (onDev o none spiller).writeVa 0 1 0 set1; let y := s.ward 0
    s.spillOver o = false ∧ (onDev o).spillOver o = true ∧
    s.spansBad 0 1 (y.srcSpans o 0 4) false = none ∧ s.spansBad 0 1 [(y.reg oEncTbl + 512 * o.tbl, 512)] false = none ∧
    (s.readUnits o.plateSrc [] 1 4).2 = ([[0, 0, 0, 0]], false) ∧ ((s.readUnits o.plateSrc [] 1 4).1.readVa 0 1 0 512).2.bytes = set1 ∧
    (encodeNeg 2 0 set1 [[0, 0, 0, 0]]).1 = 0 ∧ (encodeNeg 2 0 set1 [[0, 0, 0, 0]]).2.1.length = 624 ∧ (encodeNeg 2 0 set1 [[0, 0, 0, 0]]).2.2 = true ∧
    (encodeNeg 2 0 set1 [[1, 0, 0, 0]]).2.2 = false ∧
    (let x := s.spillDst o.plateSrc 624; x.2.dstChunks = [0] ∧ x.2.dst.toNat + 624 ≤ x.2.dstChunks.length * chunkBytes ∧
     x.1.spansBad 0 1 ((x.1.ward 0).dstSpans x.2 0 624) true = none) := by decide +kernel

theorem wit_DevEnds : (let s := onDev { op1 with use := .spill 3 0 } (some {}) spiller; (s.dev 7).ended = some {} ∧ ({} : DevEnd).status = .ok) ∧
    (let s := onDev { op1 with use := .spill 3 0 } (some { status := .poison }) spiller
     ((s.ward 0).seqs.get 3).st ≠ .free ∧ ((s.ward 0).seqs.get 3).mark = none ∧ (s.dev 7).ended = some { status := .poison }) ∧
    (let s := onDev op1 (some {}) { ward0 with registry := [(1, { ent1 with hot := .loading })] }; ((s.ward 0).registry.get 1).hot = .loading) := by decide +kernel
/-- A copy under way, and a read of the developer that meets an error in the ward's key table. -/
theorem wit_Copies : (let s := { onDev op1 (some {}) with devs := [(7, { queue := [op1], ended := some {}, copies := [op1] })] }
     (s.dev 7).ended ≠ none ∧ (s.dev 7).copies = [op1] ∧ s.softAt 0 1 ((s.ward 0).srcSpans op1 0 op1.count) = none) ∧
    (let s := onDev op1; s.ctrlSector 0 ((carveOut + 0x20000000) / 256) = true ∧ (s.ward 0).st = .running ∧ (s.ward 0).job.isSome = true) := by
  decide +kernel
theorem wit_Timeouts : (let y :=
       { ward0 with
         l1 := [(0, leafWord (2 ^ 48) 3 1), (1, leafWord (2 ^ 50 + 2 ^ 42) 3 1)], job := some { job0 with prog := { modules := [3, 1] } } }
     let o : DevOp := { op1 with kind := .encode, src := 0 }
     let s : State := { trainer {} with wards := [(0, y)], devs := [(0, { queue := [o] })], chans := [(0, { runChan with desc := some desc1 })]
                                        ports := asks.ports, funcs := [(0, { bme := true }), (1, { bme := true })] }
     s.waits 0 1 0 .host none = true ∧ s.waits 0 1 0 .peer none = false ∧ s.waits 0 1 0x40000000 .peer none = true ∧ s.chanCtx 0 0 = 1 ∧
     s.waits 0 1 0 .host (hpPort 0) = true ∧ s.spillOver o = false ∧
     s.spansBad 0 1 ((s.ward 0).srcSpans o.plateSrc 0 (1 * devUnit 2 0)) false (some 0) = some { st := .tierFail, lost := true }) ∧
    (let s := servesOn { serves with dist := some { dist1 [] true with alt := 64 } }
     s.live = true ∧ ∀ d, (s.ward 0).dist = some d → d.reader = true ∧ d.held = false ∧ d.alt ≠ 0 ∧ d.onAlt = false) := by
  refine ⟨by decide +kernel, by decide +kernel, ?_⟩
  intro d h
  have h : some { dist1 [] true with alt := 64 } = some d := h
  cases h
  decide +kernel

theorem wit_Snapshots : (on.live = true ∧ on.owns rq0 0 = true ∧ on.owns { port := 0, func := 2 } 0 = false ∧
     RegW.legal { off := 0x1000208, size := 4, val := 7 } = true) ∧
    (let y := { ward0 with l1 := [(0, leafWord 0 3 1)], snap := some (5, [(0, {})]), statZeroed := true, regs := [(oWrdStatBase, 0x3FFF4000)] }
     let s : State := { on with wards := [(0, y)], slots := [(1, { st := .ward, ward := 0, key := 5 })] }
     y.dieList = [0] ∧ s.checkRange 0 0 (y.reg oWrdStatBase + 0 * 0xC000) 0xC000 true = none) ∧
    (let y := { ward0 with snap := some (5, [(0, {})]), statZeroed := true }
     let s : State := { on with wards := [(0, y)] }
     y.dieList = [0] ∧ s.checkRange 0 0 (y.reg oWrdStatBase + 0 * 0xC000) 0xC000 true ≠ none) ∧
    (let s := asksOf { st := .disabled, statSnap := true }; (s.ward 0).hasBeat = false ∧ (s.ward 0).snap = none) := by decide +kernel

/-! ### What the statements assume: links and flits -/

/-- Link 47 is `y`; the far end is address 5, known to the image; address 5 is reached by it. -/
def linked (y : Link) : State :=
  { on with links := [(47, y)], image := { image0 with devmap := [(3, 1), (5, 9)] }, standby := false,
            routes := [(3, { valid := true, loc := true }), (5, { valid := true, ports := 1#48 <<< 47 })] }
def far : TrainedLink := { lanesOk := true, two := true, lat := 100, peerAddr := 5, peerLink := 2, peerId := 9 }
theorem wit_Training : (let s := linked {}; (s.link 47).st = .untrained ∧ s.live = true ∧ s.dies.contains (47 / 6) = true ∧ s.peerKnown far = true ∧
      s.peerKnown { far with match' := false } = false ∧ (s.link 47).txq = [] ∧ s.dieFencedAt 7 = false) ∧
    (let s := linked { st := .down }; (s.link 47).st = .down ∧ (s.link 47).session = 0) ∧
    (let s := linked { st := .retraining, retry := [(flit0, [])] }; (s.link 47).st = .retraining ∧ (s.link 47).cmdJseq = none ∧ (s.link 47).txq = []) ∧
    (let s := linked { st := .retraining, tries := 2, cmdJseq := some 4 }; (s.link 47).cmdJseq = some 4 ∧ 2 ≤ (s.link 47).tries ∧ (s.link 47).retry = []) := by
  decide +kernel
theorem wit_Retrain : (let s := { linked {} with ports := asks.ports, funcs := asks.funcs, rings := asks.rings }
     s.takesHere pf0 (.linkRetrain 7 5) = true ∧ s.takesHere pf0 (.linkRetrain 8 5) = true ∧ s.takesHere pf0 (.linkRetrain 7 6) = true ∧ 7 ∈ s.dies ∧
     8 ∉ s.dies ∧ (s.link (6 * 7 + 5)).st ≠ .down) ∧
    (let s := { linked { st := .down } with ports := asks.ports, funcs := asks.funcs, rings := asks.rings }
     s.takesHere pf0 (.linkRetrain 7 5) = true ∧ (s.link (6 * 7 + 5)).st = .down ∧ (s.link (6 * 7 + 5)).cmdJseq = none) := by decide +kernel

def flitTo (dst ty : Nat) : Flit := { flit0 with type := ty, dst := dst, src := 5, seq := 4095, ack := 2, last := true }
def upLink : Link := { st := .up, rxNext := 4095, retry := [({ flit0 with seq := 2 }, []), ({ flit0 with seq := 3 }, [])] }
theorem wit_Flits : flitCmd (.flitIdle 47 flit0 {}) = some (47, flit0, {}, 0) ∧
    (let s := linked upLink; s.live = true ∧ (s.link 47).st = .up ∧ (flitTo 3 1).seq = (s.link 47).rxNext ∧ (flitTo 3 1).type = 1 ∧
     ({ flitTo 3 1 with seq := 0 } : Flit).seq ≠ (s.link 47).rxNext ∧ (s.link 47).txq = []) ∧
    (({ upLink with corrected := incSat upLink.corrected 0, rxCount := upLink.rxCount + 1 } : Link).ackTo 2).retry = [({ flit0 with seq := 3 }, [])] ∧
    upLink.replays < 15 ∧ (({ upLink with corrected := 0 } : Link).ackTo 3).retry = [] := by decide +kernel
/-- What `accepts` says of the state after a good flit in sequence, for a state whose only link is the one it came on. -/
def accepted (s : State) (f : Flit) : State := s.modLink 47 fun y =>
  let z := ({ y with corrected := incSat y.corrected 0, rxCount := y.rxCount + 1, rxNext := (y.rxNext + 1) % 4096,
                     owed := y.owed.set f.vc (y.owed.getD f.vc 0 + 1) } : Link).ackTo f.ack
  { z with credits := z.credits.set f.crvc (min (vcSize f.crvc) (z.credits.getD f.crvc 0 + f.crcnt)) }
theorem wit_Accepts (ty dst : Nat) (h : ty ≠ 0) : (linked upLink).accepts (accepted (linked upLink) (flitTo dst ty)) 47 (flitTo dst ty) {} :=
  ⟨by decide +kernel, by decide, by decide +kernel, by decide +kernel, rfl, rfl, rfl, rfl, (by decide +kernel : 4095 = ((linked upLink).link 47).rxNext), h,
    (by
      have hm : ((linked upLink).ward (flitTo dst ty).ward).multi = false := by show ((linked upLink).ward 0).multi = false; decide +kernel
      have ha : ((linked upLink).train (flitTo dst ty).ward (flitTo dst ty).ctx).active = false := by
        show ((linked upLink).train 0 0).active = false; decide +kernel
      simp [State.isKept, State.isEarly, State.reduceWaits, hm, ha]), State.modLink_only _ _ _⟩

theorem wit_FlitPaths : (let s := linked { upLink with retry := [] }; s.leavesOn 5 1 47 ∧ (s.routeOf 5).loc = false ∧ s.linkAddr = 3 ∧
     (67 : Nat) < (flitTo 68 1).dst) ∧ (let s := linked { upLink with retry := [] }; s.modWard 0 (fun y => { y with dies := 0x81 }) |>.ward 0 |>.holds (47 / 6)) := by
  refine ⟨⟨⟨?_, ?_, ?_, ?_, ?_, ?_, ?_⟩, ?_, ?_, ?_⟩, ?_⟩ <;> decide +kernel
/-- DATA for the next beat, and a partial of a replica that is ahead. -/
theorem wit_Kept : (let s : State := { linked upLink with wards := [(0, { spanned with closed := true, job := some { job0 with prog := { modules := [3, 5] } } })] }
     s.live = true ∧ (s.link 47).st = .up ∧ (s.link 47).txq = [] ∧ s.mcWait = [] ∧ (flitTo 3 1).seq = (s.link 47).rxNext ∧ s.isKept (flitTo 3 1) = true ∧
     (flitTo 3 1).dst = s.linkAddr ∧ s.modFenced = false) ∧
    (let s : State := { linked upLink with wards := [(0, { served ent1 with trains := [(1, { st := .accum })] })] }
     s.isKept { flitTo 3 5 with ctx := 1 } = true) := by decide +kernel

/-- The same with ward 0's page at 0 under context 1. -/
def flitOn (y : Ward) (l : Link := { upLink with retry := [] }) : State :=
  { linked l with wards := [(0, { y with l1 := [(0, leafWord 0 3 1)] })], slots := [(1, { st := .live, ward := 0, members := [1], key := 5, epoch := 7 })],
                  trees := [(0, { loc := true })], peerReads := [{ xid := 0, chan := 0, va := 0, peer := 5, pva := 0, len := 8 }] }
theorem wit_FlitsHere : (let s := flitOn (served ent1); let f := { flitTo 3 1 with ctx := 1, epoch := 7 }
     s.flitBad f = none ∧ s.peerCheck 0 1 0 8 true = none ∧ s.peerCheck 0 1 0 8 false = none ∧ (s.trees.get 0).ports = 0 ∧ (s.trees.get 0).loc = true ∧
     s.modFenced = false ∧ s.flitBad { f with epoch := 6 } = some true ∧ s.flitBad { f with ward := 7 } = some false ∧
     (s.readVa 0 1 0 224).2.bad.any id = false ∧ (s.readVa 0 1 0 224).2.bytes.length = 224 ∧
     (s.peerReads.find? fun r => r.xid = f.xid.toNat && r.peer = f.src).isSome = true) := by decide +kernel

/-! ### What the statements assume: relays, the journal, the domain -/

def relayed1 (op : HostOp) (w : Nat) : Relayed := { ward := w, tag := 0, wait := false, force := false, op := op }
theorem wit_Relays : (let s := linked { st := .up }; s.reachable 5 = true ∧ s.reachable 6 = false) ∧
    (let s := { on with relays := [{ jseq := 9, dest := 5 }] }; (s.relays.any fun r => r.jseq = 9) = true ∧ (s.relays.any fun r => r.jseq = 8) = false ∧
     s.live = true ∧ 1 ≤ s.jrnNext ∧ ∀ w < 8, (s.ward w).dist = none) ∧
    (HostOp.bitsOk (.unmap 0 1 1) = true ∧ HostOp.wardScope (.unmap 0 1 1) = true ∧ HostOp.onJob .jobEnd = true ∧ HostOp.onJob (.unmap 0 1 1) = false ∧
     HostOp.onJob (.journalRead 0 1 0) = false ∧ HostOp.bitsOk (.journalRead 0 1 0) = true ∧ HostOp.bitsOk .jobEnd = true ∧
     HostOp.bitsOk .wardDisable = true ∧ HostOp.bitsOk (.linkRetrain 7 5) = true ∧ HostOp.bitsOk (.unmap (2 ^ 48) 1 1) = false) ∧
    (let s : State := { on with wards := [(0, spanned)] }; s.holds 0 .jobEnd = true ∧ s.fromReader 4 (relayed1 .jobEnd 0) = false) ∧
    on.holds 0 .jobEnd = false ∧ on.holds 0xFF (.journalRead 0 1 0) = false := by decide +kernel
theorem wit_Journal : (∀ n ∈ [0, 1, 64, 65], asks.takesHere pf0 (.journalRead 1 n 0) = true) ∧
    asks.takesHere pf0 (.journalRead 1 64 (2 ^ 47 - 4096)) = true ∧ asks.takesHere pf0 (.journalRead 1 64 (2 ^ 47 - 4032)) = true ∧
    asks.takesHere pf0 (.journalRead 1 1 (2 ^ 47)) = true ∧ asks.takesHere pf0 (.journalRead 1 1 32) = true ∧ on.canIssue 0 0 = false := by decide +kernel
theorem wit_Illegal : (let bs : List Byte := 0x7F :: List.replicate 63 0
     bs.length = 64 ∧ bs.head? = some 0x7F ∧ bytesIllegal 0 bs = true) ∧ bytesIllegal 0 (0x02 :: List.replicate 63 0) = false ∧
    asks.canFetch (srcKey pf0) = true ∧ on.canFetch (srcKey pf0) = false ∧ asks.canIssue 0 0 = true ∧
    (let s := { asks with funcs := [] }; s.canFetch (srcKey pf0) = true ∧ s.canIssue 0 0 = false) := by decide +kernel

/-- This module, address 3, may take over 5 by standby 0. -/
def domain : State :=
  { linked { st := .untrained } with
    ports := asks.ports, funcs := asks.funcs, rings := asks.rings,
    image := { image0 with autoLoss := true, tko := [{ m := 5, s := 0, ent := { valid := true, ports := 1 } }] } }
theorem wit_Takeover : domain.takesHere pf0 (.takeover 5 0) = true ∧ domain.takesHere pf0 (.takeover 5 0xFF) = true ∧ domain.isCoord 5 = true ∧
    domain.standbyFor 5 (some 0) = some 0 ∧ domain.standbyFor 5 (some 1) = none ∧ (domain.tkoRow 5 0).isSome = true ∧ domain.tko = none ∧
    domain.takesHere pf0 (.takeover 5 1) = true ∧ domain.standbyFor 5 none = some 0 ∧ domain.standbyFor 6 none = none ∧
    domain.reachable 5 = false ∧ (domain.routeOf 5).valid = true ∧ (let s := { domain with modFenced := true }; s.isCoord 5 = false) ∧
    (let s := { domain with tko := some { m := 5, s := 0, coord := true } }; s.takesHere pf0 (.takeover 6 0) = true ∧ s.isCoord 6 = true) := by decide +kernel
theorem wit_Tko_again : let s := { domain with tkoLog := [(3, 0)] }; s.linkAddr = 3 ∧ (3, 0) ∈ s.tkoLog ∧ s.standby = false := by decide +kernel
theorem wit_Tko : (domain.tg < 1 ∧ domain.standby = false) ∧ (let s := { domain with standby := true, linkAddr := 64 }; s.standby = true ∧ s.linkAddr = 64 + 0) ∧
    (let s := { domain with tko := some { m := 6, s := 0, coord := true } }
     s.heldXfers = [] ∧ s.tkoQueue = [] ∧ s.others = [5] ∧ s.acked { m := 6, s := 0, coord := true, acks := [5] } = true ∧
     s.acked { m := 6, s := 0, coord := true, acks := [4] } = false) ∧
    (let s := { domain with tko := some { m := 6, s := 0, coord := false } }; s.live = true) := by decide +kernel
theorem wit_RollCall : (let s := { asks with wards := [(7, { ward0 with master := true, mb := { rollHeld := true } })] }
     takes s { pf0 with ward := 7 } .rollcallClear 7 = true ∧ (s.ward 7).master = true ∧ (s.ward 7).mb.rollHeld = true) ∧
    takes asks pf0 .rollcallClear 0 = true ∧ (asks.ward 0).master = false ∧ domain.live = true ∧ State.reset.live = false ∧
    (let s := { linked { peerAddr := 67, st := .up } with wards := [(0, { spanned with job := some { job0 with prog := { modules := [3, 67] } } })] }
     (s.ward 0).multi = true ∧ ((s.ward 0).job.map (·.prog.modules) |>.getD []).contains 67 = true) := by decide +kernel

/-! ### What the statements assume: rings, functions, keys -/

def cpl1 : Cpl := { tag := 0, jseq := 1, beat := 0, status := 0, kind := 0, detail := 0 }
theorem wit_Rings : (let s := asks; s.live = true ∧ s.hasBlock rq0 = true ∧ s.hasBlock { port := 0, func := 1 } = true ∧ s.hasBlock { port := 0, func := 2 } = false ∧
     (s.ring (ringKey 0 0 0)).unposted = [] ∧ (s.ring (ringKey 0 0 0)).en = true ∧ (0x80000000#32 : W32).getLsbD 31 = true ∧
     (s.ring (ringKey 0 0 15)).en = false) ∧
    (let s := { asks with rings := [(0, { en := true, st := 1, unposted := [cpl1] })] }
     (s.ring 0).unposted = [cpl1] ∧ (s.ring 0).st = 1 ∧ ({ s.ring 0 with cqHead := 0 } : Ring).cqFull = false ∧ s.canIssue 0 0 = true) := by decide +kernel
/-- Ring sizes at the ends of the legal range, and beyond them. -/
theorem wit_RingSizes : (∀ p ∈ [((0x86060000 : Nat), 6, 6), (0x90100000, 16, 16), (0x85060000, 5, 6), (0x86110000, 6, 17)],
    p.1 / 16777216 % 32 = p.2.1 ∧ p.1 / 65536 % 32 = p.2.2) := by decide
theorem wit_Functions : asks.live = true ∧ asks.wardOfVf 0 1 = some 0 ∧ asks.wardOfVf 1 8 = none ∧
    (let s := { asks with funcs := [(funcKey 0 1, { inFlr := true })] }
     (s.func (funcKey 0 1)).inFlr = true ∧ (∀ d ∈ (s.ward 0).dieList, s.devOnHost d = false)) ∧
    (let s := { asks with ports := [(1, { detect := false })] }
     (s.port 1).perst = false ∧ (s.port 1).detect = false ∧ (s.port 1).up = false ∧ (s.port 0).detect = true) ∧
    ((asks.port 0).up = true ∧ ({ asks with wards := [] } : State).wardsOnPort 0 = []) ∧ (asks.func (funcKey 1 8)).inFlr = false := by decide +kernel
theorem wit_NoHostAccess : ∀ c ∈ (asks.ward 0).chans, asks.hostAccess c 0 = none := by decide +kernel
theorem wit_Accounts : on.live = true ∧ (∀ w < 8, (on.ward w).reg oAcctBase / 2 ^ 23 % 2 ^ 25 = 0) ∧ (on.ward 0).hasBeat = true ∧ (on.ward 7).hasBeat = false ∧
    (let y := { ward0 with acct := [(1, { flush := 2 })] }; 0 < (y.acct.get 1).flush) := by decide +kernel

def keyed (z : Slot) : State := { servesOn (served ent1) with slots := [(0, { st := .modul, key := 1 }), (16383, z)] }
def liveSlot (n : Nat) : Slot := { st := .live, ward := 0, members := (List.range n).map (· + 1), key := 5, epoch := 7 }
theorem wit_KeyAlloc : (let s := keyed {}; takes s pf0 (.keyAlloc 1) 0 = true ∧ s.freeSlot = some 1 ∧ s.ctxSlot 0 1 = none ∧ (s.ward 0).st ≠ .disabled ∧
      (s.ward 0).st ≠ .placing) ∧ takes (keyed {}) pf0 (.keyAlloc 0) 0 = true ∧
    (let s := keyed (liveSlot 1); takes s pf0 (.keyAlloc 1) 0 = true ∧ (s.ctxSlot 0 1).isSome = true) := by decide +kernel
theorem wit_KeyShare : (let s := keyed (liveSlot 3)
     takes s pf0 (.keyShare 16383 4) 0 = true ∧ (s.slot 16383).st = .live ∧ (s.slot 16383).members.length < 4 ∧ s.ctxSlot 0 4 = none ∧
     4 ∉ (s.slot 16383).members ∧ 3 ∈ (s.slot 16383).members ∧ takes s pf0 (.keyShare 16383 3) 0 = true) ∧
    (let s := keyed (liveSlot 4); takes s pf0 (.keyShare 16383 5) 0 = true ∧ 4 ≤ (s.slot 16383).members.length ∧ 5 ∉ (s.slot 16383).members) ∧
    takes (keyed {}) pf0 (.keyShare 16383 5) 0 = true ∧ takes (keyed {}) pf0 (.keyRetire 16383) 0 = true ∧ ((keyed {}).slot 16383).st ≠ .live ∧
    takes (keyed (liveSlot 1)) pf0 (.keyRetire 16383) 0 = true := by decide +kernel
theorem wit_Certificates (out : W64) (n : Nat) : let s := keyed (liveSlot 1)
    takes s pf0 (.attest 1 65536 0 0 true 0) 0 = true ∧ takes s pf0 (.attest 1 65535 0 0 true 0) 0 = true ∧ s.ctxSlot 0 1 = some 16383 ∧
    ((s.ward 0).registry.get 1).st = .registered ∧ s.takesHere pf0 (.ownerSet 0 64 true 0 0) = true ∧ s.takesHere pf0 (.ownerSet 0 64 false 0 0) = true ∧
    s.sec.ownerVer ≤ 0 ∧ (let u := { s with sec := { ownerVer := 1 } }; u.takesHere pf0 (.ownerSet 0 64 true 0 0) = true ∧ (0 : Nat) < u.sec.ownerVer) ∧
    s.takesHere pf0 (.certRead 0 0) = true ∧ (n ≤ n ∧ (0 : Nat) % 2 ^ 47 + 0 ≤ 2 ^ 47) ∧ out = out ∧
    s.takesHere pf0 (.ideKey 1 3 0 true) = true ∧ s.takesHere pf0 (.ideKey 2 0 0 true) = true ∧ s.takesHere pf0 (.ideKey 0 4 0 true) = true := by
  refine ⟨?_, ?_, ?_, ?_, ?_, ?_, ?_, ?_, ?_, ⟨Nat.le_refl n, ?_⟩, rfl, ?_, ?_, ?_⟩ <;> decide +kernel
theorem wit_KeyEvents : (let s := keyed { st := .quarantine, epoch := 8 }; (s.slot 16383).st = .quarantine ∧ (∀ w < 8, (s.ward w).st ≠ .placing) ∧ s.live = true) ∧
    (let s := { keyed {} with retires := [{ slot := 16383, ward := 0, members := [1], jseq := 4, boundaryDone := true }] }; (s.ward 0).scrubDue = false ∧
     s.retires.length = 1) ∧
    (let s := { keyed (liveSlot 1) with
       atts := [{ ward := 0, ctx := 1, slot := 16383, epoch := 7, nonce := 0, out := 0, jseq := 4 }]
       opens := [(4, some { ring := 0, tag := 0, ward := 0 })] }
     (s.slot 16383).st = .live ∧ (s.slot 16383).epoch = 7 ∧ (s.opens.get 4).isSome = true ∧ s.canIssue (0 / 9) (0 % 9) = true) ∧
    (let s := { on with flash := { ownerSets := [(4, 1)] } }; s.flash.ownerSets = (4, 1) :: []) := by decide +kernel

/-! ### What the statements assume: faults, management, boot, power -/

theorem wit_Dies : (let s := { on with tick := 16 }; s.live = true ∧ 7 ∈ s.dies ∧ s.dieFencedAt 7 = false ∧ s.beats.get 7 + 16 ≤ s.tick ∧ s.wardOfDie 7 = none) ∧
    ({ on with tick := 15 } : State).tick < on.beats.get 7 + 16 ∧ (448 / 64 = 7 ∧ (262143 : Nat) < 262144 ∧ (65535 : Nat) < 65536) ∧
    (let s := { on with links := (List.range 6).map fun j => (42 + j, { st := .down }) }; ∀ j < 6, (s.link (6 * 7 + j)).st = .down) := by decide +kernel
/-- Ward 0 with one read-only page of 2 MiB under its key. -/
def patrolled (y : Ward) (t : Tab SecTag := []) : State :=
  { on with wards := [(0, { y with l1 := [(0, 1#64)], l2 := [(0, leafWord 0 1 1)], keySlot := 1 })], secTags := t, slots := [(1, { st := .ward, ward := 0, key := 5 })] }
theorem wit_Patrols : (let s := patrolled ward0; s.live = true ∧ (s.ward 0).running = true ∧ (s.ward 0).reg oPatrol / 2 ^ 16 % 2 = 0 ∧ (s.ward 0).patBusy = false ∧
      (s.ward 0).patrolPages = [(0, 8192)]) ∧
    (let s := patrolled { ward0 with patBusy := true, patNext := 8191 }
     nthSector (s.ward 0).patrolPages 8191 = some 8191 ∧ nthSector (s.ward 0).patrolPages 8192 = none ∧ s.secTags.get 8191 = default ∧ (s.ward 0).patDue = false) ∧
    (let s := patrolled { ward0 with patBusy := true } [(0, { kind := .poison, key := 5 })]
     s.secTags.get 0 ≠ default ∧ (s.secTags.get 0).key = (s.slot (s.ward 0).keySlot).key ∧ (s.secTags.get 0).kind = .poison ∧
     nthSector (s.ward 0).patrolPages 1 ≠ none) ∧ (beats wardIdle).live = true := by decide +kernel
theorem wit_Safelight : (let s := { on with saf := { pcsUp := true, reachable := true, unacked := [{ seq := 1, sent := true }, { seq := 2 }] } }
     s.managed = true ∧ s.saf.pcsUp = true ∧ ((s.saf.unacked.filter fun c => !c.sent).take 40).map (·.seq) = [2] ∧ s.devid = 0 ∧ s.saf.reachable = true ∧
     (s.saf.unacked.any fun c => c.seq = 1 && c.sent) = true ∧ (s.saf.unacked.any fun c => c.seq = 2 && c.sent) = false) ∧
    (let s := { on with saf := { pcsUp := true, unacked := [{ seq := 1 }] } }; s.saf.reachable = false ∧ s.saf.discardedFrom = false) ∧
    State.reset.managed = false := by decide +kernel
theorem wit_Management : (let s := { on with saf := { da := 8, pcsUp := true } }; s.managed = true ∧ s.saf.da ≠ 0 ∧ s.saf.pcsUp = true) ∧
    (on.managed = true ∧ on.saf.da = 0 ∧ on.saf.pcsUp = false) := by decide +kernel

/-- An image of seven sections for any variant; its device map has device 1 at address 3 and device 9 at 5. -/
def cfg1 : Tab Byte :=
  [(0, 76), (1, 68), (2, 67), (3, 71), (4, 1), (6, 7), (8, 192), (9, 235), (16, 14), (16288, 1), (16292, 16), (16304, 64), (16320, 2),
   (16324, 16), (16337, 25), (16352, 3), (16356, 16), (16357, 153), (16368, 1), (16480, 1), (16544, 9), (20223, 192), (55552, 4), (55557, 17),
   (55764, 4), (59920, 5), (59924, 32), (59936, 104), (59937, 16), (59938, 192), (59939, 18), (59968, 6), (59972, 48), (59973, 1),
   (59990, 6), (59991, 8), (60288, 7), (60292, 48)]
def fw1 : Tab Byte := [(0, 0x4C), (1, 0x44), (2, 0x46), (3, 0x57), (4, 1), (8, 0xA0), (9, 0x3F)]
def cfgCopy : ImgCopy := { bytes := some cfg1 }
def fwCopy : ImgCopy := { bytes := some fw1 }
def boot1 : BootIn := { cfg := (cfgCopy, cfgCopy), fw := (fwCopy, fwCopy), deviceId := 1 }
def isOk (x : Except BootFail Boot) : Bool := match x with | .ok _ => true | .error _ => false
def failsAt (x : Except BootFail Boot) : Option Nat := match x with | .ok _ => none | .error f => some f.item
theorem wit_Boots : isOk (bootChecks .full boot1) = true ∧ bootAddr .full boot1 = some 3 ∧ State.reset.life = .off ∧ on.life ≠ .off ∧
    ({ on with life := .reset } : State).life = .reset ∧ badSection .full cfg1 = none ∧ headerOk cfg1 = true ∧ fwHeaderOk fw1 = true ∧
    (∀ b ∈ ([({ boot1 with flashC0 := false, flashC4 := false }, 0), ({ boot1 with ident := ({ ok := false }, { ok := false }) }, 1),
             ({ boot1 with ownerErased := false, owner := ({ ok := false }, { ok := false }) }, 2),
             ({ boot1 with cfg := ({ bytes := none }, { sigOk := false, bytes := some cfg1 }) }, 3),
             ({ boot1 with ownerErased := false, ownerVer := 1 }, 3), ({ boot1 with deviceId := 2 }, 3),
             ({ boot1 with fw := ({}, { bytes := none }) }, 4), ({ boot1 with badStack := some 31 }, 5)] : List (BootIn × Nat)),
      failsAt (bootChecks .full b.1) = some b.2) ∧
    (bootChecks .full { boot1 with cfg := ({}, cfgCopy) }).toOption.map (·.cfgCopy) = some true := by decide +kernel
/-- One section's TYPE out of order, and a reserved byte that is not zero. -/
theorem wit_Sections : (let c := Tab.set (β := Byte) cfg1 16320 1; badSection .full c = some 1 ∧
      cfgCheck .full 0 1 { bytes := some c } = { ok := false, reason := 2, idx := 1 }) ∧
    (cfgCheck .full 0 1 { bytes := some (Tab.set (β := Byte) cfg1 16305 1) }).idx = 0 ∧ (cfgCheck .full 1 1 cfgCopy).ok = false := by decide +kernel

theorem wit_Restarts : (let s := { on with life := .stopping, pwr := { vin := 4250, tj := 95, outT := 65, temps := (List.range 10).map fun k => (k, 0) } }
     s.life = .stopping ∧ 4250 ≤ s.pwr.vin ∧ s.pwr.vin ≤ 6000 ∧ Tab.getD (-32768) s.pwr.temps 9 < 8 * (s.pwr.outT : Int) ∧
     (∀ d ∈ s.dies, Tab.getD (-32768) s.pwr.temps d < 8 * (s.pwr.tj : Int) - 80) ∧ 0 < s.pwr.tj) ∧
    (let s := { on with life := .stopping, pwr := { vin := 6000, tj := 95, outT := 65, temps := [(7, 680), (9, 0)] } }
     ∃ d ∈ s.dies, 8 * (s.pwr.tj : Int) - 80 ≤ Tab.getD (-32768) s.pwr.temps d ∧ -32768 < Tab.getD (-32768) s.pwr.temps d) := by decide +kernel
theorem wit_Flash : (let s := { asks with flash := { st := .busy, target := some (4, true) } }; s.live = true ∧ s.flash.st = .busy ∧ s.flash.target = some (4, true)) ∧
    (let v : W64 := 0x41; let f := v.setWidth 32 &&& 0xF2#32; f.toNat / 16 = 4 ∧ v.getLsbD 0 = true) ∧
    (let v : W64 := 0x21; let f := v.setWidth 32 &&& 0xF2#32; f.toNat / 16 = 2) ∧ asks.flash.st ≠ .busy ∧ asks.canIssue (asks.flash.src.toNat / 2 ^ 47 % 2) 0 = true ∧
    (let s := { on with life := .bootFailed, saf := { pcsUp := true } }; s.life = .bootFailed ∧ s.saf.pcsUp = true) ∧ Memory.wf (runs (.halt 0)).mem = true := by
  decide +kernel

theorem wit_Power : on.measures = true ∧ State.reset.measures = false ∧
    (let s := { on with pwr := { nPower := 63, nThermal := 63, peakW := 4800, designW := 4200, tj := 95, outT := 65 } }
     s.live = true ∧ 24 ≤ s.pwr.nPower ∧ s.pwr.nPower < 64 ∧ 18 ≤ s.pwr.nThermal ∧ s.pwr.nThermal < 64 ∧ (520 : Int) ≤ 8 * (s.pwr.outT : Int) ∧
     (s.dies.all fun d => decide (Tab.getD (-32768) ([] : Tab Int) d < 8 * (s.pwr.tj : Int) - 24)) = true ∧
     (s.dies.any fun d => decide (8 * (s.pwr.tj : Int) < Tab.getD (-32768) [(7, 761)] d)) = true) ∧
    (let s := { on with pwr := { timer := true, clamp := true, temps := [(7, 880), (9, 560)] } }
     s.pwr.timer = true ∧ s.pwr.clamp = true ∧ 7 ∈ s.dies ∧ 880 ≤ Tab.getD (-32768) s.pwr.temps 7 ∧ 560 ≤ Tab.getD (-32768) s.pwr.temps 9) := by decide +kernel
theorem wit_Registers : on.live = true ∧ on.mayAccess rq0 (blockOf 0x40008) = true ∧ on.mayAccess { port := 0, func := 1 } (blockOf 0x40008) = false ∧
    blockOf (0x1000000 + 0x100000 * 7 + oBeaLen) = .ward 7 ∧ RegW.legal { off := 0x1000000 + oBeaLen, size := 4, val := 16 } = true ∧ blockOf 0x70000 = .none ∧
    on.mayAccess rq0 (blockOf (0x1000000 + oBeaLen)) = true ∧ (on.ward 0).running = true ∧ (beats wardIdle).mayAccess rq0 (blockOf (0x1000000 + oBeaLen)) = true ∧
    ((beats wardIdle).ward 0).running = false ∧ on.mayAccess rq0 (blockOf (oFunc + 0x100 * 15)) = true ∧ on.hasBlock rq0 = true ∧ on.variant = .full ∧
    ((on.ring 0).sqBase.toNat < 2 ^ 48 ∧ (on.ring 0).sqBase.toNat % 2 ^ 12 = 0) ∧
    inStore 0x10810000 = true ∧ inStore 8 = false ∧ on.mayAccess { port := 0, func := 1 } (blockOf 0x10810000) = true ∧
    (asksOf {}).ward 0 = {} ∧ (({} : Ward).hasBeat = false) ∧ on.linkAddr < 68 ∧ on.image.domainSize ≤ 64 := by decide +kernel
/-- What the module's own registers read: the capabilities of each variant, who holds the dies, the module's place. -/
theorem test_capabilities : on.regRead rq0 0 4 = 0xFFFF01 ∧ on.regRead rq0 8 8 = 0x000209B030204008 ∧ on.regRead rq0 0x10 4 = 8 ∧
    ({ on with variant := .half } : State).regRead rq0 0 4 = 0x333302 ∧ ({ on with variant := .serve } : State).regRead rq0 0x1000010 4 = 0xFF03 ∧
    on.regRead { port := 0, func := 1 } 0 4 = 0 := by decide +kernel

/-! ### Worked examples of the spec -/

/-- Chapter 04, the running sum of lane 40: segments 0 to 3, then the promotion into 3,000,000.0. -/
theorem test_running_sum : let a := (addPartial .rne {} 1 20000 (-12) false).1
    let b := (addPartial .rne a 1 (-2997) (-12) false).1
    let c := (addPartial .rne b 1 9001 (-9) false).1
    let d := (addPartial .rne c 1 1000 (-12) false).1
    (a.m, a.e) = (20000, -12) ∧ (b.m, b.e) = (17003, -12) ∧ (c.m, c.e) = (11126, -9) ∧ (d.m, d.e) = (11251, -9) ∧
    (promoteElem .rne d 0x4A371B00 1).1 = 0x4A371B58 ∧ srDiv 89011 3 5120 = 11127 ∧ srDiv 89011 3 5119 = 11126 := by decide +kernel

def block1 : List (Option W32) := [some 0x3F500000, some 0xBE900000, some 0x3C000000] ++ List.replicate 29 (some 0)
/-- Chapter 02, the B4 line block of three elements: present scale, a supplied exponent of -8 with GUARD 0 and 1. -/
theorem test_conversion : (let c := convBlock { fmt := .b4, square := false, supplied := false, guard := false, rnd := .rne, site := 12 } 0 [] block1
     c.scale = -3 ∧ c.codes.take 3 = [6, 14, 0] ∧ c.delta.total = 32 ∧ c.delta.vanished = 1 ∧ c.delta.saturated = 0 ∧ c.delta.sqerr = [0x3BA20000]) ∧
    (let c := convBlock { fmt := .b4, square := false, supplied := true, guard := false, rnd := .rne, site := 12 } (-8) [] block1
     c.codes.take 3 = [7, 9, 2] ∧ c.delta.saturated = 2 ∧ c.delta.vanished = 0) ∧
    (let c := convBlock { fmt := .b4, square := false, supplied := true, guard := true, rnd := .rne, site := 12 } (-8) [] block1
     c.scale = -3 ∧ c.codes.take 3 = [6, 14, 0] ∧ c.delta.overridden = 1) := by decide +kernel
theorem test_conversion_stochastic : ∀ p ∈ [(4096, 7), (4095, 6)],
    (convBlock { fmt := .b4, square := false, supplied := false, guard := false, rnd := .sr, site := 12 } 0 [p.1] block1).codes.head? = some p.2 := by
  decide +kernel

/-- Chapter 08, one skewed run for eight micro-batches: its descriptor, shape record and vectors. -/
theorem test_skewed_run : let sh := shapeOf [0, 0x3DE0, 0x40000, 0, 0, 0x0F000000, 7, 0]
    let d : Desc := { words := [0x3630800000000000, 0x41000421, 0xA4400000, 0x42000040, 0, 0, 0, 0x0002000042000080], sshape := sh, dshape := {}, dense := true }
    d.kind = 3 ∧ d.sel = 3 ∧ d.pfmt = .b8 ∧ d.cf = true ∧ d.caddr = 0x42000080 ∧ d.ctx = 2 ∧ d.illegal = false ∧
    shapeOk [0, 0x3DE0, 0x40000, 0, 0, 0x0F000000, 7, 0] = true ∧ sh.cnts = [1, 16, 8, 1, 1] ∧ sh.strs.take 3 = [0, 15840, 262144] ∧ d.vectors = 128 := by
  decide +kernel

/-- Chapter 10: layer 40, slot 3 is index 323, the upper half of ADP_XCLAIM161. -/
theorem test_claim_index : pairIdx (40, 3) = 323 ∧ 323 / 2 = 161 ∧ 323 % 2 = 1 := by decide
theorem test_promotion_keeps_infinity : promoteElem .rne { empty := false, m := 1, e := 0 } 0x7F800000 1 = (0x7F800000, 1, 1) := by decide +kernel
theorem test_generator : genStep 1 = 0x80200003 ∧ genStep 2 = 1 := by decide +kernel
theorem wit_RunningSum : (1 : Int) ≠ 0 ∧ |(1 : Int)| < 2 ^ 20 ∧ (-2097152 : Int) ≤ 2097151 ∧
    (addPartial .rne { empty := false, m := 2097151, e := 0 } 1 1 0 false) = ({ empty := false, m := 1048576, e := 1 }, 1, 1) := by decide +kernel
theorem wit_Promotions : f32IsNan 0x7F800000 = false ∧ f32IsInf 0x7F800000 = true ∧ ((f32Val 0xBF800000).add ⟨1, 0⟩).m = 0 ∧ f32IsInf 0xBF800000 = false ∧
    f32IsNan 0x7FC10000 = true ∧ (0x7F80#16 : W16).toNat % 2 ^ 15 ≤ 0x7F80 := by decide +kernel
theorem wit_Generators : (1#32 : W32) ≠ 0 ∧ (0x80000000#32 : W32) ≠ 0 ∧ genOf [] 255 ≠ 0 ∧ (255 : Nat) < 256 := by decide +kernel
theorem wit_Codes : (⟨1, 127⟩ : Dy).abs.le ⟨2 ^ 24 - 1, 104⟩ = true ∧ (⟨2, 127⟩ : Dy).abs.le ⟨2 ^ 24 - 1, 104⟩ = false ∧ |(-127 : Int)| ≤ 127 ∧
    expandCode (some 2) 0x7F = 0x7F800000 ∧ expandCode (some 1) 0x7F = 0x7F000000 := by decide +kernel

end Sys2Proof.Tests
end

section
/-! Every command keeps the variant, the queue and the canonical form of memory (R1, R2). -/

namespace Sys2Proof.Machine
open Sys2Proof

/-- One arm per command: each cites what its own meaning keeps. -/
theorem exec_kept {v₀ : Variant} {q₀ : List Instr} (c : Instr) (s : State) (h : Kept v₀ q₀ s) : KeptX v₀ q₀ (exec c s) := by
  cases c with
  | latch t f => exact execLatch_kept t f s h
  | latchComplete t => exact execLatchComplete_kept t s h
  | swap t => exact execSwap_kept t s h
  | pass t f => exact execPass_kept t f s h
  | passt t f => exact execPasst_kept t f s h
  | passStreamStart t => exact execPassStreamStart_kept t s h
  | promotion t e => exact execPromotion_kept t e s h
  | proofRunStart t => exact execProofRunStart_kept t s h
  | proofVerdict t errs => exact execProofVerdict_kept t errs s h
  | wzero t f => exact execWzero_kept t f s h
  | wzeroComplete t => exact execWzeroComplete_kept t s h
  | drain t f => exact execDrain_kept t f s h
  | drainComplete t => exact execDrainComplete_kept t s h
  | chain t f => exact execChain_kept t f s h
  | chainProgramStart q => exact execChainProgramStart_kept q s h
  | chainRow q served chk => exact execChainRow_kept q served chk s h
  | chainProgramComplete q => exact execChainProgramComplete_kept q s h
  | kick t f => exact execKick_kept t f s h
  | tag t f => exact execTag_kept t f s h
  | tagClearComplete t bank => exact execTagClearComplete_kept t bank s h
  | stat t f => exact execStat_kept t f s h
  | statComplete t => exact execStatComplete_kept t s h
  | beat t => exact execBeat_kept t s h
  | fence t cls => exact execFence_kept t cls s h
  | sig t f => exact execSig_kept t f s h
  | flagArrive src tgt => exact execFlagArrive_kept src tgt s h
  | waitf t f => exact execWaitf_kept t f s h
  | waitfWake t => exact execWaitfWake_kept t s h
  | loop t f => exact execLoop_kept t f s h
  | endl t => exact execEndl_kept t s h
  | jmp t f => exact execJmp_kept t f s h
  | halt t => exact execHalt_kept t s h
  | seta t f => exact execSeta_kept t f s h
  | adda t f => exact execAdda_kept t f s h
  | setk t f => exact execSetk_kept t f s h
  | beatStepPoint w => exact execBeatStepPoint_kept w s h
  | masterDecide w => exact execMasterDecide_kept w s h
  | verdictApply w late => exact execVerdictApply_kept w late s h
  | markerLost w => exact execMarkerLost_kept w s h
  | beatBoundary w ns => exact execBeatBoundary_kept w ns s h
  | dmaStart r c a => exact execDmaStart_kept r c a s h
  | dmaDescriptorFetch c seen => exact execDmaDescriptorFetch_kept c seen s h
  | dmaDescriptorComplete c seen reports => exact execDmaDescriptorComplete_kept c seen reports s h
  | dmaAccessError c e => exact execDmaAccessError_kept c e s h
  | squashComplete c => exact execSquashComplete_kept c s h
  | develop d seen reports => exact execDevelop_kept d seen reports s h
  | quant d x => exact execQuant_kept d x s h
  | move d x => exact execMove_kept d x s h
  | encode d x => exact execEncode_kept d x s h
  | devOperationComplete d => exact execDevOperationComplete_kept d s h
  | peerTimeout u x => exact execPeerTimeout_kept u x s h
  | hostCompletionTimeout u x => exact execHostCompletionTimeout_kept u x s h
  | statSnapRequest r w a => exact execStatSnapRequest_kept r w a s h
  | statSnapshotComplete w => exact execStatSnapshotComplete_kept w s h
  | wardEnable src dies port vf => exact execWardEnable_kept src dies port vf s h
  | wardDisable src => exact execWardDisable_kept src s h
  | wardReset src => exact execWardReset_kept src s h
  | wardScrubComplete w => exact execWardScrubComplete_kept w s h
  | jobStart src program len prog seen => exact execJobStart_kept src program len prog seen s h
  | jobEnd src => exact execJobEnd_kept src s h
  | map src va pa count size rights kslot => exact execMap_kept src va pa count size rights kslot s h
  | unmap src va count size => exact execUnmap_kept src va count size s h
  | register src c kslot rslot rank mats image negVa negLen => exact execRegister_kept src c kslot rslot rank mats image negVa negLen s h
  | withdraw src c => exact execWithdraw_kept src c s h
  | claim src c count list pairs => exact execClaim_kept src c count list pairs s h
  | unclaim src c count list pairs => exact execUnclaim_kept src c count list pairs s h
  | submit src idx c prompt maxtok cookie out job bytes => exact execSubmit_kept src idx c prompt maxtok cookie out job bytes s h
  | cancel src idx => exact execCancel_kept src idx s h
  | prepare src target source length => exact execPrepare_kept src target source length s h
  | switch src target wait => exact execSwitch_kept src target wait s h
  | distribute src target package length alt m => exact execDistribute_kept src target package length alt m s h
  | shardArrive w shard bytes tagOk => exact execShardArrive_kept w shard bytes tagOk s h
  | endOfPass w => exact execEndOfPass_kept w s h
  | distributeTimeout w => exact execDistributeTimeout_kept w s h
  | trainStart src c mode record seen => exact execTrainStart_kept src c mode record seen s h
  | trainStop src c => exact execTrainStop_kept src c s h
  | rollback src c => exact execRollback_kept src c s h
  | updStep r d a => exact execUpdStep_kept r d a s h
  | gradientReductionComplete w c => exact execGradientReductionComplete_kept w c s h
  | passOneComplete w x => exact execPassOneComplete_kept w x s h
  | vote w c v => exact execVote_kept w c v s h
  | passTwoComplete w c => exact execPassTwoComplete_kept w c s h
  | digestExchange w c x => exact execDigestExchange_kept w c x s h
  | rehashComplete w c x => exact execRehashComplete_kept w c x s h
  | checkpointCopyComplete w c => exact execCheckpointCopyComplete_kept w c s h
  | rollbackRestoreComplete w c => exact execRollbackRestoreComplete_kept w c s h
  | peerCheckpointArrive w c d fromReplica bytes => exact execPeerCheckpointArrive_kept w c d fromReplica bytes s h
  | armTimeout w c => exact execArmTimeout_kept w c s h
  | linkTrained l x => exact execLinkTrained_kept l x s h
  | linkTrainRetry l => exact execLinkTrainRetry_kept l s h
  | laneAlignmentLoss l => exact execLaneAlignmentLoss_kept l s h
  | linkRetrainComplete l x => exact execLinkRetrainComplete_kept l x s h
  | flitData l f chk hdr payload => exact execFlitData_kept l f chk hdr payload s h
  | flitReadReq l f chk hdr => exact execFlitReadReq_kept l f chk hdr s h
  | flitResp l f chk status payload => exact execFlitResp_kept l f chk status payload s h
  | flitReduce l f chk hdr copy payload => exact execFlitReduce_kept l f chk hdr copy payload s h
  | flitMcast l f chk hdr payload => exact execFlitMcast_kept l f chk hdr payload s h
  | flitIdle l f chk => exact execFlitIdle_kept l f chk s h
  | sessionRekey l atSeq => exact execSessionRekey_kept l atSeq s h
  | markerReady w src m => exact execMarkerReady_kept w src m s h
  | markerBoundary w m => exact execMarkerBoundary_kept w m s h
  | markerHold w m => exact execMarkerHold_kept w m s h
  | markerStart w m => exact execMarkerStart_kept w m s h
  | relayedCommand origin jseq cmd => exact execRelayedCommand_kept origin jseq cmd s h
  | relayCompletion jseq status detail => exact execRelayCompletion_kept jseq status detail s h
  | relayTimeout jseq => exact execRelayTimeout_kept jseq s h
  | takeover src m sb => exact execTakeover_kept src m sb s h
  | tko m sb tg verdict => exact execTko_kept m sb tg verdict s h
  | tkoAck addr tg => exact execTkoAck_kept addr tg s h
  | tkoDone m tg => exact execTkoDone_kept m tg s h
  | tkoAckTimeout tg => exact execTkoAckTimeout_kept tg s h
  | lossTimeout m => exact execLossTimeout_kept m s h
  | rollcallSend => exact execRollcallSend_kept s h
  | rollcallRecord r => exact execRollcallRecord_kept r s h
  | rollcallClear src => exact execRollcallClear_kept src s h
  | linkRetrain src die link => exact execLinkRetrain_kept src die link s h
  | stopMarker sender ev => exact execStopMarker_kept sender ev s h
  | journalRead src first count dst => exact execJournalRead_kept src first count dst s h
  | illegalCommand src opc bytes => exact execIllegalCommand_kept src opc bytes s h
  | sqTailWrite r ring v => exact execSqTailWrite_kept r ring v s h
  | cqHeadWrite r ring v => exact execCqHeadWrite_kept r ring v s h
  | ringCtlWrite r ring v => exact execRingCtlWrite_kept r ring v s h
  | msixUnmask r vec => exact execMsixUnmask_kept r vec s h
  | vfFlr port vf => exact execVfFlr_kept port vf s h
  | flrDrainTimeout port vf drained => exact execFlrDrainTimeout_kept port vf drained s h
  | pf0Flr port => exact execPf0Flr_kept port s h
  | perst port => exact execPerst_kept port s h
  | accountingSecond railMj idleMj => exact execAccountingSecond_kept railMj idleMj s h
  | seqPeekIdx r w v => exact execSeqPeekIdx_kept r w v s h
  | updPeekCtx r d v => exact execUpdPeekCtx_kept r d v s h
  | secSlotPeekIdx r v => exact execSecSlotPeekIdx_kept r v s h
  | safRingIdx r v => exact execSafRingIdx_kept r v s h
  | keyAlloc src c => exact execKeyAlloc_kept src c s h
  | keyRetire src slot => exact execKeyRetire_kept src slot s h
  | keyRetireComplete slot => exact execKeyRetireComplete_kept slot s h
  | keyShare src slot c => exact execKeyShare_kept src slot c s h
  | attest src c outlen request out keyOk nonce => exact execAttest_kept src c outlen request out keyOk nonce s h
  | ownerSet src record length sigOk secver ownerId => exact execOwnerSet_kept src record length sigOk secver ownerId s h
  | certRead src out outlen => exact execCertRead_kept src out outlen s h
  | ideKey src port stream request wrapOk => exact execIdeKey_kept src port stream request wrapOk s h
  | quarantineExpire slot => exact execQuarantineExpire_kept slot s h
  | heartbeat d b => exact execHeartbeat_kept d b s h
  | watchdogExpire d => exact execWatchdogExpire_kept d s h
  | patrolCycle w => exact execPatrolCycle_kept w s h
  | patrolRead w rep => exact execPatrolRead_kept w rep s h
  | safelightSend => exact execSafelightSend_kept s h
  | collectorAck devid ack => exact execCollectorAck_kept devid ack s h
  | resendTimer seq => exact execResendTimer_kept seq s h
  | aliveExpire => exact execAliveExpire_kept s h
  | pcsSyncLoss => exact execPcsSyncLoss_kept s h
  | pcsSync => exact execPcsSync_kept s h
  | entdaa da => exact execEntdaa_kept da s h
  | setEndpointId eid => exact execSetEndpointId_kept eid s h
  | getEndpointId => exact execGetEndpointId_kept s h
  | getMessageTypeSupport => exact execGetMessageTypeSupport_kept s h
  | pldmSensorRead sensor => exact execPldmSensorRead_kept sensor s h
  | readCompactRecords first count => exact execReadCompactRecords_kept first count s h
  | readStatusRegisters => exact execReadStatusRegisters_kept s h
  | powerOn b => exact execPowerOn_kept b s h
  | bootFailResend => exact execBootFailResend_kept s h
  | resetNAssert => exact execResetNAssert_kept s h
  | resetNRelease b => exact execResetNRelease_kept b s h
  | flashWrite r a img other => exact execFlashWrite_kept r a img other s h
  | flashWriteComplete compareOk => exact execFlashWriteComplete_kept compareOk s h
  | supplySample vin10mV => exact execSupplySample_kept vin10mV s h
  | powerLimitTick avg10ms avg1s dies hundred => exact execPowerLimitTick_kept avg10ms avg1s dies hundred s h
  | thermalTick dies inlet outlet ten => exact execThermalTick_kept dies inlet outlet ten s h
  | stopTimerExpire => exact execStopTimerExpire_kept s h
  | overvoltageTimeout => exact execOvervoltageTimeout_kept s h
  | dieOvertemp d => exact execDieOvertemp_kept d s h
  | outletOvertemp => exact execOutletOvertemp_kept s h
  | railSwitchOff => exact execRailSwitchOff_kept s h
  | autoReset b => exact execAutoReset_kept b s h
  | registerWrite r a => exact execRegisterWrite_kept r a s h
  | registerReadRefused r off => exact execRegisterReadRefused_kept r off s h
  | pcieLinkDown port => exact execPcieLinkDown_kept port s h
  | pcieLinkUp port rate width => exact execPcieLinkUp_kept port rate width s h
  | perstRelease port => exact execPerstRelease_kept port s h
  | busMasterEnableWrite r on => exact execBusMasterEnableWrite_kept r on s h
  | arpRequest targetMatches => exact execArpRequest_kept targetMatches s h
  | neighbourSolicitation targetMatches => exact execNeighbourSolicitation_kept targetMatches s h
  | icmpEcho ident seq data => exact execIcmpEcho_kept ident seq data s h
  | recordEventEnable on => exact execRecordEventEnable_kept on s h
  | attestationSigned => exact execAttestationSigned_kept s h
  | ownerRecordWritten ok0 ok1 => exact execOwnerRecordWritten_kept ok0 ok1 s h
  | spillReadComplete w seqIdx => exact execSpillReadComplete_kept w seqIdx s h
  | shardRequest w shard fromAddr => exact execShardRequest_kept w shard fromAddr s h
  | controllerMemoryError d => exact execControllerMemoryError_kept d s h

/-- A step keeps the variant and memory's form, and leaves the queue without its front command. -/
theorem step_kept (s t : State) (hm : Memory.wf s.mem = true) (hs : step s = .next t) :
    Kept s.variant s.pending.tail t := by
  unfold step at hs
  cases hp : s.pending with
  | nil =>
    simp only [hp, Host.Outcome.next.injEq] at hs
    subst hs
    exact ⟨rfl, by simp [hp], hm⟩
  | cons c rest =>
    simp only [hp] at hs
    have h := exec_kept c { s with pending := rest } (v₀ := s.variant) (q₀ := rest) ⟨rfl, rfl, hm⟩
    rw [hs] at h
    exact h

/-- Settles O3: a step is one command's meaning on the state with the queue's rest, and every meaning keeps the variant and
the queue it is given. That no command adds to the queue, an empty queue's step and the constant variant are the model's
choices (log entries 1, 2 and 9). -/
theorem variantAndQueueUnderEveryStep : Obligations.VariantAndQueueUnderEveryStep := by
  intro s t hm hs
  obtain ⟨hvariant, hqueue, -⟩ := step_kept s t hm hs
  exact ⟨hvariant, hqueue⟩

end Sys2Proof.Machine
end

section
/-! What messages, interrupts, records and completions leave alone: everything but the message units' own state. -/

namespace Sys2Proof.Machine
open Sys2Proof

/-- A fold keeps whatever each of its steps keeps. -/
theorem foldl_fixes {σ α β : Type} (g : σ → β) (f : σ → α → σ) (hf : ∀ p a, g (f p a) = g p) (xs : List α) (p : σ) :
    g (xs.foldl f p) = g p := by
  induction xs generalizing p with
  | nil => rfl
  | cons x xs ih => exact (ih (f p x)).trans (hf p x)

theorem forEach_fixes {α β : Type} (g : State → β) (f : State → α → State) (hf : ∀ s a, g (f s a) = g s) (xs : List α)
    (s : State) : g (forEach xs s f) = g s := foldl_fixes g f hf xs s

/-- The state apart from the units that carry messages out: links and transfers, rings, interrupts, the journal and the fault
records, with the memory and the free values that they use. -/
def State.still (s : State) : State :=
  { s with fresh := 0, mem := [], links := [], funcs := [], rings := [], opens := [], journal := [], jrnNext := 0,
           heldXfers := [], rot := [], xferPaths := [], xidNext := 0, faults := [], saf := {}, sent := [] }

/-! ### Links -/

theorem State.sendOne_still (s t : State) (k : Nat) (h : s.sendOne k = some t) : t.still = s.still := by
  unfold State.sendOne at h
  dsimp only at h
  split at h
  · cases h
  · split at h
    · cases h
    · split at h
      · cases h
      · cases h; rfl

theorem State.pumpN_still (n : Nat) (s : State) (k : Nat) : (State.pumpN n s k).still = s.still := by
  induction n generalizing s with
  | zero => rfl
  | succ n ih =>
    unfold State.pumpN
    split
    · exact (ih _).trans (State.sendOne_still s _ k ‹_›)
    · rfl

theorem State.enqueue_still (s : State) (k : Nat) (f : Flit) (p : List Byte) : (s.enqueue k f p).still = s.still :=
  State.pumpN_still _ _ k

theorem State.portOf_still (s : State) (own : Option Nat) (f : Flit) : (s.portOf own f).2.still = s.still := by
  unfold State.portOf
  dsimp only
  split
  · rfl
  · split
    · rfl
    · split
      · rfl
      · split <;> rfl

theorem State.route_still (s : State) (f : Flit) (p : List Byte) (own : Option Nat) : (s.route f p own).still = s.still := by
  have hport := State.portOf_still s own f
  unfold State.route
  extract_lets under
  split
  · rfl
  · split
    · rename_i heq
      rw [heq] at hport
      exact (State.enqueue_still _ _ f p).trans hport
    · rename_i heq
      rwa [heq] at hport

theorem State.sendXfer_still (s : State) (x : Sender) (type vc : Nat) (bs : List Byte) :
    (s.sendXfer x type vc bs).still = s.still :=
  forEach_fixes State.still _ (fun t (a : List Byte × Nat) => State.route_still t _ a.1 x.own) _ s

theorem State.sendWrite_still (s : State) (w c m va : Nat) (bs : List Byte) : (s.sendWrite w c m va bs).still = s.still :=
  State.sendXfer_still _ _ 1 1 _

theorem State.ctl_still (s : State) (a : Nat) (o : Output) : (s.ctl a o).still = s.still := by
  unfold State.ctl State.ctlFlit
  split
  · rfl
  · exact State.route_still _ _ [] none

theorem State.stopMarkers_still (s : State) (ev : Nat) : (s.stopMarkers ev).still = s.still :=
  forEach_fixes State.still _ (fun t k => State.enqueue_still t.nextXid.2 k _ _) _ s

/-! ### Interrupts, host memory, the journal -/

theorem State.msix_spec (s : State) (port func vec : Nat) : ∃ n o, s.msix port func vec = { s with funcs := n, sent := o } := by
  unfold State.msix
  extract_lets
  split
  · exact ⟨s.funcs, _, rfl⟩
  · exact ⟨_, s.sent, rfl⟩

theorem State.msix_still (s : State) (port func vec : Nat) : (s.msix port func vec).still = s.still := by
  obtain ⟨n, o, h⟩ := State.msix_spec s port func vec
  rw [h]; rfl

theorem State.hostWrite_spec (s t : State) (port func addr : Nat) (bs : List Byte) (h : s.hostWrite port func addr bs = some t) :
    ∃ m, t = { s with mem := m } := by
  unfold State.hostWrite at h
  split at h
  · cases h; exact ⟨wrCells s.mem _ _, rfl⟩
  · cases h

theorem State.jrnDone_still (s : State) (seq : Nat) (status : Byte) (st : Nat) (beat : W64) :
    (s.jrnDone seq status st beat).still = s.still := by
  unfold State.jrnDone
  extract_lets
  split <;> rfl

/-! ### Fault records -/

/-- A mirror of a record in host memory changes that memory, the interrupts and the collector's counters. -/
theorem State.mirrorTo_spec (s : State) (port : Nat) (en : Bool) (reg : W64) (r : FRec) : ∃ m f n o,
    s.mirrorTo port en reg r = { s with mem := m, saf := f, funcs := n, sent := o } ∧ f.seqNext = s.saf.seqNext := by
  unfold State.mirrorTo
  split
  · split
    · rename_i t heq
      obtain ⟨m, rfl⟩ := State.hostWrite_spec s t _ _ _ _ heq
      obtain ⟨n, o, hmsix⟩ := State.msix_spec { s with mem := m } port 0 (mirrorVec reg)
      exact ⟨m, s.saf, n, o, hmsix, rfl⟩
    · exact ⟨s.mem, _, s.funcs, s.sent, rfl, rfl⟩
  · exact ⟨s.mem, s.saf, s.funcs, s.sent, rfl, rfl⟩

/-- The record as it is stored: what R485 takes from the module filled in. -/
def State.filled (s : State) (r : FRec) : FRec :=
  let beat := decide (r.ward < 8) && (s.ward r.ward).hasBeat
  { r with
    seq := s.saf.seqNext, stamp := s.stamp r.ward, tsrc := !beat, cycle := if beat then Config.freeW32 s.fresh else 0,
    logical := s.linkAddr, tick := s.tick, temp := BitVec.ofInt 16 (Tab.getD (-32768) s.pwr.temps r.die),
    vin := BitVec.ofNat 16 s.pwr.vin, vcore := Config.freeW16 s.fresh,
    jseq := if (s.saf.fallback || s.saf.ringAlways) && r.jseq = 0 then s.jrnNext else r.jseq }

/-- The state with the record stored and its compact form held, and the pulses that announce it sent. -/
def State.stored (s : State) (e : FRec) : State :=
  let s : State := { s with
    fresh := s.fresh + 1, faults := s.faults.set ((e.seq - 1) % faultRing) e,
    saf := Saf.trim { s.saf with seqNext := e.seq + 1, unacked := s.saf.unacked ++ [{ seq := e.seq, bytes := e.compact : Compact }] } }
  let s := if s.saf.recEvents then s.emit (.i3cIbi e.seq) else s
  if (e.cls = 0x10 ∨ e.cls = 0x11) ∧ s.saf.da ≠ 0 then s.emit (.pldmEvent e.seq) else s

/-- The note of a record on the host's rings: in the journal and in both mirrors. -/
def State.noted (s : State) (e : FRec) : State :=
  let s := s.jrnAdd { port := 3, func := 0, ring := 0xFF, ward := e.ward, opc := 0xFF, status := e.status,
                      st := 1, tag := BitVec.ofNat 64 e.seq, digest := digest16 e.bytes, beat := s.stamp e.ward }
  let s := { s with saf := { s.saf with notes := incSat s.saf.notes } }
  (s.mirrorTo 0 s.saf.mirrorAEn s.saf.mirrorA e).mirrorTo 1
    (s.mirrorTo 0 s.saf.mirrorAEn s.saf.mirrorA e).saf.mirrorBEn (s.mirrorTo 0 s.saf.mirrorAEn s.saf.mirrorA e).saf.mirrorB e

theorem State.report_eq (s : State) (r : FRec) : s.report r =
    if s.saf.fallback || s.saf.ringAlways then (s.stored (s.filled r)).noted (s.filled r) else s.stored (s.filled r) := rfl

theorem Saf.trim_seqNext (f : Saf) : f.trim.seqNext = f.seqNext := by
  unfold Saf.trim
  extract_lets
  split <;> rfl

theorem State.stored_spec (s : State) (e : FRec) : ∃ f o, s.stored e =
      { s with fresh := s.fresh + 1, faults := s.faults.set ((e.seq - 1) % faultRing) e, saf := f, sent := o } ∧
    f.seqNext = e.seq + 1 := by
  unfold State.stored
  extract_lets f0 s1 s2
  have h2 : ∃ o, s2 = { s1 with sent := o } := by
    unfold s2
    split <;> exact ⟨_, rfl⟩
  obtain ⟨o, h2⟩ := h2
  rw [h2]
  split <;> exact ⟨_, _, rfl, Saf.trim_seqNext _⟩

theorem State.noted_spec (s : State) (e : FRec) : ∃ m f n o j k, s.noted e =
      { s with mem := m, saf := f, funcs := n, sent := o, journal := j, jrnNext := k } ∧ f.seqNext = s.saf.seqNext := by
  unfold State.noted
  extract_lets s1 f0 s2
  obtain ⟨m, f, n, o, h, hf⟩ := State.mirrorTo_spec s2 0 s2.saf.mirrorAEn s2.saf.mirrorA e
  rw [h]
  obtain ⟨m', f', n', o', h', hf'⟩ :=
    State.mirrorTo_spec { s2 with mem := m, saf := f, funcs := n, sent := o } 1 f.mirrorBEn f.mirrorB e
  exact ⟨m', f', n', o', _, _, h', hf'.trans hf⟩

/-- What a report does, said once. -/
theorem State.report_reports (s : State) (r : FRec) : Reports s (s.report r) r := by
  have heq := State.report_eq s r
  obtain ⟨f, o, hstored, hseq⟩ := State.stored_spec s (s.filled r)
  have hget (e : FRec) : (s.faults.set ((s.saf.seqNext - 1) % faultRing) e).get ((s.saf.seqNext - 1) % faultRing) = e :=
    Tab.get_set_same _ _ _
  have hother (k : Nat) (hk : k ≠ (s.saf.seqNext - 1) % faultRing) (e : FRec) :
      (s.faults.set ((s.saf.seqNext - 1) % faultRing) e).get k = s.faults.get k := Tab.get_set_other _ _ _ _ hk
  by_cases hn : (s.saf.fallback || s.saf.ringAlways) = true
  · obtain ⟨m', f', n', o', j', k', hnoted, hseq'⟩ := State.noted_spec (s.stored (s.filled r)) (s.filled r)
    rw [if_pos hn, hnoted, hstored] at heq
    rw [hstored] at hseq'
    rw [heq]
    refine ⟨rfl, hseq'.trans hseq, ?_, fun k hk => hother k hk _, fun hf hr => by simp [hf, hr] at hn⟩
    dsimp only
    rw [show (s.filled r).seq = s.saf.seqNext from rfl, hget]
    simp [State.filled]
  · rw [if_neg hn, hstored] at heq
    rw [heq]
    refine ⟨rfl, hseq, ?_, fun k hk => hother k hk _, fun _ _ => ⟨rfl, rfl, rfl, rfl⟩⟩
    dsimp only
    rw [show (s.filled r).seq = s.saf.seqNext from rfl, hget]
    simp [State.filled]

theorem State.report_still (s : State) (r : FRec) : (s.report r).still = s.still := by
  have h := congrArg State.still (State.report_reports s r).1
  exact h

/-! ### Completions -/

theorem State.cqWrite_still (s : State) (k : Nat) (c : Cpl) : (s.cqWrite k c).still = s.still := by
  unfold State.cqWrite
  extract_lets
  split
  · rename_i t heq
    obtain ⟨m, rfl⟩ := State.hostWrite_spec s t _ _ _ _ heq
    exact State.msix_still _ _ _ _
  · exact State.msix_still _ _ _ _

theorem State.post_still (s : State) (k : Nat) (c : Cpl) : (s.post k c).still = s.still := by
  unfold State.post
  extract_lets
  split
  · rfl
  · split
    · exact State.cqWrite_still s k _
    · split <;> rfl

theorem State.complete_still (s : State) (j : Nat) (st : St) (d : W32) : (s.complete j st d).still = s.still := by
  unfold State.complete
  split
  · rfl
  · extract_lets
    split
    · exact (State.ctl_still _ _ _).trans (State.jrnDone_still _ _ _ _ _)
    · exact (State.post_still _ _ _).trans (State.jrnDone_still _ _ _ _ _)

end Sys2Proof.Machine
end

section
/-! What a command of a ring leaves alone before it acts, and how a ward is placed (R412, R413). -/

namespace Sys2Proof.Machine
open Sys2Proof

theorem State.wards_of_still {s t : State} (h : t.still = s.still) : t.wards = s.wards := by
  have h := congrArg State.wards h
  exact h

@[simp] theorem State.complete_wards (s : State) (j : Nat) (st : St) (d : W32) : (s.complete j st d).wards = s.wards :=
  State.wards_of_still (State.complete_still s j st d)

@[simp] theorem State.complete_ward (s : State) (j : Nat) (st : St) (d : W32) (w : Nat) :
    (s.complete j st d).ward w = s.ward w := congrArg (·.get w) (State.complete_wards s j st d)

@[simp] theorem State.report_wards (s : State) (r : FRec) : (s.report r).wards = s.wards :=
  State.wards_of_still (State.report_still s r)

@[simp] theorem State.taken_still (s : State) (x : Src) (op : HostOp) : (s.taken x op).still = s.still := rfl

@[simp] theorem State.taken_ward (s : State) (x : Src) (op : HostOp) (w : Nat) : (s.taken x op).ward w = s.ward w := rfl

theorem State.settle_of_good (s : State) (w : Nat) (h : (s.ward w).structBad = false) : s.settle w = s := by
  simp [State.settle, h]

/-- No error of its ward's tables is pending where a command is taken. -/
theorem State.takesHere_good {s : State} {x : Src} {op : HostOp} (h : s.takesHere x op = true) :
    (s.ward (s.cmdWard x op)).structBad = false := by
  simp only [State.takesHere, Bool.and_eq_true, Bool.not_eq_true'] at h
  exact h.2

theorem State.ctxOf_w {s : State} {x : Src} {op : HostOp} (h : op.wardScope = true) : (s.ctxOf x op).w = s.cmdWard x op := by
  simp [State.ctxOf, h]

/-- A taken command has exactly its effect, where that meets no error of its ward's tables. -/
theorem State.command_effect (s : State) (x : Src) (op : HostOp) (f : OpCtx → State → State) (h : s.takesHere x op = true)
    (hgood : ((f (s.ctxOf x op) (s.taken x op)).ward (s.cmdWard x op)).structBad = false) :
    s.command x op f = f (s.ctxOf x op) (s.taken x op) := by
  rw [State.command_takes s x op f h, State.settle_of_good _ _ hgood]

/-- An update of one ward that leaves the rest of the state alone. -/
theorem OnlyWard.modWard (s : State) (w : Nat) (f : Ward → Ward) (y : Ward) (h : f (s.ward w) = y) :
    OnlyWard s (s.modWard w f) w y :=
  h ▸ State.modWard_only s w f

/-! ### Placement -/

theorem getLsbD_foldl_dies (ds : List Nat) (m : Byte) (n : Nat) (hn : n < 8) :
    (ds.foldl (fun m k => m ||| (1#8 <<< k)) m).getLsbD n = (m.getLsbD n || decide (n ∈ ds)) := by
  induction ds generalizing m with
  | nil => simp
  | cons k ds ih =>
    rw [List.foldl_cons, ih]
    have hbit : (1#8 <<< k).getLsbD n = decide (n = k) := by
      simp only [BitVec.getLsbD_shiftLeft, BitVec.getLsbD_one, hn, decide_true, Bool.true_and]
      by_cases h : n = k
      · simp [h]
      · have : n < k ∨ n - k ≠ 0 := by omega
        rcases this with h1 | h1 <;> simp [h, h1]
    simp only [BitVec.getLsbD_or, hbit, List.mem_cons, Bool.decide_or, Bool.or_assoc]

/-- A ward whose dies are the mask of a list holds the dies of the list. -/
theorem Ward.holds_dieMask (y : Ward) (ds : List Nat) (n : Nat) (h : y.dies = dieMask ds) :
    y.holds n = decide (n < 8 ∧ n ∈ ds) := by
  unfold Ward.holds
  by_cases hn : n < 8
  · rw [h, dieMask, getLsbD_foldl_dies ds 0 n hn]; simp [hn]
  · simp [hn]

/-- The ward as a placement leaves it (R412). -/
def Ward.placed (y : Ward) (ds : List Nat) (e : OpenEnable) (slot : Nat) : Ward :=
  { y with st := .idle, dies := dieMask ds, port := e.port, vf := e.vf, keySlot := slot, enable := none, num := 0,
           acct := [], acctTile := 0, acctChain := 0, acctEnergy := 0, flrs := 0, flrDev := 0, flrDma := 0,
           flrDrained := 0, disables := [], resetJseq := none }

/-- A free slot becomes the ward's, with a fresh key (R445). -/
def State.takeSlot (s : State) (w slot : Nat) : State :=
  { s with keyNext := s.keyNext + 1 }.modSlot slot fun x => { x with st := .ward, ward := w, members := [], key := s.keyNext }

/-- The state once the ward is placed, before its enable completes. -/
def State.placedWard (s : State) (w : Nat) (e : OpenEnable) (slot : Nat) : State :=
  (s.takeSlot w slot).modWard w fun y => y.placed (s.freeDies.take e.dies) e slot

theorem State.placeWard_eq (s : State) (w : Nat) (e : OpenEnable) (slot : Nat) :
    s.placeWard w e slot = (s.placedWard w e slot).complete e.jseq .ok := rfl

section
variable (s : State) (w : Nat) (e : OpenEnable) (slot : Nat)

theorem State.placedWard_ward_same :
    (s.placedWard w e slot).ward w = (s.ward w).placed (s.freeDies.take e.dies) e slot := State.modWard_ward_same _ w _

theorem State.placedWard_ward_other (v : Nat) (h : v ≠ w) : (s.placedWard w e slot).ward v = s.ward v :=
  State.modWard_ward_other _ w _ v h

theorem State.placedWard_slot_same : (s.placedWard w e slot).slot slot =
    { s.slot slot with st := .ward, ward := w, members := [], key := s.keyNext } := by
  unfold State.placedWard State.takeSlot
  rw [State.modWard_slot, State.modSlot_slot_same]
  rfl

theorem State.placedWard_slot_other (k : Nat) (h : k ≠ slot) : (s.placedWard w e slot).slot k = s.slot k := by
  unfold State.placedWard State.takeSlot
  rw [State.modWard_slot, State.modSlot_slot_other _ _ _ k h]
  rfl

end

/-- An enable that fits, with no other ward waiting, places the ward. -/
theorem State.tryEnable_fits (s : State) (w : Nat) (e : OpenEnable) (k : Nat) (hslot : s.freeSlot = some k)
    (hdies : e.dies ≤ s.freeDies.length) : s.tryEnable w e false = s.placeWard w e k := by
  simp [State.tryEnable, State.fits, hslot, hdies]

/-- An enable that does not fit, or comes while another waits, waits where it may. -/
theorem State.tryEnable_waits (s : State) (w : Nat) (e : OpenEnable) (b : Bool) (hwait : e.wait = true)
    (h : s.freeSlot = none ∨ s.freeDies.length < e.dies ∨ b = true) :
    s.tryEnable w e b = s.modWard w fun x => { x with st := .placing, port := e.port, vf := e.vf, enable := some e } := by
  unfold State.tryEnable
  split
  · rename_i k hk
    have hno : (s.fits e && !b) = false := by
      rcases h with h | h | h
      · simp [hk] at h
      · simp [State.fits, Nat.not_le.mpr h]
      · simp [h]
    simp [hno, hwait]
  · simp [hwait]

/-- The same without WAIT: it is refused, and the detail tells where no slot is free. -/
theorem State.tryEnable_refuses (s : State) (w : Nat) (e : OpenEnable) (b : Bool) (hwait : e.wait = false)
    (h : s.freeSlot = none ∨ s.freeDies.length < e.dies ∨ b = true) :
    s.tryEnable w e b = s.complete e.jseq .protection (if s.freeSlot = none then 2 else 0) := by
  unfold State.tryEnable
  split
  · rename_i k hk
    have hno : (s.fits e && !b) = false := by
      rcases h with h | h | h
      · simp [hk] at h
      · simp [State.fits, Nat.not_le.mpr h]
      · simp [h]
    simp [hno, hwait, hk]
  · rename_i hk
    simp [hwait, hk]

/-! ### WARD_ENABLE (R413): one equation per answer -/

section
variable (s : State) (x : OpCtx) (dies port vf : Nat)

theorem State.doWardEnable_badCount (h : dies ∉ [1, 2, 4, 8]) :
    s.doWardEnable x dies port vf = s.complete x.jseq .protection := by
  simp [State.doWardEnable, h]

theorem State.doWardEnable_absent (h : dies ∈ [1, 2, 4, 8]) (hl : s.dies.length < dies) :
    s.doWardEnable x dies port vf = s.complete x.jseq .absent := by
  simp only [State.doWardEnable, List.contains_iff_mem.mpr h, hl, Bool.not_true, Bool.false_eq_true, if_false, if_true]

/-- The die count is one that the module can give. -/
def State.countOk (s : State) (dies : Nat) : Prop := dies ∈ [1, 2, 4, 8] ∧ dies ≤ s.dies.length

variable (hcount : s.countOk dies)
include hcount

theorem State.doWardEnable_badFunction (h : 1 < port ∨ vf = 0 ∨ 8 < vf) :
    s.doWardEnable x dies port vf = s.complete x.jseq .protection := by
  simp only [State.doWardEnable, List.contains_iff_mem.mpr hcount.1, Nat.not_lt.mpr hcount.2, Bool.not_true, Bool.false_eq_true,
    if_false, if_true, h]

variable (hfunc : ¬(1 < port ∨ vf = 0 ∨ 8 < vf))
include hfunc

theorem State.doWardEnable_again (h : (s.ward x.w).st = .enablePending) : s.doWardEnable x dies port vf =
    (s.modWard x.w fun y => { y with busySd := incSat y.busySd }).complete x.jseq .busyShutdown := by
  simp only [State.doWardEnable, List.contains_iff_mem.mpr hcount.1, Nat.not_lt.mpr hcount.2, Bool.not_true, Bool.false_eq_true,
    if_false, if_true, hfunc, h]

theorem State.doWardEnable_vfTaken (h : (s.ward x.w).st ≠ .enablePending) (hv : s.vfTaken x.w port vf = true) :
    s.doWardEnable x dies port vf = s.complete x.jseq .protection := by
  simp only [State.doWardEnable, List.contains_iff_mem.mpr hcount.1, Nat.not_lt.mpr hcount.2, Bool.not_true, Bool.false_eq_true,
    if_false, if_true, hfunc, h, hv]

variable (hv : s.vfTaken x.w port vf = false)
include hv

theorem State.doWardEnable_inUse
    (h : (s.ward x.w).st = .idle ∨ (s.ward x.w).st = .running ∨ (s.ward x.w).st = .placing ∨ (s.ward x.w).st = .resetting) :
    s.doWardEnable x dies port vf = s.complete x.jseq .protection := by
  rcases h with h | h | h | h <;>
    simp only [State.doWardEnable, List.contains_iff_mem.mpr hcount.1, Nat.not_lt.mpr hcount.2, Bool.not_true, Bool.false_eq_true,
    if_false, hfunc, h, hv, reduceCtorEq]

theorem State.doWardEnable_shutting (h : (s.ward x.w).st = .shutting) : s.doWardEnable x dies port vf =
    s.modWard x.w fun y => { y with st := .enablePending, enable := some ⟨dies, port, vf, x.wait, x.jseq⟩ } := by
  simp only [State.doWardEnable, List.contains_iff_mem.mpr hcount.1, Nat.not_lt.mpr hcount.2, Bool.not_true, Bool.false_eq_true,
    if_false, hfunc, h, hv, reduceCtorEq]

theorem State.doWardEnable_disabled (h : (s.ward x.w).st = .disabled) :
    s.doWardEnable x dies port vf = s.tryEnable x.w ⟨dies, port, vf, x.wait, x.jseq⟩ s.someonePlacing := by
  simp only [State.doWardEnable, List.contains_iff_mem.mpr hcount.1, Nat.not_lt.mpr hcount.2, Bool.not_true, Bool.false_eq_true,
    if_false, hfunc, h, hv, reduceCtorEq]

end

/-- Settles O25: the branches of WARD_ENABLE's meaning, each with the condition that leads to it. The order of the refusals is
the model's choice (log entry 95). -/
theorem wardEnablePlacesTheWard : Obligations.WardEnablePlacesTheWard := by
  intro s a src dies port vf x c hc hhere ha hx
  have hw : x.w = s.cmdWard src (.wardEnable dies port vf) := by rw [hx]; exact State.ctxOf_w rfl
  have hgood : (s.ward x.w).structBad = false := hw ▸ State.takesHere_good hhere
  have hrun (t : State) (ht : a.doWardEnable x dies port vf = t) (hb : (t.ward x.w).structBad = false) : exec c s = .next t := by
    have := State.command_effect s src _ (fun x s => s.doWardEnable x dies port vf) hhere
      (by rw [← hx, ← ha, ht, ← hw]; exact hb)
    rw [← hx, ← ha, ht] at this
    rw [hc]
    exact congrArg Host.Outcome.next this
  have hward (v : Nat) : a.ward v = s.ward v := by rw [ha]; rfl
  have hdies : a.dies = s.dies := by rw [ha]; rfl
  have hvf : a.vfTaken x.w port vf = s.vfTaken x.w port vf := by rw [ha]; rfl
  have hplacing : a.someonePlacing = s.someonePlacing := by rw [ha]; rfl
  have hslot : a.freeSlot = s.freeSlot := by rw [ha]; rfl
  have hfree : a.freeDies = s.freeDies := by rw [ha]; rfl
  have hslots (j : Nat) : a.slot j = s.slot j := by rw [ha]; rfl
  have hkey : a.keyNext = s.keyNext := by rw [ha]; rfl
  clear ha hx
  have hrefuse (st : St) (d : W32) (ht : a.doWardEnable x dies port vf = a.complete x.jseq st d) :
      exec c s = .next (a.complete x.jseq st d) := hrun _ ht (by simpa [hward] using hgood)
  rw [← hvf, ← hplacing, ← hslot, ← hfree, ← hdies]
  simp only [← hward, ← hslots, ← hkey] at hgood ⊢
  refine ⟨fun hn => hrefuse _ _ (a.doWardEnable_badCount x dies port vf hn),
    fun hn hl => hrefuse _ _ (a.doWardEnable_absent x dies port vf hn hl), fun hn hl => ?_⟩
  have hcount : a.countOk dies := ⟨hn, hl⟩
  refine ⟨fun hp => hrefuse _ _ (a.doWardEnable_badFunction x dies port vf hcount hp), fun hp hv1 hv8 => ?_⟩
  have hfunc : ¬(1 < port ∨ vf = 0 ∨ 8 < vf) := by omega
  refine ⟨fun hst => ?_, fun hst hv => hrefuse _ _ (a.doWardEnable_vfTaken x dies port vf hcount hfunc hst hv), fun hv => ⟨fun hst =>
    hrefuse _ _ (a.doWardEnable_inUse x dies port vf hcount hfunc hv hst), fun hst => ?_, fun hst => ⟨fun k hno hk hfit => ?_, fun hwhy =>
      ⟨fun hwait => ?_, fun hwait => hrefuse _ _ ?_⟩⟩⟩⟩
  · exact ⟨_, hrun _ (a.doWardEnable_again x dies port vf hcount hfunc hst) (by simpa using hgood), _, rfl, OnlyWard.modWard _ _ _ _ rfl⟩
  · exact ⟨_, hrun _ (a.doWardEnable_shutting x dies port vf hcount hfunc hv hst) (by simpa using hgood), OnlyWard.modWard _ _ _ _ rfl⟩
  · have hplaced : a.doWardEnable x dies port vf = (a.placedWard x.w ⟨dies, port, vf, x.wait, x.jseq⟩ k).complete x.jseq .ok := by
      rw [a.doWardEnable_disabled x dies port vf hcount hfunc hv hst, hno, State.tryEnable_fits _ _ _ k hk hfit]
      rfl
    have hsame := a.placedWard_ward_same x.w ⟨dies, port, vf, x.wait, x.jseq⟩ k
    refine ⟨_, hrun _ hplaced ?_, a.placedWard x.w ⟨dies, port, vf, x.wait, x.jseq⟩ k, (a.ward x.w).placed (a.freeDies.take dies)
      ⟨dies, port, vf, x.wait, x.jseq⟩ k, rfl, rfl, hsame, rfl, fun n => Ward.holds_dieMask _ _ n rfl, rfl, rfl, rfl, rfl, rfl,
      fun v hne => a.placedWard_ward_other x.w _ k v hne, a.placedWard_slot_same x.w _ k, fun j hne => a.placedWard_slot_other x.w _ k j hne⟩
    rw [State.complete_ward, hsame]
    exact hgood
  · have hopen := a.doWardEnable_disabled x dies port vf hcount hfunc hv hst
    rw [hwait, State.tryEnable_waits a x.w ⟨dies, port, vf, true, x.jseq⟩ _ rfl hwhy] at hopen
    exact ⟨_, hrun _ hopen (by simpa using hgood), OnlyWard.modWard _ _ _ _ rfl⟩
  · rw [a.doWardEnable_disabled x dies port vf hcount hfunc hv hst]
    exact State.tryEnable_refuses a x.w ⟨dies, port, vf, x.wait, x.jseq⟩ _ hwait hwhy

end Sys2Proof.Machine
end

section
/-! What a write to the stacks and to a ward's tables leaves alone. -/

namespace Sys2Proof.Machine
open Sys2Proof

/-- The state apart from the message units and the stacks' tags, lists and counters. -/
def State.offStack (s : State) : State := { s.still with secTags := [], hbms := [], sec := {} }

theorem State.report_offStack (s : State) (r : FRec) : (s.report r).offStack = s.offStack :=
  congrArg (fun t : State => { t with secTags := [], hbms := [], sec := {} }) (State.report_still s r)

theorem State.readTag_offStack (s : State) (sec key ward ctx : Nat) (uncorr : Bool) :
    (s.readTag sec key ward ctx uncorr).1.offStack = s.offStack := by
  unfold State.readTag
  extract_lets tag s1 s2 s3 s4
  split
  · exact State.report_offStack _ _
  · split
    · rfl
    · split
      · split <;> rfl
      · exact State.report_offStack _ _

theorem State.writeSec_offStack (s : State) (key pa : Nat) (bs : List Byte) (ward ctx : Nat) :
    (s.writeSec key pa bs ward ctx).offStack = s.offStack := by
  have hread := State.readTag_offStack s (pa / 256) key ward ctx false
  unfold State.writeSec
  extract_lets sec
  split
  · rfl
  · split
    rename_i t r heq
    rw [heq] at hread
    split <;> exact hread

/-- A branch keeps what both of its sides keep. -/
theorem ite_fixes {σ β : Type} (g : σ → β) {p : Prop} [Decidable p] {a b : σ} {x : β} (ha : p → g a = x) (hb : ¬p → g b = x) :
    g (if p then a else b) = x := by
  split
  · exact ha ‹_›
  · exact hb ‹_›

/-- What the tables of ward `w` do not hold: the tiles, the other wards, and the ward itself without them. -/
def State.offTables (w : Nat) (s : State) : Tab Tile × (Nat → Ward) × Ward :=
  (s.tiles, fun v => if v = w then {} else s.ward v, { s.ward w with registry := [], blocks := [], structBad := false })

theorem State.offTables_of_offStack {w : Nat} {s t : State} (h : t.offStack = s.offStack) : t.offTables w = s.offTables w :=
  congrArg (State.offTables w) (a₁ := t.offStack) (a₂ := s.offStack) h

/-- An update of the ward's tables. -/
theorem State.modWard_offTables (s : State) (w : Nat) (f : Ward → Ward)
    (hf : { f (s.ward w) with registry := [], blocks := [], structBad := false } =
      { s.ward w with registry := [], blocks := [], structBad := false }) :
    (s.modWard w f).offTables w = s.offTables w := by
  have hother : (fun v => if v = w then ({} : Ward) else (s.modWard w f).ward v) = fun v => if v = w then {} else s.ward v := by
    funext v
    split
    · rfl
    · exact State.modWard_ward_other s w f v ‹_›
  unfold State.offTables
  rw [hother, State.modWard_ward_same, hf]
  rfl

theorem State.wrStruct_offTables (s : State) (w va : Nat) (bs : List Byte) : (s.wrStruct w va bs).offTables w = s.offTables w := by
  refine foldl_fixes (State.offTables w) _ (fun t e => ?_) _ s
  dsimp only
  split
  · rfl
  · rename_i l _
    have hsec := State.offTables_of_offStack (w := w)
      (State.writeSec_offStack t (t.slot l.kslot).key l.pa ((bs.drop (e.1 - va)).take e.2) w 0)
    exact ite_fixes _ (fun _ => ite_fixes _ (fun _ => (State.modWard_offTables _ w _ rfl).trans hsec) fun _ => hsec) fun _ => rfl

theorem State.setReg_offTables (s : State) (w c : Nat) (f : RegEnt → RegEnt) : (s.setReg w c f).offTables w = s.offTables w :=
  (State.wrStruct_offTables _ w _ _).trans (State.modWard_offTables s w _ rfl)

theorem State.setBlk_offTables (s : State) (w b : Nat) (f : Blk → Blk) : (s.setBlk w b f).offTables w = s.offTables w :=
  (State.wrStruct_offTables _ w _ _).trans (State.modWard_offTables s w _ rfl)

theorem State.writeTables_offTables (s : State) (w : Nat) : (s.writeTables w).offTables w = s.offTables w := by
  unfold State.writeTables
  extract_lets x zero s1 s2
  have hzero (t : State) (base n : Nat) : (zero t base n).offTables w = t.offTables w := by
    unfold zero
    split
    · rfl
    · exact State.wrStruct_offTables t w base _
  have h1 : s1.offTables w = s.offTables w := by
    unfold s1
    rw [hzero, hzero, hzero]
  have h2 : s2.offTables w = s1.offTables w := by
    refine forEach_fixes (State.offTables w) _ (fun t e => ?_) _ s1
    exact State.setReg_offTables t w e.1 id
  have h3 : (forEach x.blocks s2 fun s e => s.setBlk w e.1 id).offTables w = s2.offTables w := by
    refine forEach_fixes (State.offTables w) _ (fun t e => ?_) _ s2
    exact State.setBlk_offTables t w e.1 id
  exact h3.trans (h2.trans h1)

end Sys2Proof.Machine
end

section
/-! How a job starts and ends (R417, R418). -/

namespace Sys2Proof.Machine
open Sys2Proof

/-! ### The tiles that a job start loads -/

/-- The tile stands at the entry of its program, with everything cleared that a job start clears (R118). -/
def Tile.Loaded (q : TileProg) (z : Tile) : Prop :=
  z.pc = q.entry ∧ z.entry = q.entry ∧ z.codeEnd = q.codeEnd ∧ (∀ n, z.areg n = 0 ∧ z.kreg n = 0) ∧ z.flags = 0 ∧ z.loops = [] ∧
  z.fault = {} ∧ (∀ l, genOf z.gens l = 1) ∧ z.st = if q.codeEnd = 0 then .idle else .running

theorem Tile.loaded_load (t : Tile) (q : TileProg) : (t.load q).Loaded q :=
  ⟨rfl, rfl, rfl, fun n => ⟨by unfold Tile.areg; split <;> rfl, rfl⟩, rfl, rfl, rfl, fun _ => rfl, rfl⟩

/-- Loading a program's words writes memory, and forgets what was wrong with the old words of that tile. -/
theorem State.loadStore_tiles (s : State) (i : Nat) (p : TileProg) :
    (s.loadStore i p).tiles = (s.modTile i fun t => { t with badCode := [] }).tiles := by
  refine foldl_fixes State.tiles _ (fun t e => ?_) p.words _
  exact ite_fixes State.tiles (fun _ => rfl) fun _ => rfl

theorem State.loadTile_tile_same (s : State) (i : Nat) (p : TileProg) : ((s.loadTile i p).tile i).Loaded p := by
  unfold State.loadTile
  rw [State.modTile_tile_same]
  exact Tile.loaded_load _ p

theorem State.loadTile_tile_other (s : State) (i j : Nat) (p : TileProg) (h : j ≠ i) : (s.loadTile i p).tile j = s.tile j := by
  unfold State.loadTile
  rw [State.modTile_tile_other _ _ _ _ h]
  exact (congrArg (Tab.get · j) (State.loadStore_tiles s i p)).trans (State.modTile_tile_other _ _ _ _ h)

theorem State.loadTile_wards (s : State) (i : Nat) (p : TileProg) : (s.loadTile i p).wards = s.wards := by
  refine foldl_fixes State.wards _ (fun t e => ?_) p.words _
  exact ite_fixes State.wards (fun _ => rfl) fun _ => rfl

/-- Where the programs go to different tiles, each tile named holds its own. -/
theorem State.loadTiles_loaded (at' : TileProg → Nat) (ps : List TileProg) (s : State) (hn : (ps.map at').Nodup) :
    (∀ q ∈ ps, ((forEach ps s fun s t => s.loadTile (at' t) t).tile (at' q)).Loaded q) ∧
    ∀ j, j ∉ ps.map at' → (forEach ps s fun s t => s.loadTile (at' t) t).tile j = s.tile j := by
  induction ps generalizing s with
  | nil => exact ⟨by simp, fun _ _ => rfl⟩
  | cons p ps ih =>
    rw [List.map_cons, List.nodup_cons] at hn
    obtain ⟨hloaded, hother⟩ := ih (s.loadTile (at' p) p) hn.2
    refine ⟨fun q hq => ?_, fun j hj => ?_⟩
    · rcases List.mem_cons.mp hq with rfl | hq
      · have := hother (at' q) hn.1
        unfold forEach at this ⊢
        rw [List.foldl_cons, this]
        exact State.loadTile_tile_same s (at' q) q
      · exact hloaded q hq
    · rw [List.map_cons, List.mem_cons, not_or] at hj
      exact (hother j hj.2).trans (State.loadTile_tile_other s (at' p) j p hj.1)

/-- Marking the spares changes nothing that a load sets. -/
theorem State.spares_loaded (i : Nat) (q : TileProg) (at' : Nat × Nat → Nat) (l : List (Nat × Nat)) (s : State)
    (h : (s.tile i).Loaded q) : ((forEach l s fun s t => s.modTile (at' t) fun t => { t with spare := true }).tile i).Loaded q := by
  refine forEach_keeps (fun s => (s.tile i).Loaded q) l _ (fun s t hs => ?_) s h
  by_cases hi : i = at' t
  · subst hi
    rw [State.modTile_tile_same]
    exact hs
  · rwa [State.modTile_tile_other _ _ _ _ hi]

/-- Clearing for a job changes no other ward. -/
theorem State.clearForJob_ward_other (s : State) (w v : Nat) (h : v ≠ w) : (s.clearForJob w).ward v = s.ward v := by
  unfold State.clearForJob
  extract_lets y s1 s2 s3 s4 s5
  have h1 : s1.wards = s.wards := by
    refine forEach_fixes State.wards _ (fun t i => ?_) _ s
    exact ite_fixes State.wards (fun _ => rfl) fun _ => rfl
  have h2 : s2.wards = s1.wards := by
    refine forEach_fixes State.wards _ (fun t i => ?_) _ s1
    rfl
  have h3 : s3.wards = s2.wards := by
    refine forEach_fixes State.wards _ (fun t i => ?_) _ s2
    rfl
  have h4 : s4.wards = s3.wards := by
    refine forEach_fixes State.wards _ (fun t i => ?_) _ s3
    rfl
  rw [State.modWard_ward_other _ _ _ _ h]
  exact congrArg (Tab.get · v) (h4.trans (h3.trans (h2.trans h1)))

/-! ### JOB_START (R417): one equation per answer -/

/-- The state with the registers cleared, the programs loaded and the spares marked; tiles are those of ward `y`. -/
def State.loadJob (s : State) (w : Nat) (y : Ward) (p : JobProg) : State :=
  forEach p.spares (forEach p.tiles (s.clearForJob w) fun s t => s.loadTile (y.progTile t.rdie t.tile) t)
    fun s t => s.modTile (y.progTile t.1 t.2) fun t => { t with spare := true }

/-- The job as it is when it starts, but for its spares. -/
def startedJob (x : OpCtx) (program : Addr) (len : Nat) (p : JobProg) (sch : List PfEnt) (sl : Tab (List SliceEnt)) : Job :=
  { prog := p, program := program, len := len, jseq := x.jseq, ring := x.ring, tag := x.tag, schedule := sch, slices := sl }

/-- The job with every spare that its program names free on ward `z`. -/
def Job.withSpares (j : Job) (z : Ward) : Job := { j with sparesFree := j.prog.spares.map fun t => z.progTile t.1 t.2 }

/-- The ward once job `j` with code digest `dig` runs on it, on the module at `link`. -/
def Ward.started (z : Ward) (link : Nat) (j : Job) (dig : BitVec 256) : Ward :=
  { ((z.setProg j.program.toNat j.len true).declareLayers j.prog) with
      st := .running, jobDigest := dig, multi := j.prog.multi, masterId := if j.prog.multi then j.prog.modules.foldl min link else link,
      master := !j.prog.multi || j.prog.modules.foldl min link == link, mb := { modules := j.prog.modules },
      rslots := (j.prog.rslots.zipIdx).foldl (fun t (r, k) => t.set k r) [], job := some (j.withSpares z) }

/-- The state once the job runs. -/
def State.startJob (s : State) (w : Nat) (y : Ward) (j : Job) (dig : BitVec 256) : State :=
  ((s.loadJob w y j.prog).modWard w fun z => z.started (s.loadJob w y j.prog).linkAddr j dig).writeTables w

/-- The state with MIN as the program asks for it (R182). -/
def State.asked (s : State) (w : Nat) (p : JobProg) : State := s.modWard w fun y => { y with closeMin := s.closeMin p }

/-- A refused program's failing tiles record their first failing word (R126). -/
def State.badJob (s : State) (w : Nat) (y : Ward) (p : JobProg) (e : St) : State :=
  if e = .absent ∨ p.dies ≠ y.dieList.length then s else forEach p.badTiles s fun s (t, k, c) =>
    let i := y.progTile t.rdie t.tile
    let f : SeqFault := { valid := true, cause := c, pc := k }
    (s.modTile i fun t => { t with fault := f, faultBeat := 0 }).report
      { cls := 2, scope := 4, status := St.protection.code, ward := w, unit := 0, die := i / 64, idx := i % 64, src := 3, cause := c,
        op := BitVec.ofNat 32 ((t.word k).toNat / 2 ^ 32), detail := f.word.setWidth 128 }

theorem State.badJob_wards (s : State) (w : Nat) (y : Ward) (p : JobProg) (e : St) : (s.badJob w y p e).wards = s.wards :=
  ite_fixes State.wards (fun _ => rfl) fun _ => forEach_fixes State.wards _ (fun t _ => State.report_wards (t.modTile _ _) _) _ s

section
variable (s : State) (x : OpCtx) (program : Addr) (len : Nat) (p : JobProg)

theorem State.doJobStart_absent (h : s.updFitted = false) (ht : p.training ≠ []) :
    s.doJobStart x program len p = s.complete x.jseq .absent := by
  simp only [State.doJobStart, h, ht, ne_eq, not_false_eq_true, and_self, if_true]

variable (hfit : ¬(s.updFitted = false ∧ p.training ≠ []))
include hfit

theorem State.doJobStart_placing (h : (s.ward x.w).st = .placing) :
    s.doJobStart x program len p = s.complete x.jseq .protection := by
  unfold State.doJobStart
  extract_lets w y
  rw [if_neg hfit, if_pos h]

theorem State.doJobStart_notIdle (hp : (s.ward x.w).st ≠ .placing) (h : (s.ward x.w).st ≠ .idle) :
    s.doJobStart x program len p = (s.asked x.w p).complete x.jseq .protection := by
  unfold State.doJobStart
  extract_lets w y b
  rw [if_neg hfit, if_neg hp]
  rw [if_pos h]
  rfl

variable (h : (s.ward x.w).st = .idle)
include h

theorem State.doJobStart_bad (e : St) (hc : (s.asked x.w p).jobCheck x.w program.toNat len p = .error e) :
    s.doJobStart x program len p = ((s.asked x.w p).badJob x.w (s.ward x.w) p e).complete x.jseq e := by
  have hp : (s.ward x.w).st ≠ .placing := by rw [h]; decide
  unfold State.doJobStart
  extract_lets w y b
  rw [if_neg hfit, if_neg hp]
  rw [if_neg (not_not.mpr h), show b.jobCheck w program.toNat len p = _ from hc]
  rfl

theorem State.doJobStart_good (sch : List PfEnt) (sl : Tab (List SliceEnt)) (dig : BitVec 256)
    (hc : (s.asked x.w p).jobCheck x.w program.toNat len p = .ok (sch, sl, dig)) :
    s.doJobStart x program len p =
      (s.asked x.w p).startJob x.w (s.ward x.w) (startedJob x program len p sch sl) dig := by
  have hp : (s.ward x.w).st ≠ .placing := by rw [h]; decide
  unfold State.doJobStart
  extract_lets w y b
  rw [if_neg hfit, if_neg hp]
  rw [if_neg (not_not.mpr h), show b.jobCheck w program.toNat len p = _ from hc]
  rfl

end

/-! ### What holds once the job runs -/

theorem State.loadJob_ward_other (s : State) (w v : Nat) (y : Ward) (p : JobProg) (h : v ≠ w) :
    (s.loadJob w y p).ward v = s.ward v := by
  have htiles : (forEach p.tiles (s.clearForJob w) fun s t => s.loadTile (y.progTile t.rdie t.tile) t).wards = (s.clearForJob w).wards := by
    refine forEach_fixes State.wards _ (fun t q => ?_) _ _
    exact State.loadTile_wards _ _ _
  have hspares : (s.loadJob w y p).wards = (forEach p.tiles (s.clearForJob w) fun s t => s.loadTile (y.progTile t.rdie t.tile) t).wards := by
    refine forEach_fixes State.wards _ (fun t q => ?_) _ _
    rfl
  exact (congrArg (Tab.get · v) (hspares.trans htiles)).trans (State.clearForJob_ward_other s w v h)

theorem State.loadJob_loaded (s : State) (w : Nat) (y : Ward) (p : JobProg)
    (hn : (p.tiles.map fun q => y.progTile q.rdie q.tile).Nodup) :
    ∀ q ∈ p.tiles, ((s.loadJob w y p).tile (y.progTile q.rdie q.tile)).Loaded q := fun q hq =>
  State.spares_loaded _ q _ p.spares _
    ((State.loadTiles_loaded (fun q => y.progTile q.rdie q.tile) p.tiles (s.clearForJob w) hn).1 q hq)

section
variable (s : State) (w : Nat) (y : Ward) (j : Job) (dig : BitVec 256)

/-- Writing the tables of the ward keeps what the start set. -/
theorem State.startJob_offTables : (s.startJob w y j dig).offTables w =
    ((s.loadJob w y j.prog).modWard w fun z => z.started (s.loadJob w y j.prog).linkAddr j dig).offTables w :=
  State.writeTables_offTables _ w

theorem State.startJob_tile (i : Nat) : (s.startJob w y j dig).tile i = (s.loadJob w y j.prog).tile i :=
  congrArg (fun e : Tab Tile × (Nat → Ward) × Ward => Tab.get e.1 i) (s.startJob_offTables w y j dig)

theorem State.startJob_ward_other (v : Nat) (h : v ≠ w) : (s.startJob w y j dig).ward v = s.ward v := by
  have htab := congrArg (fun e => e.2.1 v) (s.startJob_offTables w y j dig)
  simp only [State.offTables, if_neg h] at htab
  rw [htab, State.modWard_ward_other _ _ _ _ h, State.loadJob_ward_other s w v y _ h]

theorem State.startJob_ward : ((s.startJob w y j dig).ward w).st = .running ∧ ((s.startJob w y j dig).ward w).job = some (j.withSpares ((s.loadJob w y j.prog).ward w)) ∧
    ((s.startJob w y j dig).ward w).jobDigest = dig := by
  have htab := congrArg (fun e => (e.2.2.st, e.2.2.job, e.2.2.jobDigest)) (s.startJob_offTables w y j dig)
  simp only [State.offTables, State.modWard_ward_same, Ward.started, Prod.mk.injEq] at htab
  exact htab

end

/-! ### JOB_END (R418) -/

theorem State.doJobEnd_none (s : State) (x : OpCtx) (h : (s.ward x.w).job = none) :
    s.doJobEnd x = s.complete x.jseq .protection := by
  simp only [State.doJobEnd, h]

theorem State.doJobEnd_force (s : State) (x : OpCtx) (j : Job) (h : (s.ward x.w).job = some j) (hf : x.force = true) :
    s.doJobEnd x =
      s.modWard x.w fun y => { y with job := y.job.map fun j => { j with forced := true, ends := j.ends ++ [x.jseq] } } := by
  simp only [State.doJobEnd, h, hf, if_true]

/-- Without FORCE and with no sequence queued, the job ends by itself and no training goes on. -/
theorem State.doJobEnd_ending (s : State) (x : OpCtx) (j : Job) (h : (s.ward x.w).job = some j) (hf : x.force = false)
    (hq : ∀ e ∈ (s.ward x.w).live, e.2.st ≠ .queued) :
    s.doJobEnd x = s.modWard x.w fun y =>
      { y with job := y.job.map fun j => { j with ending := true, ends := j.ends ++ [x.jseq] },
               trains := y.trains.map fun t => (t.1, { t.2 with stopping := true }) } := by
  have hnone : (s.ward x.w).live.filter (fun e => e.2.st = .queued) = [] :=
    List.filter_eq_nil_iff.mpr fun e he => by simpa using hq e he
  unfold State.doJobEnd
  extract_lets w t
  rw [show (s.ward w).job = some j from h]
  have hlive : (t.ward w).live = (s.ward x.w).live := by
    unfold t
    rw [State.modWard_ward_same]
    rfl
  simp only [hf, Bool.false_eq_true, if_false, hlive, hnone]
  rfl

/-- Settles O27: a start is refused by its first failing check or loads the program; an end marks the job. That MIN is written
for refused starts too is the model's choice (log entry 97). -/
theorem jobsStartAndEnd : Obligations.JobsStartAndEnd := by
  refine ⟨fun s a b src program len p seen x c hc hhere ha hx hb => ?_, fun s a src x hhere ha hx => ?_⟩
  · have hw : x.w = s.cmdWard src (.jobStart program len p) := by rw [hx]; exact State.ctxOf_w rfl
    have hgood : (s.ward x.w).structBad = false := hw ▸ State.takesHere_good hhere
    have hsettled : exec c s = .next ((a.doJobStart x program len p).settle x.w) := by
      have := State.command_takes s src _ (fun x s => (s.seen seen).doJobStart x program len p) hhere
      rw [← hx, ← ha, ← hw] at this
      rw [hc]
      exact congrArg Host.Outcome.next this
    have hward (v : Nat) : a.ward v = s.ward v := by rw [ha]; rfl
    have hupd : s.updFitted = a.updFitted := by rw [ha]; rfl
    have htag : x.tag = src.tag := by rw [hx]; rfl
    clear ha hx
    have hrun (t : State) (ht : a.doJobStart x program len p = t) (hg : (t.ward x.w).structBad = false) : exec c s = .next t := by
      rw [hsettled, ht, State.settle_of_good _ _ hg]
    have hb : b = a.asked x.w p := hb
    have hbw : b.ward x.w = { s.ward x.w with closeMin := a.closeMin p } := by
      rw [hb, State.asked, State.modWard_ward_same, hward]
    rw [hupd]
    refine ⟨fun hu ht => ?_, fun hfit => ?_⟩
    · exact hrun _ (a.doJobStart_absent x program len p hu ht) (by rw [State.complete_ward, hward]; exact hgood)
    have hfit : ¬(a.updFitted = false ∧ p.training ≠ []) := by
      rcases hfit with h | h <;> simp [h]
    simp only [← hward] at hgood hbw ⊢
    refine ⟨fun hst => ?_, fun hi hp => ?_, fun hst => ⟨fun e he => ?_, fun sch sl dig hok => ?_⟩⟩
    · exact hrun _ (a.doJobStart_placing x program len p hfit hst) (by rw [State.complete_ward]; exact hgood)
    · rw [hb]
      exact hrun _ (a.doJobStart_notIdle x program len p hfit hp hi) (by rw [State.complete_ward, ← hb, hbw]; exact hgood)
    · rw [hb] at he
      have hkeep : ((b.badJob x.w (a.ward x.w) p e).ward x.w) = { a.ward x.w with closeMin := a.closeMin p } :=
        (congrArg (Tab.get · x.w) (State.badJob_wards b x.w _ p e)).trans hbw
      rw [hb] at hkeep
      exact ⟨_, hrun _ (a.doJobStart_bad x program len p hfit hst e he) (by rw [State.complete_ward, hkeep]; exact hgood), _, rfl, hkeep⟩
    · rw [hb] at hok
      have hgo := a.doJobStart_good x program len p hfit hst sch sl dig hok
      rw [← hb] at hgo
      obtain ⟨h1, h2, h3⟩ := b.startJob_ward x.w (a.ward x.w) (startedJob x program len p sch sl) dig
      refine ⟨_, hgo ▸ hsettled, _, h1, h2, h3, rfl, rfl, rfl, rfl, htag, rfl, rfl, fun v hv => ?_, fun hn q hq => ?_⟩
      · rw [State.startJob_ward_other _ _ _ _ _ v hv, hb]
        exact State.modWard_ward_other _ _ _ _ hv
      · simp only [State.startJob_tile]
        exact State.loadJob_loaded b x.w (a.ward x.w) p hn q hq
  · have hw : x.w = s.cmdWard src .jobEnd := by rw [hx]; exact State.ctxOf_w rfl
    have hgood : (s.ward x.w).structBad = false := hw ▸ State.takesHere_good hhere
    have hrun (t : State) (ht : a.doJobEnd x = t) (hg : (t.ward x.w).structBad = false) : exec (.jobEnd src) s = .next t := by
      have := State.command_effect s src _ (fun x s => s.doJobEnd x) hhere (by rw [← hx, ← ha, ht, ← hw]; exact hg)
      rw [← hx, ← ha, ht] at this
      exact congrArg Host.Outcome.next this
    have hward (v : Nat) : a.ward v = s.ward v := by rw [ha]; rfl
    clear ha hx
    simp only [← hward] at hgood ⊢
    refine ⟨fun hj => ?_, fun j hj hf => ?_, fun j hj hf hq => ?_⟩
    · exact hrun _ (a.doJobEnd_none x hj) (by rw [State.complete_ward]; exact hgood)
    · exact ⟨_, hrun _ (a.doJobEnd_force x j hj hf) (by rw [State.modWard_ward_same]; exact hgood),
        OnlyWard.modWard _ _ _ _ (by rw [hj]; rfl)⟩
    · exact ⟨_, hrun _ (a.doJobEnd_ending x j hj hf hq) (by rw [State.modWard_ward_same]; exact hgood),
        OnlyWard.modWard _ _ _ _ (by rw [hj]; rfl)⟩

end Sys2Proof.Machine
end

section
/-! How the module resets and boots, and how its flash is written (R503 to R516). -/

namespace Sys2Proof.Machine
open Sys2Proof

/-! ### Temperatures (R522) -/

/-- The reading of sensor `d`. -/
def reading (t : Tab Int) (d : Nat) : Int := Tab.getD (-32768) t d

/-- One more sensor looked at for the hottest. -/
def hotter (t : Tab Int) (b : Nat × Int) (d : Nat) : Nat × Int := if b.2 < reading t d then (d, reading t d) else b

theorem hotter_snd (t : Tab Int) (b : Nat × Int) (d : Nat) : (hotter t b d).2 = max b.2 (reading t d) := by
  unfold hotter
  split
  · exact (max_eq_right (le_of_lt ‹_›)).symm
  · exact (max_eq_left (not_lt.mp ‹_›)).symm

theorem foldl_hotter_lt (t : Tab Int) (ds : List Nat) (b : Nat × Int) (c : Int) :
    (ds.foldl (hotter t) b).2 < c ↔ b.2 < c ∧ ∀ d ∈ ds, reading t d < c := by
  induction ds generalizing b with
  | nil => simp
  | cons d ds ih =>
    rw [List.foldl_cons, ih, hotter_snd, max_lt_iff, List.forall_mem_cons, and_assoc]

/-- The hottest reading is below a bound above -4096 degrees exactly where every reading is. -/
theorem hottest_lt (ds : List Nat) (t : Tab Int) (c : Int) (hc : -32768 < c) :
    (hottest ds t).2 < c ↔ ∀ d ∈ ds, Tab.getD (-32768) t d < c :=
  (foldl_hotter_lt t ds (0, -32768) c).trans (and_iff_right hc)

/-- A bound from -4096 degrees on is passed exactly where one reading passes it. -/
theorem lt_hottest (ds : List Nat) (t : Tab Int) (c : Int) (hc : -32768 ≤ c) :
    c < (hottest ds t).2 ↔ ∃ d ∈ ds, c < Tab.getD (-32768) t d := by
  have h := hottest_lt ds t (c + 1) (by omega)
  simp only [Int.lt_add_one_iff] at h
  rw [← not_le, h]
  simp only [not_forall, not_le, exists_prop]

/-! ### Resets (R511, R515) -/

/-- What a reset leaves in memory: the stacks and the host's bytes; the tile stores are gone. -/
theorem State.afterReset_rdByte (s : State) (l : Life) (h : Memory.wf s.mem = true) (a : Nat) :
    (s.afterReset l).rdByte a = if a < 2 ^ 42 ∨ 2 ^ 48 ≤ a then s.rdByte a else 0 := by
  have := Tab.getD_filter (0 : Byte) s.mem (fun c => decide (c < 2 ^ 42) || decide (2 ^ 48 ≤ c)) a h
  refine this.trans ?_
  simp only [Bool.or_eq_true, decide_eq_true_eq]
  rfl

theorem execAutoReset_hot (s : State) (b : BootIn) (d : Nat) (hd : d ∈ s.dies)
    (h : 8 * (s.pwr.tj : Int) - 80 ≤ Tab.getD (-32768) s.pwr.temps d) :
    exec (.autoReset b) s = .next s := by
  have hot : ¬ (hottest s.dies s.pwr.temps).2 < 8 * (s.pwr.tj : Int) - 80 := by
    rw [hottest_lt _ _ _ (by omega)]
    intro hall
    exact absurd (hall d hd) (by omega)
  change execAutoReset b s = _
  simp [execAutoReset, hot]

theorem execAutoReset_cool (s : State) (b : BootIn) (hl : s.life = .stopping) (h1 : 4250 ≤ s.pwr.vin) (h2 : s.pwr.vin ≤ 6000)
    (hout : Tab.getD (-32768) s.pwr.temps 9 < 8 * (s.pwr.outT : Int))
    (hall : ∀ d ∈ s.dies, Tab.getD (-32768) s.pwr.temps d < 8 * (s.pwr.tj : Int) - 80) :
    exec (.autoReset b) s = .next ((s.afterReset .off).bootUp b) := by
  have cool : (hottest s.dies s.pwr.temps).2 < 8 * (s.pwr.tj : Int) - 80 := (hottest_lt _ _ _ (by omega)).mpr hall
  change execAutoReset b s = _
  simp [execAutoReset, cool, hl, h1, h2, hout]

theorem execAutoReset_supply (s : State) (b : BootIn) (h : s.life ≠ .stopping ∨ s.pwr.vin < 4250 ∨ 6000 < s.pwr.vin) :
    exec (.autoReset b) s = .next s := by
  change execAutoReset b s = _
  unfold execAutoReset
  extract_lets p cool
  rw [if_neg]
  rintro ⟨hl, h1, h2, -⟩
  rcases h with h | h | h
  · exact h hl
  · exact absurd h1 (Nat.not_le.mpr h)
  · exact absurd h2 (Nat.not_le.mpr h)

/-! ### Boot (R511, R512) -/

theorem pickCopy_none {c : CopyCheck × CopyCheck} (h : ¬(c.1.ok = true ∨ c.2.ok = true)) : pickCopy c = none := by
  rw [not_or] at h
  simp [pickCopy, h.1, h.2]

/-- Copy 0 is used where it passes, else copy 1. -/
theorem pickCopy_some {c : CopyCheck × CopyCheck} (h : c.1.ok = true ∨ c.2.ok = true) : pickCopy c = some !c.1.ok := by
  unfold pickCopy
  cases h1 : c.1.ok
  · simpa [h1] using h
  · simp

/-- Setting the same value for a list of links. -/
theorem get_foldl_set {β : Type} [Inhabited β] [DecidableEq β] (v : β) (ls : List Nat) (t : Tab β) (l : Nat) :
    (ls.foldl (fun t l => t.set l v) t).get l = if l ∈ ls then v else t.get l := by
  induction ls generalizing t with
  | nil => simp
  | cons a ls ih =>
    rw [List.foldl_cons, ih, Tab.get_set]
    by_cases h : l ∈ ls
    · simp [h]
    · simp [h]

/-- A boot that fails: nothing runs, and the failure is kept and recorded (R512). -/
theorem State.bootFailed_spec (s t : State) (b : BootIn) (f : BootFail) (ht : t = s.bootFailed b f) :
    t.life = .bootFailed ∧ t.boot.stage = 0xE ∧ t.boot.item = BitVec.ofNat 8 f.item ∧
    t.boot.reason = BitVec.ofNat 8 f.reason ∧ t.saf.seqNext = s.saf.seqNext + 1 ∧ t.wards = s.wards ∧ t.tiles = s.tiles ∧
    (let r := t.faults.get ((s.saf.seqNext - 1) % faultRing)
     r.cls = 0x11 ∧ r.scope = 7 ∧ r.detail = BitVec.ofNat 128 f.detail) := by
  subst ht
  unfold State.bootFailed
  extract_lets sec u
  obtain ⟨hframe, hseq, ⟨-, hcls, hscope, -, -, -, -, -, -, -, -, -, -, -, hdetail, -, -⟩, -, -⟩ :=
    State.report_reports u { cls := 0x11, scope := 7, unit := 0xD, src := 3, detail := BitVec.ofNat 128 f.detail }
  have hlife := congrArg State.life hframe
  have hboot := congrArg State.boot hframe
  have hwards := congrArg State.wards hframe
  have htiles := congrArg State.tiles hframe
  refine ⟨hlife, ?_, ?_, ?_, hseq, hwards, htiles, hcls, hscope, hdetail⟩ <;> rw [hboot]

theorem bootDone_port (s : State) (b : BootIn) (n : Boot) (p : Nat) (hp : p < 2) :
    (s.bootDone b n).port p = { s.port p with detect := false } := by
  have h : (s.bootDone b n).ports = (s.ports.set 0 { s.port 0 with detect := false }).set 1 { s.port 1 with detect := false } := rfl
  unfold State.port
  rw [h, Tab.get_set, Tab.get_set]
  interval_cases p <;> rfl

theorem bootDone_slot (s : State) (b : BootIn) (n : Boot) (k : Nat) :
    (s.bootDone b n).slot k = if k = 0 then { st := .modul, key := s.keyNext } else s.slot k := by
  have h : (s.bootDone b n).slots = s.slots.set 0 { st := .modul, key := s.keyNext } := rfl
  unfold State.slot
  rw [h, Tab.get_set]

/-- Links of dies that are not fitted are missing (R8). -/
theorem bootDone_link (s : State) (b : BootIn) (n : Boot) (l : Nat) (hl : l < 48) (hd : l / 6 ∉ s.dies) :
    ((s.bootDone b n).link l).st = .missing := by
  have h : (s.bootDone b n).links =
    ((List.range 48).filter fun l => !s.dies.contains (l / 6)).foldl (fun t l => t.set l { st := .missing : Link }) s.links := rfl
  unfold State.link
  rw [h, get_foldl_set, if_pos (by simp [hl, hd])]

/-! ### The checks of R511 in their order -/

theorem copyNote_cfgCopy (item : Nat) (c : CopyCheck × CopyCheck) (b : Boot) : (copyNote item c b).cfgCopy = b.cfgCopy := by
  unfold copyNote
  split <;> rfl

/-- Steps 5 to 7 of R511: the two images, then the stacks; `n` is what the steps before have noted. -/
def imageChecks (v : Variant) (b : BootIn) (n : Boot) : Except BootFail Boot :=
  match pickCopy (cfgChecks v b) with
  | none => .error (bothFail 3 (cfgChecks v b))
  | some c =>
    match pickCopy (fwChecks v b) with
    | none => .error (bothFail 4 (fwChecks v b))
    | some f =>
      match b.badStack with
      | some k => .error { item := 5, reason := 0x0B, idx := k, copies := 0 }
      | none => .ok { copyNote 4 (fwChecks v b) { copyNote 3 (cfgChecks v b) n with cfgCopy := c } with fwCopy := f }

section
variable (v : Variant) (b : BootIn)

theorem bootChecks_noFlash (h0 : b.flashC0 = false) (h4 : b.flashC4 = false) :
    bootChecks v b = .error { item := 0, reason := 1 } := by
  simp [bootChecks, h0, h4]

variable (hflash : b.flashC0 = true ∨ b.flashC4 = true)
include hflash

theorem bootChecks_ident (h : ¬(b.ident.1.ok = true ∨ b.ident.2.ok = true)) : bootChecks v b = .error (bothFail 1 b.ident) := by
  rcases hflash with hf | hf <;> simp [bootChecks, hf, pickCopy_none h]

variable (hident : b.ident.1.ok = true ∨ b.ident.2.ok = true)
include hident

theorem bootChecks_owner (he : b.ownerErased = false) (h : ¬(b.owner.1.ok = true ∨ b.owner.2.ok = true)) :
    bootChecks v b = .error (bothFail 2 b.owner) := by
  rcases hflash with hf | hf <;> simp [bootChecks, hf, pickCopy_some hident, he, pickCopy_none h]

variable (howner : b.ownerErased = true ∨ b.owner.1.ok = true ∨ b.owner.2.ok = true)
include howner

/-- With the identity and the owner record good, the images and the stacks decide. -/
theorem bootChecks_images : ∃ n, bootChecks v b = imageChecks v b n := by
  have hread : ¬((!b.flashC0) = true ∧ (!b.flashC4) = true) := by
    rcases hflash with h | h <;> simp [h]
  have hfound : ∃ o, (if b.ownerErased then some false else pickCopy b.owner) = some o := by
    split
    · exact ⟨_, rfl⟩
    · exact ⟨_, pickCopy_some (howner.resolve_left ‹_›)⟩
  obtain ⟨o, ho⟩ := hfound
  simp only [bootChecks, if_neg hread, pickCopy_some hident, ho]
  exact ⟨_, rfl⟩

end

section
variable (v : Variant) (b : BootIn) (n : Boot)

theorem imageChecks_cfg (h : ¬((cfgChecks v b).1.ok = true ∨ (cfgChecks v b).2.ok = true)) :
    imageChecks v b n = .error (bothFail 3 (cfgChecks v b)) := by
  simp only [imageChecks, pickCopy_none h]

variable (hcfg : (cfgChecks v b).1.ok = true ∨ (cfgChecks v b).2.ok = true)
include hcfg

theorem imageChecks_fw (h : ¬((fwChecks v b).1.ok = true ∨ (fwChecks v b).2.ok = true)) :
    imageChecks v b n = .error (bothFail 4 (fwChecks v b)) := by
  simp only [imageChecks, pickCopy_some hcfg, pickCopy_none h]

variable (hfw : (fwChecks v b).1.ok = true ∨ (fwChecks v b).2.ok = true)
include hfw

theorem imageChecks_stack (k : Nat) (h : b.badStack = some k) :
    imageChecks v b n = .error { item := 5, reason := 0x0B, idx := k, copies := 0 } := by
  simp only [imageChecks, pickCopy_some hcfg, pickCopy_some hfw, h]

/-- The boot goes on with the first good copy of each image. -/
theorem imageChecks_ok (h : b.badStack = none) :
    ∃ m, imageChecks v b n = .ok m ∧ m.fwCopy = !(fwChecks v b).1.ok ∧ m.cfgCopy = !(cfgChecks v b).1.ok := by
  simp only [imageChecks, pickCopy_some hcfg, pickCopy_some hfw, h]
  exact ⟨_, rfl, rfl, copyNote_cfgCopy _ _ _⟩

end

/-! ### The images (R507 to R510) -/

/-- A configuration image that can be read passes exactly where every check of step 5 passes. -/
theorem cfgReason_none (v : Variant) (ver : Nat) (dev : BitVec 256) (c : ImgCopy) (x : Tab Byte) (hx : c.bytes = some x) :
    cfgReason v ver dev c = none ↔ headerOk x = true ∧ c.sigOk = true ∧ ver ≤ imgAt x 12 4 ∧
      (imgAt x 16 1).testBit (Config.variantCode v) = true ∧ badSection v x = none ∧
      ∃ a, addrOf (devmapOf x) dev = some a ∧ absentAt v (imageOf x a) = none := by
  simp only [cfgReason, hx]
  by_cases hheader : headerOk x = false
  · simp [hheader]
  by_cases hsig : c.sigOk = false
  · simp [hheader, hsig]
  by_cases hver : imgAt x 12 4 < ver
  · simp [hheader, hsig, hver]
  by_cases hvariant : (imgAt x 16 1).testBit (Config.variantCode v) = false
  · simp [hheader, hsig, hver, hvariant]
  cases hsec : badSection v x with
  | some i => simp [hheader, hsig, hver, hvariant]
  | none =>
    cases haddr : addrOf (devmapOf x) dev with
    | none => cases habs : absentAt v (imageOf x 68) <;> simp [hheader, hsig, hver, hvariant, habs]
    | some a => cases habs : absentAt v (imageOf x a) <;> simp [hheader, hsig, hver, Nat.not_lt.mp hver, hvariant, habs]

theorem cfgCheck_ok (v : Variant) (ver : Nat) (dev : BitVec 256) (c : ImgCopy) :
    (cfgCheck v ver dev c).ok = true ↔ cfgReason v ver dev c = none := by
  unfold cfgCheck
  cases cfgReason v ver dev c <;> simp

/-- A section that fails is named by its index (R512). -/
theorem cfgCheck_section (v : Variant) (ver : Nat) (dev : BitVec 256) (c : ImgCopy) (x : Tab Byte) (hx : c.bytes = some x)
    (hheader : headerOk x = true) (hsig : c.sigOk = true) (hver : ver ≤ imgAt x 12 4)
    (hvariant : (imgAt x 16 1).testBit (Config.variantCode v) = true) (i : Nat) (hi : badSection v x = some i) :
    cfgCheck v ver dev c = { ok := false, reason := 2, idx := i } := by
  have h : cfgReason v ver dev c = some (2, i) := by
    simp [cfgReason, hx, hheader, hsig, Nat.not_lt.mpr hver, hvariant, hi]
  simp [cfgCheck, h]

/-- Where no section fails, every one keeps its format (R508). -/
theorem sectionOk_of_badSection_none (v : Variant) (x : Tab Byte) (h : badSection v x = none) (i : Nat) (y : Section)
    (hy : (sectionsOf x)[i]? = some y) : sectionOk v x (imgAt x 8 4) i y = true := by
  have hfind : (sectionsOf x).zipIdx.find? (fun (y, i) => !sectionOk v x (imgAt x 8 4) i y) = none := by
    by_contra hne
    obtain ⟨e, he⟩ := Option.ne_none_iff_exists'.mp hne
    simp [badSection, he] at h
  have := List.find?_eq_none.mp hfind (y, i) (List.mem_zipIdx_iff_getElem?.mpr hy)
  simpa using this

theorem fwCheck_ok (m : Image) (c : ImgCopy) : (fwCheck m c).ok = true ↔ ∃ x, c.bytes = some x ∧ fwHeaderOk x = true ∧ c.sigOk = true ∧
    m.fwMin ≤ imgAt x 12 4 ∧ (m.fwPin = 0 ∨ c.digest = m.fwPin) := by
  unfold fwCheck
  cases hx : c.bytes with
  | none => simp
  | some x =>
    by_cases hheader : fwHeaderOk x = false
    · simp [hheader]
    by_cases hsig : c.sigOk = false
    · simp [hheader, hsig]
    by_cases hver : imgAt x 12 4 < m.fwMin
    · simp [hheader, hsig, hver]
    by_cases hpin : m.fwPin = 0#256
    · simp [hheader, hsig, hver, hpin, Nat.not_lt.mp hver]
    by_cases hdigest : c.digest = m.fwPin <;> simp [hheader, hsig, hver, hpin, hdigest, Nat.not_lt.mp hver]

/-- The copy that a boot uses passes its check, so its map has the device. -/
theorem bootAddr_ne_none (v : Variant) (b : BootIn) (h : (cfgChecks v b).1.ok = true ∨ (cfgChecks v b).2.ok = true) :
    bootAddr v b ≠ none := by
  have hok : (cfgCheck v (verOf b) b.deviceId (cfgUsed v b)).ok = true := by
    unfold cfgUsed
    split
    · assumption
    · exact h.resolve_left ‹_›
  rw [cfgCheck_ok] at hok
  cases hx : (cfgUsed v b).bytes with
  | none => simp [cfgReason, hx] at hok
  | some x =>
    obtain ⟨-, -, -, -, -, a, ha, -⟩ := (cfgReason_none v _ _ _ x hx).mp hok
    simp [bootAddr, hx, ha]

/-! ### Flash writes (R506, R525) -/

theorem ctlLo_item (w : W32) : field (w &&& 0xF2).toNat 7 4 = (w &&& 0xF2).toNat / 16 := by
  have h : (w &&& 0xF2).toNat ≤ 0xF2 := by
    rw [BitVec.toNat_and]
    exact Nat.and_le_right
  unfold field
  omega

theorem ctlLo_copy (v : W64) : (v.setWidth 32 &&& 0xF2 : W32).getLsbD 1 = v.getLsbD 1 := by
  simp

/-- A write of the low half of CFG_FLASH_CTL by PF0. -/
def flashCtl (v : W64) : RegW := { off := 0x10010, size := 4, val := v }

/-- Its fields as the write leaves them. -/
def Flash.ctlSet (f : Flash) (v : W64) : Flash := { f with ctlLo := v.setWidth 32 &&& 0xF2 }

theorem flashCtl_off (v : W64) : (flashCtl v).off = 0x10010 := rfl

theorem flashCtl_size (v : W64) : (flashCtl v).size = 4 := rfl

theorem flashCtl_lo (v : W64) : (flashCtl v).lo = v.setWidth 32 := rfl

theorem flashCtl_legal (v : W64) : (flashCtl v).legal = true := by
  rw [RegW.legal, flashCtl_off, flashCtl_size]
  decide

theorem flashCtl_hitsLo (v : W64) : (flashCtl v).hitsLo = true := by
  rw [RegW.hitsLo, flashCtl_off, flashCtl_size]
  decide

theorem flashCtl_hitsHi (v : W64) : (flashCtl v).hitsHi = false := by
  rw [RegW.hitsHi, flashCtl_off, flashCtl_size]
  decide

theorem ctlWrite_flashCtl (f : Flash) (v : W64) : f.ctlWrite (flashCtl v) = f.ctlSet v := by
  unfold Flash.ctlWrite
  rw [flashCtl_hitsLo, flashCtl_hitsHi, flashCtl_lo]
  rfl

/-- The write is legal and reaches its register. -/
theorem flashCtl_reaches (s : State) (v : W64) (hlive : s.live = true) :
    ¬((!s.live) = true ∨ (!(flashCtl v).legal) = true ∨ (flashCtl v).off / 8 ≠ 0x10010 / 8) := by
  rw [hlive, flashCtl_legal, flashCtl_off]
  rintro (h | h | h)
  · exact Bool.noConfusion h
  · exact Bool.noConfusion h
  · exact h rfl

theorem flashCtl_go (v : W64) : ((v.setWidth 32 : W32).getLsbD 0 = true) = (v.getLsbD 0 = true) := by
  simp

section
variable (s : State) (r : Req) (v : W64) (img : StagedIn) (other : ImgCopy)

theorem execFlashWrite_refused (hlive : s.live = true) (hr : r.func ≠ 0) :
    execFlashWrite r (flashCtl v) img other s = .next s.refuse := by
  unfold execFlashWrite
  rw [if_neg (flashCtl_reaches s v hlive), if_pos hr]

theorem execFlashWrite_quiet (hlive : s.live = true) (hr : r.func = 0) (h : v.getLsbD 0 = false ∨ s.flash.st = .busy) :
    execFlashWrite r (flashCtl v) img other s = .next { s with flash := s.flash.ctlSet v } := by
  unfold execFlashWrite
  rw [if_neg (flashCtl_reaches s v hlive), if_neg (not_not.mpr hr), ctlWrite_flashCtl]
  refine if_neg ?_
  rintro ⟨-, hgo, hbusy⟩
  rw [flashCtl_lo, flashCtl_go] at hgo
  rcases h with h | h
  · exact Bool.noConfusion (h.symm.trans hgo)
  · exact hbusy h

theorem execFlashWrite_go (hlive : s.live = true) (hr : r.func = 0) (hgo : v.getLsbD 0 = true) (hbusy : s.flash.st ≠ .busy) :
    execFlashWrite r (flashCtl v) img other s = .next ({ s with flash := s.flash.ctlSet v }.startFlash img other) := by
  unfold execFlashWrite
  rw [if_neg (flashCtl_reaches s v hlive), if_neg (not_not.mpr hr), ctlWrite_flashCtl]
  exact if_pos ⟨flashCtl_hitsLo v, by rwa [flashCtl_lo, flashCtl_go], hbusy⟩

end

/-- The item that a write of CFG_FLASH_CTL names. -/
def Flash.item (f : Flash) (v : W64) : Nat := (f.ctlSet v).ctlLo.toNat / 16

/-- A flash write is refused for reason `r`. -/
def Flash.refused (f : Flash) (r : Byte) : Flash := { f with st := .refused, reason := r }

section
variable (s t : State) (v : W64) (img : StagedIn) (other : ImgCopy) (ht : t = { s with flash := s.flash.ctlSet v })
include ht

theorem ctlSet_field : field t.flash.ctlLo.toNat 7 4 = s.flash.item v := by
  subst ht
  exact ctlLo_item (v.setWidth 32)

theorem startFlash_item (h : s.flash.item v ≠ 3 ∧ s.flash.item v ≠ 4) :
    t.startFlash img other = { s with flash := (s.flash.ctlSet v).refused 2 } := by
  have hitem := ctlSet_field s t v ht
  subst ht
  unfold State.startFlash
  extract_lets f item refuse
  have hkind : item ≠ 3 ∧ item ≠ 4 := by rwa [show item = s.flash.item v from hitem]
  exact if_pos hkind

variable (h : s.flash.item v = 3 ∨ s.flash.item v = 4)
include h

theorem startFlash_address (haddr : s.canIssue (s.flash.src.toNat / 2 ^ 47 % 2) 0 = false) :
    t.startFlash img other = { s with flash := (s.flash.ctlSet v).refused 1 } := by
  have hitem := ctlSet_field s t v ht
  subst ht
  unfold State.startFlash
  extract_lets f item refuse
  have hkind : ¬(item ≠ 3 ∧ item ≠ 4) := by
    rw [show item = s.flash.item v from hitem]
    omega
  rw [if_neg hkind]
  have hissue : (!({ s with flash := s.flash.ctlSet v } : State).canIssue (field f.src.toNat 47 47) 0) = true := by
    rw [Bool.not_eq_true']
    exact haddr
  exact if_pos hissue

variable (haddr : s.canIssue (s.flash.src.toNat / 2 ^ 47 % 2) 0 = true)
include haddr

/-- With the item and the address good, the two checks decide. -/
theorem startFlash_checks (c d : CopyCheck) (hc : c = s.imageCheck (s.flash.item v) (s.staged img))
    (hd : d = s.imageCheck (s.flash.item v) other) :
    t.startFlash img other = { s with flash :=
      if !c.ok then (s.flash.ctlSet v).refused c.reason
      else if !d.ok then (s.flash.ctlSet v).refused d.reason
      else { s.flash.ctlSet v with st := .busy, reason := 0, target := some (s.flash.item v, v.getLsbD 1) } } := by
  have hitem := ctlSet_field s t v ht
  subst ht
  unfold State.startFlash
  extract_lets f item refuse
  have hkind : ¬(item ≠ 3 ∧ item ≠ 4) := by
    rw [show item = s.flash.item v from hitem]
    omega
  have hissue : ¬(!({ s with flash := s.flash.ctlSet v } : State).canIssue (field f.src.toNat 47 47) 0) = true :=
    by rw [Bool.not_eq_true', Bool.not_eq_false]; exact haddr
  have hcheck : ({ s with flash := s.flash.ctlSet v } : State).imageCheck item (({ s with flash := s.flash.ctlSet v } : State).staged img) = c := by
    rw [show item = s.flash.item v from hitem, hc]
    rfl
  have hother : ({ s with flash := s.flash.ctlSet v } : State).imageCheck item other = d := by
    rw [show item = s.flash.item v from hitem, hd]
    rfl
  have hcopy : f.ctlLo.getLsbD 1 = v.getLsbD 1 := ctlLo_copy v
  rw [if_neg hkind, if_neg hissue, hcheck, hother, hcopy, show item = s.flash.item v from hitem]
  have hreason (r : Byte) : refuse r.toNat = { s with flash := (s.flash.ctlSet v).refused r } := by
    simp [refuse, Flash.refused, f]
  rw [hreason, hreason]
  split
  · rfl
  · split <;> rfl

end

theorem execFlashWriteComplete_idle (s : State) (ok : Bool) (h : s.flash.st ≠ .busy ∨ s.flash.target = none) :
    execFlashWriteComplete ok s = .next s := by
  unfold execFlashWriteComplete
  split
  · rename_i hbusy htarget
    rcases h with h | h
    · exact absurd hbusy h
    · exact absurd (h.symm.trans htarget) (Option.some_ne_none _).symm
  · rfl

theorem execFlashWriteComplete_busy (s : State) (ok : Bool) (i : Nat) (c : Bool) (hlive : s.live = true)
    (hbusy : s.flash.st = .busy) (htarget : s.flash.target = some (i, c)) :
    execFlashWriteComplete ok s = .next { s with flash := { s.flash with
      st := if ok then .done else .failed, target := none, copies := s.flash.copies.set (2 * i + if c then 1 else 0) ok } } := by
  unfold execFlashWriteComplete
  simp only [hbusy, htarget, hlive, if_true]

/-- Settles O59: each reset, boot and flash rule by its lemma above. The record of a boot failure and the order of the checks, what
memory holds after a reset, the reasons of a refused flash write, and the index of a section that fails are the model's choices
(log 142, 143, 146 and 188). -/
theorem bootResetAndFlash : Obligations.BootResetAndFlash := by
  refine ⟨fun s b => ?_, fun s t l ht hm => ?_, fun s t b ht => ?_, fun v b good hgood => ?_, fun v ver dev c => ?_, fwCheck_ok,
    fun s => ?_, fun s r v img other a f hlive ha hf => ?_, fun s ok hlive => ?_⟩
  · refine ⟨fun h => if_pos h, fun h => ⟨if_neg h, if_neg h⟩, fun h => if_pos h, fun h => if_pos h, fun h => if_neg h,
      execAutoReset_supply s b, fun hl h1 h2 hout => ⟨fun h => execAutoReset_cool s b hl h1 h2 hout h.1, ?_⟩⟩
    rintro ⟨d, hd, hge, -⟩
    exact execAutoReset_hot s b d hd hge
  · subst ht
    exact ⟨State.afterReset_rdByte s l hm, rfl⟩
  · subst ht
    refine ⟨fun f hf => ?_, fun n a m hn haddr hm => ?_⟩
    · refine State.bootFailed_spec s _ b f ?_
      rw [State.bootUp, hf]
    · have hup : s.bootUp b = s.bootDone b n := by rw [State.bootUp, hn]
      subst hm
      rw [hup]
      have hlink : (s.bootDone b n).linkAddr = a := congrArg (Option.getD · 0) haddr
      have hstandby : (s.bootDone b n).standby = decide (64 ≤ (s.bootDone b n).linkAddr) := rfl
      refine ⟨rfl, rfl, rfl, hlink, hlink ▸ hstandby, rfl, rfl, rfl, bootDone_slot s b n 0, fun k hk => ?_, rfl, fun p hp => ?_, rfl,
        rfl, rfl, rfl, bootDone_link s b n⟩
      · rw [bootDone_slot, if_neg hk]
      · rw [bootDone_port s b n p hp]
        exact ⟨rfl, rfl⟩
  · subst hgood
    intro fails
    refine ⟨fun h => ⟨_, bootChecks_noFlash v b h.1 h.2, rfl⟩, fun hflash => ⟨fun h => ⟨_, bootChecks_ident v b hflash h, rfl⟩,
      fun hident => ⟨fun h => ⟨_, bootChecks_owner v b hflash hident h.1 h.2, rfl⟩, fun howner => ?_⟩⟩⟩
    obtain ⟨n, hn⟩ := bootChecks_images v b hflash hident howner
    refine ⟨fun h => ⟨_, hn.trans (imageChecks_cfg v b n h), rfl⟩, fun hcfg =>
      ⟨fun h => ⟨_, hn.trans (imageChecks_fw v b n hcfg h), rfl⟩, fun hfw =>
        ⟨fun k hk => ⟨_, hn.trans (imageChecks_stack v b n hcfg hfw k hk), rfl⟩, fun hstack => ⟨bootAddr_ne_none v b hcfg, ?_⟩⟩⟩⟩
    obtain ⟨m, hm, hfwCopy, hcfgCopy⟩ := imageChecks_ok v b n hcfg hfw hstack
    exact ⟨m, hn.trans hm, hfwCopy, hcfgCopy⟩
  · refine ⟨?_, fun h => ?_, fun x hx hheader hsig hver hvariant i hi => cfgCheck_section v ver dev c x hx hheader hsig hver hvariant i hi,
      fun x i y hbad hy => ?_⟩
    · rw [cfgCheck_ok]
      cases hx : c.bytes with
      | none => simp [cfgReason, hx]
      | some x =>
        rw [cfgReason_none v ver dev c x hx]
        simp
    · simp [cfgCheck, cfgReason, h]
    · have hok := sectionOk_of_badSection_none v x hbad i y hy
      simp only [sectionOk, Bool.and_eq_true, beq_iff_eq, decide_eq_true_eq, and_assoc] at hok
      obtain ⟨htype, hclean, hlen, hin, hmin, hbody⟩ := hok
      exact ⟨htype, hclean, hlen, hmin, hin, hbody⟩
  · refine ⟨fun hl hp => if_pos ⟨hl, hp⟩, fun h => if_neg ?_⟩
    rintro ⟨hl, hp⟩
    rcases h with h | h
    · exact h hl
    · exact Bool.noConfusion (h.symm.trans hp)
  · subst ha hf
    refine ⟨execFlashWrite_refused s r v img other hlive, fun hr => ?_⟩
    intro item
    refine ⟨execFlashWrite_quiet s r v img other hlive hr, fun hgo hbusy => ?_⟩
    have hwrite := execFlashWrite_go s r v img other hlive hr hgo hbusy
    refine ⟨fun h => hwrite.trans (congrArg _ (startFlash_item s _ v img other rfl h)), fun h =>
      ⟨fun haddr => hwrite.trans (congrArg _ (startFlash_address s _ v img other rfl h haddr)), fun haddr c d hc hd => ?_⟩⟩
    have hchecks := hwrite.trans (congrArg Host.Outcome.next (startFlash_checks s _ v img other rfl h haddr c d hc hd))
    refine ⟨fun hc' => hchecks.trans ?_, fun hc' hd' => hchecks.trans ?_, fun hc' hd' => hchecks.trans ?_⟩
    · simp only [hc']
      rfl
    · simp only [hc', hd']
      rfl
    · simp only [hc', hd']
      rfl
  · refine ⟨fun h => execFlashWriteComplete_idle s ok h, fun i c hbusy htarget => ⟨_, execFlashWriteComplete_busy s ok i c hlive hbusy htarget, rfl, rfl, rfl, ?_, ?_⟩⟩
    · exact Tab.get_set_same _ _ _
    · exact fun j hj => Tab.get_set_other _ _ _ _ hj

end Sys2Proof.Machine
end

section
/-! Supply, power and temperature: what a sample and a tick leave behind (R514, R517, R518, R522). -/

namespace Sys2Proof.Machine
open Sys2Proof

/-! ### The clock (R514) -/

/-- Only N and the count of its changes move. -/
theorem Pwr.clock_eq (p : Pwr) : p.clock = { p with n := max 16 (min (min p.nmax p.nSupply) (min p.nPower p.nThermal)), changes := p.clock.changes } := by
  unfold Pwr.clock
  extract_lets n
  split
  · rename_i h
    change p = { p with n := n }
    rw [h]
  · rfl

/-- What the records of the power chapter leave as it is. -/
def State.powered (s : State) : Pwr × Tab Ward × Tab Tile × Life := (s.pwr, s.wards, s.tiles, s.life)

theorem episodeRecord_powered (s : State) (n : Nat) (e : Episode) : (s.episodeRecord n e).powered = s.powered := by
  have h := congrArg State.powered (State.report_still s
    { cls := 0x10, scope := 0, unit := 0xD, src := 3, detail := powerDetail n e.nmin e.sensor e.vin e.tmax e.us })
  exact h

/-- The record of an episode that has ended. -/
def State.episodeEnd (s : State) (n : Nat) : Option Episode → State
  | some e => s.episodeRecord n e
  | none => s

theorem episodeEnd_powered (s : State) (n : Nat) (d : Option Episode) : (s.episodeEnd n d).powered = s.powered := by
  cases d with
  | none => rfl
  | some e => exact episodeRecord_powered s n e

/-! ### Supply (R517) -/

/-- The power block after a sample. -/
def Pwr.sampled (p : Pwr) (v : Nat) : Pwr :=
  let xs := (p.samples ++ [v]).drop (p.samples.length + 1 - 8)
  { p with samples := xs, vin := xs.sum / xs.length, nSupply := supplyStep p.nSupply xs.sum xs.length,
           timer := decide (xs.sum < 3800 * xs.length), clamp := decide (6000 * xs.length < xs.sum) }

/-- A sample sets the clock; beside it only episodes and their counts move. -/
theorem execSupplySample_measures (s : State) (v : Nat) (h : s.measures = true) : ∃ t es ec sags clamps,
    execSupplySample v s = .next t ∧ t.powered = ({ (s.pwr.sampled v).clock with
      epSupply := es, epClamp := ec, sagCnt := sags, clampCnt := clamps }, s.wards, s.tiles, s.life) := by
  unfold execSupplySample
  extract_lets xs sum f ns clamp p
  rw [if_neg (by simp [h])]
  split
  split
  rename_i ds _ _ ec dc _
  exact ⟨State.episodeEnd (State.episodeEnd _ 1 ds) 4 dc, _, _, _, _, rfl, (episodeEnd_powered _ _ _).trans (episodeEnd_powered _ _ _)⟩

/-- Nothing is sampled without power or in reset. -/
theorem execSupplySample_off (s : State) (v : Nat) (h : s.measures = false) : execSupplySample v s = .next s := by
  simp [execSupplySample, h]

/-- The band of a mean of exactly `v`. -/
theorem bandOf_mul (v n up : Nat) (hn : 0 < n) : bandOf (v * n) n up =
    if 4200 + up ≤ v then 64 else if 4100 + up ≤ v then 56 else if 4000 + up ≤ v then 48
    else if 3900 + up ≤ v then 40 else if 3800 + up ≤ v then 32 else 24 := by
  simp only [bandOf, supplyBands, List.find?, Nat.mul_le_mul_right_iff hn]
  by_cases h1 : 4200 + up ≤ v
  · simp [h1]
  by_cases h2 : 4100 + up ≤ v
  · simp [h1, h2]
  by_cases h3 : 4000 + up ≤ v
  · simp [h1, h2, h3]
  by_cases h4 : 3900 + up ≤ v
  · simp [h1, h2, h3, h4]
  by_cases h5 : 3800 + up ≤ v <;> simp [h1, h2, h3, h4, h5]


/-- The supply step of a mean of exactly `v`: at once down to the band, up only from half a volt above it. -/
theorem supplyStep_mul (cur v n : Nat) (hn : 0 < n) :
    (4250 ≤ v → supplyStep cur (v * n) n = 64) ∧
    (v < 3800 → supplyStep cur (v * n) n = 24) ∧
    (∀ k, k < 4 → 4100 - 100 * k ≤ v → v < 4200 - 100 * k → (56 - 8 * k < cur → supplyStep cur (v * n) n = 56 - 8 * k) ∧
      (cur = 56 - 8 * k → supplyStep cur (v * n) n = 56 - 8 * k)) ∧
    (∀ k, k < 4 → 4150 - 100 * k ≤ v → v < 4200 - 100 * k → cur ≤ 56 - 8 * k → supplyStep cur (v * n) n = 56 - 8 * k) := by
  simp only [supplyStep, bandOf_mul v n _ hn]
  grind

/-! ### Power (R518) -/

/-- N_POWER after a tick: `fast` where a fast limit is passed, `low` where every mean is low. -/
def powerStep (n : Nat) (fast hundred high low : Bool) : Nat :=
  let n := if fast then n - 4 else n
  max 16 (min 64 (if hundred && high then n - 1 else if hundred && low then n + 1 else n))

/-- Within 24 to 63 no limit is met. -/
theorem powerStep_within (n : Nat) (fast hundred high low : Bool) (h : 24 ≤ n) (h' : n < 64) :
    (powerStep n fast hundred high low : Int) =
      n - (if fast then 4 else 0) + (if hundred then (if high then -1 else if low then 1 else 0) else 0) := by
  obtain ⟨m, hm, hfast, hlo, hhi⟩ : ∃ m : Nat, m = (if fast then n - 4 else n) ∧ (m : Int) = n - (if fast then 4 else 0) ∧
      20 ≤ m ∧ m < 64 := by
    cases fast
    · exact ⟨n, rfl, by simp, by omega, h'⟩
    · exact ⟨n - 4, rfl, by simp; omega, by omega, by omega⟩
  have hclamp (k : Nat) (h16 : 16 ≤ k) (h64 : k ≤ 64) : max 16 (min 64 k) = k := by omega
  rw [← hfast]
  simp only [powerStep, ← hm]
  cases hundred with
  | false => simp [hclamp m (by omega) (by omega)]
  | true =>
    cases high with
    | true => simp [hclamp (m - 1) (by omega) (by omega)]; omega
    | false =>
      cases low with
      | true => simp [hclamp (m + 1) (by omega) (by omega)]
      | false => simp [hclamp m (by omega) (by omega)]

/-- The reading of a fast limit: the input's or a die's. -/
def State.powerOver (s : State) (a : Nat) (ds : Tab Nat) : Bool := decide (s.pwr.peakW < a) || s.dies.any fun d =>
  s.pwr.dieW.get d != 0 && decide (s.pwr.dieW.get d < ds.get d)

/-- Every mean is below its limit by 3 percent. -/
def State.powerLow (s : State) (a b : Nat) (ds : Tab Nat) : Bool :=
  decide (100 * a < 97 * s.pwr.peakW) && decide (100 * b < 97 * s.pwr.designW) && s.dies.all fun d =>
    s.pwr.dieW.get d == 0 || decide (100 * ds.get d < 97 * s.pwr.dieW.get d)

theorem execPowerLimitTick_off (s : State) (a b : Nat) (ds : Tab Nat) (hundred : Bool) (h : s.live = false) :
    execPowerLimitTick a b ds hundred s = .next s := by
  simp [execPowerLimitTick, h]

/-- The power block with the input's mean and N_POWER of a tick. -/
def Pwr.limited (p : Pwr) (b n : Nat) : Pwr := { p with pin := b, nPower := n }

theorem execPowerLimitTick_live (s : State) (a b : Nat) (ds : Tab Nat) (hundred : Bool) (h : s.live = true) : ∃ t p e cnt slow,
    execPowerLimitTick a b ds hundred s = .next t ∧
    p = (s.pwr.limited b (powerStep s.pwr.nPower (s.powerOver a ds) hundred (s.pwr.designW < b) (s.powerLow a b ds))).clock ∧
    t.powered = ({ p with epPower := e, powerCnt := cnt, slowMs := slow }, s.wards, s.tiles, s.life) := by
  unfold execPowerLimitTick
  extract_lets p dieOver n low allLow n' n'' q
  rw [if_neg (by simp [h])]
  split
  rename_i e d _
  have hn : n'' = powerStep s.pwr.nPower (s.powerOver a ds) hundred (s.pwr.designW < b) (s.powerLow a b ds) := by
    simp only [n'', n', n, powerStep, State.powerOver, Bool.or_eq_true, Bool.and_eq_true, decide_eq_true_eq]
    rfl
  exact ⟨State.episodeEnd _ 2 d, q, _, _, _, rfl, congrArg (fun n => (s.pwr.limited b n).clock) hn, episodeEnd_powered _ _ _⟩

/-- What a tick leaves: the input's mean, N_POWER by its step, and the clock. -/
theorem execPowerLimitTick_spec (s : State) (a b : Nat) (ds : Tab Nat) (hundred : Bool) (h : s.live = true) : ∃ t,
    execPowerLimitTick a b ds hundred s = .next t ∧ t.pwr.pin = b ∧
    t.pwr.nPower = powerStep s.pwr.nPower (s.powerOver a ds) hundred (s.pwr.designW < b) (s.powerLow a b ds) ∧
    t.pwr.n = max 16 (min (min s.pwr.nmax s.pwr.nSupply) (min t.pwr.nPower s.pwr.nThermal)) ∧
    t.wards = s.wards ∧ t.tiles = s.tiles := by
  obtain ⟨t, p, e, cnt, slow, hexec, hp, ht⟩ := execPowerLimitTick_live s a b ds hundred h
  simp only [State.powered, Prod.mk.injEq] at ht
  obtain ⟨htp, hw, hti, -⟩ := ht
  rw [Pwr.clock_eq] at hp
  refine ⟨t, hexec, ?_⟩
  rw [htp, hp]
  exact ⟨rfl, rfl, rfl, hw, hti⟩

/-! ### Temperature (R522) -/

/-- The reading of one sensor in a table of readings copied from another. -/
theorem getD_copied (ds : Tab Int) (l : List Nat) (t : Tab Int) (d : Nat) :
    Tab.getD (-32768) (l.foldl (fun (t : Tab Int) d => Tab.setD (-32768) t d (Tab.getD (-32768) ds d)) t) d =
      if d ∈ l then Tab.getD (-32768) ds d else Tab.getD (-32768) t d := by
  induction l generalizing t with
  | nil => simp
  | cons a l ih =>
    rw [List.foldl_cons, ih]
    by_cases h : d ∈ l
    · simp [h]
    by_cases h' : d = a
    · subst h'
      simp [Tab.getD_setD_same]
    · simp [h, h', Tab.getD_setD_other]

/-- The readings after a tick. -/
def State.readings (s : State) (ds : Tab Int) (inl out : Int) : Tab Int :=
  Tab.setD (-32768) (Tab.setD (-32768)
    (s.dies.foldl (fun (t : Tab Int) d => Tab.setD (-32768) t d (Tab.getD (-32768) ds d)) []) 8 inl) 9 out

theorem lt_of_mem_dies {s : State} {d : Nat} (h : d ∈ s.dies) : d < 8 :=
  List.mem_range.mp (List.mem_filter.mp h).1

section
variable (s : State) (ds : Tab Int) (inl out : Int)

theorem readings_die (d : Nat) (h : d ∈ s.dies) : Tab.getD (-32768) (s.readings ds inl out) d = Tab.getD (-32768) ds d := by
  have hlt := lt_of_mem_dies h
  rw [State.readings, Tab.getD_setD_other _ _ _ _ _ (by omega), Tab.getD_setD_other _ _ _ _ _ (by omega), getD_copied, if_pos h]

theorem readings_inlet : Tab.getD (-32768) (s.readings ds inl out) 8 = inl := by
  rw [State.readings, Tab.getD_setD_other _ _ _ _ _ (by omega), Tab.getD_setD_same]

theorem readings_outlet : Tab.getD (-32768) (s.readings ds inl out) 9 = out := by
  rw [State.readings, Tab.getD_setD_same]

end

/-- A die is above its limit. -/
def State.hot (s : State) (ds : Tab Int) : Bool := s.dies.any fun d => decide (8 * (s.pwr.tj : Int) < Tab.getD (-32768) ds d)

/-- Every die is cooler than its limit by 3 degrees. -/
def State.cool (s : State) (ds : Tab Int) : Bool := s.dies.all fun d => decide (Tab.getD (-32768) ds d < 8 * (s.pwr.tj : Int) - 24)

/-- N_THERMAL after a tick, by the dies and by the outlet against its limit `ot`. -/
def thermalStep (n : Nat) (hot ten cool : Bool) (ot out : Int) : Nat :=
  let n := if hot then max 16 (n - 2) else if ten && cool && decide (out < ot) then min 64 (n + 1) else n
  if ot < out then min 48 n else n

/-- The power block with the readings and N_THERMAL of a tick. -/
def Pwr.heated (p : Pwr) (ts : Tab Int) (n : Nat) : Pwr := { p with temps := ts, nThermal := n }

section
variable (s : State) (ds : Tab Int) (inl out : Int) (ten : Bool)

theorem hottest_hot : 8 * (s.pwr.tj : Int) < (hottest s.dies (s.readings ds inl out)).2 ↔ s.hot ds = true := by
  rw [lt_hottest _ _ _ (by omega), State.hot, List.any_eq_true]
  refine exists_congr fun d => and_congr_right fun hd => ?_
  rw [readings_die s ds inl out d hd, decide_eq_true_eq]

theorem hottest_cool : (hottest s.dies (s.readings ds inl out)).2 < 8 * (s.pwr.tj : Int) - 24 ↔ s.cool ds = true := by
  rw [hottest_lt _ _ _ (by omega), State.cool, List.all_eq_true]
  refine forall₂_congr fun d hd => ?_
  rw [readings_die s ds inl out d hd, decide_eq_true_eq]

theorem execThermalTick_off (h : s.measures = false) : execThermalTick ds inl out ten s = .next s := by
  simp [execThermalTick, h]

theorem execThermalTick_dark (h : s.measures = true) (hlive : s.live = false) :
    execThermalTick ds inl out ten s = .next { s with pwr := s.pwr.heated (s.readings ds inl out) s.pwr.nThermal } := by
  unfold execThermalTick
  rw [if_neg (by simp [h])]
  exact if_pos (by simp [hlive])

theorem execThermalTick_live (h : s.measures = true) (hlive : s.live = true) : ∃ t p e cnt,
    execThermalTick ds inl out ten s = .next t ∧
    p = (s.pwr.heated (s.readings ds inl out) (thermalStep s.pwr.nThermal (s.hot ds) ten (s.cool ds) (8 * s.pwr.outT) out)).clock ∧
    t.powered = ({ p with epThermal := e, thermalCnt := cnt }, s.wards, s.tiles, s.life) := by
  have hhot := hottest_hot s ds inl out
  have hcool := hottest_cool s ds inl out
  unfold execThermalTick
  rw [if_neg (by simp [h])]
  extract_lets t0 ts src p tj ot
  split
  rename_i hd ht heq
  rw [show hottest s.dies (s.readings ds inl out) = (hd, ht) from heq] at hhot hcool
  extract_lets n n' q
  rw [if_neg (by simp [hlive])]
  split
  split
  rename_i e d _
  have hhot' : tj < ht ↔ s.hot ds = true := hhot
  have hcool' : ht < tj - 24 ↔ s.cool ds = true := hcool
  have hn : n' = thermalStep s.pwr.nThermal (s.hot ds) ten (s.cool ds) (8 * s.pwr.outT) out := by
    simp only [n', n, thermalStep, hhot', hcool', Bool.and_eq_true, decide_eq_true_eq, and_assoc]
    rfl
  exact ⟨State.episodeEnd _ 3 d, q, _, _, rfl, congrArg (fun n => (s.pwr.heated ts n).clock) hn, episodeEnd_powered _ _ _⟩

/-- What a tick leaves while the module measures: the readings, and while it is live N_THERMAL by its step. -/
theorem execThermalTick_spec (h : s.measures = true) : ∃ t, execThermalTick ds inl out ten s = .next t ∧
    t.pwr.temps = s.readings ds inl out ∧ t.wards = s.wards ∧ t.tiles = s.tiles ∧
    (s.live = true → t.pwr.nThermal = thermalStep s.pwr.nThermal (s.hot ds) ten (s.cool ds) (8 * s.pwr.outT) out) := by
  cases hlive : s.live with
  | false => exact ⟨_, execThermalTick_dark s ds inl out ten h hlive, rfl, rfl, rfl, fun h => Bool.noConfusion h⟩
  | true =>
    obtain ⟨t, p, e, cnt, hexec, hp, ht⟩ := execThermalTick_live s ds inl out ten h hlive
    simp only [State.powered, Prod.mk.injEq] at ht
    obtain ⟨htp, hw, hti, -⟩ := ht
    rw [Pwr.clock_eq] at hp
    refine ⟨t, hexec, ?_⟩
    rw [htp, hp]
    exact ⟨rfl, hw, hti, fun _ => rfl⟩

end

/-! ### The thermal step by its cases -/

section
variable (n : Nat) (hot ten cool : Bool) (ot out : Int)

theorem thermalStep_outlet (h : ot < out) : thermalStep n hot ten cool ot out ≤ 48 := by
  simp only [thermalStep, if_pos h]
  omega

variable (hout : out ≤ ot) (hn : 18 ≤ n) (hn' : n < 64)
include hout

theorem thermalStep_keep (h : ten = false ∨ cool = false) : thermalStep n false ten cool ot out = n := by
  rcases h with h | h <;> simp [thermalStep, not_lt.mpr hout, h]

include hn in
theorem thermalStep_hot : thermalStep n true ten cool ot out = n - 2 := by
  simp only [thermalStep, if_neg (not_lt.mpr hout), if_true]
  omega

include hn' in
theorem thermalStep_cool (h : out < ot) : thermalStep n false true true ot out = n + 1 := by
  simp [thermalStep, not_lt.mpr hout, h]
  omega

end

end Sys2Proof.Machine
end

section
/-! An ordered stop ends every job (R519, R520): what the functions it calls leave alone. -/

namespace Sys2Proof.Machine
open Sys2Proof

/-- What only the power chapter and the start and the end of a job change: the power block, and which wards have a job. -/
def State.quiet (s : State) : Pwr × (Nat → Bool) := (s.pwr, fun w => (s.ward w).job.isSome)

theorem quiet_of_still {s t : State} (h : t.still = s.still) : t.quiet = s.quiet :=
  congrArg State.quiet (a₁ := t.still) (a₂ := s.still) h

theorem quiet_of_offStack {s t : State} (h : t.offStack = s.offStack) : t.quiet = s.quiet :=
  congrArg State.quiet (a₁ := t.offStack) (a₂ := s.offStack) h

/-- An update of a ward that leaves its job alone. -/
theorem State.modWard_quiet (s : State) (w : Nat) (f : Ward → Ward) (hf : ∀ y, (f y).job.isSome = y.job.isSome) :
    (s.modWard w f).quiet = s.quiet := by
  refine Prod.ext rfl (funext fun v => ?_)
  change ((s.modWard w f).ward v).job.isSome = (s.ward v).job.isSome
  by_cases h : v = w
  · subst h
    rw [State.modWard_ward_same, hf]
  · rw [State.modWard_ward_other s w f v h]

/-- An update that takes the ward's job away. -/
theorem State.modWard_quiet_ends (s : State) (w : Nat) (f : Ward → Ward) (hf : ∀ y, (f y).job = none) :
    (s.modWard w f).quiet = (s.pwr, Function.update s.quiet.2 w false) := by
  refine Prod.ext rfl (funext fun v => ?_)
  change ((s.modWard w f).ward v).job.isSome = _
  by_cases h : v = w
  · subst h
    rw [State.modWard_ward_same, hf]
    exact (Function.update_self v false s.quiet.2).symm
  · rw [State.modWard_ward_other s w f v h]
    exact (Function.update_of_ne h false s.quiet.2).symm

/-! ### Messages, records and events -/

theorem State.report_quiet (s : State) (r : FRec) : (s.report r).quiet = s.quiet := quiet_of_still (State.report_still s r)

theorem State.complete_quiet (s : State) (j : Nat) (st : St) (d : W32) : (s.complete j st d).quiet = s.quiet :=
  quiet_of_still (State.complete_still s j st d)

theorem State.post_quiet (s : State) (k : Nat) (c : Cpl) : (s.post k c).quiet = s.quiet := quiet_of_still (State.post_still s k c)

theorem State.event_quiet (s : State) (w what arg : Nat) (st : St) : (s.event w what arg st).quiet = s.quiet := rfl

/-! ### Memory -/

theorem State.onSite_quiet (s : State) (i : Nat) (f : Site → Site) : (s.onSite i f).quiet = s.quiet := by
  unfold State.onSite
  extract_lets t
  split
  · exact ite_fixes _ (fun _ => State.modWard_quiet t _ _ (by intro; rfl)) fun _ => rfl
  · rfl

theorem State.wrBytes_quiet (s : State) (pa : Nat) (bs : List Byte) : (s.wrBytes pa bs).quiet = s.quiet := rfl

theorem State.wrHostLine_quiet (s : State) (slot line : Nat) (upd : List (Nat × Byte)) : (s.wrHostLine slot line upd).quiet = s.quiet := by
  unfold State.wrHostLine
  exact State.wrBytes_quiet s _ _

theorem State.wrHost_quiet (s : State) (slot pa : Nat) (bs : List Byte) : (s.wrHost slot pa bs).quiet = s.quiet :=
  ite_fixes _ (fun _ => forEach_fixes State.quiet _ (fun _ _ => State.wrHostLine_quiet _ _ _ _) _ s) fun _ => rfl

theorem State.mendStore_quiet (s : State) (i off n : Nat) : (s.mendStore i off n).quiet = s.quiet :=
  ite_fixes _ (fun _ => rfl) fun _ => rfl

theorem State.readVa_quiet (s : State) (w c va n : Nat) (un : List Nat) : (s.readVa w c va n un).1.quiet = s.quiet := by
  refine foldl_fixes (fun p : State × RdOut => p.1.quiet) _ (fun p e => ?_) _ _
  obtain ⟨t, o⟩ := p
  dsimp only
  split
  · rfl
  · rename_i l _
    split
    · exact quiet_of_offStack (State.readTag_offStack t (l.pa / 256) (t.slot l.slot).key w c (un.contains (l.pa / 256)))
    all_goals rfl

theorem State.writeVa_quiet (s : State) (w c va : Nat) (bs : List Byte) : (s.writeVa w c va bs).quiet = s.quiet := by
  refine foldl_fixes State.quiet _ (fun t e => ?_) _ s
  dsimp only
  split
  · rfl
  · split
    · exact quiet_of_offStack (State.writeSec_offStack _ _ _ _ _ _)
    · exact State.wrHost_quiet _ _ _ _
    · exact quiet_of_still (State.sendWrite_still _ _ _ _ _ _)
    · exact State.mendStore_quiet _ _ _ _

theorem State.wrStruct_quiet (s : State) (w va : Nat) (bs : List Byte) : (s.wrStruct w va bs).quiet = s.quiet := by
  refine foldl_fixes State.quiet _ (fun t e => ?_) _ s
  dsimp only
  split
  · rfl
  · rename_i l _
    have hsec := quiet_of_offStack (State.writeSec_offStack t (t.slot l.kslot).key l.pa ((bs.drop (e.1 - va)).take e.2) w 0)
    exact ite_fixes _ (fun _ => ite_fixes _ (fun _ => (State.modWard_quiet _ w _ (by intro; rfl)).trans hsec) fun _ => hsec) fun _ => rfl

theorem State.freeVa_quiet (s : State) (w c va n : Nat) : (s.freeVa w c va n).quiet = s.quiet := State.writeVa_quiet _ _ _ _ _

/-! ### The tables of a ward -/

theorem State.setReg_quiet (s : State) (w c : Nat) (f : RegEnt → RegEnt) : (s.setReg w c f).quiet = s.quiet :=
  (State.wrStruct_quiet _ w _ _).trans (State.modWard_quiet s w _ (by intro; rfl))

theorem State.setBlk_quiet (s : State) (w b : Nat) (f : Blk → Blk) : (s.setBlk w b f).quiet = s.quiet :=
  (State.wrStruct_quiet _ w _ _).trans (State.modWard_quiet s w _ (by intro; rfl))

theorem State.setSq_quiet (s : State) (w i : Nat) (f : Sq → Sq) : (s.setSq w i f).quiet = s.quiet :=
  State.modWard_quiet s w _ (by intro; rfl)

theorem State.freeBlocksOf_quiet (s : State) (w i : Nat) (p : Nat → Bool) : (s.freeBlocksOf w i p).quiet = s.quiet :=
  forEach_fixes _ _ (fun _ _ => State.setBlk_quiet _ w _ _) _ s

theorem State.freeSpillOf_quiet (s : State) (w i : Nat) : (s.freeSpillOf w i).quiet = s.quiet :=
  (State.setSq_quiet _ w i _).trans (State.modWard_quiet s w _ (by intro; rfl))

theorem State.freeCopy_quiet (s : State) (w c k : Nat) : (s.freeCopy w c k).quiet = s.quiet :=
  (State.setReg_quiet _ w c _).trans (State.modWard_quiet s w _ (by intro; rfl))

theorem State.modTrain_quiet (s : State) (w c : Nat) (f : Train → Train) : (s.modTrain w c f).quiet = s.quiet :=
  State.modWard_quiet s w _ (by intro; rfl)

/-! ### Developer operations and sequences -/

theorem State.devDrop_quiet (s : State) (w : Nat) (p : DevOp → Bool) : (s.devDrop w p).quiet = s.quiet :=
  forEach_fixes State.quiet _ (by intros; rfl) _ s

theorem State.pfDone_quiet (s : State) (w k : Nat) : (s.pfDone w k).quiet = s.quiet := by
  refine State.modWard_quiet s w _ fun y => ?_
  cases hj : y.job <;> simp [hj]

theorem State.markSeq_quiet (s : State) (w i : Nat) (st : St) (endc : Nat) (now : Bool) : (s.markSeq w i st endc now).quiet = s.quiet :=
  State.setSq_quiet s w i _

theorem State.endSeq_quiet (s : State) (w i : Nat) (st : St) (endc : Nat) : (s.endSeq w i st endc).quiet = s.quiet := by
  unfold State.endSeq
  extract_lets q s1 s2 s3 s4 s5
  have h1 : s1.quiet = s.quiet := ite_fixes _ (fun _ => rfl) fun _ => State.devDrop_quiet s w _
  have h2 : s2.quiet = s1.quiet := (State.freeSpillOf_quiet _ w i).trans (State.freeBlocksOf_quiet s1 w i _)
  have h3 : s3.quiet = s2.quiet := ite_fixes _ (fun _ => rfl) fun _ => State.setReg_quiet s2 w _ _
  have h4 : s4.quiet = s3.quiet := State.setSq_quiet s3 w i _
  have h5 : s5.quiet = s4.quiet := State.modWard_quiet s4 w _ (by intro; rfl)
  refine ite_fixes _ (fun _ => rfl) fun _ => ?_
  rw [State.post_quiet, h5, h4, h3, h2, h1]

theorem Ward.setXowner_job (x : Ward) (i : Nat) (v : Option Nat) : (x.setXowner i v).job = x.job := rfl

theorem Ward.freeClaims_job (x : Ward) (c : Nat) : (x.freeClaims c).job = x.job := by
  unfold Ward.freeClaims
  refine foldl_fixes Ward.job _ (fun y i => ?_) _ x
  exact ite_fixes Ward.job (fun _ => Ward.setXowner_job y i _) fun _ => rfl

/-- Stated for any `f` that frees claims, so that the kernel has nothing to compute. -/
theorem State.freeClaims_quiet (s : State) (w c : Nat) (f : Ward → Ward) (hf : ∀ y, f y = y.freeClaims c) :
    (s.modWard w f).quiet = s.quiet :=
  State.modWard_quiet s w f fun y => by rw [hf, Ward.freeClaims_job]

theorem State.freeOld_quiet (s : State) (w : Nat) : (s.freeOld w).quiet = s.quiet := by
  unfold State.freeOld
  extract_lets t x
  have ht : t.quiet = s.quiet := by
    refine forEach_fixes State.quiet _ (fun u c => ?_) _ s
    extract_lets e u1 u2 u3 u4 u5
    have h1 : u1.quiet = u.quiet := ite_fixes _ (fun _ => State.freeCopy_quiet u w c _) fun _ => rfl
    have h2 : u2.quiet = u1.quiet := State.devDrop_quiet u1 w _
    have h3 : u3.quiet = u2.quiet := (State.freeCopy_quiet _ w c 1).trans (State.freeCopy_quiet u2 w c 0)
    have h4 : u4.quiet = u3.quiet := State.freeClaims_quiet u3 w c _ fun _ => rfl
    have h5 : u5.quiet = u4.quiet := State.setReg_quiet u4 w c _
    refine ite_fixes _ (fun _ => ?_) fun _ => h1
    have h6 (v : State) : (forEach e.withdraws v fun s j => s.complete j .ok).quiet = v.quiet :=
      forEach_fixes State.quiet _ (fun _ _ => State.complete_quiet _ _ _ _) _ v
    rw [h6, State.event_quiet, h5, h4, h3, h2, h1]
  exact ite_fixes _ (fun _ => (State.modWard_quiet t w _ (by intro; rfl)).trans ht) fun _ => ht

/-! ### DMA: what a descriptor reads and writes -/

theorem copyUnit_quiet (w : Nat) (d : Desc) (un : List Nat) (o : DOut) (i : List Nat) : (copyUnit w d un o i).s.quiet = o.s.quiet := by
  unfold copyUnit
  extract_lets si va
  refine ite_fixes (fun o : DOut => o.s.quiet) (fun _ => ite_fixes (fun o : DOut => o.s.quiet) (fun _ => rfl) fun _ => rfl) fun _ => ?_
  exact State.readVa_quiet o.s _ _ _ _ _

theorem unpackElem_quiet (w : Nat) (d : Desc) (un : List Nat) (o : DOut) (i : List Nat) : (unpackElem w d un o i).s.quiet = o.s.quiet := by
  unfold unpackElem
  extract_lets va sq a b pi k
  refine ite_fixes (fun o : DOut => o.s.quiet) (fun _ => ite_fixes (fun o : DOut => o.s.quiet) (fun _ => rfl) fun _ => rfl) fun _ => ?_
  exact State.readVa_quiet o.s _ _ _ _ _

theorem packElems_quiet (w : Nat) (d : Desc) (un : List Nat) (s : State) (is : List (List Nat)) :
    (packElems w d un s is).1.quiet = s.quiet := by
  refine foldl_fixes (fun p : State × List (Option W32) => p.1.quiet) _ (fun p i => ?_) _ _
  obtain ⟨t, xs⟩ := p
  refine ite_fixes (fun p : State × List (Option W32) => p.1.quiet) (fun _ => ?_) fun _ => rfl
  exact State.readVa_quiet t _ _ _ _ _

theorem packPlate_quiet (w : Nat) (d : Desc) (un : List Nat) (o : DOut) (n : Nat) : (packPlate w d un o n).s.quiet = o.s.quiet := by
  unfold packPlate
  extract_lets i va sq a b rest blocks
  refine ite_fixes (fun o : DOut => o.s.quiet) (fun _ => ite_fixes (fun o : DOut => o.s.quiet) (fun _ => rfl) fun _ => rfl) fun _ => ?_
  refine foldl_fixes (fun p : State × List Conv × W32 => p.1.quiet) _ (fun p e => ?_) _ _
  obtain ⟨t, cs, g⟩ := p
  exact packElems_quiet w d un t _

theorem skewVec_quiet (w : Nat) (d : Desc) (un : List Nat) (o : DOut) (v : Nat) : (skewVec w d un o v).1.s.quiet = o.s.quiet := by
  unfold skewVec
  extract_lets tail a h
  refine ite_fixes (fun p : DOut × List Byte × List Byte × Bool => p.1.s.quiet) (fun _ => ?_) fun _ => ?_
  · exact State.readVa_quiet o.s _ _ _ _ _
  · refine foldl_fixes (fun p : DOut × List Byte × List Byte × Bool => p.1.s.quiet) _ (fun p j => ?_) _ _
    obtain ⟨t, sc, co, q⟩ := p
    have helems := packElems_quiet w d un t.s ((List.range 32).map fun k => (32 * j + k) :: tail)
    dsimp only
    split <;> exact helems

theorem dmaPlan_quiet (s : State) (w : Nat) (d : Desc) (gen : W32) (jb : Nat) (un : List Nat) :
    (dmaPlan s w d gen jb un).s.quiet = s.quiet := by
  unfold dmaPlan
  extract_lets seeded v g o
  split
  · exact foldl_fixes (fun o : DOut => o.s.quiet) _ (packPlate_quiet w d un) _ o
  · exact foldl_fixes (fun o : DOut => o.s.quiet) _ (fun o n => unpackElem_quiet w d un o _) _ o
  · refine foldl_fixes (fun p : DOut × List (List Byte × List Byte × Bool) => p.1.s.quiet) _ (fun p v => ?_) _ _
    exact skewVec_quiet w d un p.1 v
  · exact foldl_fixes (fun o : DOut => o.s.quiet) _ (fun o n => copyUnit_quiet w d un o _) _ o

theorem State.someBlocks_quiet (s : State) (n : Nat) (out : Bool) (ds : List SiteDelta) : (s.someBlocks n out ds).1.quiet = s.quiet :=
  ite_fixes (fun p : State × Nat × SiteDelta => p.1.quiet) (fun _ => rfl) fun _ => rfl

theorem State.countPart_quiet (s : State) (c w : Nat) : (s.countPart c w).quiet = s.quiet := by
  unfold State.countPart
  extract_lets x
  split
  · rfl
  · refine ite_fixes _ (fun _ => ?_) fun _ => rfl
    exact (State.onSite_quiet _ _ _).trans (State.someBlocks_quiet s _ _ _)

theorem State.mixBytes_quiet (s : State) (w c va : Nat) (bs : List Byte) (pick : Nat → Bool) :
    (s.mixBytes w c va bs pick).2.quiet = s.quiet :=
  ite_fixes (fun p : List Byte × State => p.2.quiet) (fun _ => rfl) fun _ => rfl

theorem State.dmaWrite_quiet (s : State) (w c : Nat) (mix : Bool) (reads : List (Nat × Nat)) (x : DWr) :
    (s.dmaWrite w c mix reads x).quiet = s.quiet := by
  unfold State.dmaWrite
  extract_lets hit
  split
  rename_i bs t heq
  have hmix : t.quiet = s.quiet := by
    have h : (if mix || !reads.isEmpty then s.mixBytes w c x.va x.bytes hit else (x.bytes, s)).2.quiet = s.quiet :=
      ite_fixes (fun p : List Byte × State => p.2.quiet) (fun _ => State.mixBytes_quiet s _ _ _ _ _) fun _ => rfl
    rwa [heq] at h
  extract_lets u
  have hu : u.quiet = s.quiet := (State.writeVa_quiet t w c x.va bs).trans hmix
  refine ite_fixes _ (fun _ => Eq.trans ?_ hu) fun _ => hu
  refine forEach_fixes State.quiet _ (fun v k => ?_) _ u
  refine ite_fixes _ (fun _ => ?_) fun _ => rfl
  split
  · exact ite_fixes _ (fun _ => rfl) fun _ => rfl
  · rfl

theorem State.openWrites_quiet (s : State) (ws : List DWr) : (s.openWrites ws).2.quiet = s.quiet :=
  foldl_fixes (fun p : List DWr × State => p.2.quiet) _ (by intros; rfl) _ _

theorem State.mixDesc_quiet (s : State) (c w : Nat) : (s.mixDesc c w).quiet = s.quiet := by
  unfold State.mixDesc
  split
  · rfl
  · rename_i d _
    extract_lets o
    have ho : o.s.quiet = s.quiet := dmaPlan_quiet s w d _ _ _
    split
    rename_i ws t heq
    have ht : t.quiet = s.quiet := by
      have h : (if s.readsOut w d.ctx d.accesses then o.s.openWrites o.ws else (o.ws, o.s)).2.quiet = o.s.quiet :=
        ite_fixes (fun p : List DWr × State => p.2.quiet) (fun _ => State.openWrites_quiet o.s o.ws) fun _ => rfl
      rw [heq] at h
      exact h.trans ho
    extract_lets u1 u2
    have h1 : u1.quiet = s.quiet :=
      (forEach_fixes State.quiet _ (fun _ _ => State.dmaWrite_quiet _ _ _ _ _ _) _ _).trans ((State.countPart_quiet t c w).trans ht)
    have h2 : u2.quiet = u1.quiet := ite_fixes _ (fun _ => rfl) fun _ => State.freeVa_quiet u1 _ _ _ _
    exact h2.trans h1

theorem State.squashRun_quiet (s : State) (c w : Nat) (st : St) : (s.squashRun c w st).quiet = s.quiet :=
  ite_fixes _ (fun _ => State.mixDesc_quiet s c w) fun _ => rfl

/-! ### Training -/

theorem State.stepReport_quiet (s : State) (w c n : Nat) (st : Byte) (rolled : Bool) : (s.stepReport w c n st rolled).quiet = s.quiet := by
  unfold State.stepReport
  extract_lets t x flags bs u1 u2
  have h1 : u1.quiet = s.quiet := State.writeVa_quiet s w c _ bs
  have h2 : u2.quiet = u1.quiet := (State.event_quiet _ w 9 c .ok).trans (State.modTrain_quiet u1 w c _)
  refine ite_fixes _ (fun _ => h2.trans h1) fun _ => ?_
  rw [State.report_quiet, h2, h1]

theorem State.updIdle_quiet (s : State) (w c : Nat) : (s.updIdle w c).quiet = s.quiet :=
  forEach_fixes State.quiet _ (fun _ _ => ite_fixes _ (by intro; rfl) (by intro; rfl)) _ s

theorem State.freeSwap_quiet (s : State) (w c : Nat) : (s.freeSwap w c).quiet = s.quiet :=
  (State.modTrain_quiet _ w c _).trans (State.modWard_quiet s w _ (by intro; rfl))

theorem State.endTraining_quiet (s : State) (w c : Nat) : (s.endTraining w c).quiet = s.quiet := by
  unfold State.endTraining
  extract_lets t u1 u2 u3
  have h1 : u1.quiet = s.quiet :=
    (State.modWard_quiet _ w _ (by intro; rfl)).trans ((State.freeSwap_quiet _ w c).trans (State.updIdle_quiet s w c))
  have h2 : u2.quiet = u1.quiet := State.setReg_quiet u1 w c _
  have h3 : u3.quiet = u2.quiet := by
    unfold u3
    split
    · exact State.complete_quiet u2 _ _ _
    · rfl
  exact (forEach_fixes State.quiet _ (fun _ _ => State.complete_quiet _ _ _ _) _ u3).trans (h3.trans (h2.trans h1))

theorem State.dropTraining_quiet (s : State) (w : Nat) (st : Byte) : (s.dropTraining w st).quiet = s.quiet := by
  refine forEach_fixes State.quiet _ (fun u c => ?_) _ s
  exact (State.endTraining_quiet _ w c).trans (ite_fixes _ (fun _ => State.stepReport_quiet u w c _ st false) fun _ => rfl)

/-! ### Distribution, builds and lost operations -/

theorem State.clearDist_quiet (s : State) (w : Nat) (st : St) (d : W32) : (s.clearDist w st d).quiet = s.quiet := by
  unfold State.clearDist
  split
  · rfl
  · extract_lets u
    have h : u.quiet = s.quiet := State.modWard_quiet s w _ (by intro; rfl)
    refine (State.complete_quiet _ _ _ _).trans ?_
    exact h

theorem State.dropBuild_quiet (s : State) (w c : Nat) (st : St) : (s.dropBuild w c st).quiet = s.quiet := by
  unfold State.dropBuild
  extract_lets e u1 u2 u3 u4
  have h1 : u1.quiet = s.quiet := ite_fixes _ (fun _ => State.clearDist_quiet s w st 0) fun _ => rfl
  have h2 : u2.quiet = u1.quiet := State.devDrop_quiet u1 w _
  have h3 : u3.quiet = u2.quiet := ite_fixes _ (fun _ => State.freeCopy_quiet u2 w c _) fun _ => rfl
  have h4 : u4.quiet = s.quiet := (State.setReg_quiet u3 w c _).trans (h3.trans (h2.trans h1))
  refine ite_fixes _ (fun _ => h1) fun _ => ?_
  split
  · exact (State.complete_quiet u4 _ _ _).trans h4
  · exact h4

theorem State.dropBase_quiet (s : State) (w : Nat) (st : St) : (s.dropBase w st).quiet = s.quiet := by
  unfold State.dropBase
  extract_lets u1 x u2
  have h1 : u1.quiet = s.quiet := ite_fixes _ (fun _ => State.clearDist_quiet s w st 0) fun _ => rfl
  have h2 : u2.quiet = s.quiet := (State.modWard_quiet u1 w _ (by intro; rfl)).trans h1
  split
  · exact (State.complete_quiet u2 _ _ _).trans h2
  · exact h2

theorem State.endDist_quiet (s : State) (w : Nat) (st : St) (d : W32) : (s.endDist w st d).quiet = s.quiet := by
  unfold State.endDist
  split
  · rfl
  · extract_lets u
    have h : u.quiet = s.quiet := State.clearDist_quiet s w st d
    exact ite_fixes _ (fun _ => h) fun _ => ite_fixes _ (fun _ => (State.dropBase_quiet u w st).trans h)
      fun _ => (State.dropBuild_quiet u w _ st).trans h

theorem State.devLost_quiet (s : State) (w : Nat) (st : St) (o : DevOp) : (s.devLost w st o).quiet = s.quiet := by
  unfold State.devLost
  split
  · exact State.markSeq_quiet s w _ _ _ _
  · exact State.markSeq_quiet s w _ _ _ _
  · exact (State.setReg_quiet _ w _ _).trans (State.freeCopy_quiet s w _ _)
  · exact State.dropBuild_quiet s w _ st
  · exact (State.setReg_quiet _ w _ _).trans (State.freeSwap_quiet s w _)
  · exact (State.setReg_quiet _ w _ _).trans (State.modTrain_quiet s w _ _)
  · exact State.pfDone_quiet s w _

/-! ### The end of a job (R418) -/

theorem State.scrubTile_quiet (s : State) (i : Nat) : (s.scrubTile i).quiet = s.quiet :=
  State.mendStore_quiet _ i 0 storeBytes

theorem State.scrubWard_quiet (s : State) (w : Nat) : (s.scrubWard w).quiet = s.quiet := by
  unfold State.scrubWard
  extract_lets x u1 u2 u3 u4
  have h1 : u1.quiet = s.quiet := forEach_fixes State.quiet _ (fun _ _ => State.scrubTile_quiet _ _) _ s
  have h2 : u2.quiet = u1.quiet := forEach_fixes State.quiet _ (by intros; rfl) _ u1
  have h3 : u3.quiet = u2.quiet := forEach_fixes State.quiet _ (by intros; rfl) _ u2
  have h4 : u4.quiet = u3.quiet := forEach_fixes State.quiet _ (by intros; rfl) _ u3
  exact (State.modWard_quiet _ w _ (by intro; rfl)).trans (h4.trans (h3.trans (h2.trans h1)))

theorem State.dropEarly_quiet (s : State) (w : Nat) : (s.dropEarly w).quiet = s.quiet :=
  forEach_fixes State.quiet _ (by intros; rfl) _ s

/-- The end of a job leaves the ward without one; nothing else that `quiet` sees changes. -/
theorem State.stopJob_quiet (s : State) (w : Nat) (st seqSt : St) (endc : Nat) :
    (s.stopJob w st seqSt endc).quiet = (s.pwr, Function.update s.quiet.2 w false) := by
  unfold State.stopJob
  split
  · rename_i h
    refine Prod.ext rfl ((Function.update_eq_self_iff.mpr ?_).symm)
    exact (congrArg Option.isSome h).symm
  · rename_i j _
    extract_lets u1 lost u2 u3 u4 u5 u6 u7 u8 u9 u10 u11 held u12 u13 u14
    have h1 : u1.quiet = s.quiet := forEach_fixes State.quiet _ (fun _ _ => State.squashRun_quiet _ _ w st) _ s
    have h2 : u2.quiet = u1.quiet := State.devDrop_quiet u1 w _
    have h3 : u3.quiet = u2.quiet := by
      refine forEach_fixes State.quiet _ (fun t o => ?_) _ u2
      split
      · rfl
      · rfl
      · rfl
      · exact State.devLost_quiet t w st o
    have h4 : u4.quiet = u3.quiet := forEach_fixes State.quiet _ (fun _ _ => State.endSeq_quiet _ w _ seqSt endc) _ u3
    have h5 : u5.quiet = u4.quiet := State.dropTraining_quiet u4 w st.code
    have h6 : u6.quiet = u5.quiet := by
      refine forEach_fixes State.quiet _ (fun t c => ?_) _ u5
      extract_lets t1 t2
      have ht1 : t1.quiet = t.quiet := State.dropBuild_quiet t w c st
      have ht2 : t2.quiet = t1.quiet :=
        ite_fixes _ (fun _ => rfl) fun _ => (State.setReg_quiet _ w c _).trans (State.freeCopy_quiet t1 w c _)
      refine Eq.trans ?_ (ht2.trans ht1)
      exact ite_fixes _ (fun _ => (State.setReg_quiet _ w c _).trans (State.freeCopy_quiet t2 w c _)) fun _ => rfl
    have h7 : u7.quiet = u6.quiet := (State.dropBase_quiet _ w st).trans (State.endDist_quiet u6 w st 0)
    have h8 : u8.quiet = u7.quiet := State.scrubWard_quiet u7 w
    have h9 : (u8.dropEarly w).quiet = s.quiet := by
      rw [State.dropEarly_quiet, h8, h7, h6, h5, h4, h3, h2, h1]
    have h10 : u9.quiet = (s.pwr, Function.update s.quiet.2 w false) := by
      rw [← h9, ← show (u8.dropEarly w).pwr = s.pwr from congrArg Prod.fst h9]
      exact State.modWard_quiet_ends _ w _ fun _ => rfl
    have h11 : u10.quiet = u9.quiet := by
      refine forEach_fixes State.quiet _ (fun t i => ?_) _ u9
      exact ite_fixes _ (fun _ => rfl) fun _ => rfl
    have h12 : u12.quiet = u10.quiet :=
      (forEach_fixes State.quiet _ (fun _ _ => State.complete_quiet _ _ _ _) _ _).trans (State.modWard_quiet u11 w _ (by intro; rfl))
    have h13 : u13.quiet = u12.quiet :=
      (forEach_fixes State.quiet _ (fun _ _ => State.complete_quiet _ _ _ _) _ _).trans
        (ite_fixes _ (fun _ => rfl) fun _ => State.complete_quiet u12 _ _ _)
    rw [State.post_quiet, State.freeOld_quiet, h13, h12, h11, h10]

/-! ### The ordered stop (R519) -/

theorem State.stopWard_quiet (s : State) (w : Nat) : (s.stopWard w).quiet = (s.pwr, Function.update s.quiet.2 w false) := by
  unfold State.stopWard
  extract_lets t
  have h : t.quiet = s.quiet := forEach_fixes State.quiet _ (fun _ _ => State.setSq_quiet _ w _ _) _ s
  rw [State.dropTraining_quiet, State.stopJob_quiet, h, show t.pwr = s.pwr from congrArg Prod.fst h]

/-- Stopping the wards of a list leaves each of them without a job, and the power block as it is. -/
theorem stopWards_quiet (ws : List Nat) (s : State) : (forEach ws s fun s w => s.stopWard w).pwr = s.pwr ∧
    ∀ v, (v ∈ ws ∨ (s.ward v).job = none) → ((forEach ws s fun s w => s.stopWard w).ward v).job = none := by
  induction ws generalizing s with
  | nil => exact ⟨rfl, fun v h => h.resolve_left (List.not_mem_nil)⟩
  | cons w ws ih =>
    obtain ⟨hp, hj⟩ := ih (s.stopWard w)
    have hstop := State.stopWard_quiet s w
    refine ⟨hp.trans (congrArg Prod.fst hstop), fun v h => hj v ?_⟩
    by_cases hv : v ∈ ws
    · exact .inl hv
    have hjob : ((s.stopWard w).ward v).job.isSome = Function.update s.quiet.2 w false v := congrFun (congrArg Prod.snd hstop) v
    have hfalse : Function.update s.quiet.2 w false v = false := by
      by_cases hw : v = w
      · rw [hw, Function.update_self]
      · have hnone := h.resolve_left (by simp [hv, hw])
        rw [Function.update_of_ne hw]
        exact congrArg Option.isSome hnone
    exact .inr (Option.isNone_iff_eq_none.mp (Option.isSome_eq_false_iff.mp (hjob.trans hfalse)))

theorem State.stopMarkers_quiet (s : State) (ev : Nat) : (s.stopMarkers ev).quiet = s.quiet := quiet_of_still (State.stopMarkers_still s ev)

/-- What an ordered stop leaves: no job on a ward with a beat, its record last, and the module stopping. -/
theorem State.orderedStop_spec (s t : State) (event sensor us : Nat) (ht : t = s.orderedStop event sensor us) :
    t.life = .stopping ∧ t.boot.stage = 0xF ∧ t.pwr.stopping = true ∧
    (∀ w < 8, (s.ward w).hasBeat = true → (t.ward w).job = none) ∧
    (let r := t.faults.get ((t.saf.seqNext - 2) % faultRing)
     r.cls = 0x10 ∧ r.scope = 7 ∧ r.status = St.supply.code) := by
  subst ht
  unfold State.orderedStop
  extract_lets p u1 u2 u3 u4 u5 l saf sent u6 boot last
  obtain ⟨hjobs, hnone⟩ : u2.pwr = u1.pwr ∧ _ := stopWards_quiet _ u1
  have h3 : u3.quiet = u2.quiet := by
    refine forEach_fixes State.quiet _ (fun v c => ?_) _ u2
    split
    · exact State.squashRun_quiet v c _ _
    · rfl
  have h5 : u5.quiet = u2.quiet := (State.report_quiet u4 _).trans ((State.stopMarkers_quiet u3 event).trans h3)
  obtain ⟨-, hseq, ⟨-, hcls, hscope, hstatus, -⟩, -, -⟩ : Reports u4 u5 _ := State.report_reports u4 _
  clear_value u5
  have h6 : u6.pwr = u5.pwr ∧ u6.wards = u5.wards ∧ u6.faults = u5.faults ∧ u6.saf.seqNext = u5.saf.seqNext := by
    unfold u6
    split
    · exact ⟨rfl, rfl, rfl, rfl⟩
    · exact ⟨rfl, rfl, rfl, rfl⟩
  obtain ⟨hpwr, hwards, hfaults, hnext⟩ := h6
  clear_value u6
  have hlast : (u6.saf.seqNext - 2) % faultRing = (u4.saf.seqNext - 1) % faultRing := by
    rw [hnext, hseq]
    rfl
  have hrec : last = u5.faults.get ((u4.saf.seqNext - 1) % faultRing) := by
    rw [← hlast, ← hfaults]
  refine ⟨rfl, rfl, ?_, fun w hw hbeat => ?_, ?_⟩
  · rw [show u6.pwr = u2.pwr from hpwr.trans (congrArg Prod.fst h5), hjobs]
  · have hjob : (u5.ward w).job.isSome = (u2.ward w).job.isSome := congrFun (congrArg Prod.snd h5) w
    have hmem : w ∈ (List.range 8).filter fun w => (u1.ward w).st != .disabled && (u1.ward w).st != .placing :=
      List.mem_filter.mpr ⟨List.mem_range.mpr hw, hbeat⟩
    rw [hnone w (.inl hmem)] at hjob
    change (Tab.get u6.wards w).job = none
    rw [hwards]
    exact Option.isNone_iff_eq_none.mp (Option.isSome_eq_false_iff.mp hjob)
  · rw [hrec]
    exact ⟨hcls, hscope, hstatus⟩

end Sys2Proof.Machine
end

section
/-! Register reads and writes (R2, R3, R23, R24, R35, R36): who may, and what they reach. -/

namespace Sys2Proof.Machine
open Sys2Proof

/-! ### Which block, and whose -/

theorem blockOf_module {o : Nat} (h : o < 0x70000) : blockOf o = .module := if_pos h

/-- The ward block of ward `w` at offset `k`. -/
theorem blockOf_ward (w k : Nat) (hw : w < 8) (hk : k < 0x100000) : blockOf (0x1000000 + 0x100000 * w + k) = .ward w := by
  unfold blockOf
  rw [if_neg (by omega), if_pos (by omega)]
  congr 1
  omega

/-- The offset within a ward block. -/
theorem wardOffset (w k : Nat) (hk : k < 0x100000) : (0x1000000 + 0x100000 * w + k - 0x1000000) % 0x100000 = k := by
  omega

theorem legal_word {a : RegW} (h : a.size = 4) (h' : a.off % 4 = 0) : a.legal = true := by
  simp [RegW.legal, h, h']

theorem legal_long {a : RegW} (h : a.size = 8) (h' : a.off % 8 = 0) : a.legal = true := by
  simp [RegW.legal, h, h']

section
variable (s : State) (r : Req) (a : RegW) (hlive : s.live = true)
include hlive

theorem execRegisterWrite_refused (h : s.mayAccess r (blockOf a.off) = false) : execRegisterWrite r a s = .next s.refuse := by
  simp [execRegisterWrite, hlive, h]

omit hlive in
theorem readRefused_iff (o : Nat) : s.readRefused r o = true ↔ s.mayAccess r (blockOf o) = false ∨ inStore o = true ∧ r.func ≠ 0 := by
  simp [State.readRefused]

theorem execRegisterReadRefused_refused (o : Nat) (h : s.readRefused r o = true) :
    execRegisterReadRefused r o s = .next s.refuse ∧ ∀ n, s.regRead r o n = 0 :=
  ⟨if_pos ⟨hlive, h⟩, fun _ => if_pos (by rw [h, Bool.or_true])⟩

section
variable (hf : r.func = 0)
include hf

omit hlive in
theorem readRefused_pf0 (o : Nat) (hacc : s.mayAccess r (blockOf o) = true) : s.readRefused r o = false := by
  simp [State.readRefused, hf, hacc]

theorem regRead_module (o n : Nat) (h : o < 0x70000) : s.regRead r o n = readAt s.moduleReg o n := by
  have hgranted := readRefused_pf0 s r hf o (by rw [blockOf_module h]; simp [State.mayAccess, hf])
  unfold State.regRead
  rw [if_neg (by simp [hlive, hgranted]), blockOf_module h]

theorem regRead_ward (w k n : Nat) (hw : w < 8) (hk : k < 0x100000) :
    s.regRead r (0x1000000 + 0x100000 * w + k) n = readAt (s.wardReg w) k n := by
  have hgranted := readRefused_pf0 s r hf (0x1000000 + 0x100000 * w + k)
    (by rw [blockOf_ward w k hw hk]; simp [State.mayAccess, State.owns, hf])
  unfold State.regRead
  rw [if_neg (by simp [hlive, hgranted]), blockOf_ward w k hw hk, wardOffset w k hk]

end

end

/-! ### How a register reads (R35) -/

section
variable (f : Nat → Option RegVal) (o v : Nat)

theorem readAt_word (wide : Bool) (h : f o = some ⟨wide, v⟩) (ho : o % 4 = 0) : readAt f o 4 = BitVec.ofNat 64 (v % 2 ^ 32) := by
  simp [readAt, h, ho]

theorem readAt_long (wide : Bool) (h : f o = some ⟨wide, v⟩) (ho : o % 8 = 0) : readAt f o 8 = BitVec.ofNat 64 v := by
  simp [readAt, h, ho]

/-- The upper half of a wide register; above a narrow one there is nothing. -/
theorem readAt_upper (wide : Bool) (h : f o = none) (h' : f (o / 8 * 8) = some ⟨wide, v⟩) (ho : o % 4 = 0) :
    readAt f o 4 = if wide then BitVec.ofNat 64 (v / 2 ^ 32) else 0 := by
  simp [readAt, h, h', ho]

end

/-! ### What the variant tells of itself (R2, R3) -/

theorem ofNat_toNat_mod (z : W64) : BitVec.ofNat 64 (z.toNat % 2 ^ 32) = z &&& 0xFFFFFFFF := by
  apply BitVec.eq_of_toNat_eq
  rw [BitVec.toNat_ofNat, BitVec.toNat_and, show (0xFFFFFFFF : W64).toNat = 2 ^ 32 - 1 from rfl, Nat.and_two_pow_sub_one_eq_mod]
  omega

theorem ofNat_toNat_div (z : W64) : BitVec.ofNat 64 (z.toNat / 2 ^ 32) = z >>> 32 := by
  apply BitVec.eq_of_toNat_eq
  rw [BitVec.toNat_ofNat, BitVec.toNat_ushiftRight, Nat.shiftRight_eq_div_pow]
  omega

section
variable (s : State) (u z : W64) (hu : capUnits s.variant = u.toNat) (hu' : u.toNat < 2 ^ 32) (hz : capSize s.variant = z.toNat)

include hu hu' in
theorem moduleReg_units : s.moduleReg 0 = some ⟨false, u.toNat⟩ := by
  simp [State.moduleReg, State.modReg, reg32, hu]
  exact hu'

include hz in
theorem moduleReg_size : s.moduleReg 8 = some ⟨true, z.toNat⟩ := by
  simp [State.moduleReg, State.modReg, reg64, hz, Nat.mod_eq_of_lt z.isLt]

theorem moduleReg_gaps : s.moduleReg 4 = none ∧ s.moduleReg 12 = none := by
  simp [State.moduleReg, State.modReg]

include hu hu' in
theorem wardReg_units (w : Nat) : s.wardReg w 0x10 = some ⟨false, u.toNat⟩ := by
  simp [State.wardReg, State.wrdReg, reg32, hu]
  exact hu'

include hz in
theorem wardReg_size (w : Nat) : s.wardReg w 0x18 = some ⟨true, z.toNat⟩ := by
  simp [State.wardReg, State.wrdReg, reg64, hz, Nat.mod_eq_of_lt z.isLt]

variable (r : Req) (hlive : s.live = true) (hf : r.func = 0)
include hu hu' hz hlive hf

/-- MOD_CAP_UNITS and MOD_CAP_SIZE, whole and by halves, and the copies in each ward's block. -/
theorem regRead_caps : s.regRead r 0 4 = u ∧ s.regRead r 0 8 = u ∧ s.regRead r 4 4 = 0 ∧ s.regRead r 8 8 = z ∧
    s.regRead r 8 4 = z &&& 0xFFFFFFFF ∧ s.regRead r 12 4 = z >>> 32 ∧
    ∀ w < 8, s.regRead r (0x1000010 + 0x100000 * w) 4 = u ∧ s.regRead r (0x1000018 + 0x100000 * w) 8 = z := by
  have hunits := moduleReg_units s u hu hu'
  have hsize := moduleReg_size s z hz
  obtain ⟨h4, h12⟩ := moduleReg_gaps s
  have hword : BitVec.ofNat 64 (u.toNat % 2 ^ 32) = u := by rw [Nat.mod_eq_of_lt hu', BitVec.ofNat_toNat, BitVec.setWidth_eq]
  have hmod (o n : Nat) (ho : o < 0x70000) := regRead_module s r hlive hf o n ho
  refine ⟨?_, ?_, ?_, ?_, ?_, ?_, fun w hw => ⟨?_, ?_⟩⟩
  · rw [hmod _ _ (by decide), readAt_word _ _ _ _ hunits rfl, hword]
  · rw [hmod _ _ (by decide), readAt_long _ _ _ _ hunits rfl, BitVec.ofNat_toNat, BitVec.setWidth_eq]
  · rw [hmod _ _ (by decide), readAt_upper _ _ _ _ h4 hunits rfl]
    rfl
  · rw [hmod _ _ (by decide), readAt_long _ _ _ _ hsize rfl, BitVec.ofNat_toNat, BitVec.setWidth_eq]
  · rw [hmod _ _ (by decide), readAt_word _ _ _ _ hsize rfl, ofNat_toNat_mod]
  · rw [hmod _ _ (by decide), readAt_upper _ _ _ _ h12 hsize rfl, if_pos rfl, ofNat_toNat_div]
  · rw [show 0x1000010 + 0x100000 * w = 0x1000000 + 0x100000 * w + 0x10 by omega, regRead_ward s r hlive hf w _ _ hw (by decide),
      readAt_word _ _ _ _ (wardReg_units s u hu hu' w) rfl, hword]
  · rw [show 0x1000018 + 0x100000 * w = 0x1000000 + 0x100000 * w + 0x18 by omega, regRead_ward s r hlive hf w _ _ hw (by decide),
      readAt_long _ _ _ _ (wardReg_size s z hz w) rfl, BitVec.ofNat_toNat, BitVec.setWidth_eq]

end

/-! ### Who holds each die, and the module's place (R23, R24) -/

/-- The number whose lowest `n` hexadecimal digits are given. -/
def hexNumber (f : Nat → Nat) (n : Nat) : Nat := ((List.range n).map fun k => f k * 16 ^ k).sum

theorem hexNumber_succ (f : Nat → Nat) (n : Nat) : hexNumber f (n + 1) = hexNumber f n + f n * 16 ^ n := by
  simp [hexNumber, List.range_succ]

section
variable (f : Nat → Nat) (hf : ∀ n, f n < 16)
include hf

theorem hexNumber_lt (n : Nat) : hexNumber f n < 16 ^ n := by
  induction n with
  | zero => simp [hexNumber]
  | succ n ih =>
    have hdigit := Nat.mul_le_mul_right (16 ^ n) (Nat.le_of_lt_succ (hf n))
    rw [hexNumber_succ, pow_succ]
    omega

theorem hexNumber_digit (n d : Nat) (h : d < n) : hexNumber f n / 16 ^ d % 16 = f d := by
  have hpos (k : Nat) : 0 < 16 ^ k := Nat.pow_pos (by decide)
  induction n with
  | zero => omega
  | succ n ih =>
    rw [hexNumber_succ]
    by_cases hd : d = n
    · subst hd
      rw [Nat.add_mul_div_right _ _ (hpos d), Nat.div_eq_of_lt (hexNumber_lt f hf d), Nat.zero_add, Nat.mod_eq_of_lt (hf d)]
    · have hpow : f n * 16 ^ n = f n * 16 ^ (n - d - 1) * 16 * 16 ^ d := by
        rw [Nat.mul_assoc, Nat.mul_assoc, ← pow_succ', ← pow_add]
        congr 2
        omega
      rw [hpow, Nat.add_mul_div_right _ _ (hpos d), Nat.add_mul_mod_self_right]
      exact ih (by omega)

end

/-- HELD and the ward of one die. -/
def dieDigit : Option Nat → Nat
  | some w => 8 + w
  | none => 0

theorem dieDigit_lt (s : State) (n : Nat) : dieDigit (s.wardOfDie n) < 16 := by
  cases h : s.wardOfDie n with
  | none => simp [dieDigit]
  | some w =>
    have hw := List.mem_range.mp (List.mem_of_find?_eq_some h)
    simp only [dieDigit]
    omega

theorem dieWardWord_eq (s : State) : s.dieWardWord = hexNumber (fun n => dieDigit (s.wardOfDie n)) 8 := by
  unfold State.dieWardWord hexNumber
  congr 2
  funext n
  rw [show 16 ^ n = 2 ^ (4 * n) by rw [pow_mul]; rfl]
  cases h : s.wardOfDie n <;> simp [dieDigit, h]

section
variable (s : State) (r : Req) (hlive : s.live = true) (hf : r.func = 0)
include hlive hf

theorem regRead_dieWard (d : Nat) (hd : d < 8) : (s.regRead r 0x10 4).toNat / 16 ^ d % 16 = dieDigit (s.wardOfDie d) := by
  have hlt : s.dieWardWord < 2 ^ 32 := by
    rw [dieWardWord_eq]
    exact hexNumber_lt _ (dieDigit_lt s) 8
  have hreg : s.moduleReg 0x10 = some ⟨false, s.dieWardWord⟩ := by
    simp [State.moduleReg, State.modReg, reg32]
    exact hlt
  rw [regRead_module s r hlive hf _ _ (by decide), readAt_word _ _ _ _ hreg rfl, BitVec.toNat_ofNat, Nat.mod_eq_of_lt hlt,
    Nat.mod_eq_of_lt (hlt.trans (by decide)), dieWardWord_eq]
  exact hexNumber_digit _ (dieDigit_lt s) 8 d hd

theorem regRead_id (hsize : s.image.domainSize ≤ 64) : s.regRead r 0x18 4 =
    BitVec.ofNat 64 (256 * s.image.domainSize + if s.standby then 128 else s.linkAddr % 64) := by
  have hword : s.idWord = 256 * s.image.domainSize + if s.standby then 128 else s.linkAddr % 64 := by
    cases h : s.standby <;> simp [State.idWord, fieldsAt, bit, h] <;> omega
  have hlt : s.idWord < 2 ^ 32 := by
    rw [hword]
    split <;> omega
  have hreg : s.moduleReg 0x18 = some ⟨false, s.idWord⟩ := by
    simp [State.moduleReg, State.modReg, reg32]
    exact hlt
  rw [regRead_module s r hlive hf _ _ (by decide), readAt_word _ _ _ _ hreg rfl, Nat.mod_eq_of_lt hlt, hword]

end

/-! ### Writes that reach one unit -/

section
variable (s : State) (r : Req) (a : RegW) (hlive : s.live = true) (hacc : s.mayAccess r (blockOf a.off) = true)
include hlive hacc

theorem execRegisterWrite_nothing (h : a.legal = false ∨ blockOf a.off = .none) : execRegisterWrite r a s = .next s := by
  unfold execRegisterWrite
  rw [if_neg (by simp [hlive]), if_neg (by simp [hacc])]
  split
  · rfl
  · rename_i hlegal
    rw [Bool.not_eq_true', Bool.not_eq_false] at hlegal
    simp only [h.resolve_left (by simp [hlegal])]

variable (hlegal : a.legal = true)
include hlegal

theorem execRegisterWrite_ward (w : Nat) (hb : blockOf a.off = .ward w) :
    execRegisterWrite r a s = .next (s.modWard w fun y => y.write { a with off := (a.off - 0x1000000) % 0x100000 }) := by
  unfold execRegisterWrite
  rw [if_neg (by simp [hlive]), if_neg (by simp [hacc]), if_neg (by simp [hlegal])]
  simp only [hb]

theorem execRegisterWrite_module (hb : blockOf a.off = .module) : execRegisterWrite r a s = .next (s.writeModule a) := by
  unfold execRegisterWrite
  rw [if_neg (by simp [hlive]), if_neg (by simp [hacc]), if_neg (by simp [hlegal])]
  simp only [hb]

theorem execRegisterWrite_func (hb : blockOf a.off = .func) (hown : s.hasBlock r = true) :
    execRegisterWrite r a s = .next (s.writeFunc r a) := by
  unfold execRegisterWrite
  rw [if_neg (by simp [hlive]), if_neg (by simp [hacc]), if_neg (by simp [hlegal])]
  simp only [hb, hown, if_true]

end

/-! ### BEA_LEN (R189) -/

/-- A length out of range, or while a job runs, changes nothing. -/
theorem Ward.write_beaLen_kept (y : Ward) (a : RegW) (v : Nat) (ho : a.off = oBeaLen) (hv : a.lo.toNat % 2 ^ 13 = v)
    (h : y.running = true ∨ v < 16 ∨ 4096 < v) : y.write a = y := by
  unfold Ward.write
  rw [if_pos ho, hv]
  exact if_pos h

/-- A good length is taken at the next boundary, or at once where the ward counts no beats. -/
theorem Ward.write_beaLen_taken (y : Ward) (a : RegW) (v : Nat) (ho : a.off = oBeaLen) (hv : a.lo.toNat % 2 ^ 13 = v)
    (hrun : y.running = false) (hlo : 16 ≤ v) (hhi : v ≤ 4096) :
    y.write a = if y.hasBeat then { y with newLen := some (BitVec.ofNat 13 v) }
      else { (y.setReg oBeaLen (BitVec.ofNat 64 v)) with newLen := none } := by
  have hwide : (BitVec.ofNat 13 v).setWidth 64 = BitVec.ofNat 64 v := by
    apply BitVec.eq_of_toNat_eq
    simp
    omega
  have htake : Ward.takeLen { y with newLen := some (BitVec.ofNat 13 v) } =
      { (y.setReg oBeaLen (BitVec.ofNat 64 v)) with newLen := none } := by
    rw [← hwide]
    rfl
  unfold Ward.write
  rw [if_pos ho, hv]
  extract_lets y'
  rw [if_neg (by simp [hrun]; omega), ← htake]
  rfl

/-! ### Ring bases (R409) -/

/-- A value below 2^48 at a multiple of 4096 lies within the bits 47 to 12. -/
theorem and_bitsMask_page (x : Nat) (h : x < 2 ^ 48) (h' : x % 2 ^ 12 = 0) : x &&& bitsMask 47 12 = x := by
  have hmask : bitsMask 47 12 = (2 ^ 36 - 1) <<< 12 := by decide
  have hx : x = (x / 2 ^ 12) <<< 12 := by
    rw [Nat.shiftLeft_eq]
    omega
  rw [hmask, hx, ← Nat.shiftLeft_and_distrib, Nat.and_two_pow_sub_one_of_lt_two_pow (by omega)]

/-- A page address written over a page address replaces it. -/
theorem put64_page (a : RegW) (old : W64) (hsize : a.size = 8) (hold : old.toNat < 2 ^ 48) (hold' : old.toNat % 2 ^ 12 = 0)
    (hv : a.val.toNat < 2 ^ 48) (hv' : a.val.toNat % 2 ^ 12 = 0) : put64 a (bitsMask 47 12) old = a.val := by
  have hand (x : W64) (h : x.toNat < 2 ^ 48) (h' : x.toNat % 2 ^ 12 = 0) : x &&& BitVec.ofNat 64 (bitsMask 47 12) = x := by
    apply BitVec.eq_of_toNat_eq
    rw [BitVec.toNat_and, BitVec.toNat_ofNat, Nat.mod_eq_of_lt (by decide), and_bitsMask_page _ h h']
  unfold put64
  extract_lets m
  have hclear : old &&& ~~~m = 0 := by
    rw [← hand old hold hold', BitVec.and_assoc, BitVec.and_not_self]
    simp
  rw [RegW.into64, if_pos hsize, hclear, hand a.val hv hv']
  exact BitVec.zero_or

section
variable (s : State) (r : Req) (a : RegW) (n : Nat) (ho : a.off = oFunc + 0x100 * n) (hn : n < 16)
include ho hn

theorem blockOf_ring : blockOf a.off = .func := by
  rw [ho]
  unfold blockOf oFunc
  rw [if_neg (by omega), if_neg (by omega), if_pos (by omega)]

theorem writeFunc_sqBase : s.writeFunc r a = s.modRing (ringKey r.port r.func n) fun x =>
    { x with sqBase := put64 { a with off := 0 } (bitsMask 47 12) x.sqBase } := by
  have hoff : a.off - oFunc = 0x100 * n := by omega
  unfold State.writeFunc
  extract_lets o b k
  have hzero : o % 0x100 = 0 := by rw [show o = 0x100 * n from hoff, Nat.mul_mod_right]
  have hring : o / 0x100 = n := by rw [show o = 0x100 * n from hoff, Nat.mul_div_cancel_left n (by decide)]
  have hlow : o < 0x1000 := by rw [show o = 0x100 * n from hoff]; omega
  have hb : b = { a with off := 0 } := by rw [← hzero]
  have hk : k = ringKey r.port r.func n := by rw [← hring]
  rw [if_pos hlow, if_pos (by simp [hb, RegW.at64]), hb, hk]

end

/-! ### PWR_LIMIT (R518) -/

theorem writeModule_limit (s : State) (a : RegW) (ho : a.off = 0x40008) (hfull : s.variant = .full) (x : Nat) (hx : a.lo.toNat = x) :
    s.writeModule a =
      { s with pwr := { s.pwr with designW := max 500 (min 4200 (x % 2 ^ 16)), peakW := max 500 (min 4800 (x / 2 ^ 16)) } } := by
  unfold State.writeModule
  rw [if_neg (by rw [ho]; decide), if_neg (by rw [RegW.at64, ho]; decide), if_neg (by rw [RegW.at64, ho]; decide),
    if_neg (by rw [ho]; decide), if_neg (by rw [RegW.at64, ho]; decide), if_neg (by rw [RegW.at64, ho]; decide), if_pos ho,
    hfull, hx]
  rfl

/-! ### The three writes as commands -/

section
variable (s : State) (r : Req) (a : RegW) (hlive : s.live = true) (hacc : s.mayAccess r (blockOf a.off) = true) (v : W64)
include hlive hacc

/-- A write of BEA_LEN updates its ward: not at all where it is refused, else by a new length. -/
theorem execRegisterWrite_beaLen (w : Nat) (ha : a = { off := 0x1000000 + 0x100000 * w + oBeaLen, size := 4, val := v }) (hw : w < 8)
    (hv : v.toNat < 2 ^ 13) : ∃ f, execRegisterWrite r a s = .next (s.modWard w f) ∧
      (∀ y : Ward, y.running = true ∨ v.toNat < 16 ∨ 4096 < v.toNat → f y = y) ∧
      ∀ y : Ward, y.running = false → 16 ≤ v.toNat → v.toNat ≤ 4096 → f y =
        if y.hasBeat then { y with newLen := some (BitVec.ofNat 13 v.toNat) } else { (y.setReg oBeaLen v) with newLen := none } := by
  have hoff : a.off = 0x1000000 + 0x100000 * w + oBeaLen := by rw [ha]
  have hlegal : a.legal = true := by
    refine legal_word (by rw [ha]) ?_
    rw [hoff]
    unfold oBeaLen
    omega
  have hb : blockOf a.off = .ward w := by rw [hoff]; exact blockOf_ward w _ hw (by decide)
  have hlo : ({ a with off := (a.off - 0x1000000) % 0x100000 } : RegW).off = oBeaLen := by
    rw [hoff]
    exact wardOffset w _ (by decide)
  have hval : ({ a with off := (a.off - 0x1000000) % 0x100000 } : RegW).lo.toNat % 2 ^ 13 = v.toNat := by
    rw [ha]
    simp only [RegW.lo, BitVec.toNat_setWidth]
    omega
  have hv64 : BitVec.ofNat 64 v.toNat = v := by rw [BitVec.ofNat_toNat, BitVec.setWidth_eq]
  refine ⟨_, execRegisterWrite_ward s r a hlive hacc hlegal w hb, fun y h => Ward.write_beaLen_kept y _ _ hlo hval h,
    fun y hrun h16 h4096 => ?_⟩
  rw [Ward.write_beaLen_taken y _ _ hlo hval hrun h16 h4096, hv64]

theorem execRegisterWrite_sqBase (n : Nat) (ha : a = { off := oFunc + 0x100 * n, size := 8, val := v }) (hn : n < 16)
    (hown : s.hasBlock r = true) : execRegisterWrite r a s = .next (s.modRing (ringKey r.port r.func n) fun x =>
      { x with sqBase := put64 { a with off := 0 } (bitsMask 47 12) x.sqBase }) := by
  have hoff : a.off = oFunc + 0x100 * n := by rw [ha]
  have hlegal : a.legal = true := by
    refine legal_long (by rw [ha]) ?_
    rw [hoff]
    unfold oFunc
    omega
  rw [execRegisterWrite_func s r a hlive hacc hlegal (blockOf_ring a n hoff hn) hown, writeFunc_sqBase s r a n hoff hn]

theorem execRegisterWrite_limit (ha : a = { off := 0x40008, size := 4, val := v }) (hfull : s.variant = .full) (hv : v.toNat < 2 ^ 32) :
    execRegisterWrite r a s = .next { s with pwr := { s.pwr with
      designW := max 500 (min 4200 (v.toNat % 2 ^ 16)), peakW := max 500 (min 4800 (v.toNat / 2 ^ 16)) } } := by
  have hoff : a.off = 0x40008 := by rw [ha]
  have hlegal : a.legal = true := legal_word (by rw [ha]) (by rw [hoff])
  have hval : a.lo.toNat = v.toNat := by
    rw [ha]
    simp only [RegW.lo, BitVec.toNat_setWidth]
    omega
  rw [execRegisterWrite_module s r a hlive hacc hlegal (blockOf_module (by rw [hoff]; decide)), writeModule_limit s a hoff hfull _ hval]

end

end Sys2Proof.Machine
end

section
/-! Supply, power, temperature and registers: the obligation, from the lemmas above. -/

namespace Sys2Proof.Machine
open Sys2Proof

/-- Settles O60: samples and ticks by the supply, power and thermal steps, ordered stops by what `quiet` sees of them, and register
accesses by the block that they reach. The mean of fewer than eight samples and the clamp above 60 V, how an ordered stop ends the
jobs and where it leaves the module, and what a read returns are the model's choices (log 144, 147 and 155). -/
theorem powerClocksAndRegisters : Obligations.PowerClocksAndRegisters := by
  refine ⟨fun s v xs hxs => ?_, supplyStep_mul, fun s a b ds h fast low hfast hlow => ?_, fun s ds inl out ten hot cool hhot hcool => ?_,
    fun s d => ?_, fun s r a hlive => ?_⟩
  · subst hxs
    refine ⟨execSupplySample_off s v, fun h => ?_⟩
    obtain ⟨t, es, ec, sags, clamps, hexec, ht⟩ := execSupplySample_measures s v h
    simp only [State.powered, Prod.mk.injEq] at ht
    obtain ⟨hp, hw, hti, hl⟩ := ht
    refine ⟨t, hexec, ?_⟩
    beta_reduce
    rw [hp, Pwr.clock_eq]
    exact ⟨rfl, rfl, decide_eq_true_iff, decide_eq_true_iff, rfl, rfl, rfl, rfl, rfl, hw, hti, hl⟩
  · refine ⟨execPowerLimitTick_off s a b ds h, fun hlive hlo hhi => ?_⟩
    obtain ⟨t, hexec, hpin, hpower, hn, hw, hti⟩ := execPowerLimitTick_spec s a b ds h hlive
    rw [show s.powerOver a ds = fast from hfast.symm, show s.powerLow a b ds = low from hlow.symm] at hpower
    refine ⟨t, hexec, hpin, ?_, hn, hw, hti⟩
    have hstep := powerStep_within s.pwr.nPower fast h (s.pwr.designW < b) low hlo hhi
    simp only [decide_eq_true_eq] at hstep
    rw [hpower, hstep]
  · refine ⟨execThermalTick_off s ds inl out ten, fun hm => ?_⟩
    obtain ⟨t, hexec, htemps, hw, hti, hn⟩ := execThermalTick_spec s ds inl out ten hm
    rw [show s.hot ds = hot from hhot.symm, show s.cool ds = cool from hcool.symm] at hn
    have hdie := readings_die s ds inl out
    have hinlet := readings_inlet s ds inl out
    have houtlet := readings_outlet s ds inl out
    rw [← htemps] at hdie hinlet houtlet
    refine ⟨t, hexec, hdie, hinlet, houtlet, hw, hti, fun hlive hlo hhi hout => ⟨fun h => ?_, fun h h' hc ho => ?_, fun h h' => ?_⟩,
      fun hlive h => ?_⟩
    · rw [hn hlive, h, thermalStep_hot _ _ _ _ _ hout hlo]
    · rw [hn hlive, h, h', hc, thermalStep_cool _ _ _ hout hhi ho]
    · rw [hn hlive, h, thermalStep_keep _ _ _ _ _ hout h']
    · rw [hn hlive]
      exact thermalStep_outlet _ _ _ _ _ _ h
  · intro stopped
    refine ⟨fun h => if_neg ?_, fun h h' => ⟨_, if_pos ⟨h, h'⟩, State.orderedStop_spec s _ _ _ _ rfl⟩,
      fun h => if_neg ?_, fun h h' => ⟨_, if_pos ⟨h, h'⟩, State.orderedStop_spec s _ _ _ _ rfl⟩,
      fun h => if_neg ?_, fun h hd h' => ⟨_, if_pos ⟨h, List.contains_iff_mem.mpr hd, h'⟩, State.orderedStop_spec s _ _ _ _ rfl⟩,
      fun h => if_neg ?_, fun h h' => ⟨_, if_pos ⟨h, h'⟩, State.orderedStop_spec s _ _ _ _ rfl⟩, rfl⟩
    · rintro ⟨hl, ht⟩
      simp [hl, ht] at h
    · rintro ⟨hl, hc⟩
      simp [hl, hc] at h
    · rintro ⟨hl, hd, ht⟩
      rw [List.contains_iff_mem] at hd
      simp [hl, hd, not_lt.mpr ht] at h
    · rintro ⟨hl, ht⟩
      simp [hl, not_lt.mpr ht] at h
  · refine ⟨execRegisterWrite_refused s r a hlive, fun h => execRegisterReadRefused_refused s r hlive _ ((readRefused_iff s r _).mpr h),
      fun hf u z huz => ?_, fun hf d hd => ?_, fun hf _ hsize => regRead_id s r hlive hf hsize, fun hacc =>
        ⟨fun hin => if_neg ?_, execRegisterWrite_nothing s r a hlive hacc, fun w hlegal hb => ?_, fun w v ha hw hv => ?_,
          fun n v ha hn hown => ?_, fun v ha hfull hv => ?_⟩⟩
    · have hcaps (v : Variant) (hv : s.variant = v) (hu : capUnits v = u.toNat) (hu' : u.toNat < 2 ^ 32) (hz : capSize v = z.toNat) :=
        regRead_caps s u z (hv ▸ hu) hu' (hv ▸ hz) r hlive hf
      cases hvar : s.variant <;> rw [hvar, Prod.mk.injEq] at huz <;> obtain ⟨rfl, rfl⟩ := huz
      · exact hcaps _ hvar (by decide) (by decide) (by decide)
      · exact hcaps _ hvar (by decide) (by decide) (by decide)
      · exact hcaps _ hvar (by decide) (by decide) (by decide)
    · rw [regRead_dieWard s r hlive hf d hd]
      cases s.wardOfDie d <;> rfl
    · rintro ⟨-, hread⟩
      rcases (readRefused_iff s r _).mp hread with h | h
      · exact Bool.noConfusion (h.symm.trans hacc)
      · exact Bool.noConfusion (hin.symm.trans h.1)
    · exact ⟨_, execRegisterWrite_ward s r a hlive hacc hlegal w hb, State.modWard_only s w _⟩
    · obtain ⟨f, hwrite, hkept, htaken⟩ := execRegisterWrite_beaLen s r a hlive hacc v w ha hw hv
      exact ⟨fun h => ⟨_, hwrite, OnlyWard.modWard s w f _ (hkept _ h)⟩, fun hrun h16 h4096 =>
        ⟨_, hwrite, OnlyWard.modWard s w f _ (htaken _ hrun h16 h4096)⟩⟩
    · have hval : a.val = v := by rw [ha]
      refine ⟨_, execRegisterWrite_sqBase s r a hlive hacc v n ha hn hown, _, State.modRing_only s _ _, rfl, fun hv hv' hold hold' => ?_⟩
      rw [← hval] at hv hv' ⊢
      exact put64_page _ _ (by rw [ha]) hold hold' hv hv'
    · exact ⟨_, execRegisterWrite_limit s r a hlive hacc v ha hfull hv, rfl⟩

end Sys2Proof.Machine
end

section
/-! One step: the front command on the queue's rest, memory's form, and that every command answers a next state. -/

namespace Sys2Proof.Machine
open Sys2Proof

/-- Settles O1: by the definition of `step`. That an empty queue leaves the state is the model's choice (log entry 1). -/
theorem stepRunsFrontCommand : Obligations.StepRunsFrontCommand :=
  ⟨fun _ _ _ => rfl, fun _ => rfl⟩

/-- Settles O2: every command's meaning keeps the canonical form (`exec_kept`), and a step is one command's meaning. -/
theorem memoryFormKeptByEveryStep : Obligations.MemoryFormKeptByEveryStep :=
  fun s t hm hs => (step_kept s t hm hs).mem

/-! ### Every meaning answers a next state: first those with many branches -/

theorem execPromotion_next (t : Nat) (e : CellErr) (s : State) : ∃ u, execPromotion t e s = .next u := by
  unfold execPromotion
  dsimp only
  repeat' split
  all_goals exact ⟨_, rfl⟩

theorem execDmaDescriptorFetch_next (c : Nat) (seen : List (Nat × Byte)) (s : State) : ∃ u, execDmaDescriptorFetch c seen s = .next u := by
  unfold execDmaDescriptorFetch
  dsimp only
  repeat' split
  all_goals exact ⟨_, rfl⟩

theorem execDmaDescriptorComplete_next (c : Nat) (seen : List (Nat × Byte)) (reports : List HbmRep) (s : State) :
    ∃ u, execDmaDescriptorComplete c seen reports s = .next u := by
  unfold execDmaDescriptorComplete
  dsimp only
  repeat' split
  all_goals exact ⟨_, rfl⟩

theorem execPassTwoComplete_next (w c : Nat) (s : State) : ∃ u, execPassTwoComplete w c s = .next u := by
  unfold execPassTwoComplete
  dsimp only
  repeat' split
  all_goals exact ⟨_, rfl⟩

theorem execDigestExchange_next (w c : Nat) (x : DigestIn) (s : State) : ∃ u, execDigestExchange w c x s = .next u := by
  unfold execDigestExchange
  dsimp only
  repeat' split
  all_goals exact ⟨_, rfl⟩

theorem execPatrolRead_next (w : Nat) (rep : HbmRep) (s : State) : ∃ u, execPatrolRead w rep s = .next u := by
  unfold execPatrolRead
  dsimp only
  repeat' split
  all_goals exact ⟨_, rfl⟩

theorem execSupplySample_next (v : Nat) (s : State) : ∃ t, execSupplySample v s = .next t := by
  cases h : s.measures with
  | false => exact ⟨_, execSupplySample_off s v h⟩
  | true =>
    obtain ⟨t, _, _, _, _, ht, -⟩ := execSupplySample_measures s v h
    exact ⟨t, ht⟩

theorem execPowerLimitTick_next (a b : Nat) (ds : Tab Nat) (hundred : Bool) (s : State) :
    ∃ t, execPowerLimitTick a b ds hundred s = .next t := by
  cases h : s.live with
  | false => exact ⟨_, execPowerLimitTick_off s a b ds hundred h⟩
  | true =>
    obtain ⟨t, ht, -⟩ := execPowerLimitTick_spec s a b ds hundred h
    exact ⟨t, ht⟩

theorem execThermalTick_next (ds : Tab Int) (inl out : Int) (ten : Bool) (s : State) : ∃ t, execThermalTick ds inl out ten s = .next t := by
  cases h : s.measures with
  | false => exact ⟨_, execThermalTick_off s ds inl out ten h⟩
  | true =>
    obtain ⟨t, ht, -⟩ := execThermalTick_spec s ds inl out ten h
    exact ⟨t, ht⟩

theorem State.chanTimeout_next (s : State) (c : Nat) (va : Addr) (k : LocKind) (seen : List (Nat × Byte)) :
    ∃ t, s.chanTimeout c va k seen = .next t := by
  unfold State.chanTimeout execDmaAccessError
  repeat' split
  all_goals exact ⟨_, rfl⟩

/-- Every branch of every meaning is a next state. -/
theorem exec_next (c : Instr) (s : State) : ∃ t, exec c s = .next t := by
  cases c with
  | promotion t e => exact execPromotion_next t e s
  | dmaDescriptorFetch c seen => exact execDmaDescriptorFetch_next c seen s
  | dmaDescriptorComplete c seen reports => exact execDmaDescriptorComplete_next c seen reports s
  | passTwoComplete w c => exact execPassTwoComplete_next w c s
  | digestExchange w c x => exact execDigestExchange_next w c x s
  | patrolRead w rep => exact execPatrolRead_next w rep s
  | supplySample v => exact execSupplySample_next v s
  | powerLimitTick a b ds hundred => exact execPowerLimitTick_next a b ds hundred s
  | thermalTick ds inl out ten => exact execThermalTick_next ds inl out ten s
  | peerTimeout u x =>
    cases u with
    | chan c => exact s.chanTimeout_next c x.va .peer x.seen
    | dev d | reader w => exact ⟨_, rfl⟩
  | hostCompletionTimeout u x =>
    cases u with
    | chan c => exact s.chanTimeout_next c x.va .host x.seen
    | dev d | reader w => exact ⟨_, rfl⟩
  | latch | swap | pass | passt | proofRunStart | wzero | wzeroComplete | drain | chain | kick | tag | tagClearComplete | stat | beat
    | fence | sig | waitf | loop | endl | jmp | halt | seta | adda | setk | wardEnable | wardDisable | wardReset | jobStart | jobEnd | map
    | unmap | register | withdraw | claim | unclaim | submit | cancel | prepare | switch | distribute | distributeTimeout | trainStart
    | trainStop | rollback | takeover | rollcallClear | linkRetrain | journalRead | keyAlloc | keyRetire | keyShare | attest | ownerSet
    | certRead | ideKey | railSwitchOff | spillReadComplete | controllerMemoryError =>
    exact ⟨_, rfl⟩
  | latchComplete | passStreamStart | proofVerdict | drainComplete | chainProgramStart | chainRow | chainProgramComplete | statComplete
    | flagArrive | waitfWake | beatStepPoint | masterDecide | verdictApply | markerLost | beatBoundary | dmaStart | dmaAccessError
    | squashComplete | develop | quant | move | encode | devOperationComplete | statSnapRequest | statSnapshotComplete | wardScrubComplete
    | shardArrive | endOfPass | shardRequest | updStep | gradientReductionComplete | passOneComplete | vote | rehashComplete
    | checkpointCopyComplete | rollbackRestoreComplete | peerCheckpointArrive | armTimeout | linkTrained | linkTrainRetry
    | laneAlignmentLoss | linkRetrainComplete | flitData | flitReadReq | flitResp | flitReduce | flitMcast | flitIdle | sessionRekey
    | markerReady | markerBoundary | markerHold | markerStart | relayedCommand | relayCompletion | relayTimeout | tko | tkoAck | tkoDone
    | tkoAckTimeout | lossTimeout | rollcallSend | rollcallRecord | stopMarker | illegalCommand | sqTailWrite | cqHeadWrite | ringCtlWrite
    | msixUnmask | vfFlr | flrDrainTimeout | pf0Flr | perst | accountingSecond | seqPeekIdx | updPeekCtx | secSlotPeekIdx | safRingIdx
    | keyRetireComplete | quarantineExpire | heartbeat | watchdogExpire | patrolCycle | safelightSend | collectorAck | resendTimer
    | aliveExpire | pcsSyncLoss | pcsSync | entdaa | setEndpointId | getEndpointId | getMessageTypeSupport | pldmSensorRead
    | readCompactRecords | readStatusRegisters | powerOn | bootFailResend | resetNAssert | resetNRelease | flashWrite | flashWriteComplete
    | stopTimerExpire | overvoltageTimeout | dieOvertemp | outletOvertemp | autoReset | registerWrite | registerReadRefused | pcieLinkDown
    | pcieLinkUp | perstRelease | busMasterEnableWrite | arpRequest | neighbourSolicitation | icmpEcho | recordEventEnable
    | attestationSigned | ownerRecordWritten =>
    dsimp only [exec, execLatchComplete, execPassStreamStart, execProofVerdict, execDrainComplete, execChainProgramStart, execChainRow,
      execChainProgramComplete, execStatComplete, execFlagArrive, execWaitfWake, execBeatStepPoint, execMasterDecide, execVerdictApply,
      execMarkerLost, execBeatBoundary, execDmaStart, execDmaAccessError, execSquashComplete, execDevelop, execQuant, execMove,
      execEncode, execDevOperationComplete, execStatSnapRequest, execStatSnapshotComplete, execWardScrubComplete, execShardArrive,
      execEndOfPass, execShardRequest, execUpdStep, execGradientReductionComplete, execPassOneComplete, execVote, execRehashComplete,
      execCheckpointCopyComplete, execRollbackRestoreComplete, execPeerCheckpointArrive, execArmTimeout, execLinkTrained,
      execLinkTrainRetry, execLaneAlignmentLoss, execLinkRetrainComplete, execFlitData, execFlitReadReq, execFlitResp, execFlitReduce,
      execFlitMcast, execFlitIdle, execSessionRekey, execMarkerReady, execMarkerBoundary, execMarkerHold, execMarkerStart,
      execRelayedCommand, execRelayCompletion, execRelayTimeout, execTko, execTkoAck, execTkoDone, execTkoAckTimeout, execLossTimeout,
      execRollcallSend, execRollcallRecord, execStopMarker, execIllegalCommand, execSqTailWrite, execCqHeadWrite, execRingCtlWrite,
      execMsixUnmask, execVfFlr, execFlrDrainTimeout, execPf0Flr, execPerst, execAccountingSecond, execSeqPeekIdx, execUpdPeekCtx,
      execSecSlotPeekIdx, execSafRingIdx, execKeyRetireComplete, execQuarantineExpire, execHeartbeat, execWatchdogExpire,
      execPatrolCycle, execSafelightSend, execCollectorAck, execResendTimer, execAliveExpire, execPcsSyncLoss, execPcsSync, execEntdaa,
      execSetEndpointId, execGetEndpointId, execGetMessageTypeSupport, execPldmSensorRead, execReadCompactRecords,
      execReadStatusRegisters, execPowerOn, execBootFailResend, execResetNAssert, execResetNRelease, execFlashWrite,
      execFlashWriteComplete, execStopTimerExpire, execOvervoltageTimeout, execDieOvertemp, execOutletOvertemp, execAutoReset,
      execRegisterWrite, execRegisterReadRefused, execPcieLinkDown, execPcieLinkUp, execPerstRelease, execBusMasterEnableWrite,
      execArpRequest, execNeighbourSolicitation, execIcmpEcho, execRecordEventEnable, execAttestationSigned, execOwnerRecordWritten]
    repeat' split
    all_goals exact ⟨_, rfl⟩

theorem State.runs_always (n : Nat) (s : State) : s.runs n = true := by
  induction n generalizing s with
  | zero => rfl
  | succ n ih =>
    have hstep : ∃ t, step s = .next t := by
      unfold step
      split
      · exact ⟨_, rfl⟩
      · exact exec_next _ _
    obtain ⟨t, ht⟩ := hstep
    rw [State.runs, ht]
    exact ih t

/-- Settles O4: every command's meaning answers a next state, so no run stops. That a command without its cause leaves the state as
it is, where the spec names no effect, is the model's choice (log entries 1 and 2). -/
theorem nothingStopsTheModule : Obligations.NothingStopsTheModule :=
  ⟨exec_next, State.runs_always⟩

end Sys2Proof.Machine
end

section
/-! How a command comes from its ring (R423 to R435): fetched or not, numbered, journalled, refused, relayed or held. -/

namespace Sys2Proof.Machine
open Sys2Proof

/-- Each of the 30 ring commands is taken from its ring; they differ in what they then do. -/
theorem exec_ringOf {c : Instr} {x : Src} {op : HostOp} (h : ringOf c = some (x, op)) (s : State) :
    ∃ f, exec c s = .next (s.command x op f) := by
  unfold ringOf at h
  split at h
  case h_31 => cases h
  all_goals
    cases h
    exact ⟨_, rfl⟩

/-! ### Before the fetch, and the four ways to go on -/

section
variable {s : State} {x : Src} {op : HostOp} (f : OpCtx → State → State)

theorem State.command_error (hfetch : s.canFetch (srcKey x) = true) (hissue : s.canIssue x.port x.func = false) :
    s.command x op f = s.ringError (srcKey x) 1 := by
  simp [State.command, hfetch, hissue]

variable (hfetch : s.canFetch (srcKey x) = true) (hissue : s.canIssue x.port x.func = true)
include hfetch hissue

theorem State.command_illegal (hlegal : cmdLegal x op = false) :
    s.command x op f = (s.taken x op).complete s.jrnNext .protection := by
  simp [State.command, hfetch, hissue, hlegal, State.taken, State.cmdWard]

theorem State.command_away (hlegal : cmdLegal x op = true) (haway : s.goesAway x = true) :
    s.command x op f = (s.taken x op).sendRelay s.jrnNext x.dest (cmdBytes x op) := by
  unfold State.goesAway at haway
  simp [State.command, hfetch, hissue, hlegal, haway, State.taken, State.cmdWard, State.goesAway]

theorem State.command_held (hlegal : cmdLegal x op = true) (hstays : s.goesAway x = false)
    (hheld : s.holds (s.cmdWard x op) op = true) :
    s.command x op f = (s.taken x op).holdOp (s.ctxOf x op) op s.linkAddr s.jrnNext (cmdBytes x op) := by
  have hheld' : (s.taken x op).holds (s.cmdWard x op) op = true := hheld
  unfold State.goesAway at hstays
  simp only [State.taken, State.goesAway, State.cmdWard, hlegal, hstays, Bool.true_and, Bool.false_eq_true, if_false] at hheld' ⊢
  simp [State.command, State.ctxOf, State.cmdWard, hfetch, hissue, hlegal, hstays, hheld']
  rfl

end

/-! ### What the fetch changes -/

section
variable (s : State) (x : Src) (op : HostOp)

theorem State.taken_frame : s.taken x op =
    { s with rings := (s.taken x op).rings, journal := (s.taken x op).journal, jrnNext := s.jrnNext + 1, opens := (s.taken x op).opens } :=
  rfl

/-- The ring once its next command is fetched. -/
def Ring.fetched (r : Ring) : Ring := { r with sqHead := BitVec.ofNat 16 ((r.sqHead.toNat + 1) % 2 ^ r.sqLog) }

theorem State.taken_ring_same : (s.taken x op).ring (srcKey x) = (s.ring (srcKey x)).fetched :=
  State.modRing_ring_same s (srcKey x) Ring.fetched

theorem State.taken_ring_other (k : Nat) (h : k ≠ srcKey x) : (s.taken x op).ring k = s.ring k :=
  State.modRing_ring_other s (srcKey x) Ring.fetched k h

/-- The journal record of a command as it is fetched (R434). -/
def State.cmdRecord (s : State) (x : Src) (op : HostOp) : JRec :=
  { seq := s.jrnNext, beat := s.stamp (s.cmdWard x op), digest := digest16 (cmdBytes x op), port := x.port, func := x.func, ring := x.ring,
    ward := s.cmdWard x op, opc := BitVec.ofNat 8 op.opc, st := if cmdLegal x op && s.goesAway x then 2 else 0, tag := x.tag }

theorem State.taken_journal : (s.taken x op).journal = s.journal.set ((s.jrnNext - 1) % jrnSize) (s.cmdRecord x op) := rfl

theorem State.taken_opens (j : Nat) : (s.taken x op).opens.get j = if j = s.jrnNext then
    some { ring := srcKey x, tag := x.tag, ward := if cmdLegal x op && s.goesAway x then 0xFF else s.cmdWard x op }
    else s.opens.get j := by
  have hst : ((if (cmdLegal x op && s.goesAway x) = true then 2 else 0) = 2) ↔ (cmdLegal x op && s.goesAway x) = true := by
    split <;> simp [*]
  refine (Tab.get_set s.opens s.jrnNext j _).trans ?_
  simp only [hst]

end

/-- Settles O23: the branches of `State.command`, which every ring command goes through, and what its fetch changes. That a held
command keeps its place before later ones of its ward is the model's choice (log entries 94 and 178). -/
theorem ringCommandsAreNumberedAndJournalled : Obligations.RingCommandsAreNumberedAndJournalled := by
  refine ⟨fun s c x op hring => ?_, fun s a x op _ ha => ?_⟩
  · obtain ⟨f, hexec⟩ := exec_ringOf hring s
    rw [hexec]
    refine ⟨fun hfetch => ?_, fun hfetch hissue => ?_, fun hfetch hissue => ⟨fun hlegal => ?_, fun hlegal haway => ?_,
      fun hlegal hstays hheld => ?_⟩⟩
    · rw [State.command_idle s x op f hfetch]
    · rw [State.command_error f hfetch hissue]
    · rw [State.command_illegal f hfetch hissue hlegal]
    · rw [State.command_away f hfetch hissue hlegal haway]
    · rw [State.command_held f hfetch hissue hlegal hstays hheld]
  · subst ha
    have hrecord : (s.taken x op).jrnGet s.jrnNext = s.cmdRecord x op := by
      unfold State.jrnGet
      rw [State.taken_journal, Tab.get_set_same]
    refine ⟨s.taken_frame x op, s.taken_ring_other x op, s.taken_ring_same x op, ?_, fun n hn => ?_, s.taken_opens x op⟩
    · rw [hrecord]
      exact ⟨rfl, rfl, rfl, rfl, rfl, rfl, rfl, rfl, rfl⟩
    · rw [State.taken_journal, Tab.get_set_other _ _ _ _ hn]

end Sys2Proof.Machine
end

section
/-! Sparse tables: which keys are listed, and updates that agree. The units a write of a ward's tables leaves alone. -/

namespace Sys2Proof

section
variable {β : Type} [DecidableEq β]

theorem Tab.getD_of_mem (d : β) (t : Tab β) (lo : Option Nat) (h : Tab.wfFrom d lo t = true) {k : Nat} {v : β} (hm : (k, v) ∈ t) :
    Tab.getD d t k = v ∧ ∀ a, lo = some a → a < k := by
  induction t generalizing lo with
  | nil => cases hm
  | cons e r ih =>
    obtain ⟨j, w⟩ := e
    rw [Tab.wfFrom_cons] at h
    obtain ⟨hlo, -, hr⟩ := h
    rcases List.mem_cons.mp hm with heq | hm
    · cases heq
      exact ⟨by simp [Tab.getD], hlo⟩
    · obtain ⟨hget, hbelow⟩ := ih (some j) hr hm
      have hjk : j < k := hbelow j rfl
      refine ⟨?_, fun a ha => (hlo a ha).trans hjk⟩
      rw [Tab.getD, if_neg (by omega), if_neg (by omega), hget]

omit [DecidableEq β] in
theorem Tab.mem_of_getD_ne (d : β) (t : Tab β) {k : Nat} (h : Tab.getD d t k ≠ d) : (k, Tab.getD d t k) ∈ t := by
  induction t with
  | nil => exact absurd rfl h
  | cons e r ih =>
    obtain ⟨j, w⟩ := e
    unfold Tab.getD at h ⊢
    split
    · rename_i hj
      subst hj
      exact List.mem_cons_self
    · rename_i hj
      rw [if_neg hj] at h
      split
      · rename_i hk
        rw [if_pos hk] at h
        exact absurd rfl h
      · rename_i hk
        rw [if_neg hk] at h
        exact List.mem_cons_of_mem _ (ih h)

variable [Inhabited β]

/-- In canonical form the entries listed that `p` picks are those whose value it picks, where it does not pick the default. -/
theorem Tab.mem_filter_keys (t : Tab β) (h : Tab.wf default t = true) (p : β → Bool) (hp : p default = false) (k : Nat) :
    k ∈ (t.filter fun e => p e.2).map (·.1) ↔ p (t.get k) = true := by
  simp only [List.mem_map, List.mem_filter]
  constructor
  · rintro ⟨⟨j, v⟩, ⟨hm, hv⟩, rfl⟩
    obtain ⟨hget, -⟩ := Tab.getD_of_mem default t none h hm
    exact hget.symm ▸ hv
  · intro hv
    have hne : Tab.getD default t k ≠ default := fun he => by
      rw [Tab.get, he, hp] at hv
      exact Bool.noConfusion hv
    exact ⟨(k, _), ⟨Tab.mem_of_getD_ne default t hne, hv⟩, rfl⟩

theorem Tab.modify_congr (t : Tab β) (i : Nat) {f g : β → β} (h : f (t.get i) = g (t.get i)) : t.modify i f = t.modify i g :=
  congrArg (t.set i) h

/-- One update at each key of a list, where doing it twice is doing it once. -/
theorem Tab.get_foldl_modify (f : β → β) (hf : ∀ v, f (f v) = f v) (ks : List Nat) (t : Tab β) (k : Nat) :
    (ks.foldl (fun t j => t.modify j f) t).get k = if k ∈ ks then f (t.get k) else t.get k := by
  induction ks generalizing t with
  | nil => rfl
  | cons j ks ih =>
    rw [List.foldl_cons, ih, Tab.get_modify]
    by_cases hj : k = j
    · subst hj
      simp [hf]
    · simp [hj]

end

end Sys2Proof

namespace Sys2Proof.Machine
open Sys2Proof

theorem State.modWard_congr (s : State) (w : Nat) {f g : Ward → Ward} (h : f (s.ward w) = g (s.ward w)) : s.modWard w f = s.modWard w g :=
  congrArg (fun t : Tab Ward => { s with wards := t }) (Tab.modify_congr s.wards w h)

theorem State.modChan_congr (s : State) (c : Nat) {f g : Chan → Chan} (h : f (s.chan c) = g (s.chan c)) : s.modChan c f = s.modChan c g :=
  congrArg (fun t : Tab Chan => { s with chans := t }) (Tab.modify_congr s.chans c h)

/-- What `SameUnits` compares. -/
def State.units (s : State) : Tab Tile × Tab Quad × Tab Chan × Tab Dev × Tab Upd × Tab Slot × Boot × Pwr × Flash × Life :=
  (s.tiles, s.quads, s.chans, s.devs, s.upds, s.slots, s.boot, s.pwr, s.flash, s.life)

theorem SameUnits.of_units {s t : State} (h : t.units = s.units) : SameUnits s t := by
  simpa only [State.units, Prod.mk.injEq, SameUnits] using h

theorem units_of_offStack {s t : State} (h : t.offStack = s.offStack) : t.units = s.units :=
  congrArg State.units (a₁ := t.offStack) (a₂ := s.offStack) h

/-- Ward `v` but for the note of an error in its tables. -/
def State.wardBut (v : Nat) (s : State) : Ward := { s.ward v with structBad := false }

theorem wardBut_of_offStack {v : Nat} {s t : State} (h : t.offStack = s.offStack) : t.wardBut v = s.wardBut v :=
  congrArg (State.wardBut v) (a₁ := t.offStack) (a₂ := s.offStack) h

theorem State.noteBad_wardBut (s : State) (w v : Nat) (b : Bool) : (s.modWard w fun x => { x with structBad := b }).wardBut v = s.wardBut v := by
  unfold State.wardBut
  by_cases h : v = w
  · subst h
    rw [State.modWard_ward_same]
  · rw [State.modWard_ward_other s w _ v h]

/-- The die controllers' own writes keep whatever the stacks and the note of an error do not touch. -/
theorem State.wrStruct_fixes {β : Type} (g : State → β) (w : Nat) (hstack : ∀ s t : State, t.offStack = s.offStack → g t = g s)
    (hnote : ∀ s : State, g (s.modWard w fun x => { x with structBad := true }) = g s) (s : State) (va : Nat) (bs : List Byte) :
    g (s.wrStruct w va bs) = g s := by
  refine foldl_fixes g _ (fun t e => ?_) _ s
  dsimp only
  split
  · rfl
  · rename_i l _
    have hsec := hstack _ _ (State.writeSec_offStack t (t.slot l.kslot).key l.pa ((bs.drop (e.1 - va)).take e.2) w 0)
    exact ite_fixes g (fun _ => ite_fixes g (fun _ => (hnote _).trans hsec) fun _ => hsec) fun _ => rfl

theorem State.wrStruct_units (s : State) (w va : Nat) (bs : List Byte) : (s.wrStruct w va bs).units = s.units :=
  State.wrStruct_fixes State.units w (fun _ _ => units_of_offStack) (fun _ => rfl) s va bs

theorem State.wrStruct_wardBut (s : State) (w va : Nat) (bs : List Byte) (v : Nat) : (s.wrStruct w va bs).wardBut v = s.wardBut v :=
  State.wrStruct_fixes (State.wardBut v) w (fun _ _ => wardBut_of_offStack) (fun t => t.noteBad_wardBut w v true) s va bs

theorem State.wrStruct_ward_other (s : State) (w va : Nat) (bs : List Byte) (v : Nat) (h : v ≠ w) :
    (s.wrStruct w va bs).ward v = s.ward v := by
  have htables := congrFun (congrArg (·.2.1) (State.wrStruct_offTables s w va bs)) v
  simpa only [State.offTables, if_neg h] using htables

/-! ### A write of the block map -/

theorem State.setBlk_units (s : State) (w b : Nat) (f : Blk → Blk) : (s.setBlk w b f).units = s.units :=
  State.wrStruct_units _ w _ _

theorem State.setBlk_ward_other (s : State) (w b : Nat) (f : Blk → Blk) (v : Nat) (h : v ≠ w) : (s.setBlk w b f).ward v = s.ward v :=
  (State.wrStruct_ward_other _ w _ _ v h).trans (State.modWard_ward_other s w _ v h)

theorem State.setBlk_wardBut (s : State) (w b : Nat) (f : Blk → Blk) : (s.setBlk w b f).wardBut w =
    { s.ward w with blocks := (s.ward w).blocks.modify b f, structBad := false } := by
  refine (State.wrStruct_wardBut _ w _ _ w).trans ?_
  unfold State.wardBut
  rw [State.modWard_ward_same]

theorem State.setBlk_blocks (s : State) (w b : Nat) (f : Blk → Blk) : ((s.setBlk w b f).ward w).blocks = (s.ward w).blocks.modify b f :=
  congrArg Ward.blocks (State.setBlk_wardBut s w b f)

/-! ### A write of the registry -/

theorem State.setReg_units (s : State) (w c : Nat) (f : RegEnt → RegEnt) : (s.setReg w c f).units = s.units :=
  State.wrStruct_units _ w _ _

theorem State.setReg_ward_other (s : State) (w c : Nat) (f : RegEnt → RegEnt) (v : Nat) (h : v ≠ w) : (s.setReg w c f).ward v = s.ward v :=
  (State.wrStruct_ward_other _ w _ _ v h).trans (State.modWard_ward_other s w _ v h)

theorem State.setReg_wardBut (s : State) (w c : Nat) (f : RegEnt → RegEnt) : (s.setReg w c f).wardBut w =
    { s.ward w with registry := (s.ward w).registry.modify c f, structBad := false } := by
  refine (State.wrStruct_wardBut _ w _ _ w).trans ?_
  unfold State.wardBut
  rw [State.modWard_ward_same]

end Sys2Proof.Machine
end

section
/-! Sequences (R288, R308 to R312, R326): SUBMIT, CANCEL, the spill reads and the peek. -/

namespace Sys2Proof.Machine
open Sys2Proof

/-- A taken command has exactly its effect `t`, where that leaves no error of its ward's tables behind. -/
theorem State.command_to {s t : State} {x : Src} {op : HostOp} (f : OpCtx → State → State) (h : s.takesHere x op = true)
    (hscope : op.wardScope = true) (ht : f (s.ctxOf x op) (s.taken x op) = t)
    (hbad : (t.ward (s.ctxOf x op).w).structBad = (s.ward (s.ctxOf x op).w).structBad) : s.command x op f = t := by
  rw [State.ctxOf_w hscope] at hbad
  subst ht
  exact State.command_effect s x op f h (hbad.trans (State.takesHere_good h))

theorem State.setSq_only (s : State) (w i : Nat) (f : Sq → Sq) :
    OnlyWard s (s.setSq w i f) w { s.ward w with seqs := (s.ward w).seqs.modify i f } := State.modWard_only s w _

/-! ### SUBMIT: one equation per answer -/

section
variable (s : State) (x : OpCtx) (i c prompt maxtok : Nat) (cookie out : W64) (b : Option (List Byte))

theorem State.doSubmit_taken (h : s.inRange x.w i = false ∨ ((s.ward x.w).seqs.get i).st ≠ .free) :
    s.doSubmit x i c prompt maxtok cookie out b = s.complete x.jseq .protection := if_pos h

variable (hfree : ¬(s.inRange x.w i = false ∨ ((s.ward x.w).seqs.get i).st ≠ .free))
include hfree

theorem State.doSubmit_unregistered (h : ((s.ward x.w).registry.get c).st ≠ .registered) :
    s.doSubmit x i c prompt maxtok cookie out b = s.complete x.jseq .adapterWithdrawn := by
  unfold State.doSubmit
  rw [if_neg hfree, if_pos h]

variable (hreg : ((s.ward x.w).registry.get c).st = .registered)
include hreg

theorem State.doSubmit_unread : s.doSubmit x i c prompt maxtok cookie out none = s.complete x.jseq .tierFail := by
  unfold State.doSubmit
  rw [if_neg hfree, if_neg (not_not_intro hreg)]

theorem State.doSubmit_queued (bs : List Byte) : s.doSubmit x i c prompt maxtok cookie out (some bs) =
    (s.setSq x.w i fun _ =>
      { st := .queued, ctx := c, maxtok := BitVec.ofNat 32 maxtok, prompt := prompt, submit := s.stamp x.w, cookie := cookie,
        out := out.setWidth 48, job := bs.take 64, ring := x.ring, jseq := x.jseq }).complete x.jseq .ok := by
  unfold State.doSubmit
  rw [if_neg hfree, if_neg (not_not_intro hreg)]

end

/-! ### CANCEL -/

theorem State.doCancel_free (s : State) (x : OpCtx) (i : Nat) (h : s.inRange x.w i = false ∨ ((s.ward x.w).seqs.get i).st = .free) :
    s.doCancel x i = s.complete x.jseq .protection := if_pos h

/-- The first mark stays. -/
theorem State.doCancel_marks (s : State) (x : OpCtx) (i : Nat) (h : ¬(s.inRange x.w i = false ∨ ((s.ward x.w).seqs.get i).st = .free)) :
    s.doCancel x i = (s.setSq x.w i fun q => { q with mark := some (q.mark.getD (.ok, 2)) }).complete x.jseq .ok := by
  have hmark : s.markSeq x.w i .ok 2 false = s.setSq x.w i fun q => { q with mark := some (q.mark.getD (.ok, 2)) } := by
    refine State.modWard_congr s x.w ?_
    have hlive : ((s.ward x.w).seqs.get i).st ≠ .free := fun hf => h (.inr hf)
    rw [Tab.modify_congr (s.ward x.w).seqs i (g := fun q => { q with mark := some (q.mark.getD (.ok, 2)) })
      (by simp only [if_neg hlive, Bool.not_false, Bool.and_true])]
  unfold State.doCancel
  rw [if_neg h, hmark]

/-! ### SPILL_READ_COMPLETE -/

/-- A block whose frames every developer has read. -/
def Blk.wasRead (b : Blk) : Blk := { b with read := true }

/-- With no developer operation waiting, every block that the sequence spills is marked. -/
theorem State.noteRead_idle (s : State) (w i : Nat) (hidle : ∀ d ∈ (s.ward w).dieList, (s.dev d).queue = []) : s.noteRead w i =
    forEach (((s.ward w).blocks.filter fun e => e.2.st = 2 && e.2.seqIdx = i).map (·.1)) s fun s b => s.setBlk w b Blk.wasRead := by
  have hread (o : Nat) : ((s.ward w).dieList.any fun d => (if (s.dev d).ended.isSome then (s.dev d).queue.drop 1 else (s.dev d).queue).any
      fun y => y.ward = w && y.use == .spill i o) = false := by
    rw [List.any_eq_false]
    intro d hd
    rw [hidle d hd]
    simp
  unfold State.noteRead
  simp only [hread, Bool.not_false, Bool.and_true]
  rfl

theorem State.markBlocks_spec (s : State) (w : Nat) (ks : List Nat) :
    (forEach ks s fun s b => s.setBlk w b Blk.wasRead).units = s.units ∧
    (∀ v, v ≠ w → (forEach ks s fun s b => s.setBlk w b Blk.wasRead).ward v = s.ward v) ∧
    ((forEach ks s fun s b => s.setBlk w b Blk.wasRead).ward w).blocks = ks.foldl (fun t b => t.modify b Blk.wasRead) (s.ward w).blocks := by
  refine ⟨forEach_fixes State.units _ (fun t b => t.setBlk_units w b _) ks s,
    fun v hv => forEach_fixes (State.ward · v) _ (fun t b => t.setBlk_ward_other w b _ v hv) ks s, ?_⟩
  unfold forEach
  induction ks generalizing s with
  | nil => rfl
  | cons k ks ih => rw [List.foldl_cons, List.foldl_cons, ih, State.setBlk_blocks]

/-! ### The peek -/

theorem execSeqPeekIdx_refused (s : State) (r : Req) (w : Nat) (v : W32) (hlive : s.live = true) (hw : w < 8) (hown : s.owns r w = false) :
    execSeqPeekIdx r w v s = .next s.refuse := by
  simp [execSeqPeekIdx, hlive, hown, Nat.not_lt.mpr (Nat.le_of_lt_succ hw)]

theorem execSeqPeekIdx_copies (s : State) (r : Req) (w : Nat) (v : W32) (hlive : s.live = true) (hw : w < 8) (hown : s.owns r w = true) :
    execSeqPeekIdx r w v s = .next (s.modWard w fun y => { y with
      peekIdx := v.toNat % 2 ^ 21, peekSeq := if s.inRange w (v.toNat % 2 ^ 21) then (s.ward w).seqBytes (v.toNat % 2 ^ 21)
                                              else List.replicate 128 0 }) := by
  simp [execSeqPeekIdx, hlive, hown, Nat.not_lt.mpr (Nat.le_of_lt_succ hw)]

/-- Settles O30: each answer of SUBMIT and CANCEL by its equation, the spill reads by the blocks that they mark. That the first mark
of a sequence stays is the model's choice; an unreadable job record gives ST_TIER_FAIL (R426). -/
theorem sequencesQueueAndCancel : Obligations.SequencesQueueAndCancel := by
  refine ⟨fun s a src i c prompt maxtok cookie out job b x y k hk hhere ha hx hy => ?_, fun s a src i x y hhere ha hx hy => ?_,
    fun s w i y hy hidle hwf => ?_, fun s r w v hlive hw => ⟨fun hown => execSeqPeekIdx_refused s r w v hlive hw hown, fun hown =>
      ⟨_, execSeqPeekIdx_copies s r w v hlive hw hown, _, _, rfl, rfl, OnlyWard.modWard s w _ _ rfl⟩⟩⟩
  · have hrun (t : State) (ht : a.doSubmit x i c prompt maxtok cookie out b = t)
        (hbad : (t.ward x.w).structBad = (s.ward x.w).structBad) : exec k s = .next t := by
      subst hk ha hx
      exact congrArg Host.Outcome.next (State.command_to _ hhere rfl ht hbad)
    have hward (v : Nat) : a.ward v = s.ward v := ha ▸ rfl
    have hrange : a.inRange x.w i = s.inRange x.w i := ha ▸ rfl
    have hstamp : a.stamp x.w = s.stamp x.w := ha ▸ rfl
    have hring : x.ring = srcKey src := hx ▸ rfl
    have hrefuse (st : St) (ht : a.doSubmit x i c prompt maxtok cookie out b = a.complete x.jseq st) : exec k s = .next (a.complete x.jseq st) :=
      hrun _ ht (by rw [State.complete_ward, hward])
    clear ha hx
    subst hy
    rw [← hrange, ← hward, ← hstamp, ← hring]
    refine ⟨fun h => hrefuse _ (a.doSubmit_taken x i c prompt maxtok cookie out b h), fun hin hfree => ?_⟩
    have hno : ¬(a.inRange x.w i = false ∨ ((a.ward x.w).seqs.get i).st ≠ .free) := by simp [hin, hfree]
    refine ⟨fun h => hrefuse _ (a.doSubmit_unregistered x i c prompt maxtok cookie out b hno h), fun hreg hb => ?_, fun hreg bs hb => ?_⟩
    · subst hb
      exact hrefuse _ (a.doSubmit_unread x i c prompt maxtok cookie out hno hreg)
    · subst hb
      refine ⟨_, hrun _ (a.doSubmit_queued x i c prompt maxtok cookie out hno hreg bs) ?_, _, rfl, a.setSq_only x.w i _⟩
      rw [State.complete_ward, State.setSq, State.modWard_ward_same, ← hward]
  · have hrun (t : State) (ht : a.doCancel x i = t) (hbad : (t.ward x.w).structBad = (s.ward x.w).structBad) :
        exec (.cancel src i) s = .next t := by
      subst ha hx
      exact congrArg Host.Outcome.next (State.command_to _ hhere rfl ht hbad)
    have hward (v : Nat) : a.ward v = s.ward v := ha ▸ rfl
    have hrange : a.inRange x.w i = s.inRange x.w i := ha ▸ rfl
    clear ha hx
    subst hy
    rw [← hrange, ← hward]
    refine ⟨fun h => hrun _ (a.doCancel_free x i h) (by rw [State.complete_ward, hward]), fun hin hlive => ?_⟩
    have hno : ¬(a.inRange x.w i = false ∨ ((a.ward x.w).seqs.get i).st = .free) := by simp [hin, hlive]
    refine ⟨_, hrun _ (a.doCancel_marks x i hno) ?_, _, rfl, a.setSq_only x.w i _⟩
    rw [State.complete_ward, State.setSq, State.modWard_ward_same, ← hward]
  · subst hy
    have hmark := s.markBlocks_spec w (((s.ward w).blocks.filter fun e => e.2.st = 2 && e.2.seqIdx = i).map (·.1))
    rw [← s.noteRead_idle w i hidle] at hmark
    obtain ⟨hunits, hother, hblocks⟩ := hmark
    refine ⟨_, rfl, SameUnits.of_units hunits, hother, fun b => ?_⟩
    have hkeys := Tab.mem_filter_keys (s.ward w).blocks hwf (fun e => e.st = 2 && e.seqIdx = i) rfl b
    rw [Bool.and_eq_true, decide_eq_true_eq, decide_eq_true_eq] at hkeys
    rw [hblocks, Tab.get_foldl_modify Blk.wasRead (fun _ => rfl)]
    simp only [hkeys]
    rfl

end Sys2Proof.Machine
end

section
/-! Accesses by ward virtual address: what a read and a write leave alone, and what translation depends on. -/

namespace Sys2Proof.Machine
open Sys2Proof

/-! ### Reads -/

theorem State.readVa_offStack (s : State) (w c va n : Nat) (un : List Nat) : (s.readVa w c va n un).1.offStack = s.offStack := by
  refine foldl_fixes (fun p : State × RdOut => p.1.offStack) _ (fun p e => ?_) _ _
  obtain ⟨t, o⟩ := p
  dsimp only
  split
  · rfl
  · rename_i l _
    split
    · exact State.readTag_offStack t (l.pa / 256) (t.slot l.slot).key w c (un.contains (l.pa / 256))
    all_goals rfl

/-! ### Writes -/

theorem offStack_of_still {s t : State} (h : t.still = s.still) : t.offStack = s.offStack :=
  congrArg (fun u : State => { u with secTags := [], hbms := [], sec := {} }) h

theorem State.wrBytes_offStack (s : State) (pa : Nat) (bs : List Byte) : (s.wrBytes pa bs).offStack = s.offStack := rfl

theorem State.wrHostLine_offStack (s : State) (slot line : Nat) (upd : List (Nat × Byte)) :
    (s.wrHostLine slot line upd).offStack = s.offStack := by
  unfold State.wrHostLine
  exact State.wrBytes_offStack s _ _

theorem State.wrHost_offStack (s : State) (slot pa : Nat) (bs : List Byte) : (s.wrHost slot pa bs).offStack = s.offStack :=
  ite_fixes State.offStack (fun _ => forEach_fixes State.offStack _ (fun _ _ => State.wrHostLine_offStack _ _ _ _) _ s) fun _ => rfl

/-- A fold keeps what each of its steps keeps. -/
theorem foldl_keeps {σ α : Type} (P : σ → Prop) (f : σ → α → σ) (hf : ∀ p a, P p → P (f p a)) (xs : List α) (p : σ) (h : P p) :
    P (xs.foldl f p) := by
  induction xs generalizing p with
  | nil => exact h
  | cons x xs ih => exact ih _ (hf p x h)

/-- A write keeps what the stacks, the messages and the mended words of a tile store do not touch. -/
theorem State.writeVa_keeps (P : State → Prop) (hstack : ∀ s t : State, t.offStack = s.offStack → P s → P t)
    (hstore : ∀ (s : State) (i off n : Nat), P s → P (s.mendStore i off n)) (s : State) (w c va : Nat) (bs : List Byte) (h : P s) :
    P (s.writeVa w c va bs) := by
  refine foldl_keeps P _ (fun t e ht => ?_) _ s h
  dsimp only
  split
  · exact ht
  · split
    · exact hstack _ _ (State.writeSec_offStack _ _ _ _ _ _) ht
    · exact hstack _ _ (State.wrHost_offStack _ _ _ _) ht
    · exact hstack _ _ (offStack_of_still (State.sendWrite_still _ _ _ _ _ _)) ht
    · exact hstore _ _ _ _ (hstack t _ rfl ht)

theorem State.writeVa_fixes {β : Type} (g : State → β) (hstack : ∀ s t : State, t.offStack = s.offStack → g t = g s)
    (hstore : ∀ (s : State) (i off n : Nat), g (s.mendStore i off n) = g s) (s : State) (w c va : Nat) (bs : List Byte) :
    g (s.writeVa w c va bs) = g s :=
  State.writeVa_keeps (g · = g s) (fun _ _ h hs => (hstack _ _ h).trans hs) (fun _ _ _ _ hs => (hstore _ _ _ _).trans hs) s w c va bs rfl

theorem wards_of_offStack {s t : State} (h : t.offStack = s.offStack) : t.wards = s.wards :=
  congrArg State.wards (a₁ := t.offStack) (a₂ := s.offStack) h

theorem State.mendStore_frame (s : State) (i off n : Nat) : ∃ x, s.mendStore i off n = { s with tiles := x } := by
  unfold State.mendStore
  split
  · exact ⟨s.tiles, rfl⟩
  · exact ⟨_, rfl⟩

theorem State.writeVa_wards (s : State) (w c va : Nat) (bs : List Byte) : (s.writeVa w c va bs).wards = s.wards :=
  State.writeVa_fixes State.wards (fun _ _ => wards_of_offStack) (fun s i off n => by
    obtain ⟨x, hx⟩ := s.mendStore_frame i off n
    rw [hx]) s w c va bs

theorem sites_of_offStack {s t : State} (h : t.offStack = s.offStack) : t.sites = s.sites :=
  congrArg State.sites (a₁ := t.offStack) (a₂ := s.offStack) h

theorem State.writeVa_sites (s : State) (w c va : Nat) (bs : List Byte) : (s.writeVa w c va bs).sites = s.sites :=
  State.writeVa_fixes State.sites (fun _ _ => sites_of_offStack) (fun s i off n => by
    obtain ⟨x, hx⟩ := s.mendStore_frame i off n
    rw [hx]) s w c va bs

/-- Where no word of a tile store is bad, no tile changes either. -/
theorem State.writeVa_units (s : State) (w c va : Nat) (bs : List Byte) (hgood : ∀ i, (s.tile i).badWords = []) :
    (s.writeVa w c va bs).units = s.units := by
  refine State.writeVa_keeps (·.units = s.units) (fun _ _ h hs => (units_of_offStack h).trans hs) (fun t i off n ht => ?_) s w c va bs rfl
  have htiles : t.tiles = s.tiles := congrArg (·.1) ht
  have hbad : (t.tile i).badWords = [] := (congrArg (fun x => (Tab.get x i).badWords) htiles).trans (hgood i)
  unfold State.mendStore
  rw [if_pos hbad]
  exact ht

/-! ### What translation depends on -/

/-- What the checks of R251 read. -/
def State.xview (s : State) : Tab Ward × Tab Slot × Nat × Bool × (Nat → Health × Tab W16) :=
  (s.wards, s.slots, s.linkAddr, s.standby, fun i => ((s.tile i).health, (s.tile i).tags))

theorem xview_of_offStack {s t : State} (h : t.offStack = s.offStack) : t.xview = s.xview :=
  congrArg State.xview (a₁ := t.offStack) (a₂ := s.offStack) h

theorem State.mendStore_xview (s : State) (i off n : Nat) : (s.mendStore i off n).xview = s.xview := by
  unfold State.mendStore
  split
  · rfl
  · refine congrArg (fun f => (s.wards, s.slots, s.linkAddr, s.standby, f)) (funext fun j => ?_)
    by_cases hj : j = i
    · subst hj
      rw [State.modTile_tile_same]
    · rw [State.modTile_tile_other _ _ _ _ hj]

theorem State.writeVa_xview (s : State) (w c va : Nat) (bs : List Byte) : (s.writeVa w c va bs).xview = s.xview :=
  State.writeVa_fixes State.xview (fun _ _ => xview_of_offStack) State.mendStore_xview s w c va bs

section
variable {s t : State} (h : t.xview = s.xview)
include h

theorem ward_of_xview (w : Nat) : t.ward w = s.ward w := congrArg (fun v : Tab Ward × _ => v.1.get w) h
theorem slot_of_xview (k : Nat) : t.slot k = s.slot k := congrArg (fun v : _ × Tab Slot × _ => v.2.1.get k) h
theorem linkAddr_of_xview : t.linkAddr = s.linkAddr := congrArg (·.2.2.1) h
theorem standby_of_xview : t.standby = s.standby := congrArg (·.2.2.2.1) h
theorem health_of_xview (i : Nat) : (t.tile i).health = (s.tile i).health := congrArg (fun v => (v.2.2.2.2 i).1) h
theorem tags_of_xview (i : Nat) : (t.tile i).tags = (s.tile i).tags := congrArg (fun v => (v.2.2.2.2 i).2) h

theorem checkLeaf_of_xview (w va : Nat) (wr : Bool) : t.checkLeaf w va wr = s.checkLeaf w va wr := by
  unfold State.checkLeaf
  rw [ward_of_xview h]

theorem checkStack_of_xview (w pa : Nat) : t.checkStack w pa = s.checkStack w pa := by
  unfold State.checkStack
  rw [ward_of_xview h]

theorem slotRetired_of_xview (w k : Nat) : t.slotRetired w k = s.slotRetired w k := by
  unfold State.slotRetired
  rw [slot_of_xview h]

theorem slotMembers_of_xview (k : Nat) : t.slotMembers k = s.slotMembers k := by
  unfold State.slotMembers
  rw [slot_of_xview h]

theorem checkKeyed_of_xview (w c va : Nat) (l : Leaf) (wr : Bool) (k : LocKind) :
    t.checkKeyed w c va l wr k = s.checkKeyed w c va l wr k := by
  simp only [State.checkKeyed, slotRetired_of_xview h, slotMembers_of_xview h, ward_of_xview h]

theorem checkStore_of_xview (w c : Nat) (l : Leaf) (wr : Bool) : t.checkStore w c l wr = s.checkStore w c l wr := by
  simp only [State.checkStore, ward_of_xview h, health_of_xview h, tags_of_xview h]

theorem peerLeaf_of_xview (w va : Nat) (wr : Bool) : t.peerLeaf w va wr = s.peerLeaf w va wr := by
  simp only [State.peerLeaf, checkLeaf_of_xview h, checkStack_of_xview h]

theorem xlate_of_xview (w c va : Nat) (wr : Bool) (port : Option Nat) : t.xlate w c va wr port = s.xlate w c va wr port := by
  simp only [State.xlate, checkLeaf_of_xview h, checkStack_of_xview h, checkKeyed_of_xview h, checkStore_of_xview h, peerLeaf_of_xview h,
    ward_of_xview h, linkAddr_of_xview h, standby_of_xview h]

theorem checkRange_of_xview (w c va n : Nat) (wr : Bool) (port : Option Nat) :
    t.checkRange w c va n wr port = s.checkRange w c va n wr port := by
  simp only [State.checkRange, xlate_of_xview h]

end

end Sys2Proof.Machine
end

section
/-! Training commands (R328 to R366): TRAIN_START, TRAIN_STOP, ROLLBACK, the posted step size and the peek. -/

namespace Sys2Proof.Machine
open Sys2Proof

/-! ### Updates of one training context -/

theorem State.train_of_wards {s t : State} (h : t.wards = s.wards) (w c : Nat) : t.train w c = s.train w c :=
  congrArg (fun x : Tab Ward => (x.get w).trains.get c) h

theorem State.modTrain_train_same (s : State) (w c : Nat) (f : Train → Train) : (s.modTrain w c f).train w c = f (s.train w c) := by
  unfold State.train State.modTrain
  rw [State.modWard_ward_same]
  exact Tab.get_modify_same _ c f

theorem State.modTrain_train_other (s : State) (w c d : Nat) (f : Train → Train) (h : d ≠ c) : (s.modTrain w c f).train w d = s.train w d := by
  unfold State.train State.modTrain
  rw [State.modWard_ward_same]
  exact Tab.get_modify_other _ c d f h

theorem State.modTrain_only (s : State) (w c : Nat) (f : Train → Train) :
    OnlyWard s (s.modTrain w c f) w { s.ward w with trains := (s.ward w).trains.modify c f } := State.modWard_only s w _

theorem State.readRecord_offStack (s : State) (w c va : Nat) : (s.readRecord w c va).1.offStack = s.offStack := by
  unfold State.readRecord
  split
  · rfl
  · have hhead := State.readVa_offStack s w c va 1024 []
    split
    rename_i t h heq
    rw [heq] at hhead
    dsimp only
    split
    · exact hhead
    · exact (State.readVa_offStack t w c _ _ []).trans hhead

/-! ### What a message of a step and a piece of update work leave alone -/

theorem State.ctlFlit_still (s : State) (a : Nat) : (s.ctlFlit a).still = s.still := by
  unfold State.ctlFlit
  split
  · rfl
  · exact State.route_still _ _ [] none

theorem State.tell_wards (s : State) (ms : List Nat) (o : Output) : (s.tell ms o).wards = s.wards := by
  unfold State.tell
  split
  · rfl
  · exact (State.wards_of_still (forEach_fixes State.still State.ctlFlit State.ctlFlit_still ms (s.emit o)) :
      (forEach ms (s.emit o) State.ctlFlit).wards = (s.emit o).wards)

theorem State.updWork_wards (s : State) (w c : Nat) (k : UpdWork) : (s.updWork w c k).wards = s.wards := by
  unfold State.updWork
  exact forEach_fixes State.wards (fun s d => s.modUpd d _) (fun _ _ => rfl) _ s

theorem State.clearAcc_wards (s : State) (w c : Nat) : (s.clearAcc w c).wards = s.wards := by
  unfold State.clearAcc
  exact forEach_fixes State.wards _ (fun t _ => t.writeVa_wards w c _ _) _ s

/-! ### TRAIN_START: one equation per answer -/

section
variable (s : State) (x : OpCtx) (c mode va : Nat)

/-- TRAIN_START may take the context. -/
theorem State.mayTrain_iff : s.mayTrain x.w c mode = true ↔ mode ≤ 1 ∧ (s.ward x.w).running = true ∧
    ((s.ward x.w).registry.get c).st = .registered ∧ ((s.ward x.w).registry.get c).res = .resident ∧
    (((s.ward x.w).registry.get c).train = false ∨ (s.train x.w c).st = .faulted) := by
  simp only [State.mayTrain, Bool.and_eq_true, Bool.or_eq_true, decide_eq_true_eq, beq_iff_eq, Bool.not_eq_true', and_assoc]

theorem State.doTrainStart_absent (h : s.updFitted = false) : s.doTrainStart x c mode va = s.complete x.jseq .absent := if_pos h

variable (hfit : s.updFitted = true)
include hfit

theorem State.doTrainStart_refused (h : s.mayTrain x.w c mode = false) : s.doTrainStart x c mode va = s.complete x.jseq .protection := by
  unfold State.doTrainStart
  rw [if_neg (by simp [hfit]), if_pos h]

variable (hmay : s.mayTrain x.w c mode = true) {b : State}
include hmay

theorem State.doTrainStart_unread (h : s.readRecord x.w c va = (b, none)) : s.doTrainStart x c mode va = b.complete x.jseq .protection := by
  unfold State.doTrainStart
  rw [if_neg (by simp [hfit]), if_neg (by simp [hmay]), h]

variable {r : TrainRec} (hread : s.readRecord x.w c va = (b, some r))
include hread

theorem State.doTrainStart_illegal (h : b.recordOk x.w c r = false) : s.doTrainStart x c mode va = b.complete x.jseq .protection := by
  unfold State.doTrainStart
  rw [if_neg (by simp [hfit]), if_neg (by simp [hmay]), hread]
  exact if_neg (by simp [h])

theorem State.doTrainStart_begins (h : b.recordOk x.w c r = true) : s.doTrainStart x c mode va = b.beginTraining x c mode r := by
  unfold State.doTrainStart
  rw [if_neg (by simp [hfit]), if_neg (by simp [hmay]), hread]
  exact if_pos h

end

/-! ### The start of training -/

/-- From `s` on, of all wards and contexts only context `c` of ward `w` has changed: it is enrolled, and its training is `T`. -/
def Enrolled (s u : State) (w c : Nat) (T : Train) : Prop :=
  u.train w c = T ∧ (∀ d, d ≠ c → u.train w d = s.train w d) ∧ (∀ v, v ≠ w → u.ward v = s.ward v) ∧
  ((u.ward w).registry.get c).train = true

theorem Enrolled.of_wards {s u t : State} {w c : Nat} {T : Train} (h : Enrolled s u w c T) (ht : t.wards = u.wards) : Enrolled s t w c T := by
  have hward (v : Nat) : t.ward v = u.ward v := congrArg (Tab.get · v) ht
  obtain ⟨hsame, hother, hwards, hreg⟩ := h
  exact ⟨(State.train_of_wards ht w c).trans hsame, fun d hd => (State.train_of_wards ht w d).trans (hother d hd),
    fun v hv => (hward v).trans (hwards v hv), by rw [hward]; exact hreg⟩

theorem Enrolled.modTrain {s u : State} {w c : Nat} {T : Train} (h : Enrolled s u w c T) (f : Train → Train) :
    Enrolled s (u.modTrain w c f) w c (f T) := by
  obtain ⟨hsame, hother, hwards, hreg⟩ := h
  refine ⟨by rw [State.modTrain_train_same, hsame], fun d hd => (u.modTrain_train_other w c d f hd).trans (hother d hd),
    fun v hv => (State.modWard_ward_other u w _ v hv).trans (hwards v hv), ?_⟩
  unfold State.modTrain
  rw [State.modWard_ward_same]
  exact hreg

/-- A context's training as TRAIN_START sets it (R361). -/
def Train.fresh (r : TrainRec) (t : Train) : Train := { record := r, stepDone := r.start, kept := t.kept, posted := none }

/-- The context is enrolled with its record, before the mode tells how its master state comes. -/
def State.enrolled (s : State) (w c : Nat) (r : TrainRec) : State :=
  ((s.setReg w c fun e => { e with train := true }).modWard w fun y => { y with trains := y.trains.set c (Train.fresh r (s.train w c)) }).clearAcc w c

theorem State.beginTraining_peer (s : State) (x : OpCtx) (c : Nat) (r : TrainRec) :
    s.beginTraining x c 1 r = (s.enrolled x.w c r).modTrain x.w c fun t => { t with peerMode := true, startJseq := some x.jseq } := rfl

/-- In mode 0 the first round is held with the digests of the state at hand. -/
def State.firstRound (s : State) (w c n : Nat) : State :=
  (s.modTrain w c fun t => { t with starting := true }).holdRound w c n (s.stepDigest w c 0 n)

theorem State.beginTraining_own (s : State) (x : OpCtx) (c : Nat) (r : TrainRec) :
    s.beginTraining x c 0 r = (((s.enrolled x.w c r).firstRound x.w c r.start).startCopy x.w c r.start).complete x.jseq .ok := by
  unfold State.beginTraining State.firstRound State.enrolled Train.fresh
  exact if_neg (by decide)

theorem State.enrolled_spec (s : State) (w c : Nat) (r : TrainRec) : Enrolled s (s.enrolled w c r) w c (Train.fresh r (s.train w c)) := by
  refine Enrolled.of_wards ?_ (State.clearAcc_wards _ w c)
  have hbut := State.setReg_wardBut s w c fun e => { e with train := true }
  refine ⟨?_, fun d hd => ?_, fun v hv => ?_, ?_⟩
  · unfold State.train
    rw [State.modWard_ward_same]
    exact Tab.get_set_same _ c _
  · have htrains := congrArg Ward.trains hbut
    unfold State.train
    rw [State.modWard_ward_same]
    exact (Tab.get_set_other _ c d _ hd).trans (congrArg (Tab.get · d) htrains)
  · exact (State.modWard_ward_other _ w _ v hv).trans (State.setReg_ward_other s w c _ v hv)
  · have hreg := congrArg Ward.registry hbut
    rw [State.modWard_ward_same]
    refine (congrArg (fun t : Tab RegEnt => (t.get c).train) hreg).trans ?_
    exact congrArg RegEnt.train (Tab.get_modify_same (s.ward w).registry c fun e => { e with train := true })

/-- A round is held: its number waits, and digests are kept. -/
theorem Enrolled.holdRound {s u : State} {w c : Nat} {T : Train} (h : Enrolled s u w c T) (n : Nat) (x : DigestIn) :
    ∃ y, Enrolled s (u.holdRound w c n x) w c ({ T with pendRounds := T.pendRounds ++ [n] }.keepDigest y) := by
  have hround := h.modTrain fun t => { t with pendRounds := t.pendRounds ++ [n] }
  unfold State.holdRound State.tellDigest
  extract_lets y v
  refine ⟨y, ?_⟩
  have hkeep : Enrolled s v w c ({ T with pendRounds := T.pendRounds ++ [n] }.keepDigest y) :=
    (hround.modTrain fun t => t.keepDigest y).of_wards (State.tell_wards _ _ _)
  split
  · exact hkeep.of_wards (State.tell_wards _ _ _)
  · exact hkeep

/-- What mode 1 sets: the context waits for a peer's checkpoint (R362). -/
theorem State.beginTraining_peer_spec (s : State) (x : OpCtx) (c : Nat) (r : TrainRec) : Enrolled s (s.beginTraining x c 1 r) x.w c
    { Train.fresh r (s.train x.w c) with peerMode := true, startJseq := some x.jseq } := by
  rw [State.beginTraining_peer]
  exact (s.enrolled_spec x.w c r).modTrain fun t => { t with peerMode := true, startJseq := some x.jseq }

/-- What mode 0 sets: the first round is held, and a copy of the half at hand goes to checkpoint slot 0. -/
theorem State.beginTraining_own_spec (s : State) (x : OpCtx) (c : Nat) (r : TrainRec) : ∃ y, Enrolled s (s.beginTraining x c 0 r) x.w c
    { { Train.fresh r (s.train x.w c) with starting := true, pendRounds := [r.start] }.keepDigest y with copying := some (0, 0, r.start) } := by
  rw [State.beginTraining_own]
  have hstart := (s.enrolled_spec x.w c r).modTrain fun t => { t with starting := true }
  obtain ⟨y, hround⟩ := hstart.holdRound r.start ((s.enrolled x.w c r).stepDigest x.w c 0 r.start)
  exact ⟨y, ((hround.modTrain _).of_wards (State.updWork_wards _ _ _ _)).of_wards (State.complete_wards _ _ _ _)⟩

/-! ### TRAIN_STOP and ROLLBACK -/

section
variable (s : State) (x : OpCtx) (c : Nat)

theorem State.doTrainStop_absent (h : s.updFitted = false) : s.doTrainStop x c = s.complete x.jseq .absent := if_pos h

variable (hfit : s.updFitted = true)
include hfit

theorem State.doTrainStop_idle (h : (s.train x.w c).active = false) : s.doTrainStop x c = s.complete x.jseq .protection := by
  unfold State.doTrainStop
  rw [if_neg (by simp [hfit]), if_pos h]

theorem State.doTrainStop_marks (h : (s.train x.w c).active = true) :
    s.doTrainStop x c = s.modTrain x.w c fun t => { t with stopping := true, stops := t.stops ++ [x.jseq] } := by
  unfold State.doTrainStop
  rw [if_neg (by simp [hfit]), if_neg (by simp [h])]

theorem State.doRollback_refused (h : (s.train x.w c).active = false ∨ (s.train x.w c).st = .faulted ∨ (s.train x.w c).newest = none) :
    s.doRollback x c = s.complete x.jseq .protection := by
  unfold State.doRollback
  extract_lets t
  rw [if_neg (by simp [hfit]), if_pos (by rwa [Option.isNone_iff_eq_none])]

/-- The rollback is asked for with a free value; one that is due already stays (log entry 80). -/
theorem State.doRollback_asks (h : ¬((s.train x.w c).active = false ∨ (s.train x.w c).st = .faulted ∨ (s.train x.w c).newest = none)) :
    s.doRollback x c = (({ s with fresh := s.fresh + 1 } : State).askRollback x.w c (Config.freeByte s.fresh) false).complete x.jseq .ok := by
  unfold State.doRollback
  extract_lets t
  rw [if_neg (by simp [hfit]), if_neg (by rwa [Option.isNone_iff_eq_none])]
  rfl

end

theorem State.askRollback_only (s : State) (w c : Nat) (b : Byte) : OnlyWard s (s.askRollback w c b false) w { s.ward w with
    trains := (s.ward w).trains.modify c fun t => { t with rollbackDue := some (t.rollbackDue.getD b) } } := by
  refine OnlyWard.modWard s w _ _ ?_
  rw [Tab.modify_congr (s.ward w).trains c (g := fun t => { t with rollbackDue := some (t.rollbackDue.getD b) })
    (by simp only [Bool.or_false])]

/-! ### The posted step size and the peek -/

section
variable (s : State) (d w : Nat) (v : W64)

theorem State.postStep_inactive (h : (s.train w (field v.toNat 63 48)).active = false) :
    s.postStep d w v = s.modUpd d fun u => { u with refused := true, err := 1 } := by
  simp [State.postStep, h]

variable (hactive : (s.train w (field v.toNat 63 48)).active = true)
include hactive

theorem State.postStep_badSize (h : f32Finite (s.upd d).stepLr = false ∨ f32Neg (s.upd d).stepLr = true ∧ f32IsZero (s.upd d).stepLr = false) :
    s.postStep d w v = s.modUpd d fun u => { u with refused := true, err := 2 } := by
  have hbad : (!f32Finite (s.upd d).stepLr || (f32Neg (s.upd d).stepLr && !f32IsZero (s.upd d).stepLr)) = true := by
    simpa only [Bool.or_eq_true, Bool.and_eq_true, Bool.not_eq_true'] using h
  unfold State.postStep
  extract_lets c n lr t bad
  rw [if_neg (by simp only [t, c, hactive, Bool.not_true, Bool.false_eq_true, not_false_eq_true]), if_pos hbad]

variable (hsize : (!f32Finite (s.upd d).stepLr || (f32Neg (s.upd d).stepLr && !f32IsZero (s.upd d).stepLr)) = false)
include hsize

theorem State.postStep_early (h : field v.toNat 31 0 ≤ (s.train w (field v.toNat 63 48)).stepDone % 2 ^ 32) :
    s.postStep d w v = s.modUpd d fun u => { u with refused := true, err := 3 } := by
  unfold State.postStep
  extract_lets c n lr t bad
  rw [if_neg (by simp only [t, c, hactive, Bool.not_true, Bool.false_eq_true, not_false_eq_true]),
    if_neg (by simp only [lr, hsize, Bool.false_eq_true, not_false_eq_true]), if_pos h]

/-- A step that is not armed waits for its boundary. -/
theorem State.postStep_posts (h : ¬field v.toNat 31 0 ≤ (s.train w (field v.toNat 63 48)).stepDone % 2 ^ 32)
    (hst : (s.train w (field v.toNat 63 48)).st ≠ .armed) :
    s.postStep d w v = s.modTrain w (field v.toNat 63 48) fun t => { t with posted := some (field v.toNat 31 0, (s.upd d).stepLr) } := by
  unfold State.postStep
  extract_lets c n lr t bad
  rw [if_neg (by simp only [t, c, hactive, Bool.not_true, Bool.false_eq_true, not_false_eq_true]),
    if_neg (by simp only [lr, hsize, Bool.false_eq_true, not_false_eq_true]), if_neg h]
  unfold State.tryReduce
  extract_lets t'
  have ht' : t'.st ≠ .armed := by
    unfold t'
    rw [State.modTrain_train_same]
    exact hst
  split
  · rename_i harm _
    exact absurd harm ht'
  · rfl

end

theorem execUpdStep_refused (s : State) (r : Req) (d : Nat) (g : RegW) (hlive : s.live = true) (hd : d ∈ s.dies) (hlegal : g.legal = true)
    (hown : s.ownsDie r d = false) : execUpdStep r d g s = .next s.refuse := by
  simp [execUpdStep, hlive, hlegal, hown, hd]

theorem execUpdStep_posts (s : State) (r : Req) (d w : Nat) (g : RegW) (hlive : s.live = true) (hd : d ∈ s.dies) (hlegal : g.legal = true)
    (hown : s.ownsDie r d = true) (hw : s.updWard d = some w) (hfit : s.updFitted = true) (hsize : g.size = 8) :
    execUpdStep r d g s = .next (s.postStep d w g.val) := by
  simp [execUpdStep, hlive, hlegal, hown, hw, hfit, hsize, hd]

theorem execUpdPeekCtx_copies (s : State) (r : Req) (d w : Nat) (v : W32) (hlive : s.live = true) (hd : d ∈ s.dies)
    (hown : s.ownsDie r d = true) (hw : s.updWard d = some w) (hfit : s.updFitted = true) :
    execUpdPeekCtx r d v s = .next (s.modUpd d fun u => { u with
      peekCtx := BitVec.ofNat 16 (v.toNat % 2 ^ 16),
      peek := if (s.train w (v.toNat % 2 ^ 16)).active then (s.train w (v.toNat % 2 ^ 16)).peek else List.replicate 64 0 }) := by
  unfold execUpdPeekCtx
  rw [if_neg (by simp [hlive, hd]), if_neg (by simp [hown]), hw]
  exact if_neg (by simp [hfit])

/-- Settles O33: each answer of TRAIN_START, TRAIN_STOP and ROLLBACK by its equation, the start by what it enrols, the posted step
size by the checks of R340. What an unreadable record gives, and that ROLLBACK completes at its acceptance, are the model's choices
(log entries 3, 80 and 89). -/
theorem trainingStartsStopsAndRollsBack : Obligations.TrainingStartsStopsAndRollsBack := by
  refine ⟨fun s a src c mode va seen x i hi hhere ha hx => ?_, fun s a src c x t0 hhere ha hx ht0 => ?_,
    fun s a src c x t0 hhere ha hx ht0 hfit => ?_, fun s r d w c n g t0 lr hlive hd hlegal hsize hw hfit hc hn ht0 hlr => ?_,
    fun s r d w v t0 hlive hd hw hfit hown ht0 => ?_⟩
  · have hward (v : Nat) : a.ward v = s.ward v := ha ▸ rfl
    have hfit : a.updFitted = s.updFitted := ha ▸ rfl
    have hwx : x.w = s.cmdWard src (.trainStart c mode va) := hx ▸ State.ctxOf_w rfl
    have hexec : exec i s = .next ((a.doTrainStart x c mode va.toNat).settle x.w) := by
      rw [hwx]
      subst hi ha hx
      exact congrArg Host.Outcome.next (State.command_takes s src _ _ hhere)
    have hgood : (s.ward x.w).structBad = false := hwx ▸ State.takesHere_good hhere
    have htrain (d : Nat) : a.train x.w d = s.train x.w d := congrArg (fun y => y.trains.get d) (hward x.w)
    have hrun (b : State) (hb : b.wards = a.wards) (st : St) (ht : a.doTrainStart x c mode va.toNat = b.complete x.jseq st) :
        exec i s = .next (b.complete x.jseq st) := by
      have hbad : ((b.complete x.jseq st).ward x.w).structBad = false := by
        rw [State.complete_ward, show b.ward x.w = a.ward x.w from congrArg (Tab.get · x.w) hb, hward, hgood]
      rw [hexec, ht, State.settle_of_good _ _ hbad]
    clear hi ha hx hwx
    rw [← hfit, ← hward, ← htrain]
    refine ⟨fun h => hrun a rfl _ (a.doTrainStart_absent x c mode _ h), fun h e he => ?_⟩
    subst he
    refine ⟨fun hno => hrun a rfl _ (a.doTrainStart_refused x c mode _ h ?_), fun hmode hrunning hreg hres hfree b o hread => ?_⟩
    · rw [← Bool.not_eq_true, State.mayTrain_iff]
      rintro ⟨hmode, hrunning, hreg, hres, hfree⟩
      rcases hno with h | h | h | h | ⟨h, h'⟩
      · omega
      · rw [h] at hrunning
        cases hrunning
      · exact h hreg
      · exact h hres
      · rcases hfree with hf | hf
        · rw [h] at hf
          cases hf
        · exact h' hf
    · have hmay : a.mayTrain x.w c mode = true := (a.mayTrain_iff x c mode).mpr ⟨hmode, hrunning, hreg, hres, hfree⟩
      have hb : b.wards = a.wards := by
        have hstack := a.readRecord_offStack x.w c va.toNat
        rw [hread] at hstack
        exact wards_of_offStack hstack
      refine ⟨fun ho => ?_, fun r ho hbad => ?_, fun r ho hok => ?_⟩
      · subst ho
        exact hrun b hb _ (a.doTrainStart_unread x c mode _ h hmay hread)
      · subst ho
        exact hrun b hb _ (a.doTrainStart_illegal x c mode _ h hmay hread hbad)
      · subst ho
        rw [a.doTrainStart_begins x c mode _ h hmay hread hok] at hexec
        have hother (d : Nat) : b.train x.w d = s.train x.w d := (State.train_of_wards hb x.w d).trans (htrain d)
        have hwards (v : Nat) : b.ward v = s.ward v := (congrArg (Tab.get · v) hb).trans (hward v)
        refine ⟨_, hexec, ?_⟩
        interval_cases mode
        · obtain ⟨y, hsame, htrains, hothers, henrolled⟩ := b.beginTraining_own_spec x c r
          rw [hsame]
          exact ⟨rfl, rfl, rfl, henrolled, fun d hd => (htrains d hd).trans (hother d), fun v hv => (hothers v hv).trans (hwards v),
            fun h => absurd h (by decide), fun _ => ⟨rfl, rfl, rfl, _, State.beginTraining_own b x c r⟩⟩
        · obtain ⟨hsame, htrains, hothers, henrolled⟩ := b.beginTraining_peer_spec x c r
          rw [hsame]
          exact ⟨rfl, rfl, rfl, henrolled, fun d hd => (htrains d hd).trans (hother d), fun v hv => (hothers v hv).trans (hwards v),
            fun _ => ⟨rfl, rfl⟩, fun h => absurd h (by decide)⟩
  · have hrun (t : State) (ht : a.doTrainStop x c = t) (hbad : (t.ward x.w).structBad = (s.ward x.w).structBad) :
        exec (.trainStop src c) s = .next t := by
      subst ha hx
      exact congrArg Host.Outcome.next (State.command_to _ hhere rfl ht hbad)
    have hward (v : Nat) : a.ward v = s.ward v := ha ▸ rfl
    have hfit : a.updFitted = s.updFitted := ha ▸ rfl
    have hrefuse (st : St) (ht : a.doTrainStop x c = a.complete x.jseq st) : exec (.trainStop src c) s = .next (a.complete x.jseq st) :=
      hrun _ ht (by rw [State.complete_ward, hward])
    have ht : t0 = a.train x.w c := ht0.trans (congrArg (fun y => y.trains.get c) (hward x.w)).symm
    clear ha hx ht0
    subst ht
    rw [← hfit]
    refine ⟨fun h => hrefuse _ (a.doTrainStop_absent x c h), fun h hidle => hrefuse _ (a.doTrainStop_idle x c h hidle),
      fun h hactive => ⟨_, hrun _ (a.doTrainStop_marks x c h hactive) ?_, ?_⟩⟩
    · rw [State.modTrain, State.modWard_ward_same, ← hward]
    · rw [← hward]
      exact a.modTrain_only x.w c _
  · have hrun (t : State) (ht : a.doRollback x c = t) (hbad : (t.ward x.w).structBad = (s.ward x.w).structBad) :
        exec (.rollback src c) s = .next t := by
      subst ha hx
      exact congrArg Host.Outcome.next (State.command_to _ hhere rfl ht hbad)
    have hward (v : Nat) : a.ward v = s.ward v := ha ▸ rfl
    have hfit' : a.updFitted = true := ha ▸ hfit
    have ht : t0 = a.train x.w c := ht0.trans (congrArg (fun y => y.trains.get c) (hward x.w)).symm
    clear ha hx ht0
    subst ht
    refine ⟨fun h => hrun _ (a.doRollback_refused x c hfit' h) (by rw [State.complete_ward, hward]), fun hactive hst hnew => ?_⟩
    have honly := State.askRollback_only { a with fresh := a.fresh + 1 } x.w c (Config.freeByte a.fresh)
    obtain ⟨hsame, hother, -, hrest⟩ := honly
    refine ⟨_, hrun _ (a.doRollback_asks x c hfit' (by simp [hactive, hst, hnew])) ?_, _, rfl, ?_, Config.freeByte a.fresh, ⟨?_, ?_⟩, ?_⟩
    · rw [State.complete_ward, hsame, ← hward]
      rfl
    · rw [hrest]
      exact ⟨rfl, rfl, rfl, rfl, rfl, rfl, rfl, rfl, rfl, rfl⟩
    · exact (a.ward x.w).structBad
    · rw [hsame, ← hward]
      rfl
    · exact fun v hv => hother v hv
  · subst hc hn ht0 hlr
    refine ⟨fun hown => execUpdStep_refused s r d g hlive hd hlegal hown, fun hown => ?_⟩
    have hpost := execUpdStep_posts s r d w g hlive hd hlegal hown hw hfit hsize
    refine ⟨fun h => ?_, fun hactive h => ?_, fun hactive hfin hpos => ?_⟩
    · rw [s.postStep_inactive d w g.val h] at hpost
      exact ⟨_, hpost, State.modUpd_only s d _⟩
    · rw [s.postStep_badSize d w g.val hactive h] at hpost
      exact ⟨_, hpost, State.modUpd_only s d _⟩
    · have hok : (!f32Finite (s.upd d).stepLr || (f32Neg (s.upd d).stepLr && !f32IsZero (s.upd d).stepLr)) = false := by
        rcases hpos with h | h <;> simp [hfin, h]
      refine ⟨fun h => ?_, fun h hst => ?_⟩
      · rw [s.postStep_early d w g.val hactive hok h] at hpost
        exact ⟨_, hpost, State.modUpd_only s d _⟩
      · rw [s.postStep_posts d w g.val hactive hok (Nat.not_le.mpr h) hst] at hpost
        exact ⟨_, hpost, s.modTrain_only w _ _⟩
  · subst ht0
    exact ⟨_, execUpdPeekCtx_copies s r d w v hlive hd hown hw hfit, State.modUpd_only s d _⟩

end Sys2Proof.Machine
end

section
/-! Channels (R227 to R264): DMA_START, the descriptor fetch and the end of a squash. -/

namespace Sys2Proof.Machine
open Sys2Proof

/-! ### What an interrupt, a record and a stop leave alone -/

theorem chans_of_still {s t : State} (h : t.still = s.still) : t.chans = s.chans := congrArg State.chans (a₁ := t.still) (a₂ := s.still) h

theorem chans_of_offStack {s t : State} (h : t.offStack = s.offStack) : t.chans = s.chans :=
  congrArg State.chans (a₁ := t.offStack) (a₂ := s.offStack) h

theorem tiles_of_offStack {s t : State} (h : t.offStack = s.offStack) : t.tiles = s.tiles :=
  congrArg State.tiles (a₁ := t.offStack) (a₂ := s.offStack) h

theorem State.readShape_offStack (s : State) (w ctx va : Nat) (port : Option Nat) : (s.readShape w ctx va port).1.offStack = s.offStack := by
  unfold State.readShape
  exact ite_fixes (fun p : State × Option (List W64) => p.1.offStack) (fun _ => State.readVa_offStack s w ctx va 64 []) fun _ => rfl

/-- An interrupt of a channel: at most a message and the function's pending bit beside the channel's own bit. -/
theorem State.chanIrq_still (s : State) (c : Nat) : (s.chanIrq c).still = (s.modChan c fun x => { x with irqPend := true }).still := by
  unfold State.chanIrq
  extract_lets x t
  split
  · exact ite_fixes State.still (fun _ => State.msix_still t _ _ _) fun _ => rfl
  · rfl

theorem State.chanIrq_rdByte (s : State) (c a : Nat) : (s.chanIrq c).rdByte a = s.rdByte a := by
  unfold State.chanIrq
  extract_lets x t
  have hmsix (port func vec : Nat) : (t.msix port func vec).rdByte a = s.rdByte a :=
    ite_fixes (State.rdByte · a) (fun _ => rfl) fun _ => rfl
  split
  · exact ite_fixes (State.rdByte · a) (fun _ => hmsix _ _ _) fun _ => rfl
  · rfl

/-- From `s` on, of all channels only `c` has changed: it is `y`. -/
def ChanIs (s t : State) (c : Nat) (y : Chan) : Prop := t.chan c = y ∧ ∀ k, k ≠ c → t.chan k = s.chan k

theorem ChanIs.of_chans {s t u : State} {c : Nat} {y : Chan} (h : ChanIs s t c y) (ht : u.chans = t.chans) : ChanIs s u c y := by
  have hchan (k : Nat) : u.chan k = t.chan k := congrArg (Tab.get · k) ht
  exact ⟨(hchan c).trans h.1, fun k hk => (hchan k).trans (h.2 k hk)⟩

theorem ChanIs.modChan {s t : State} {c : Nat} {y : Chan} (h : ChanIs s t c y) (f : Chan → Chan) : ChanIs s (t.modChan c f) c (f y) := by
  obtain ⟨hsame, hother⟩ := h
  exact ⟨by rw [State.modChan_chan_same, hsame], fun k hk => (State.modChan_chan_other t c f k hk).trans (hother k hk)⟩

theorem ChanIs.chanIrq {s t : State} {c : Nat} {y : Chan} (h : ChanIs s t c y) : ChanIs s (t.chanIrq c) c { y with irqPend := true } :=
  (h.modChan fun x => { x with irqPend := true }).of_chans (chans_of_still (t.chanIrq_still c))

/-- A stop without a descriptor in progress. -/
theorem ChanIs.stopRun {s t : State} {c : Nat} {y : Chan} (h : ChanIs s t c y) (hidle : y.desc = none) (w : Nat) (d : Desc) (st : St)
    (cause va : Nat) : ChanIs s (t.stopRun c w d st cause va) c
      { y with st := .stopped, status := st.code, cause := BitVec.ofNat 8 cause, faultVa := BitVec.ofNat 48 va, desc := none, irqPend := true } := by
  have hmix : t.mixDesc c w = t := by
    unfold State.mixDesc
    rw [h.1, hidle]
  unfold State.stopRun
  extract_lets x word0 ctx s0 s1 s2 s3
  have h1 : ChanIs s s1 c
      { y with st := .stopped, status := st.code, cause := BitVec.ofNat 8 cause, faultVa := BitVec.ofNat 48 va, desc := none } := by
    unfold s1 s0
    rw [hmix]
    exact h.modChan fun x =>
      { x with st := .stopped, status := st.code, cause := BitVec.ofNat 8 cause, faultVa := BitVec.ofNat 48 va, desc := none }
  have h2 := (h1.of_chans (chans_of_still (State.report_still s1 _)) : ChanIs s s2 c _).chanIrq
  split
  · exact h2.of_chans rfl
  · exact h2

/-! ### DMA_START -/

theorem State.die_lt {s : State} {n : Nat} (h : n ∈ s.dies) : n < 8 := List.mem_range.mp (List.mem_filter.mp h).1

theorem State.chanExists_die {s : State} {c : Nat} (h : s.chanExists c = true) : c / 64 < 8 :=
  State.die_lt (s := s) (List.contains_iff_mem.mp (Bool.and_eq_true_iff.mp h).1)

section
variable {s : State} {r : Req} {c w : Nat} {g : RegW} (hlive : s.live = true) (hchan : s.chanExists c = true)
include hlive hchan

theorem execDmaStart_refused (hown : s.ownsDie r (c / 64) = false) : execDmaStart r c g s = .next s.refuse := by
  have hdie := State.chanExists_die hchan
  unfold execDmaStart
  rw [if_neg (by simpa [hlive] using Nat.le_of_lt_succ hdie), if_pos (by simp [hown])]

variable (hown : s.ownsDie r (c / 64) = true) (hlegal : g.legal = true) (hw : s.wardOfDie (c / 64) = some w)
include hown hlegal hw

theorem execDmaStart_lost (hrun : (s.chan c).st = .running) :
    execDmaStart r c g s = .next (s.modChan c fun x => { x with lost := true }) := by
  have hdie := State.chanExists_die hchan
  unfold execDmaStart
  rw [if_neg (by simpa [hlive] using Nat.le_of_lt_succ hdie), if_neg (by simp [hown]), if_neg (by simp [hchan, hlegal]), hw]
  exact if_pos hrun

/-- The value that the write leaves in the held halves. -/
def State.dmaHeld (s : State) (c : Nat) (g : RegW) : W64 :=
  g.into64 (BitVec.ofNat 64 ((s.chan c).heldLo.toNat + (s.chan c).heldHi.toNat * 2 ^ 32))

/-- The halves of a value are held for the start of a run. -/
def Chan.hold (x : Chan) (v : W64) : Chan := { x with heldLo := v.setWidth 32, heldHi := BitVec.ofNat 32 (v.toNat / 2 ^ 32) }

theorem execDmaStart_starts (hrun : (s.chan c).st ≠ .running) (hhi : g.hitsHi = true ∧ wf (s.dmaHeld c g) 63 48 ≠ 0) :
    execDmaStart r c g s = .next ((s.modChan c fun x => x.hold (s.dmaHeld c g)).modChan c fun x =>
      x.start (wf (s.dmaHeld c g) 47 0) (wf (s.dmaHeld c g) 63 48) none) := by
  have hdie := State.chanExists_die hchan
  unfold execDmaStart
  rw [if_neg (by simpa [hlive] using Nat.le_of_lt_succ hdie), if_neg (by simp [hown]), if_neg (by simp [hchan, hlegal]), hw]
  exact (if_neg hrun).trans (if_pos hhi)

theorem execDmaStart_holds (hrun : (s.chan c).st ≠ .running) (hhi : ¬(g.hitsHi = true ∧ wf (s.dmaHeld c g) 63 48 ≠ 0)) :
    execDmaStart r c g s = .next (s.modChan c fun x => x.hold (s.dmaHeld c g)) := by
  have hdie := State.chanExists_die hchan
  unfold execDmaStart
  rw [if_neg (by simpa [hlive] using Nat.le_of_lt_succ hdie), if_neg (by simp [hown]), if_neg (by simp [hchan, hlegal]), hw]
  exact (if_neg hrun).trans (if_neg hhi)

end

/-! ### The descriptor fetch -/

/-- The state from which a descriptor's checks go on: the fetch has read memory, and CUR is its address. -/
def State.atFetch (s : State) (c : Nat) : State := s.modChan c fun x => { x with cur := x.next }

section
variable {s s1 : State} {c w oc : Nat} {seen : List (Nat × Byte)} {o : RdOut}
  (hw : s.wardOfDie (c / 64) = some w) (hrun : (s.chan c).st = .running) (hdesc : (s.chan c).desc = none)
  (hsq : (s.chan c).squashing = none)
  (hoc : (s.seen seen).fetchCtx w (s.chan c).next.toNat (hpPort c) = some oc)
  (hread : (s.seen seen).readVa w oc (s.chan c).next.toNat 64 = (s1, o))
include hread

/-- The fetch's read changes no channel and no tile. -/
theorem State.fetch_offStack : s1.offStack = s.offStack := by
  have h := State.readVa_offStack (s.seen seen) w oc (s.chan c).next.toNat 64 []
  rw [hread] at h
  exact h.trans rfl

variable (hbad : o.bad.any id = false) (hsoft : o.soft.any id = false)

theorem State.atFetch_eq : (s1.modChan c fun x => { x with cur := BitVec.ofNat 48 (s.chan c).next.toNat }) = s1.atFetch c := by
  have hchan : s1.chan c = s.chan c := congrArg (Tab.get · c) (chans_of_offStack (State.fetch_offStack hread))
  refine State.modChan_congr s1 c ?_
  rw [hchan, BitVec.ofNat_toNat, BitVec.setWidth_eq]

theorem State.atFetch_is : ChanIs s (s1.atFetch c) c { s.chan c with cur := (s.chan c).next } := by
  have h : ChanIs s s1 c (s.chan c) :=
    ChanIs.of_chans (⟨rfl, fun _ _ => rfl⟩ : ChanIs s s c (s.chan c)) (chans_of_offStack (State.fetch_offStack hread))
  exact h.modChan fun x => { x with cur := x.next }

include hw hrun hdesc hsq hoc hbad hsoft

theorem execDmaDescriptorFetch_illegal (hill : ({ words := words8 o.bytes, sshape := {}, dshape := {}, dense := true } : Desc).illegal = true) :
    execDmaDescriptorFetch c seen s = .next ((s1.atFetch c).takeFresh.2.stopRun c w
      { words := words8 o.bytes, sshape := {}, dshape := {}, dense := true } .protection 0x30 ((Config.freeW64 (s1.atFetch c).fresh).toNat % 2 ^ 48)) := by
  unfold execDmaDescriptorFetch
  dsimp only
  rw [hw]
  dsimp only
  rw [if_neg (by simp [hrun, hdesc, hsq]), hoc]
  dsimp only
  rw [hread]
  dsimp only
  rw [if_neg (by simp only [hbad, hsoft, Bool.or_self, Bool.false_eq_true, not_false_eq_true]), State.atFetch_eq hread, if_pos hill]
  rfl

variable {b2 : State} {sw : List W64} {d0 : Desc} (hd0 : d0 = { words := words8 o.bytes, sshape := {}, dshape := {}, dense := true })
  (hill : d0.illegal = false) (hctx : (s1.atFetch c).ctxBad w (s.chan c).next.toNat d0.ctx oc (hpPort c) = none)
  (hshape : (s1.atFetch c).readShape w d0.ctx d0.sshp (hpPort c) = (b2, some sw)) (hok : shapeOk sw = true) (hdense : d0.dshp = 0)
include hd0 hill hctx hshape hok hdense

theorem execDmaDescriptorFetch_dense
    (hfetch : b2.fetchBad w { d0 with sshape := shapeOf sw, dshape := ({ d0 with sshape := shapeOf sw } : Desc).denseShape } = none) :
    execDmaDescriptorFetch c seen s =
      .next (b2.beginDesc c w { d0 with sshape := shapeOf sw, dshape := ({ d0 with sshape := shapeOf sw } : Desc).denseShape }) := by
  subst hd0
  unfold execDmaDescriptorFetch
  dsimp only
  rw [hw]
  dsimp only
  rw [if_neg (by simp [hrun, hdesc, hsq]), hoc]
  dsimp only
  rw [hread]
  dsimp only
  rw [if_neg (by simp only [hbad, hsoft, Bool.or_self, Bool.false_eq_true, not_false_eq_true]), State.atFetch_eq hread,
    if_neg (by rw [hill]; decide), hctx]
  dsimp only
  rw [hshape]
  dsimp only
  rw [if_neg (by rw [hok]; decide), if_pos hdense]
  dsimp only at hfetch
  rw [hfetch]

end

/-- Nothing was sent since: no transfer is marked. -/
theorem State.uncount_self (s : State) : s.uncount s = s := by
  unfold State.uncount
  rw [Nat.sub_self]
  exact congrArg (fun l => ({ s with uncounted := l } : State)) (List.append_nil s.uncounted)

/-- A descriptor with nothing to read from a peer is taken up: it is in progress, and no message leaves. -/
theorem State.beginDesc_local (s : State) (c w : Nat) (d : Desc) (h : s.peerPieces c w d = []) :
    s.beginDesc c w d = ({ s with peerReads := s.peerReads.filter fun r => r.chan ≠ c } : State).modChan c fun x => { x with desc := some d } := by
  unfold State.beginDesc
  rw [h]
  dsimp only [List.find?_nil, forEach, List.foldl_nil]
  split
  · rfl
  · exact State.uncount_self _

/-- Settles O39: DMA_START by its equations, a refused fetch as a stop without a descriptor in progress, a legal one as the taking up of
a descriptor that reads nothing from a peer, the end of a squash as an interrupt of the channel. Under which context a fetch reads is
the model's choice (log entry 57). -/
theorem channelsStartFetchAndSquash : Obligations.ChannelsStartFetchAndSquash := by
  refine ⟨fun s r c g x v w hlive hchan hlegal hw hx hv => ?_,
    fun s z s1 c w oc seen x o d0 hw hx hrun hdesc hsq hz hoc hread hbad hsoft hd0 b hb => ?_, fun s c st hsq => ?_⟩
  · subst hx hv
    refine ⟨fun hown => execDmaStart_refused hlive hchan hown, fun hown =>
      ⟨fun hrun => ⟨_, execDmaStart_lost hlive hchan hown hlegal hw hrun, State.modChan_only s c _⟩,
        fun hrun hhi hcnt => ⟨_, execDmaStart_starts hlive hchan hown hlegal hw hrun ⟨hhi, hcnt⟩, ?_⟩,
        fun hrun hno => ⟨_, execDmaStart_holds hlive hchan hown hlegal hw hrun ?_, State.modChan_only s c _⟩⟩⟩
    · have hone : ChanIs s s c (s.chan c) := ⟨rfl, fun _ _ => rfl⟩
      have htwo := (hone.modChan fun x => x.hold (s.dmaHeld c g)).modChan fun x =>
        x.start (wf (s.dmaHeld c g) 47 0) (wf (s.dmaHeld c g) 63 48) none
      exact ⟨htwo.1, htwo.2, fun _ => rfl, rfl⟩
    · rintro ⟨hhi, hcnt⟩
      rcases hno with h | h
      · rw [hhi] at h
        cases h
      · exact hcnt h
  · subst hx hz hb
    have hbegin := State.atFetch_is hread
    refine ⟨fun hill => ?_, fun b2 sw d hill hctx hshape hok hdense hd hfetch hpeer => ?_⟩
    · have hstop := (hbegin.of_chans rfl : ChanIs s (s1.atFetch c).takeFresh.2 c _).stopRun hdesc w d0 .protection 0x30
        ((Config.freeW64 (s1.atFetch c).fresh).toNat % 2 ^ 48)
      subst hd0
      refine ⟨_, execDmaDescriptorFetch_illegal hw hrun hdesc hsq hoc hread hbad hsoft hill, ?_⟩
      obtain ⟨hsame, hother⟩ := hstop
      exact ⟨congrArg Chan.st hsame, congrArg Chan.cause hsame, congrArg Chan.status hsame, congrArg Chan.desc hsame,
        congrArg Chan.cur hsame, hother⟩
    · have hstack : b2.offStack = (s1.atFetch c).offStack := by
        have h := State.readShape_offStack (s1.atFetch c) w d0.ctx d0.sshp (hpPort c)
        rwa [show (s1.atFetch c).readShape w d0.ctx d0.sshp (hpPort c) = (b2, some sw) from hshape] at h
      have hbegun := (hbegin.of_chans (chans_of_offStack hstack)).modChan fun x => { x with desc := some d }
      have hwards : b2.wards = s.wards := (wards_of_offStack hstack).trans (wards_of_offStack (State.fetch_offStack hread) : s1.wards = s.wards)
      have htiles : b2.tiles = s.tiles :=
        (tiles_of_offStack hstack).trans (tiles_of_offStack (State.fetch_offStack hread) : s1.tiles = s.tiles)
      have hexec := execDmaDescriptorFetch_dense hw hrun hdesc hsq hoc hread hbad hsoft hd0 hill hctx hshape hok hdense (hd ▸ hfetch)
      rw [← hd, State.beginDesc_local b2 c w d hpeer] at hexec
      exact ⟨_, hexec, hbegun.1, hbegun.2, fun v => congrArg (Tab.get · v) hwards, htiles⟩
  · have hdone : execSquashComplete c s = .next (s.squashDone c) := if_pos (by rw [hsq]; rfl)
    have hone : ChanIs s s c (s.chan c) := ⟨rfl, fun _ _ => rfl⟩
    have hirq := (hone.modChan fun x =>
      { x with st := .squashed, squashing := none, squashCnt := incSat x.squashCnt x.remain.toNat, desc := none }).chanIrq
    refine ⟨_, hdone, hirq.1, hirq.2, fun v => ?_, fun a => State.chanIrq_rdByte _ c a⟩
    exact congrArg (Tab.get · v) ((State.wards_of_still (State.chanIrq_still _ c)).trans rfl : (s.squashDone c).wards = s.wards)

end Sys2Proof.Machine
end

section
/-! Statistics snapshots (R59 to R63): the request and the records. -/

namespace Sys2Proof.Machine
open Sys2Proof

/-! ### Counting leaves the beat and the clear mode of every ward -/

/-- Of each ward what a snapshot takes from it: the beat number and the clear mode. -/
def State.snapMarks (s : State) : Nat → W64 × Bool := fun w => ((s.ward w).num, (s.ward w).statClear)

theorem State.onSite_snapMarks (s : State) (i : Nat) (f : Site → Site) : (s.onSite i f).snapMarks = s.snapMarks := by
  unfold State.onSite
  extract_lets t
  split
  · rename_i w _
    refine ite_fixes State.snapMarks (fun _ => funext fun v => ?_) fun _ => rfl
    change (((t.modWard w _).ward v).num, ((t.modWard w _).ward v).statClear) = _
    by_cases hv : v = w
    · subst hv
      rw [State.modWard_ward_same]
      rfl
    · rw [State.modWard_ward_other _ _ _ _ hv]
      rfl
  · rfl

theorem State.someBlocks_snapMarks (s : State) (n : Nat) (out : Bool) (ds : List SiteDelta) :
    (s.someBlocks n out ds).1.snapMarks = s.snapMarks :=
  ite_fixes (fun p : State × Nat × SiteDelta => p.1.snapMarks) (fun _ => rfl) fun _ => rfl

theorem State.countPart_snapMarks (s : State) (c w : Nat) : (s.countPart c w).snapMarks = s.snapMarks := by
  unfold State.countPart
  extract_lets x
  split
  · rfl
  · refine ite_fixes State.snapMarks (fun _ => ?_) fun _ => rfl
    exact (State.onSite_snapMarks _ _ _).trans (State.someBlocks_snapMarks s _ _ _)

theorem State.countQuant_snapMarks (s : State) (d : Nat) : (s.countQuant d).snapMarks = s.snapMarks := by
  unfold State.countQuant
  split
  · refine ite_fixes State.snapMarks (fun _ => ?_) fun _ => rfl
    exact (State.onSite_snapMarks _ _ _).trans (State.someBlocks_snapMarks s _ _ _)
  · rfl

theorem State.addBlocks_snapMarks (s : State) (d n : Nat) (bs : List (Nat × Nat × SiteDelta)) :
    (s.addBlocks d n bs).snapMarks = s.snapMarks := by
  unfold State.addBlocks
  exact forEach_fixes State.snapMarks _ (fun t b => State.onSite_snapMarks t _ _) _ s

theorem State.countUpd_snapMarks (s : State) (w d : Nat) : (s.countUpd w d).snapMarks = s.snapMarks := by
  unfold State.countUpd
  extract_lets u t bs
  refine ite_fixes State.snapMarks (fun _ => rfl) fun _ => ?_
  exact (State.addBlocks_snapMarks _ _ _ _).trans rfl

theorem State.countRunning_snapMarks (s : State) (w : Nat) : (s.countRunning w).snapMarks = s.snapMarks := by
  unfold State.countRunning
  extract_lets a b
  have ha : a.snapMarks = s.snapMarks := forEach_fixes State.snapMarks _
    (fun t c => ite_fixes State.snapMarks (fun _ => t.countPart_snapMarks c w) fun _ => rfl) _ s
  have hb : b.snapMarks = a.snapMarks := forEach_fixes State.snapMarks _ (fun t d => t.countQuant_snapMarks d) _ a
  exact (forEach_fixes State.snapMarks _ (fun t d => t.countUpd_snapMarks w d) _ b).trans (hb.trans ha)

/-! ### The snapshot -/

theorem State.takeSnap_idle (s : State) (w : Nat) (h : (s.ward w).statSnap = false ∨ (s.ward w).snap.isSome = true) : s.takeSnap w = s := by
  unfold State.takeSnap
  refine if_neg ?_
  rintro ⟨hsnap, hnone⟩
  rcases h with h | h
  · rw [h] at hsnap
    cases hsnap
  · rw [Option.isNone_iff_eq_none.mp hnone] at h
    cases h

/-- The ward with its snapshot of the accumulators `l`. -/
def Ward.snapTaken (y : Ward) (l : Tab Site) : Ward :=
  { y with snap := some (y.num, l), statZeroed := y.statClear, statKept := if y.statClear then l else [] }

/-- The snapshot is of the ward's beat, and zeroes the accumulators in the clear mode. -/
theorem State.takeSnap_taken (s : State) (w : Nat) (h : (s.ward w).statSnap = true) (hnone : (s.ward w).snap = none) :
    (∃ l, ((s.takeSnap w).ward w).snap = some ((s.ward w).num, l)) ∧ ((s.takeSnap w).ward w).statZeroed = (s.ward w).statClear := by
  have hmarks : (((s.countRunning w).ward w).num, ((s.countRunning w).ward w).statClear) = ((s.ward w).num, (s.ward w).statClear) :=
    congrFun (s.countRunning_snapMarks w) w
  obtain ⟨hnum, hclear⟩ := Prod.mk.inj hmarks
  have hspec (v : State) (hv : ∃ l, v.ward w = ((s.countRunning w).ward w).snapTaken l) :
      (∃ l, (v.ward w).snap = some ((s.ward w).num, l)) ∧ (v.ward w).statZeroed = (s.ward w).statClear := by
    obtain ⟨l, hl⟩ := hv
    rw [hl, ← hnum, ← hclear]
    exact ⟨⟨l, rfl⟩, rfl⟩
  refine hspec _ ?_
  unfold State.takeSnap
  extract_lets y u x mine s'
  rw [if_pos ⟨h, Option.isNone_iff_eq_none.mpr hnone⟩]
  have hward : s'.ward w = (u.ward w).snapTaken (u.sites.filter mine) := State.modWard_ward_same u w _
  split
  · exact ⟨_, hward⟩
  · exact ⟨_, hward⟩

/-- A write of WRD_STAT_CTL: bit 0 asks for a snapshot, bit 1 is the clear mode, bit 2 clears the failed bit. -/
def Ward.statCtl (y : Ward) (g : RegW) : Ward :=
  { y with statFailed := y.statFailed && !g.lo.getLsbD 2, statClear := g.lo.getLsbD 1, statSnap := y.statSnap || g.lo.getLsbD 0 }

theorem execStatSnapRequest_refused (s : State) (r : Req) (w : Nat) (g : RegW) (hlive : s.live = true) (hw : w < 8)
    (hown : s.owns r w = false) : execStatSnapRequest r w g s = .next s.refuse := by
  unfold execStatSnapRequest
  rw [if_neg (by simpa [hlive] using Nat.le_of_lt_succ hw), if_pos (by simp [hown])]

theorem execStatSnapRequest_owned (s : State) (r : Req) (w : Nat) (g : RegW) (hlive : s.live = true) (hw : w < 8)
    (hown : s.owns r w = true) (hlegal : g.legal = true) (hoff : g.off = 0x1000208 + w * 0x100000) :
    execStatSnapRequest r w g s = .next (if (s.ward w).hasBeat then s.modWard w fun y => y.statCtl g
      else (s.modWard w fun y => y.statCtl g).takeSnap w) := by
  have hbeat : ((s.modWard w fun y => y.statCtl g).ward w).hasBeat = (s.ward w).hasBeat := by
    rw [State.modWard_ward_same]
    rfl
  unfold execStatSnapRequest
  rw [if_neg (by simpa [hlive] using Nat.le_of_lt_succ hw), if_neg (by simp [hown]), if_neg (by simp [hlegal, hoff]), ← hbeat]
  rfl

/-! ### The records of the dies -/

section
variable (w base : Nat) (sites : Tab Site)

theorem State.writeRecords_keeps (P : State → Prop) (hwrite : ∀ t va bs, P t → P (t.writeVa w 0 va bs)) (ns : List Nat) (s : State)
    (h : P s) : P (State.writeRecords w base sites ns s).1 := by
  induction ns generalizing s with
  | nil => exact h
  | cons n r ih =>
    rw [State.writeRecords]
    cases s.checkRange w 0 (base + n * 0xC000) 0xC000 true with
    | none => exact ih _ (hwrite s _ _ h)
    | some e => exact hwrite s _ _ h

theorem State.writeRecords_fixes {β : Type} (g : State → β) (hwrite : ∀ (t : State) va bs, g (t.writeVa w 0 va bs) = g t)
    (ns : List Nat) (s : State) : g (State.writeRecords w base sites ns s).1 = g s :=
  State.writeRecords_keeps w base sites (g · = g s) (fun t va bs ht => (hwrite t va bs).trans ht) ns s rfl

theorem State.writeRecords_wards (ns : List Nat) (s : State) : (State.writeRecords w base sites ns s).1.wards = s.wards :=
  State.writeRecords_fixes w base sites State.wards (fun t va bs => t.writeVa_wards w 0 va bs) ns s

theorem State.writeRecords_sites (ns : List Nat) (s : State) : (State.writeRecords w base sites ns s).1.sites = s.sites :=
  State.writeRecords_fixes w base sites State.sites (fun t va bs => t.writeVa_sites w 0 va bs) ns s

theorem State.writeRecords_units (ns : List Nat) (s : State) (hgood : ∀ i, (s.tile i).badWords = []) :
    (State.writeRecords w base sites ns s).1.units = s.units := by
  refine State.writeRecords_keeps w base sites (·.units = s.units) (fun t va bs ht => ?_) ns s rfl
  have htiles : t.tiles = s.tiles := congrArg (·.1) ht
  exact (t.writeVa_units w 0 va bs fun i => (congrArg (fun x => (Tab.get x i).badWords) htiles).trans (hgood i)).trans ht

/-- Where every check passes, no record fails: a written record changes nothing that the next check reads. -/
theorem State.writeRecords_written (ns : List Nat) (s : State)
    (h : ∀ n ∈ ns, s.checkRange w 0 (base + n * 0xC000) 0xC000 true = none) : (State.writeRecords w base sites ns s).2 = none := by
  induction ns generalizing s with
  | nil => rfl
  | cons n r ih =>
    rw [State.writeRecords, h n List.mem_cons_self]
    refine ih _ fun m hm => ?_
    rw [checkRange_of_xview (s.writeVa_xview w 0 _ _)]
    exact h m (List.mem_cons_of_mem n hm)

theorem State.writeRecords_first_fails (n : Nat) (r : List Nat) (s : State) (st : St) (bad : Nat)
    (h : s.checkRange w 0 (base + n * 0xC000) 0xC000 true = some (st, bad)) : State.writeRecords w base sites (n :: r) s =
      (s.writeVa w 0 (base + n * 0xC000) ((dieRecords sites n).take (bad - (base + n * 0xC000))), some (n, st)) := by
  rw [State.writeRecords, h]

end

/-! ### The end of a snapshot -/

/-- The snapshot of a ward is over, its beat reported. -/
def Ward.snapDone (y : Ward) (beat : W64) : Ward := { y with statSnap := false, snap := none, statBeat := beat, statZeroed := false, statKept := [] }

/-- The snapshot of a ward has failed. -/
def Ward.snapFailed (y : Ward) : Ward := { y with statFailed := true, statSnap := false, snap := none, statZeroed := false, statKept := [] }

/-- The accumulators that ward `y` zeroed are as they would be without it (R63). -/
def State.unzeroed (s : State) (w : Nat) (y : Ward) : State :=
  if y.statZeroed then { s with sites := (s.ward w).statKept.foldl (fun t e => t.set e.1 e.2) (s.sites.filter fun e => !y.holds (e.1 / 1024)) } else s

section
variable {s : State} {w : Nat}

theorem execStatSnapshotComplete_none (h : (s.ward w).snap = none) : execStatSnapshotComplete w s = .next s := by
  unfold execStatSnapshotComplete
  dsimp only
  rw [h]

variable {beat : W64} {sites : Tab Site} (h : (s.ward w).snap = some (beat, sites)) {t : State}
include h

theorem execStatSnapshotComplete_written
    (ht : State.writeRecords w ((s.ward w).reg oWrdStatBase) sites (s.ward w).dieList s = (t, none)) :
    execStatSnapshotComplete w s = .next (t.modWard w fun y => y.snapDone beat) := by
  unfold execStatSnapshotComplete
  dsimp only
  rw [h]
  dsimp only
  rw [ht]
  rfl

theorem execStatSnapshotComplete_failed {n : Nat} {st : St}
    (ht : State.writeRecords w ((s.ward w).reg oWrdStatBase) sites (s.ward w).dieList s = (t, some (n, st))) :
    execStatSnapshotComplete w s =
      .next (((t.unzeroed w (s.ward w)).modWard w Ward.snapFailed).dieEvent w n 11 0 st) := by
  unfold execStatSnapshotComplete
  dsimp only
  rw [h]
  dsimp only
  rw [ht]
  rfl

end

theorem State.unzeroed_wards (s : State) (w : Nat) (y : Ward) : (s.unzeroed w y).wards = s.wards :=
  ite_fixes State.wards (fun _ => rfl) fun _ => rfl

theorem State.unzeroed_units (s : State) (w : Nat) (y : Ward) : (s.unzeroed w y).units = s.units :=
  ite_fixes State.units (fun _ => rfl) fun _ => rfl

theorem State.unzeroed_sent (s : State) (w : Nat) (y : Ward) : (s.unzeroed w y).sent = s.sent :=
  ite_fixes State.sent (fun _ => rfl) fun _ => rfl

/-- Of a state whose wards are as in `s`, the update of ward `w` alone. -/
theorem OneWard.modWard_of_wards {s t : State} (h : t.wards = s.wards) (w : Nat) (f : Ward → Ward) :
    OneWard s (t.modWard w f) w (f (s.ward w)) := by
  have hward (v : Nat) : t.ward v = s.ward v := congrArg (Tab.get · v) h
  refine ⟨⟨(f (s.ward w)).structBad, ?_⟩, fun v hv => (State.modWard_ward_other t w f v hv).trans (hward v)⟩
  rw [State.modWard_ward_same, hward]

/-- Settles O46: the request by its owner, with the snapshot at once where the ward counts no beats; its end by induction on the dies whose
records are written. Up to where a refused record is written, and whose event tells it, is the model's choice (log entry 150). -/
theorem statisticsSnapshots : Obligations.StatisticsSnapshots := by
  refine ⟨fun s r w g y hlive hw hy => ⟨fun hown => execStatSnapRequest_refused s r w g hlive hw hown, fun hown hlegal hoff => ?_⟩,
    fun s w y hy => ?_⟩
  · have hexec := execStatSnapRequest_owned s r w g hlive hw hown hlegal hoff
    have hyw : (s.modWard w fun y => y.statCtl g).ward w = y := (State.modWard_ward_same s w _).trans hy.symm
    have honly : OnlyWard s (s.modWard w fun y => y.statCtl g) w y := OnlyWard.modWard s w _ y hy.symm
    have hbeat : y.hasBeat = (s.ward w).hasBeat := hy ▸ rfl
    rw [← hbeat] at hexec
    refine ⟨fun h => ?_, fun hb hsnap hnone => ?_⟩
    · by_cases hb : y.hasBeat = true
      · rw [if_pos hb] at hexec
        exact ⟨_, hexec, honly⟩
      · rw [if_neg hb, State.takeSnap_idle _ w (by rw [hyw]; exact h.resolve_left hb)] at hexec
        exact ⟨_, hexec, honly⟩
    · rw [if_neg (by rw [hb]; decide)] at hexec
      have htaken := State.takeSnap_taken (s.modWard w fun y => y.statCtl g) w (by rw [hyw]; exact hsnap) (by rw [hyw]; exact hnone)
      rw [hyw] at htaken
      have hclear : y.statClear = g.lo.getLsbD 1 := hy ▸ rfl
      rw [hclear] at htaken
      exact ⟨_, hexec, htaken⟩
  · subst hy
    refine ⟨execStatSnapshotComplete_none, fun beat sites hsnap => ⟨fun hok => ?_, fun n r st bad hdies hbad => ?_⟩⟩
    · have hnone := State.writeRecords_written w ((s.ward w).reg oWrdStatBase) sites (s.ward w).dieList s hok
      have hwards := State.writeRecords_wards w ((s.ward w).reg oWrdStatBase) sites (s.ward w).dieList s
      exact ⟨_, execStatSnapshotComplete_written hsnap (Prod.ext rfl hnone), OneWard.modWard_of_wards hwards w _,
        State.writeRecords_sites w _ sites _ s, fun hgood => SameUnits.of_units (State.writeRecords_units w _ sites _ s hgood)⟩
    · have hfirst := State.writeRecords_first_fails w ((s.ward w).reg oWrdStatBase) sites n r s st bad hbad
      rw [← hdies] at hfirst
      have hexec := execStatSnapshotComplete_failed hsnap hfirst
      clear hfirst
      generalize (dieRecords sites n).take (bad - ((s.ward w).reg oWrdStatBase + n * 0xC000)) = bs at hexec
      generalize ht : s.writeVa w 0 ((s.ward w).reg oWrdStatBase + n * 0xC000) bs = t at hexec
      have hwards : t.wards = s.wards := ht ▸ s.writeVa_wards w 0 _ bs
      have hsites : t.sites = s.sites := ht ▸ s.writeVa_sites w 0 _ bs
      have hkept : (t.ward w).statKept = (s.ward w).statKept := congrArg (fun x : Tab Ward => (x.get w).statKept) hwards
      refine ⟨_, hexec, OneWard.modWard_of_wards ((State.unzeroed_wards t w _).trans hwards) w _,
        fun hgood => SameUnits.of_units ((State.unzeroed_units t w _).trans (ht ▸ s.writeVa_units w 0 _ bs hgood)), ?_, fun hz => ?_, fun k a hz hk => ?_⟩
      · exact ⟨_, _, congrArg (· ++ [_]) (State.unzeroed_sent t w _)⟩
      · change (t.unzeroed w (s.ward w)).sites = s.sites
        unfold State.unzeroed
        rw [if_neg (by rw [hz]; decide)]
        exact hsites
      · change (t.unzeroed w (s.ward w)).sites.get k = a
        unfold State.unzeroed
        rw [if_pos hz, hkept, hk]
        exact Tab.get_set_same _ k a

end Sys2Proof.Machine
end

section
/-! Flits of a reduction (R337, R392): what sending leaves alone, and a chunk that goes on through a damaged sector. -/

namespace Sys2Proof.Machine
open Sys2Proof

/-! ### Sending leaves memory alone -/

theorem State.sendOne_mem (s t : State) (k : Nat) (h : s.sendOne k = some t) : t.mem = s.mem := by
  unfold State.sendOne at h
  dsimp only at h
  split at h
  · cases h
  · split at h
    · cases h
    · split at h
      · cases h
      · cases h
        rfl

theorem State.pumpN_mem (n : Nat) (s : State) (k : Nat) : (State.pumpN n s k).mem = s.mem := by
  induction n generalizing s with
  | zero => rfl
  | succ n ih =>
    unfold State.pumpN
    split
    · rename_i t heq
      exact (ih t).trans (State.sendOne_mem s t k heq)
    · rfl

theorem State.portOf_mem (s : State) (own : Option Nat) (f : Flit) : (s.portOf own f).2.mem = s.mem := by
  unfold State.portOf
  refine ite_fixes (fun p : Option Nat × State => p.2.mem) (fun _ => rfl) fun _ => ?_
  extract_lets drop
  split
  · rfl
  · split
    · rfl
    · exact ite_fixes State.mem (fun _ => rfl) fun _ => rfl

theorem State.route_mem (s : State) (f : Flit) (p : List Byte) (own : Option Nat) : (s.route f p own).mem = s.mem := by
  have hport := State.portOf_mem s own f
  unfold State.route
  extract_lets under
  refine ite_fixes State.mem (fun _ => rfl) fun _ => ?_
  split
  · rename_i k t heq
    rw [heq] at hport
    exact (State.pumpN_mem _ _ k).trans hport
  · rename_i t heq
    rwa [heq] at hport

theorem State.sendXfer_mem (s : State) (x : Sender) (type vc : Nat) (bs : List Byte) : (s.sendXfer x type vc bs).mem = s.mem :=
  forEach_fixes State.mem _ (fun t (a : List Byte × Nat) => State.route_mem t _ a.1 x.own) _ s

theorem State.idleFlit_mem (s : State) (k : Nat) : (s.idleFlit k).mem = s.mem := ite_fixes State.mem (fun _ => rfl) fun _ => rfl

/-! ### A good flit in sequence -/

/-- The module after the receive path of a good flit in sequence, before the flit acts: the link's counts, then its retry buffer and
credits (R373, R375). -/
def State.received (s : State) (k : Nat) (f : Flit) (chk : FlitCheck) : State :=
  ((s.modLink k fun l => { l with corrected := incSat l.corrected chk.corrected }).modLink k fun l =>
    { l with rxCount := l.rxCount + 1, rxNext := (l.rxNext + 1) % 4096, owed := l.owed.set f.vc (l.owed.getD f.vc 0 + 1) }).modLink k fun l =>
    { l.ackTo f.ack with credits := (l.ackTo f.ack).credits.set f.crvc (min (vcSize f.crvc) ((l.ackTo f.ack).credits.getD f.crvc 0 + f.crcnt)) }

/-- It is the state of which `State.accepts` speaks. -/
theorem State.received_only (s : State) (k : Nat) (f : Flit) (chk : FlitCheck) :
    let y := s.link k
    let z := ({ y with corrected := incSat y.corrected chk.corrected, rxCount := y.rxCount + 1, rxNext := (y.rxNext + 1) % 4096,
                       owed := y.owed.set f.vc (y.owed.getD f.vc 0 + 1) } : Link).ackTo f.ack
    OnlyLink s (s.received k f chk) k
      { z with credits := z.credits.set f.crvc (min (vcSize f.crvc) (z.credits.getD f.crvc 0 + f.crcnt)) } := by
  refine ⟨?_, fun j hj => ?_, fun _ => rfl, rfl⟩
  · simp only [State.received, State.modLink_link_same]
  · simp only [State.received, State.modLink_link_other _ _ _ j hj]

theorem Link.ackTo_txq (l : Link) (a : Nat) : (l.ackTo a).txq = l.txq := by
  unfold Link.ackTo
  split
  · rfl
  · exact ite_fixes Link.txq (fun _ => rfl) fun _ => rfl

/-- With nothing of its own to send and no multicast flit waiting, the link only takes the acknowledgements of a flit without a NAK. -/
theorem State.takeAcks_idle (s : State) (k : Nat) (f : Flit) (hnak : f.nak = false) (htxq : (s.link k).txq = []) : s.takeAcks k f =
    s.modLink k fun l =>
      { l.ackTo f.ack with credits := (l.ackTo f.ack).credits.set f.crvc (min (vcSize f.crvc) ((l.ackTo f.ack).credits.getD f.crvc 0 + f.crcnt)) } := by
  unfold State.takeAcks
  extract_lets t
  have hpump : t.pump k = t := by
    have hlen : (t.link k).txq = [] := by
      rw [State.modLink_link_same]
      exact (Link.ackTo_txq _ _).trans htxq
    unfold State.pump
    rw [hlen]
    rfl
  rw [hnak]
  exact hpump

/-- What acts on the module is what the flit does after the receive path. -/
theorem State.receive_mem {s u : State} {k : Nat} {f : Flit} {chk : FlitCheck} (h : s.accepts u k f chk) (body : State → State) :
    (s.receive k f chk body).mem = (body (s.received k f chk)).mem := by
  obtain ⟨hlive, hk, hup, htxq, hmc, hcrc, htag, hnak, hseq, htype, hkept, -⟩ := h
  unfold State.receive
  rw [if_neg (by simp only [hlive, hup]; simpa using hk)]
  extract_lets t1 t2 t3 t4 n t5
  have hseq1 : f.seq = (t1.link k).rxNext := by
    rw [State.modLink_link_same]
    exact hseq
  have hkept1 : t1.isKept f = false := hkept
  have ht2 : t2 = t1.modLink k fun l =>
      { l with rxCount := l.rxCount + 1, rxNext := (l.rxNext + 1) % 4096, owed := l.owed.set f.vc (l.owed.getD f.vc 0 + 1) } := by
    unfold t2
    simp only [if_neg htype, hkept1, Bool.false_eq_true, if_false]
  have htxq2 : (t2.link k).txq = [] := by
    rw [ht2, State.modLink_link_same, State.modLink_link_same]
    exact htxq
  have ht3 : t3 = s.received k f chk := by
    unfold t3
    rw [State.takeAcks_idle t2 k f hnak htxq2, ht2]
    rfl
  have ht4 : t4 = t3 := by
    unfold t4
    rw [ht3, show (s.received k f chk).mcWait = [] from hmc]
    rfl
  rw [if_neg (by simp [hcrc, ← hseq1]), if_neg (by simp [htag])]
  have hbody : t5 = body (s.received k f chk) := by
    unfold t5
    rw [ht4, ht3]
  rw [← hbody]
  exact ite_fixes State.mem (fun _ => State.idleFlit_mem t5 k) fun _ => rfl

end Sys2Proof.Machine
end

section
/-! A REDUCE flit completes a chunk whose next sector is damaged, while records are mirrored (R337, R392, R449, R492): O49 fails. -/

namespace Sys2Proof.Machine
open Sys2Proof

/-! ### A record in a mirror -/

/-- What of the collector's state says whether and where records are mirrored. -/
def Saf.mirrors (f : Saf) : Bool × W64 × Bool := (f.mirrorAEn, f.mirrorA, f.mirrorBEn)

theorem State.stored_mirrors (s : State) (e : FRec) : (s.stored e).saf.mirrors = s.saf.mirrors := by
  have htrim (f : Saf) : f.trim.mirrors = f.mirrors := by
    unfold Saf.trim
    extract_lets d
    exact ite_fixes Saf.mirrors (fun _ => by simp only [Saf.mirrors]) fun _ => rfl
  unfold State.stored
  extract_lets f t u
  have ht : t.saf.mirrors = s.saf.mirrors := (htrim _).trans rfl
  have hu : u.saf.mirrors = s.saf.mirrors := ite_fixes (fun v : State => v.saf.mirrors) (fun _ => ht) fun _ => ht
  exact ite_fixes (fun v : State => v.saf.mirrors) (fun _ => hu) fun _ => hu

theorem State.msix_rdByte (s : State) (port func vec a : Nat) : (s.msix port func vec).rdByte a = s.rdByte a :=
  ite_fixes (State.rdByte · a) (fun _ => rfl) fun _ => rfl

/-- A record begins with its number. -/
theorem FRec.bytes_cons (r : FRec) : ∃ l, r.bytes = BitVec.ofNat 8 r.seq :: l := by
  unfold FRec.bytes
  rw [show toLE 8 r.seq = BitVec.ofNat 8 r.seq :: toLE 7 (r.seq / 256) from rfl]
  simp only [List.cons_append]
  exact ⟨_, rfl⟩

theorem State.rdByte_wrBytes_head (s : State) (a : Nat) (b : Byte) (l : List Byte) : (s.wrBytes a (b :: l)).rdByte a = b :=
  State.rdByte_wrBytes_in s a (b :: l) 0 (Nat.zero_lt_succ _)

/-- Where port A's mirror puts the record of number `q`. -/
def mirrorAt (reg : W64) (q : Nat) : Nat := hostBase 0 (mirrorBase reg + (q - 1) % 2 ^ mirrorLog reg * 128)

/-- The mirror of port A takes a record's bytes, its number first. -/
theorem State.mirrorTo_rdByte (s : State) (reg : W64) (e : FRec) (hlog : mirrorLog reg ≠ 0) (hio : s.canIssue 0 0 = true) :
    (s.mirrorTo 0 true reg e).rdByte (mirrorAt reg e.seq) = BitVec.ofNat 8 e.seq ∧ (s.mirrorTo 0 true reg e).saf = s.saf := by
  obtain ⟨l, hl⟩ := e.bytes_cons
  have hmirror : s.mirrorTo 0 true reg e = (s.wrBytes (mirrorAt reg e.seq) e.bytes).msix 0 0 (mirrorVec reg) := by
    unfold State.mirrorTo State.hostWrite mirrorAt
    rw [if_pos (by simp only [Bool.true_and, bne_iff_ne]; exact hlog), if_pos hio]
  obtain ⟨n, o, hmsix⟩ := State.msix_spec (s.wrBytes (mirrorAt reg e.seq) e.bytes) 0 0 (mirrorVec reg)
  have hhead := State.rdByte_wrBytes_head s (mirrorAt reg e.seq) (BitVec.ofNat 8 e.seq) l
  rw [hl] at hmsix hmirror
  rw [hmirror, hmsix]
  exact ⟨hhead, State.wrBytes_saf s (mirrorAt reg e.seq) (BitVec.ofNat 8 e.seq :: l)⟩

/-- In fall-back a record is written to host memory, where its mirror is on. -/
theorem State.report_rdByte (s : State) (r : FRec) (hfall : s.saf.fallback = true) {reg : W64} (hmir : s.saf.mirrors = (true, reg, false))
    (hlog : mirrorLog reg ≠ 0) (hio : s.canIssue 0 0 = true) :
    (s.report r).rdByte (mirrorAt reg s.saf.seqNext) = BitVec.ofNat 8 s.saf.seqNext := by
  obtain ⟨f, o, hstored, -⟩ := State.stored_spec s (s.filled r)
  have hsaf := (State.stored_mirrors s (s.filled r)).trans hmir
  have hio' : (s.stored (s.filled r)).canIssue 0 0 = true := by
    rw [hstored]
    exact hio
  rw [State.report_eq, if_pos (by rw [hfall]; rfl), show s.saf.seqNext = (s.filled r).seq from rfl]
  generalize s.stored (s.filled r) = t at hsaf hio'
  generalize s.filled r = e
  obtain ⟨hA, hreg, hB⟩ : t.saf.mirrorAEn = true ∧ t.saf.mirrorA = reg ∧ t.saf.mirrorBEn = false := by
    simpa only [Saf.mirrors, Prod.mk.injEq] using hsaf
  unfold State.noted
  extract_lets u g v
  have hvA : v.saf.mirrorAEn = true := hA
  have hvreg : v.saf.mirrorA = reg := hreg
  have hvB : v.saf.mirrorBEn = false := hB
  obtain ⟨hbyte, hkeep⟩ := State.mirrorTo_rdByte v reg e hlog hio'
  rw [hvA, hvreg, hkeep, hvB]
  exact hbyte

/-! ### A damaged sector -/

/-- A read of a sector under another key makes a record (R449). -/
theorem State.readTag_mismatch (s : State) (sec key w c : Nat) (hset : s.secTags.get sec ≠ default) (hkey : (s.secTags.get sec).key ≠ key) :
    ∃ (t : State) (r : FRec), (s.readTag sec key w c false).1 = t.report r ∧ t.saf = s.saf ∧ t.ports = s.ports ∧ t.funcs = s.funcs := by
  unfold State.readTag
  extract_lets tag a b d e
  rw [if_neg (by decide), if_neg hset, if_neg hkey]
  exact ⟨e, _, rfl, rfl, rfl, rfl⟩

theorem State.readTag_match (s : State) (sec key w c : Nat) (hkey : (s.secTags.get sec).key = key) : (s.readTag sec key w c false).1 = s := by
  unfold State.readTag
  extract_lets tag a b d e
  rw [if_neg (by decide)]
  refine ite_fixes (fun p : State × SecRead => p.1) (fun _ => rfl) fun _ => ?_
  rw [if_pos hkey]
  split <;> rfl

/-- A read of two sectors: the tag of each is checked, in order. -/
theorem State.readVa_two (s : State) (w c va n : Nat) {p q : Nat × Nat} {l m : Loc} (hcut : pieces va n = [p, q])
    (hl : s.xlate w c p.1 false = .ok l) (hm : s.xlate w c q.1 false = .ok m) (hlk : l.kind = .stack) (hmk : m.kind = .stack)
    (hkey : (s.secTags.get (l.pa / 256)).key = (s.slot l.slot).key) :
    (s.readVa w c va n).1 = (s.readTag (m.pa / 256) (s.slot m.slot).key w c false).1 := by
  have hgood := State.readTag_match s (l.pa / 256) (s.slot l.slot).key w c hkey
  unfold State.readVa
  rw [hcut]
  simp only [List.foldl_cons, List.foldl_nil, hl, hlk, List.contains_nil, hgood, hm, hmk]

/-! ### The flit and its chunk -/

/-- A write transfer that is taken acts as its bytes do. -/
theorem State.takeOrKeep_mem {s : State} {k : Nat} {f : Flit} {va : Addr} {n : Nat} {cp : Bool} {p : List Byte} {put : State → Nat → List Byte → State}
    (hkept : s.isKept f = false) (hbad : s.flitBad f = none) (hcheck : s.peerCheck f.ward f.ctx va.toNat (p.take n).length true = none) :
    (s.takeOrKeep k f (some (va, n)) cp p put).mem = (put s va.toNat (p.take n)).mem := by
  unfold State.takeOrKeep
  rw [if_neg (by rw [hkept]; decide)]
  unfold State.takeWrite
  rw [hbad]
  dsimp only [State.xferAt]
  rw [hcheck]
  rfl

theorem State.accepts.not_kept {s u : State} {k : Nat} {f : Flit} {chk : FlitCheck} (h : s.accepts u k f chk) : s.isKept f = false := by
  obtain ⟨-, -, -, -, -, -, -, -, -, -, hkept, -⟩ := h
  exact hkept

/-- A REDUCE flit that is taken acts as its bytes do, then the chunk goes on. -/
theorem execFlitReduce_mem {s u : State} {k : Nat} {f : Flit} {chk : FlitCheck} (h : s.accepts u k f chk) (htype : f.type = 5)
    (hdst : f.dst = s.linkAddr) (hd : f.dst ≤ 67) (hs : f.src ≤ 67) (hfence : s.modFenced = false) (hbad : (s.received k f chk).flitBad f = none)
    (va : Addr) (n : Nat) (cp : Bool) (p : List Byte) (hcheck : (s.received k f chk).peerCheck f.ward f.ctx va.toNat (p.take n).length true = none) :
    ∃ t, execFlitReduce k f chk (some (va, n)) cp p s = .next t ∧
      t.mem = ((s.received k f chk).reduceFlit f cp va.toNat (p.take n)).mem := by
  have hkept : (s.received k f chk).isKept f = false := h.not_kept
  unfold execFlitReduce
  rw [if_neg (by simp [htype])]
  refine ⟨_, rfl, (State.receive_mem h _).trans ?_⟩
  unfold State.forward
  rw [if_neg (by omega), if_pos ⟨hdst, hfence⟩]
  refine (State.takeOrKeep_mem hkept hbad hcheck).trans rfl

/-- Of key `k`, a chunk by its die and kind, `n` bytes have come. -/
def Train.redTook (t : Train) (k n : Nat) : Train := { t with redGot := t.redGot.set k n }

/-- The chunk that the last bytes make whole goes on. -/
theorem State.reduceTook_whole (s : State) (w c va n : Nat) (copy : Bool) {d j : Nat}
    (hchunk : ((s.train w c).record.dies.findSome? fun d => ((s.train w c).record.chunkAt d (s.ward w).nrep va).map fun j => (d, j)) = some (d, j))
    (hst : (s.train w c).st = .reduce)
    (hwhole : (s.train w c).redGot.get ((64 * d + j) * 2 + copy.toNat) + n = 4 * (((s.train w c).record.chunk d (s.ward w).nrep j).map (·.2)).sum)
    (hmore : ¬(copy = true ∧ j = ((s.ward w).replica + 2) % (s.ward w).nrep)) : ∃ more, s.reduceTook w c va n copy =
      (s.modTrain w c fun t => t.redTook ((64 * d + j) * 2 + copy.toNat)
        ((s.train w c).redGot.get ((64 * d + j) * 2 + copy.toNat) + n)).sendChunk w c d j more := by
  unfold State.reduceTook
  dsimp only
  rw [hchunk]
  dsimp only
  rw [if_neg (by simp [hst]), if_neg (by rintro (h | h); exacts [h hwhole, hmore h])]
  exact ⟨_, rfl⟩

/-- What a chunk of one run changes in memory is what reading it changes. -/
theorem State.sendChunk_mem (s : State) (w c d j : Nat) (copy : Bool) {m va n : Nat}
    (htwin : s.twin w (((s.ward w).replica + 1) % (s.ward w).nrep) = some m)
    (hrun : (s.train w c).record.chunk d (s.ward w).nrep j = [(va, n)]) :
    (s.sendChunk w c d j copy).mem = ((s.sender w c m).2.readVa w c va (4 * n)).1.mem := by
  unfold State.sendChunk
  dsimp only
  rw [htwin]
  dsimp only
  rw [hrun]
  exact State.sendXfer_mem _ _ _ _ _

/-! ### The counterexample -/

/-- A run of two replicas, of which this one is the second; the gradients of die 0 stand at 252, four of them. -/
def ringRecord : TrainRec :=
  { state := [(0, 252)], tensors := [{ die := 0, group := 0, role := 0, partner := 0, rows := 1, cols := 4, off := 0, goff := 0, ioff := 0, cw := 0 }] }

/-- Context 1 reduces; of chunk 0, two elements, the second has come as a copy. -/
def ringWard : Ward :=
  { st := .running, dies := 1, registry := [(1, { st := .registered })],
    job := some { prog := { nrep := 2, replicas := [[(5, 0)], [(3, 0)]], index := 1 }, program := 0, len := 0, jseq := 1, ring := 0, began := true },
    l1 := [(0, leafWord 0 3 1)], trains := [(1, { st := .reduce, redGot := [(1, 4)], record := ringRecord })] }

/-- The module with ward 0 in that run: sector 1, in which the chunk ends, was written under another key, and in fall-back the host's
port A mirrors the fault records. -/
def ringState : State :=
  { State.reset with
    life := .up, linkAddr := 3, standby := false, links := [(47, { st := .up })], wards := [(0, ringWard)],
    slots := [(1, { st := .live, ward := 0, members := [1], key := 5, epoch := 7 })], secTags := [(1, { kind := .plain, key := 6 })],
    ports := [(0, { up := true })], funcs := [(0, { bme := true })], saf := { fallback := true, mirrorAEn := true, mirrorA := 6 } }

/-- The REDUCE flit that brings the chunk's first element, and its payload: 1.0. -/
def ringFlit : Flit :=
  { type := 5, vc := 2, dst := 3, src := 5, ward := 0, last := true, len := 4, ctx := 1, epoch := 7, seq := 0, ack := 0, nak := false, crvc := 0,
    crcnt := 0, tree := 0, xid := 0 }

def ringPayload : List Byte := [0x00, 0x00, 0x80, 0x3F]

theorem ringState_accepts : ringState.accepts (ringState.received 47 ringFlit {}) 47 ringFlit {} :=
  ⟨by decide +kernel, by decide, by decide +kernel, by decide +kernel, by decide +kernel, rfl, rfl, rfl, by decide +kernel, by decide, by decide +kernel,
    State.received_only ringState 47 ringFlit {}⟩

/-- The copy has been written. -/
def ringWritten : State := (ringState.received 47 ringFlit {}).writeVa 0 1 252 ringPayload

/-- The chunk is whole, and is about to be read. -/
def ringSends : State := ((ringWritten.modTrain 0 1 fun t => t.redTook 1 8).sender 0 1 5).2

theorem ringWritten_sends : (ringWritten.reduceTook 0 1 252 4 true).mem = (ringSends.readVa 0 1 252 8).1.mem := by
  obtain ⟨more, hmore⟩ := State.reduceTook_whole ringWritten 0 1 252 4 true (d := 0) (j := 0) (by decide +kernel) (by decide +kernel)
    (by decide +kernel) (by decide +kernel)
  rw [hmore]
  exact State.sendChunk_mem _ 0 1 0 0 more (m := 5) (va := 252) (n := 2) (by decide +kernel) (by decide +kernel)

theorem ringSends_reads : (ringSends.readVa 0 1 252 8).1 = (ringSends.readTag 1 5 0 1 false).1 := by
  have h := State.readVa_two ringSends 0 1 252 8 (p := (252, 4)) (q := (256, 4)) (l := ⟨.stack, 252, 1, 0⟩) (m := ⟨.stack, 256, 1, 0⟩)
    (by decide +kernel) (by rfl) (by rfl) rfl rfl (by decide +kernel)
  exact h

/-- Reading the chunk makes a record, and its mirror stands in host memory. -/
theorem ringSends_mirrors : (ringSends.readVa 0 1 252 8).1.rdByte (mirrorAt 6 1) = 1 := by
  obtain ⟨t, r, hreport, hsaf, hports, hfuncs⟩ := State.readTag_mismatch ringSends 1 5 0 1 (by decide +kernel) (by decide +kernel)
  have hs : ringSends.saf = { fallback := true, mirrorAEn := true, mirrorA := 6 } := by decide +kernel
  have hio : t.canIssue 0 0 = true := by
    unfold State.canIssue State.port State.func
    rw [hports, hfuncs]
    decide +kernel
  have hbyte := State.report_rdByte t r (reg := 6) (by rw [hsaf, hs]) (by rw [hsaf, hs]; rfl) (by decide) hio
  rw [hsaf, hs] at hbyte
  rw [ringSends_reads, hreport]
  exact hbyte

theorem ringWritten_unmirrored : ringWritten.rdByte (mirrorAt 6 1) = 0 := by decide +kernel

/-- What REDUCE does in `ringState`: it copies its element, and the chunk that this makes whole goes on. -/
theorem ringFlit_mem : ∃ t, exec (.flitReduce 47 ringFlit {} (some (252, 4)) true ringPayload) ringState = .next t ∧
    t.mem = (ringSends.readVa 0 1 252 8).1.mem := by
  obtain ⟨t, ht, hmem⟩ := execFlitReduce_mem ringState_accepts rfl rfl (by decide) (by decide) rfl (by decide +kernel) 252 4 true ringPayload
    (by decide +kernel)
  exact ⟨t, ht, hmem.trans ringWritten_sends⟩

/-- Refutes O49: a REDUCE flit that copies the last element of a chunk also sends that chunk on (R337). Reading it meets a sector written
under another key, and in fall-back the fault record is mirrored into host memory (R492), so memory is not just what the copy leaves. -/
theorem not_flitsActAtTheirDestination : ¬ Obligations.FlitsActAtTheirDestination := by
  rintro ⟨-, h⟩
  obtain ⟨-, hwrite, -⟩ := h ringState (ringState.received 47 ringFlit {}) 47 ringFlit {} _ rfl ringState_accepts rfl (by decide) (by decide) rfl
  obtain ⟨-, -, hreduce⟩ := hwrite 252 4 ringPayload ringPayload (by decide +kernel) rfl (by decide +kernel)
  obtain ⟨t, ht, hcopy, -⟩ := hreduce true rfl
  obtain ⟨t', ht', hmem⟩ := ringFlit_mem
  have hsame : t = t' := by
    rw [ht] at ht'
    exact Host.Outcome.next.inj ht'
  have hwritten : t'.mem = ringWritten.mem := hsame ▸ hcopy rfl
  have hzero : (ringSends.readVa 0 1 252 8).1.rdByte (mirrorAt 6 1) = 0 :=
    (congrArg (fun m => Tab.get (β := Byte) m (mirrorAt 6 1)) (hmem.symm.trans hwritten)).trans ringWritten_unmirrored
  rw [ringSends_mirrors] at hzero
  exact absurd hzero (by decide)

end Sys2Proof.Machine
end

section
/-! Promotions and BF16 conversions (R45, R46, R102): which results can be a NaN. -/

namespace Sys2Proof.Machine
open Sys2Proof

/-! ### FP32 results -/

/-- Packing saturates at the bits of infinity. -/
theorem f32Mag_pack (neg : Bool) (r : Nat) (q : Int) : f32Mag (f32Pack neg r q) ≤ 0x7F800000 := by
  unfold f32Pack f32Mag
  extract_lets b c
  have hc : c ≤ 0x7F800000 := Nat.min_le_right _ _
  rw [BitVec.toNat_ofNat]
  cases neg
  · simp only [Bool.false_eq_true, if_false]
    omega
  · simp only [if_true]
    omega

theorem f32IsNan_pack (neg : Bool) (r : Nat) (q : Int) : f32IsNan (f32Pack neg r q) = false :=
  decide_eq_false (Nat.not_lt.mpr (f32Mag_pack neg r q))

theorem f32IsNan_rne (x : Dy) : f32IsNan (f32Rne x) = false :=
  ite_fixes f32IsNan (fun _ => rfl) fun _ => f32IsNan_pack _ _ _

theorem f32IsNan_sr (x : Dy) (u : Nat) : f32IsNan (f32Sr x u) = false :=
  ite_fixes f32IsNan (fun _ => rfl) fun _ => f32IsNan_pack _ _ _

/-! ### Promotion (R102) -/

theorem promoteElem_empty {r : RunSum} (rnd : Rnd) (w g : W32) (h : r.empty = true) : promoteElem rnd r w g = (w, g, 0) := if_pos h

section
variable {r : RunSum} {w : W32} (rnd : Rnd) (g : W32) (he : r.empty = false)
include he

theorem promoteElem_inf (hi : f32IsInf w = true) : promoteElem rnd r w g = (w, g, 1) := by
  unfold promoteElem
  rw [if_neg (by simp [he]), if_pos hi]

theorem promoteElem_zero (hi : f32IsInf w = false) (hz : ((f32Val w).add ⟨r.m, r.e⟩).m = 0) : promoteElem rnd r w g = (0, g, 0) := by
  unfold promoteElem
  rw [if_neg (by simp [he]), if_neg (by simp [hi]), if_pos hz]

theorem promoteElem_rne (hi : f32IsInf w = false) (hz : ((f32Val w).add ⟨r.m, r.e⟩).m ≠ 0) :
    (promoteElem .rne r w g).1 = f32Rne ((f32Val w).add ⟨r.m, r.e⟩) ∧ (promoteElem .rne r w g).2.1 = g := by
  unfold promoteElem
  rw [if_neg (by simp [he]), if_neg (by simp [hi]), if_neg hz]
  exact ⟨rfl, rfl⟩

theorem promoteElem_sr (hi : f32IsInf w = false) (hz : ((f32Val w).add ⟨r.m, r.e⟩).m ≠ 0) :
    (promoteElem .sr r w g).1 = f32Sr ((f32Val w).add ⟨r.m, r.e⟩) (genDraw g).1 ∧ (promoteElem .sr r w g).2.1 = (genDraw g).2 := by
  unfold promoteElem
  rw [if_neg (by simp [he]), if_neg (by simp [hi]), if_neg hz]
  generalize genDraw g = draw
  exact ⟨rfl, rfl⟩

end

/-- The five ways a promotion can go: the element or a rounded sum stays, and neither is a NaN. -/
theorem f32IsNan_promoteElem (rnd : Rnd) (r : RunSum) (w g : W32) (hw : f32IsNan w = false) : f32IsNan (promoteElem rnd r w g).1 = false := by
  rcases Bool.eq_false_or_eq_true r.empty with he | he
  · rwa [promoteElem_empty rnd w g he]
  rcases Bool.eq_false_or_eq_true (f32IsInf w) with hi | hi
  · rwa [promoteElem_inf rnd g he hi]
  by_cases hz : ((f32Val w).add ⟨r.m, r.e⟩).m = 0
  · rw [promoteElem_zero rnd g he hi hz]
    rfl
  cases rnd with
  | rne => rw [(promoteElem_rne g he hi hz).1, f32IsNan_rne]
  | sr => rw [(promoteElem_sr g he hi hz).1, f32IsNan_sr]

theorem promoteElem_keeps_inf (rnd : Rnd) (r : RunSum) {w : W32} (g : W32) (hi : f32IsInf w = true) :
    (promoteElem rnd r w g).1 = w ∧ (promoteElem rnd r w g).2.1 = g := by
  rcases Bool.eq_false_or_eq_true r.empty with he | he
  · rw [promoteElem_empty rnd w g he]
    exact ⟨rfl, rfl⟩
  · rw [promoteElem_inf rnd g he hi]
    exact ⟨rfl, rfl⟩

/-! ### Rounding to 16 bits (R46) -/

/-- Round to nearest even gives the quotient rounded down, or one more where the division leaves a rest. -/
theorem rneDiv_cases (t : Int) (d : Nat) :
    rneDiv t d = t / (2 ^ d : Nat) ∨ rneDiv t d = t / (2 ^ d : Nat) + 1 ∧ t % (2 ^ d : Nat) ≠ 0 := by
  have hp : (0 : Int) < (2 ^ d : Nat) := by positivity
  unfold rneDiv
  extract_lets p q r
  change 0 < p at hp
  change _ ∨ _ ∧ r ≠ 0
  by_cases hlow : 2 * r < p
  · exact Or.inl (if_pos hlow)
  · have hr : r ≠ 0 := by omega
    rw [if_neg hlow]
    split
    · exact Or.inr ⟨rfl, hr⟩
    · split
      · exact Or.inl rfl
      · exact Or.inr ⟨rfl, hr⟩

theorem rneDiv_exact (c : Int) (d : Nat) : rneDiv (c * (2 ^ d : Nat)) d = c := by
  have hp : ((2 ^ d : Nat) : Int) ≠ 0 := by positivity
  rcases rneDiv_cases (c * (2 ^ d : Nat)) d with h | ⟨-, h⟩
  · rw [h, Int.mul_ediv_cancel c hp]
  · exact absurd (Int.mul_emod_left c _) h

/-- A magnitude that is at most infinity's rounds to one that is at most BF16's infinity. -/
theorem rneDiv_infinity {b : Nat} (h : b ≤ 0x7F800000) : 0 ≤ rneDiv b 16 ∧ rneDiv b 16 ≤ 0x7F80 := by
  rcases rneDiv_cases b 16 with h' | ⟨h', hr⟩
  · omega
  · omega

/-! ### FP32 to BF16 and back (R45, R46) -/

theorem f32ToBf16_poison : f32ToBf16 f32Poison = bf16Poison := rfl

/-- The upper half of a NaN, made quiet. -/
def bf16Quiet (w : W32) : W16 := BitVec.ofNat 16 (w.toNat / 2 ^ 16) ||| 0x0040

theorem f32ToBf16_nan {w : W32} (hp : w ≠ f32Poison) (hn : f32IsNan w = true) :
    f32ToBf16 w = if bf16Quiet w = bf16Poison then 0x7FC0 else bf16Quiet w := by
  unfold f32ToBf16
  rw [if_neg hp, if_pos hn]
  rfl

theorem f32ToBf16_number {w : W32} (hn : f32IsNan w = false) :
    f32ToBf16 w = BitVec.ofNat 16 ((rneDiv (f32Mag w) 16).toNat + (if f32Neg w then 2 ^ 15 else 0)) := by
  have hp : w ≠ f32Poison := by
    rintro rfl
    exact absurd hn (by decide)
  unfold f32ToBf16
  rw [if_neg hp, if_neg (by simp [hn])]

/-- With bit 6 set, a magnitude at or above infinity's lies above it. -/
theorem quiet_above_infinity {m : Nat} (h : 0x7F80 ≤ m) : 0x7F80 < m ||| 0x40 := by
  refine lt_of_le_of_ne (h.trans Nat.left_le_or) fun he => ?_
  have hbit : (0x7F80 : Nat).testBit 6 = (m.testBit 6 || (0x40 : Nat).testBit 6) := he ▸ Nat.testBit_or ..
  simp [show (0x7F80 : Nat).testBit 6 = false by decide, show (0x40 : Nat).testBit 6 = true by decide] at hbit

theorem bf16Quiet_nan {w : W32} (hn : f32IsNan w = true) : 0x7F80 < (bf16Quiet w).toNat % 2 ^ 15 ∧ (bf16Quiet w).getLsbD 6 = true := by
  have hmag : 0x7F800000 < w.toNat % 2 ^ 31 := of_decide_eq_true hn
  constructor
  · have hhigh : (BitVec.ofNat 16 (w.toNat / 2 ^ 16)).toNat = w.toNat / 2 ^ 16 := by
      rw [BitVec.toNat_ofNat]
      omega
    have hor : (bf16Quiet w).toNat % 2 ^ 15 = (w.toNat / 2 ^ 16) % 2 ^ 15 ||| 0x40 := by
      rw [bf16Quiet, BitVec.toNat_or, hhigh, Nat.or_mod_two_pow]
      rfl
    rw [hor]
    exact quiet_above_infinity (by omega)
  · simp [bf16Quiet]

theorem f32ToBf16_nan_stays {w : W32} (hn : f32IsNan w = true) :
    0x7F80 < (f32ToBf16 w).toNat % 2 ^ 15 ∧ (f32ToBf16 w).getLsbD 6 = true := by
  by_cases hp : w = f32Poison
  · subst hp
    decide
  rw [f32ToBf16_nan hp hn]
  split
  · decide
  · exact bf16Quiet_nan hn

theorem f32ToBf16_number_stays {w : W32} (hn : f32IsNan w = false) : (f32ToBf16 w).toNat % 2 ^ 15 ≤ 0x7F80 := by
  obtain ⟨hlow, hhigh⟩ := rneDiv_infinity (Nat.le_of_not_lt (of_decide_eq_false hn))
  rw [f32ToBf16_number hn, BitVec.toNat_ofNat]
  split <;> omega

/-- No NaN but poison becomes the BF16 poison: one whose quiet upper half is that pattern becomes 0x7FC0. -/
theorem f32ToBf16_eq_poison (w : W32) : f32ToBf16 w = bf16Poison ↔ w = f32Poison := by
  refine ⟨fun h => ?_, fun h => h ▸ f32ToBf16_poison⟩
  by_contra hp
  rcases Bool.eq_false_or_eq_true (f32IsNan w) with hn | hn
  · rw [f32ToBf16_nan hp hn] at h
    split at h
    · exact absurd h (by decide)
    · contradiction
  · exact absurd (h ▸ f32ToBf16_number_stays hn) (by decide)

theorem bf16ToF32_toNat (h : W16) : (bf16ToF32 h).toNat = h.toNat * 2 ^ 16 := by
  rw [bf16ToF32, BitVec.toNat_ofNat]
  omega

theorem f32Mag_bf16ToF32 (h : W16) : f32Mag (bf16ToF32 h) = h.toNat % 2 ^ 15 * 2 ^ 16 := by
  rw [f32Mag, bf16ToF32_toNat]
  omega

theorem f32Neg_bf16ToF32 (h : W16) : f32Neg (bf16ToF32 h) = decide (h.toNat / 2 ^ 15 = 1) := by
  rw [f32Neg, bf16ToF32_toNat]
  exact decide_eq_decide.mpr (by omega)

theorem f32ToBf16_bf16ToF32 {h : W16} (hh : h.toNat % 2 ^ 15 ≤ 0x7F80) : f32ToBf16 (bf16ToF32 h) = h := by
  have hn : f32IsNan (bf16ToF32 h) = false := decide_eq_false (by rw [f32Mag_bf16ToF32]; omega)
  have hround : rneDiv (f32Mag (bf16ToF32 h)) 16 = (h.toNat % 2 ^ 15 : Nat) := by
    rw [f32Mag_bf16ToF32, Nat.cast_mul]
    exact rneDiv_exact _ 16
  apply BitVec.eq_of_toNat_eq
  rw [f32ToBf16_number hn, hround, f32Neg_bf16ToF32, BitVec.toNat_ofNat, Int.toNat_natCast]
  simp only [decide_eq_true_eq]
  split <;> omega

/-- Settles O14: a promotion gives the element, +0 or a packed sum, and packing stops at infinity; a conversion to BF16 keeps NaNs
apart from numbers by the magnitude, and rounds what 16 zero bits were appended to exactly. -/
theorem promotionsAndConversionsMakeNoNaN : Obligations.PromotionsAndConversionsMakeNoNaN := by
  refine ⟨fun rnd r w g hw => ⟨f32IsNan_promoteElem rnd r w g hw, promoteElem_keeps_inf rnd r g, promoteElem_empty rnd w g,
    promoteElem_zero rnd g, ?_⟩, fun w => ⟨f32ToBf16_eq_poison w, f32ToBf16_nan_stays, f32ToBf16_number_stays⟩, fun h => f32ToBf16_bf16ToF32⟩
  rintro he hi hz rfl
  exact (promoteElem_sr g he hi hz).2

end Sys2Proof.Machine
end

section
/-! KICK, TAG and STAT (R57, R138 to R144): what each answers, and what it leaves of the other units. -/

namespace Sys2Proof.Machine
open Sys2Proof

/-! ### What an issue answers (R121) -/

section
variable {s : State} {i w : Nat} {c : Instr} {body : Nat → Issue} (he : exec c s = .next (s.issue i c body)) (h : s.fetches i c w)
include he h

theorem exec_exc {cause : Nat} {d : W32} (hb : body w = .exc cause d) : exec c s = .next (s.takeExc w i cause d) := by
  rw [he, State.issue_exc s i w c body cause d h hb]

theorem answers_stalls (hb : body w = .stall) : Answers c s fun t => Stalls s t i := by
  refine ⟨_, he, ?_⟩
  rw [State.issue_stall s i w c body h hb]
  exact ⟨_, State.modTile_only { s with fresh := s.fresh + 1 } i _⟩

/-- An instruction that goes on within the code, whatever else than tiles it changed, and what it left as tile `i`. -/
theorem answers_goesOn {t : State} (hb : body w = .go t) (hother : ∀ j, j ≠ i → t.tile j = s.tile j) (hpc : s.nextPc i < (t.tile i).codeEnd) :
    Answers c s fun u => Issued { t with tiles := s.tiles } u i c (t.tile i) (s.nextPc i) := by
  obtain ⟨u, n, hn, hload, ⟨hu, huother, hmem, hrest⟩, hissue⟩ := State.issue_go s i w c body t h hb
  rw [State.checkPc_in _ _ _ (by simpa [Tile.goesOn, hu] using hpc)] at hissue
  refine ⟨_, he, n, hn, hload, ?_⟩
  rw [hissue]
  refine ⟨?_, fun j hj => ?_, hmem, ?_⟩
  · rw [State.modTile_tile_same, hu]
    rfl
  · rw [State.modTile_tile_other _ _ _ _ hj, huother j hj]
    exact hother j hj
  · rw [State.modTile, hrest]

end

/-- An issue keeps whatever does not speak of the tiles and the free values. -/
theorem Issued.keeps {β : Type} {s t : State} {i : Nat} {c : Instr} {x : Tile} {pc : Nat} (h : Issued s t i c x pc) (g : State → β)
    (hg : ∀ (s : State) n ts, g { s with fresh := n, tiles := ts } = g s) : g t = g s := by
  obtain ⟨n, -, -, -, -, -, hframe⟩ := h
  rw [hframe]
  exact hg s _ _

theorem Answers.imp {c : Instr} {s : State} {P Q : State → Prop} (h : Answers c s P) (hpq : ∀ t, P t → Q t) : Answers c s Q := by
  obtain ⟨t, ht, hp⟩ := h
  exact ⟨t, ht, hpq t hp⟩

/-! ### KICK (R138, R139) -/

/-- The channel that a KICK names. -/
def kickChan (i : Nat) (f : KickF) : Nat := 64 * (i / 64) + f.ch + (if f.hp then 32 else 0)

/-- The number of descriptors that a KICK asks for. -/
def kickCount (x : Tile) (f : KickF) : Nat := if f.ks then (x.kreg f.ki).toNat % 65536 else f.cnt

section
variable {s : State} {i w : Nat} {f : KickF} (h : s.fetches i (.kick i f) w)
include h

theorem kick_noPort (hp : f.hp = true) (h0 : i / 64 ≠ 0) (h4 : i / 64 ≠ 4) : exec (.kick i f) s = .next (s.takeExc w i 0x17 0) :=
  exec_exc rfl h (if_pos ⟨hp, h0, h4⟩)

variable (hport : f.hp = false ∨ i / 64 = 0 ∨ i / 64 = 4)
include hport

omit h in
theorem kick_hasPort : ¬ (f.hp = true ∧ i / 64 ≠ 0 ∧ i / 64 ≠ 4) := by
  rintro ⟨hp, h0, h4⟩
  simp [hp, h0, h4] at hport

theorem kick_running (hrun : (s.chan (kickChan i f)).st = .running) : Answers (.kick i f) s fun t => Stalls s t i :=
  answers_stalls rfl h ((if_neg (kick_hasPort hport)).trans (if_pos hrun))

variable (hrun : (s.chan (kickChan i f)).st ≠ .running) (hpc : s.nextPc i < (s.tile i).codeEnd)
include hrun hpc

theorem kick_none (hcnt : kickCount (s.tile i) f = 0) : Answers (.kick i f) s fun t => Issued s t i (.kick i f) (s.tile i) (s.nextPc i) :=
  answers_goesOn rfl h ((if_neg (kick_hasPort hport)).trans ((if_neg hrun).trans (if_pos hcnt))) (fun _ _ => rfl) hpc

theorem kick_starts (hcnt : kickCount (s.tile i) f ≠ 0) : Answers (.kick i f) s fun t =>
    Issued { s with chans := t.chans } t i (.kick i f) (s.tile i) (s.nextPc i) ∧
    t.chan (kickChan i f) = (s.chan (kickChan i f)).start ((s.tile i).areg f.ad).toNat (kickCount (s.tile i) f) (some i) ∧
    ∀ k, k ≠ kickChan i f → t.chan k = s.chan k := by
  let start (x : Chan) : Chan := x.start ((s.tile i).areg f.ad).toNat (kickCount (s.tile i) f) (some i)
  refine (answers_goesOn (t := s.modChan (kickChan i f) start) rfl h
    ((if_neg (kick_hasPort hport)).trans ((if_neg hrun).trans (if_neg hcnt))) (fun _ _ => rfl) hpc).imp fun t ht => ?_
  have hchans : t.chans = (s.modChan (kickChan i f) start).chans := ht.keeps State.chans fun _ _ _ => rfl
  refine ⟨by rw [hchans]; exact ht, ?_, fun k hk => ?_⟩
  · exact (congrArg (Tab.get · _) hchans).trans (State.modChan_chan_same s _ start)
  · exact (congrArg (Tab.get · k) hchans).trans (State.modChan_chan_other s _ start k hk)

end

/-! ### TAG (R140 to R142) -/

/-- Bank `b` of the tile takes the tag, and its clear is under way. -/
def Tile.retagBank (x : Tile) (tag : W16) (b : Nat) : Tile :=
  { x with tags := x.tags.set b tag, clearing := x.clearing ||| (1#32 <<< b), tagCnt := incSat x.tagCnt }

/-- Bank `b` of tile `i` takes the tag and is cleared. -/
def State.retagBank (s : State) (i : Nat) (tag : W16) (b : Nat) : State :=
  ((s.modTile i fun x => x.retagBank tag b).clearRange (tileBase i + b * 65536) 65536).mendStore i (b * 65536) 65536

theorem State.retag_eq (s : State) (i : Nat) (banks : List Nat) (tag : W16) :
    s.retag i banks tag = (banks.filter fun b => (s.tile i).tags.get b ≠ tag).foldl (fun t b => t.retagBank i tag b) s := rfl

/-- What giving `tag` to the banks `bs` of tile `i` makes of `s`. -/
structure Retagged (s t : State) (i : Nat) (tag : W16) (bs : List Nat) : Prop where
  frame : t = { s with mem := t.mem, tiles := t.tiles }
  other : ∀ j, j ≠ i → t.tile j = s.tile j
  tile : t.tile i = { s.tile i with tags := (t.tile i).tags, clearing := (t.tile i).clearing, tagCnt := (t.tile i).tagCnt,
                                    badWords := (t.tile i).badWords }
  badWords : ∀ k, k ∈ (t.tile i).badWords → k ∈ (s.tile i).badWords
  tags : ∀ b, (t.tile i).tags.get b = if b ∈ bs then tag else (s.tile i).tags.get b
  clearing : ∀ b, b < 32 → (t.tile i).clearing.getLsbD b = ((s.tile i).clearing.getLsbD b || decide (b ∈ bs))
  wf : Memory.wf t.mem = true
  bytes : ∀ a, t.rdByte a = if tileBase i ≤ a ∧ (a - tileBase i) / 65536 ∈ bs then 0 else s.rdByte a

theorem Retagged.nil {s : State} (i : Nat) (tag : W16) (hwf : Memory.wf s.mem = true) : Retagged s s i tag [] where
  frame := rfl
  other _ _ := rfl
  tile := rfl
  badWords _ h := h
  tags _ := rfl
  clearing _ _ := by simp
  wf := hwf
  bytes _ := by simp

theorem Retagged.append {s t u : State} {i : Nat} {tag : W16} {bs cs : List Nat} (h : Retagged s t i tag bs) (h' : Retagged t u i tag cs) :
    Retagged s u i tag (bs ++ cs) where
  frame := by rw [h'.frame, h.frame]
  other j hj := (h'.other j hj).trans (h.other j hj)
  tile := by rw [h'.tile, h.tile]
  badWords k hk := h.badWords k (h'.badWords k hk)
  tags b := by
    rw [h'.tags, h.tags]
    by_cases hb : b ∈ cs <;> simp [hb]
  clearing b hb := by
    rw [h'.clearing b hb, h.clearing b hb, Bool.or_assoc]
    simp
  wf := h'.wf
  bytes a := by
    rw [h'.bytes, h.bytes]
    by_cases ha : (a - tileBase i) / 65536 ∈ cs <;> by_cases hlow : tileBase i ≤ a <;> simp [ha, hlow]

/-- Mending words of a tile store changes nothing but the list of its damaged words, which it shortens. -/
theorem State.mendStore_tile (s : State) (i off n : Nat) : ∃ bw, (s.mendStore i off n).tile i = { s.tile i with badWords := bw } ∧
    (∀ k, k ∈ bw → k ∈ (s.tile i).badWords) ∧ ∀ j, j ≠ i → (s.mendStore i off n).tile j = s.tile j := by
  unfold State.mendStore
  split
  · exact ⟨_, rfl, fun _ h => h, fun _ _ => rfl⟩
  · exact ⟨_, State.modTile_tile_same s i _, fun _ h => (List.mem_filter.mp h).1, State.modTile_tile_other s i _⟩

theorem State.retagBank_retagged (s : State) (i : Nat) (tag : W16) (b : Nat) (hwf : Memory.wf s.mem = true) :
    Retagged s (s.retagBank i tag b) i tag [b] := by
  unfold State.retagBank
  generalize hv : (s.modTile i fun x => x.retagBank tag b).clearRange (tileBase i + b * 65536) 65536 = v
  have hvtile : v.tile i = (s.tile i).retagBank tag b := by rw [← hv, State.clearRange_tile, State.modTile_tile_same]
  obtain ⟨bw, htile, hbad, hother⟩ := v.mendStore_tile i (b * 65536) 65536
  obtain ⟨tiles, hframe⟩ := v.mendStore_frame i (b * 65536) 65536
  have hmem : (v.mendStore i (b * 65536) 65536).mem = v.mem := by rw [hframe]
  rw [hvtile] at htile hbad
  refine ⟨?_, fun j hj => ?_, by rw [htile]; rfl, by rw [htile]; exact hbad, fun k => ?_, fun k hk => ?_, ?_, fun a => ?_⟩
  · rw [hframe, ← hv]
    rfl
  · rw [hother j hj, ← hv, State.clearRange_tile, State.modTile_tile_other s i _ j hj]
  · rw [htile]
    simp [Tile.retagBank, Tab.get_set]
  · rw [htile]
    simp only [Tile.retagBank, BitVec.getLsbD_or, BitVec.getLsbD_shiftLeft, BitVec.getLsbD_one, List.mem_singleton, hk]
    congr 1
    rw [Bool.eq_iff_iff]
    simp
    omega
  · rw [hmem, ← hv]
    exact State.wf_clearRange _ _ _ hwf
  · have hread : (v.mendStore i (b * 65536) 65536).rdByte a = v.rdByte a := congrArg (fun m => Tab.get (β := Byte) m a) hmem
    rw [hread, ← hv]
    refine (State.rdByte_clearRange _ _ _ _ hwf).trans (if_congr ?_ rfl rfl)
    rw [List.mem_singleton]
    omega

theorem retagBanks_retagged (i : Nat) (tag : W16) (bs : List Nat) (s : State) (hwf : Memory.wf s.mem = true) :
    Retagged s (bs.foldl (fun t b => t.retagBank i tag b) s) i tag bs := by
  induction bs generalizing s with
  | nil => exact .nil i tag hwf
  | cons b bs ih =>
    have hb := s.retagBank_retagged i tag b hwf
    exact hb.append (ih _ hb.wf)

theorem mem_bankList (m : W32) (b : Nat) : b ∈ bankList m ↔ b < 32 ∧ m.getLsbD b = true := by
  simp [bankList]

section
variable {s : State} {i w : Nat} {f : TagF} (h : s.fetches i (.tag i f) w)
include h

theorem tag_stalls (hbusy : (s.busyBanks i).any (bankList f.bmask).contains = true ∨ (s.chainBanks i).any (bankList f.bmask).contains = true) :
    Answers (.tag i f) s fun t => Stalls s t i :=
  answers_stalls rfl h (if_pos (Bool.or_eq_true_iff.mpr hbusy))

/-- The banks that a TAG with mask `m` retags: those named whose tag differs. -/
def Tile.tagged (x : Tile) (m : W32) (tag : W16) : List Nat := (bankList m).filter fun b => x.tags.get b ≠ tag

theorem tag_goesOn {tag : W16} (htag : tag = BitVec.ofNat 16 ((s.tile i).areg f.ac).toNat)
    (hbusy : (s.busyBanks i).any (bankList f.bmask).contains = false) (hchain : (s.chainBanks i).any (bankList f.bmask).contains = false)
    (hwf : Memory.wf s.mem = true) (hpc : s.nextPc i < (s.tile i).codeEnd) :
    Answers (.tag i f) s fun t => ∃ u, Retagged s u i tag ((s.tile i).tagged f.bmask tag) ∧ t.mem = u.mem ∧
      Issued { s with mem := t.mem } t i (.tag i f) (u.tile i) (s.nextPc i) := by
  have hret : Retagged s (s.retag i (bankList f.bmask) tag) i tag ((s.tile i).tagged f.bmask tag) := by
    rw [State.retag_eq]
    exact retagBanks_retagged i tag _ s hwf
  generalize hu : s.retag i (bankList f.bmask) tag = u at hret
  have hgo : (if ((s.busyBanks i).any (bankList f.bmask).contains || (s.chainBanks i).any (bankList f.bmask).contains) = true then Issue.stall
      else .go (s.retag i (bankList f.bmask) (BitVec.ofNat 16 ((s.tile i).areg f.ac).toNat))) = .go u := by
    rw [hbusy, hchain, ← htag, hu]
    rfl
  have hend : s.nextPc i < (u.tile i).codeEnd := by rwa [hret.tile]
  refine (answers_goesOn rfl h hgo hret.other hend).imp fun t ht => ⟨u, hret, ?_⟩
  have hmem : t.mem = u.mem := ht.keeps State.mem fun _ _ _ => rfl
  refine ⟨hmem, ?_⟩
  rw [hmem]
  rwa [show ({ u with tiles := s.tiles } : State) = { s with mem := u.mem } by rw [hret.frame]] at ht

end

theorem mem_tagged (x : Tile) (m : W32) (tag : W16) (b : Nat) :
    b ∈ x.tagged m tag ↔ b < 32 ∧ m.getLsbD b = true ∧ x.tags.get b ≠ tag := by
  simp [Tile.tagged, mem_bankList, and_assoc]

/-- A named bank whose tag does not differ has the tag already. -/
theorem tagged_tag (x : Tile) (m : W32) (tag : W16) (b : Nat) :
    (if b ∈ x.tagged m tag then tag else x.tags.get b) = if b < 32 ∧ m.getLsbD b = true then tag else x.tags.get b := by
  by_cases hsame : x.tags.get b = tag
  · simp [hsame]
  · simp [mem_tagged, hsame]

theorem tagged_clears (x : Tile) (m : W32) (tag : W16) {b : Nat} (hb : b < 32) :
    decide (b ∈ x.tagged m tag) = (m.getLsbD b && x.tags.get b != tag) := by
  rw [Bool.eq_iff_iff]
  simp [mem_tagged, hb]

/-! ### STAT (R143) -/

/-- What a change of accumulators makes of `s`: of the wards, only those may change that keep what a failed snapshot puts back. -/
structure SitesChanged (s t : State) : Prop where
  frame : t = { s with sites := t.sites, wards := t.wards }
  zeroed : ∀ v, (t.ward v).statZeroed = (s.ward v).statZeroed
  ward : ∀ v, (s.ward v).statZeroed = false → t.ward v = s.ward v

theorem SitesChanged.refl (s : State) : SitesChanged s s := ⟨rfl, fun _ => rfl, fun _ _ => rfl⟩

theorem SitesChanged.trans {s t u : State} (h : SitesChanged s t) (h' : SitesChanged t u) : SitesChanged s u where
  frame := by rw [h'.frame, h.frame]
  zeroed v := (h'.zeroed v).trans (h.zeroed v)
  ward v hv := (h'.ward v ((h.zeroed v).trans hv)).trans (h.ward v hv)

theorem State.modWard_sitesChanged {s : State} {w : Nat} (f : Ward → Ward) (hw : (s.ward w).statZeroed = true)
    (hf : (f (s.ward w)).statZeroed = (s.ward w).statZeroed) : SitesChanged s (s.modWard w f) where
  frame := rfl
  zeroed v := by
    by_cases hv : v = w
    · rw [hv, State.modWard_ward_same, hf]
    · rw [State.modWard_ward_other s w f v hv]
  ward v hv := State.modWard_ward_other s w f v (by rintro rfl; simp [hw] at hv)

theorem State.onSite_sitesChanged (s : State) (k : Nat) (f : Site → Site) : SitesChanged s (s.onSite k f) := by
  have hsite : SitesChanged s (s.modSite k f) := ⟨rfl, fun _ => rfl, fun _ _ => rfl⟩
  unfold State.onSite
  extract_lets t
  split
  · split
    · exact hsite.trans (State.modWard_sitesChanged _ ‹_› rfl)
    · exact hsite
  · exact hsite

theorem State.onSite_sites (s : State) (k : Nat) (f : Site → Site) : (s.onSite k f).sites = s.sites.modify k f := by
  unfold State.onSite
  extract_lets t
  split
  · exact ite_fixes State.sites (fun _ => rfl) fun _ => rfl
  · rfl

/-- Accumulators set to zero one after the other. -/
def State.zeroSites (s : State) (ks : List Nat) : State := forEach ks s fun s k => s.onSite k fun _ => {}

theorem State.zeroSites_sitesChanged (ks : List Nat) (s : State) : SitesChanged s (s.zeroSites ks) := by
  induction ks generalizing s with
  | nil => exact .refl s
  | cons k ks ih => exact (s.onSite_sitesChanged k _).trans (ih _)

theorem State.zeroSites_sites (ks : List Nat) (s : State) (k : Nat) : (s.zeroSites ks).sites.get k = if k ∈ ks then default else s.sites.get k := by
  have hfold : (s.zeroSites ks).sites = ks.foldl (fun t j => t.modify j fun _ => default) s.sites := by
    unfold State.zeroSites forEach
    induction ks generalizing s with
    | nil => rfl
    | cons j ks ih => rw [List.foldl_cons, ih, State.onSite_sites]; rfl
  rw [hfold, Tab.get_foldl_modify (fun _ => default) (fun _ => rfl)]

/-- The sites of a STAT. -/
def statSites (i : Nat) (f : StatF) : List Nat := (List.range f.ns).map fun k => i / 64 * 1024 + f.site + k

/-- The cells of a STAT's records. -/
def State.statCells (s : State) (i : Nat) (f : StatF) (base : Nat) : List (Nat × Byte) :=
  execStat.cellsFrom base ((statSites i f).flatMap fun k => (s.sites.get k).bytes)

theorem mem_statSites (i : Nat) (f : StatF) (k : Nat) :
    k ∈ statSites i f ↔ i / 64 * 1024 + f.site ≤ k ∧ k < i / 64 * 1024 + f.site + f.ns := by
  simp only [statSites, List.mem_map, List.mem_range]
  constructor
  · rintro ⟨j, hj, rfl⟩
    omega
  · rintro ⟨hlow, hhigh⟩
    exact ⟨k - (i / 64 * 1024 + f.site), by omega, by omega⟩

theorem toLE_length (n v : Nat) : (toLE n v).length = n := by
  induction n generalizing v with
  | zero => rfl
  | succ n ih => rw [toLE, List.length_cons, ih]

theorem Site.bytes_length (x : Site) : x.bytes.length = 48 := by
  simp [Site.bytes, toLE_length]

/-- Element `m * k + j` of a concatenation of lists of length `m`. -/
theorem getElem?_flatMap_range {α : Type} (g : Nat → List α) (m : Nat) (hg : ∀ k, (g k).length = m) (n k j : Nat) (hk : k < n) (hj : j < m) :
    ((List.range n).flatMap g)[m * k + j]? = (g k)[j]? := by
  have hlen (n : Nat) : ((List.range n).flatMap g).length = m * n := by simp [List.length_flatMap, hg, Nat.mul_comm]
  induction n with
  | zero => omega
  | succ n ih =>
    rw [List.range_succ, List.flatMap_append]
    rcases Nat.lt_succ_iff_lt_or_eq.mp hk with hk | rfl
    · have hlow : m * k + j < m * n := by
        calc m * k + j < m * k + m := by omega
          _ = m * (k + 1) := by ring
          _ ≤ m * n := Nat.mul_le_mul_left m hk
      rw [List.getElem?_append_left (by rwa [hlen]), ih hk]
    · rw [List.getElem?_append_right (by rw [hlen]; omega), hlen]
      simp

theorem mem_cellsFrom (off : Nat) (bs : List Byte) (o : Nat) (b : Byte) :
    (o, b) ∈ execStat.cellsFrom off bs ↔ ∃ k, bs[k]? = some b ∧ o = off + k := by
  simp only [execStat.cellsFrom, List.mem_map, Prod.exists, List.mem_zipIdx_iff_getElem?, Prod.mk.injEq]
  constructor
  · rintro ⟨b', k, hk, rfl, rfl⟩
    exact ⟨k, hk, rfl⟩
  · rintro ⟨k, hk, rfl⟩
    exact ⟨b, k, hk, rfl, rfl⟩

theorem mem_statCells (s : State) (i : Nat) (f : StatF) (base : Nat) {k b : Nat} (hk : k < f.ns) (hb : b < 48) :
    (base + 48 * k + b, (s.sites.get (i / 64 * 1024 + f.site + k)).bytes.getD b 0) ∈ s.statCells i f base := by
  refine (mem_cellsFrom _ _ _ _).mpr ⟨48 * k + b, ?_, by omega⟩
  rw [statSites, List.flatMap_map, getElem?_flatMap_range _ 48 (fun _ => Site.bytes_length _) f.ns k b hk hb]
  simp [Site.bytes_length, hb]

section
variable {s : State} {i w : Nat} {f : StatF} (h : s.fetches i (.stat i f) w)
include h

theorem stat_stalls (hbusy : (s.tile i).draining ≠ none ∨ s.chainBusy i = true) : Answers (.stat i f) s fun t => Stalls s t i :=
  answers_stalls rfl h (if_pos (by simpa [Option.isSome_iff_ne_none] using hbusy))

variable {base : Nat} (hbase : base = ((s.tile i).areg f.ad).toNat / 16 * 16) (hdrain : (s.tile i).draining = none) (hchain : s.chainBusy i = false)
include hbase hdrain hchain

theorem stat_outside (hout : storeBytes < base + 48 * f.ns) : exec (.stat i f) s = .next (s.takeExc w i 0x10 (sat32 (max base storeBytes))) := by
  refine exec_exc rfl h ((if_neg (by simp [hdrain, hchain])).trans ?_)
  dsimp only
  rw [← hbase, rangeBad, if_neg (by omega)]

theorem stat_goesOn (hpc : s.nextPc i < (s.tile i).codeEnd) (hin : base + 48 * f.ns ≤ storeBytes) : Answers (.stat i f) s fun t =>
    Issued { s with sites := t.sites, wards := t.wards } t i (.stat i f)
      { s.tile i with stats := (s.tile i).stats ++ [{ cells := s.statCells i f base }] } (s.nextPc i) ∧
    (∀ v, (s.ward v).statZeroed = false → t.ward v = s.ward v) ∧
    ∀ k, t.sites.get k = if f.clr = true ∧ k ∈ statSites i f then default else s.sites.get k := by
  let requested (x : Tile) : Tile := { x with stats := x.stats ++ [{ cells := s.statCells i f base }] }
  generalize hu : (if f.clr = true then (s.modTile i requested).zeroSites (statSites i f) else s.modTile i requested) = u
  have hchanged : SitesChanged (s.modTile i requested) u := by
    rw [← hu]
    split
    · exact State.zeroSites_sitesChanged _ _
    · exact .refl _
  have hsites (k : Nat) : u.sites.get k = if f.clr = true ∧ k ∈ statSites i f then default else s.sites.get k := by
    rw [← hu]
    by_cases hclr : f.clr = true
    · simp only [hclr, if_true, true_and]
      exact State.zeroSites_sites _ _ k
    · simp [hclr]
  have htile (j : Nat) : u.tile j = (s.modTile i requested).tile j := by rw [hchanged.frame]; rfl
  have hself : u.tile i = requested (s.tile i) := by rw [htile, State.modTile_tile_same]
  refine (answers_goesOn (t := u) rfl h ?_ (fun j hj => by rw [htile, State.modTile_tile_other s i _ j hj]) (by rwa [hself])).imp fun t ht => ?_
  · refine (if_neg (by simp [hdrain, hchain])).trans ?_
    dsimp only
    rw [← hbase, rangeBad, if_pos hin, ← hu]
    rfl
  · have htsites : t.sites = u.sites := ht.keeps State.sites fun _ _ _ => rfl
    have htwards : t.wards = u.wards := ht.keeps State.wards fun _ _ _ => rfl
    refine ⟨?_, fun v hv => ?_, fun k => by rw [htsites, hsites]⟩
    · have hframe : ({ u with tiles := s.tiles } : State) = { s with sites := u.sites, wards := u.wards } := by rw [hchanged.frame]; rfl
      rw [htsites, htwards]
      rwa [hframe, hself] at ht
    · exact (congrArg (Tab.get · v) htwards).trans (hchanged.ward v hv)

end

/-! ### STAT_COMPLETE (R144) -/

theorem get_landCells_out (base a : Nat) (cells : List (Nat × Byte)) (m : List Host.Cell) (ha : ∀ o b, (o, b) ∈ cells → base + o ≠ a) :
    Tab.get (β := Byte) (cells.foldl (fun m (o, b) => Tab.set (β := Byte) m (base + o) b) m) a = Tab.get (β := Byte) m a := by
  induction cells generalizing m with
  | nil => rfl
  | cons c cells ih =>
    obtain ⟨o, b⟩ := c
    rw [List.foldl_cons, ih _ fun o b h => ha o b (List.mem_cons_of_mem _ h)]
    exact Tab.get_set_other (β := Byte) _ _ _ _ (ha o b List.mem_cons_self).symm

/-- A cell that is the only one of its offset reads back. -/
theorem get_landCells_in (base o : Nat) (b : Byte) (cells : List (Nat × Byte)) (m : List Host.Cell) (hmem : (o, b) ∈ cells)
    (honly : ∀ b', (o, b') ∈ cells → b' = b) :
    Tab.get (β := Byte) (cells.foldl (fun m (o, b) => Tab.set (β := Byte) m (base + o) b) m) (base + o) = b := by
  induction cells generalizing m with
  | nil => cases hmem
  | cons c cells ih =>
    by_cases hlater : (o, b) ∈ cells
    · exact ih _ hlater fun b' h => honly b' (List.mem_cons_of_mem _ h)
    · obtain rfl : (o, b) = c := (List.mem_cons.mp hmem).resolve_right hlater
      rw [List.foldl_cons, get_landCells_out]
      · exact Tab.get_set_same (β := Byte) m _ b
      · rintro o' b' h' he
        obtain rfl : o' = o := by omega
        exact hlater (honly b' (List.mem_cons_of_mem _ h') ▸ h')

/-- Landing cells in a tile store changes memory as the cells say, and of the tile at most the list of its damaged words. -/
theorem State.wrStoreCells_tile (s : State) (i : Nat) (cells : List (Nat × Byte)) : ∃ bw,
    OnlyTile { s with mem := (s.wrStoreCells i cells).mem } (s.wrStoreCells i cells) i { s.tile i with badWords := bw } ∧
    ((s.tile i).badWords = [] → bw = []) := by
  unfold State.wrStoreCells
  extract_lets t
  split
  · exact ⟨_, ⟨rfl, fun _ _ => rfl, fun _ => rfl, rfl⟩, fun h => h⟩
  · exact ⟨_, State.modTile_only t i _, fun h => absurd h ‹_›⟩

theorem State.wrStoreCells_mem (s : State) (i : Nat) (cells : List (Nat × Byte)) :
    (s.wrStoreCells i cells).mem = cells.foldl (fun m (o, b) => Tab.set (β := Byte) m (tileBase i + o) b) s.mem :=
  ite_fixes State.mem (fun _ => rfl) fun _ => rfl

theorem statComplete_stores {s : State} {i : Nat} {l : Landing} {r : List Landing} (hl : (s.tile i).stats = l :: r)
    (hclear : (s.tile i).anyClearing (l.cells.map fun c => c.1 / 65536).dedup = false) :
    exec (.statComplete i) s = .next ((s.wrStoreCells i l.cells).modTile i fun x => { x with stats := r }) := by
  change execStatComplete i s = _
  unfold execStatComplete
  rw [hl]
  simp only [hclear, Bool.false_eq_true, if_false]

theorem statComplete_lands {s : State} {i : Nat} {l : Landing} {r : List Landing} (hl : (s.tile i).stats = l :: r)
    (hclear : (s.tile i).anyClearing (l.cells.map fun c => c.1 / 65536).dedup = false) : Answers (.statComplete i) s fun t => ∃ bw,
      OnlyTile { s with mem := t.mem } t i { s.tile i with stats := r, badWords := bw } ∧ ((s.tile i).badWords = [] → bw = []) ∧
      t.mem = l.cells.foldl (fun m (o, b) => Tab.set (β := Byte) m (tileBase i + o) b) s.mem := by
  obtain ⟨bw, ⟨htile, hother, -, hframe⟩, hbad⟩ := s.wrStoreCells_tile i l.cells
  refine ⟨_, statComplete_stores hl hclear, bw, ⟨?_, fun j hj => ?_, fun _ => rfl, ?_⟩, hbad, s.wrStoreCells_mem i l.cells⟩
  · rw [State.modTile_tile_same, htile]
  · exact (State.modTile_tile_other _ i _ j hj).trans (hother j hj)
  · rw [State.modTile, hframe]

/-- Settles O42: each instruction's answer by its lemma above. TAG is an induction over the banks it retags, STAT one over the sites it
zeroes, and what a completed STAT stores is read back cell by cell. -/
theorem kicksTagsAndStatistics : Obligations.KicksTagsAndStatistics := by
  rintro s i w x rfl
  refine ⟨?_, ?_, fun bank => ⟨_, rfl, State.modTile_only s i _⟩, ?_, ?_⟩
  · rintro f c cnt h rfl rfl
    exact ⟨kick_noPort h, fun hport => ⟨kick_running h hport, fun hrun hpc => ⟨kick_none h hport hrun hpc, kick_starts h hport hrun hpc⟩⟩⟩
  · intro f tag h htag
    refine ⟨tag_stalls h, fun hbusy hchain hwf hpc => (tag_goesOn h htag hbusy hchain hwf hpc).imp ?_⟩
    rintro t ⟨u, hu, hmem, ht⟩
    refine ⟨u.tile i, ht, hu.tile, hu.badWords, fun b => ?_, fun b hb => ?_, fun a => ?_⟩
    · rw [hu.tags]
      exact tagged_tag _ _ _ b
    · rw [hu.clearing b hb]
      exact congrArg _ (tagged_clears _ _ _ hb)
    · refine (congrArg (fun m => Tab.get (β := Byte) m a) hmem).trans ((hu.bytes a).trans (if_congr ?_ rfl rfl))
      have hrange : a < tileBase i + 2097152 ↔ (a - tileBase i) / 65536 < 32 := by omega
      rw [mem_tagged, hrange]
  · intro f base h hbase
    refine ⟨stat_stalls h, fun hdrain hchain => ⟨stat_outside h hbase hdrain hchain, fun hpc hin =>
      (stat_goesOn h hbase hdrain hchain hpc hin).imp ?_⟩⟩
    rintro t ⟨ht, hward, hsites⟩
    refine ⟨_, ht, hward, fun k b hk hb => mem_statCells s i f base hk hb, fun k => ?_⟩
    simp only [hsites, mem_statSites]
  · intro l r hl hclear
    refine (statComplete_lands hl hclear).imp ?_
    rintro t ⟨bw, honly, hbad, hmem⟩
    unfold State.rdByte
    rw [hmem] at honly ⊢
    exact ⟨bw, honly, hbad, fun a ha => get_landCells_out _ a _ _ ha, fun o b hmem honly => get_landCells_in _ o b _ _ hmem honly⟩

end Sys2Proof.Machine
end

section
/-! LATCH, its completion and SWAP (R127 to R129): what each does to its tile's latches. -/

namespace Sys2Proof.Machine
open Sys2Proof

/-! ### Reading a store without damaged words (R470) -/

section
variable {s : State} {i : Nat} (hgood : (s.tile i).badWords = [])
include hgood

theorem State.noteSoft_good (rs : List (Nat × Nat)) : s.noteSoft i rs = s := by
  unfold State.noteSoft
  rw [hgood]
  rfl

theorem State.latchRd_good (j : LatchJob) : s.latchRd i j = s.rdStore i := by
  have hsoft : s.softScales i j.f.blk (plateSize j.f.blk j.f.fmt) j.offs = [] := if_pos hgood
  funext o
  unfold State.latchRd
  rw [hsoft]
  rfl

end

/-! ### LATCH and SWAP (R127 to R129) -/

/-- A load of the shadow latches, from the plates at `offs`, is under way. -/
def Tile.startLoad (f : LatchF) (offs : List Nat) (x : Tile) : Tile := { x with latching := some ⟨f, offs⟩, lastLatch := some ⟨f, offs⟩ }

/-- Active and shadow latches exchanged. -/
def Tile.swapLatches (x : Tile) : Tile := { x with act := x.shd, shd := x.act, actSrc := x.shdSrc, shdSrc := x.actSrc }

/-- An instruction that changes its own tile alone, and goes on within the code. -/
theorem answers_issued {s : State} {i w : Nat} {c : Instr} {body : Nat → Issue} (he : exec c s = .next (s.issue i c body))
    (h : s.fetches i c w) {f : Tile → Tile} (hb : body w = .go (s.modTile i f)) (hpc : s.nextPc i < (f (s.tile i)).codeEnd) :
    Answers c s fun t => Issued s t i c (f (s.tile i)) (s.nextPc i) :=
  ⟨_, he, State.issue_only s i w c body f _ h (.inl ⟨hb, rfl⟩) hpc⟩

theorem State.latchBody_busy {s : State} {i : Nat} (f : LatchF) (hbusy : (s.tile i).latching ≠ none ∨ s.replaying i = true) :
    s.latchBody i f = .stall :=
  if_pos (by simpa [Option.isSome_iff_ne_none] using hbusy)

section
variable {s : State} {i : Nat} {f : LatchF} {a v unit n : Nat} {r : List (Nat × Nat × Nat × Nat)}
  (hview : viewsOf (.latch i f) = (a, v, unit, n) :: r) (hfree : (s.tile i).latching = none) (hown : s.replaying i = false)
include hview hfree hown

theorem State.latchBody_inside {offs : List Nat} (hwalk : s.walkView i a v unit n = .ok offs) :
    s.latchBody i f = .go (s.modTile i (Tile.startLoad f offs)) := by
  unfold State.latchBody
  rw [if_neg (by simp [hfree, hown]), hview]
  simp only [hwalk]
  rfl

theorem State.latchBody_outside {o : Nat} (hwalk : s.walkView i a v unit n = .error o) : s.latchBody i f = .exc 0x10 (sat32 o) := by
  unfold State.latchBody
  rw [if_neg (by simp [hfree, hown]), hview]
  simp only [hwalk]

end

theorem swap_busy {s : State} {i w : Nat} (h : s.fetches i (.swap i) w) (hbusy : (s.tile i).latching ≠ none) :
    Answers (.swap i) s fun t => Stalls s t i :=
  answers_stalls rfl h (if_pos (Option.isSome_iff_ne_none.mpr hbusy))

theorem swap_free {s : State} {i w : Nat} (h : s.fetches i (.swap i) w) (hfree : (s.tile i).latching = none)
    (hpc : s.nextPc i < (s.tile i).codeEnd) :
    Answers (.swap i) s fun t => Issued s t i (.swap i) (s.tile i).swapLatches (s.nextPc i) :=
  answers_issued rfl h (if_neg (by simp [hfree])) hpc

/-- A load that completes from a good store changes nothing but its tile's latches. -/
theorem execLatchComplete_loads {s : State} {i : Nat} {j : LatchJob} (hload : (s.tile i).latching = some j) (hown : s.replaying i = false)
    (hclear : (s.tile i).anyClearing (banksOf j.offs (plateSize j.f.blk j.f.fmt)) = false) (hgood : (s.tile i).badWords = []) :
    execLatchComplete i s = .next (s.modTile i fun x =>
      { x with shd := loadLatch (s.rdStore i) j, shdSrc := some j, latching := none, rerun := false }) := by
  unfold execLatchComplete
  rw [hload]
  simp only [hown, hclear, Bool.false_eq_true, or_self, if_false, State.noteSoft_good hgood, State.latchRd_good hgood]

/-- Settles O15: LATCH by the three answers of its body, its completion by the equation of a load from a good store, SWAP by whether a
load is under way. That SWAP also goes on during a replay is log entry 161. -/
theorem latchesLoadAndSwap : Obligations.LatchesLoadAndSwap := by
  rintro s i w x rfl
  refine ⟨fun f a v unit n r h hview => ⟨fun hfree hown => ⟨fun offs hwalk hpc => ?_, fun o hwalk => ?_⟩, fun hbusy => ?_⟩,
    fun j hload hown hclear hgood => ?_, fun h => ⟨swap_free h, swap_busy h⟩⟩
  · exact answers_issued rfl h (State.latchBody_inside hview hfree hown hwalk) hpc
  · exact exec_exc rfl h (State.latchBody_outside hview hfree hown hwalk)
  · exact answers_stalls rfl h (State.latchBody_busy f hbusy)
  · exact ⟨_, execLatchComplete_loads hload hown hclear hgood, State.modTile_only s i _⟩

end Sys2Proof.Machine
end

section
/-! PROMOTION (R81, R82, R100 to R104): what one point of a pass changes, and what it leaves. -/

namespace Sys2Proof.Machine
open Sys2Proof

/-! ### Promoting running sums into a well (R102) -/

theorem Tile.promote_frame (x : Tile) (rnd : Rnd) (w : Nat) (sums : Tab RunSum) : x.promote rnd w sums =
    { x with wells := (x.promote rnd w sums).wells, gens := (x.promote rnd w sums).gens, nonfinite := (x.promote rnd w sums).nonfinite } := rfl

theorem Tile.promote_wells_other (x : Tile) (rnd : Rnd) {w k : Nat} (sums : Tab RunSum) (hk : k ≠ w) :
    (x.promote rnd w sums).wells.get k = x.wells.get k :=
  Tab.get_set_other x.wells w k _ hk

/-! ### The forced promotion of an open carry (R104) -/

theorem Tile.forcePromote_closed {x : Tile} {w : Nat} (h : x.carries.find? (fun c => c.well = w) = none) : x.forcePromote w = x := by
  unfold Tile.forcePromote
  rw [h]

theorem Tile.forcePromote_open {x : Tile} {w : Nat} {c : Carry} (h : x.carries.find? (fun c => c.well = w) = some c) : x.forcePromote w =
    { x.promote c.rnd w c.sums with carries := x.carries.filter (fun c => c.well ≠ w), forcedCnt := incSat x.forcedCnt } := by
  unfold Tile.forcePromote
  rw [h]

theorem Tile.forcePromote_frame (x : Tile) (w : Nat) : x.forcePromote w =
    { x with wells := (x.forcePromote w).wells, carries := (x.forcePromote w).carries, gens := (x.forcePromote w).gens,
             nonfinite := (x.forcePromote w).nonfinite, forcedCnt := (x.forcePromote w).forcedCnt } := by
  cases h : x.carries.find? (fun c => c.well = w) with
  | none => rw [Tile.forcePromote_closed h]
  | some c => rw [Tile.forcePromote_open h]; rfl

theorem Tile.forcePromote_wells_other (x : Tile) {w k : Nat} (hk : k ≠ w) : (x.forcePromote w).wells.get k = x.wells.get k := by
  cases h : x.carries.find? (fun c => c.well = w) with
  | none => rw [Tile.forcePromote_closed h]
  | some c => rw [Tile.forcePromote_open h]; exact Tile.promote_wells_other x c.rnd c.sums hk

/-! ### One point of a pass (R101, R103) -/

section
variable (x : Tile) (p : PassRun) (xs : List (Option Int)) (es : Nat → Int) (e : CellErr)

/-- The partials of a point enter running sums; either these stay open as a carry, or they are promoted into the well of the point's
vector, whose count falls by one. -/
theorem Tile.advance_cases : ∃ (y : Tile) (cs : List Carry), y = { x with gens := y.gens, renorm := y.renorm } ∧
    (x.advance p xs es e = { y with carries := cs } ∨
     ∃ sums, x.advance p xs es e = { y.promote p.f.rnd (p.wellOf (p.point / p.perVec)) sums with
      board := x.board.modify (p.wellOf (p.point / p.perVec)) (· - 1), carries := cs }) := by
  unfold Tile.advance
  extract_lets v w segs old
  split
  rename_i sums a hsum
  extract_lets y rest
  split_ifs
  · exact ⟨y, x.carries, rfl, .inr ⟨sums, rfl⟩⟩
  · exact ⟨y, rest, rfl, .inr ⟨sums, rfl⟩⟩
  · exact ⟨y, _, rfl, .inl rfl⟩

theorem Tile.advance_frame : x.advance p xs es e =
    { x with wells := (x.advance p xs es e).wells, carries := (x.advance p xs es e).carries, board := (x.advance p xs es e).board,
             gens := (x.advance p xs es e).gens, nonfinite := (x.advance p xs es e).nonfinite, renorm := (x.advance p xs es e).renorm } := by
  obtain ⟨y, cs, hy, h | ⟨sums, h⟩⟩ := Tile.advance_cases x p xs es e
  · rw [h, hy]
  · rw [h, Tile.promote_frame, hy]

theorem Tile.advance_other {k : Nat} (hk : k ≠ p.wellOf (p.point / p.perVec)) :
    (x.advance p xs es e).wells.get k = x.wells.get k ∧ (x.advance p xs es e).board.get k = x.board.get k := by
  obtain ⟨y, cs, hy, h | ⟨sums, h⟩⟩ := Tile.advance_cases x p xs es e
  · rw [h, hy]
    exact ⟨rfl, rfl⟩
  · rw [h]
    refine ⟨(Tile.promote_wells_other y p.f.rnd sums hk).trans ?_, ?_⟩
    · rw [hy]
    · exact Tab.get_modify_other x.board _ k (· - 1) hk

end

/-! ### PROMOTION: one equation per answer (R82, R102, R104) -/

/-- The tile after a forced promotion of well `w`, of whose pass the wells `more` are still to be forced. -/
def Tile.forceOne (w : Nat) (p : PassRun) (more : List Nat) (rest : List PassRun) (x : Tile) : Tile :=
  { x.forcePromote w with board := x.board.modify w (· - 1), passes := { p with forced := more } :: rest }

/-- The tile `x`, which is tile `i` of the module `s`, after the present point of pass `p`, with or without a mismatch so far (`bad`):
a vector of an empty position is noted for its well (R186; log entry 166). -/
def State.atPoint (s : State) (i : Nat) (p : PassRun) (e : CellErr) (bad : Bool) (rest : List PassRun) (x : Tile) : Tile :=
  { x.advance p (s.passVec i p (p.point / p.perVec)) (s.passExp i p (p.point / p.perVec)) e with
    skipWells := if s.posEmpty i (p.point / p.perVec) then (x.skipWells ++ [p.wellOf (p.point / p.perVec)]).dedup else x.skipWells,
    passes := if p.points ≤ p.point + 1 then rest else { p with point := p.point + 1, mismatched := bad } :: rest }

section
variable {s : State} {i : Nat} {p : PassRun} {rest : List PassRun} (hp : (s.tile i).passes = p :: rest) (hstart : p.started = true)
  (hclear : (s.tile i).anyClearing (banksOf p.rows 272) = false) (e : CellErr)
include hp hstart hclear

theorem execPromotion_forced {u : Nat} {more : List Nat} (hf : p.forced = u :: more) :
    execPromotion i e s = .next (s.modTile i (Tile.forceOne u p more rest)) := by
  unfold execPromotion
  rw [hp]
  dsimp only
  rw [if_neg (by simp [hstart, hclear])]
  split
  · rename_i heq
    obtain ⟨rfl, rfl⟩ := List.cons.inj (hf.symm.trans heq)
    rfl
  · rename_i heq
    exact absurd (hf.symm.trans heq) (List.cons_ne_nil u more)

variable (hf : p.forced = []) (hm : p.mismatched = false) {sm sw : Int}
  (hsum : checkSums p.latch p.trans (s.passVec i p (p.point / p.perVec)) (p.segsOf p.point) = (sm, sw))
include hf hm hsum

/-- Without a forced promotion before it, the point is taken and its sums are compared. -/
theorem execPromotion_compares {bad : Bool} (hbad : (p.checked && mod16 (sm + e.main) != mod16 (sw + e.wit)) = bad) :
    execPromotion i e s = .next (if bad then
      (s.modTile i (s.atPoint i p e true rest)).mismatch i p (mod16 (sm + e.main)) (mod16 (sw + e.wit))
      else s.modTile i (s.atPoint i p e p.mismatched rest)) := by
  unfold execPromotion
  rw [hp]
  dsimp only
  rw [if_neg (by simp [hstart, hclear])]
  split
  · rename_i heq
    exact absurd (heq.symm.trans hf) (List.cons_ne_nil _ _)
  · rw [hsum]
    dsimp only
    rw [hbad]
    cases bad with
    | true =>
      rw [if_pos (by simp [hm]), Bool.or_true]
      rfl
    | false =>
      rw [if_neg (by simp), if_neg (by simp [hm]), Bool.or_false]
      rfl

end

theorem Tile.forceOne_frame (x : Tile) (u : Nat) (p : PassRun) (more : List Nat) (rest : List PassRun) {y : Tile}
    (hy : y = x.forceOne u p more rest) : y = { x with
      wells := y.wells, carries := y.carries, board := x.board.modify u (· - 1), gens := y.gens, nonfinite := y.nonfinite,
      forcedCnt := y.forcedCnt, passes := { p with forced := more } :: rest } := by
  rw [hy, Tile.forceOne, Tile.forcePromote_frame]

theorem State.atPoint_frame (s : State) (i : Nat) (p : PassRun) (e : CellErr) (bad : Bool) (rest : List PassRun) (x : Tile) {y : Tile}
    (hy : y = s.atPoint i p e bad rest x) : y = { x with
      wells := y.wells, carries := y.carries, board := y.board, gens := y.gens, nonfinite := y.nonfinite, renorm := y.renorm,
      skipWells := y.skipWells, passes := y.passes } := by
  rw [hy, State.atPoint, Tile.advance_frame]

theorem State.atPoint_other (s : State) (i : Nat) (p : PassRun) (e : CellErr) (bad : Bool) (rest : List PassRun) (x : Tile) {k : Nat}
    (hk : k ≠ p.wellOf (p.point / p.perVec)) :
    (s.atPoint i p e bad rest x).wells.get k = x.wells.get k ∧ (s.atPoint i p e bad rest x).board.get k = x.board.get k := by
  dsimp only [State.atPoint]
  exact Tile.advance_other x p _ _ e hk

theorem State.atPoint_eq {s : State} {i v : Nat} {p : PassRun} {xs : List (Option Int)} {x z : Tile} {e : CellErr} (hv : v = p.point / p.perVec)
    (hxs : xs = s.passVec i p v) (hz : z = { x.advance p xs (s.passExp i p v) e with
      skipWells := if s.posEmpty i v then (x.skipWells ++ [p.wellOf v]).dedup else x.skipWells }) (bad : Bool) (rest : List PassRun) :
    s.atPoint i p e bad rest x = { z with passes := if p.points ≤ p.point + 1 then rest
                                                    else { p with point := p.point + 1, mismatched := bad } :: rest } := by
  subst hv hxs
  unfold State.atPoint
  generalize x.advance p (s.passVec i p (p.point / p.perVec)) (s.passExp i p (p.point / p.perVec)) e = a at hz ⊢
  rw [hz]

/-- Settles O17: the answers of PROMOTION by their equations, and the frame of each by that of its promotion. That a
pass reads its vector at PROMOTION is log entry 23; which vector fills an empty position is log entry 166. -/
theorem promotionTouchesOnlyItsWell : Obligations.PromotionTouchesOnlyItsWell := by
  rintro s i e x p rest rfl hp hstart hclear
  refine ⟨fun u more hf => ?_, ?_⟩
  · exact ⟨_, execPromotion_forced hp hstart hclear e hf, _, State.modTile_only s i _, Tile.forceOne_frame _ u p more rest rfl,
      fun k hk => Tile.forcePromote_wells_other _ hk⟩
  rintro hf hm v xs z hv hxs hz sm sw hsum
  have hpoint := State.atPoint_eq hv hxs hz
  subst hv hxs
  have hcompare {bad} := execPromotion_compares hp hstart hclear e hf hm hsum (bad := bad)
  refine ⟨fun h => ?_, fun hc h => ?_⟩
  · exact ⟨_, hcompare (bad := false) (by simpa using h), _, State.modTile_only s i _, hpoint _ rest,
      State.atPoint_frame s i p e _ rest _ rfl, fun k hk => State.atPoint_other s i p e _ rest _ hk⟩
  · have honly := State.modTile_only s i (s.atPoint i p e true rest)
    rw [hpoint] at honly
    exact ⟨_, hcompare (bad := true) (by simpa [hc] using h), _, honly, rfl⟩

end Sys2Proof.Machine
end

section
/-! Proof runs (R83 to R88): the table of their verdicts, what a fence leaves of a tile, and how a run ends. -/

namespace Sys2Proof.Machine
open Sys2Proof

/-! ### The verdict (R84) -/

/-- What holds of each pair of two lists in step. -/
theorem all_zip_iff {α β : Type} (xs : List α) (ys : List β) (q : α × β → Bool) :
    (xs.zip ys).all q = true ↔ ∀ k (h : k < xs.length) (h' : k < ys.length), q (xs[k], ys[k]) = true := by
  simp [List.all_eq_true, List.forall_mem_iff_getElem]

section
variable (sig sr : List (W16 × W16)) (checks : Bool)

/-- The partner's own witness, where it checks, agreed throughout the replay. -/
def cleanReplay : Bool := !checks || sr.all fun r => r.1 = r.2

/-- The replay gave the recorded main sum at every check point. -/
def replayedMain : Bool := (sig.zip sr).all fun (a, r) => r.1 = a.1

/-- The replay gave the recorded witness sum wherever the recorded sums differ, and the common sum elsewhere. -/
def replayedWitness : Bool := (sig.zip sr).all fun (a, r) => if a.1 ≠ a.2 then r.1 = a.2 else r.1 = a.1

theorem verdictOf_eq : verdictOf sig sr checks =
    if cleanReplay sr checks && replayedMain sig sr then 0 else if cleanReplay sr checks && replayedWitness sig sr then 1 else 2 := rfl

theorem cleanReplay_iff : cleanReplay sr checks = true ↔ (checks = true → ∀ r ∈ sr, r.1 = r.2) := by
  cases checks <;> simp [cleanReplay]

theorem replayedMain_iff : replayedMain sig sr = true ↔ ∀ k (h : k < sig.length) (h' : k < sr.length), sr[k].1 = sig[k].1 := by
  rw [replayedMain, all_zip_iff]
  simp

theorem replayedWitness_iff : replayedWitness sig sr = true ↔ ∀ k (h : k < sig.length) (h' : k < sr.length),
    (sig[k].1 ≠ sig[k].2 → sr[k].1 = sig[k].2) ∧ (sig[k].1 = sig[k].2 → sr[k].1 = sig[k].1) := by
  rw [replayedWitness, all_zip_iff]
  refine forall₃_congr fun k h h' => ?_
  by_cases heq : sig[k].1 = sig[k].2 <;> simp [heq]

theorem verdictOf_le : verdictOf sig sr checks ≤ 2 := by
  rw [verdictOf_eq]
  split_ifs <;> omega

end

/-- Settles O21: the verdict is a choice by three conditions, each of which says of the lists what the rule says of the check points. -/
theorem verdictsFollowTheTable : Obligations.VerdictsFollowTheTable := by
  intro sig sr checks _
  dsimp only
  rw [← cleanReplay_iff, ← replayedMain_iff, ← replayedWitness_iff, verdictOf_eq]
  refine ⟨fun ⟨hc, hm⟩ => ?_, fun ⟨hc, hm, hw⟩ => ?_, fun ⟨hm, hw⟩ => ?_⟩
  · simp [hc, hm]
  · simp [hc, hm, hw]
  · rw [if_neg (by simpa using hm), if_neg (by simpa using hw)]

/-! ### Fenced tiles (R86 to R88) -/

/-- What a fence leaves: the tile is fenced, and its proof runs are abandoned. -/
def Tile.Fenced (x : Tile) : Prop := x.health = .fenced ∧ x.proofs = []

/-- The fields of tile `j` that say whether it is fenced. -/
def State.fencing (j : Nat) (s : State) : Health × List Proof := ((s.tile j).health, (s.tile j).proofs)

theorem Tile.Fenced.of_fencing {s t : State} {j : Nat} (hs : (s.tile j).Fenced) (h : t.fencing j = s.fencing j) : (t.tile j).Fenced :=
  ⟨(congrArg Prod.fst h).trans hs.1, (congrArg Prod.snd h).trans hs.2⟩

theorem State.fencing_of_tiles {s t : State} (j : Nat) (h : t.tiles = s.tiles) : t.fencing j = s.fencing j := by
  unfold State.fencing State.tile
  rw [h]

theorem State.modTile_fencing (s : State) (i j : Nat) (f : Tile → Tile) (hf : ∀ x, (f x).health = x.health ∧ (f x).proofs = x.proofs) :
    (s.modTile i f).fencing j = s.fencing j := by
  unfold State.fencing
  by_cases hj : j = i
  · rw [hj, State.modTile_tile_same, (hf _).1, (hf _).2]
  · rw [State.modTile_tile_other _ _ _ _ hj]

theorem State.modTile_fencing_other (s : State) {i j : Nat} (f : Tile → Tile) (hj : j ≠ i) : (s.modTile i f).fencing j = s.fencing j := by
  unfold State.fencing
  rw [State.modTile_tile_other _ _ _ _ hj]

theorem State.raiseStandIns_fencing (s : State) (w i j : Nat) : (s.raiseStandIns w i).fencing j = s.fencing j := by
  refine forEach_fixes (State.fencing j) _ (fun t a => ?_) _ s
  dsimp only
  split
  · exact State.modTile_fencing t _ j _ fun _ => ⟨rfl, rfl⟩
  · rfl

theorem State.loseFeeds_tiles (s : State) (w i : Nat) : (s.loseFeeds w i).tiles = s.tiles := by
  unfold State.loseFeeds
  split
  · rfl
  · refine forEach_fixes State.tiles _ (fun t p => ?_) _ s
    dsimp only
    split <;> rfl

/-- A scrub leaves of the tile what survives one, with its proof runs abandoned, but for its list of damaged words; no other tile changes. -/
theorem State.scrubTile_tile (s : State) (i : Nat) :
    (∃ bw, (s.scrubTile i).tile i = { (s.tile i).abandonProof.scrubbed with badWords := bw }) ∧ ∀ j, j ≠ i → (s.scrubTile i).tile j = s.tile j := by
  unfold State.scrubTile
  obtain ⟨bw, hself, -, hother⟩ :=
    State.mendStore_tile ((s.modTile i fun t => t.abandonProof.scrubbed).clearRange (tileBase i) storeBytes) i 0 storeBytes
  refine ⟨⟨bw, ?_⟩, fun j hj => ?_⟩
  · rw [hself, State.clearRange_tile, State.modTile_tile_same]
  · rw [hother j hj, State.clearRange_tile, State.modTile_tile_other _ _ _ _ hj]

theorem State.scrubTile_proofs (s : State) (i : Nat) : ((s.scrubTile i).tile i).proofs = [] := by
  obtain ⟨⟨bw, hself⟩, -⟩ := s.scrubTile_tile i
  rw [hself]
  rfl

/-- The state in which a tile is about to be scrubbed for its fence: its micro-batches are lost and its stand-in flags raised. -/
def State.beforeFence (s : State) (i : Nat) : State :=
  match s.wardOfDie (i / 64) with
  | some w => if ((s.loseFeeds w i).tile i).issuing then (s.loseFeeds w i).raiseStandIns w i else s.loseFeeds w i
  | none => s

theorem State.fenceTile_eq (s : State) (i : Nat) :
    s.fenceTile i = (((s.beforeFence i).scrubTile i).dropChain i).modTile i fun t => { t with health := .fenced } := rfl

theorem State.beforeFence_fencing (s : State) (i j : Nat) : (s.beforeFence i).fencing j = s.fencing j := by
  unfold State.beforeFence
  split
  · rename_i w _
    have hlose := State.fencing_of_tiles j (s.loseFeeds_tiles w i)
    split
    · exact (State.raiseStandIns_fencing _ w i j).trans hlose
    · exact hlose
  · rfl

theorem State.fenceTile_fenced (s : State) (i : Nat) : ((s.fenceTile i).tile i).Fenced := by
  rw [State.fenceTile_eq, State.modTile_tile_same]
  exact ⟨rfl, State.scrubTile_proofs _ i⟩

theorem State.fenceTile_fencing_other (s : State) {i j : Nat} (hj : j ≠ i) : (s.fenceTile i).fencing j = s.fencing j := by
  rw [State.fenceTile_eq, State.modTile_fencing_other _ _ hj, ← State.beforeFence_fencing s i j]
  exact congrArg (fun x : Tile => (x.health, x.proofs)) ((State.scrubTile_tile _ i).2 j hj)

theorem State.jobFaultDie_tiles (s : State) (n : Nat) (st : St) : (s.jobFaultDie n st).tiles = s.tiles := by
  unfold State.jobFaultDie
  split <;> rfl

theorem partner_ne (i : Nat) : partner i ≠ i := by
  unfold partner
  split <;> omega

/-! ### The verdicts that fence (R86, R87) -/

theorem State.verdictMain_fenced (s : State) (i : Nat) (l : LastProof) : ((s.verdictMain i l).tile i).Fenced :=
  State.fenceTile_fenced _ i

theorem State.verdictBoth_fenced (s : State) (i : Nat) (both : Bool) (sr : W16) :
    ((s.verdictBoth i both sr).tile i).Fenced ∧ ((s.verdictBoth i both sr).tile (partner i)).Fenced := by
  unfold State.verdictBoth
  extract_lets mark s1 s2
  have hfault (j : Nat) := State.fencing_of_tiles j (State.jobFaultDie_tiles ((s2.fenceTile i).fenceTile (partner i)) (i / 64) .witnessFence)
  exact ⟨((State.fenceTile_fenced s2 i).of_fencing (State.fenceTile_fencing_other _ (partner_ne i).symm)).of_fencing (hfault i),
    (State.fenceTile_fenced _ (partner i)).of_fencing (hfault (partner i))⟩

/-! ### The end of a proof run (R83 to R87) -/

/-- A partner loads its shadow latches again as its own last LATCH did, or clears them where it has had none (R83). -/
def Tile.reload (x : Tile) : Tile :=
  match x.lastLatch with
  | some j => { x with latching := some j, rerun := true }
  | none => { x with shd := {}, shdSrc := none }

/-- The tile after the verdict that its witness is at fault on its oldest proof run, as `l` describes it; the runs `more` stay. -/
def Tile.witnessAtFault (l : LastProof) (more : List Proof) (x : Tile) : Tile :=
  { x.verdict l with cntWitness := incSat x.cntWitness, health := .degraded, proofs := more,
                     held := (more.flatMap fun q => q.pass.wells).dedup }

theorem Tile.verdict_frame (x : Tile) (l : LastProof) : x.verdict l = { x with last := (x.verdict l).last } := by
  unfold Tile.verdict
  split <;> rfl

theorem Tile.witnessAtFault_frame {x y : Tile} {l : LastProof} {more : List Proof} (hy : y = x.witnessAtFault l more) : y =
    { x with cntWitness := incSat x.cntWitness, health := .degraded, proofs := more,
             held := (more.flatMap fun q => q.pass.wells).dedup, last := y.last } := by
  rw [hy, Tile.witnessAtFault, Tile.verdict_frame]

theorem Tile.verdict_only {x : Tile} {p : Proof} (l : LastProof) (hp : x.proofs = [p]) : (x.verdict l).last = l :=
  congrArg Tile.last (if_pos (by simp [hp]))

theorem Tile.verdict_earlier {x : Tile} {p : Proof} {more : List Proof} (l : LastProof) (hp : x.proofs = p :: more) (hmore : more ≠ []) :
    (x.verdict l).last = x.last :=
  congrArg Tile.last (if_neg (by simp [hp, hmore]))

/-- The sums of the replay of the recorded check points of proof run `p`. -/
def State.replayed (s : State) (i : Nat) (p : Proof) (errs : List ReplayErr) : List (W16 × W16) :=
  (List.range p.sig.length).map fun k => s.replayPoint i p.pass errs (p.firstPoint + k)

/-- The verdict on proof run `p` of tile `i`. -/
def State.verdictOn (s : State) (i : Nat) (p : Proof) (errs : List ReplayErr) : Nat :=
  verdictOf p.sig (s.replayed i p errs) ((s.tile (partner i)).health == .normal)

theorem State.proofRecord_tile (s : State) (i scope : Nat) (st : Byte) (l : LastProof) (j : Nat) :
    (s.proofRecord i scope st l).tile j = s.tile j :=
  congrArg (Tab.get · j) (congrArg State.tiles (a₁ := (s.proofRecord i scope st l).still) (a₂ := s.still) (State.report_still s _))

theorem execProofVerdict_waits {s : State} {i : Nat} {p : Proof} {more : List Proof} (errs : List ReplayErr) (hp : (s.tile i).proofs = p :: more)
    (hstart : p.started = false) : execProofVerdict i errs s = .next s := by
  unfold execProofVerdict
  dsimp only
  rw [hp]
  exact if_pos (by simp [hstart])

/-- A tile whose pc lies in its code goes on where no proof run of it is left. -/
theorem State.resume_in (s : State) (i : Nat) (last : Bool) (h : (s.tile i).pc < (s.tile i).codeEnd) :
    (match s.wardOfDie (i / 64) with
      | some w => if last then s.checkPc w i else s
      | none => s) = s := by
  split
  · rw [State.checkPc_in _ _ _ h, ite_self]
  · rfl

/-- The state after the verdict that the witness of tile `i` is at fault. -/
def State.witnessAtFault (s : State) (i : Nat) (l : LastProof) (more : List Proof) : State :=
  ((s.modTile (partner i) Tile.reload).modTile i (Tile.witnessAtFault l more)).proofRecord i 0 0 l

theorem State.witnessAtFault_tile_same (s : State) (i : Nat) (l : LastProof) (more : List Proof) :
    (s.witnessAtFault i l more).tile i = (s.tile i).witnessAtFault l more := by
  rw [State.witnessAtFault, State.proofRecord_tile, State.modTile_tile_same, State.modTile_tile_other _ _ _ _ (partner_ne i).symm]

theorem State.witnessAtFault_tile_partner (s : State) (i : Nat) (l : LastProof) (more : List Proof) :
    (s.witnessAtFault i l more).tile (partner i) = (s.tile (partner i)).reload := by
  rw [State.witnessAtFault, State.proofRecord_tile, State.modTile_tile_other _ _ _ _ (partner_ne i), State.modTile_tile_same]

theorem State.witnessAtFault_tile_other (s : State) {i j : Nat} (l : LastProof) (more : List Proof) (hi : j ≠ i) (hj : j ≠ partner i) :
    (s.witnessAtFault i l more).tile j = s.tile j := by
  rw [State.witnessAtFault, State.proofRecord_tile, State.modTile_tile_other _ _ _ _ hi, State.modTile_tile_other _ _ _ _ hj]

/-- The state after verdict `v` (`verdictOf`) on a proof run of tile `i`, as `l` describes it; the runs `more` are behind it. -/
def State.afterVerdict (s : State) (i v : Nat) (l : LastProof) (more : List Proof) : State :=
  match v with
  | 0 => s.witnessAtFault i l more
  | 1 => (s.modTile (partner i) Tile.reload).verdictMain i l
  | _ => (s.modTile (partner i) Tile.reload).verdictBoth i false l.sr

/-- A proof run that has started, and whose check points are all recorded, ends as its verdict says. -/
theorem execProofVerdict_ends {s : State} {i v : Nat} {p : Proof} {more : List Proof} {errs : List ReplayErr} {l : LastProof}
    (hp : (s.tile i).proofs = p :: more) (hstart : p.started = true)
    (hdone : more ≠ [] ∨ 4096 ≤ p.sig.length ∨ ∀ q ∈ (s.tile i).passes.head?, q.mismatched = false)
    (hpc : (s.tile i).pc < (s.tile i).codeEnd) (hv : s.verdictOn i p errs = v)
    (hl : p.last v ((s.replayed i p errs).headD (0, 0)).1 = l) :
    execProofVerdict i errs s = .next (s.afterVerdict i v l more) := by
  have hstream : (more.isEmpty && ((s.tile i).passes.head?.map (·.mismatched)).getD false && decide (p.sig.length < 4096)) = false := by
    rcases hdone with h | h | h
    · simp [h]
    · simp [Nat.not_lt.mpr h]
    · cases hq : (s.tile i).passes.head? with
      | none => simp
      | some q => simp [h q hq]
  unfold State.verdictOn State.replayed at hv
  unfold State.replayed at hl
  unfold execProofVerdict
  dsimp only
  rw [hp]
  dsimp only
  rw [if_neg (by rw [hstream]; simp [hstart]), hv, hl]
  match v with
  | 0 => exact congrArg Host.Outcome.next (State.resume_in (s.witnessAtFault i l more) i more.isEmpty (by
      rw [State.witnessAtFault_tile_same, Tile.witnessAtFault_frame rfl]
      exact hpc))
  | 1 => rfl
  | _ + 2 => rfl

/-- The oldest proof run of the tile, if it has one, is marked as started. -/
def Tile.startProof (x : Tile) : Tile :=
  { x with proofs := match x.proofs with
      | [] => []
      | p :: r => { p with started := true } :: r }

theorem Tile.startProof_eq {x : Tile} {p : Proof} {more : List Proof} (hp : x.proofs = p :: more) :
    x.startProof = { x with proofs := { p with started := true } :: more } := by
  rw [Tile.startProof, hp]

/-- The witness at fault: what is said of the tile, its partner, the other tiles and the records. -/
theorem State.witnessAtFault_spec {s : State} {i : Nat} {p : Proof} {more : List Proof} {l : LastProof} (hp : (s.tile i).proofs = p :: more)
    {t : State} (ht : t = s.witnessAtFault i l more) :
    t.tile i = { s.tile i with cntWitness := incSat (s.tile i).cntWitness, health := .degraded, proofs := more,
                               held := (more.flatMap fun q => q.pass.wells).dedup, last := (t.tile i).last } ∧
    (more = [] → (t.tile i).last = l) ∧ (more ≠ [] → (t.tile i).last = (s.tile i).last) ∧
    t.tile (partner i) = (s.tile (partner i)).reload ∧ (∀ j, j ≠ i → j ≠ partner i → t.tile j = s.tile j) ∧
    t.saf.seqNext = s.saf.seqNext + 1 := by
  subst ht
  have hself := s.witnessAtFault_tile_same i l more
  refine ⟨Tile.witnessAtFault_frame hself, fun hmore => ?_, fun hmore => ?_, s.witnessAtFault_tile_partner i l more,
    fun j => s.witnessAtFault_tile_other l more, (State.report_reports _ _).2.1⟩
  · rw [hself]
    exact Tile.verdict_only l (hmore ▸ hp)
  · rw [hself]
    exact Tile.verdict_earlier l hp hmore

/-- Settles O22: a run starts by a mark on it; with its check points recorded it ends by the equation of its verdict, and a fence's
scrub leaves no run of its tile. That the failing pass is kept for the replay, and drains of its wells wait, is log entry 25; that a
later mismatch has a run of its own is log entry 162. -/
theorem proofRunsCompleteAsTheVerdictSays : Obligations.ProofRunsCompleteAsTheVerdictSays := by
  rintro s i x p more rfl hp
  refine ⟨⟨_, rfl, ?_⟩, fun errs => ⟨execProofVerdict_waits errs hp, fun hstart hdone hpc v hv => ?_⟩⟩
  · have honly := s.modTile_only i Tile.startProof
    rwa [Tile.startProof_eq hp] at honly
  have hends := execProofVerdict_ends hp hstart hdone hpc hv.symm rfl
  have hle : v ≤ 2 := hv ▸ verdictOf_le _ _ _
  match v with
  | 0 =>
    obtain ⟨hself, hlast, hkept, hpartner, hother, hseq⟩ := State.witnessAtFault_spec hp rfl
    exact ⟨_, hends, fun _ => ⟨hself, fun h => congrArg LastProof.verdict (hlast h), hkept, hpartner, hother, hseq⟩, by simp, by simp⟩
  | 1 => exact ⟨_, hends, by simp, fun _ => State.verdictMain_fenced _ i _, by simp⟩
  | 2 =>
    obtain ⟨hself, hpartner⟩ := State.verdictBoth_fenced (s.modTile (partner i) Tile.reload) i false _
    exact ⟨_, hends, by simp, fun _ => hself, fun _ => hpartner.1⟩
  | _ + 3 => omega

end Sys2Proof.Machine
end

section
/-! The lane generators (R107) and the running sum (R99, R100): what a step, a write and a reseed of a generator leave, how a sum is
rounded, and what adding a partial answers. -/

namespace Sys2Proof.Machine
open Sys2Proof

/-! ### The step of a generator (R107) -/

theorem genStep_eq (s : W32) : genStep s = if s.getLsbD 0 then (s >>> 1) ^^^ 0x80200003#32 else s >>> 1 := by
  unfold genStep
  refine if_congr ?_ rfl rfl
  rw [BitVec.getLsbD, Nat.testBit_zero, decide_eq_true_eq]

/-- A bit shifted out sets bit 31, which the shift has cleared; without one, a state that is not 0 has a bit left. -/
theorem genStep_ne_zero {s : W32} (hs : s ≠ 0) : genStep s ≠ 0 := by
  unfold genStep
  extract_lets r
  have hr : r.toNat = s.toNat / 2 := by simp [r, Nat.shiftRight_eq_div_pow]
  split
  · intro h
    have htop : r.getLsbD 31 = false := Nat.testBit_lt_two_pow (by omega)
    have h31 : (r ^^^ 0x80200003).getLsbD 31 = (0 : W32).getLsbD 31 := congrArg (BitVec.getLsbD · 31) h
    rw [BitVec.getLsbD_xor, htop] at h31
    exact absurd h31 (by decide)
  · intro h
    have hzero : r.toNat = 0 := congrArg BitVec.toNat h
    exact hs (BitVec.eq_of_toNat_eq (show s.toNat = 0 by omega))

theorem genSteps_ne_zero (n : Nat) {s : W32} (hs : s ≠ 0) : genSteps n s ≠ 0 := by
  induction n generalizing s with
  | zero => exact hs
  | succ n ih => exact ih (genStep_ne_zero hs)

theorem genDraw_bits (s : W32) : (genDraw s).1 = (s &&& 0x1FFF#32).toNat :=
  (Nat.and_two_pow_sub_one_eq_mod s.toNat 13).symm

/-- A draw leaves the state 13 steps on. -/
theorem genDraw_state (s : W32) : (genDraw s).2 = genStep (genStep (genStep (genStep (genStep (genStep (genStep (genStep (genStep (genStep
    (genStep (genStep (genStep s)))))))))))) := by
  simp only [genDraw, genSteps]

theorem genDraw_ne_zero {s : W32} (hs : s ≠ 0) : (genDraw s).2 ≠ 0 := by
  dsimp only [genDraw]
  exact genSteps_ne_zero 13 hs

theorem genDraw_lt (s : W32) : (genDraw s).1 < 8192 := Nat.mod_lt _ (by decide)

/-! ### The table of the generators (R107, R109) -/

theorem genOf_ne_zero (g : Tab W32) (j : Nat) : genOf g j ≠ 0 := by
  unfold genOf
  extract_lets s
  split
  · decide
  · assumption

theorem genOf_setGen (g : Tab W32) (j k : Nat) (s : W32) :
    genOf (setGen g j s) k = if k = j then (if s = 0 then 1 else s) else genOf g k := by
  unfold genOf setGen
  rw [Tab.get_set]
  by_cases hk : k = j
  · rw [if_pos hk, if_pos hk]
    by_cases hs : s = 1
    · simp [hs]
    · rw [if_neg hs]
  · rw [if_neg hk, if_neg hk]

theorem laneSeed_ne_zero (seed : W32) (b j : Nat) : laneSeed seed b j ≠ 0 := by
  unfold laneSeed
  extract_lets s
  split
  · decide
  · assumption

/-- The first `n` lanes after a reseed that has come as far as lane `n`. -/
theorem genOf_seeded (seed : W32) (b : Nat) {n j : Nat} (hj : j < n) :
    genOf ((List.range n).foldl (fun t j => setGen t j (laneSeed seed b j)) []) j = laneSeed seed b j := by
  induction n with
  | zero => omega
  | succ n ih =>
    rw [List.range_succ, List.foldl_append, List.foldl_cons, List.foldl_nil, genOf_setGen]
    by_cases hn : j = n
    · rw [if_pos hn, if_neg (laneSeed_ne_zero seed b n), hn]
    · rw [if_neg hn, ih (by omega)]

/-- Settles O12: the step by its shift and its taps, the table by what a read after a write gives, a reseed by induction on the lanes. -/
theorem laneGeneratorsStepAndNeverReachZero : Obligations.LaneGeneratorsStepAndNeverReachZero :=
  ⟨genStep_eq, fun s => ⟨genDraw_bits s, genDraw_state s⟩, fun _ hs => ⟨genStep_ne_zero hs, genDraw_ne_zero hs⟩, genOf_setGen, genOf_ne_zero,
    fun seed b j hj => ⟨laneSeed_ne_zero seed b j, genOf_seeded seed b hj⟩⟩

/-! ### Rounding (R99) -/

/-- Round half to even: no integer is nearer, and of two that are equally near the even one is taken. -/
theorem rneDiv_nearest (t : Int) (d : Nat) : 2 * |t - rneDiv t d * 2 ^ d| ≤ 2 ^ d ∧
    (2 * |t - rneDiv t d * 2 ^ d| = 2 ^ d → rneDiv t d % 2 = 0) := by
  have hpow : ((2 ^ d : Nat) : Int) = 2 ^ d := by push_cast; rfl
  unfold rneDiv
  extract_lets p q r
  rw [← hpow]
  change 2 * |t - _ * p| ≤ p ∧ (2 * |t - _ * p| = p → _)
  have hp : 0 < p := by positivity
  have hr : 0 ≤ r ∧ r < p := ⟨Int.emod_nonneg t hp.ne', Int.emod_lt_of_pos t hp⟩
  have hdiv : r + p * q = t := Int.emod_add_mul_ediv t p
  have hdown : |t - q * p| = r := by
    rw [show t - q * p = r by linarith, abs_of_nonneg hr.1]
  have hup : |t - (q + 1) * p| = p - r := by
    rw [show t - (q + 1) * p = r - p by linarith, abs_of_nonpos (by omega)]
    ring
  split_ifs
  · rw [hdown]; omega
  · rw [hup]; omega
  · rw [hdown]; omega
  · rw [hup]; omega

theorem srDiv_floor (t : Int) (d u : Nat) : srDiv t d u * (2 ^ d * 8192) ≤ t * 8192 + u * 2 ^ d ∧
    t * 8192 + u * 2 ^ d < (srDiv t d u + 1) * (2 ^ d * 8192) := by
  have hq : (0 : Int) < 2 ^ d * 8192 := by positivity
  unfold srDiv
  push_cast
  exact ⟨Int.ediv_mul_le _ hq.ne', Int.lt_ediv_add_one_mul_self _ hq⟩

/-- An integer whose steps of `q` stay within one step beyond those of `b`. -/
theorem abs_le_of_steps {n b q : Int} (hq : 0 < q) (hlow : (-b - 1) * q < n * q) (hhigh : n * q < (b + 1) * q) : |n| ≤ b := by
  have hlow' := lt_of_mul_lt_mul_right hlow hq.le
  have hhigh' := lt_of_mul_lt_mul_right hhigh hq.le
  exact abs_le.mpr ⟨by omega, by omega⟩

/-- A quotient that lies within whole bounds is rounded to an integer within them. -/
theorem roundDiv_within (rnd : Rnd) {t b : Int} {d u : Nat} (hu : u < 8192) (ht : |t| ≤ b * 2 ^ d) : |roundDiv rnd t d u| ≤ b := by
  have hq : (0 : Int) < 2 ^ d := by positivity
  obtain ⟨hlow, hhigh⟩ := abs_le.mp ht
  cases rnd with
  | rne =>
    change |rneDiv t d| ≤ b
    obtain ⟨hnear, -⟩ := rneDiv_nearest t d
    have hbelow := neg_abs_le (t - rneDiv t d * 2 ^ d)
    have habove := le_abs_self (t - rneDiv t d * 2 ^ d)
    exact abs_le_of_steps hq (by linarith) (by linarith)
  | sr =>
    change |srDiv t d u| ≤ b
    obtain ⟨hfloor, hnext⟩ := srDiv_floor t d u
    have hdraw : (0 : Int) ≤ u * 2 ^ d ∧ (u : Int) * 2 ^ d < 8192 * 2 ^ d :=
      ⟨by positivity, mul_lt_mul_of_pos_right (by omega) hq⟩
    obtain ⟨hpos, hless⟩ := hdraw
    exact abs_le_of_steps (q := 2 ^ d * 8192) (by positivity) (by linarith) (by linarith)

/-! ### Adding a partial (R99, R100) -/

/-- The draw of a rounding, and the generator after it: only stochastic rounding draws (R100). -/
def roundingDraw (rnd : Rnd) (gen : W32) : Nat × W32 := (if rnd = .sr then (genDraw gen).1 else 0, if rnd = .sr then (genDraw gen).2 else gen)

theorem roundingDraw_lt (rnd : Rnd) (gen : W32) : (roundingDraw rnd gen).1 < 8192 := by
  dsimp only [roundingDraw]
  split
  · exact genDraw_lt gen
  · decide

/-- The exact sum of a running sum and a partial of exponent `f`, at the lower exponent. -/
def RunSum.aligned (r : RunSum) (p f : Int) : Int := r.m * 2 ^ (r.e - min r.e f).toNat + p * 2 ^ (f - min r.e f).toNat

/-- That sum rounded at exponent `e`. -/
def RunSum.rounded (r : RunSum) (rnd : Rnd) (gen : W32) (p f e : Int) : Int :=
  roundDiv rnd (r.aligned p f) (e - min r.e f).toNat (roundingDraw rnd gen).1

/-- The running sum of significand `m` and exponent `e` that `r` becomes with a partial, which is poisoned or not. -/
def RunSum.take (r : RunSum) (bad : Bool) (m e : Int) : RunSum := { empty := false, m := m, e := e, poison := r.poison || bad }

section
variable {r : RunSum} {p : Int} (rnd : Rnd) (gen : W32) (f : Int) (bad : Bool) (hp : p ≠ 0)
include hp

theorem addPartial_empty (he : r.empty = true) : addPartial rnd r gen p f bad = (r.take bad p f, gen, 0) := by
  simp [addPartial, RunSum.take, hp, he]

variable (he : r.empty = false)
include he

/-- The sum is rounded at the higher exponent, and one binary place higher where that does not fit. -/
theorem addPartial_open : addPartial rnd r gen p f bad =
    if 2097151 < r.rounded rnd gen p f (max r.e f) ∨ r.rounded rnd gen p f (max r.e f) < -2097152 then
      (r.take bad (r.rounded rnd gen p f (max r.e f + 1)) (max r.e f + 1), (roundingDraw rnd gen).2, 1)
    else (r.take bad (r.rounded rnd gen p f (max r.e f)) (max r.e f), (roundingDraw rnd gen).2, 0) := by
  cases rnd <;> simp [addPartial, RunSum.take, RunSum.rounded, RunSum.aligned, roundingDraw, hp, he]

theorem addPartial_fits (hfit : -2097152 ≤ r.rounded rnd gen p f (max r.e f) ∧ r.rounded rnd gen p f (max r.e f) ≤ 2097151) :
    addPartial rnd r gen p f bad = (r.take bad (r.rounded rnd gen p f (max r.e f)) (max r.e f), (roundingDraw rnd gen).2, 0) := by
  rw [addPartial_open rnd gen f bad hp he, if_neg (by omega)]

theorem addPartial_renormalises (hfit : ¬(-2097152 ≤ r.rounded rnd gen p f (max r.e f) ∧ r.rounded rnd gen p f (max r.e f) ≤ 2097151)) :
    addPartial rnd r gen p f bad = (r.take bad (r.rounded rnd gen p f (max r.e f + 1)) (max r.e f + 1), (roundingDraw rnd gen).2, 1) := by
  rw [addPartial_open rnd gen f bad hp he, if_pos (by omega)]

end

section
variable (r : RunSum) {p : Int} (f : Int) (hp : |p| < 2 ^ 20) (hlow : -2097152 ≤ r.m) (hhigh : r.m ≤ 2097151)
include hp hlow hhigh

/-- The aligned sum is at most 3 x 2^20 steps of the higher exponent. -/
theorem RunSum.aligned_bound : |r.aligned p f| ≤ 3 * 2 ^ 20 * 2 ^ (max r.e f - min r.e f).toNat := by
  have hm : |r.m| ≤ 2 ^ 21 := abs_le.mpr ⟨by omega, by omega⟩
  calc |r.aligned p f| ≤ |r.m| * 2 ^ (r.e - min r.e f).toNat + |p| * 2 ^ (f - min r.e f).toNat := by
        refine (abs_add_le _ _).trans (le_of_eq ?_)
        simp [abs_mul]
    _ ≤ 2 ^ 21 * 2 ^ (max r.e f - min r.e f).toNat + 2 ^ 20 * 2 ^ (max r.e f - min r.e f).toNat := by gcongr <;> omega
    _ = 3 * 2 ^ 20 * 2 ^ (max r.e f - min r.e f).toNat := by ring

/-- One renormalisation always suffices: half of the aligned sum fits (R99). -/
theorem RunSum.renormalised_fits (rnd : Rnd) (gen : W32) :
    -2097152 ≤ r.rounded rnd gen p f (max r.e f + 1) ∧ r.rounded rnd gen p f (max r.e f + 1) ≤ 2097151 := by
  have hhalf : |r.rounded rnd gen p f (max r.e f + 1)| ≤ 3 * 2 ^ 19 := by
    refine roundDiv_within rnd (roundingDraw_lt rnd gen) ((r.aligned_bound f hp hlow hhigh).trans (le_of_eq ?_))
    rw [show (max r.e f + 1 - min r.e f).toNat = (max r.e f - min r.e f).toNat + 1 by omega]
    ring
  have hbounds := abs_le.mp hhalf
  omega

end

/-- Settles O11: the two roundings by their bounds; an addition by its equation for an empty sum, for one whose result fits, and for one
that renormalises, which fits by the bound of the aligned sum. -/
theorem runningSumRoundsOnceAndFits : Obligations.RunningSumRoundsOnceAndFits := by
  refine ⟨rneDiv_nearest, srDiv_floor, fun rnd r gen p f bad hp hbound hlow hhigh => ?_⟩
  cases he : r.empty with
  | true =>
    have hrange := abs_lt.mp hbound
    exact ⟨_, _, _, addPartial_empty rnd gen f bad hp he, rfl, show -2097152 ≤ p by omega, show p ≤ 2097151 by omega, rfl,
      fun _ => ⟨rfl, rfl, rfl, rfl⟩, by simp⟩
  | false =>
    by_cases hfit : -2097152 ≤ r.rounded rnd gen p f (max r.e f) ∧ r.rounded rnd gen p f (max r.e f) ≤ 2097151
    · refine ⟨_, _, _, addPartial_fits rnd gen f bad hp he hfit, rfl, hfit.1, hfit.2, rfl, by simp, ?_⟩
      rintro - g e1 t u rfl rfl rfl rfl
      exact ⟨le_max_left r.e f, rfl, fun _ => ⟨rfl, rfl, rfl⟩, fun h => (h.elim hfit.1.not_gt hfit.2.not_gt).elim⟩
    · obtain ⟨hfits, hfits'⟩ := r.renormalised_fits f hbound hlow hhigh rnd gen
      refine ⟨_, _, _, addPartial_renormalises rnd gen f bad hp he hfit, rfl, hfits, hfits', rfl, by simp, ?_⟩
      rintro - g e1 t u rfl rfl rfl rfl
      exact ⟨show r.e ≤ max r.e f + 1 by omega, rfl, fun h => absurd h hfit, fun _ => ⟨rfl, rfl, rfl⟩⟩

end Sys2Proof.Machine
end

section
/-! WZERO, DRAIN and their completions (R132 to R136): the wells that a clear empties, what a drain leaves of them, and the bytes it
stores. -/

namespace Sys2Proof.Machine
open Sys2Proof

/-! ### WZERO (R132) -/

/-- The tile after a WZERO: its wells empty, their carry entries closed, the clear under way. -/
def Tile.zeroWells (f : WzeroF) (x : Tile) : Tile :=
  { x with wells := (wellsOf f.wb f.wc).foldl (fun a u => Tab.set a u {}) x.wells,
           carries := x.carries.filter fun c => !(wellsOf f.wb f.wc).contains c.well,
           plan := x.plan.filter fun c => !(wellsOf f.wb f.wc).contains c.well,
           skipWells := x.skipWells.filter fun u => !(wellsOf f.wb f.wc).contains u,
           zeroing := x.zeroing ++ [f] }

/-- A cleared well is empty, and neither a carry entry nor a discarded result of it is left. -/
theorem Tile.zeroWells_named (x : Tile) (f : WzeroF) {u : Nat} (hu : u ∈ wellsOf f.wb f.wc) :
    (x.zeroWells f).wells.get u = {} ∧ u ∉ (x.zeroWells f).skipWells ∧ ∀ c ∈ (x.zeroWells f).carries, c.well ≠ u := by
  refine ⟨(get_foldl_set ({} : Well) _ x.wells u).trans (if_pos hu), fun hskip => ?_, fun c hc he => ?_⟩
  · have hout := (List.mem_filter.mp hskip).2
    simp [hu] at hout
  · have hout := (List.mem_filter.mp hc).2
    simp [he, hu] at hout

theorem Tile.zeroWells_other (x : Tile) (f : WzeroF) {u : Nat} (hu : u ∉ wellsOf f.wb f.wc) :
    (x.zeroWells f).wells.get u = x.wells.get u :=
  (get_foldl_set ({} : Well) _ x.wells u).trans (if_neg hu)

section
variable {s : State} {i w : Nat} {f : WzeroF} (h : s.fetches i (.wzero i f) w)
include h

theorem wzero_busy (hbusy : ∃ u ∈ wellsOf f.wb f.wc, (s.tile i).wellBusy u = true) : Answers (.wzero i f) s fun t => Stalls s t i :=
  answers_stalls rfl h (if_pos (List.any_eq_true.mpr hbusy))

theorem wzero_free (hfree : ∀ u ∈ wellsOf f.wb f.wc, (s.tile i).wellBusy u = false) (hpc : s.nextPc i < (s.tile i).codeEnd) :
    Answers (.wzero i f) s fun t => Issued s t i (.wzero i f) ((s.tile i).zeroWells f) (s.nextPc i) :=
  answers_issued rfl h (f := Tile.zeroWells f) (if_neg (by simpa using hfree)) hpc

end

/-! ### DRAIN (R133 to R135) -/

/-- The forced promotion of an open carry of a drained well (R104). -/
def Tile.forceForDrain (x : Tile) (u : Nat) : Tile := { x.forcePromote u with plan := x.plan.filter fun c => c.well ≠ u }

/-- The tile after the forced promotions that a drain of the wells `us` makes. -/
def Tile.forceWells (us : List Nat) (x : Tile) : Tile := us.foldl Tile.forceForDrain x

/-- The result of a drain is under way; its roundings leave the generators and the count of results that are not finite. -/
def Tile.startDrain (f : DrainF) (l : Landing) (gens : Tab W32) (count : W16) (x : Tile) : Tile :=
  { x with gens := gens, nonfinite := count, draining := some (f, l) }

theorem Tile.forceForDrain_frame (x : Tile) (u : Nat) : x.forceForDrain u =
    { x with wells := (x.forceForDrain u).wells, carries := (x.forceForDrain u).carries, plan := (x.forceForDrain u).plan,
             gens := (x.forceForDrain u).gens, nonfinite := (x.forceForDrain u).nonfinite, forcedCnt := (x.forceForDrain u).forcedCnt } := by
  rw [Tile.forceForDrain, Tile.forcePromote_frame]

/-- A forced promotion opens no carry entry, and a well without one keeps its contents. -/
theorem Tile.forceForDrain_closed {x : Tile} {k : Nat} (hk : ∀ c ∈ x.carries, c.well ≠ k) (u : Nat) :
    (x.forceForDrain u).wells.get k = x.wells.get k ∧ ∀ c ∈ (x.forceForDrain u).carries, c.well ≠ k := by
  unfold Tile.forceForDrain
  cases hu : x.carries.find? (fun c => c.well = u) with
  | none =>
    rw [Tile.forcePromote_closed hu]
    exact ⟨rfl, hk⟩
  | some c =>
    have hne : k ≠ u := by
      rintro rfl
      exact hk c (List.mem_of_find?_eq_some hu) (by simpa using List.find?_some hu)
    refine ⟨x.forcePromote_wells_other hne, fun c' hc' => ?_⟩
    rw [Tile.forcePromote_open hu] at hc'
    exact hk c' (List.mem_filter.mp hc').1

theorem Tile.forceWells_frame (us : List Nat) (x : Tile) : x.forceWells us =
    { x with wells := (x.forceWells us).wells, carries := (x.forceWells us).carries, plan := (x.forceWells us).plan,
             gens := (x.forceWells us).gens, nonfinite := (x.forceWells us).nonfinite, forcedCnt := (x.forceWells us).forcedCnt } := by
  induction us generalizing x with
  | nil => rfl
  | cons u us ih =>
    change (x.forceForDrain u).forceWells us = { x with
      wells := ((x.forceForDrain u).forceWells us).wells, carries := ((x.forceForDrain u).forceWells us).carries,
      plan := ((x.forceForDrain u).forceWells us).plan, gens := ((x.forceForDrain u).forceWells us).gens,
      nonfinite := ((x.forceForDrain u).forceWells us).nonfinite, forcedCnt := ((x.forceForDrain u).forceWells us).forcedCnt }
    rw [ih, Tile.forceForDrain_frame]

theorem Tile.forceWells_closed (us : List Nat) {x : Tile} {k : Nat} (hk : ∀ c ∈ x.carries, c.well ≠ k) :
    (x.forceWells us).wells.get k = x.wells.get k := by
  induction us generalizing x with
  | nil => rfl
  | cons u us ih =>
    obtain ⟨hwell, hcarries⟩ := Tile.forceForDrain_closed hk u
    exact (ih hcarries).trans hwell

section
variable {s : State} {i : Nat} {f : DrainF}

theorem State.drainBody_busy (hbusy : (∃ u ∈ wellsOf f.wb f.wc, (s.tile i).wellBusy u = true ∨ u ∈ (s.tile i).held) ∨
    (s.tile i).draining ≠ none) : s.drainBody i f = .stall :=
  if_pos (by simpa [Option.isSome_iff_ne_none] using hbusy)

variable (hfree : ∀ u ∈ wellsOf f.wb f.wc, (s.tile i).wellBusy u = false ∧ u ∉ (s.tile i).held) (hnone : (s.tile i).draining = none)
include hfree hnone

theorem State.drainBody_outside {o : Nat} (hoffs : s.drainOffs i f = .error o) : s.drainBody i f = .exc 0x10 (sat32 o) := by
  unfold State.drainBody
  extract_lets x ws
  rw [if_neg (by simpa [x, ws, hnone] using hfree), hoffs]

/-- A drain that meets no damaged word forces its open carries and has its result under way; besides its tile, the counter of free
values alone changes. -/
theorem State.drainBody_inside {o : DrainOffs} (hoffs : s.drainOffs i f = .ok o) (hgood : f.aie = true → (s.tile i).badWords = []) :
    ∃ n l gens count, s.drainBody i f = .go (({ s with fresh := n } : State).modTile i fun _ =>
      ((s.tile i).forceWells (wellsOf f.wb f.wc)).startDrain f l gens count) := by
  unfold State.drainBody
  extract_lets x ws y
  rw [if_neg (by simpa [x, ws, hnone] using hfree), hoffs]
  obtain ⟨out, a⟩ := s.drainAll i f o y
  dsimp -zeta only
  extract_lets rs l s1 s2
  have hfresh : ∃ n, s1 = { s with fresh := n } := by
    dsimp only [s1]
    split
    · exact ⟨_, rfl⟩
    · exact ⟨_, rfl⟩
  obtain ⟨n, hn⟩ := hfresh
  have hsoft : s2 = s1 := by
    dsimp only [s2]
    split
    · exact State.noteSoft_good (by rw [hn]; exact hgood ‹_›) _
    · rfl
  rw [hsoft, hn]
  exact ⟨n, l, _, _, rfl⟩

end

section
variable {s : State} {i w : Nat} {f : DrainF} (h : s.fetches i (.drain i f) w)
include h

theorem drain_goesOn (hfree : ∀ u ∈ wellsOf f.wb f.wc, (s.tile i).wellBusy u = false ∧ u ∉ (s.tile i).held)
    (hnone : (s.tile i).draining = none) {o : DrainOffs} (hoffs : s.drainOffs i f = .ok o) (hpc : s.nextPc i < (s.tile i).codeEnd)
    (hgood : f.aie = true → (s.tile i).badWords = []) : Answers (.drain i f) s fun t => ∃ l gens count,
      Issued s t i (.drain i f) (((s.tile i).forceWells (wellsOf f.wb f.wc)).startDrain f l gens count) (s.nextPc i) := by
  obtain ⟨n, l, gens, count, hbody⟩ := State.drainBody_inside hfree hnone hoffs hgood
  have hend : (((s.tile i).forceWells (wellsOf f.wb f.wc)).startDrain f l gens count).codeEnd = (s.tile i).codeEnd := by
    rw [Tile.forceWells_frame]
    rfl
  generalize hy : ((s.tile i).forceWells (wellsOf f.wb f.wc)).startDrain f l gens count = y at hbody hend
  generalize hu : ({ s with fresh := n } : State).modTile i (fun _ => y) = u at hbody
  have htile : u.tile i = y := by rw [← hu, State.modTile_tile_same]
  have hother (j : Nat) (hj : j ≠ i) : u.tile j = s.tile j := by rw [← hu]; exact State.modTile_tile_other _ i _ j hj
  refine (answers_goesOn rfl h hbody hother (by rwa [htile, hend])).imp fun t ht => ⟨l, gens, count, ?_⟩
  rw [htile, ← hu] at ht
  rw [hy]
  exact ht

end

/-! ### DRAIN_COMPLETE (R135, R57) -/

/-- The drain unit is free again. -/
def Tile.endDrain (x : Tile) : Tile := { x with draining := none, drained := true }

/-- The bytes of a drain have landed, and the drain unit is free again. -/
def State.drainLanded (s : State) (i : Nat) (l : Landing) : State :=
  (s.land i l).modTile i Tile.endDrain

theorem SitesChanged.tile {s t : State} (h : SitesChanged s t) (j : Nat) : t.tile j = s.tile j := by rw [h.frame]; rfl

theorem SitesChanged.rdByte {s t : State} (h : SitesChanged s t) (a : Nat) : t.rdByte a = s.rdByte a := by rw [h.frame]; rfl

/-- The conversions of a drain have counted at its site, where it has one. -/
def State.countDrain (s : State) (i : Nat) (l : Landing) : State :=
  match l.site with
  | some k => s.addSite (i / 64) k l.delta
  | none => s

theorem State.countDrain_sitesChanged (s : State) (i : Nat) (l : Landing) : SitesChanged s (s.countDrain i l) := by
  unfold State.countDrain
  split
  · exact State.onSite_sitesChanged _ _ _
  · exact .refl s

theorem State.countDrain_none (s : State) (i : Nat) {l : Landing} (hl : l.site = none) : s.countDrain i l = s := by
  rw [State.countDrain, hl]

theorem execDrainComplete_lands {s : State} {i : Nat} {f : DrainF} {l : Landing} (hdrain : (s.tile i).draining = some (f, l))
    (hclear : (s.tile i).anyClearing ((l.cells.map fun c => c.1 / 65536).dedup ++ l.reads) = false) (hpoison : l.poisonAt = []) :
    execDrainComplete i s = .next ((s.drainLanded i l).countDrain i l) := by
  unfold execDrainComplete
  rw [hdrain]
  dsimp only
  rw [if_neg (by simp [hclear]), hpoison]
  rfl

theorem State.drainLanded_only {s : State} {i : Nat} (l : Landing) (hgood : (s.tile i).badWords = []) :
    OnlyTile { s with mem := (s.drainLanded i l).mem } (s.drainLanded i l) i (s.tile i).endDrain := by
  obtain ⟨bw, ⟨htile, hother, -, hframe⟩, hbad⟩ := s.wrStoreCells_tile i l.cells
  refine ⟨?_, fun j hj => ?_, fun _ => rfl, ?_⟩
  · rw [State.drainLanded, State.land, State.modTile_tile_same, htile, hbad hgood, ← hgood]
  · exact (State.modTile_tile_other _ i _ j hj).trans (hother j hj)
  · rw [State.drainLanded, State.land, State.modTile, hframe]

theorem State.drainLanded_mem (s : State) (i : Nat) (l : Landing) :
    (s.drainLanded i l).mem = l.cells.foldl (fun m (o, b) => Tab.set (β := Byte) m (tileBase i + o) b) s.mem :=
  s.wrStoreCells_mem i l.cells

/-- What a completed drain changes: its tile's drain unit, the bytes of its cells, and what its conversions count at. -/
theorem drainComplete_lands {s : State} {i : Nat} {f : DrainF} {l : Landing} (hdrain : (s.tile i).draining = some (f, l))
    (hclear : (s.tile i).anyClearing ((l.cells.map fun c => c.1 / 65536).dedup ++ l.reads) = false) (hgood : (s.tile i).badWords = [])
    (hpoison : l.poisonAt = []) : Answers (.drainComplete i) s fun t =>
      OnlyTile { s with mem := t.mem, sites := t.sites, wards := t.wards } t i (s.tile i).endDrain ∧
      (∀ v, (s.ward v).statZeroed = false → t.ward v = s.ward v) ∧ (l.site = none → t.sites = s.sites) ∧
      t.mem = l.cells.foldl (fun m (o, b) => Tab.set (β := Byte) m (tileBase i + o) b) s.mem := by
  obtain ⟨htile, hother, -, hframe⟩ := State.drainLanded_only l hgood
  have hsites := (s.drainLanded i l).countDrain_sitesChanged i l
  refine ⟨_, execDrainComplete_lands hdrain hclear hpoison, ⟨?_, fun j hj => ?_, fun _ => rfl, ?_⟩, fun v hv => ?_, fun hl => ?_, ?_⟩
  · rw [hsites.tile, htile]
  · rw [hsites.tile, hother j hj]
    rfl
  · rw [hsites.frame, hframe]
  · rw [hsites.ward v (by rw [hframe]; exact hv), hframe]
    rfl
  · rw [State.countDrain_none _ _ hl, hframe]
  · rw [hsites.frame, ← State.drainLanded_mem]

/-- Settles O18: WZERO by what it leaves of each well, DRAIN by the answers of its body, its completion by the bytes that land. That a
well of a pass in flight is busy is log entry 160; that a DRAIN reads its wells at issue and stores at its completion is log
entry 21; that a WZERO clears at issue is log entry 22. -/
theorem wellsClearAndDrain : Obligations.WellsClearAndDrain := by
  rintro s i w x rfl
  refine ⟨fun f h => ⟨fun hfree hpc => (wzero_free h hfree hpc).imp fun t ht => ?_, wzero_busy h⟩, ⟨_, rfl, State.modTile_only s i _⟩,
    fun f h => ⟨fun hbusy => answers_stalls rfl h (State.drainBody_busy hbusy), fun hfree hnone => ⟨fun o hoffs => ?_, fun o hoffs hpc hgood => ?_⟩⟩,
    fun f l hdrain hclear hgood hpoison => (drainComplete_lands hdrain hclear hgood hpoison).imp ?_⟩
  · exact ⟨_, ht, rfl, fun u hu => Tile.zeroWells_named _ f hu, fun u hu => Tile.zeroWells_other _ f hu⟩
  · exact exec_exc rfl h (State.drainBody_outside hfree hnone hoffs)
  · refine (drain_goesOn h hfree hnone hoffs hpc hgood).imp ?_
    rintro t ⟨l, gens, count, ht⟩
    refine ⟨_, l, ht, ?_, fun u hu => Tile.forceWells_closed _ hu⟩
    rw [Tile.forceWells_frame]
    rfl
  · rintro t ⟨honly, hward, hsites, hmem⟩
    have hread (a : Nat) := congrArg (Tab.get (β := Byte) · a) hmem
    exact ⟨honly, hward, hsites, fun a ha => (hread a).trans (get_landCells_out _ a _ _ ha),
      fun o b hcell honce => (hread _).trans (get_landCells_in _ o b _ _ hcell honce)⟩

end Sys2Proof.Machine
end

section
/-! Numbers as the fields that they are placed from: a word of fields is read back, and a word is the sum of its fields. -/

namespace Sys2Proof.Machine
open Sys2Proof

/-- The fields of `v` below bit `top`, cut at the bit numbers given, highest first. -/
def cutAt (v : Nat) : Nat → List Nat → List Nat
  | _, [] => []
  | top, lo :: cuts => field v (top - 1) lo :: cutAt v lo cuts

/-- The sum of fields placed at the bit numbers given. -/
def placeAt : List Nat → List Nat → Nat
  | x :: xs, lo :: cuts => x * 2 ^ lo + placeAt xs cuts
  | _, _ => 0

/-- Each value fits its field: the cuts fall, and the values lie below the widths. -/
def FitAt : Nat → List Nat → List Nat → Prop
  | _, [], [] => True
  | top, x :: xs, lo :: cuts => lo < top ∧ x < 2 ^ (top - lo) ∧ FitAt lo xs cuts
  | _, _, _ => False

theorem placeAt_lt : ∀ {xs cuts : List Nat} {top : Nat}, FitAt top xs cuts → placeAt xs cuts < 2 ^ top
  | [], [], _, _ => Nat.two_pow_pos _
  | x :: xs, lo :: cuts, top, ⟨hlo, hx, hfit⟩ => by
    calc x * 2 ^ lo + placeAt xs cuts < x * 2 ^ lo + 2 ^ lo := by have := placeAt_lt hfit; omega
      _ = (x + 1) * 2 ^ lo := by ring
      _ ≤ 2 ^ (top - lo) * 2 ^ lo := Nat.mul_le_mul_right _ hx
      _ = 2 ^ top := by rw [← pow_add, Nat.sub_add_cancel hlo.le]

/-- A field below bit `k` does not see what stands at `k` and above. -/
theorem field_add_high {a v hi lo k : Nat} (hlo : lo ≤ hi) (hk : hi < k) : field (a * 2 ^ k + v) hi lo = field v hi lo := by
  obtain ⟨d, rfl⟩ : ∃ d, k = lo + ((hi + 1 - lo) + d) := ⟨k - (hi + 1), by omega⟩
  unfold field
  rw [pow_add, pow_add, show a * (2 ^ lo * (2 ^ (hi + 1 - lo) * 2 ^ d)) = 2 ^ lo * (2 ^ (hi + 1 - lo) * (a * 2 ^ d)) by ring,
    Nat.mul_add_div (Nat.two_pow_pos lo), Nat.mul_add_mod]

theorem cutAt_add_high {a v k : Nat} : ∀ {cuts xs : List Nat} {top : Nat}, FitAt top xs cuts → top ≤ k →
    cutAt (a * 2 ^ k + v) top cuts = cutAt v top cuts
  | [], _, _, _, _ => rfl
  | lo :: cuts, [], _, hfit, _ => hfit.elim
  | lo :: cuts, x :: xs, top, ⟨hlo, hx, hfit⟩, hk => by
    rw [cutAt, cutAt, field_add_high (by omega) (by omega), cutAt_add_high hfit (by omega)]

/-- Placed fields are read back. -/
theorem cutAt_placeAt : ∀ {xs cuts : List Nat} {top : Nat}, FitAt top xs cuts → cutAt (placeAt xs cuts) top cuts = xs
  | [], [], _, _ => rfl
  | x :: xs, lo :: cuts, top, ⟨hlo, hx, hfit⟩ => by
    have hlow := placeAt_lt hfit
    have hhigh : field (x * 2 ^ lo + placeAt xs cuts) (top - 1) lo = x := by
      unfold field
      rw [Nat.add_comm, Nat.add_mul_div_right _ _ (Nat.two_pow_pos lo), Nat.div_eq_of_lt hlow, Nat.zero_add,
        show top - 1 + 1 - lo = top - lo by omega, Nat.mod_eq_of_lt hx]
    rw [placeAt, cutAt, hhigh, cutAt_add_high hfit le_rfl, cutAt_placeAt hfit]

/-- Cuts that fall to bit 0. -/
def FallTo0 : Nat → List Nat → Bool
  | top, [] => top == 0
  | top, lo :: cuts => decide (lo < top) && FallTo0 lo cuts

/-- A number is the sum of its fields. -/
theorem placeAt_cutAt (v : Nat) : ∀ {cuts : List Nat} {top : Nat}, FallTo0 top cuts = true → placeAt (cutAt v top cuts) cuts = v % 2 ^ top
  | [], top, h => by
    obtain rfl : top = 0 := by simpa [FallTo0] using h
    simp [cutAt, placeAt, Nat.mod_one]
  | lo :: cuts, top, h => by
    obtain ⟨hlo, hcuts⟩ : lo < top ∧ FallTo0 lo cuts = true := by simpa [FallTo0] using h
    obtain ⟨d, rfl⟩ : ∃ d, top = lo + d := ⟨top - lo, by omega⟩
    rw [cutAt, placeAt, placeAt_cutAt v hcuts, field, show lo + d - 1 + 1 - lo = d by omega, pow_add, Nat.mod_mul, Nat.mul_comm,
      Nat.add_comm]

/-- The word with these fields. -/
theorem cutAt_word {xs cuts : List Nat} (hfit : FitAt 64 xs cuts) : cutAt (BitVec.ofNat 64 (placeAt xs cuts)).toNat 64 cuts = xs := by
  rw [BitVec.toNat_ofNat, Nat.mod_eq_of_lt (placeAt_lt hfit), cutAt_placeAt hfit]

theorem word_of_cuts (w : W64) {cuts : List Nat} (hcuts : FallTo0 64 cuts = true) : BitVec.ofNat 64 (placeAt (cutAt w.toNat 64 cuts) cuts) = w := by
  rw [placeAt_cutAt _ hcuts, Nat.mod_eq_of_lt w.isLt, BitVec.ofNat_toNat, BitVec.setWidth_eq]

/-- A word holds exactly the fields that it is placed from. -/
theorem placed_eq_iff {xs cuts : List Nat} (hfit : FitAt 64 xs cuts) (hcuts : FallTo0 64 cuts = true) (w : W64) :
    BitVec.ofNat 64 (placeAt xs cuts) = w ↔ xs = cutAt w.toNat 64 cuts := by
  constructor
  · rintro rfl
    rw [cutAt_word hfit]
  · rintro rfl
    exact word_of_cuts w hcuts

end Sys2Proof.Machine
end

section
/-! The words of the tile instructions (R125 to R155): what a form's encoder writes its decoder reads, and the other way round. -/

namespace Sys2Proof.Machine
open Sys2Proof

/-! ### Forms -/

theorem need_eq_ok {b : Bool} {i c : Instr} : need b i = .ok c ↔ i = c ∧ b = true := by
  cases b <;> simp [need]

/-- The form of a tile instruction with operands `F`: its opcode, where its fields are cut below the opcode, their values, the extension
word, and how the operands are read back from the fields and the second word. -/
structure TileForm (F : Type) where
  op : Nat
  cuts : List Nat
  put : F → List Nat
  ext : F → W64
  get : List Nat → W64 → F
  ok : F → Bool
  instr : Nat → F → Instr

section
variable {F : Type} (m : TileForm F)

def TileForm.word (f : F) : W64 := BitVec.ofNat 64 (placeAt (m.op :: m.put f) (58 :: m.cuts))

/-- The operands that two words spell in the form. -/
def TileForm.read (w x : W64) : F := m.get (cutAt w.toNat 58 m.cuts) x

/-- The form is that of the model's encoder and decoder, and its fields and its operands say the same. -/
structure TileForm.Faithful : Prop where
  op_lt : m.op < 64
  falls : FallTo0 58 m.cuts = true
  fits : ∀ f, m.ok f = true → FitAt 58 (m.put f) m.cuts
  get_put : ∀ f, m.ok f = true → m.get (m.put f) (m.ext f) = f
  encodes : ∀ t f, encodeTile (m.instr t f) = some (t, m.word f, m.ext f)
  wf_instr : ∀ t f, (m.instr t f).wf = (tileOk t && m.ok f)
  reads : ∀ t w x, wf w 63 58 = m.op → ∃ b, decodeTile t w x = need b (m.instr t (m.read w x)) ∧
    (b = true ↔ m.ok (m.read w x) = true ∧ m.put (m.read w x) = cutAt w.toNat 58 m.cuts ∧ (wordsOf w = 2 → m.ext (m.read w x) = x))

variable {m} (hm : m.Faithful)
include hm

theorem TileForm.Faithful.cutAt_word {f : F} (hok : m.ok f = true) : cutAt (m.word f).toNat 64 (58 :: m.cuts) = m.op :: m.put f :=
  Machine.cutAt_word ⟨by decide, hm.op_lt, hm.fits f hok⟩

theorem TileForm.Faithful.word_read {w x : W64} (hop : wf w 63 58 = m.op) (hput : m.put (m.read w x) = cutAt w.toNat 58 m.cuts) :
    m.word (m.read w x) = w := by
  have hcuts : m.op :: m.put (m.read w x) = cutAt w.toNat 64 (58 :: m.cuts) := by rw [hput, ← hop]; rfl
  rw [TileForm.word, hcuts, word_of_cuts w (by simp [FallTo0, hm.falls])]

/-- The decoder reads back what the encoder writes. -/
theorem TileForm.Faithful.decode_word {f : F} (t : Nat) (hok : m.ok f = true) : decodeTile t (m.word f) (m.ext f) = .ok (m.instr t f) := by
  obtain ⟨hop, hput⟩ := List.cons.inj (hm.cutAt_word hok)
  have hread : m.read (m.word f) (m.ext f) = f := by rw [TileForm.read, hput, hm.get_put f hok]
  obtain ⟨b, hdec, hb⟩ := hm.reads t _ (m.ext f) hop
  rw [hread, hput] at hb
  rw [hdec, hread, need, if_pos (hb.mpr ⟨hok, rfl, fun _ => rfl⟩)]

theorem TileForm.Faithful.round_trip {t t' : Nat} {f : F} {w x : W64} (hwf : (m.instr t' f).wf = true)
    (henc : encodeTile (m.instr t' f) = some (t, w, x)) : decodeTile t w x = .ok (m.instr t' f) := by
  obtain ⟨-, hok⟩ := Bool.and_eq_true_iff.mp ((hm.wf_instr t' f).symm.trans hwf)
  obtain ⟨rfl, rfl, rfl⟩ : t' = t ∧ m.word f = w ∧ m.ext f = x := by simpa [hm.encodes] using henc
  exact hm.decode_word t' hok

/-- The encoder writes back what the decoder reads. -/
theorem TileForm.Faithful.encode_decode {t : Nat} {w x : W64} {c : Instr} (ht : t < 512) (hop : wf w 63 58 = m.op)
    (hdec : decodeTile t w x = .ok c) : c.wf = true ∧ ∃ y, encodeTile c = some (t, w, y) ∧ (wordsOf w = 2 → y = x) := by
  obtain ⟨b, hread, hb⟩ := hm.reads t w x hop
  obtain ⟨rfl, hb'⟩ := need_eq_ok.mp (hread.symm.trans hdec)
  obtain ⟨hok, hput, hext⟩ := hb.mp hb'
  exact ⟨by simp [hm.wf_instr, hok, tileOk, ht], _, by rw [hm.encodes, hm.word_read hop hput], hext⟩

end

/-! ### What the fields of a form say of its operands -/

theorem field_lt (v hi lo : Nat) : field v hi lo < 2 ^ (hi + 1 - lo) := Nat.mod_lt _ (Nat.two_pow_pos _)

@[simp] theorem field_lt_of {v hi lo n : Nat} (h : 2 ^ (hi + 1 - lo) ≤ n) : field v hi lo < n := (field_lt v hi lo).trans_le h

@[simp] theorem field_mod_of {v hi lo n : Nat} (h : 2 ^ (hi + 1 - lo) ≤ n) : field v hi lo % n = field v hi lo :=
  Nat.mod_eq_of_lt (field_lt_of h)

@[simp] theorem field_succ_le {v hi lo n : Nat} (h : 2 ^ (hi + 1 - lo) ≤ n + 1) : field v hi lo ≤ n := Nat.lt_succ_iff.mp (field_lt_of h)

@[simp] theorem toNat_decide_bit (v i : Nat) : (decide (field v i i = 1)).toNat = field v i i := by
  have : field v i i < 2 := field_lt_of (by simp)
  obtain h | h : field v i i = 0 ∨ field v i i = 1 := by omega
  all_goals simp [h]

theorem wbit_eq (w : W64) (i : Nat) : wbit w i = decide (field w.toNat i i = 1) := rfl

theorem flagBit_eq (b : Bool) (k : Nat) : flagBit b k = b.toNat * 2 ^ k := by cases b <;> simp [flagBit]

@[simp] theorem decide_toNat_bool (b : Bool) : decide (b.toNat = 1) = b := by cases b <;> rfl

@[simp] theorem Fmt.bits_lt (f : Fmt) : Fmt.bits f < 4 := by cases f <;> decide
@[simp] theorem Fmt.ofBits_bits (f : Fmt) : Fmt.ofBits (Fmt.bits f) = f := by cases f <;> rfl
@[simp] theorem Fmt.bits_ofBits_field (v lo : Nat) : Fmt.bits (Fmt.ofBits (field v (lo + 1) lo)) = field v (lo + 1) lo := by
  have h : field v (lo + 1) lo < 4 := field_lt_of (by simp [show lo + 1 + 1 - lo = 2 by omega])
  interval_cases field v (lo + 1) lo <;> rfl

/-- The bit of a rounding mode. -/
def Rnd.bit : Rnd → Nat
  | .sr => 1
  | .rne => 0

@[simp] theorem Rnd.bit_le (r : Rnd) : Rnd.bit r ≤ 1 := by cases r <;> decide
@[simp] theorem Rnd.ofBit_bit (r : Rnd) : (if Rnd.bit r = 1 then Rnd.sr else Rnd.rne) = r := by cases r <;> rfl
@[simp] theorem Rnd.bit_ofBit_field (v i : Nat) : Rnd.bit (if field v i i = 1 then .sr else .rne) = field v i i := by
  have : field v i i < 2 := field_lt_of (by simp)
  obtain h | h : field v i i = 0 ∨ field v i i = 1 := by omega
  all_goals simp [h, Rnd.bit]


theorem PassF.word_eq (op : Nat) (f : PassF) : PassF.word op f = tileWord op (f.as * 2 ^ 53 + f.vs * 2 ^ 41 + f.vcnt * 2 ^ 28 + f.wb * 2 ^ 19 +
    (f.wc - 1) * 2 ^ 10 + f.pi * 2 ^ 7 + Rnd.bit f.rnd * 2 ^ 6 + f.wit.toNat * 2 ^ 5 + f.seed * 2 ^ 2) := by
  unfold PassF.word
  rw [flagBit_eq]
  cases f.rnd <;> rfl

@[simp] theorem ofNat_field_eq_zero {v hi lo n : Nat} (h : hi + 1 - lo ≤ n) : BitVec.ofNat n (field v hi lo) = 0#n ↔ field v hi lo = 0 := by
  rw [← BitVec.toNat_inj, BitVec.toNat_ofNat, field_mod_of (Nat.pow_le_pow_right (by decide) h), BitVec.toNat_ofNat, Nat.zero_mod]


/-- LATCH (R127). -/
def latchForm : TileForm LatchF where
  op := 0x01
  cuts := [53, 41, 39, 38, 37, 36, 28, 20, 0]
  put f := [f.as, f.vs, Fmt.bits f.fmt, f.blk.toNat, f.trd.toNat, f.half.toNat, f.rows - 1, f.cols - 1, 0]
  ext _ := 0
  get
    | [as, vs, fmt, blk, trd, half, rows, cols, _], _ => { as := as, vs := vs, fmt := Fmt.ofBits fmt, blk := blk = 1, trd := trd = 1, half := half = 1, rows := rows + 1, cols := cols + 1 }
    | _, _ => default
  ok := LatchF.ok
  instr := .latch

theorem latchForm_faithful : latchForm.Faithful where
  op_lt := by decide
  falls := by decide
  fits f h := by
    simp [latchForm, LatchF.ok, aregOk, viewOk] at h
    simp [latchForm, FitAt, Bool.toNat_le]
    omega
  get_put f h := by
    cases f
    simp [latchForm, LatchF.ok, aregOk, viewOk] at h ⊢
    omega
  encodes t f := by
    simp [latchForm, TileForm.word, encodeTile, LatchF.word, tileWord, placeAt, flagBit_eq, Nat.add_assoc]
  wf_instr t f := rfl
  reads t w x hop := by
    refine ⟨_, by unfold decodeTile; rw [hop]; rfl, ?_⟩
    simp [wordsOf, hop, latchForm, TileForm.read, cutAt, LatchF.ok, aregOk, viewOk, wbit_eq]
    simp [wf]
    grind

/-- PASS and, where `turned`, PASST (R130). -/
def passForm (turned : Bool) : TileForm PassF where
  op := if turned then 0x04 else 0x03
  cuts := [53, 41, 28, 19, 10, 7, 6, 5, 2, 0]
  put f := [f.as, f.vs, f.vcnt, f.wb, f.wc - 1, f.pi, Rnd.bit f.rnd, f.wit.toNat, f.seed, 0]
  ext _ := 0
  get
    | [as, vs, vcnt, wb, wc, pi, rnd, wit, seed, _], _ =>
      { as := as, vs := vs, vcnt := vcnt, wb := wb, wc := wc + 1, pi := pi, rnd := if decide (rnd = 1) then .sr else .rne, wit := wit = 1, seed := seed }
    | _, _ => default
  ok := PassF.ok
  instr := if turned then .passt else .pass

theorem passForm_faithful (turned : Bool) : (passForm turned).Faithful where
  op_lt := by cases turned <;> decide
  falls := rfl
  fits f h := by
    simp [passForm, PassF.ok, aregOk, viewOk, wellOk, wcOk] at h
    simp [passForm, FitAt, Bool.toNat_le]
    omega
  get_put f h := by
    cases f
    simp [passForm, PassF.ok, wcOk] at h ⊢
    omega
  encodes t f := by
    cases turned <;> simp [passForm, TileForm.word, encodeTile, PassF.word_eq, tileWord, placeAt, Nat.add_assoc]
  wf_instr t f := by cases turned <;> rfl
  reads t w x hop := by
    refine ⟨_, by cases turned <;> (unfold decodeTile; rw [hop]; rfl), ?_⟩
    have hone : wordsOf w ≠ 2 := by cases turned <;> simp [wordsOf, hop, passForm]
    simp [hone, passForm, TileForm.read, cutAt, PassF.ok, aregOk, viewOk, wellOk, wcOk]
    simp [wf]
    have := field_lt w.toNat 9 7
    grind

/-- WZERO (R132). -/
def wzeroForm : TileForm WzeroF where
  op := 0x05
  cuts := [49, 40, 0]
  put f := [f.wb, f.wc - 1, 0]
  ext _ := 0
  get
    | [wb, wc, _], _ => { wb := wb, wc := wc + 1 }
    | _, _ => default
  ok := WzeroF.ok
  instr := .wzero

theorem wzeroForm_faithful : wzeroForm.Faithful where
  op_lt := by decide
  falls := by decide
  fits f h := by
    simp [wzeroForm, WzeroF.ok, wellOk, wcOk] at h
    simp [wzeroForm, FitAt]
    omega
  get_put f h := by
    cases f
    simp [wzeroForm, WzeroF.ok, wellOk, wcOk] at h ⊢
    omega
  encodes t f := by
    simp [wzeroForm, TileForm.word, encodeTile, WzeroF.word, tileWord, placeAt]
  wf_instr t f := rfl
  reads t w x hop := by
    refine ⟨_, by unfold decodeTile; rw [hop]; rfl, ?_⟩
    simp [wordsOf, hop, wzeroForm, TileForm.read, cutAt, WzeroF.ok, wellOk, wcOk]
    simp [wf]
    grind

/-- CHAIN (R137). -/
def chainForm : TileForm ChainF where
  op := 0x07
  cuts := [53, 40, 0]
  put f := [f.ad, f.rows - 1, 0]
  ext _ := 0
  get
    | [ad, rows, _], _ => { ad := ad, rows := rows + 1 }
    | _, _ => default
  ok := ChainF.ok
  instr := .chain

theorem chainForm_faithful : chainForm.Faithful where
  op_lt := by decide
  falls := by decide
  fits f h := by
    simp [chainForm, ChainF.ok, aregOk] at h
    simp [chainForm, FitAt]
    omega
  get_put f h := by
    cases f
    simp [chainForm, ChainF.ok, aregOk] at h ⊢
    omega
  encodes t f := by
    simp [chainForm, TileForm.word, encodeTile, ChainF.word, tileWord, placeAt]
  wf_instr t f := rfl
  reads t w x hop := by
    refine ⟨_, by unfold decodeTile; rw [hop]; rfl, ?_⟩
    simp [wordsOf, hop, chainForm, TileForm.read, cutAt, ChainF.ok, aregOk]
    simp [wf]
    grind

/-- KICK (R138). -/
def kickForm : TileForm KickF where
  op := 0x08
  cuts := [53, 52, 47, 46, 43, 27, 0]
  put f := [f.ad, f.hp.toNat, f.ch, f.ks.toNat, f.ki, f.cnt, 0]
  ext _ := 0
  get
    | [ad, hp, ch, ks, ki, cnt, _], _ => { ad := ad, hp := hp = 1, ch := ch, ks := ks = 1, ki := ki, cnt := cnt }
    | _, _ => default
  ok := KickF.ok
  instr := .kick

theorem kickForm_faithful : kickForm.Faithful where
  op_lt := by decide
  falls := by decide
  fits f h := by
    simp [kickForm, KickF.ok, aregOk] at h
    simp [kickForm, FitAt, Bool.toNat_le]
    grind
  get_put f h := by
    cases f
    simp [kickForm, KickF.ok, aregOk] at h ⊢
  encodes t f := by
    simp [kickForm, TileForm.word, encodeTile, KickF.word, tileWord, placeAt, flagBit_eq, Nat.add_assoc]
  wf_instr t f := rfl
  reads t w x hop := by
    refine ⟨_, by unfold decodeTile; rw [hop]; rfl, ?_⟩
    simp [wordsOf, hop, kickForm, TileForm.read, cutAt, KickF.ok, aregOk, wbit_eq]
    simp [wf]
    have := field_lt w.toNat 51 47
    grind

/-- TAG (R140). -/
def tagForm : TileForm TagF where
  op := 0x14
  cuts := [53, 21, 0]
  put f := [f.ac, f.bmask.toNat, 0]
  ext _ := 0
  get
    | [ac, bmask, _], _ => { ac := ac, bmask := BitVec.ofNat 32 bmask }
    | _, _ => default
  ok := TagF.ok
  instr := .tag

theorem tagForm_faithful : tagForm.Faithful where
  op_lt := by decide
  falls := by decide
  fits f h := by
    simp [tagForm, TagF.ok, aregOk] at h
    simp [tagForm, FitAt]
    omega
  get_put f h := by
    cases f
    simp [tagForm, TagF.ok, aregOk] at h ⊢
  encodes t f := by
    simp [tagForm, TileForm.word, encodeTile, TagF.word, tileWord, placeAt]
  wf_instr t f := rfl
  reads t w x hop := by
    refine ⟨_, by unfold decodeTile; rw [hop]; rfl, ?_⟩
    simp [wordsOf, hop, tagForm, TileForm.read, cutAt, TagF.ok, aregOk]
    simp [wf]
    grind

/-- STAT (R143). -/
def statForm : TileForm StatF where
  op := 0x15
  cuts := [53, 43, 37, 36, 0]
  put f := [f.ad, f.site, f.ns - 1, f.clr.toNat, 0]
  ext _ := 0
  get
    | [ad, site, ns, clr, _], _ => { ad := ad, site := site, ns := ns + 1, clr := clr = 1 }
    | _, _ => default
  ok := StatF.ok
  instr := .stat

theorem statForm_faithful : statForm.Faithful where
  op_lt := by decide
  falls := by decide
  fits f h := by
    simp [statForm, StatF.ok, aregOk] at h
    simp [statForm, FitAt, Bool.toNat_le]
    omega
  get_put f h := by
    cases f
    simp [statForm, StatF.ok, aregOk] at h ⊢
    omega
  encodes t f := by
    simp [statForm, TileForm.word, encodeTile, StatF.word, tileWord, placeAt, flagBit_eq, Nat.add_assoc]
  wf_instr t f := rfl
  reads t w x hop := by
    refine ⟨_, by unfold decodeTile; rw [hop]; rfl, ?_⟩
    simp [wordsOf, hop, statForm, TileForm.read, cutAt, StatF.ok, aregOk]
    simp [wf]
    grind

/-- SIG (R147). -/
def sigForm : TileForm SigF where
  op := 0x0B
  cuts := [49, 33, 0]
  put f := [f.tgt, f.fmask.toNat, 0]
  ext _ := 0
  get
    | [tgt, fmask, _], _ => { tgt := tgt, fmask := BitVec.ofNat 16 fmask }
    | _, _ => default
  ok := SigF.ok
  instr := .sig

theorem sigForm_faithful : sigForm.Faithful where
  op_lt := by decide
  falls := by decide
  fits f h := by
    simp [sigForm, SigF.ok] at h
    simp [sigForm, FitAt]
    omega
  get_put f h := by
    cases f
    simp [sigForm, SigF.ok] at h ⊢
  encodes t f := by
    simp [sigForm, TileForm.word, encodeTile, SigF.word, tileWord, placeAt]
  wf_instr t f := rfl
  reads t w x hop := by
    refine ⟨_, by unfold decodeTile; rw [hop]; rfl, ?_⟩
    simp [wordsOf, hop, sigForm, TileForm.read, cutAt, SigF.ok]
    simp [wf]
    grind

/-- WAITF (R148). -/
def waitfForm : TileForm WaitfF where
  op := 0x0C
  cuts := [42, 41, 40, 0]
  put f := [f.fmask.toNat, f.any.toNat, f.clr.toNat, 0]
  ext _ := 0
  get
    | [fmask, any, clr, _], _ => { fmask := BitVec.ofNat 16 fmask, any := any = 1, clr := clr = 1 }
    | _, _ => default
  ok := WaitfF.ok
  instr := .waitf

theorem waitfForm_faithful : waitfForm.Faithful where
  op_lt := by decide
  falls := by decide
  fits f h := by
    simp [waitfForm, WaitfF.ok] at h
    simp [waitfForm, FitAt, Bool.toNat_le]
    omega
  get_put f h := by
    cases f
    simp [waitfForm, WaitfF.ok] at h ⊢
  encodes t f := by
    simp [waitfForm, TileForm.word, encodeTile, WaitfF.word, tileWord, placeAt, flagBit_eq, Nat.add_assoc]
  wf_instr t f := rfl
  reads t w x hop := by
    refine ⟨_, by unfold decodeTile; rw [hop]; rfl, ?_⟩
    simp [wordsOf, hop, waitfForm, TileForm.read, cutAt, WaitfF.ok]
    simp [wf]
    grind

/-- LOOP (R149). -/
def loopForm : TileForm LoopF where
  op := 0x0D
  cuts := [55, 54, 30, 17, 0]
  put f := [f.k, f.src.toNat, f.count, f.fin, 0]
  ext _ := 0
  get
    | [k, src, count, fin, _], _ => { k := k, src := src = 1, count := count, fin := fin }
    | _, _ => default
  ok := LoopF.ok
  instr := .loop

theorem loopForm_faithful : loopForm.Faithful where
  op_lt := by decide
  falls := by decide
  fits f h := by
    simp [loopForm, LoopF.ok, kregOk, pcOk] at h
    simp [loopForm, FitAt, Bool.toNat_le]
    omega
  get_put f h := by
    cases f
    simp [loopForm, LoopF.ok, kregOk, pcOk] at h ⊢
  encodes t f := by
    simp [loopForm, TileForm.word, encodeTile, LoopF.word, tileWord, placeAt, flagBit_eq, Nat.add_assoc]
  wf_instr t f := rfl
  reads t w x hop := by
    refine ⟨_, by unfold decodeTile; rw [hop]; rfl, ?_⟩
    simp [wordsOf, hop, loopForm, TileForm.read, cutAt, LoopF.ok, kregOk, pcOk, wbit_eq]
    simp [wf]
    grind

/-- JMP (R151). -/
def jmpForm : TileForm JmpF where
  op := 0x0F
  cuts := [55, 52, 49, 36, 20, 0]
  put f := [f.cond, f.k, f.pop, f.target, f.fmask.toNat, 0]
  ext _ := 0
  get
    | [cond, k, pop, target, fmask, _], _ => { cond := cond, k := k, pop := pop, target := target, fmask := BitVec.ofNat 16 fmask }
    | _, _ => default
  ok := JmpF.ok
  instr := .jmp

theorem jmpForm_faithful : jmpForm.Faithful where
  op_lt := by decide
  falls := by decide
  fits f h := by
    simp [jmpForm, JmpF.ok, kregOk, pcOk] at h
    simp [jmpForm, FitAt]
    omega
  get_put f h := by
    cases f
    simp [jmpForm, JmpF.ok, kregOk, pcOk] at h ⊢
  encodes t f := by
    simp [jmpForm, TileForm.word, encodeTile, JmpF.word, tileWord, placeAt, Nat.add_assoc]
  wf_instr t f := rfl
  reads t w x hop := by
    refine ⟨_, by unfold decodeTile; rw [hop]; rfl, ?_⟩
    simp [wordsOf, hop, jmpForm, TileForm.read, cutAt, JmpF.ok, kregOk, pcOk]
    simp [wf]
    grind

/-- ADDA (R154). -/
def addaForm : TileForm AddaF where
  op := 0x12
  cuts := [53, 51, 46, 41, 38, 22, 0]
  put f := [f.ad, f.mode, f.as, f.at', f.k, f.imm.toNat, 0]
  ext _ := 0
  get
    | [ad, mode, as, at', k, imm, _], _ => { ad := ad, mode := mode, as := as, at' := at', k := k, imm := BitVec.ofNat 16 imm }
    | _, _ => default
  ok := AddaF.ok
  instr := .adda

theorem addaForm_faithful : addaForm.Faithful where
  op_lt := by decide
  falls := by decide
  fits f h := by
    simp [addaForm, AddaF.ok, aregOk, kregOk] at h
    simp [addaForm, FitAt]
    omega
  get_put f h := by
    cases f
    simp [addaForm, AddaF.ok, aregOk, kregOk] at h ⊢
  encodes t f := by
    simp [addaForm, TileForm.word, encodeTile, AddaF.word, tileWord, placeAt, Nat.add_assoc]
  wf_instr t f := rfl
  reads t w x hop := by
    refine ⟨_, by unfold decodeTile; rw [hop]; rfl, ?_⟩
    simp [wordsOf, hop, addaForm, TileForm.read, cutAt, AddaF.ok, aregOk, kregOk]
    simp [wf]
    have := field_lt w.toNat 52 51
    grind

/-- SETK (R155). -/
def setkForm : TileForm SetkF where
  op := 0x13
  cuts := [55, 53, 50, 45, 21, 0]
  put f := [f.kd, f.mode, f.ks, f.as, f.imm.toNat, 0]
  ext _ := 0
  get
    | [kd, mode, ks, as, imm, _], _ => { kd := kd, mode := mode, ks := ks, as := as, imm := BitVec.ofNat 24 imm }
    | _, _ => default
  ok := SetkF.ok
  instr := .setk

theorem setkForm_faithful : setkForm.Faithful where
  op_lt := by decide
  falls := by decide
  fits f h := by
    simp [setkForm, SetkF.ok, aregOk, kregOk] at h
    simp [setkForm, FitAt]
    omega
  get_put f h := by
    cases f
    simp [setkForm, SetkF.ok, aregOk, kregOk] at h ⊢
  encodes t f := by
    simp [setkForm, TileForm.word, encodeTile, SetkF.word, tileWord, placeAt, Nat.add_assoc]
  wf_instr t f := rfl
  reads t w x hop := by
    refine ⟨_, by unfold decodeTile; rw [hop]; rfl, ?_⟩
    simp [wordsOf, hop, setkForm, TileForm.read, cutAt, SetkF.ok, aregOk, kregOk]
    simp [wf]
    grind

/-- FENCE (R146), with its class mask. -/
def fenceForm : TileForm Byte where
  op := 0x0A
  cuts := [50, 0]
  put f := [f.toNat, 0]
  ext _ := 0
  get
    | [cls, _], _ => BitVec.ofNat 8 cls
    | _, _ => default
  ok cls := cls != 0
  instr := .fence

theorem fenceForm_faithful : fenceForm.Faithful where
  op_lt := by decide
  falls := by decide
  fits f h := by
    simp [fenceForm] at h
    simp [fenceForm, FitAt]
    exact f.isLt
  get_put f h := by
    cases f
    simp [fenceForm] at h ⊢
  encodes t f := by
    simp [fenceForm, TileForm.word, encodeTile, tileWord, placeAt]
  wf_instr t f := rfl
  reads t w x hop := by
    refine ⟨_, by unfold decodeTile; rw [hop]; rfl, ?_⟩
    simp [wordsOf, hop, fenceForm, TileForm.read, cutAt]
    simp [wf]
    grind

/-- An instruction without operands: SWAP (R129), BEAT (R145), ENDL (R150) and HALT (R152). -/
def bareForm (op : Nat) (c : Nat → Instr) : TileForm Unit where
  op := op
  cuts := [0]
  put _ := [0]
  ext _ := 0
  get _ _ := ()
  ok _ := true
  instr t _ := c t

theorem bareForm_faithful {op : Nat} {c : Nat → Instr} (hop : op < 64 ∧ op ≠ 0x06 ∧ op ≠ 0x11)
    (henc : ∀ t, encodeTile (c t) = some (t, tileWord op 0, 0)) (hwf : ∀ t, (c t).wf = tileOk t)
    (hdec : ∀ t w x, wf w 63 58 = op → decodeTile t w x = need (wf w 57 0 = 0) (c t)) : (bareForm op c).Faithful where
  op_lt := hop.1
  falls := rfl
  fits _ _ := by simp [bareForm, FitAt]
  get_put _ _ := rfl
  encodes t _ := by simp [bareForm, TileForm.word, henc, tileWord, placeAt]
  wf_instr t _ := by simp [bareForm, hwf]
  reads t w x h := by
    refine ⟨_, hdec t w x h, ?_⟩
    have hone : wordsOf w ≠ 2 := by simp [wordsOf, show wf w 63 58 = op from h, hop]
    simp [hone, bareForm, TileForm.read, cutAt]
    exact eq_comm

theorem swapForm_faithful : (bareForm 0x02 .swap).Faithful :=
  bareForm_faithful (by decide) (fun _ => rfl) (fun _ => rfl) fun t w x h => by unfold decodeTile; rw [h]; rfl
theorem beatForm_faithful : (bareForm 0x09 .beat).Faithful :=
  bareForm_faithful (by decide) (fun _ => rfl) (fun _ => rfl) fun t w x h => by unfold decodeTile; rw [h]; rfl
theorem endlForm_faithful : (bareForm 0x0E .endl).Faithful :=
  bareForm_faithful (by decide) (fun _ => rfl) (fun _ => rfl) fun t w x h => by unfold decodeTile; rw [h]; rfl
theorem haltForm_faithful : (bareForm 0x10 .halt).Faithful :=
  bareForm_faithful (by decide) (fun _ => rfl) (fun _ => rfl) fun t w x h => by unfold decodeTile; rw [h]; rfl

/-- SETA (R153): in mode 00 the second word gives the value. -/
def setaForm : TileForm SetaF where
  op := 0x11
  cuts := [53, 51, 46, 30, 0]
  put f := [f.ad, f.mode, f.as, f.imm.toNat, 0]
  ext f := f.ext.zeroExtend 64
  get
    | [ad, mode, as, imm, _], x =>
      { ad := ad, mode := mode, as := as, imm := BitVec.ofNat 16 imm, ext := if mode = 0 then BitVec.ofNat 48 (field x.toNat 47 0) else 0 }
    | _, _ => default
  ok := SetaF.ok
  instr := .seta

theorem ofNat_field_zeroExtend (v : Addr) : BitVec.ofNat 48 (field (v.zeroExtend 64).toNat 47 0) = v := by
  apply BitVec.eq_of_toNat_eq
  exact (Nat.mod_eq_of_lt (by simp)).trans (by simp [field, Nat.mod_eq_of_lt v.isLt])

theorem ofNat_field_eq (x : W64) : BitVec.ofNat 64 (field x.toNat 47 0) = x ↔ field x.toNat 63 48 = 0 := by
  rw [← BitVec.toNat_inj]
  have := x.isLt
  simp [field]
  omega

theorem setaForm_faithful : setaForm.Faithful where
  op_lt := by decide
  falls := by decide
  fits f h := by
    simp [setaForm, SetaF.ok, aregOk] at h
    simp [setaForm, FitAt]
    omega
  get_put f h := by
    cases f
    simp [setaForm, SetaF.ok, aregOk] at h
    simp only [setaForm, ofNat_field_zeroExtend, BitVec.ofNat_toNat, BitVec.setWidth_eq]
    grind
  encodes t f := by
    simp [setaForm, TileForm.word, encodeTile, SetaF.word, tileWord, placeAt, Nat.add_assoc]
  wf_instr t f := rfl
  reads t w x hop := by
    refine ⟨_, by unfold decodeTile; rw [hop]; rfl, ?_⟩
    simp [wordsOf, hop, setaForm, TileForm.read, cutAt, SetaF.ok, aregOk]
    simp [wf]
    have := field_lt w.toNat 52 51
    by_cases hmode : field w.toNat 52 51 = 0
    · simp [hmode, ofNat_field_eq]
      grind
    · simp [hmode]
      grind

/-- Where the fields of a DRAIN's second word are cut (R133). -/
def drainExtCuts : List Nat := [63, 62, 57, 45, 40, 0]

def drainExtFields (f : DrainF) : List Nat := [f.aie.toNat, f.afmt.toNat, f.aa, f.va, f.sa, 0]

/-- The operands of a DRAIN from the fields of its two words. -/
def drainOf : List Nat → List Nat → DrainF
  | [wb, wc, ofmt, half, ad, vd, _, cw], [aie, afmt, aa, va, sa, _] =>
    { wb := wb, wc := wc + 1, ofmt := ofmt, half := half = 1, ad := ad, vd := vd, cw := BitVec.ofNat 16 cw,
      aie := aie = 1, afmt := afmt = 1, aa := aa, va := va, sa := sa }
  | _, _ => default

/-- DRAIN (R133): the second word gives the add-in rows and the supplied exponents. -/
def drainForm : TileForm DrainF where
  op := 0x06
  cuts := [49, 40, 38, 37, 32, 20, 16, 0]
  put f := [f.wb, f.wc - 1, f.ofmt, f.half.toNat, f.ad, f.vd, 0, f.cw.toNat]
  ext f := BitVec.ofNat 64 (placeAt (drainExtFields f) drainExtCuts)
  get xs x := drainOf xs (cutAt x.toNat 64 drainExtCuts)
  ok := DrainF.ok
  instr := .drain

theorem drainExt_fits {f : DrainF} (h : f.ok = true) : FitAt 64 (drainExtFields f) drainExtCuts := by
  simp [DrainF.ok, aregOk, viewOk] at h
  simp [drainExtFields, drainExtCuts, FitAt, Bool.toNat_le]
  omega

theorem drainForm_faithful : drainForm.Faithful where
  op_lt := by decide
  falls := by decide
  fits f h := by
    simp [drainForm, DrainF.ok, aregOk, viewOk, wellOk, wcOk] at h
    have := f.cw.isLt
    simp [drainForm, FitAt, Bool.toNat_le]
    omega
  get_put f h := by
    have hext : drainForm.get (drainForm.put f) (drainForm.ext f) = drainOf (drainForm.put f) (drainExtFields f) :=
      congrArg (drainOf (drainForm.put f)) (cutAt_word (drainExt_fits h))
    rw [hext]
    cases f
    simp [drainForm, DrainF.ok, wcOk] at h
    simp [drainForm, drainExtFields, drainOf]
    omega
  encodes t f := by
    simp [drainForm, TileForm.word, encodeTile, DrainF.word, DrainF.ext, drainExtFields, drainExtCuts, tileWord, placeAt, flagBit_eq, Nat.add_assoc]
  wf_instr t f := rfl
  reads t w x hop := by
    refine ⟨_, by unfold decodeTile; rw [hop]; rfl, ?_⟩
    have htwo : wordsOf w = 2 := by simp [wordsOf, show wf w 63 58 = 6 from hop]
    have hext : drainForm.ext (drainForm.read w x) = x ↔ field x.toNat 39 0 = 0 := by
      refine (placed_eq_iff ?_ rfl x).trans ?_
      · simp [drainForm, TileForm.read, cutAt, drainOf, drainExtFields, drainExtCuts, FitAt]
      · simp [drainForm, TileForm.read, cutAt, drainOf, drainExtFields, drainExtCuts, eq_comm (a := 0)]
    rw [hext]
    simp [htwo, drainForm, TileForm.read, cutAt, drainOf, drainExtCuts, DrainF.ok, aregOk, viewOk, wellOk, wcOk, wbit_eq]
    simp [wf]
    have := field_lt w.toNat 39 38
    grind

/-! ### The two directions (R125, R126) -/

/-- The opcodes that the table calls illegal are refused with ILL_OPCODE. -/
theorem decodeTile_illegal {t : Nat} {w x : W64} (h : wf w 63 58 = 0 ∨ 0x16 ≤ wf w 63 58) : decodeTile t w x = .error 0x01 := by
  have hpass : ¬ (wf w 63 58 = 0x03 ∨ wf w 63 58 = 0x04) := by omega
  unfold decodeTile
  split
  case h_20 => exact if_neg hpass
  all_goals omega

/-- Settles O6: each of the 21 instructions has a form that the encoder writes and the decoder reads. -/
theorem tileInstructionsRoundTrip : Obligations.TileInstructionsRoundTrip := by
  intro c t w x hwf henc
  cases c with
  | latch => exact latchForm_faithful.round_trip hwf henc
  | swap => exact swapForm_faithful.round_trip (f := ()) hwf henc
  | pass => exact (passForm_faithful false).round_trip hwf henc
  | passt => exact (passForm_faithful true).round_trip hwf henc
  | wzero => exact wzeroForm_faithful.round_trip hwf henc
  | drain => exact drainForm_faithful.round_trip hwf henc
  | chain => exact chainForm_faithful.round_trip hwf henc
  | kick => exact kickForm_faithful.round_trip hwf henc
  | tag => exact tagForm_faithful.round_trip hwf henc
  | stat => exact statForm_faithful.round_trip hwf henc
  | beat => exact beatForm_faithful.round_trip (f := ()) hwf henc
  | fence => exact fenceForm_faithful.round_trip hwf henc
  | sig => exact sigForm_faithful.round_trip hwf henc
  | waitf => exact waitfForm_faithful.round_trip hwf henc
  | loop => exact loopForm_faithful.round_trip hwf henc
  | endl => exact endlForm_faithful.round_trip (f := ()) hwf henc
  | jmp => exact jmpForm_faithful.round_trip hwf henc
  | halt => exact haltForm_faithful.round_trip (f := ()) hwf henc
  | seta => exact setaForm_faithful.round_trip hwf henc
  | adda => exact addaForm_faithful.round_trip hwf henc
  | setk => exact setkForm_faithful.round_trip hwf henc
  | _ => exact nomatch henc

/-- Settles O7: by the form of each opcode; what is read in a form is well formed and is written back as it was. -/
theorem tileWordsHaveOneMeaning : Obligations.TileWordsHaveOneMeaning := by
  intro t w x ht
  refine ⟨fun c hdec => ?_, decodeTile_illegal⟩
  by_cases hill : wf w 63 58 = 0 ∨ 0x16 ≤ wf w 63 58
  · exact nomatch (decodeTile_illegal hill).symm.trans hdec
  obtain hop | hop | hop | hop | hop | hop | hop | hop | hop | hop | hop | hop | hop | hop | hop | hop | hop | hop | hop | hop | hop : wf w 63 58 = 0x01 ∨ wf w 63 58 = 0x02 ∨ wf w 63 58 = 0x03 ∨ wf w 63 58 = 0x04 ∨ wf w 63 58 = 0x05 ∨ wf w 63 58 = 0x06 ∨
      wf w 63 58 = 0x07 ∨ wf w 63 58 = 0x08 ∨ wf w 63 58 = 0x09 ∨ wf w 63 58 = 0x0A ∨ wf w 63 58 = 0x0B ∨ wf w 63 58 = 0x0C ∨
      wf w 63 58 = 0x0D ∨ wf w 63 58 = 0x0E ∨ wf w 63 58 = 0x0F ∨ wf w 63 58 = 0x10 ∨ wf w 63 58 = 0x11 ∨ wf w 63 58 = 0x12 ∨
      wf w 63 58 = 0x13 ∨ wf w 63 58 = 0x14 ∨ wf w 63 58 = 0x15 := by
    omega
  · exact latchForm_faithful.encode_decode ht hop hdec
  · exact swapForm_faithful.encode_decode ht hop hdec
  · exact (passForm_faithful false).encode_decode ht hop hdec
  · exact (passForm_faithful true).encode_decode ht hop hdec
  · exact wzeroForm_faithful.encode_decode ht hop hdec
  · exact drainForm_faithful.encode_decode ht hop hdec
  · exact chainForm_faithful.encode_decode ht hop hdec
  · exact kickForm_faithful.encode_decode ht hop hdec
  · exact beatForm_faithful.encode_decode ht hop hdec
  · exact fenceForm_faithful.encode_decode ht hop hdec
  · exact sigForm_faithful.encode_decode ht hop hdec
  · exact waitfForm_faithful.encode_decode ht hop hdec
  · exact loopForm_faithful.encode_decode ht hop hdec
  · exact endlForm_faithful.encode_decode ht hop hdec
  · exact jmpForm_faithful.encode_decode ht hop hdec
  · exact haltForm_faithful.encode_decode ht hop hdec
  · exact setaForm_faithful.encode_decode ht hop hdec
  · exact addaForm_faithful.encode_decode ht hop hdec
  · exact setkForm_faithful.encode_decode ht hop hdec
  · exact tagForm_faithful.encode_decode ht hop hdec
  · exact statForm_faithful.encode_decode ht hop hdec

end Sys2Proof.Machine
end

section
/-! SETA, ADDA and SETK (R153 to R155): the one register that each writes. -/

namespace Sys2Proof.Machine
open Sys2Proof

/-! ### Registers (R117) -/

theorem Tile.areg_setA (x : Tile) (n m : Nat) (v : Addr) : (x.setA n v).areg m = if m = n ∧ n ≠ 0 then v else x.areg m := by
  unfold Tile.setA Tile.areg
  by_cases hn : n = 0
  · simp [hn]
  · by_cases hm : m = n
    · simp [hm, hn]
    · simp [hm, hn]

theorem Tile.kreg_setK (x : Tile) (n m : Nat) (v : BitVec 24) : (x.setK n v).kreg m = if m = n then v else x.kreg m :=
  Tab.get_set x.k n m v

@[simp] theorem Tile.setA_codeEnd (x : Tile) (n : Nat) (v : Addr) : (x.setA n v).codeEnd = x.codeEnd := by
  unfold Tile.setA
  split <;> rfl

@[simp] theorem Tile.setK_codeEnd (x : Tile) (n : Nat) (v : BitVec 24) : (x.setK n v).codeEnd = x.codeEnd := rfl

/-! ### Instructions that go on within the code -/

/-- An instruction that changes its own tile alone and goes on at a word of its own. -/
theorem answers_jumps {s : State} {i w : Nat} {c : Instr} {body : Nat → Issue} (he : exec c s = .next (s.issue i c body))
    (h : s.fetches i c w) {f : Tile → Tile} {pc : Nat} (hb : body w = .jump (s.modTile i f) pc) (hpc : pc < (f (s.tile i)).codeEnd) :
    Answers c s fun t => Issued s t i c (f (s.tile i)) pc :=
  ⟨_, he, State.issue_only s i w c body f _ h (.inr hb) hpc⟩

theorem rangeBad_inside {off n : Nat} (h : off + n ≤ storeBytes) : rangeBad off n = none := if_pos h
theorem rangeBad_outside {off n : Nat} (h : storeBytes < off + n) : rangeBad off n = some (max off storeBytes) := if_neg (by omega)

/-- What a load from word `off` of the tile's own store answers (R153, R155): VIEW_RANGE where `bad` names an offset, a stall while the
bank is cleared, else `g` with the word. -/
def State.loadBody (s : State) (i : Nat) (bad : Option Nat) (off : Nat) (g : Nat → Tile → Tile) : Issue :=
  match bad with
  | some o => .exc 0x10 (sat32 o)
  | none => if (s.tile i).anyClearing [off / 65536] then .stall else .go (s.modTile i (g (s.storeWord i off)))

section
variable {s : State} {i w : Nat} {c : Instr} {body : Nat → Issue} {bad : Option Nat} {off : Nat} {g : Nat → Tile → Tile}
  (he : exec c s = .next (s.issue i c body)) (h : s.fetches i c w) (hb : body w = s.loadBody i bad off g)
include he h hb

theorem load_outside {o : Nat} (hbad : bad = some o) : ∃ d, exec c s = .next (s.takeExc w i 0x10 d) :=
  ⟨sat32 o, exec_exc he h (by rw [hb, hbad]; rfl)⟩

theorem load_clearing (hbad : bad = none) (hclear : (s.tile i).anyClearing [off / 65536] = true) : Answers c s fun t => Stalls s t i :=
  answers_stalls he h (by rw [hb, hbad]; exact if_pos hclear)

theorem load_inside (hbad : bad = none) (hclear : (s.tile i).anyClearing [off / 65536] = false)
    (hpc : s.nextPc i < (g (s.storeWord i off) (s.tile i)).codeEnd) :
    Answers c s fun t => Issued s t i c (g (s.storeWord i off) (s.tile i)) (s.nextPc i) :=
  answers_issued he h (by rw [hb, hbad]; exact if_neg (by simp [hclear])) hpc

end

theorem baseBad_inside {base off n : Nat} (hbase : base < storeBytes) (h : off + n ≤ storeBytes) : baseBad base (rangeBad off n) = none := by
  rw [rangeBad_inside h]
  exact if_neg (by omega)

theorem baseBad_outside {base off n : Nat} (h : storeBytes ≤ base ∨ storeBytes < off + n) : ∃ o, baseBad base (rangeBad off n) = some o := by
  unfold baseBad
  split
  · exact ⟨_, rfl⟩
  · exact ⟨_, rangeBad_outside (by omega)⟩

/-- The byte offset that a SETA of mode 10 loads from (R153). -/
def setaOff (x : Tile) (f : SetaF) : Nat := (x.areg f.as + 8 * f.imm.signExtend 48).toNat / 8 * 8

/-- The value of ADDA (R154). -/
def addaValue (x : Tile) (f : AddaF) : Addr :=
  match f.mode with
  | 0 => x.areg f.as + x.areg f.at'
  | 1 => x.areg f.as - x.areg f.at'
  | _ => x.areg f.as + (x.kreg f.k).zeroExtend 48 * f.imm.signExtend 48

theorem addaValue_eq {x : Tile} {f : AddaF} {v : Addr} (h : f.mode = 0 ∧ v = x.areg f.as + x.areg f.at' ∨
    f.mode = 1 ∧ v = x.areg f.as - x.areg f.at' ∨ f.mode = 2 ∧ v = x.areg f.as + (x.kreg f.k).zeroExtend 48 * f.imm.signExtend 48) :
    addaValue x f = v := by
  obtain ⟨hmode, rfl⟩ | ⟨hmode, rfl⟩ | ⟨hmode, rfl⟩ := h <;> simp only [addaValue, hmode]

section
variable {s : State} {i w : Nat}

theorem seta_body_extension {f : SetaF} (hmode : f.mode = 0) : ∃ body, exec (.seta i f) s = .next (s.issue i (.seta i f) body) ∧
    body w = .go (s.modTile i fun x => x.setA f.ad f.ext) :=
  ⟨_, rfl, by simp only [hmode]⟩

theorem seta_body_sum {f : SetaF} (hmode : f.mode = 1) : ∃ body, exec (.seta i f) s = .next (s.issue i (.seta i f) body) ∧
    body w = .go (s.modTile i fun x => x.setA f.ad ((s.tile i).areg f.as + f.imm.signExtend 48)) :=
  ⟨_, rfl, by simp only [hmode]⟩

theorem seta_body_load {f : SetaF} (hmode : f.mode = 2) : ∃ body, exec (.seta i f) s = .next (s.issue i (.seta i f) body) ∧
    body w = s.loadBody i (baseBad ((s.tile i).areg f.as).toNat (rangeBad (setaOff (s.tile i) f) 8)) (setaOff (s.tile i) f)
      fun n x => x.setA f.ad (BitVec.ofNat 48 n) := by
  refine ⟨_, rfl, ?_⟩
  simp only [hmode, setaOff, mul_comm (8 : BitVec 48)]
  rfl

theorem setk_body_value {f : SetkF} {v : BitVec 24} (h : f.mode = 0 ∧ v = f.imm ∨ f.mode = 1 ∧ v = (s.tile i).kreg f.ks + f.imm ∨
    f.mode = 3 ∧ v = ((s.tile i).areg f.as).setWidth 24) : ∃ body, exec (.setk i f) s = .next (s.issue i (.setk i f) body) ∧
    body w = .go (s.modTile i fun x => x.setK f.kd v) := by
  refine ⟨_, rfl, ?_⟩
  obtain ⟨hmode, rfl⟩ | ⟨hmode, rfl⟩ | ⟨hmode, rfl⟩ := h <;> simp only [hmode]

theorem setk_body_load {f : SetkF} (hmode : f.mode = 2) : ∃ body, exec (.setk i f) s = .next (s.issue i (.setk i f) body) ∧
    body w = s.loadBody i (rangeBad (((s.tile i).areg f.as).toNat / 8 * 8) 8) (((s.tile i).areg f.as).toNat / 8 * 8)
      fun n x => x.setK f.kd (BitVec.ofNat 24 n) := by
  refine ⟨_, rfl, ?_⟩
  simp only [hmode]
  rfl

end

/-- Settles O8: each instruction by the body that its mode selects, the loads by the three answers of `State.loadBody`. -/
theorem registerInstructionsWriteOneRegister : Obligations.RegisterInstructionsWriteOneRegister := by
  refine ⟨fun x n m v => ⟨x.areg_setA n m v, rfl, rfl⟩, fun x n m v => x.kreg_setK n m v, ?_⟩
  rintro s i w x rfl hpc
  refine ⟨fun f h => ⟨fun hmode => ?_, fun hmode => ?_, ?_⟩, fun f h v hv => ?_, fun f h => ⟨fun v hv => ?_, ?_⟩⟩
  · obtain ⟨body, he, hb⟩ := seta_body_extension hmode
    exact answers_issued he h hb (by simpa using hpc)
  · obtain ⟨body, he, hb⟩ := seta_body_sum hmode
    exact answers_issued he h hb (by simpa using hpc)
  · rintro hmode off rfl
    obtain ⟨body, he, hb⟩ := seta_body_load hmode
    exact ⟨fun hbase hin => ⟨fun hclear => load_inside he h hb (baseBad_inside hbase hin) hclear (by simpa using hpc),
      load_clearing he h hb (baseBad_inside hbase hin)⟩, fun hout => (baseBad_outside hout).elim fun o => load_outside he h hb⟩
  · rw [← addaValue_eq hv]
    exact answers_issued (f := fun x => x.setA f.ad (addaValue (s.tile i) f)) rfl h rfl (by simpa using hpc)
  · obtain ⟨body, he, hb⟩ := setk_body_value hv
    exact answers_issued he h hb hpc
  · rintro hmode off rfl
    obtain ⟨body, he, hb⟩ := setk_body_load hmode
    exact ⟨fun hin => ⟨fun hclear => load_inside he h hb (rangeBad_inside hin) hclear hpc, load_clearing he h hb (rangeBad_inside hin)⟩,
      fun hout => load_outside he h hb (rangeBad_outside hout)⟩

end Sys2Proof.Machine
end

section
/-! LOOP, ENDL and JMP (R149 to R151): the next pc, the counter and the loop stack. -/

namespace Sys2Proof.Machine
open Sys2Proof

/-! ### What each does to its tile -/

/-- The trip count of a LOOP (R149). -/
def loopCount (x : Tile) (f : LoopF) : BitVec 24 := if f.src then x.kreg f.k else BitVec.ofNat 24 f.count

/-- The tile after a LOOP that enters its body. -/
def Tile.pushLoop (f : LoopF) (n : BitVec 24) (x : Tile) : Tile := { x.setK f.k n with loops := ⟨x.pc + 1, f.fin, f.k⟩ :: x.loops }

/-- The tile after an ENDL that leaves the loop. -/
def Tile.popLoop (e : LoopEnt) (r : List LoopEnt) (x : Tile) : Tile := { x.setK e.k 0 with loops := r }

/-- The tile after a JMP that is taken. -/
def Tile.jump (f : JmpF) (x : Tile) : Tile :=
  { (if f.cond = 5 then x.setK f.k (x.kreg f.k - 1) else x) with loops := x.loops.drop f.pop }

@[simp] theorem Tile.jump_codeEnd (f : JmpF) (x : Tile) : (x.jump f).codeEnd = x.codeEnd := by
  unfold Tile.jump
  split <;> rfl

/-! ### What each answers -/

section
variable {s : State} {i w : Nat}

section
variable {f : LoopF} (h : s.fetches i (.loop i f) w)
include h

theorem loop_skips (hcount : loopCount (s.tile i) f = 0) (hpc : f.fin + 1 < (s.tile i).codeEnd) :
    Answers (.loop i f) s fun t => Issued s t i (.loop i f) ((s.tile i).setK f.k (loopCount (s.tile i) f)) (f.fin + 1) :=
  answers_jumps (f := fun x => x.setK f.k (loopCount (s.tile i) f)) rfl h (if_pos hcount) hpc

theorem loop_enters (hcount : loopCount (s.tile i) f ≠ 0) (hroom : (s.tile i).loops.length < 4) (hpc : s.nextPc i < (s.tile i).codeEnd) :
    Answers (.loop i f) s fun t => Issued s t i (.loop i f) ((s.tile i).pushLoop f (loopCount (s.tile i) f)) (s.nextPc i) :=
  answers_issued rfl h ((if_neg hcount).trans (if_neg (by omega))) hpc

theorem loop_full (hcount : loopCount (s.tile i) f ≠ 0) (hfull : 4 ≤ (s.tile i).loops.length) :
    exec (.loop i f) s = .next (s.takeExc w i 0x13 0) :=
  exec_exc rfl h ((if_neg hcount).trans (if_pos hfull))

end

/-- What ENDL answers (R150). -/
def State.endlBody (s : State) (i : Nat) : Issue :=
  match (s.tile i).loops with
  | [] => .exc 0x14 0
  | e :: r =>
    if e.fin ≠ (s.tile i).pc then .exc 0x14 0
    else if ((s.tile i).kreg e.k).toNat ≤ 1 then .go (s.modTile i (Tile.popLoop e r))
    else .jump (s.modTile i fun x => x.setK e.k ((s.tile i).kreg e.k - 1)) e.start

theorem exec_endl (s : State) (i : Nat) : exec (.endl i) s = .next (s.issue i (.endl i) fun _ => s.endlBody i) := rfl

section
variable (h : s.fetches i (.endl i) w)
include h

theorem endl_outside (hend : ∀ e ∈ (s.tile i).loops.head?, e.fin ≠ (s.tile i).pc) : exec (.endl i) s = .next (s.takeExc w i 0x14 0) := by
  refine exec_exc (exec_endl s i) h ?_
  unfold State.endlBody
  cases hloops : (s.tile i).loops with
  | nil => rfl
  | cons e r => exact if_pos (hend e (by simp [hloops]))

variable {e : LoopEnt} {r : List LoopEnt} (hloops : (s.tile i).loops = e :: r) (hend : e.fin = (s.tile i).pc)
include hloops hend

theorem endl_leaves (hcount : ((s.tile i).kreg e.k).toNat ≤ 1) (hpc : s.nextPc i < (s.tile i).codeEnd) :
    Answers (.endl i) s fun t => Issued s t i (.endl i) ((s.tile i).popLoop e r) (s.nextPc i) := by
  refine answers_issued (exec_endl s i) h ?_ hpc
  rw [State.endlBody, hloops]
  exact (if_neg (by simp [hend])).trans (if_pos hcount)

theorem endl_repeats (hcount : 1 < ((s.tile i).kreg e.k).toNat) (hpc : e.start < (s.tile i).codeEnd) :
    Answers (.endl i) s fun t => Issued s t i (.endl i) ((s.tile i).setK e.k ((s.tile i).kreg e.k - 1)) e.start := by
  refine answers_jumps (f := fun x => x.setK e.k ((s.tile i).kreg e.k - 1)) (exec_endl s i) h ?_ hpc
  rw [State.endlBody, hloops]
  exact (if_neg (by simp [hend])).trans (if_neg (by omega))

end

/-- The condition of a JMP as the spec lists it (R151). -/
theorem jmpTaken_iff (f : JmpF) (k : BitVec 24) (flags : W16) : jmpTaken f k flags = true ↔
    f.cond = 0 ∨ (f.cond = 1 ∨ f.cond = 5) ∧ k ≠ 0 ∨ f.cond = 2 ∧ k = 0 ∨ f.cond = 3 ∧ flags &&& f.fmask = f.fmask ∨
      f.cond = 4 ∧ flags &&& f.fmask ≠ f.fmask := by
  unfold jmpTaken
  split <;> simp_all

section
variable {f : JmpF} (h : s.fetches i (.jmp i f) w)
include h

theorem jmp_goesOn (hnot : jmpTaken f ((s.tile i).kreg f.k) (s.tile i).flags ≠ true) (hpc : s.nextPc i < (s.tile i).codeEnd) :
    Answers (.jmp i f) s fun t => Issued s t i (.jmp i f) (s.tile i) (s.nextPc i) :=
  answers_goesOn (t := s) rfl h (if_pos (by simpa using hnot)) (fun _ _ => rfl) hpc

variable (htaken : jmpTaken f ((s.tile i).kreg f.k) (s.tile i).flags = true)
include htaken

theorem jmp_jumps (hpop : f.pop ≤ (s.tile i).loops.length) (hpc : f.target < (s.tile i).codeEnd) :
    Answers (.jmp i f) s fun t => Issued s t i (.jmp i f) ((s.tile i).jump f) f.target :=
  answers_jumps (f := fun x => { (if f.cond = 5 then x.setK f.k ((s.tile i).kreg f.k - 1) else x) with loops := (s.tile i).loops.drop f.pop })
    rfl h ((if_neg (by simp [htaken])).trans (if_neg (by omega))) (hpc.trans_eq ((s.tile i).jump_codeEnd f).symm)

theorem jmp_under (hpop : (s.tile i).loops.length < f.pop) : exec (.jmp i f) s = .next (s.takeExc w i 0x14 0) :=
  exec_exc rfl h ((if_neg (by simp [htaken])).trans (if_pos hpop))

end
end

/-- Settles O9: each of the three by its answers above; a JMP's condition is `jmpTaken`. -/
theorem loopsAndJumpsGoWhereTheSpecSays : Obligations.LoopsAndJumpsGoWhereTheSpecSays := by
  rintro s i w x rfl
  refine ⟨fun f n h hn => ?_, fun h => ⟨fun e r hloops hend => ⟨endl_leaves h hloops hend, endl_repeats h hloops hend⟩, endl_outside h⟩,
    fun f taken h htaken => ?_⟩
  · obtain rfl : n = loopCount (s.tile i) f := hn
    exact ⟨loop_skips h, loop_enters h, loop_full h⟩
  · rw [← jmpTaken_iff] at htaken
    exact ⟨fun hnot => jmp_goesOn h (mt htaken.mpr hnot), fun ht => jmp_jumps h (htaken.mp ht), fun ht => jmp_under h (htaken.mp ht)⟩

end Sys2Proof.Machine
end

section
/-! BEAT, HALT, FENCE, SIG and WAITF (R145 to R148, R152), the arrival of a flag pulse and the wake-up of a WAITF. -/

namespace Sys2Proof.Machine
open Sys2Proof

/-! ### Instructions after which the tile rests -/

/-- An instruction that leaves its tile resting: no further word is checked, wherever the pc lies. -/
theorem answers_rests {s : State} {i w : Nat} {c : Instr} {body : Nat → Issue} (he : exec c s = .next (s.issue i c body))
    (h : s.fetches i c w) {f : Tile → Tile} (hb : body w = .go (s.modTile i f))
    (hrests : (f (s.tile i)).st ≠ .running ∧ (f (s.tile i)).st ≠ .stalled) :
    Answers c s fun t => Issued s t i c (f (s.tile i)) (s.nextPc i) := by
  obtain ⟨u, n, hn, hload, ⟨hu, huother, hmem, hrest⟩, hissue⟩ := State.issue_go s i w c body _ h hb
  rw [State.checkPc_idle _ _ _ (by simp [Tile.goesOn, hu, hrests])] at hissue
  refine ⟨_, he, n, hn, hload, ?_⟩
  rw [hissue]
  refine ⟨?_, fun j hj => ?_, hmem, ?_⟩
  · rw [State.modTile_tile_same, hu, State.modTile_tile_same]
    rfl
  · rw [State.modTile_tile_other _ _ _ _ hj, huother j hj]
    exact State.modTile_tile_other s i f j hj
  · rw [State.modTile, hrest]
    rfl

/-! ### The flag pulses (R147) and the wake-up (R148) -/

theorem flagArrive_sets {s : State} {src tgt u : Nat} {m : W16} {r : List (Nat × W16)} (hsig : takeSig tgt (s.tile src).sigs = some (m, r))
    (hward : s.wardOfDie (tgt / 64) = some u) (hfence : (s.tile ((s.ward u).redirect tgt)).health ≠ .fenced)
    (hother : (s.ward u).redirect tgt ≠ src) : execFlagArrive src tgt s =
      .next ((s.modTile src fun x => { x with sigs := r }).modTile ((s.ward u).redirect tgt) fun x => x.setFlags m) := by
  unfold execFlagArrive
  rw [hsig]
  dsimp only
  rw [show (s.modTile src fun x => { x with sigs := r }).wardOfDie (tgt / 64) = some u from hward]
  exact if_neg (by rw [State.modTile_ward, State.modTile_tile_other _ _ _ _ hother]; exact hfence)

/-- The tile that a WAITF's condition wakes (R148). -/
def Tile.wake (f : WaitfF) (n : Nat) (x : Tile) : Tile :=
  { x with st := .running, waiting := none, flags := flagsAfter f x.flags x.standIn, stall := x.stall + Config.freeW32 n }

section
variable {s : State} {i : Nat} {f : WaitfF} (hwait : (s.tile i).st = .atWait) (hf : (s.tile i).waiting = some f)
include hf

theorem waitfWake_not (hcond : waitHolds f (s.tile i).flags = false) : execWaitfWake i s = .next s := by
  unfold execWaitfWake
  dsimp only
  rw [hf]
  exact if_neg (by simp [hcond])

include hwait

theorem waitfWake_wakes (hcond : waitHolds f (s.tile i).flags = true) (hpc : (s.tile i).pc < (s.tile i).codeEnd ∨ (s.tile i).proofs ≠ []) :
    execWaitfWake i s = .next (({ s with fresh := s.fresh + 1 } : State).modTile i (Tile.wake f s.fresh)) := by
  have hcheck (w : Nat) (t : State) (ht : t.tile i = (s.tile i).wake f s.fresh) :
      (if (s.tile i).proofs = [] then t.checkPc w i else t) = t := by
    split
    · next hproofs => exact State.checkPc_in t w i (by rw [ht]; exact hpc.resolve_right (not_not_intro hproofs))
    · rfl
  unfold execWaitfWake
  dsimp only
  rw [hf]
  refine (if_pos ⟨hwait, hcond⟩).trans (congrArg _ ?_)
  have htile : (({ s with fresh := s.fresh + 1 } : State).modTile i (Tile.wake f s.fresh)).tile i = (s.tile i).wake f s.fresh :=
    State.modTile_tile_same _ i _
  split
  · next w _ => exact hcheck w _ htile
  · rfl

end

/-- Settles O10: the instructions by their bodies, of which BEAT, HALT and WAITF leave the tile resting; the two events by their
equations. -/
theorem flagInstructionsAndTheirArrivals : Obligations.FlagInstructionsAndTheirArrivals := by
  rintro s i w x rfl
  refine ⟨fun h => ?_, fun h => ?_, fun f h => ?_, fun f h => ⟨fun hin hpc => ?_, fun hout => ?_⟩,
    fun cls h => ⟨fun hfree hpc => ?_, fun hbusy => answers_stalls rfl h (if_pos hbusy)⟩,
    fun src tgt m r u k hsig hward hk hfence hother => ?_, fun f hwait hf => ⟨fun hcond hpc => ?_, waitfWake_not hf⟩⟩
  · exact answers_rests rfl h (f := fun x => { x with st := .atBeat }) rfl (by simp)
  · exact answers_rests rfl h (f := fun x => { x with st := .halted }) rfl (by simp)
  · exact answers_rests rfl h (f := fun x => { x with st := .atWait, waiting := some f }) rfl (by simp)
  · exact answers_issued rfl h (f := fun x => { x with sigs := x.sigs ++ [(f.tgt, f.fmask)] }) (if_pos hin) hpc
  · exact exec_exc rfl h (if_neg (by simp [hout]))
  · exact answers_goesOn (t := s) rfl h (if_neg (by simp [hfree])) (fun _ _ => rfl) hpc
  · subst hk
    refine ⟨_, flagArrive_sets hsig hward hfence hother, ?_, ?_, fun j hj hjs => ?_, rfl⟩
    · rw [State.modTile_tile_same, State.modTile_tile_other _ _ _ _ hother]
    · rw [State.modTile_tile_other _ _ _ _ hother.symm, State.modTile_tile_same]
    · rw [State.modTile_tile_other _ _ _ _ hj, State.modTile_tile_other _ _ _ _ hjs]
  · exact ⟨_, waitfWake_wakes hwait hf hcond hpc, _, State.modTile_only { s with fresh := s.fresh + 1 } i _⟩

end Sys2Proof.Machine
end

section
/-! Reset: every unit of the module is at its default (R162 to R164, R434, R511). -/

namespace Sys2Proof.Machine
open Sys2Proof

theorem State.reset_tile (i : Nat) : State.reset.tile i = {} := rfl
theorem State.reset_ward (w : Nat) : State.reset.ward w = {} := rfl
theorem State.reset_chan (c : Nat) : State.reset.chan c = {} := rfl
theorem State.reset_ring (k : Nat) : State.reset.ring k = {} := rfl
theorem State.reset_slot (k : Nat) : State.reset.slot k = {} := rfl

theorem Tile.areg_default (n : Nat) : ({} : Tile).areg n = 0 := by
  unfold Tile.areg
  split <;> rfl

/-- Settles O5: nothing is listed in any table of the reset state, so every unit reads as its default. That a byte never written reads 0,
that the variant is the LD-2F, that the supply is off, and the values that no rule states are the model's choices (log entries 5, 9, 10
and 154). -/
theorem resetLeavesTheModuleOff : Obligations.ResetLeavesTheModuleOff := by
  refine ⟨rfl, rfl, rfl, fun a => rfl, fun w => ?_, fun i => ?_, fun c => ?_, fun k => ?_, fun k => ?_, rfl, rfl, rfl, rfl⟩
  · rw [State.reset_ward]
    exact ⟨rfl, rfl, rfl, rfl⟩
  · rw [State.reset_tile]
    exact ⟨rfl, rfl, rfl, rfl, rfl, Tile.areg_default, fun _ => rfl, rfl, fun _ => rfl⟩
  · rw [State.reset_chan]
    exact ⟨rfl, rfl⟩
  · rw [State.reset_ring]
    exact ⟨rfl, rfl⟩
  · rw [State.reset_slot]

end Sys2Proof.Machine
end

section
/-! A dynamic exception whose record lands on the words that the stopped tile would fetch next. -/

namespace Sys2Proof.Machine
open Sys2Proof

/-- The number of the next fault record, which reads as the word of a SIG of flag 0 to tile 1 (R147). -/
def sigNumber : Nat := (SigF.word { tgt := 1, fmask := 1 }).toNat

/-- The word of tile 0 whose address is that of record `sigNumber` in port A's mirror. -/
def mirroredPc : Nat := (mirrorAt 6 sigNumber - (tileBase 0 + 0x300000)) / 8

/-- Ward 0 holds die 0, whose tile 0 runs at the word `mirroredPc`, its last; in fall-back the host's port A mirrors the fault records. -/
def mirroredState : State :=
  { State.reset with
    life := .up, wards := [(0, { st := .running, dies := 1 })],
    tiles := [(0, { st := .running, pc := mirroredPc, codeEnd := mirroredPc + 1 })],
    ports := [(0, { up := true })], funcs := [(0, { bme := true })],
    saf := { seqNext := sigNumber, fallback := true, mirrorAEn := true, mirrorA := 6 } }

theorem mirroredState_noSig : mirroredState.standIns 0 = [] := by decide +kernel

theorem mirroredState_raises : ((mirroredState.takeExc 0 0 0x10 0).tile 1).flags = 1 := by decide +kernel

/-- Refutes O20, in the clause that tiles which the stand-in flags do not name keep their flags. The flags are raised after the record is
written (R539), and in fall-back the record is mirrored into host memory (R492). The model's pc is any natural number: at this one the
mirror is the word that the stopped tile would fetch, and the record's number spells a SIG that nothing spelt before. (A pc below 2^13,
as R117 has it, fetches far below host memory.) -/
theorem not_exceptionsStopTheTile : ¬ Obligations.ExceptionsStopTheTile := by
  intro h
  obtain ⟨-, -, -, -, -, -, hkept, -⟩ := h mirroredState _ 0 0 0x10 0 (by decide +kernel) rfl
  have hflags := congrArg Tile.flags (hkept 1 (by decide) (by simp [mirroredState_noSig]))
  rw [mirroredState_raises] at hflags
  exact absurd hflags (by decide +kernel)

end Sys2Proof.Machine
end

section
/-! CHAIN and the chain engine (R137, R197 to R225): what the engine's events leave alone, and what each answers. -/

namespace Sys2Proof.Machine
open Sys2Proof

/-! ### What the notes of a row leave alone -/

/-- The tiles and the chain engines. -/
def State.engines (s : State) : Tab Tile × Tab Quad := (s.tiles, s.quads)

theorem engines_of_still {s t : State} (h : t.still = s.still) : t.engines = s.engines :=
  congrArg State.engines (a₁ := t.still) (a₂ := s.still) h

theorem State.report_engines (s : State) (r : FRec) : (s.report r).engines = s.engines := engines_of_still (State.report_still s r)

theorem State.jobFaultDie_engines (s : State) (n : Nat) (st : St) : (s.jobFaultDie n st).engines = s.engines := by
  unfold State.jobFaultDie
  split <;> rfl

theorem State.notePoison_engines (s : State) (i bank unit idx : Nat) : (s.notePoison i bank unit idx).engines = s.engines := by
  unfold State.notePoison
  dsimp only
  split
  · rfl
  · refine ite_fixes State.engines (fun _ => State.report_engines s _) fun _ => ?_
    split <;> exact State.report_engines s _

theorem State.addSite_engines (s : State) (n k : Nat) (d : SiteDelta) : (s.addSite n k d).engines = s.engines := by
  unfold State.addSite State.onSite
  extract_lets t
  split
  · split <;> rfl
  · rfl

/-! ### What a program keeps of the engines while it works -/

/-- A program under way without the values it holds on its way out. -/
def ChainRun.outline (r : ChainRun) : ChainRun := { r with buf := [], results := [], noted := [] }

/-- An engine without its generators and the values its program holds on their way out. -/
def Quad.outline (x : Quad) : Quad := { x with gens := [], run := x.run.map ChainRun.outline }

/-- The chain engines, `q` in outline. -/
def State.outline (s : State) (q k : Nat) : Quad := if k = q then (s.quad k).outline else s.quad k

theorem State.outline_same (s : State) (q : Nat) : s.outline q q = (s.quad q).outline := if_pos rfl

theorem State.outline_other (s : State) {q k : Nat} (hk : k ≠ q) : s.outline q k = s.quad k := if_neg hk

theorem quad_of_outline {s t : State} {q : Nat} (h : t.outline q = s.outline q) :
    (t.quad q).outline = (s.quad q).outline ∧ ∀ k, k ≠ q → t.quad k = s.quad k := by
  refine ⟨?_, fun k hk => ?_⟩
  · rw [← State.outline_same, ← State.outline_same, h]
  · rw [← State.outline_other _ hk, ← State.outline_other s hk, h]

theorem outline_of_quads {s t : State} (h : t.quads = s.quads) (q : Nat) : t.outline q = s.outline q := by
  unfold State.outline State.quad
  rw [h]

theorem outline_of_engines {s t : State} (h : t.engines = s.engines) (q : Nat) : t.outline q = s.outline q :=
  outline_of_quads (congrArg Prod.snd h) q

theorem State.modQuad_outline (s : State) (q : Nat) (f : Quad → Quad) (hf : (f (s.quad q)).outline = (s.quad q).outline) :
    (s.modQuad q f).outline q = s.outline q := by
  funext k
  by_cases hk : k = q
  · subst hk
    rw [State.outline_same, State.outline_same, State.modQuad_quad_same, hf]
  · rw [State.outline_other _ hk, State.outline_other _ hk, State.modQuad_quad_other _ _ _ _ hk]

/-- A change of the generators and the run that the outline does not show. -/
theorem State.modRun_outline (s : State) (q : Nat) (g : Quad → Tab W32) (f : ChainRun → ChainRun) (hf : ∀ r, (f r).outline = r.outline) :
    (s.modQuad q fun x => { x with gens := g x, run := x.run.map f }).outline q = s.outline q := by
  refine State.modQuad_outline s q _ ?_
  unfold Quad.outline
  simp only [Option.map_map]
  rw [show ChainRun.outline ∘ f = ChainRun.outline from funext hf]

theorem State.wrStoreCells_quads (s : State) (i : Nat) (cells : List (Nat × Byte)) : (s.wrStoreCells i cells).quads = s.quads :=
  ite_fixes State.quads (fun _ => rfl) fun _ => rfl

theorem State.chainWrite_outline (s : State) (q t : Nat) (cl : List (Nat × Nat × Nat)) (cells : List (Nat × Byte)) :
    (s.chainWrite q t cl cells).outline q = s.outline q := outline_of_quads (s.wrStoreCells_quads _ _) q

theorem State.chainNote_outline (s : State) (q : Nat) (hits : List (Nat × Nat)) : (s.chainNote q hits).outline q = s.outline q := by
  refine forEach_fixes (State.outline · q) _ (fun t a => ?_) _ s
  dsimp only
  split
  · next r hrun =>
    split
    · rfl
    · refine (outline_of_engines (State.notePoison_engines _ _ _ _ _) q).trans (State.modQuad_outline t q _ ?_)
      unfold Quad.outline
      rw [hrun]
      rfl
  · rfl

theorem State.chainLand_outline (s : State) (q : Nat) (r : ChainRun) : (s.chainLand q r).outline q = s.outline q := by
  refine (State.modRun_outline _ q Quad.gens (fun y => { y with results := [] }) fun _ => rfl).trans ((State.chainNote_outline _ q _).trans ?_)
  exact forEach_fixes (State.outline · q) _ (fun t a => State.chainWrite_outline t q _ _ _) _ s

theorem State.chainOut_outline (s : State) (q : Nat) (r : ChainRun) (bad : Bool) (p : List W32) :
    (s.chainOut q r bad p).outline q = s.outline q := by
  unfold State.chainOut
  dsimp only
  split
  · rfl
  · split
    · exact State.modRun_outline s q Quad.gens (fun y => { y with buf := y.buf ++ [(p, bad)] }) fun _ => rfl
    · refine (State.chainNote_outline _ q _).trans ((outline_of_engines (State.addSite_engines _ _ _ _) q).trans ?_)
      exact (State.modRun_outline _ q _ (fun y => { y with buf := [] }) fun _ => rfl).trans (State.chainWrite_outline s q _ _ _)
  · exact (State.chainNote_outline _ q _).trans (State.chainWrite_outline s q _ _ _)

/-! ### The tiles, where no store has a damaged word -/

/-- No tile store has a word with an uncorrectable error. -/
def State.sound (s : State) : Prop := ∀ i, (s.tile i).badWords = []

theorem State.sound.of_tiles {s t : State} (hs : s.sound) (h : t.tiles = s.tiles) : t.sound := fun i => by
  unfold State.tile
  rw [h]
  exact hs i

theorem State.chainWrite_tiles {s : State} (hs : s.sound) (q t : Nat) (cl : List (Nat × Nat × Nat)) (cells : List (Nat × Byte)) :
    (s.chainWrite q t cl cells).tiles = s.tiles := by
  refine (congrArg State.tiles (if_pos (hs (s.quadTile q t)))).trans ?_
  rfl

theorem State.chainNote_tiles (s : State) (q : Nat) (hits : List (Nat × Nat)) : (s.chainNote q hits).tiles = s.tiles := by
  refine forEach_fixes State.tiles _ (fun t a => ?_) _ s
  dsimp only
  split
  · split
    · rfl
    · exact congrArg Prod.fst (State.notePoison_engines _ _ _ _ _)
  · rfl

/-- Writes of a program one after another. -/
theorem forEach_tiles_of_sound {α : Type} {f : State → α → State} (hf : ∀ t a, t.sound → (f t a).tiles = t.tiles) (xs : List α) {s : State}
    (hs : s.sound) : (forEach xs s f).tiles = s.tiles := by
  induction xs generalizing s with
  | nil => rfl
  | cons a xs ih => exact (ih (hs.of_tiles (hf s a hs))).trans (hf s a hs)

theorem State.chainLand_tiles {s : State} (hs : s.sound) (q : Nat) (r : ChainRun) : (s.chainLand q r).tiles = s.tiles :=
  (State.chainNote_tiles _ q _).trans (forEach_tiles_of_sound (fun _ _ ht => State.chainWrite_tiles ht q _ _ _) _ hs)

theorem State.chainOut_tiles {s : State} (hs : s.sound) (q : Nat) (r : ChainRun) (bad : Bool) (p : List W32) :
    (s.chainOut q r bad p).tiles = s.tiles := by
  unfold State.chainOut
  dsimp only
  split
  · rfl
  · split
    · rfl
    · refine (State.chainNote_tiles _ q _).trans ((congrArg Prod.fst (State.addSite_engines _ _ _ _)).trans ?_)
      exact State.chainWrite_tiles hs q _ _ _
  · exact (State.chainNote_tiles _ q _).trans (State.chainWrite_tiles hs q _ _ _)

theorem State.softSup_sound {s : State} (hs : s.sound) (q : Nat) (rs : List ChRange) : s.softSup q rs = none := by
  refine List.findSome?_eq_none_iff.mpr fun r _ => ?_
  dsimp only
  rw [hs]
  rfl

theorem State.forEach_noteSoft {α : Type} {s : State} (hs : s.sound) (xs : List α) (i : State → α → Nat) (rs : α → List (Nat × Nat)) :
    forEach xs s (fun t a => t.noteSoft (i t a) (rs a)) = s := by
  induction xs with
  | nil => rfl
  | cons a xs ih => exact (congrArg (forEach xs · _) (State.noteSoft_good (hs _) _)).trans ih

/-! ### CHAIN (R137) -/

section
variable {s : State} {i w : Nat} {f : ChainF} (h : s.fetches i (.chain i f) w)
include h

theorem chain_fenced (hfence : (s.quad (i / 4)).fenced = true) (hpc : s.nextPc i < (s.tile i).codeEnd) :
    Answers (.chain i f) s fun t => Issued s t i (.chain i f) (s.tile i) (s.nextPc i) :=
  answers_goesOn (t := s) rfl h (if_pos hfence) (fun _ _ => rfl) hpc

variable (hfence : (s.quad (i / 4)).fenced = false)
include hfence

theorem chain_full (hfull : 8 ≤ (s.quad (i / 4)).queue.length) : Answers (.chain i f) s fun t => Stalls s t i :=
  answers_stalls rfl h ((if_neg (by simp [hfence])).trans (if_pos hfull))

theorem chain_queues (hroom : (s.quad (i / 4)).queue.length < 8) (hpc : s.nextPc i < (s.tile i).codeEnd) :
    Answers (.chain i f) s fun t => Issued { s with quads := t.quads } t i (.chain i f) (s.tile i) (s.nextPc i) ∧
      t.quad (i / 4) = { s.quad (i / 4) with queue := (s.quad (i / 4)).queue ++ [⟨i % 4, ((s.tile i).areg f.ad).toNat, f.rows⟩] } ∧
      ∀ k, k ≠ i / 4 → t.quad k = s.quad k := by
  let put (x : Quad) : Quad := { x with queue := x.queue ++ [⟨i % 4, ((s.tile i).areg f.ad).toNat, f.rows⟩] }
  refine (answers_goesOn (t := s.modQuad (i / 4) put) rfl h
    ((if_neg (by simp [hfence])).trans (if_neg (by omega))) (fun _ _ => rfl) hpc).imp fun t ht => ?_
  have hquads : t.quads = (s.modQuad (i / 4) put).quads := ht.keeps State.quads fun _ _ _ => rfl
  refine ⟨by rw [hquads]; exact ht, ?_, fun k hk => ?_⟩
  · exact (congrArg (Tab.get · _) hquads).trans (State.modQuad_quad_same s _ put)
  · exact (congrArg (Tab.get · k) hquads).trans (State.modQuad_quad_other s _ put k hk)

end

/-! ### The start of a program (R214 to R218) -/

/-- An engine that starts program `p`, `rest` still queued; `seeded` are its generators if the descriptor names a seed (R214). -/
def Quad.startProg (x : Quad) (p : ChainProg) (rest : List ChainProg) (d : ChainDesc) (seeded : Tab W32) : Quad :=
  { x with queue := rest, gens := if d.seed = 0 then x.gens else seeded,
           run := some { issuer := p.issuer, rows := p.rows, desc := d, clash := [] } }

/-- An engine whose oldest program fails its checks: the program is dropped, and the first error of the job kept (R218). -/
def Quad.refuseProg (x : Quad) (p : ChainProg) (cause record detail : Nat) : Quad :=
  { (if x.faultValid then x else
      { x with faultValid := true, faultCause := cause, faultIssuer := p.issuer, faultRecord := record,
               faultDetail := sat32 detail }) with queue := x.queue.tail }

theorem State.chainError_engines (s : State) (q : Nat) (p : ChainProg) (cause record detail : Nat) :
    (s.chainError q p cause record detail).engines = (s.modQuad q (Quad.refuseProg · p cause record detail)).engines :=
  (State.jobFaultDie_engines _ _ _).trans (State.report_engines _ _)

section
variable {s : State} {q off : Nat} {p : ChainProg} {rest : List ChainProg} {wd : Nat → W64} {d : ChainDesc}
  (hrun : (s.quad q).run = none) (hqueue : (s.quad q).queue = p :: rest) (hgood : (s.tile (s.quadTile q p.issuer)).badWords = [])
  (hoff : off = p.off / 16 * 16) (hwd : wd = s.storeW64 (s.quadTile q p.issuer) off) (hd : d = chainDescOf wd)
  (hhdr : rangesBad [⟨0, off, 16⟩] = none) (hdesc : rangesBad [⟨0, off, 96 + 16 * d.stages.length⟩] = none)
include hrun hqueue hgood hoff hwd hd hhdr hdesc

theorem chainProgramStart_starts (hbad : descBad p.rows wd = []) (hrange : chainRange d off p.rows = none) (hclash : d.clashes p.rows = []) :
    ∃ seeded, exec (.chainProgramStart q) s = .next (s.modQuad q (Quad.startProg · p rest d seeded)) := by
  subst hd hwd hoff
  change ∃ seeded, execChainProgramStart q s = _
  unfold execChainProgramStart
  dsimp only
  rw [hrun, hqueue]
  dsimp only
  rw [hgood, hhdr, hdesc, hbad, hrange, hclash]
  exact ⟨_, rfl⟩

theorem chainProgramStart_descBad {b : Nat} {bs : List Nat} (hbad : descBad p.rows wd = b :: bs) :
    exec (.chainProgramStart q) s = .next (s.chainError q p 0x20 b 0) := by
  subst hd hwd hoff
  change execChainProgramStart q s = _
  unfold execChainProgramStart
  dsimp only
  rw [hrun, hqueue]
  dsimp only
  rw [hgood, hhdr, hdesc, hbad]
  rfl

end

theorem Quad.refuseProg_fields (x : Quad) (p : ChainProg) (cause record detail : Nat) :
    (x.refuseProg p cause record detail).queue = x.queue.tail ∧ (x.refuseProg p cause record detail).run = x.run ∧
    (x.refuseProg p cause record detail).faultValid = true ∧
    (x.faultValid = false → (x.refuseProg p cause record detail).faultCause = cause ∧
      (x.refuseProg p cause record detail).faultRecord = record ∧ (x.refuseProg p cause record detail).faultIssuer = p.issuer) ∧
    (x.faultValid = true → (x.refuseProg p cause record detail).faultCause = x.faultCause) := by
  unfold Quad.refuseProg
  cases hvalid : x.faultValid <;> simp [hvalid]

theorem quad_of_engines {s t : State} (h : t.engines = s.engines) (k : Nat) : t.quad k = s.quad k :=
  congrArg (fun e : Tab Tile × Tab Quad => e.2.get k) h

/-! ### Rows and the end of a program (R211, R214, R215) -/

/-- An access of the engine that a store did not serve (R215). -/
def Quad.stalls (x : Quad) : Quad := { x with stallCnt := x.stallCnt + 1 }

theorem redStep_keeps (r : ChainRun) (bad : Bool) (red : List W32) :
    (redStep r bad red).rows = r.rows ∧ (redStep r bad red).issuer = r.issuer ∧ (redStep r bad red).desc = r.desc := by
  unfold redStep
  extract_lets d
  split <;> exact ⟨rfl, rfl, rfl⟩

/-- What an engine in outline as `x`, whose program is in outline `r`, keeps. -/
theorem Quad.run_of_outline {x y : Quad} {r : ChainRun} (h : y.outline = x.outline) (hrun : x.run = some r) :
    ∃ r', y.run = some r' ∧ r'.outline = r.outline := by
  have hruns : y.run.map ChainRun.outline = x.run.map ChainRun.outline := congrArg Quad.run h
  rw [hrun] at hruns
  exact Option.map_eq_some_iff.mp hruns

section
variable {s : State} {q : Nat} {r : ChainRun} (hrun : (s.quad q).run = some r)
include hrun

theorem chainRow_unserved (chk : ChainCheck) : exec (.chainRow q false chk) s = .next (s.modQuad q Quad.stalls) := by
  change execChainRow q false chk s = _
  unfold execChainRow
  rw [hrun]
  dsimp only
  split
  · rfl
  · exact if_pos (Or.inl rfl)

theorem chainRow_over (chk : ChainCheck) (hover : r.rows ≤ r.row) : exec (.chainRow q true chk) s = .next s := by
  change execChainRow q true chk s = _
  unfold execChainRow
  rw [hrun]
  exact if_pos hover

theorem chainProgramComplete_early (hrow : r.row < r.rows) : exec (.chainProgramComplete q) s = .next s := by
  change execChainProgramComplete q s = _
  unfold execChainProgramComplete
  rw [hrun]
  exact if_pos hrow

theorem chainProgramComplete_lands (hover : r.rows ≤ r.row) :
    exec (.chainProgramComplete q) s = .next ((s.chainLand q r).modQuad q fun x => { x with run := none }) := by
  change execChainProgramComplete q s = _
  unfold execChainProgramComplete
  rw [hrun]
  exact if_neg (by omega)

variable (hrow : r.row < r.rows)
include hrow

theorem chainRow_clearing (chk : ChainCheck) (hclear : s.chainClearing q (r.desc.rowRanges r.results r.row) = true) :
    exec (.chainRow q true chk) s = .next (s.modQuad q Quad.stalls) := by
  change execChainRow q true chk s = _
  unfold execChainRow
  rw [hrun]
  exact (if_neg (by omega)).trans (if_pos (Or.inr hclear))

/-- A row served with good checks: the results of spans that are over land, then the row is counted and its output written. -/
theorem chainRow_good (hclear : s.chainClearing q (r.desc.rowRanges r.results r.row) = false) (hs : s.sound) :
    ∃ (r₁ r₂ : ChainRun) (p : List W32),
      r₂.row = r.row + 1 ∧ r₂.rows = r.rows ∧ r₂.issuer = r.issuer ∧ r₂.desc = r.desc ∧
      exec (.chainRow q true .good) s = .next (((s.chainLand q r).modQuad q fun x =>
        { x with rowsCnt := x.rowsCnt + 1, run := some r₂ }).chainOut q r₁ false p) := by
  have hexec : exec (.chainRow q true .good) s = execChainRow q true .good s := rfl
  unfold execChainRow at hexec
  rw [hrun] at hexec
  simp only [if_neg (show ¬ r.rows ≤ r.row by omega), hclear, State.softSup_sound hs, State.forEach_noteSoft hs] at hexec
  obtain ⟨r₁, hr₁, hr⟩ := Quad.run_of_outline (quad_of_outline (State.chainLand_outline s q r)).1 hrun
  rw [hr₁] at hexec
  let vals := (List.range r₁.desc.nstr).map fun k => (s.chainLand q r).streamRow q r₁.desc r₁.kept r₁.row k
  obtain ⟨hrows, hissuer, hdesc⟩ := redStep_keeps r₁ false (chainRowOf r₁.desc vals).2
  refine ⟨r₁, { redStep r₁ false (chainRowOf r₁.desc vals).2 with kept := vals, row := r₁.row + 1 }, (chainRowOf r₁.desc vals).1,
    (congrArg (·.row + 1) hr :), hrows.trans (congrArg ChainRun.rows hr :), hissuer.trans (congrArg ChainRun.issuer hr :),
    hdesc.trans (congrArg ChainRun.desc hr :), ?_⟩
  exact hexec.trans rfl

end

/-- Settles O43: CHAIN by its body, the engine's events by their equations; a row and a landing keep the engine's outline and,
where no store has a damaged word (log entry 165), the tiles. That the tile goes on past a fenced engine is the model's choice
of log entry 49, which error of a descriptor comes first that of log entry 171. -/
theorem chainProgramsRunRowByRow : Obligations.ChainProgramsRunRowByRow := by
  refine ⟨?_, ?_, ?_⟩
  · rintro s i w x f rfl h
    exact ⟨chain_fenced h, chain_full h, chain_queues h⟩
  · rintro s q x p rest rfl hrun hqueue hgood off wd d hoff hwd hd hhdr hdesc
    refine ⟨fun hbad hrange hclash => ?_, fun b bs hbad => ?_⟩
    · obtain ⟨seeded, hexec⟩ := chainProgramStart_starts hrun hqueue hgood hoff hwd hd hhdr hdesc hbad hrange hclash
      exact ⟨_, hexec, _, State.modQuad_only s q (Quad.startProg · p rest d seeded), fun h => if_pos h⟩
    · refine ⟨_, chainProgramStart_descBad hrun hqueue hgood hoff hwd hd hhdr hdesc hbad, ?_⟩
      have heng := s.chainError_engines q p 0x20 b 0
      obtain ⟨htail, hrun', hvalid, hfirst, hlater⟩ := (s.quad q).refuseProg_fields p 0x20 b 0
      dsimp only
      rw [quad_of_engines heng q, State.modQuad_quad_same]
      refine ⟨by rw [htail, hqueue]; rfl, hrun'.trans hrun, hvalid, hfirst, hlater, fun k hk => ?_, congrArg Prod.fst heng⟩
      exact (quad_of_engines heng k).trans (State.modQuad_quad_other s q _ k hk)
  · rintro s q x r rfl hrun
    refine ⟨fun chk => ⟨_, chainRow_unserved hrun chk, State.modQuad_only s q Quad.stalls⟩,
      fun chk hrow hclear => ⟨_, chainRow_clearing hrun hrow chk hclear, State.modQuad_only s q Quad.stalls⟩,
      fun hrow hclear hs => ?_, chainRow_over hrun, fun hover => ⟨_, chainProgramComplete_lands hrun hover, ?_⟩,
      chainProgramComplete_early hrun⟩
    · replace hs : s.sound := hs
      obtain ⟨r₁, r₂, p, hrow₂, hrows, hissuer, hdesc, hexec⟩ := chainRow_good hrun hrow hclear hs
      refine ⟨_, hexec, ?_⟩
      have hland := State.chainLand_tiles hs q r
      obtain ⟨houtLand, hotherLand⟩ := quad_of_outline (State.chainLand_outline s q r)
      set u := (s.chainLand q r).modQuad q fun x => { x with rowsCnt := x.rowsCnt + 1, run := some r₂ }
      obtain ⟨hout, hother⟩ := quad_of_outline (State.chainOut_outline u q r₁ false p)
      have huq : u.quad q = _ := State.modQuad_quad_same _ q _
      obtain ⟨r', hrun', hr'⟩ := Quad.run_of_outline hout (congrArg Quad.run huq)
      rw [huq] at hout
      refine ⟨r', hrun', (congrArg ChainRun.row hr' :).trans hrow₂, (congrArg ChainRun.rows hr' :).trans hrows,
        (congrArg ChainRun.issuer hr' :).trans hissuer, (congrArg ChainRun.desc hr' :).trans hdesc,
        (congrArg Quad.rowsCnt hout :).trans (congrArg (·.rowsCnt + 1) houtLand :),
        (congrArg Quad.queue hout :).trans (congrArg Quad.queue houtLand :),
        (congrArg Quad.jobBad hout :).trans (congrArg Quad.jobBad houtLand :), fun k hk => ?_,
        (State.chainOut_tiles (hs.of_tiles (t := u) hland) q r₁ false p).trans hland⟩
      exact (hother k hk).trans ((State.modQuad_quad_other _ q _ k hk).trans (hotherLand k hk))
    · obtain ⟨hout, hother⟩ := quad_of_outline (State.chainLand_outline s q r)
      refine ⟨?_, ?_, fun k hk => ?_, fun hs => State.chainLand_tiles hs q r⟩
      · rw [State.modQuad_quad_same]
      · rw [State.modQuad_quad_same]
        exact (congrArg Quad.queue hout :)
      · exact (State.modQuad_quad_other _ q _ k hk).trans (hother k hk)

end Sys2Proof.Machine
end

section
/-! What an opened beat keeps while its boundary's list runs (R179). -/

namespace Sys2Proof.Machine
open Sys2Proof

/-- What a boundary settles of a beat: the ward, the beat's number and period, the ward's dies, and the tiles that went on. -/
structure Opening where
  ward : Nat
  num : W64
  period : W32
  dies : Byte
  awake : List Nat

/-- The registers and fields of a ward that speak of its beat, its dies and its held commands. -/
def Ward.beat (x : Ward) : W64 × W32 × Byte × Nat × Bool × Bool × List HeldOp :=
  (x.num, x.period, x.dies, x.holdSteps, x.closed, x.holding, x.heldOps)

/-- The ward is in the beat that was opened: not held, not closed, and none of its held commands waits its turn. -/
structure Ward.Opened (B : Opening) (x : Ward) : Prop where
  num : x.num = B.num
  period : x.period = B.period
  dies : x.dies = B.dies
  holdSteps : x.holdSteps = 0
  closed : x.closed = false
  holding : x.holding = false
  heldOps : ∀ h ∈ x.heldOps, h.waits = false

theorem Ward.Opened.congr {B : Opening} {x y : Ward} (h : x.Opened B) (hy : y.beat = x.beat) : y.Opened B := by
  simp only [Ward.beat, Prod.mk.injEq] at hy
  obtain ⟨hnum, hperiod, hdies, hsteps, hclosed, hholding, hheld⟩ := hy
  exact ⟨hnum.trans h.num, hperiod.trans h.period, hdies.trans h.dies, hsteps.trans h.holdSteps, hclosed.trans h.closed,
    hholding.trans h.holding, hheld ▸ h.heldOps⟩

theorem Ward.ctxTab_beat (x : Ward) (t : Tab CtxEnt) : Ward.beat { x with ctxTab := t } = x.beat := rfl

theorem Ward.spill_beat (x : Ward) (t : Tab Nat) (n : W16) : Ward.beat { x with spillOwner := t, tieSpills := n } = x.beat := rfl

theorem Ward.freeClaims_beat (x : Ward) (c : Nat) : (x.freeClaims c).beat = x.beat := by
  unfold Ward.freeClaims
  refine foldl_fixes Ward.beat _ (fun y i => ?_) _ x
  split <;> rfl

theorem Ward.setProg_beat (x : Ward) (va len : Nat) (on : Bool) : (x.setProg va len on).beat = x.beat := by
  unfold Ward.setProg
  extract_lets set
  refine foldl_fixes Ward.beat _ (fun y k => ?_) _ x
  extract_lets a e
  refine ite_fixes Ward.beat (fun _ => rfl) fun _ => ite_fixes Ward.beat (fun _ => ?_) fun _ => rfl
  exact ite_fixes Ward.beat (fun _ => rfl) fun _ => rfl

/-- A ward whose job ends is left with a beat that is neither closed nor held. -/
theorem Ward.Opened.endJob {B : Opening} {x : Ward} (h : x.Opened B) (st : WardState) (code : Byte) (lost : Bool) :
    Ward.Opened B { x with
      job := none, jobDigest := 0, st := st, lastJobSt := code, ctxTab := [], lostPos := [], baseState := 0, baseOld := 0, mb := {},
      multi := false, master := false, closed := false, holding := false, markerLost := lost } :=
  ⟨h.num, h.period, h.dies, h.holdSteps, rfl, rfl, h.heldOps⟩

/-- A tile that does not wait for a boundary: fenced, or elsewhere than at BEAT. -/
def Tile.Awake (x : Tile) : Prop := x.health ≠ .fenced → x.st ≠ .atBeat

theorem Tile.Awake.scrubbed {x : Tile} : x.scrubbed.Awake := fun _ => by
  unfold Tile.scrubbed
  simp

/-- The opened beat stands. -/
def State.Opened (B : Opening) (s : State) : Prop := (s.ward B.ward).Opened B ∧ ∀ i ∈ B.awake, (s.tile i).Awake

section
variable {B : Opening} {s t : State} (h : s.Opened B)
include h

/-! ### Updates -/

theorem State.Opened.congr (hw : t.wards = s.wards) (ht : t.tiles = s.tiles) : t.Opened B := by
  unfold State.Opened State.ward State.tile at h ⊢
  rw [hw, ht]
  exact h

theorem State.Opened.still (ht : t.still = s.still) : t.Opened B :=
  h.congr (congrArg State.wards ht :) (congrArg State.tiles ht :)

theorem State.Opened.offStack (ht : t.offStack = s.offStack) : t.Opened B :=
  h.congr (congrArg State.wards ht :) (congrArg State.tiles ht :)

theorem State.Opened.modWard {w : Nat} {f : Ward → Ward} (hf : ∀ x, x.Opened B → (f x).Opened B) : (s.modWard w f).Opened B := by
  refine ⟨?_, h.2⟩
  by_cases hw : B.ward = w
  · subst hw
    rw [State.modWard_ward_same]
    exact hf _ h.1
  · rw [State.modWard_ward_other _ _ _ _ hw]
    exact h.1

/-- An update of a ward that leaves its beat alone. -/
theorem State.modWard_opened {w : Nat} {f : Ward → Ward} (hf : ∀ x, (f x).beat = x.beat) : (s.modWard w f).Opened B :=
  State.Opened.modWard h fun x hx => hx.congr (hf x)

theorem State.Opened.modTile {i : Nat} {f : Tile → Tile} (hf : ∀ x, x.Awake → (f x).Awake) : (s.modTile i f).Opened B := by
  refine ⟨h.1, fun j hj => ?_⟩
  by_cases hji : j = i
  · subst hji
    rw [State.modTile_tile_same]
    exact hf _ (h.2 j hj)
  · rw [State.modTile_tile_other _ _ _ _ hji]
    exact h.2 j hj

theorem State.modQuad_opened {i : Nat} {f : Quad → Quad} : (s.modQuad i f).Opened B := h.congr rfl rfl

theorem State.modChan_opened {i : Nat} {f : Chan → Chan} : (s.modChan i f).Opened B := h.congr rfl rfl

theorem State.modDev_opened {i : Nat} {f : Dev → Dev} : (s.modDev i f).Opened B := h.congr rfl rfl

theorem State.modUpd_opened {i : Nat} {f : Upd → Upd} : (s.modUpd i f).Opened B := h.congr rfl rfl

theorem State.modLink_opened {i : Nat} {f : Link → Link} : (s.modLink i f).Opened B := h.congr rfl rfl

theorem State.modSite_opened {i : Nat} {f : Site → Site} : (s.modSite i f).Opened B := h.congr rfl rfl

theorem State.emit_opened {o : Output} : (s.emit o).Opened B := h.congr rfl rfl

theorem State.wrBytes_opened {pa : Nat} {bs : List Byte} : (s.wrBytes pa bs).Opened B := h.congr rfl rfl

theorem State.clearRange_opened {pa n : Nat} : (s.clearRange pa n).Opened B := h.congr rfl rfl

theorem State.takeFresh_opened : s.takeFresh.2.Opened B := h.congr rfl rfl

theorem State.nextXid_opened : s.nextXid.2.Opened B := h.congr rfl rfl

/-- An update of a tile that leaves its sequencer's state and its health alone. -/
theorem State.modTile_opened {i : Nat} {f : Tile → Tile} (hf : ∀ x, ((f x).st, (f x).health) = (x.st, x.health)) :
    (s.modTile i f).Opened B :=
  State.Opened.modTile h fun x hx => by
    obtain ⟨hst, hhealth⟩ := Prod.mk.inj (hf x)
    unfold Tile.Awake
    rwa [hst, hhealth]

end

section
variable {B : Opening}

theorem Opened.ite {s t : State} {c : Prop} [Decidable c] (hs : s.Opened B) (ht : t.Opened B) : (if c then s else t).Opened B := by
  split
  · exact hs
  · exact ht

theorem Opened.foldlBy {α σ : Type} {g : σ → State} {f : σ → α → σ} (hf : ∀ p a, (g p).Opened B → (g (f p a)).Opened B) {xs : List α}
    {p : σ} (h : (g p).Opened B) : (g (xs.foldl f p)).Opened B := by
  induction xs generalizing p with
  | nil => exact h
  | cons x r ih => exact ih (hf _ _ h)

theorem Opened.forEach {α : Type} {f : State → α → State} (hf : ∀ t a, t.Opened B → (f t a).Opened B) {xs : List α} {s : State}
    (h : s.Opened B) : (forEach xs s f).Opened B := Opened.foldlBy (g := id) hf h

theorem Opened.fst {β α : Type} {f : State × β → α → State × β} (hf : ∀ p a, p.1.Opened B → (f p a).1.Opened B) {xs : List α}
    {p : State × β} (h : p.1.Opened B) : (xs.foldl f p).1.Opened B := Opened.foldlBy (g := Prod.fst) hf h

theorem Opened.snd {β α : Type} {f : β × State → α → β × State} (hf : ∀ p a, p.2.Opened B → (f p a).2.Opened B) {xs : List α}
    {p : β × State} (h : p.2.Opened B) : (xs.foldl f p).2.Opened B := Opened.foldlBy (g := Prod.snd) hf h

end

end Sys2Proof.Machine
end

section
/-! The operations of a boundary leave the beat that it opened as it is: each keeps it because the operations it is made of do. -/

namespace Sys2Proof.Machine
open Sys2Proof

variable {B : Opening} {s : State}

/-! ### Messages, records and memory -/

theorem State.idleFlit_opened {k : Nat} (h : s.Opened B) : (s.idleFlit k).Opened B :=
  Opened.ite h (State.emit_opened (State.modLink_opened h))

theorem State.enqueue_opened {k : Nat} {f : Flit} {p : List Byte} (h : s.Opened B) : (s.enqueue k f p).Opened B :=
  h.still (State.enqueue_still ..)

theorem State.mcPump_opened {n : Nat} {s : State} (h : s.Opened B) : (State.mcPump n s).Opened B := by
  induction n generalizing s with
  | zero => exact h
  | succ n ih =>
    unfold State.mcPump
    split
    · exact h
    · exact Opened.ite (ih (Opened.forEach (fun _ _ ht => State.enqueue_opened ht) (h.congr rfl rfl))) h

theorem State.mcSend_opened {ports : List Nat} {f : Flit} {p : List Byte} (h : s.Opened B) : (s.mcSend ports f p).Opened B :=
  State.mcPump_opened (h.congr rfl rfl)

theorem State.uncount_opened {t : State} (h : t.Opened B) : (s.uncount t).Opened B := h.congr rfl rfl

theorem State.sendXfer_opened {x : Sender} {type vc : Nat} {bs : List Byte} (h : s.Opened B) : (s.sendXfer x type vc bs).Opened B :=
  h.still (State.sendXfer_still ..)

theorem State.sender_opened {w c m : Nat} (h : s.Opened B) : (s.sender w c m).2.Opened B :=
  State.nextXid_opened h

theorem State.sendWrite_opened {w c m va : Nat} {bs : List Byte} (h : s.Opened B) : (s.sendWrite w c m va bs).Opened B :=
  h.still (State.sendWrite_still ..)

theorem State.ctlFlit_opened {a : Nat} (h : s.Opened B) : (s.ctlFlit a).Opened B :=
  h.still (State.ctlFlit_still ..)

theorem State.ctl_opened {a : Nat} {o : Output} (h : s.Opened B) : (s.ctl a o).Opened B :=
  h.still (State.ctl_still ..)

theorem State.mendStore_opened {i off n : Nat} (h : s.Opened B) : (s.mendStore i off n).Opened B :=
  Opened.ite h (State.modTile_opened h (fun _ => by rfl))

theorem State.wrStore_opened {i off : Nat} {bs : List Byte} (h : s.Opened B) : (s.wrStore i off bs).Opened B :=
  State.mendStore_opened (State.wrBytes_opened h)

theorem State.report_opened {r : FRec} (h : s.Opened B) : (s.report r).Opened B :=
  h.still (State.report_still ..)

theorem State.post_opened {k : Nat} {c : Cpl} (h : s.Opened B) : (s.post k c).Opened B :=
  h.still (State.post_still ..)

theorem State.complete_opened {jseq : Nat} {st : St} {detail : W32} (h : s.Opened B) : (s.complete jseq st detail).Opened B :=
  h.still (State.complete_still ..)

theorem State.jobFault_opened {w : Nat} {st : St} (h : s.Opened B) : (s.jobFault w st).Opened B :=
  State.modWard_opened h fun x => by
    cases hjob : x.job <;> rfl

theorem State.losePositions_opened {w c b : Nat} {st : St} {pos : Option Nat} (h : s.Opened B) :
    (s.losePositions w c b st pos).Opened B :=
  State.modWard_opened h (fun _ => by rfl)

theorem State.onSite_opened {i : Nat} {f : Site → Site} (h : s.Opened B) : (s.onSite i f).Opened B := by
  unfold State.onSite
  dsimp only
  split
  · exact Opened.ite (State.modWard_opened (State.modSite_opened h) (fun _ => by rfl)) (State.modSite_opened h)
  · exact State.modSite_opened h

theorem State.addSite_opened {n k : Nat} {d : SiteDelta} (h : s.Opened B) : (s.addSite n k d).Opened B :=
  State.onSite_opened h

theorem State.poisonSec_opened {sec key : Nat} (h : s.Opened B) : (s.poisonSec sec key).Opened B := h.congr rfl rfl

theorem State.writeSec_opened {key pa : Nat} {bs : List Byte} {ward ctx : Nat} (h : s.Opened B) :
    (s.writeSec key pa bs ward ctx).Opened B :=
  h.offStack (State.writeSec_offStack ..)

theorem State.wrHost_opened {slot pa : Nat} {bs : List Byte} (h : s.Opened B) : (s.wrHost slot pa bs).Opened B :=
  h.offStack (State.wrHost_offStack ..)

theorem State.readVa_opened {w c va n : Nat} {uncorr : List Nat} (h : s.Opened B) : (s.readVa w c va n uncorr).1.Opened B :=
  h.offStack (State.readVa_offStack ..)

theorem State.writeVa_opened {w c va : Nat} {bs : List Byte} (h : s.Opened B) : (s.writeVa w c va bs).Opened B := by
  unfold State.writeVa
  dsimp only
  refine Opened.forEach (fun _ _ ht => ?_) h
  split
  · exact ht
  · split
    · exact State.writeSec_opened ht
    · exact State.wrHost_opened ht
    · exact State.sendWrite_opened ht
    · exact State.wrStore_opened ht

theorem State.wrStruct_opened {w va : Nat} {bs : List Byte} (h : s.Opened B) : (s.wrStruct w va bs).Opened B := by
  unfold State.wrStruct
  dsimp only
  refine Opened.forEach (fun _ _ ht => ?_) h
  split
  · exact ht
  · exact Opened.ite (Opened.ite (State.modWard_opened (State.writeSec_opened ht) (fun _ => by rfl)) (State.writeSec_opened ht)) ht

theorem State.freshTag_opened {w c va n : Nat} (h : s.Opened B) : (s.freshTag w c va n).Opened B := by
  refine Opened.forEach (fun t a ht => ?_) h
  dsimp only
  split
  · exact ht
  · exact Opened.ite (ht.congr rfl rfl) ht

theorem State.countFault_opened {w : Nat} (h : s.Opened B) : (s.countFault w).Opened B :=
  State.modWard_opened h (fun _ => by rfl)

/-! ### Tiles -/

theorem State.scrubTile_opened {i : Nat} (h : s.Opened B) : (s.scrubTile i).Opened B :=
  State.mendStore_opened (State.clearRange_opened (State.Opened.modTile h fun _ _ => Tile.Awake.scrubbed))

theorem State.raiseStandIns_opened {w i : Nat} (h : s.Opened B) : (s.raiseStandIns w i).Opened B :=
  Opened.forEach (fun _ _ ht => Opened.ite (State.modTile_opened ht (fun _ => by rfl)) ht) h

theorem State.takeExc_opened {w i cause : Nat} {detail : W32} (h : s.Opened B) : (s.takeExc w i cause detail).Opened B :=
  State.jobFault_opened (State.raiseStandIns_opened (State.report_opened (State.Opened.modTile h fun _ _ _ => by simp)))

theorem State.checkPc_opened {w i : Nat} (h : s.Opened B) : (s.checkPc w i).Opened B :=
  Opened.ite (State.takeExc_opened h) h

/-! ### Registry, blocks and sequences -/

theorem State.setReg_opened {w c : Nat} {f : RegEnt → RegEnt} (h : s.Opened B) : (s.setReg w c f).Opened B :=
  State.wrStruct_opened (State.modWard_opened h (fun _ => by rfl))

theorem State.setBlk_opened {w b : Nat} {f : Blk → Blk} (h : s.Opened B) : (s.setBlk w b f).Opened B :=
  State.wrStruct_opened (State.modWard_opened h (fun _ => by rfl))

theorem State.setSq_opened {w i : Nat} {f : Sq → Sq} (h : s.Opened B) : (s.setSq w i f).Opened B :=
  State.modWard_opened h (fun _ => by rfl)

theorem State.setCtxEnt_opened {w k : Nat} {e : CtxEnt} (h : s.Opened B) : (s.setCtxEnt w k e).Opened B :=
  State.wrStruct_opened (State.modWard_opened h (fun _ => by rfl))

theorem State.dieEvent_opened {w d what arg : Nat} {st : St} (h : s.Opened B) : (s.dieEvent w d what arg st).Opened B :=
  State.emit_opened (State.takeFresh_opened h)

theorem State.event_opened {w what arg : Nat} {st : St} (h : s.Opened B) : (s.event w what arg st).Opened B :=
  State.dieEvent_opened h

theorem State.giveBlock_opened {w i b o st : Nat} {prev : Option Nat} (h : s.Opened B) : (s.giveBlock w i b o st prev).Opened B := by
  unfold State.giveBlock
  dsimp only
  refine Opened.forEach (fun _ _ ht => State.freshTag_opened ht) ?_
  split
  · exact State.setBlk_opened (State.setBlk_opened h)
  · exact State.setSq_opened (State.setBlk_opened h)

theorem State.giveBlocks_opened {w i o n st : Nat} (h : s.Opened B) : (s.giveBlocks w i o n st).Opened B :=
  Opened.fst (fun _ _ ht => State.giveBlock_opened ht) h

theorem State.freeBlocksOf_opened {w i : Nat} {p : Nat → Bool} (h : s.Opened B) : (s.freeBlocksOf w i p).Opened B :=
  Opened.forEach (fun _ _ ht => State.setBlk_opened ht) h

theorem State.freeSpillOf_opened {w i : Nat} (h : s.Opened B) : (s.freeSpillOf w i).Opened B :=
  State.setSq_opened (State.modWard_opened h (fun _ => by rfl))

theorem State.devIssue_opened {d : Nat} {op : DevOp} (h : s.Opened B) : (s.devIssue d op).Opened B :=
  State.modDev_opened h

theorem State.devDrop_opened {w : Nat} {p : DevOp → Bool} (h : s.Opened B) : (s.devDrop w p).Opened B :=
  Opened.forEach (fun _ _ ht => State.modDev_opened ht) h

theorem State.pfDone_opened {w k : Nat} (h : s.Opened B) : (s.pfDone w k).Opened B :=
  State.modWard_opened h fun x => by
    cases hjob : x.job <;> rfl

theorem State.endSeq_opened {w i : Nat} {st : St} {endc : Nat} (h : s.Opened B) : (s.endSeq w i st endc).Opened B := by
  unfold State.endSeq
  extract_lets q s1 s2 s3 s4 s5
  have h1 : s1.Opened B := Opened.ite h (State.devDrop_opened h)
  have h2 : s2.Opened B := State.freeSpillOf_opened (State.freeBlocksOf_opened h1)
  have h3 : s3.Opened B := Opened.ite h2 (State.setReg_opened h2)
  exact Opened.ite h (State.post_opened (State.modWard_opened (State.setSq_opened h3) (fun _ => by rfl)))

theorem State.markSeq_opened {w i : Nat} {st : St} {endc : Nat} {now : Bool} (h : s.Opened B) : (s.markSeq w i st endc now).Opened B :=
  State.setSq_opened h

theorem State.markCtx_opened {w : Nat} {p : Sq → Bool} {st : St} {endc : Nat} {now : Bool} (h : s.Opened B) :
    (s.markCtx w p st endc now).Opened B :=
  Opened.forEach (fun _ _ ht => State.markSeq_opened ht) h

/-! ### Images in the hot region and admission -/

theorem State.allocHot_opened {w c n : Nat} (h : s.Opened B) : (s.allocHot w c n).2.Opened B :=
  Opened.forEach (fun _ _ ht => State.freshTag_opened ht) (State.modWard_opened h (fun _ => by rfl))

theorem State.freeHotList_opened {w : Nat} {ch : List Nat} (h : s.Opened B) : (s.freeHotList w ch).Opened B :=
  State.modWard_opened h (fun _ => by rfl)

theorem State.freeCopy_opened {w c k : Nat} (h : s.Opened B) : (s.freeCopy w c k).Opened B :=
  State.setReg_opened (State.freeHotList_opened h)

theorem State.evictFor_opened {w n : Nat} {vs : List Nat} {s : State} (h : s.Opened B) : (State.evictFor w n vs s).Opened B := by
  induction vs generalizing s with
  | nil => exact h
  | cons v r ih =>
    unfold State.evictFor
    exact Opened.ite h (ih (State.event_opened (State.modWard_opened (State.setReg_opened (State.freeCopy_opened h)) (fun _ => by rfl))))

theorem State.tryCopy_opened {w c k : Nat} {src : Addr} {use : DevFor} (h : s.Opened B) : (s.tryCopy w c k src use).Opened B :=
  Opened.ite (State.evictFor_opened h) (State.devIssue_opened (State.setReg_opened (State.allocHot_opened (State.evictFor_opened h))))

theorem State.loadAdapter_opened {w c : Nat} (h : s.Opened B) : (s.loadAdapter w c).Opened B :=
  Opened.ite h (State.event_opened (State.tryCopy_opened (State.modWard_opened (State.setReg_opened h) (fun _ => by rfl))))

theorem State.roomCopy_opened {w c k : Nat} {x : List Nat × State} (h : s.Opened B) (hx : s.roomCopy w c k = some x) :
    x.2.Opened B := by
  unfold State.roomCopy at hx
  extract_lets e n t at hx
  split at hx
  · cases hx
  · cases hx
    exact State.setReg_opened (State.allocHot_opened (State.evictFor_opened h))

theorem State.tryPublish_opened {w c k : Nat} (h : s.Opened B) : (s.tryPublish w c k).Opened B := by
  unfold State.tryPublish
  cases hx : s.roomCopy w c (1 - ((s.ward w).registry.get c).liveCopy) with
  | none => exact h
  | some x => exact State.setReg_opened (State.devIssue_opened (State.roomCopy_opened h hx))

theorem State.retryCopies_opened {w : Nat} (h : s.Opened B) : (s.retryCopies w).Opened B := by
  refine Opened.forEach (fun t c ht => ?_) h
  extract_lets e u e'
  have hu : u.Opened B := Opened.ite (State.tryCopy_opened ht) ht
  refine Opened.ite ?_ hu
  split
  · exact State.tryPublish_opened hu
  · exact State.setReg_opened (State.tryCopy_opened hu)

theorem State.preempt_opened {w i : Nat} (h : s.Opened B) : (s.preempt w i).Opened B := by
  unfold State.preempt
  extract_lets x q bs n ch p s1 s2 s3 s4
  have h1 : s1.Opened B := State.modWard_opened h fun x => x.spill_beat _ _
  have h2 : s2.Opened B := State.setSq_opened h1
  have h3 : s3.Opened B := Opened.forEach (fun _ _ ht => State.setBlk_opened ht) h2
  have h4 : s4.Opened B := Opened.forEach (fun _ _ ht => State.devIssue_opened ht) h3
  exact Opened.ite (State.endSeq_opened h) (State.event_opened h4)

theorem State.freeSpilled_opened {w : Nat} (h : s.Opened B) : (s.freeSpilled w).Opened B :=
  Opened.forEach (fun _ _ ht => State.setBlk_opened ht) h

theorem State.stepEnd_opened {w b : Nat} (h : s.Opened B) : (s.stepEnd w b).Opened B := by
  unfold State.stepEnd
  extract_lets s1 x rows s2 tr
  have h1 : s1.Opened B := by
    refine Opened.forEach (fun t a ht => ?_) h
    have hsq (f : Sq → Sq) : (t.setSq w a.1 f).Opened B := State.setSq_opened ht
    exact Opened.ite (State.markSeq_opened (hsq _)) (Opened.ite (State.markSeq_opened (hsq _)) (hsq _))
  have h2 : s2.Opened B := Opened.ite (State.modWard_opened h1 (fun _ => by rfl)) h1
  exact Opened.forEach (fun _ _ ht => Opened.ite (State.setReg_opened ht) ht) h2

theorem State.hinges_opened {w t : Nat} {p : JobProg} (h : s.Opened B) : (s.hinges w p t).Opened B := by
  unfold State.hinges
  extract_lets s1 x n
  have h1 : s1.Opened B := Opened.forEach (fun _ _ ht => State.event_opened (State.setReg_opened ht)) h
  exact Opened.ite (State.event_opened (State.modWard_opened h1 (fun _ => by rfl))) h1

theorem State.freeOld_opened {w : Nat} (h : s.Opened B) : (s.freeOld w).Opened B := by
  unfold State.freeOld
  extract_lets t x
  have ht : t.Opened B := by
    refine Opened.forEach (fun u c hu => ?_) h
    extract_lets e u1 u2 u3 u4 u5
    have h1 : u1.Opened B := Opened.ite (State.freeCopy_opened hu) hu
    have h4 : u4.Opened B :=
      State.modWard_opened (State.freeCopy_opened (State.freeCopy_opened (State.devDrop_opened h1))) fun x => x.freeClaims_beat c
    exact Opened.ite (Opened.forEach (fun _ _ hv => State.complete_opened hv) (State.event_opened (State.setReg_opened h4))) h1
  exact Opened.ite (State.modWard_opened ht (fun _ => by rfl)) ht

theorem State.release_opened {w : Nat} {g : Option Nat} (h : s.Opened B) : (s.release w g).Opened B := by
  unfold State.release
  dsimp only
  refine State.freeOld_opened ?_
  refine Opened.forEach (fun _ _ ht => ?_) h
  split
  · exact State.endSeq_opened ht
  · exact ht

theorem State.squeeze_opened {w g n : Nat} {s : State} (h : s.Opened B) : (State.squeeze w g n s).Opened B := by
  induction n generalizing s with
  | zero => exact h
  | succ n ih =>
    unfold State.squeeze
    refine Opened.ite h ?_
    split
    · exact h
    · exact ih (State.preempt_opened h)

theorem State.growOne_opened {w : Nat} {e : Nat × Sq} (h : s.Opened B) : (s.growOne w e).Opened B :=
  Opened.ite (State.setSq_opened (State.giveBlocks_opened h)) (State.modWard_opened (State.setSq_opened h) (fun _ => by rfl))

theorem State.growth_opened {w : Nat} {g : Option Nat} (h : s.Opened B) : (s.growth w g).2.Opened B := by
  unfold State.growth
  dsimp only
  split
  · exact h
  · exact Opened.forEach (fun _ _ ht => State.growOne_opened ht) (Opened.ite (State.squeeze_opened h) h)

theorem State.seat_opened {w i b : Nat} {r : Nat × Nat} (h : s.Opened B) : (s.seat w i b r).Opened B :=
  State.setSq_opened h

theorem State.restore_opened {w i : Nat} (h : s.Opened B) : (s.restore w i).Opened B :=
  Opened.forEach (fun _ _ ht => State.devIssue_opened ht) (State.setSq_opened (State.giveBlocks_opened h))

theorem State.admitAll_opened {w t : Nat} {p : JobProg} {ending : Bool} {is : List Nat} {s : State} (h : s.Opened B) :
    (State.admitAll w p t ending is s).Opened B := by
  induction is generalizing s with
  | nil => exact h
  | cons i r ih =>
    unfold State.admitAll
    refine Opened.ite (ih h) (Opened.ite (ih (State.loadAdapter_opened h)) ?_)
    split
    · exact ih h
    · split
      · exact ih h
      · exact Opened.ite h (Opened.ite
          (ih (State.setReg_opened (State.seat_opened (State.setSq_opened (State.giveBlocks_opened h))))) (ih (State.restore_opened h)))

theorem State.joinRestored_opened {w : Nat} {p : JobProg} {t : Nat} (h : s.Opened B) : (s.joinRestored w p t).Opened B := by
  unfold State.joinRestored
  dsimp only
  refine Opened.forEach (fun _ _ ht => ?_) h
  split
  · exact ht
  · split
    · exact ht
    · exact State.seat_opened (State.setSq_opened (State.freeSpillOf_opened (Opened.forEach (fun _ _ hu => State.setBlk_opened hu) ht)))

theorem State.admission_opened {w : Nat} {p : JobProg} {t : Nat} {may : Bool} (h : s.Opened B) : (s.admission w p t may).Opened B :=
  Opened.ite (State.modWard_opened (State.joinRestored_opened h) (fun _ => by rfl)) (State.admitAll_opened (State.joinRestored_opened h))

theorem State.writeRow_opened {w : Nat} {p : JobProg} {b : Nat} (h : s.Opened B) : (s.writeRow w p b).Opened B :=
  State.modWard_opened (Opened.forEach (fun _ _ ht => State.modWard_opened ht (fun _ => by rfl))
    (Opened.forEach (fun _ _ ht => State.setReg_opened ht) (Opened.forEach (fun _ _ ht => State.setCtxEnt_opened ht) h))) (fun _ => by rfl)

theorem State.poolMark_opened {w : Nat} (h : s.Opened B) : (s.poolMark w).Opened B :=
  State.modWard_opened h (fun _ => by rfl)

theorem State.hotLoads_opened {w : Nat} (h : s.Opened B) : (s.hotLoads w).Opened B :=
  Opened.forEach (fun _ _ ht => State.setReg_opened ht) h

theorem State.serveHinges_opened {w : Nat} {p : JobProg} {t : Nat} (h : s.Opened B) : (s.serveHinges w p t).Opened B := by
  unfold State.serveHinges
  dsimp only
  refine State.hinges_opened ?_
  split
  · exact State.stepEnd_opened (State.hotLoads_opened (State.freeSpilled_opened h))
  · exact State.hotLoads_opened (State.freeSpilled_opened h)

/-! ### Training records and slices -/

theorem State.modTrain_opened {w c : Nat} {f : Train → Train} (h : s.Opened B) : (s.modTrain w c f).Opened B :=
  State.modWard_opened h (fun _ => by rfl)

theorem State.rdF_opened {w c va n : Nat} (h : s.Opened B) : (s.rdF w c va n).1.Opened B := by
  unfold State.rdF
  exact State.readVa_opened h

theorem State.wrF_opened {w c va : Nat} {xs : List W32} (h : s.Opened B) : (s.wrF w c va xs).Opened B :=
  State.writeVa_opened h

theorem State.zeroVa_opened {w c va n : Nat} (h : s.Opened B) : (s.zeroVa w c va n).Opened B :=
  State.writeVa_opened h

theorem State.freeVa_opened {w c va n : Nat} (h : s.Opened B) : (s.freeVa w c va n).Opened B :=
  State.writeVa_opened (h.congr rfl rfl)

theorem State.clearAcc_opened {w c : Nat} (h : s.Opened B) : (s.clearAcc w c).Opened B :=
  Opened.forEach (fun _ _ ht => State.zeroVa_opened ht) h

theorem State.stepReport_opened {w c n : Nat} {st : Byte} {rolled : Bool} (h : s.Opened B) : (s.stepReport w c n st rolled).Opened B :=
  Opened.ite (State.event_opened (State.modTrain_opened (State.writeVa_opened h)))
    (State.report_opened (State.event_opened (State.modTrain_opened (State.writeVa_opened h))))

theorem State.updIdle_opened {w c : Nat} (h : s.Opened B) : (s.updIdle w c).Opened B :=
  Opened.forEach (fun _ _ ht => Opened.ite (State.modUpd_opened ht) ht) h

theorem State.updWork_opened {w c : Nat} {k : UpdWork} (h : s.Opened B) : (s.updWork w c k).Opened B :=
  Opened.forEach (fun _ _ ht => State.modUpd_opened ht) h

theorem State.dropRows_opened {w c : Nat} (h : s.Opened B) : (s.dropRows w c).Opened B :=
  State.modWard_opened h (fun _ => by rfl)

theorem State.freeSwap_opened {w c : Nat} (h : s.Opened B) : (s.freeSwap w c).Opened B :=
  State.modTrain_opened (State.modWard_opened h (fun _ => by rfl))

theorem State.endTraining_opened {w c : Nat} (h : s.Opened B) : (s.endTraining w c).Opened B := by
  unfold State.endTraining
  dsimp only
  refine Opened.forEach (fun _ _ ht => State.complete_opened ht) ?_
  split
  · exact State.complete_opened (State.setReg_opened (State.modWard_opened (State.freeSwap_opened (State.updIdle_opened h)) (fun _ => by rfl)))
  · exact State.setReg_opened (State.modWard_opened (State.freeSwap_opened (State.updIdle_opened h)) (fun _ => by rfl))

theorem State.abandonStep_opened {w c : Nat} {st : Byte} {rolled : Bool} (h : s.Opened B) : (s.abandonStep w c st rolled).Opened B := by
  unfold State.abandonStep
  extract_lets s1 s2
  have h1 : s1.Opened B := State.dropRows_opened (State.updIdle_opened (State.stepReport_opened h))
  have h2 : s2.Opened B := State.modTrain_opened (State.clearAcc_opened h1)
  exact Opened.ite (State.endTraining_opened h2) h2

theorem State.faultTraining_opened {w c : Nat} {st : St} (h : s.Opened B) : (s.faultTraining w c st).Opened B := by
  unfold State.faultTraining
  extract_lets s1 s2
  have h1 : s1.Opened B := State.dropRows_opened (State.updIdle_opened (State.stepReport_opened h))
  have h2 : s2.Opened B := State.modTrain_opened (State.clearAcc_opened h1)
  exact Opened.ite (State.endTraining_opened h2) h2

theorem State.dropTraining_opened {w : Nat} {st : Byte} (h : s.Opened B) : (s.dropTraining w st).Opened B :=
  Opened.forEach (fun _ _ ht => State.endTraining_opened (Opened.ite (State.stepReport_opened ht) ht)) h

theorem State.addBlocks_opened {d n : Nat} {bs : List (Nat × Nat × SiteDelta)} (h : s.Opened B) : (s.addBlocks d n bs).Opened B :=
  Opened.forEach (fun _ _ ht => State.addSite_opened ht) h

theorem State.accSlice_opened {w d : Nat} {e : SliceEnt} (h : s.Opened B) : (s.accSlice w d e).Opened B := by
  unfold State.accSlice
  dsimp only
  refine Opened.ite h ?_
  split
  · exact State.modTrain_opened h
  · exact Opened.ite (State.modTrain_opened h) (Opened.ite
      (State.modTrain_opened (State.modUpd_opened (State.wrF_opened (State.rdF_opened h))))
      (State.modUpd_opened (State.wrF_opened (State.rdF_opened h))))

theorem State.accSlices_opened {w t : Nat} (h : s.Opened B) : (s.accSlices w t).Opened B := by
  unfold State.accSlices
  dsimp only
  split
  · exact h
  · exact Opened.forEach (fun _ _ ht => Opened.forEach (fun _ _ hu => State.accSlice_opened hu) ht) h

/-! ### DMA channels -/

theorem copyUnit_opened {w : Nat} {d : Desc} {un : List Nat} {o : DOut} {i : List Nat} (h : o.s.Opened B) :
    (copyUnit w d un o i).s.Opened B := by
  unfold copyUnit
  extract_lets si va
  split
  · split <;> exact h
  · exact State.readVa_opened h

theorem packElems_opened {w : Nat} {d : Desc} {un : List Nat} {is : List (List Nat)} (h : s.Opened B) :
    (packElems w d un s is).1.Opened B := by
  refine Opened.fst (fun p i hp => ?_) h
  dsimp only
  split
  · exact State.readVa_opened hp
  · exact hp

theorem packPlate_opened {w : Nat} {d : Desc} {un : List Nat} {o : DOut} {n : Nat} (h : o.s.Opened B) :
    (packPlate w d un o n).s.Opened B := by
  unfold packPlate
  extract_lets i va sq
  split
  · split <;> exact h
  · refine Opened.fst (p := (o.s, ([] : List Conv), o.gen)) (fun p a hp => ?_) h
    exact packElems_opened hp

theorem unpackElem_opened {w : Nat} {d : Desc} {un : List Nat} {o : DOut} {i : List Nat} (h : o.s.Opened B) :
    (unpackElem w d un o i).s.Opened B := by
  unfold unpackElem
  extract_lets va
  split
  · split <;> exact h
  · exact State.readVa_opened h

theorem skewVec_opened {w : Nat} {d : Desc} {un : List Nat} {o : DOut} {v : Nat} (h : o.s.Opened B) :
    (skewVec w d un o v).1.s.Opened B := by
  unfold skewVec
  extract_lets tail
  split
  · exact State.readVa_opened h
  · refine Opened.foldlBy (g := fun p : DOut × List Byte × List Byte × Bool => p.1.s) (fun p j hp => ?_) h
    dsimp only
    split <;> exact packElems_opened hp

theorem dmaPlan_opened {w : Nat} {d : Desc} {gen : W32} {jb : Nat} {un : List Nat} (h : s.Opened B) :
    (dmaPlan s w d gen jb un).s.Opened B := by
  unfold dmaPlan
  extract_lets seeded g o
  split
  · exact Opened.foldlBy (g := DOut.s) (fun _ _ hp => packPlate_opened hp) h
  · exact Opened.foldlBy (g := DOut.s) (fun _ _ hp => unpackElem_opened hp) h
  · exact Opened.foldlBy (g := fun p : DOut × List (List Byte × List Byte × Bool) => p.1.s) (fun _ _ hp => skewVec_opened hp) h
  · exact Opened.foldlBy (g := DOut.s) (fun _ _ hp => copyUnit_opened hp) h

theorem State.someBlocks_opened {n : Nat} {out : Bool} {ds : List SiteDelta} (h : s.Opened B) : (s.someBlocks n out ds).1.Opened B := by
  unfold State.someBlocks
  dsimp only
  split
  · exact State.Opened.congr (State.takeFresh_opened h) rfl rfl
  · exact State.takeFresh_opened h

theorem State.countPart_opened {c w : Nat} (h : s.Opened B) : (s.countPart c w).Opened B := by
  unfold State.countPart
  dsimp only
  split
  · exact h
  · exact Opened.ite (State.modChan_opened (State.addSite_opened (State.someBlocks_opened h))) h

theorem State.mixBytes_opened {w c va : Nat} {bs : List Byte} {pick : Nat → Bool} (h : s.Opened B) :
    (s.mixBytes w c va bs pick).2.Opened B := by
  unfold State.mixBytes
  dsimp only
  split
  · exact h.congr rfl rfl
  · exact h

theorem State.dmaWrite_opened {w c : Nat} {mix : Bool} {reads : List (Nat × Nat)} {x : DWr} (h : s.Opened B) :
    (s.dmaWrite w c mix reads x).Opened B := by
  unfold State.dmaWrite
  dsimp only
  split
  · refine Opened.forEach (fun _ _ ht => ?_) ?_
    · refine Opened.ite ?_ ht
      split
      · exact Opened.ite (State.poisonSec_opened ht) ht
      · exact ht
    · refine State.writeVa_opened ?_
      split
      · exact State.mixBytes_opened h
      · exact h
  · refine State.writeVa_opened ?_
    split
    · exact State.mixBytes_opened h
    · exact h

theorem State.chanIrq_opened {c : Nat} (h : s.Opened B) : (s.chanIrq c).Opened B :=
  State.Opened.still (s := s.modChan c _) (State.modChan_opened h) (State.chanIrq_still s c)

theorem State.chanRecord_opened {c w scope : Nat} {st : St} {cause ctx va : Nat} {word0 : W64} (h : s.Opened B) :
    (s.chanRecord c w scope st cause ctx va word0).Opened B :=
  State.report_opened h

theorem State.openWrites_opened {ws : List DWr} (h : s.Opened B) : (s.openWrites ws).2.Opened B := by
  unfold State.openWrites
  refine Opened.snd (p := (([] : List DWr), s)) (fun p x hp => ?_) h
  exact hp.congr rfl rfl

theorem State.mixDesc_opened {c w : Nat} (h : s.Opened B) : (s.mixDesc c w).Opened B := by
  unfold State.mixDesc
  split
  · exact h
  · next d _ =>
    extract_lets o
    have ho : o.s.Opened B := dmaPlan_opened h
    have hopen (q : Bool) : (if q then o.s.openWrites o.ws else (o.ws, o.s)).2.Opened B := by
      cases q
      · exact ho
      · exact State.openWrites_opened ho
    have hwrites (p : List DWr × State) (hp : p.2.Opened B) :
        (forEach p.1 (p.2.countPart c w) fun s x => s.dmaWrite w d.ctx true [] x).Opened B :=
      Opened.forEach (fun _ _ ht => State.dmaWrite_opened ht) (State.countPart_opened hp)
    dsimp only
    refine State.modChan_opened (State.takeFresh_opened ?_)
    exact Opened.ite (hwrites _ (hopen _)) (State.freeVa_opened (hwrites _ (hopen _)))

theorem State.nextDesc_opened {c : Nat} (h : s.Opened B) : (s.nextDesc c).Opened B :=
  Opened.ite (State.chanIrq_opened (State.modChan_opened (State.modChan_opened h))) (State.modChan_opened h)

theorem State.squashRun_opened {c w : Nat} {st : St} (h : s.Opened B) : (s.squashRun c w st).Opened B :=
  Opened.ite (State.modChan_opened (State.mixDesc_opened h)) h

theorem State.squashDesc_opened {k w c : Nat} {st : St} (h : s.Opened B) : (s.squashDesc k w c st).Opened B := by
  unfold State.squashDesc
  dsimp only
  split
  · exact Opened.ite (State.nextDesc_opened (State.chanRecord_opened (State.modChan_opened (State.mixDesc_opened h)))) h
  · exact h

/-! ### The end of a job, a key and a ward -/

theorem State.clearDist_opened {w : Nat} {st : St} {detail : W32} (h : s.Opened B) : (s.clearDist w st detail).Opened B := by
  unfold State.clearDist
  split
  · exact h
  · extract_lets t
    have ht : t.Opened B := State.modWard_opened h (fun _ => by rfl)
    exact State.complete_opened (State.event_opened (ht.congr rfl rfl))

theorem State.dropBuild_opened {w c : Nat} {st : St} (h : s.Opened B) : (s.dropBuild w c st).Opened B := by
  unfold State.dropBuild
  extract_lets e s1 s2 s3 s4
  have h1 : s1.Opened B := Opened.ite (State.clearDist_opened h) h
  have h2 : s2.Opened B := State.devDrop_opened h1
  have h4 : s4.Opened B := State.setReg_opened (Opened.ite (State.freeCopy_opened h2) h2)
  refine Opened.ite h1 ?_
  split
  · exact State.complete_opened h4
  · exact h4

theorem State.dropBase_opened {w : Nat} {st : St} (h : s.Opened B) : (s.dropBase w st).Opened B := by
  unfold State.dropBase
  dsimp only
  split
  · exact State.complete_opened (State.modWard_opened (Opened.ite (State.clearDist_opened h) h) (fun _ => by rfl))
  · exact State.modWard_opened (Opened.ite (State.clearDist_opened h) h) (fun _ => by rfl)

theorem State.endDist_opened {w : Nat} {st : St} {detail : W32} (h : s.Opened B) : (s.endDist w st detail).Opened B := by
  unfold State.endDist
  dsimp only
  split
  · exact h
  · exact Opened.ite (State.clearDist_opened h) (Opened.ite (State.dropBase_opened (State.clearDist_opened h))
      (State.dropBuild_opened (State.clearDist_opened h)))

theorem State.devLost_opened {w : Nat} {st : St} {o : DevOp} (h : s.Opened B) : (s.devLost w st o).Opened B := by
  unfold State.devLost
  split
  · exact State.markSeq_opened h
  · exact State.markSeq_opened h
  · exact State.setReg_opened (State.freeCopy_opened h)
  · exact State.dropBuild_opened h
  · exact State.setReg_opened (State.freeSwap_opened h)
  · exact State.setReg_opened (State.modTrain_opened h)
  · exact State.pfDone_opened h

theorem State.squashCtx_opened {w c : Nat} {st : St} (h : s.Opened B) : (s.squashCtx w c st).Opened B :=
  Opened.forEach (fun _ _ ht => State.devLost_opened ht)
    (State.devDrop_opened (Opened.forEach (fun _ _ ht => State.squashDesc_opened ht) h))

theorem State.scrubWard_opened {w : Nat} (h : s.Opened B) : (s.scrubWard w).Opened B := by
  unfold State.scrubWard
  extract_lets x s1 s2 s3 s4
  have h1 : s1.Opened B := Opened.forEach (fun _ _ ht => State.scrubTile_opened ht) h
  have h2 : s2.Opened B := Opened.forEach (fun _ _ ht => State.modQuad_opened ht) h1
  have h3 : s3.Opened B := Opened.forEach (fun _ _ ht => State.modChan_opened ht) h2
  have h4 : s4.Opened B := Opened.forEach (fun _ _ ht => State.modUpd_opened (State.modDev_opened ht)) h3
  exact State.modWard_opened (h4.congr rfl rfl) (fun _ => by rfl)

theorem State.dropEarly_opened {w : Nat} (h : s.Opened B) : (s.dropEarly w).Opened B :=
  Opened.forEach (fun _ _ ht => State.modLink_opened ht) h

theorem State.stopJob_opened {w : Nat} {st seqSt : St} {endc : Nat} (h : s.Opened B) : (s.stopJob w st seqSt endc).Opened B := by
  unfold State.stopJob
  split
  · exact h
  · next j _ =>
    extract_lets u1 lost u2 u3 u4 u5 u6 u7 u8 u9 u10 u11 held u12 u13 u14
    have h2 : u2.Opened B := State.devDrop_opened (Opened.forEach (fun _ _ ht => State.squashRun_opened ht) h)
    have h3 : u3.Opened B := by
      refine Opened.forEach (fun t o ht => ?_) h2
      split
      · exact ht
      · exact ht
      · exact ht
      · exact State.devLost_opened ht
    have h5 : u5.Opened B := State.dropTraining_opened (Opened.forEach (fun _ _ ht => State.endSeq_opened ht) h3)
    have h6 : u6.Opened B := by
      refine Opened.forEach (fun t c ht => ?_) h5
      extract_lets t1 t2
      have ht2 : t2.Opened B :=
        Opened.ite (State.dropBuild_opened ht) (State.setReg_opened (State.freeCopy_opened (State.dropBuild_opened ht)))
      exact Opened.ite (State.setReg_opened (State.freeCopy_opened ht2)) ht2
    have h8 : u8.Opened B := State.scrubWard_opened (State.dropBase_opened (State.endDist_opened h6))
    have h9 : u9.Opened B := State.Opened.modWard (State.dropEarly_opened h8) fun x hx =>
      (hx.congr (x.setProg_beat j.program.toNat j.len false)).endJob _ _ _
    have h10 : u10.Opened B := Opened.forEach (fun _ _ ht => Opened.ite (State.modTile_opened ht (fun _ => by rfl)) ht) h9
    have h11 : u11.Opened B := h10.congr rfl rfl
    have h12 : u12.Opened B := by
      refine Opened.forEach (fun _ _ ht => State.complete_opened ht) (State.Opened.modWard h11 fun x hx => ?_)
      exact ⟨hx.num, hx.period, hx.dies, hx.holdSteps, hx.closed, hx.holding, fun h hh => hx.heldOps h (List.mem_filter.mp hh).1⟩
    have h13 : u13.Opened B := Opened.forEach (fun _ _ ht => State.complete_opened ht) (Opened.ite h12 (State.complete_opened h12))
    exact State.post_opened (State.freeOld_opened h13)

theorem State.faultNow_opened {w : Nat} {st : St} (h : s.Opened B) : (s.faultNow w st).Opened B :=
  State.stopJob_opened h

theorem State.retireKey_opened {slot : Nat} (h : s.Opened B) : (s.retireKey slot).Opened B := by
  unfold State.retireKey
  extract_lets x t secs u v gone y
  have hu : u.Opened B := h.congr rfl rfl
  have hv : v.Opened B := Opened.forEach (fun _ _ ht => State.squashCtx_opened ht) hu
  exact Opened.forEach (fun _ _ ht => State.complete_opened ht) (hv.congr rfl rfl)

theorem State.retireStep_opened {r : Retire} (h : s.Opened B) : (s.retireStep r).Opened B := by
  unfold State.retireStep
  extract_lets w t
  have ht : t.Opened B := by
    refine Opened.forEach (fun u c hu => ?_) h
    extract_lets u1 tr u2 u3 u4 e u5 u6 u7
    have h1 : u1.Opened B := Opened.forEach (fun _ _ hv => State.endSeq_opened hv) hu
    have h2 : u2.Opened B := Opened.ite (State.stepReport_opened h1) h1
    have h5 : u5.Opened B :=
      State.freeCopy_opened (State.freeCopy_opened (State.dropBuild_opened (State.dropRows_opened (State.endTraining_opened h2))))
    have h6 : u6.Opened B := State.modWard_opened h5 fun x => (Ward.ctxTab_beat (x.freeClaims c) _).trans (x.freeClaims_beat c)
    exact Opened.forEach (fun _ _ hv => State.complete_opened hv) (State.setReg_opened h6)
  refine Opened.forEach (fun _ _ hu => Opened.forEach (fun _ _ hv => ?_) hu) ht
  exact State.mendStore_opened (State.clearRange_opened (State.modTile_opened hv (fun _ => by rfl)))

theorem State.retireSteps_opened {w : Nat} (h : s.Opened B) : (s.retireSteps w).Opened B :=
  State.Opened.congr (Opened.forEach (fun _ _ ht => State.retireStep_opened ht) h) rfl rfl

theorem State.zeroCarve_opened {lo n : Nat} (h : s.Opened B) : (s.zeroCarve lo n).Opened B := h.congr rfl rfl

theorem State.wardLoss_opened {w : Nat} {poison : Bool} (h : s.Opened B) : (s.wardLoss w poison).Opened B := by
  unfold State.wardLoss
  extract_lets st u1 u2 u3 u4 open' u5 u6 x z u7 u8 u9
  have h4 : u4.Opened B := State.dropTraining_opened (Opened.forEach (fun _ _ ht => State.endSeq_opened ht)
    (Opened.forEach (fun _ _ ht => State.squashRun_opened ht) (State.faultNow_opened h)))
  have h6 : u6.Opened B := State.dropBase_opened (State.endDist_opened (Opened.forEach (fun _ _ ht => State.dropBuild_opened ht) h4))
  have h7 : u7.Opened B := Opened.ite h6 (State.wrStruct_opened h6)
  have h8 : u8.Opened B := Opened.ite h7 (State.wrStruct_opened h7)
  have h9 : u9.Opened B := Opened.ite h8 (State.wrStruct_opened h8)
  split
  extract_lets u10 u11 u12 u13 u14 u15
  have h11 : u11.Opened B := Opened.forEach (fun _ _ ht => State.retireKey_opened ht)
    (State.zeroCarve_opened (State.zeroCarve_opened h9))
  have h13 : u13.Opened B := State.scrubWard_opened (State.modWard_opened h11 (fun _ => by rfl))
  have h14 : u14.Opened B := h13.congr rfl rfl
  exact State.modWard_opened (Opened.forEach (fun _ _ ht => State.complete_opened ht) h14) (fun _ => by rfl)

theorem State.startReset_opened {w : Nat} {poison : Bool} {jseq : Option Nat} (h : s.Opened B) :
    (s.startReset w poison jseq).Opened B := by
  unfold State.startReset
  extract_lets x t
  have ht : t.Opened B := State.modWard_opened h (fun _ => by rfl)
  exact Opened.ite (State.jobFault_opened ht) (State.wardLoss_opened ht)

theorem State.resetByPoison_opened {w : Nat} (h : s.Opened B) : (s.resetByPoison w).Opened B :=
  Opened.ite (State.startReset_opened h) h

theorem State.settle_opened {w : Nat} (h : s.Opened B) : (s.settle w).Opened B :=
  Opened.ite (State.resetByPoison_opened (State.modWard_opened h (fun _ => by rfl))) h

theorem State.shutDown_opened {w : Nat} (h : s.Opened B) : (s.shutDown w).Opened B :=
  State.wardLoss_opened (State.modWard_opened h (fun _ => by rfl))

/-! ### Swaps, serving and program loading -/

theorem State.setBlocked_opened {w : Nat} (h : s.Opened B) : (s.setBlocked w).Opened B :=
  Opened.forEach (fun _ _ ht => Opened.ite (State.setReg_opened ht) (Opened.ite (State.setReg_opened ht) ht)) h

theorem State.swapIn_opened {w c : Nat} (h : s.Opened B) : (s.swapIn w c).Opened B :=
  Opened.ite (Opened.forEach (fun _ _ ht => State.devIssue_opened ht)
    (State.setReg_opened (State.modTrain_opened (State.event_opened (State.modWard_opened h (fun _ => by rfl))))))
    (State.setReg_opened (State.event_opened (State.modWard_opened h (fun _ => by rfl))))

theorem State.swapOut_opened {w c : Nat} (h : s.Opened B) : (s.swapOut w c).Opened B := by
  unfold State.swapOut
  extract_lets s1 t x n ch s2 s3 s4
  have h1 : s1.Opened B := State.event_opened (State.modWard_opened h (fun _ => by rfl))
  have h2 : s2.Opened B := State.modWard_opened h1 fun x => x.spill_beat _ _
  have h4 : s4.Opened B := State.setReg_opened (State.modTrain_opened h2)
  exact Opened.ite (Opened.ite h1 (Opened.forEach (fun _ _ ht => State.devIssue_opened ht) h4)) (State.setReg_opened h1)

theorem State.swaps_opened {w n : Nat} {s : State} (h : s.Opened B) : (State.swaps w n s).Opened B := by
  induction n generalizing s with
  | zero => exact h
  | succ n ih =>
    unfold State.swaps
    extract_lets x slots
    split
    · exact h
    · refine Opened.ite (ih (State.swapIn_opened h)) (Opened.ite ?_ h)
      split
      · exact State.swapOut_opened (State.swapIn_opened h)
      · exact h

theorem State.retrySwapOut_opened {w : Nat} (h : s.Opened B) : (s.retrySwapOut w).Opened B := by
  unfold State.retrySwapOut
  dsimp only
  refine Opened.ite h ?_
  split
  · exact State.swapOut_opened h
  · exact h

theorem State.serveRest_opened {w : Nat} {p : JobProg} {t : Nat} (h : s.Opened B) : (s.serveRest w p t).Opened B := by
  unfold State.serveRest
  dsimp only
  refine State.swaps_opened ?_
  refine State.retrySwapOut_opened ?_
  refine State.poolMark_opened ?_
  refine State.setBlocked_opened ?_
  split
  · exact State.writeRow_opened (State.admission_opened (State.growth_opened (State.retryCopies_opened (State.release_opened h))))
  · exact State.admission_opened (State.growth_opened (State.retryCopies_opened (State.release_opened h)))

theorem State.countQuant_opened {d : Nat} (h : s.Opened B) : (s.countQuant d).Opened B := by
  unfold State.countQuant
  dsimp only
  split
  · exact Opened.ite (State.modDev_opened (State.addSite_opened (State.someBlocks_opened h))) h
  · exact h

theorem State.countTier_opened {w : Nat} {st : St} (h : s.Opened B) : (s.countTier w st).Opened B :=
  State.modWard_opened h fun _ => ite_fixes Ward.beat (fun _ => rfl) fun _ => ite_fixes Ward.beat (fun _ => rfl) fun _ => rfl

theorem State.pfLost_opened {w d : Nat} {p : PfRun} {st : St} (h : s.Opened B) : (s.pfLost w d p st).Opened B := by
  unfold State.pfLost
  dsimp only
  split
  · exact State.modWard_opened (State.countTier_opened (State.losePositions_opened h)) (fun _ => by rfl)
  · exact State.countTier_opened (State.losePositions_opened h)

theorem State.pfRecord_opened {w d : Nat} {p : PfRun} {st : St} {cause : Nat} (h : s.Opened B) : (s.pfRecord w d p st cause).Opened B :=
  State.report_opened h

theorem State.pfOver_opened {w d : Nat} {p : PfRun} {st low : St} (h : s.Opened B) : (s.pfOver w d p st low).Opened B :=
  Opened.ite (State.jobFault_opened h) (State.pfLost_opened h)

theorem State.loadStore_opened {i : Nat} {p : TileProg} (h : s.Opened B) : (s.loadStore i p).Opened B :=
  Opened.forEach (fun _ _ ht => Opened.ite (State.wrBytes_opened ht) ht) (State.modTile_opened (State.clearRange_opened h) (fun _ => by rfl))

theorem State.loadTile_opened {i : Nat} {p : TileProg} (h : s.Opened B) : (s.loadTile i p).Opened B :=
  State.Opened.modTile (State.loadStore_opened h) fun _ _ _ => by
    unfold Tile.load
    split <;> simp

/-! ### Distribution of base images -/

theorem State.openCopy_opened {w c : Nat} {t : State} (h : s.Opened B) (ht : s.openCopy w c = some t) : t.Opened B := by
  unfold State.openCopy at ht
  split at ht
  · cases ht
  · split at ht
    · cases ht
      exact State.modWard_opened h (fun _ => by rfl)
    · obtain ⟨x, hx, rfl⟩ := Option.map_eq_some_iff.mp ht
      exact State.setReg_opened (State.roomCopy_opened h hx)

theorem State.distCheck_opened {w : Nat} (h : s.Opened B) : (s.distCheck w).Opened B := by
  unfold State.distCheck
  dsimp only
  split
  · exact h
  · exact Opened.ite (State.endDist_opened (Opened.ite (State.modWard_opened h (fun _ => by rfl)) (State.setReg_opened h))) h

theorem State.sendShard_opened {w k : Nat} {dest : W64} {alt : Bool} (h : s.Opened B) : (s.sendShard w k dest alt).Opened B := by
  unfold State.sendShard
  dsimp only
  split
  · exact h
  · split
    · exact Opened.forEach (fun _ _ ht => State.mcSend_opened ht) (State.nextXid_opened (State.emit_opened h))
    · exact State.uncount_opened (Opened.forEach (fun _ _ ht => State.sendXfer_opened (State.sender_opened ht)) (State.emit_opened h))

theorem State.sendPass_opened {w : Nat} (h : s.Opened B) : (s.sendPass w).Opened B := by
  unfold State.sendPass
  split
  · exact h
  · exact Opened.ite (Opened.forEach (fun _ _ ht => State.sendShard_opened ht) h) h

theorem State.retryDist_opened {w : Nat} (h : s.Opened B) : (s.retryDist w).Opened B := by
  unfold State.retryDist
  split
  · exact h
  · split
    · exact h
    · split
      · exact h
      · next t ht => exact State.distCheck_opened (State.sendPass_opened (State.modWard_opened (State.openCopy_opened h ht) (fun _ => by rfl)))

/-! ### Takeovers and digest rounds -/

theorem State.faultSpanning_opened {m : Nat} {st : St} (h : s.Opened B) : (s.faultSpanning m st).Opened B :=
  Opened.forEach (fun _ _ ht => Opened.ite (State.modWard_opened (State.jobFault_opened ht) (fun _ => by rfl)) ht) h

theorem State.applyTko_opened {m sb tg : Nat} {verdict : Bool} (h : s.Opened B) : (s.applyTko m sb tg verdict).Opened B := by
  unfold State.applyTko
  dsimp only
  refine Opened.ite (h.congr rfl rfl) ?_
  refine Opened.ite (State.Opened.congr (h.congr rfl rfl) rfl rfl) ?_
  refine State.faultSpanning_opened ?_
  refine State.Opened.congr ?_ rfl rfl
  split
  · exact State.Opened.congr (h.congr rfl rfl) rfl rfl
  · exact h.congr rfl rfl

theorem State.startTko_opened {m : Nat} {sb jseq : Option Nat} {verdict : Bool} (h : s.Opened B) :
    (s.startTko m sb jseq verdict).Opened B := by
  unfold State.startTko
  dsimp only
  split
  · split
    · exact State.complete_opened h
    · exact h
  · exact Opened.forEach (fun _ _ ht => State.ctl_opened ht)
      (State.applyTko_opened (State.Opened.congr (State.report_opened h) rfl rfl))

theorem State.askTko_opened {m : Nat} {sb jseq : Option Nat} {verdict : Bool} (h : s.Opened B) :
    (s.askTko m sb jseq verdict).Opened B :=
  Opened.ite (h.congr rfl rfl) (State.startTko_opened h)

theorem State.tell_opened {ms : List Nat} {o : Output} (h : s.Opened B) : (s.tell ms o).Opened B :=
  Opened.ite h (State.uncount_opened (Opened.forEach (fun _ _ ht => State.ctlFlit_opened ht) (State.emit_opened h)))

theorem State.tellDigest_opened {w c : Nat} {x : DigestIn} (h : s.Opened B) : (s.tellDigest w c x).Opened B :=
  Opened.ite (State.tell_opened (State.tell_opened (State.modTrain_opened h))) (State.tell_opened (State.modTrain_opened h))

theorem State.holdRound_opened {w c n : Nat} {x : DigestIn} (h : s.Opened B) : (s.holdRound w c n x).Opened B :=
  State.tellDigest_opened (State.modTrain_opened h)

theorem State.askRollback_opened {w c : Nat} {st : Byte} {hold : Bool} (h : s.Opened B) : (s.askRollback w c st hold).Opened B :=
  State.modTrain_opened h

theorem State.fenceModule_opened {w m : Nat} (h : s.Opened B) : (s.fenceModule w m).Opened B := by
  unfold State.fenceModule
  extract_lets s1 s2
  have h2 : s2.Opened B := State.report_opened (State.modWard_opened h (fun _ => by rfl))
  exact Opened.ite (Opened.forEach (fun _ _ ht => State.jobFault_opened ht) (h2.congr rfl rfl)) (Opened.ite (State.askTko_opened h2) h2)

theorem State.roundGood_opened {w c n : Nat} (h : s.Opened B) : (s.roundGood w c n).Opened B :=
  State.modWard_opened (State.modTrain_opened h) (fun _ => by rfl)

theorem State.roundOver_opened {w c n : Nat} (h : s.Opened B) : (s.roundOver w c n).Opened B :=
  State.modWard_opened (State.modTrain_opened h) (fun _ => by rfl)

theorem State.decideRound_opened {w c n : Nat} (h : s.Opened B) : (s.decideRound w c n).Opened B := by
  unfold State.decideRound
  dsimp only
  refine Opened.ite h ?_
  refine Opened.ite (State.roundGood_opened h) ?_
  refine Opened.ite (Opened.ite (State.faultTraining_opened (State.roundOver_opened h))
    (State.updWork_opened (State.modTrain_opened h))) ?_
  split
  · exact Opened.ite (State.jobFault_opened (Opened.forEach (fun _ _ ht => State.fenceModule_opened ht) (State.roundOver_opened h)))
      (State.askRollback_opened (Opened.forEach (fun _ _ ht => State.fenceModule_opened ht) (State.roundOver_opened h)))
  · exact Opened.ite (State.faultTraining_opened (State.roundOver_opened h))
      (State.askRollback_opened (State.modTrain_opened (State.roundOver_opened h)))

/-! ### Steps of training -/

theorem State.startPassOne_opened {w c : Nat} (h : s.Opened B) : (s.startPassOne w c).Opened B :=
  State.updWork_opened (State.modTrain_opened h)

theorem State.sendChunk_opened {w c d j : Nat} {copy : Bool} (h : s.Opened B) : (s.sendChunk w c d j copy).Opened B := by
  unfold State.sendChunk
  dsimp only
  split
  · exact h
  · exact State.uncount_opened (Opened.forEach (fun _ _ ht => State.sendXfer_opened (State.rdF_opened (State.sender_opened ht))) h)

theorem State.reduceTook_opened {w c va n : Nat} {copy : Bool} (h : s.Opened B) : (s.reduceTook w c va n copy).Opened B := by
  unfold State.reduceTook
  dsimp only
  split
  · exact h
  · exact Opened.ite h (Opened.ite (State.modTrain_opened h) (State.sendChunk_opened (State.modTrain_opened h)))

theorem State.tryReduce_opened {w c : Nat} (h : s.Opened B) : (s.tryReduce w c).Opened B := by
  unfold State.tryReduce
  dsimp only
  split
  · exact Opened.ite h (Opened.ite (State.startPassOne_opened h)
      (Opened.forEach (fun _ _ ht => State.sendChunk_opened ht) (State.modTrain_opened h)))
  · exact h

theorem State.othersArmed_opened {w : Nat} (h : s.Opened B) : (s.othersArmed w).2.Opened B := by
  unfold State.othersArmed
  split
  · exact h
  · exact State.takeFresh_opened h

theorem State.arm_opened {w c : Nat} (h : s.Opened B) : (s.arm w c).Opened B :=
  Opened.ite (State.tryReduce_opened (State.modTrain_opened (State.othersArmed_opened h))) (State.othersArmed_opened h)

theorem State.countUpd_opened {w d : Nat} (h : s.Opened B) : (s.countUpd w d).Opened B :=
  Opened.ite h (State.modUpd_opened (State.addBlocks_opened (State.takeFresh_opened h)))

theorem State.publish_opened {w c k : Nat} (h : s.Opened B) : (s.publish w c k).1.Opened B := by
  unfold State.publish
  extract_lets e t
  have ht : t.Opened B := State.setReg_opened h
  split
  · exact h
  · exact Opened.ite (State.tryPublish_opened ht) ht

theorem State.startCopy_opened {w c n : Nat} (h : s.Opened B) : (s.startCopy w c n).Opened B :=
  State.updWork_opened (State.modTrain_opened h)

theorem State.commitStep_opened {w c : Nat} (h : s.Opened B) : (s.commitStep w c).Opened B := by
  unfold State.commitStep
  extract_lets t n r s1
  have h1 : s1.Opened B := State.modTrain_opened h
  refine Opened.ite h ?_
  have h2 : (if r.pub = true ∧ n % r.pubn = 0 then s1.publish w c (s1.train w c).half else (s1, false)).1.Opened B := by
    split
    · exact State.publish_opened h1
    · exact h1
  generalize (if r.pub = true ∧ n % r.pubn = 0 then s1.publish w c (s1.train w c).half else (s1, false)) = p at h2 ⊢
  obtain ⟨s2, pub⟩ := p
  split
  next hpair =>
    cases hpair
    extract_lets s3 s4 s5 s6 s7
    have h5 : s5.Opened B := State.modTrain_opened (State.stepReport_opened (State.modTrain_opened h2))
    have h6 : s6.Opened B := Opened.ite (State.holdRound_opened h5) h5
    have h7 : s7.Opened B := Opened.ite (State.startCopy_opened h6) h6
    exact Opened.ite (State.endTraining_opened h7) h7

theorem State.beginRollback_opened {w c : Nat} (h : s.Opened B) : (s.beginRollback w c).Opened B := by
  unfold State.beginRollback
  dsimp only
  split
  · exact h
  · split
    · exact State.faultTraining_opened (State.modTrain_opened h)
    · exact State.modWard_opened (State.updWork_opened (State.modTrain_opened (State.abandonStep_opened (State.modTrain_opened h)))) (fun _ => by rfl)

theorem State.leaveHeld_opened {w c : Nat} (h : s.Opened B) : (s.leaveHeld w c).Opened B :=
  Opened.ite (State.modTrain_opened h) h

theorem State.trainAbandon_opened {w c : Nat} (h : s.Opened B) : (s.trainAbandon w c).Opened B := by
  unfold State.trainAbandon
  split
  · exact Opened.ite (State.abandonStep_opened (State.updIdle_opened h)) h
  · exact h

theorem State.trainStarted_opened {w c : Nat} (h : s.Opened B) : (s.trainStarted w c).Opened B :=
  Opened.ite (State.modTrain_opened h) h

theorem State.trainStopped_opened {w c : Nat} (h : s.Opened B) : (s.trainStopped w c).Opened B :=
  Opened.ite (State.endTraining_opened h) h

theorem State.trainBoundary_opened {w c : Nat} (h : s.Opened B) : (s.trainBoundary w c).Opened B :=
  State.trainStopped_opened (State.arm_opened (State.trainStarted_opened
    (State.trainAbandon_opened (State.leaveHeld_opened
    (State.beginRollback_opened (Opened.forEach (fun _ _ ht => State.decideRound_opened ht) (State.commitStep_opened h)))))))

theorem State.trainingStep_opened {w : Nat} (h : s.Opened B) : (s.trainingStep w).Opened B :=
  Opened.forEach (fun _ _ ht => State.trainBoundary_opened ht) h

/-! ### Flits that came early -/

theorem State.respond_opened {f : Flit} {st : St} {data : List Byte} (h : s.Opened B) : (s.respond f st data).Opened B :=
  Opened.ite (State.sendXfer_opened h) (State.sendXfer_opened h)

theorem State.setXfer_opened {k : Nat} {f : Flit} {e : Addr × Nat} (h : s.Opened B) : (s.setXfer k f e).Opened B :=
  State.modLink_opened h

/-- A peer write that lands, by a writer that leaves the opened beat alone. -/
theorem State.takeWrite_opened {k : Nat} {f : Flit} {hdr : Option (Addr × Nat)} {payload : List Byte}
    {put : State → Nat → List Byte → State} (hput : ∀ t va bs, t.Opened B → (put t va bs).Opened B) (h : s.Opened B) :
    (s.takeWrite k f hdr payload put).Opened B := by
  unfold State.takeWrite
  dsimp only
  split
  · exact State.setXfer_opened (h.congr rfl rfl)
  · exact Opened.ite (State.respond_opened (State.setXfer_opened (h.congr rfl rfl))) (State.setXfer_opened (h.congr rfl rfl))
  · split
    · exact h
    · split
      · exact State.respond_opened (State.setXfer_opened h)
      · exact State.setXfer_opened (hput _ _ _ h)

theorem State.reduceInto_opened {w c va : Nat} {copy : Bool} {b : List Byte} (h : s.Opened B) :
    (s.reduceInto w c va copy b).Opened B := by
  unfold State.reduceInto
  refine Opened.ite (State.writeVa_opened h) (Opened.forEach (fun t j ht => ?_) h)
  have hread : (t.readVa w c (va + 4 * j) 4).1.Opened B := State.readVa_opened ht
  exact State.writeVa_opened hread

theorem State.reduceFlit_opened {f : Flit} {copy : Bool} {va : Nat} {b : List Byte} (h : s.Opened B) :
    (s.reduceFlit f copy va b).Opened B :=
  State.reduceTook_opened (State.reduceInto_opened h)

theorem State.takeEarly_opened {w : Nat} (h : s.Opened B) : (s.takeEarly w).Opened B := by
  refine Opened.forEach (fun t e ht => ?_) (Opened.ite h (State.modWard_opened h (fun _ => by rfl)))
  refine State.idleFlit_opened (State.takeWrite_opened (fun _ _ _ hu => ?_) (State.modLink_opened ht))
  exact Opened.ite (State.reduceFlit_opened hu) (State.writeVa_opened hu)

/-! ### The items of the list -/

theorem State.countRunning_opened {w : Nat} (h : s.Opened B) : (s.countRunning w).Opened B :=
  Opened.forEach (fun _ _ ht => State.countUpd_opened ht)
    (Opened.forEach (fun _ _ ht => State.countQuant_opened ht)
    (Opened.forEach (fun _ _ ht => Opened.ite (State.countPart_opened ht) ht) h))

theorem State.takeSnap_opened {w : Nat} (h : s.Opened B) : (s.takeSnap w).Opened B := by
  unfold State.takeSnap
  extract_lets y t z mine u
  have hu : u.Opened B := State.modWard_opened (State.countRunning_opened h) (fun _ => by rfl)
  exact Opened.ite (Opened.ite (hu.congr rfl rfl) hu) h

theorem State.beginJob_opened {w : Nat} (h : s.Opened B) : (s.beginJob w).Opened B := by
  unfold State.beginJob
  dsimp only
  split
  · exact h
  · exact Opened.ite h (State.complete_opened (State.modWard_opened h (fun _ => by rfl)))

theorem State.jobEnds_opened {w : Nat} (h : s.Opened B) : (s.jobEnds w).Opened B := by
  unfold State.jobEnds
  extract_lets x
  split
  · exact h
  · extract_lets t
    have ht : t.Opened B := by
      unfold t
      split
      · exact State.faultNow_opened h
      · exact Opened.ite (State.faultNow_opened h) (Opened.ite (State.stopJob_opened h) (Opened.ite (State.stopJob_opened h) h))
    exact Opened.ite (State.wardLoss_opened ht) (Opened.ite (State.shutDown_opened ht) ht)

theorem State.takeSpares_opened {w : Nat} (h : s.Opened B) : (s.takeSpares w).Opened B :=
  Opened.ite h <| Opened.forEach (fun _ _ ht =>
    State.modWard_opened (State.modTile_opened (State.loadTile_opened ht) fun _ => by rfl) fun _ => by rfl) h

theorem State.applyLost_opened {w : Nat} (h : s.Opened B) : (s.applyLost w).Opened B :=
  Opened.forEach (fun _ _ ht => Opened.ite (State.modTrain_opened (State.modWard_opened (State.markCtx_opened ht) (fun _ => by rfl)))
    (State.modWard_opened (State.markCtx_opened ht) (fun _ => by rfl))) (State.modWard_opened h (fun _ => by rfl))

theorem State.pfShape_opened {w c va : Nat} (h : s.Opened B) : (s.pfShape w c va).1.Opened B := by
  have hread := State.readVa_opened (w := w) (c := c) (va := va) (n := 64) (uncorr := []) h
  unfold State.pfShape
  split
  · exact h
  · split
    · exact h
    · dsimp only
      split
      · exact hread
      · split <;> exact hread

theorem State.pfIssue_opened {w t k : Nat} {p : JobProg} {e : PfEnt} (h : s.Opened B) : (s.pfIssue w p t k e).Opened B := by
  unfold State.pfIssue
  extract_lets x d g b row kind id s1 run o
  have h1 : s1.Opened B := State.modWard_opened h (fun _ => by rfl)
  refine Opened.ite h ?_
  have hshape : (s1.pfShape w row.ctx e.dshp.toNat).1.Opened B := State.pfShape_opened h1
  split
  · next s2 st heq =>
    have h2 : s2.Opened B := by rwa [heq] at hshape
    exact State.pfOver_opened (State.pfRecord_opened (Opened.ite h2 (State.countFault_opened h2)))
  · next s2 shp heq =>
    have h2 : s2.Opened B := by rwa [heq] at hshape
    extract_lets os
    refine Opened.ite h2 (State.modWard_opened (Opened.forEach (fun _ _ ht => ?_) h2) (fun _ => by rfl))
    exact Opened.ite (ht.congr rfl rfl) (State.devIssue_opened ht)

theorem State.issuePrefetch_opened {w : Nat} {p : JobProg} {t : Nat} (h : s.Opened B) : (s.issuePrefetch w p t).Opened B :=
  Opened.ite h (Opened.forEach (fun _ _ ht => State.pfIssue_opened ht) h)

theorem State.serve_opened {w : Nat} (h : s.Opened B) : (s.serve w).Opened B := by
  unfold State.serve
  dsimp only
  refine Opened.ite h ?_
  split
  · exact State.release_opened (State.retireSteps_opened h)
  · exact Opened.ite (State.release_opened (State.retireSteps_opened h))
      (State.issuePrefetch_opened (State.settle_opened
      (State.retryDist_opened (State.serveRest_opened
      (State.retireSteps_opened (State.accSlices_opened
      (State.trainingStep_opened (State.serveHinges_opened (State.applyLost_opened h)))))))))

theorem State.clearStandIn_opened {i : Nat} (h : s.Opened B) : (s.clearStandIn i).Opened B :=
  Opened.ite h (State.modTile_opened h (fun _ => by rfl))

theorem State.resumeTile_opened {w i : Nat} (h : s.Opened B) : (s.resumeTile w i).Opened B :=
  Opened.ite (State.checkPc_opened (State.Opened.modTile h fun _ _ _ => by simp)) h

end Sys2Proof.Machine
end

section
/-! BEAT_BOUNDARY (R179): the boundary opens the next beat, and the rest of its list keeps it open. -/

namespace Sys2Proof.Machine
open Sys2Proof

/-! ### Before the new beat: the charges and the held commands -/

/-- What a boundary takes from a ward: its number, its dies, what the markers told and its held commands. -/
def Ward.agenda (x : Ward) : W64 × Byte × MultiBeat × List HeldOp := (x.num, x.dies, x.mb, x.heldOps)

theorem State.modWard_agenda (s : State) (v : Nat) (f : Ward → Ward) (hf : ∀ x, (f x).agenda = x.agenda) (w : Nat) :
    ((s.modWard v f).ward w).agenda = (s.ward w).agenda := by
  by_cases hw : w = v
  · subst hw
    rw [State.modWard_ward_same, hf]
  · rw [State.modWard_ward_other _ _ _ _ hw]

theorem State.chargeBeat_agenda (s : State) (w : Nat) : ((s.chargeBeat w).ward w).agenda = (s.ward w).agenda := by
  have hmiss (t : State) (n : W32) : ((t.modWard w fun x => { x with xlatMiss := x.xlatMiss + n }).ward w).agenda = (t.ward w).agenda :=
    State.modWard_agenda t w _ (by intro; rfl) w
  unfold State.chargeBeat
  dsimp only
  split
  · exact hmiss _ _
  · refine (forEach_fixes (fun t => (t.ward w).agenda) _ (fun t d => ?_) _ _).trans
      ((forEach_fixes (fun t => (t.ward w).agenda) _ (fun t c => ?_) _ _).trans (hmiss _ _))
    · exact State.modWard_agenda _ w _ (by intro; rfl) w
    · exact State.modWard_agenda _ w _ (by intro; rfl) w

/-- Where no held command waits its turn, none takes effect. -/
theorem State.runWaiting_none {s : State} {w : Nat} (hnone : ∀ h ∈ (s.ward w).heldOps, h.waits = false) (n : Nat) :
    State.runWaiting n s w = s := by
  cases n with
  | zero => rfl
  | succ n =>
    unfold State.runWaiting
    split
    · next h rest hheld =>
      rw [hnone h (by simp [hheld])]
      rfl
    · rfl

theorem State.runHeld_none {s : State} {w : Nat} (hdue : (s.ward w).mb.due = []) (hnone : ∀ h ∈ (s.ward w).heldOps, h.waits = false) :
    s.runHeld w = s := by
  unfold State.runHeld
  rw [hdue]
  exact State.runWaiting_none hnone _

/-! ### The new beat and the tiles that go on -/

/-- The beat that the boundary of ward `w`, in state `x`, opens with the period told; the tiles `awake` have gone on. -/
def Ward.opening (x : Ward) (w : Nat) (ns : W32) (awake : List Nat) : Opening :=
  { ward := w, num := (x.newBeat ns).num, period := ns, dies := x.dies, awake := awake }

theorem Ward.newBeat_opened {x y : Ward} {w : Nat} {ns : W32} (h : y.agenda = x.agenda) (hnone : ∀ h ∈ x.heldOps, h.waits = false) :
    ((y.newBeat ns).dropEmpty).Opened (x.opening w ns []) := by
  simp only [Ward.agenda, Prod.mk.injEq] at h
  obtain ⟨hnum, hdies, hmb, hheld⟩ := h
  refine ⟨?_, rfl, hdies, rfl, rfl, rfl, fun o ho => hnone o (hheld ▸ ho)⟩
  change (y.newBeat ns).num = (x.newBeat ns).num
  unfold Ward.newBeat
  rw [hmb, hnum]

theorem Ward.nextExchange_beat (x : Ward) : x.nextExchange.beat = x.beat := by
  unfold Ward.nextExchange
  split <;> rfl

theorem Ward.takeLen_beat (x : Ward) : x.takeLen.beat = x.beat := by
  unfold Ward.takeLen
  split <;> rfl

theorem Ward.tiles_of_dies {x y : Ward} (h : x.dies = y.dies) : x.tiles = y.tiles := by
  unfold Ward.tiles Ward.dieList
  rw [h]

section
variable {B : Opening} {s : State}

/-- The same beat, of other tiles that have gone on. -/
theorem State.Opened.awaken (h : s.Opened B) {js : List Nat} (hjs : ∀ i ∈ js, (s.tile i).Awake) : s.Opened { B with awake := js } :=
  ⟨{ h.1 with }, hjs⟩

/-- A tile that the boundary has come to no longer waits at BEAT. -/
theorem State.resumeTile_awake {w i : Nat} (h : s.Opened B) : ((s.resumeTile w i).tile i).Awake := by
  unfold State.resumeTile
  split
  · let running (t : Tile) : Tile := { t with st := .running }
    have hrun : (s.modTile i running).Opened B := State.Opened.modTile h fun _ _ _ => by simp [running]
    have hawake : ((s.modTile i running).tile i).Awake := by
      rw [State.modTile_tile_same]
      exact fun _ => by simp [running]
    have hnext := State.checkPc_opened (w := w) (i := i) (hrun.awaken (js := [i]) fun j hj => List.mem_singleton.mp hj ▸ hawake)
    exact hnext.2 i (List.mem_singleton_self i)
  · next hrest => exact fun hhealth hst => hrest ⟨hst, hhealth⟩

theorem State.resumeTiles_opened {w : Nat} (is : List Nat) {js : List Nat} (h : s.Opened { B with awake := js }) :
    (forEach is s fun s i => s.resumeTile w i).Opened { B with awake := js ++ is } := by
  induction is generalizing s js with
  | nil => rwa [List.append_nil]
  | cons i is ih =>
    have hkept : (s.resumeTile w i).Opened { B with awake := js } := State.resumeTile_opened h
    have hnext : (s.resumeTile w i).Opened { B with awake := js ++ [i] } := hkept.awaken fun j hj => by
      rcases List.mem_append.mp hj with hj | hj
      · exact hkept.2 j hj
      · rw [List.mem_singleton.mp hj]
        exact State.resumeTile_awake h
    have hlast := ih hnext
    rwa [List.append_assoc] at hlast

end

/-- What the list of R179 leaves of the ward: the beat it opened, and none of its tiles at BEAT. -/
theorem State.boundary_opened {s : State} {w : Nat} {ns : W32} {x : Ward} (hx : x = s.ward w) (hdue : x.mb.due = [])
    (hnone : ∀ h ∈ x.heldOps, h.waits = false) : (s.boundary w ns).Opened (x.opening w ns x.tiles) := by
  have hcharge : ((s.chargeBeat w).ward w).agenda = x.agenda := hx ▸ State.chargeBeat_agenda s w
  have hheld : (s.chargeBeat w).runHeld w = s.chargeBeat w := by
    simp only [Ward.agenda, Prod.mk.injEq] at hcharge
    obtain ⟨-, -, hmb, hops⟩ := hcharge
    exact State.runHeld_none (by rw [hmb, hdue]) (by rwa [hops])
  unfold State.boundary
  rw [hheld]
  extract_lets s1 s2 s3 s4 s5 s6 s7
  have h2 : s2.Opened (x.opening w ns []) := by
    refine State.beginJob_opened ⟨?_, fun i hi => nomatch hi⟩
    change Ward.Opened _ ((s1.modWard w fun x => (x.newBeat ns).dropEmpty).ward w)
    rw [State.modWard_ward_same]
    exact Ward.newBeat_opened hcharge hnone
  have h3 : s3.Opened (x.opening w ns []) := State.jobEnds_opened h2
  have h4 : s4.Opened (x.opening w ns []) := by
    have hops : ∀ h ∈ (s3.ward w).heldOps, h.waits = false := h3.1.heldOps
    unfold s4
    rw [State.runWaiting_none hops]
    exact State.modWard_opened h3 Ward.nextExchange_beat
  have h5 : s5.Opened (x.opening w ns []) := State.serve_opened (State.takeSnap_opened (State.takeSpares_opened h4))
  have h6 : s6.Opened (x.opening w ns []) := State.modWard_opened h5 Ward.takeLen_beat
  have h7 : s7.Opened (x.opening w ns []) := Opened.forEach (fun _ _ ht => State.clearStandIn_opened ht) h6
  have htiles : (s7.ward w).tiles = x.tiles := Ward.tiles_of_dies h7.1.dies
  rw [htiles]
  have h8 : (forEach x.tiles s7 fun s i => s.resumeTile w i).Opened (x.opening w ns x.tiles) :=
    State.resumeTiles_opened (B := x.opening w ns []) (js := []) x.tiles h7
  exact State.settle_opened (State.takeEarly_opened h8)

/-- Settles O37: before the new beat the boundary leaves the ward's number, dies and held commands alone; what it opens then stands
to its end. That the event changes nothing while the beat is not closed is the model's choice (log entry 134). -/
theorem boundariesCountBeats : Obligations.BoundariesCountBeats := by
  rintro s w ns x hlive hw rfl hbeat
  refine ⟨fun hopen => if_neg (by simp [hopen]), fun hclosed hdue hnone => ⟨s.boundary w ns, if_pos ⟨hlive, hw, hbeat, hclosed⟩, ?_⟩⟩
  obtain ⟨hward, hawake⟩ := State.boundary_opened (ns := ns) rfl hdue hnone
  refine ⟨hward.num, hward.period, hward.closed, hward.holdSteps, hward.holding, hward.dies, fun i hi => hawake i ?_⟩
  exact Ward.tiles_of_dies hward.dies (y := s.ward w) ▸ hi

end Sys2Proof.Machine
end

section
/-! Step points (R174 to R178, R195): the unit that a held beat names, what closes, holds or overruns a beat, and BEAT_STEP_POINT. -/

namespace Sys2Proof.Machine
open Sys2Proof

/-! ### The lowest unit (R195) -/

/-- What units are ordered by: die, then UNIT, then IDX. -/
def unitKey (a : Nat × Nat × Nat) : Nat ×ₗ Nat ×ₗ Nat := toLex (a.1, toLex a.2)

theorem unitBefore_iff (a b : Nat × Nat × Nat) : unitBefore a b = true ↔ unitKey a < unitKey b := by
  simp [unitBefore, unitKey, Prod.Lex.lt_iff]

theorem unitBefore_false_iff (a b : Nat × Nat × Nat) : unitBefore a b = false ↔ unitKey b ≤ unitKey a := by
  rw [← not_lt, ← unitBefore_iff, Bool.not_eq_true]

theorem firstUnit_none_iff (l : List (Nat × Nat × Nat)) : firstUnit l = none ↔ l = [] := by
  cases l with
  | nil => simp [firstUnit]
  | cons a r =>
    unfold firstUnit
    split <;> simp

/-- A first unit is one of the list, and none of the list is before it. -/
theorem firstUnit_least {l : List (Nat × Nat × Nat)} {u : Nat × Nat × Nat} (h : firstUnit l = some u) :
    u ∈ l ∧ ∀ v ∈ l, unitBefore v u = false := by
  simp only [unitBefore_false_iff]
  induction l generalizing u with
  | nil => cases h
  | cons a r ih =>
    unfold firstUnit at h
    split at h
    · next hr =>
      cases h
      rw [(firstUnit_none_iff r).mp hr]
      simp
    · next b hr =>
      obtain ⟨hmem, hleast⟩ := ih hr
      cases hba : unitBefore b a with
      | true =>
        obtain rfl : b = u := by simpa [hba] using h
        have hlt := (unitBefore_iff b a).mp hba
        exact ⟨List.mem_cons_of_mem a hmem, List.forall_mem_cons.mpr ⟨hlt.le, hleast⟩⟩
      | false =>
        obtain rfl : a = u := by simpa [hba] using h
        have hle := (unitBefore_false_iff b a).mp hba
        exact ⟨List.mem_cons_self, List.forall_mem_cons.mpr ⟨le_rfl, fun v hv => hle.trans (hleast v hv)⟩⟩

/-! ### What a step point does to a beat (R176 to R178) -/

/-- The ward once its beat is over. -/
def Ward.beatOver (x : Ward) : Ward := { x with closed := true, holding := false }

/-- The ward once its beat is held one step more for unit `u`. -/
def Ward.heldFor (x : Ward) (u : Nat × Nat × Nat) : Ward :=
  { x with holding := true, holdSteps := x.holdSteps + 1, heldSteps := incSat x.heldSteps,
           heldBeats := if x.holdSteps = 0 then incSat x.heldBeats else x.heldBeats,
           tieLate := if x.holdSteps = 0 ∧ x.latePlates ≠ [] then incSat x.tieLate else x.tieLate,
           lastHold := { steps := BitVec.ofNat 16 (min (x.holdSteps + 1) 0xFFFF), unit := u.2.1, die := u.1, idx := u.2.2,
                         beatLo := x.num.setWidth 32 } }

/-- The ward once its beat has overrun with unit `u` unfinished. -/
def Ward.overran (x : Ward) (u : Nat × Nat × Nat) : Ward :=
  { x.beatOver with overrun := true, lastHold := { steps := BitVec.ofNat 16 (min x.holdSteps 0xFFFF), unit := u.2.1, die := u.1, idx := u.2.2,
                                                   beatLo := x.num.setWidth 32 } }

/-- The ward once a fault of its job is decided; the first stays. -/
def Ward.faulted (x : Ward) (st : St) : Ward := { x with job := x.job.map fun j => { j with fault := some (j.fault.getD st) } }

theorem Ward.faulted_of_none {x : Ward} (h : x.job = none) (st : St) : x.faulted st = x := by
  cases x
  cases h
  rfl

theorem Ward.faulted_of_some {x : Ward} {j : Job} (h : x.job = some j) (st : St) :
    x.faulted st = { x with job := some { j with fault := some (j.fault.getD st) } } := by
  unfold Ward.faulted
  rw [h]
  rfl

section
variable (s : State) (w : Nat) (u : Nat × Nat × Nat)

theorem State.closeBeat_unheld (h : (s.ward w).holdSteps = 0) : s.closeBeat w = s.modWard w Ward.beatOver := if_pos h

theorem State.holdOrOverrun_below (h : (s.ward w).holdSteps < (s.ward w).holdMax) :
    s.holdOrOverrun w u = s.modWard w fun x => x.heldFor u :=
  if_neg fun hlimit => absurd hlimit.1 (by omega)

theorem State.holdOrOverrun_limit (h : (s.ward w).holdMax ≤ (s.ward w).holdSteps) (hroll : (s.ward w).mb.rollHeld = false) :
    s.holdOrOverrun w u = s.overrunBeat w u := if_pos ⟨h, hroll⟩

theorem State.jobFault_eq (st : St) : s.jobFault w st = s.modWard w fun x => x.faulted st := by
  refine State.modWard_congr s w ?_
  cases hjob : (s.ward w).job with
  | none => exact (Ward.faulted_of_none hjob st).symm
  | some j => exact (Ward.faulted_of_some hjob st).symm

/-- Nothing is abandoned before TIE_LATE steps of hold, nor where no plate is late. -/
theorem State.abandonLate_none (h : (s.ward w).holdSteps < (s.ward w).lateSteps ∨ (s.ward w).latePlates = []) : s.abandonLate w = s := by
  unfold State.abandonLate
  dsimp only
  split
  · rfl
  · next hlate =>
    rw [h.resolve_left fun hearly => hlate (.inl hearly)]
    rfl

theorem State.overrunBeat_eq : s.overrunBeat w u =
    ((s.modWard w fun x => x.overran u).holdRecord w 4 St.beatOverrun.code).modWard w fun x => x.faulted .beatOverrun :=
  State.jobFault_eq _ w .beatOverrun

/-- The record of a held beat is one record, of class 0x0B (R486). -/
theorem State.holdRecord_record (scope : Nat) (st : Byte) : (s.holdRecord w scope st).saf.seqNext = s.saf.seqNext + 1 ∧
    ((s.holdRecord w scope st).faults.get ((s.saf.seqNext - 1) % faultRing)).cls = 0x0B := by
  unfold State.holdRecord
  extract_lets h
  obtain ⟨-, hseq, ⟨-, hcls, -⟩, -, -⟩ := State.report_reports s
    { cls := 0x0B, scope := scope, status := st, ward := w, unit := h.unit, die := h.die, idx := h.idx, src := 3, detail := h.word.setWidth 128 }
  exact ⟨hseq, hcls⟩

theorem State.holdRecord_ward (scope : Nat) (st : Byte) (v : Nat) : (s.holdRecord w scope st).ward v = s.ward v :=
  congrArg (Tab.get · v) (State.report_wards s _)

theorem State.overrunBeat_ward_same : (s.overrunBeat w u).ward w = ((s.ward w).overran u).faulted .beatOverrun := by
  rw [State.overrunBeat_eq, State.modWard_ward_same, State.holdRecord_ward, State.modWard_ward_same]

theorem State.overrunBeat_ward_other (v : Nat) (h : v ≠ w) : (s.overrunBeat w u).ward v = s.ward v := by
  rw [State.overrunBeat_eq, State.modWard_ward_other _ _ _ _ h, State.holdRecord_ward, State.modWard_ward_other _ _ _ _ h]

theorem State.overrunBeat_record : (s.overrunBeat w u).saf.seqNext = s.saf.seqNext + 1 ∧
    ((s.overrunBeat w u).faults.get ((s.saf.seqNext - 1) % faultRing)).cls = 0x0B := by
  rw [State.overrunBeat_eq, State.modWard_saf, State.modWard_faults]
  exact State.holdRecord_record (s.modWard w fun x => x.overran u) w 4 _

end

/-! ### Updates of one ward -/

theorem OnlyWard.refl (s : State) (w : Nat) : OnlyWard s s w (s.ward w) := ⟨rfl, fun _ _ => rfl, fun _ => rfl, rfl⟩

section
variable {s t : State} {w : Nat} {y : Ward} (h : OnlyWard s t w y)
include h

theorem OnlyWard.update (f : Ward → Ward) : OnlyWard s (t.modWard w f) w (f y) := by
  obtain ⟨hward, hother, hbyte, hframe⟩ := h
  refine ⟨hward ▸ State.modWard_ward_same t w f, fun v hv => (State.modWard_ward_other t w f v hv).trans (hother v hv), hbyte, ?_⟩
  exact congrArg (fun v : State => { v with wards := Tab.modify t.wards w f }) hframe

theorem OnlyWard.closes (h0 : y.holdSteps = 0) : OnlyWard s (t.closeBeat w) w y.beatOver := by
  rw [State.closeBeat_unheld t w (by rw [h.1, h0])]
  exact h.update Ward.beatOver

theorem OnlyWard.holds (hbelow : y.holdSteps < y.holdMax) (u : Nat × Nat × Nat) : OnlyWard s (t.holdOrOverrun w u) w (y.heldFor u) := by
  rw [State.holdOrOverrun_below t w u (by rw [h.1]; exact hbelow)]
  exact h.update fun x => x.heldFor u

theorem OnlyWard.sameUnits : SameUnits s t := by
  obtain ⟨-, -, -, hframe⟩ := h
  exact SameUnits.of_units ((congrArg State.units hframe).trans rfl)

end

/-! ### BEAT_STEP_POINT: one equation per answer -/

section
variable {s : State} {w : Nat}

theorem Ward.running_of_working {x : Ward} (h : x.working = true) : x.running = true := (Bool.and_eq_true_iff.mp h).1

theorem Ward.working_of_not_running {x : Ward} (h : x.running = false) : x.working = false := by
  simp [Ward.working, h]

theorem execBeatStepPoint_closed (hclosed : (s.ward w).closed = true) : execBeatStepPoint w s = .next s :=
  if_pos (.inr (.inr (.inr hclosed)))

section
variable (hlive : s.live = true) (hw : w < 8) (hbeat : (s.ward w).hasBeat = true) (hopen : (s.ward w).closed = false)
include hlive hw hbeat hopen

theorem stepPoint_due : ¬((!s.live) = true ∨ 7 < w ∨ (!(s.ward w).hasBeat) = true ∨ (s.ward w).closed = true) := by
  simpa [hlive, hbeat, hopen] using Nat.le_of_lt_succ hw

theorem execBeatStepPoint_idle (hidle : (s.ward w).running = false ∨ (s.ward w).multi = false ∧ (s.ward w).working = false) :
    execBeatStepPoint w s = .next (s.closeBeat w) := by
  have hwork : (s.ward w).working = false := hidle.elim Ward.working_of_not_running And.right
  have halone : ((s.ward w).running && (s.ward w).multi) = false := by
    rcases hidle with hrun | ⟨hmulti, -⟩
    · simp [hrun]
    · simp [hmulti]
  unfold execBeatStepPoint
  simp only [if_neg (stepPoint_due hlive hw hbeat hopen), hwork, halone, Bool.not_false, if_true, Bool.false_eq_true, if_false]

section
variable (hwork : (s.ward w).working = true) (hmulti : (s.ward w).multi = false)
  (hlate : (s.ward w).holdSteps < (s.ward w).lateSteps ∨ (s.ward w).latePlates = [])
include hwork hmulti hlate

theorem execBeatStepPoint_finished (hnone : s.unfinished w = []) : execBeatStepPoint w s = .next (s.closeBeat w) := by
  unfold execBeatStepPoint
  simp only [if_neg (stepPoint_due hlive hw hbeat hopen), hwork, hmulti, Bool.not_true, Bool.false_eq_true, if_false,
    State.abandonLate_none s w hlate, hnone, firstUnit]

theorem execBeatStepPoint_unfinished {u : Nat × Nat × Nat} (hu : firstUnit (s.unfinished w) = some u) :
    execBeatStepPoint w s = .next (s.holdOrOverrun w u) := by
  unfold execBeatStepPoint
  simp only [if_neg (stepPoint_due hlive hw hbeat hopen), hwork, hmulti, Bool.not_true, Bool.false_eq_true, if_false,
    State.abandonLate_none s w hlate, hu]

end

end
end

/-- Settles O36: the first unit by induction on the list; of a step point, the equation of each answer. That the counters and
BEA_LAST_HOLD are updated at each hold step and an overrun's record is of class 0x0B (log entry 122), and that LATE is counted at the
first hold step (log entry 128), are the model's choices. -/
theorem beatsCloseHoldOrOverrun : Obligations.BeatsCloseHoldOrOverrun := by
  refine ⟨fun l u h => firstUnit_least h, firstUnit_none_iff, ?_⟩
  rintro s w x hlive hw rfl hbeat
  have hclose (h0 : (s.ward w).holdSteps = 0) (hexec : execBeatStepPoint w s = .next (s.closeBeat w)) :
      Answers (.beatStepPoint w) s fun t => OnlyWard s t w (s.ward w).beatOver :=
    ⟨_, hexec, (OnlyWard.refl s w).closes h0⟩
  refine ⟨execBeatStepPoint_closed, fun hopen h0 hidle => hclose h0 (execBeatStepPoint_idle hlive hw hbeat hopen hidle), ?_⟩
  intro hopen hwork hmulti hlate
  refine ⟨fun hnone h0 => hclose h0 (execBeatStepPoint_finished hlive hw hbeat hopen hwork hmulti hlate hnone), fun u hu => ?_⟩
  have hexec := execBeatStepPoint_unfinished hlive hw hbeat hopen hwork hmulti hlate hu
  refine ⟨fun hbelow => ⟨_, hexec, (OnlyWard.refl s w).holds hbelow u⟩, fun hlimit hroll => ⟨_, hexec, ?_⟩⟩
  rw [State.holdOrOverrun_limit s w u hlimit hroll]
  dsimp only
  rw [State.overrunBeat_ward_same]
  obtain ⟨hseq, hcls⟩ := State.overrunBeat_record s w u
  refine ⟨rfl, rfl, rfl, fun j hj => ?_, State.overrunBeat_ward_other s w u, hseq, fun _ => hcls⟩
  exact congrArg (Option.map fun j : Job => { j with fault := some (j.fault.getD .beatOverrun) }) hj

end Sys2Proof.Machine
end

section
/-! Beat markers (R180, R181, R183, R391): what a sent marker leaves, the markers that arrive, the master's decision, the verdict and a
lost marker. -/

namespace Sys2Proof.Machine
open Sys2Proof

/-! ### Sending only adds to what was sent -/

section
variable (s : State)

theorem State.sendOne_sent {t : State} (k : Nat) (h : s.sendOne k = some t) : s.sent ⊆ t.sent := by
  unfold State.sendOne at h
  dsimp only at h
  split at h
  · cases h
  · split at h
    · cases h
    · split at h
      · cases h
      · cases h
        exact List.subset_append_left _ _

theorem State.pumpN_sent (n : Nat) (k : Nat) : s.sent ⊆ (State.pumpN n s k).sent := by
  induction n generalizing s with
  | zero => exact List.Subset.refl _
  | succ n ih =>
    unfold State.pumpN
    split
    · next t ht => exact List.Subset.trans (State.sendOne_sent s k ht) (ih t)
    · exact List.Subset.refl _

theorem State.portOf_sent (own : Option Nat) (f : Flit) : (s.portOf own f).2.sent = s.sent := by
  unfold State.portOf
  dsimp only
  split
  · rfl
  · split
    · rfl
    · split
      · rfl
      · split <;> rfl

theorem State.route_sent (f : Flit) (p : List Byte) (own : Option Nat) : s.sent ⊆ (s.route f p own).sent := by
  have hport := State.portOf_sent s own f
  unfold State.route
  extract_lets under
  split
  · exact List.Subset.refl _
  · split
    · next k t heq =>
      rw [heq] at hport
      exact hport ▸ State.pumpN_sent (t.modLink k _) _ k
    · next t heq =>
      rw [heq] at hport
      exact hport ▸ List.Subset.refl _

/-! ### A marker sent (R391) -/

variable (a kind ward master : Nat) (beat : W64) (cmds : List (Nat × Nat))

theorem State.sendMarker_still : (s.sendMarker a kind ward master beat cmds).still = s.still := State.route_still _ _ _ none

theorem State.sendMarker_adds : s.sent ++ [.marker a kind ward beat cmds] ⊆ (s.sendMarker a kind ward master beat cmds).sent :=
  State.route_sent (s.emit (.marker a kind ward beat cmds)).nextXid.2 _ _ none

theorem State.sendMarker_sent : s.sent ⊆ (s.sendMarker a kind ward master beat cmds).sent :=
  List.Subset.trans (List.subset_append_left _ _) (State.sendMarker_adds s a kind ward master beat cmds)

theorem State.sendMarker_says : .marker a kind ward beat cmds ∈ (s.sendMarker a kind ward master beat cmds).sent :=
  State.sendMarker_adds s a kind ward master beat cmds (by simp)

end

/-- A marker to each module of a list is among what is sent. -/
theorem sendMarkers_says (s : State) (ms : List Nat) (kind ward master : Nat) (beat : W64) (cmds : List (Nat × Nat)) {m : Nat} (hm : m ∈ ms) :
    .marker m kind ward beat cmds ∈ (forEach ms s fun s m => s.sendMarker m kind ward master beat cmds).sent := by
  obtain ⟨before, after, rfl⟩ := List.append_of_mem hm
  unfold forEach
  rw [List.foldl_append, List.foldl_cons]
  exact foldl_keeps (fun t : State => .marker m kind ward beat cmds ∈ t.sent) _
    (fun t k ht => State.sendMarker_sent t k kind ward master beat cmds ht) after _ (State.sendMarker_says _ m kind ward master beat cmds)

/-! ### The master's verdict (R181) -/

/-- The master's ward with its verdict for beat `beat`, which names the commands `cmds`. -/
def Ward.decided (x : Ward) (yes : Bool) (beat : W64) (cmds : List (Nat × Nat)) : Ward :=
  { x with mb := { x.mb with verdict := some (yes, beat), due := cmds, cmds := x.mb.cmds.drop cmds.length } }

section
variable {s : State} {w : Nat} (kind : Nat) (yes : Bool) (beat : W64) (cmds : List (Nat × Nat))

/-- Of the wards only the master's own takes the verdict, and every other module of the job is told it. -/
theorem State.sendVerdict_spec : OneWard s (s.sendVerdict w kind yes beat cmds) w ((s.ward w).decided yes beat cmds) ∧
    ∀ m ∈ (s.ward w).modules, m ≠ s.linkAddr → .marker m kind w beat cmds ∈ (s.sendVerdict w kind yes beat cmds).sent := by
  unfold State.sendVerdict
  extract_lets x t
  have hwards := State.wards_of_still (forEach_fixes State.still (fun (s : State) m => s.sendMarker m kind w x.masterId beat cmds)
    (fun s m => State.sendMarker_still s m kind w x.masterId beat cmds) (x.modules.filter fun m => m ≠ t.linkAddr) t)
  obtain ⟨hward, hother, -, -⟩ : OnlyWard s t w (x.decided yes beat cmds) := State.modWard_only s w _
  have hsent (v : Nat) := congrArg (Tab.get · v) hwards
  refine ⟨⟨⟨x.structBad, (hsent w).trans hward⟩, fun v hv => (hsent v).trans (hother v hv)⟩,
    fun m hm hne => sendMarkers_says t _ kind w _ beat cmds ?_⟩
  exact List.mem_filter.mpr ⟨hm, decide_eq_true hne⟩

section
variable (hlive : s.live = true) (hw : w < 8) (hwork : (s.ward w).working = true) (hmulti : (s.ward w).multi = true)
  (hmaster : (s.ward w).master = true) (hnone : (s.ward w).mb.verdict = none) (hopen : (s.ward w).closed = false)
  (halive : (s.ward w).mb.dead = false)
include hlive hw hwork hmulti hmaster hnone hopen halive

theorem execMasterDecide_decides : execMasterDecide w s =
    if (s.ward w).modules.all (s.ward w).mb.ready.contains && (!(s.ward w).mb.rollHeld || (s.ward w).endAsked)
    then .next (s.sendVerdict w 2 true ((s.ward w).num + 1) ((s.ward w).mb.cmds.take 24))
    else .next (s.sendVerdict w 3 false (s.ward w).num []) := by
  have hdue : ¬((!s.live) = true ∨ 7 < w ∨ (!(s.ward w).running) = true ∨ (!(s.ward w).multi) = true ∨ (!(s.ward w).master) = true ∨
      (s.ward w).mb.verdict.isSome = true ∨ (s.ward w).closed = true ∨ (s.ward w).mb.dead = true) := by
    simpa [hlive, Ward.running_of_working hwork, hmulti, hmaster, hnone, hopen, halive] using Nat.le_of_lt_succ hw
  unfold execMasterDecide
  simp only [if_neg hdue, hwork, Bool.not_true, Bool.false_eq_true, if_false]

theorem execMasterDecide_boundary (hready : ∀ m ∈ (s.ward w).modules, m ∈ (s.ward w).mb.ready) (hroll : (s.ward w).mb.rollHeld = false) :
    execMasterDecide w s = .next (s.sendVerdict w 2 true ((s.ward w).num + 1) ((s.ward w).mb.cmds.take 24)) := by
  have hall : (s.ward w).modules.all (s.ward w).mb.ready.contains = true := by simpa using hready
  rw [execMasterDecide_decides hlive hw hwork hmulti hmaster hnone hopen halive, hall, hroll]
  rfl

theorem execMasterDecide_hold (hmissing : ∃ m ∈ (s.ward w).modules, m ∉ (s.ward w).mb.ready) :
    execMasterDecide w s = .next (s.sendVerdict w 3 false (s.ward w).num []) := by
  have hall : (s.ward w).modules.all (s.ward w).mb.ready.contains = false := by simpa using hmissing
  rw [execMasterDecide_decides hlive hw hwork hmulti hmaster hnone hopen halive, hall]
  rfl

end
end

/-! ### The verdict takes effect, and a lost marker (R181, R183) -/

section
variable {s : State} {w : Nat}

/-- The ward after a verdict is applied, past its application time or not (R183). -/
def Ward.skewed (x : Ward) (late : Bool) : Ward := { x with skewLate := x.skewLate || late }

/-- The ward with its verdict used up. -/
def Ward.verdictUsed (x : Ward) : Ward := { x with mb := { x.mb with verdict := none } }

/-- The ward with the loss of its marker noted (R183). -/
def Ward.lostMarker (x : Ward) : Ward := { x with markerLost := true, mb := { x.mb with lostMark := true } }

section
variable (hlive : s.live = true) (hw : w < 8) (hrun : (s.ward w).running = true) (hopen : (s.ward w).closed = false)
  (hmark : (s.ward w).mb.lostMark = false) (halive : (s.ward w).mb.dead = false)
include hlive hw hrun hopen hmark halive

theorem verdict_due : ¬((!s.live) = true ∨ 7 < w ∨ (!(s.ward w).running) = true ∨ (s.ward w).closed = true ∨
    (s.ward w).mb.lostMark = true ∨ (s.ward w).mb.dead = true) := by
  simpa [hlive, hrun, hopen, hmark, halive] using Nat.le_of_lt_succ hw

theorem execVerdictApply_boundary (late : Bool) (b : W64) (hyes : (s.ward w).mb.verdict = some (true, b)) :
    execVerdictApply w late s = .next ((s.modWard w fun x => x.skewed late).closeBeat w) := by
  unfold execVerdictApply
  simp only [if_neg (verdict_due hlive hw hrun hopen hmark halive), hyes, if_true]
  rfl

theorem execVerdictApply_hold (late : Bool) (b : W64) (hno : (s.ward w).mb.verdict = some (false, b)) : execVerdictApply w late s =
    .next (((s.modWard w fun x => x.skewed late).modWard w Ward.verdictUsed).holdOrOverrun w
      ((s.ward w).mb.late.getD ((s.modWard w fun x => x.skewed late).remoteUnit w))) := by
  unfold execVerdictApply
  simp only [if_neg (verdict_due hlive hw hrun hopen hmark halive), hno, Bool.false_eq_true, if_false]
  rfl

end

theorem execMarkerLost_holds (hlive : s.live = true) (hw : w < 8) (hwork : (s.ward w).working = true) (hmulti : (s.ward w).multi = true)
    (hpart : (s.ward w).master = false) (hopen : (s.ward w).closed = false) (hnone : (s.ward w).mb.verdict = none)
    (hmark : (s.ward w).mb.lostMark = false) :
    execMarkerLost w s = .next ((s.modWard w Ward.lostMarker).holdOrOverrun w (0, 8, (s.ward w).masterId)) := by
  refine if_neg ?_
  simpa [hlive, hwork, hmulti, hpart, hopen, hnone, hmark] using Nat.le_of_lt_succ hw

end

/-! ### The markers that arrive (R181, R391, R417) -/

section
variable {s : State} {w : Nat} {m : Marker}

theorem execMarkerReady_again {src : Nat} (h : src ∈ (s.ward w).mb.ready) : execMarkerReady w src m s = .next s := by
  refine if_neg fun hnew => ?_
  obtain ⟨-, -, -, -, -, -, -, -, -, hnew⟩ := hnew
  simp [h] at hnew

theorem marker_not_taken (h : (s.ward w).takes m = false) :
    execMarkerBoundary w m s = .next s ∧ execMarkerHold w m s = .next s ∧ execMarkerStart w m s = .next s := by
  refine ⟨if_neg ?_, if_neg ?_, if_neg ?_⟩ <;> simp [h]

end

/-- Settles O38: the equation of each answer; a marker told is among what is sent, because sending only adds. What
a START leaves, which unit a hold by verdict names, and that a module without a verdict holds the beat by its own step points are the
model's choices (log entry 123). -/
theorem markersDecideTheBeat : Obligations.MarkersDecideTheBeat := by
  rintro s w x hlive hw rfl
  refine ⟨?ready, fun src m hready => execMarkerReady_again hready, fun m htakes => ⟨?boundary, ?hold, ?start⟩,
    fun m hnot => marker_not_taken hnot, ?decide, ?verdict, ?lost⟩
  case ready =>
    intro src m hrun hmulti hmaster hward hsrc hmem hbeat hnew
    refine ⟨_, if_pos ⟨hlive, hw, hrun, hmulti, hmaster, hward, hsrc, by simpa using hmem, by simpa using hbeat, by simpa using hnew⟩,
      State.modWard_only s w _⟩
  case boundary => exact fun hwork hbeat => ⟨_, if_pos ⟨hlive, hw, hwork, htakes, hbeat⟩, State.modWard_only s w _⟩
  case hold => exact fun hwork hbeat => ⟨_, if_pos ⟨hlive, hw, hwork, htakes, hbeat⟩, State.modWard_only s w _⟩
  case start => exact fun hidle => ⟨_, if_pos ⟨hlive, hw, by simp [hidle], htakes⟩, State.modWard_only s w _⟩
  case decide =>
    intro hwork hmulti hmaster hnone hopen halive
    refine ⟨fun hready hroll => ⟨_, execMasterDecide_boundary hlive hw hwork hmulti hmaster hnone hopen halive hready hroll, ?_⟩,
      fun hmissing => ⟨_, execMasterDecide_hold hlive hw hwork hmulti hmaster hnone hopen halive hmissing, ?_⟩⟩
    · exact State.sendVerdict_spec 2 true _ _
    · exact State.sendVerdict_spec 3 false _ []
  case verdict =>
    intro hrun hopen hmark halive late b
    have hskewed := (OnlyWard.refl s w).update fun x => x.skewed late
    refine ⟨fun hyes h0 => ?_, fun hno hbelow => ?_⟩
    · exact ⟨_, execVerdictApply_boundary hlive hw hrun hopen hmark halive late b hyes, hskewed.closes h0⟩
    · have hheld (u : Nat × Nat × Nat) := (hskewed.update Ward.verdictUsed).holds hbelow u
      refine ⟨_, execVerdictApply_hold hlive hw hrun hopen hmark halive late b hno, (hheld _).sameUnits, ?_⟩
      obtain ⟨hward, hother, -, -⟩ := hheld ((s.ward w).mb.late.getD ((s.modWard w fun x => x.skewed late).remoteUnit w))
      rw [hward]
      exact ⟨hother, rfl, rfl, rfl, hopen, rfl⟩
  case lost =>
    intro hwork hmulti hpart hopen hnone hmark hbelow
    refine ⟨_, execMarkerLost_holds hlive hw hwork hmulti hpart hopen hnone hmark, ?_⟩
    obtain ⟨hward, hother, -, -⟩ := ((OnlyWard.refl s w).update Ward.lostMarker).holds hbelow (0, 8, (s.ward w).masterId)
    rw [hward]
    exact ⟨hother, rfl, rfl, rfl, rfl, rfl⟩

end Sys2Proof.Machine
end

section
/-! MAP and UNMAP (R248, R249, R428): the page that each writes, and what it leaves of the tables. -/

namespace Sys2Proof.Machine
open Sys2Proof

/-- The poisoned sectors of a page are rewritten: that touches the stacks only (R479). -/
theorem State.cleanPage_offStack (s : State) (w va n : Nat) : (s.cleanPage w va n).offStack = s.offStack := by
  unfold State.cleanPage
  split
  · rfl
  · exact ite_fixes State.offStack (fun _ => forEach_fixes State.offStack _ (fun _ _ => State.writeSec_offStack _ _ _ _ _ _) _ s) fun _ => rfl

/-- The ward's entry of one page is written, after its poisoned sectors. -/
def State.setPage (s : State) (w va n : Nat) (f : Ward → Ward) : State := (s.cleanPage w va n).modWard w f

section
variable (s : State) (w va n : Nat) (f : Ward → Ward)

theorem State.setPage_ward_same : (s.setPage w va n f).ward w = f (s.ward w) := by
  have hclean : (s.cleanPage w va n).ward w = s.ward w := congrArg (Tab.get · w) (wards_of_offStack (s.cleanPage_offStack w va n))
  rw [State.setPage, State.modWard_ward_same, hclean]

theorem State.setPage_ward_other {v : Nat} (h : v ≠ w) : (s.setPage w va n f).ward v = s.ward v :=
  (State.modWard_ward_other _ w f v h).trans (congrArg (Tab.get · v) (wards_of_offStack (s.cleanPage_offStack w va n)))

end

/-! ### One entry of the tables (R249) -/

section
variable (y : Ward) (va pa rights kslot : Nat)

theorem Ward.mapOne_structBad (size : Nat) : (y.mapOne va pa size rights kslot).structBad = y.structBad := by
  unfold Ward.mapOne
  extract_lets z t
  refine ite_fixes Ward.structBad (fun _ => ?_) fun _ => rfl
  change z.structBad = _
  unfold z
  split <;> rfl

/-- A page of 1 GiB is a leaf of level 1. -/
theorem Ward.mapOne_large (i : Nat) : (y.mapOne va pa 1 rights kslot).l1.get i =
    if i = va / 2 ^ 30 then leafWord pa rights kslot else y.l1.get i := by
  have hl1 : (y.mapOne va pa 1 rights kslot).l1 = y.l1.set (va / 2 ^ 30) (leafWord pa rights kslot) := by
    unfold Ward.mapOne
    rw [if_pos rfl]
    dsimp only
    split <;> rfl
  rw [hl1, Tab.get_set]

/-- A page of 2 MiB is a leaf of the table that serves its address. -/
theorem Ward.mapOne_small {t : Nat} (ht : y.tableAt va = some t) (i : Nat) : (y.mapOne va pa 0 rights kslot).l2.get i =
    if i = t * 512 + va / 2 ^ 21 % 512 then leafWord pa rights kslot else y.l2.get i := by
  unfold Ward.mapOne
  rw [if_neg Nat.zero_ne_one, ht]
  exact Tab.get_set _ _ _ _

theorem Ward.unmapOne_structBad (size : Nat) : (y.unmapOne va size).structBad = y.structBad := by
  unfold Ward.unmapOne
  refine ite_fixes Ward.structBad (fun _ => rfl) fun _ => ?_
  split
  · rfl
  · exact ite_fixes Ward.structBad (fun _ => rfl) fun _ => rfl

theorem Ward.unmapOne_large (i : Nat) : (y.unmapOne va 1).l1.get i = if i = va / 2 ^ 30 then 0 else y.l1.get i := by
  unfold Ward.unmapOne
  rw [if_pos rfl]
  exact Tab.get_set _ _ _ _

theorem Ward.unmapOne_small {t : Nat} (ht : y.tableAt va = some t) (i : Nat) : (y.unmapOne va 0).l2.get i =
    if i = t * 512 + va / 2 ^ 21 % 512 then 0 else y.l2.get i := by
  unfold Ward.unmapOne
  rw [if_neg Nat.zero_ne_one, ht]
  dsimp only
  split <;> exact Tab.get_set _ _ _ _

end

/-! ### MAP and UNMAP (R428): one equation per answer -/

section
variable {s : State} {x : OpCtx} {va pa count size rights kslot : Nat}

theorem State.doMap_bad (h : s.mapBad x.w va pa count size rights kslot = true) :
    s.doMap x va pa count size rights kslot = s.complete x.jseq .protection := if_pos h

theorem State.doMap_one (h : s.mapBad x.w va pa 1 size rights kslot = false) : s.doMap x va pa 1 size rights kslot =
    (s.setPage x.w va (pageSize size) fun y => y.mapOne va pa size rights kslot).complete x.jseq .ok := by
  unfold State.doMap
  rw [if_neg (by rw [h]; decide)]
  simp only [List.range_one, forEach, List.foldl_cons, List.foldl_nil, Nat.zero_mul, Nat.add_zero]
  rfl

theorem State.doUnmap_bad (h : s.unmapBad x.w va count size = true) : s.doUnmap x va count size = s.complete x.jseq .protection := if_pos h

theorem State.doUnmap_one (h : s.unmapBad x.w va 1 size = false) : s.doUnmap x va 1 size =
    (s.setPage x.w va (pageSize size) fun y => y.unmapOne va size).complete x.jseq .ok := by
  unfold State.doUnmap
  rw [if_neg (by rw [h]; decide)]
  simp only [List.range_one, forEach, List.foldl_cons, List.foldl_nil, Nat.zero_mul, Nat.add_zero]
  rfl

end

/-- A taken command that writes one page of its ward's tables, and what a caller wants to know of the state it completes in. -/
theorem State.command_setPage {s : State} {src : Src} {op : HostOp} (g : OpCtx → State → State) (h : s.takesHere src op = true)
    (hscope : op.wardScope = true) {va n : Nat} {f : Ward → Ward} (hf : ∀ y : Ward, (f y).structBad = y.structBad)
    (hg : g (s.ctxOf src op) (s.taken src op) = ((s.taken src op).setPage (s.ctxOf src op).w va n f).complete (s.ctxOf src op).jseq .ok) :
    ∃ u : State, s.command src op g = u.complete (s.ctxOf src op).jseq .ok ∧ (∀ v, v ≠ (s.ctxOf src op).w → u.ward v = s.ward v) ∧
      u.ward (s.ctxOf src op).w = f (s.ward (s.ctxOf src op).w) := by
  have hward := State.setPage_ward_same (s.taken src op) (s.ctxOf src op).w va n f
  refine ⟨_, State.command_to g h hscope hg ?_, fun v hv => State.setPage_ward_other _ _ va n f hv, hward⟩
  rw [State.complete_ward, hward, hf]
  rfl

/-- Settles O28: each command's effect by its equation; of the ward's tables one entry is written. The statement speaks of the entries that a
walk reads (R249), of one page at a time. -/
theorem pagesMapAndUnmap : Obligations.PagesMapAndUnmap := by
  rintro s _ src va pa size rights kslot count _ op c n _ rfl rfl rfl rfl htakes
  refine ⟨?map, ?unmap⟩
  case map =>
    rintro rfl rfl
    refine ⟨fun hbad => ?_, fun hgood hone => ?_⟩
    · exact congrArg Host.Outcome.next (State.command_to _ htakes rfl (State.doMap_bad hbad) (by rw [State.complete_ward]; rfl))
    · subst hone
      obtain ⟨u, hu, hother, hward⟩ := State.command_setPage (fun x t => t.doMap x va.toNat pa.toNat 1 size rights kslot) htakes rfl
        (fun y => y.mapOne_structBad va.toNat pa.toNat rights kslot size) (State.doMap_one hgood)
      refine ⟨_, congrArg Host.Outcome.next hu, u, rfl, hother, ?_, ?_⟩
      · rintro rfl
        simp +contextual only [hward, Ward.mapOne_large, if_true, if_false, implies_true, and_self]
      · rintro rfl t ht
        simp +contextual only [hward, Ward.mapOne_small _ _ _ _ _ ht, if_true, if_false, implies_true, and_self]
  case unmap =>
    rintro rfl rfl
    refine ⟨fun hbad => ?_, fun hgood hone => ?_⟩
    · exact congrArg Host.Outcome.next (State.command_to _ htakes rfl (State.doUnmap_bad hbad) (by rw [State.complete_ward]; rfl))
    · subst hone
      obtain ⟨u, hu, hother, hward⟩ := State.command_setPage (fun x t => t.doUnmap x va.toNat 1 size) htakes rfl
        (fun y => y.unmapOne_structBad va.toNat size) (State.doUnmap_one hgood)
      refine ⟨_, congrArg Host.Outcome.next hu, u, rfl, hother, ?_, ?_⟩
      · rintro rfl
        simp +contextual only [hward, Ward.unmapOne_large, if_true, if_false, implies_true, and_self]
      · rintro rfl t ht
        simp +contextual only [hward, Ward.unmapOne_small _ _ ht, if_true, if_false, implies_true, and_self]

end Sys2Proof.Machine
end

section
/-! What the work of a channel or a developer leaves alone: properties that reads, writes and records of it do not speak of, and that each
shared operation therefore keeps. -/

namespace Sys2Proof.Machine
open Sys2Proof

/-- A property that speaks neither of memory, the stacks and the messages nor of the damaged words of tile stores. -/
structure OffData (P : State → Prop) : Prop where
  stack : ∀ s t : State, t.offStack = s.offStack → P s → P t
  mend : ∀ (s : State) (i off n : Nat), P s → P (s.mendStore i off n)

/-- Nor of what a ward is charged for its accesses (R430). -/
structure OffAccess (P : State → Prop) : Prop extends OffData P where
  charge : ∀ (s : State) (w c va n : Nat) (wr : Bool), P s → P (s.charge w c va n wr)

/-- Nor of the wards and the statistics sites at all. -/
structure OffWards (P : State → Prop) : Prop extends OffData P where
  ward : ∀ (s : State) (w : Nat) (f : Ward → Ward), P s → P (s.modWard w f)
  site : ∀ (s : State) (i : Nat) (f : Site → Site), P s → P (s.modSite i f)

/-! ### What a descriptor reads (R235 to R241) -/

theorem copyUnit_offStack (w : Nat) (d : Desc) (un : List Nat) (o : DOut) (i : List Nat) : (copyUnit w d un o i).s.offStack = o.s.offStack := by
  unfold copyUnit
  extract_lets si va
  refine ite_fixes (fun o : DOut => o.s.offStack) (fun _ => ite_fixes (fun o : DOut => o.s.offStack) (fun _ => rfl) fun _ => rfl) fun _ => ?_
  exact State.readVa_offStack o.s _ _ _ _ _

theorem unpackElem_offStack (w : Nat) (d : Desc) (un : List Nat) (o : DOut) (i : List Nat) :
    (unpackElem w d un o i).s.offStack = o.s.offStack := by
  unfold unpackElem
  extract_lets va
  refine ite_fixes (fun o : DOut => o.s.offStack) (fun _ => ite_fixes (fun o : DOut => o.s.offStack) (fun _ => rfl) fun _ => rfl) fun _ => ?_
  exact State.readVa_offStack o.s _ _ _ _ _

theorem packElems_offStack (w : Nat) (d : Desc) (un : List Nat) (s : State) (is : List (List Nat)) :
    (packElems w d un s is).1.offStack = s.offStack := by
  refine foldl_fixes (fun p : State × List (Option W32) => p.1.offStack) _ (fun p i => ?_) _ _
  refine ite_fixes (fun p : State × List (Option W32) => p.1.offStack) (fun _ => ?_) fun _ => rfl
  exact State.readVa_offStack p.1 _ _ _ _ _

theorem packPlate_offStack (w : Nat) (d : Desc) (un : List Nat) (o : DOut) (n : Nat) : (packPlate w d un o n).s.offStack = o.s.offStack := by
  unfold packPlate
  extract_lets i va sq
  refine ite_fixes (fun o : DOut => o.s.offStack) (fun _ => ite_fixes (fun o : DOut => o.s.offStack) (fun _ => rfl) fun _ => rfl) fun _ => ?_
  exact foldl_fixes (fun p : State × List Conv × W32 => p.1.offStack) _ (fun p _ => packElems_offStack w d un p.1 _) _ _

theorem skewVec_offStack (w : Nat) (d : Desc) (un : List Nat) (o : DOut) (v : Nat) : (skewVec w d un o v).1.s.offStack = o.s.offStack := by
  unfold skewVec
  extract_lets tail
  refine ite_fixes (fun p : DOut × List Byte × List Byte × Bool => p.1.s.offStack) (fun _ => State.readVa_offStack o.s _ _ _ _ _) fun _ => ?_
  refine foldl_fixes (fun p : DOut × List Byte × List Byte × Bool => p.1.s.offStack) _ (fun p j => ?_) _ _
  dsimp only
  split <;> exact packElems_offStack w d un p.1.s _

theorem dmaPlan_offStack (s : State) (w : Nat) (d : Desc) (gen : W32) (jb : Nat) (un : List Nat) :
    (dmaPlan s w d gen jb un).s.offStack = s.offStack := by
  unfold dmaPlan
  extract_lets seeded v g o
  split
  · exact foldl_fixes (fun o : DOut => o.s.offStack) _ (packPlate_offStack w d un) _ o
  · exact foldl_fixes (fun o : DOut => o.s.offStack) _ (fun o n => unpackElem_offStack w d un o _) _ o
  · exact foldl_fixes (fun p : DOut × List (List Byte × List Byte × Bool) => p.1.s.offStack) _ (fun p v => skewVec_offStack w d un p.1 v) _ _
  · exact foldl_fixes (fun o : DOut => o.s.offStack) _ (fun o n => copyUnit_offStack w d un o _) _ o

theorem State.openWrites_offStack (s : State) (ws : List DWr) : (s.openWrites ws).2.offStack = s.offStack :=
  foldl_fixes (fun p : List DWr × State => p.2.offStack) _ (by intros; rfl) _ _

theorem State.mixBytes_offStack (s : State) (w c va : Nat) (bs : List Byte) (pick : Nat → Bool) :
    (s.mixBytes w c va bs pick).2.offStack = s.offStack :=
  ite_fixes (fun p : List Byte × State => p.2.offStack) (fun _ => rfl) fun _ => rfl

theorem State.someBlocks_offStack (s : State) (n : Nat) (out : Bool) (ds : List SiteDelta) : (s.someBlocks n out ds).1.offStack = s.offStack :=
  ite_fixes (fun p : State × Nat × SiteDelta => p.1.offStack) (fun _ => rfl) fun _ => rfl

/-! ### Writes -/

section
variable {P : State → Prop} (hP : OffData P) {s : State} (h : P s)
include hP h

theorem OffData.readVa (w c va n : Nat) (un : List Nat) : P (s.readVa w c va n un).1 := hP.stack _ _ (State.readVa_offStack s w c va n un) h

theorem OffData.writeVa (w c va : Nat) (bs : List Byte) : P (s.writeVa w c va bs) := State.writeVa_keeps P hP.stack hP.mend s w c va bs h

theorem OffData.report (r : FRec) : P (s.report r) := hP.stack _ _ (State.report_offStack s r) h

theorem OffData.freeVa (w c va n : Nat) : P (s.freeVa w c va n) :=
  hP.writeVa (hP.stack s { s with fresh := s.fresh + n } rfl h) w c va _

/-- A write of a descriptor: bytes left open, the bytes themselves, and the sectors that carry poison on. -/
theorem OffData.dmaWrite (w c : Nat) (mix : Bool) (reads : List (Nat × Nat)) (x : DWr) : P (s.dmaWrite w c mix reads x) := by
  unfold State.dmaWrite
  extract_lets hit
  have hmix : P (if mix || !reads.isEmpty then s.mixBytes w c x.va x.bytes hit else (x.bytes, s)).2 := by
    split
    · exact hP.stack _ _ (State.mixBytes_offStack s w c x.va x.bytes hit) h
    · exact h
  split
  rename_i bs t heq
  rw [heq] at hmix
  have hwrite := hP.writeVa hmix w c x.va bs
  dsimp only
  split
  · refine forEach_keeps P _ _ (fun u k hu => ?_) _ hwrite
    split
    · split
      · split
        · exact hP.stack u _ rfl hu
        · exact hu
      · exact hu
    · exact hu
  · exact hwrite

theorem OffData.dmaWrites (w c : Nat) (mix : Bool) (reads : List (Nat × Nat)) (xs : List DWr) :
    P (forEach xs s fun s x => s.dmaWrite w c mix reads x) := forEach_keeps P xs _ (fun _ x ht => hP.dmaWrite ht w c mix reads x) s h

/-- The die controllers' own writes, where the property does not speak of a noted error either. -/
theorem OffData.wrStruct (w va : Nat) (bs : List Byte) (hnote : ∀ t, P t → P (t.modWard w fun x => { x with structBad := true })) :
    P (s.wrStruct w va bs) := by
  refine foldl_keeps P _ (fun t e ht => ?_) _ s h
  dsimp only
  split
  · exact ht
  · rename_i l _
    have hsec := hP.stack _ _ (State.writeSec_offStack t (t.slot l.kslot).key l.pa ((bs.drop (e.1 - va)).take e.2) w 0) ht
    exact iteInduction (motive := P) (fun _ => iteInduction (motive := P) (fun _ => hnote _ hsec) fun _ => hsec) fun _ => ht

end

/-! ### The accesses of a developer (R277) -/

section
variable {P : State → Prop} (hP : OffAccess P) {s : State} (h : P s)
include hP h

theorem OffAccess.readSpans (w c : Nat) (sp : List (Nat × Nat)) (un : List Nat) : P (s.readSpans w c sp un).1 :=
  foldl_keeps (fun p : State × RdOut => P p.1) _ (fun _ e hp => hP.readVa (hP.charge _ w c e.1 e.2 false hp) w c e.1 e.2 un) _ _ h

theorem OffAccess.writeSpans (w c : Nat) (sp : List (Nat × Nat)) (bs : List Byte) : P (s.writeSpans w c sp bs) :=
  foldl_keeps (fun p : State × Nat => P p.1) _ (fun _ e hp => hP.writeVa (hP.charge _ w c e.1 e.2 true hp) w c e.1 _) _ _ h

theorem OffAccess.readUnits (o : DevOp) (un : List Nat) (n u : Nat) : P (s.readUnits o un n u).1 :=
  foldl_keeps (fun p : State × List (List Byte) × Bool => P p.1) _ (fun _ _ hp => hP.readSpans hp _ _ _ un) _ _ h

theorem OffAccess.quantBlock (o : DevOp) (un : List Nat) (g : W32) (runs : List (Nat × Nat)) : P (s.quantBlock o un g runs).1 := by
  refine foldl_keeps (fun p : State × List (Option W32) => P p.1) _ (fun p e hp => ?_) _ _ h
  exact hP.readSpans hp _ _ _ un

theorem OffAccess.quantPlates (d : Nat) (o : DevOp) (un : List Nat) : P (s.quantPlates d o un).1 := by
  refine foldl_keeps (fun p : State × W32 × List (List Byte × Bool × List SiteDelta) => P p.1) _ (fun p k hp => ?_) _ _ h
  refine foldl_keeps (fun p : State × List Conv × W32 => P p.1) _ (fun q j hq => ?_) _ _ hp
  exact hP.quantBlock hq o un q.2.2 _

end

/-! ### Wards and sites -/

section
variable {P : State → Prop} (hP : OffWards P)
include hP

theorem OffWards.toAccess : OffAccess P := by
  refine { hP with charge := fun s w c va n wr h => ?_ }
  unfold State.charge
  split
  · exact h
  · exact hP.ward s w _ h

variable {s : State} (h : P s)
include h

theorem OffWards.countFault (w : Nat) : P (s.countFault w) := hP.ward s w _ h

theorem OffWards.jobFault (w : Nat) (st : St) : P (s.jobFault w st) := hP.ward s w _ h

theorem OffWards.notePoison (i bank unit idx : Nat) : P (s.notePoison i bank unit idx) := by
  unfold State.notePoison
  dsimp only
  split
  · exact h
  · split
    · exact hP.jobFault (hP.report h _) _ _
    · split
      · exact hP.ward _ _ _ (hP.report h _)
      · exact hP.report h _

theorem OffWards.addSite (n k : Nat) (d : SiteDelta) : P (s.addSite n k d) := by
  unfold State.addSite State.onSite
  extract_lets t
  have ht : P t := hP.site s _ _ h
  split
  · split
    · exact hP.ward t _ _ ht
    · exact ht
  · exact ht

theorem OffWards.setSq (w i : Nat) (f : Sq → Sq) : P (s.setSq w i f) := hP.ward s w _ h

theorem OffWards.setReg (w c : Nat) (f : RegEnt → RegEnt) : P (s.setReg w c f) :=
  hP.wrStruct (hP.ward s w _ h) w _ _ fun t ht => hP.ward t w _ ht

end

end Sys2Proof.Machine
end

section
/-! DMA_ACCESS_ERROR: an access of a channel that translation refuses (R251, R255 to R259, R265, R267, R270). -/

namespace Sys2Proof.Machine
open Sys2Proof

/-- From `s` on, of channel `c` only the generator and the count of written blocks have changed, of ward `w` only what a failed
snapshot would put back, and no other channel or ward: what writing down a part of the descriptor in progress does. -/
structure DescMixed (s t : State) (c w : Nat) : Prop where
  chan : ∃ g n, ChanIs s t c { s.chan c with gen := g, counted := n }
  kept : ∃ l, t.ward w = { s.ward w with statKept := l }
  others : ∀ v, v ≠ w → t.ward v = s.ward v

theorem DescMixed.refl (s : State) (c w : Nat) : DescMixed s s c w := ⟨⟨_, _, rfl, fun _ _ => rfl⟩, ⟨_, rfl⟩, fun _ _ => rfl⟩

section
variable {s t u : State} {c w : Nat}

theorem DescMixed.of_tables (h : DescMixed s t c w) (hc : u.chans = t.chans) (hw : u.wards = t.wards) : DescMixed s u c w := by
  obtain ⟨⟨g, n, hchan⟩, ⟨l, hkept⟩, hothers⟩ := h
  have hward (v : Nat) : u.ward v = t.ward v := congrArg (Tab.get · v) hw
  exact ⟨⟨g, n, hchan.of_chans hc⟩, ⟨l, (hward w).trans hkept⟩, fun v hv => (hward v).trans (hothers v hv)⟩

theorem DescMixed.offData (s : State) (c w : Nat) : OffData (DescMixed s · c w) where
  stack _ _ h ht := ht.of_tables (chans_of_offStack h) (wards_of_offStack h)
  mend t i off n ht := by
    obtain ⟨x, hx⟩ := t.mendStore_frame i off n
    exact ht.of_tables (by rw [hx]) (by rw [hx])

theorem DescMixed.note (h : DescMixed s t c w) (f : Chan → Chan)
    (hf : ∀ g n, ∃ g' n', f { s.chan c with gen := g, counted := n } = { s.chan c with gen := g', counted := n' }) :
    DescMixed s (t.modChan c f) c w := by
  obtain ⟨⟨g, n, hchan⟩, hkept, hothers⟩ := h
  obtain ⟨g', n', hf⟩ := hf g n
  exact ⟨⟨g', n', hf ▸ hchan.modChan f⟩, hkept, hothers⟩

theorem DescMixed.wardOfDie (h : DescMixed s t c w) (n : Nat) : t.wardOfDie n = s.wardOfDie n := by
  obtain ⟨-, ⟨l, hkept⟩, hothers⟩ := h
  have hholds (v : Nat) : (t.ward v).holds n = (s.ward v).holds n := by
    by_cases hv : v = w
    · rw [hv, hkept]
      rfl
    · rw [hothers v hv]
  simp only [State.wardOfDie, hholds]

/-- A change of a statistics site of the ward's die reaches no other ward. -/
theorem DescMixed.onSite (h : DescMixed s t c w) {i : Nat} (hw : s.wardOfDie (i / 1024) = some w) (f : Site → Site) :
    DescMixed s (t.onSite i f) c w := by
  have hsite : DescMixed s (t.modSite i f) c w := h.of_tables rfl rfl
  unfold State.onSite
  extract_lets u
  rw [hsite.wardOfDie, hw]
  refine iteInduction (motive := (DescMixed s · c w)) (fun _ => ?_) fun _ => hsite
  obtain ⟨hchan, ⟨l, hkept⟩, hothers⟩ := hsite
  refine ⟨hchan, ⟨l.modify i f, ?_⟩, fun v hv => (State.modWard_ward_other _ w _ v hv).trans (hothers v hv)⟩
  dsimp only
  rw [State.modWard_ward_same, hkept]

theorem cwOf_site_lt (x : W16) : (cwOf x).site < 1024 := Nat.mod_lt _ (by decide)

variable (hw : s.wardOfDie (c / 64) = some w)
include hw

theorem DescMixed.countPart (h : DescMixed s t c w) : DescMixed s (t.countPart c w) c w := by
  unfold State.countPart
  extract_lets x
  split
  · exact h
  · rename_i d _
    refine iteInduction (motive := (DescMixed s · c w)) (fun _ => ?_) fun _ => h
    have hblocks := (DescMixed.offData s c w).stack _ _
      (t.someBlocks_offStack x.counted (t.readsOut w d.ctx d.accesses) (dmaPlan t w d x.gen (t.ward w).jb []).deltas) h
    split
    rename_i u m dl heq
    rw [heq] at hblocks
    have hdie : (c / 64 * 1024 + d.cw.site) / 1024 = c / 64 := by
      have := cwOf_site_lt (BitVec.ofNat 16 (wf (d.wd 6) 15 0))
      rw [Desc.cw]
      omega
    exact (hblocks.onSite (by rw [hdie]; exact hw) _).note _ fun g n => ⟨g, m, rfl⟩

theorem State.mixDesc_mixed : DescMixed s (s.mixDesc c w) c w := by
  unfold State.mixDesc
  split
  · exact DescMixed.refl s c w
  · rename_i d _
    extract_lets o
    have hplan : DescMixed s o.s c w := (DescMixed.offData s c w).stack _ _ (dmaPlan_offStack s w d _ _ []) (DescMixed.refl s c w)
    have hopen : DescMixed s (if s.readsOut w d.ctx d.accesses then o.s.openWrites o.ws else (o.ws, o.s)).2 c w := by
      split
      · exact (DescMixed.offData s c w).stack _ _ (o.s.openWrites_offStack o.ws) hplan
      · exact hplan
    split
    rename_i ws t heq
    rw [heq] at hopen
    extract_lets s1 s2
    have hwrites : DescMixed s s1 c w := (DescMixed.offData s c w).dmaWrites (hopen.countPart hw) w d.ctx true [] ws
    have hstage : DescMixed s s2 c w := by
      refine iteInduction (motive := (DescMixed s · c w)) (fun _ => hwrites) fun _ => ?_
      exact (DescMixed.offData s c w).freeVa hwrites w d.ctx d.xaddr d.stageBytes
    have hfresh : DescMixed s s2.takeFresh.2 c w := (DescMixed.offData s c w).stack s2 _ rfl hstage
    exact hfresh.note _ fun g n => ⟨_, 0, rfl⟩

/-! ### Stops (R256, R257) -/

/-- What a stop of channel `c` of ward `w` leaves (R257, R267). -/
structure Stopped (s t : State) (c w : Nat) (st : St) (cause va : Nat) : Prop where
  chan : ∃ g n, ChanIs s t c { s.chan c with gen := g, counted := n, st := .stopped, status := st.code, cause := BitVec.ofNat 8 cause,
                                             faultVa := BitVec.ofNat 48 va, desc := none, irqPend := true }
  ward : ∃ l, t.ward w = { if (s.chan c).kicked then (s.ward w).faulted st else s.ward w with statKept := l }
  others : ∀ v, v ≠ w → t.ward v = s.ward v

theorem State.stopRun_stopped (d : Desc) (st : St) (cause va : Nat) : Stopped s (s.stopRun c w d st cause va) c w st cause va := by
  obtain ⟨⟨g, n, hchan⟩, ⟨l, hkept⟩, hothers⟩ := State.mixDesc_mixed hw
  unfold State.stopRun
  extract_lets x word0 ctx s0 s1 s2 s3
  have hrec : s2.still = s1.still := State.report_still s1 _
  have hirq : s3.still = (s2.modChan c fun x => { x with irqPend := true }).still := s2.chanIrq_still c
  have hchan3 := (((hchan.modChan fun x =>
    { x with st := .stopped, status := st.code, cause := BitVec.ofNat 8 cause, faultVa := BitVec.ofNat 48 va, desc := none }).of_chans
      (chans_of_still hrec)).modChan fun x => { x with irqPend := true }).of_chans (chans_of_still hirq)
  have hwards : s3.wards = s0.wards := (State.wards_of_still hirq).trans (State.wards_of_still hrec : s2.wards = s1.wards)
  have hward (v : Nat) : s3.ward v = s0.ward v := congrArg (Tab.get · v) hwards
  by_cases hkick : x.kicked = true
  · rw [if_pos hkick, State.jobFault_eq]
    refine ⟨⟨g, n, hchan3⟩, ⟨l, ?_⟩, fun v hv => ?_⟩
    · rw [State.modWard_ward_same, hward, hkept, if_pos hkick]
      rfl
    · exact (State.modWard_ward_other _ w _ v hv).trans ((hward v).trans (hothers v hv))
  · rw [if_neg hkick]
    refine ⟨⟨g, n, hchan3⟩, ⟨l, ?_⟩, fun v hv => (hward v).trans (hothers v hv)⟩
    rw [hward, hkept, if_neg hkick]

end

/-! ### The refused access -/

section
variable {s : State} {c w : Nat} {va : Addr} {wr : Bool} {seen : List (Nat × Byte)} {a : Nat × Nat × Bool × Nat}
  (hw : s.wardOfDie (c / 64) = some w) (hrun : (s.chan c).st = .running) (hsq : (s.chan c).squashing = none)
include hw hrun hsq

theorem execDmaAccessError_eq (e : AccErr) :
    execDmaAccessError c ⟨e, seen⟩ s = .next (((s.seen seen).accessError c w e).getD s) := by
  unfold execDmaAccessError
  rw [hw]
  exact if_neg (by simp [hrun, hsq])

theorem execDmaAccessError_unmade (h : (((s.seen seen).chanAccesses c w).find? fun a => inAccess va.toNat (some wr) a) = none) :
    execDmaAccessError c ⟨.translate va wr, seen⟩ s = .next s := by
  rw [execDmaAccessError_eq hw hrun hsq, State.accessError]
  dsimp only
  rw [h]
  rfl

variable (ha : (((s.seen seen).chanAccesses c w).find? fun a => inAccess va.toNat (some wr) a) = some a)
include ha

theorem execDmaAccessError_granted {l : Loc} (h : s.xlate w a.2.2.2 va.toNat wr (hpPort c) = .ok l) :
    execDmaAccessError c ⟨.translate va wr, seen⟩ s = .next s := by
  have hx : (s.seen seen).xlate w a.2.2.2 va.toNat wr (hpPort c) = .ok l := (xlate_of_xview rfl _ _ _ _ _).trans h
  rw [execDmaAccessError_eq hw hrun hsq, State.accessError]
  dsimp only
  rw [ha]
  dsimp only
  rw [hx]
  rfl

theorem execDmaAccessError_refused {st : St} (h : s.xlate w a.2.2.2 va.toNat wr (hpPort c) = .error st) (hst : st ≠ .keyRetired) :
    execDmaAccessError c ⟨.translate va wr, seen⟩ s =
      .next (((s.seen seen).countFault w).stopRun c w (((s.seen seen).countFault w).failing c w) st 0x38 va.toNat) := by
  have hx : (s.seen seen).xlate w a.2.2.2 va.toNat wr (hpPort c) = .error st := (xlate_of_xview rfl _ _ _ _ _).trans h
  rw [execDmaAccessError_eq hw hrun hsq, State.accessError]
  dsimp only
  rw [ha]
  dsimp only
  rw [hx]
  dsimp only
  rw [if_neg hst]
  rfl

end

theorem State.countFault_wardOfDie (s : State) (w n : Nat) : (s.countFault w).wardOfDie n = s.wardOfDie n := by
  have hholds (v : Nat) : ((s.countFault w).ward v).holds n = (s.ward v).holds n := by
    by_cases hv : v = w
    · rw [hv, State.countFault, State.modWard_ward_same]
      rfl
    · rw [State.countFault, State.modWard_ward_other _ _ _ _ hv]
  simp only [State.wardOfDie, hholds]

/-- Settles O41: a refused access of a channel stops its run. The model's choices: the first decided fault of a job stays (log
entry 13), and the command names the access of the descriptor that fails (log entry 55). -/
theorem failedAccessesStopTheRun : Obligations.FailedAccessesStopTheRun := by
  unfold Obligations.FailedAccessesStopTheRun
  rintro s z c w va wr seen x hw rfl hrun hsq rfl
  refine ⟨execDmaAccessError_unmade hw hrun hsq, fun a ha => ⟨fun l => execDmaAccessError_granted hw hrun hsq ha, fun st hx hst => ?_⟩⟩
  refine ⟨_, execDmaAccessError_refused hw hrun hsq ha hx hst, ?_⟩
  have hcount : ((s.seen seen).countFault w).wardOfDie (c / 64) = some w := (State.countFault_wardOfDie _ _ _).trans hw
  obtain ⟨⟨g, n, hchan, hchans⟩, ⟨l, hward⟩, hothers⟩ :=
    State.stopRun_stopped hcount (((s.seen seen).countFault w).failing c w) st 0x38 va.toNat
  have hsame : ((s.seen seen).countFault w).ward w = { s.ward w with xlatFaults := incSat (s.ward w).xlatFaults } :=
    State.modWard_ward_same _ w _
  have hc : ((s.seen seen).countFault w).chan c = s.chan c := rfl
  rw [hsame, hc] at hward
  dsimp only
  rw [hchan, hc]
  refine ⟨rfl, rfl, rfl, BitVec.ofNat_toNat _ _ ▸ BitVec.setWidth_eq va, rfl, rfl, rfl, hchans, ?_, fun v hv => ?_,
    fun hkick j hj => ?_, fun hkick => ?_⟩
  · rw [hward]
    split <;> rfl
  · exact (hothers v hv).trans (State.modWard_ward_other _ w _ v hv)
  · rw [hward, if_pos hkick]
    exact ⟨{ j with fault := some (j.fault.getD st) }, by simp [Ward.faulted, hj], rfl⟩
  · rw [hward, if_neg (by simp [hkick])]

end Sys2Proof.Machine
end

section
/-! DMA_DESCRIPTOR_COMPLETE on a memory whose entries are out of order: the statement does not ask for the canonical form
(`Memory.wf`, log entry 5), and clearing a never-written sector brings a hidden entry to light. -/

namespace Sys2Proof.Machine
open Sys2Proof

/-- RAW, one unit of one byte, from address 1024 to address 517. -/
def oneByteCopy : Desc := { words := [0, 1024, 517], sshape := {}, dshape := {}, dense := true }

/-- Channel 5 runs with that copy in progress, its pages mapped to themselves. The entry of byte 600 hides that of byte 3, and the
sector of both 517 and 600 has not been written under its key. -/
def hidingState : State :=
  { mem := [(600, 1), (3, 7)], secTags := [(2, { kind := .fresh, key := 5 })],
    chans := [(5, { st := .running, remain := 2, desc := some oneByteCopy })],
    wards := [(0, { dies := 1, l1 := [(0, leafWord 0 3 1)] })],
    slots := [(1, { st := .ward, ward := 0, key := 5 })] }

/-- What the copy generates and writes. -/
def oneBytePlan : DOut := dmaPlan hidingState 0 oneByteCopy (hidingState.chan 5).gen (hidingState.ward 0).jb (badSectors [])

theorem oneBytePlan_writes : oneBytePlan.ws.map (fun y => (y.va, y.bytes.length)) = [(517, 1)] := by decide +kernel

theorem hidingState_xlate : (hidingState.xlate 0 0 517 true).toOption = some ⟨.stack, 517, 1, 0⟩ := by decide +kernel

theorem hidingState_complete :
    ∃ t, exec (.dmaDescriptorComplete 5 [] []) hidingState = .next t ∧ t.rdByte 3 = 7 :=
  ⟨_, rfl, by decide +kernel⟩

/-- Each byte that the copy writes translates to byte 517 of the stacks. -/
theorem oneBytePlan_translates {y : DWr} (hy : y ∈ oneBytePlan.ws) {k : Nat} (hk : k < y.bytes.length) {l : Loc}
    (hl : hidingState.xlate 0 0 (y.va + k) true = .ok l) : l = ⟨.stack, 517, 1, 0⟩ := by
  have hmem : (y.va, y.bytes.length) ∈ [(517, 1)] := oneBytePlan_writes ▸ List.mem_map_of_mem hy
  obtain ⟨hva, hlen⟩ := Prod.mk.inj (List.mem_singleton.mp hmem)
  rw [hva, show k = 0 by omega] at hl
  exact (Option.some.inj (hidingState_xlate.symm.trans (congrArg Except.toOption hl))).symm

/-- Refutes O40: byte 3 lies in no sector that the copy writes and reads 0 before, because a later address stands in front of its
entry; the clear of sector 2 takes that entry away, and byte 3 reads 7. In a memory in
canonical form no entry hides another; the statement's premises do not ask for one. -/
theorem not_descriptorsCompleteInOrder : ¬ Obligations.DescriptorsCompleteInOrder := by
  unfold Obligations.DescriptorsCompleteInOrder
  intro h
  obtain ⟨t, hnext, -, -, hrest⟩ := h hidingState hidingState hidingState 5 0 [] [] (hidingState.chan 5) oneByteCopy oneBytePlan
    (by decide +kernel) rfl rfl rfl rfl rfl (by decide +kernel) (by decide +kernel) (by decide +kernel) (by decide +kernel) rfl rfl
    (by decide +kernel)
  have hkept : t.rdByte 3 = hidingState.rdByte 3 := by
    refine hrest (by decide) (by decide) (fun y hy k hk l hl => ?_) 3 (by decide) fun y hy k hk l hl => ?_
    · exact .inl (by rw [oneBytePlan_translates hy hk hl])
    · rw [oneBytePlan_translates hy hk hl]
      decide
  obtain ⟨t', hnext', hread⟩ := hidingState_complete
  obtain rfl : t = t' := Host.Outcome.next.inj (hnext.symm.trans hnext')
  exact absurd (hkept.symm.trans hread) (by decide)

end Sys2Proof.Machine
end

section
/-! The operation at the front of a developer's queue: when it runs, and what its data effect is (R277). -/

namespace Sys2Proof.Machine
open Sys2Proof

/-! ### What comes with a command -/

theorem State.hbmReports_offStack (s : State) (reps : List HbmRep) : (s.hbmReports reps).offStack = s.offStack :=
  forEach_fixes State.offStack _ (by intros; rfl) reps s

theorem State.arrived_offStack (s : State) (seen : List (Nat × Byte)) (reps : List HbmRep) :
    ((s.seen seen).hbmReports reps).offStack = s.offStack := State.hbmReports_offStack _ reps

theorem badSectors_of_sound {reps : List HbmRep} (h : ∀ r ∈ reps, r.uncorr = false) : badSectors reps = [] := by
  unfold badSectors
  rw [List.filter_eq_nil_iff.mpr fun r hr => by simp [h r hr]]
  rfl

theorem State.ctrlError_of_sound (s : State) (w : Nat) {reps : List HbmRep} (h : ∀ r ∈ reps, r.uncorr = false) : s.ctrlError w reps = none := by
  unfold State.ctrlError
  rw [List.filter_eq_nil_iff.mpr fun r hr => by simp [h r hr]]

theorem dev_of_units {s t : State} (h : t.units = s.units) (k : Nat) : t.dev k = s.dev k :=
  congrArg (Tab.get · k) (congrArg (·.2.2.2.1) h)

/-! ### The front of the queue -/

section
variable {s : State} {d : Nat}

theorem State.devHead_front {o : DevOp} {rest : List DevOp} (hq : (s.dev d).queue = o :: rest) (he : (s.dev d).ended = none) :
    s.devHead d o.kind = some o := by
  unfold State.devHead
  rw [hq]
  exact if_pos ⟨rfl, he⟩

theorem State.devHead_none {o : DevOp} {rest : List DevOp} {k : DevKind} (hq : (s.dev d).queue = o :: rest)
    (h : (s.dev d).ended ≠ none ∨ o.kind ≠ k) : s.devHead d k = none := by
  unfold State.devHead
  rw [hq]
  exact if_neg fun hrun => h.elim (· hrun.2) (· hrun.1)

theorem State.devHead_empty (hq : (s.dev d).queue = []) (k : DevKind) : s.devHead d k = none := by
  unfold State.devHead
  rw [hq]

end

/-- The data effect of an operation by its kind. -/
def State.runKind (s : State) (d : Nat) (o : DevOp) (g : DevIn) : State :=
  match o.kind with
  | .develop => s.runDevelop d o g
  | .quant => s.runQuant d o g
  | .move => s.runMove d o g
  | .encode => s.runEncode d o g

/-- Without an uncorrectable read the operation works on what has arrived. -/
theorem State.runDev_of_sound (s : State) (d : Nat) (o : DevOp) (seen : List (Nat × Byte)) {reps : List HbmRep} (lost : Option Nat)
    (h : ∀ r ∈ reps, r.uncorr = false) :
    s.runDev d o seen reps lost = ((s.seen seen).hbmReports reps).runKind d o { lost := lost } := by
  unfold State.runDev
  dsimp only
  rw [State.ctrlError_of_sound _ _ h, badSectors_of_sound h]
  rfl

theorem State.runDev_bare (s : State) (d : Nat) (o : DevOp) (lost : Option Nat) :
    s.runDev d o [] [] lost = s.runKind d o { lost := lost } := s.runDev_of_sound d o [] lost (by simp)

/-! ### A dense source of plates (R49) -/

section
variable (o : DevOp)

@[simp] theorem DevOp.plateSrc_ward : o.plateSrc.ward = o.ward := by unfold DevOp.plateSrc; split <;> rfl
@[simp] theorem DevOp.plateSrc_ctx : o.plateSrc.ctx = o.ctx := by unfold DevOp.plateSrc; split <;> rfl
@[simp] theorem DevOp.plateSrc_count : o.plateSrc.count = o.count := by unfold DevOp.plateSrc; split <;> rfl
@[simp] theorem DevOp.plateSrc_pkind : o.plateSrc.pkind = o.pkind := by unfold DevOp.plateSrc; split <;> rfl
@[simp] theorem DevOp.plateSrc_pfmt : o.plateSrc.pfmt = o.pfmt := by unfold DevOp.plateSrc; split <;> rfl
@[simp] theorem DevOp.plateSrc_tbl : o.plateSrc.tbl = o.tbl := by unfold DevOp.plateSrc; split <;> rfl
@[simp] theorem DevOp.plateSrc_use : o.plateSrc.use = o.use := by unfold DevOp.plateSrc; split <;> rfl

end

/-! ### Encoding, up to its first failing access (R279) -/

/-- A failing read of the units ends the operation before anything is written. -/
theorem State.runEncode_source {s : State} {d : Nat} {o : DevOp} {g : DevIn} {f : AccFail} (hover : s.spillOver o = false)
    (h : s.spansBad o.ward o.ctx ((s.ward o.ward).srcSpans o.plateSrc 0 (o.count * devUnit o.pkind o.pfmt)) false g.lost = some f) :
    s.runEncode d o g = s.devFails d o.ward f := by
  unfold State.runEncode
  rw [if_neg (by simp [hover])]
  simp only [DevOp.plateSrc_ward, DevOp.plateSrc_ctx, DevOp.plateSrc_count, DevOp.plateSrc_pkind, DevOp.plateSrc_pfmt, h]

end Sys2Proof.Machine
end

section
/-! What follows the end of a developer operation (R285, R288, R289, R305), and reads of a lower tier that get no data
(R260, R325). -/

namespace Sys2Proof.Machine
open Sys2Proof

/-! ### What the notes of a finished operation leave alone -/

theorem State.noteRead_offTables (s : State) (w i : Nat) : (s.noteRead w i).offTables w = s.offTables w :=
  forEach_fixes (State.offTables w) _ (fun t b => State.setBlk_offTables t w b _) _ s

theorem State.noteRead_units (s : State) (w i : Nat) : (s.noteRead w i).units = s.units :=
  forEach_fixes State.units _ (fun t b => State.setBlk_units t w b _) _ s

section
variable {s t : State} {w : Nat} (h : t.offTables w = s.offTables w)
include h

theorem ward_other_of_offTables {v : Nat} (hv : v ≠ w) : t.ward v = s.ward v := by
  have hother := congrFun (congrArg (·.2.1) h) v
  simpa only [State.offTables, if_neg hv] using hother

theorem seqs_of_offTables : (t.ward w).seqs = (s.ward w).seqs := congrArg (·.2.2.seqs) h

theorem tieFail_of_offTables : (t.ward w).tieFail = (s.ward w).tieFail := congrArg (·.2.2.tieFail) h

end

/-- What a developer operation's notes in wards and memory leave as they are: the developers. -/
theorem OffWards.sameDevs (u : State) : OffWards fun t => t.devs = u.devs where
  stack _ _ h ht := (congrArg (·.2.2.2.1) (units_of_offStack h)).trans ht
  mend t i off n ht := by
    obtain ⟨x, hx⟩ := t.mendStore_frame i off n
    rw [hx]
    exact ht
  ward _ _ _ ht := ht
  site _ _ _ ht := ht

/-! ### DEV_OPERATION_COMPLETE (R277) -/

/-- The ended operation is off the queue. -/
def Dev.shifted (x : Dev) (r : List DevOp) : Dev := { x with queue := r, ended := none }

section
variable {s : State} {d : Nat} {o : DevOp} {r : List DevOp} {e : DevEnd}

theorem execDevOperationComplete_none (he : (s.dev d).ended = none) : execDevOperationComplete d s = .next s := by
  unfold execDevOperationComplete
  extract_lets x
  rw [show x.ended = none from he]
  cases x.queue <;> rfl

variable (hq : (s.dev d).queue = o :: r) (he : (s.dev d).ended = some e)
include hq he

theorem execDevOperationComplete_good (hst : e.status = .ok) :
    execDevOperationComplete d s = .next ((s.modDev d (·.shifted r)).devGood d o e) := by
  unfold execDevOperationComplete
  dsimp only
  rw [hq, he]
  dsimp only
  rw [if_pos hst]
  rfl

theorem execDevOperationComplete_bad (hst : e.status ≠ .ok) :
    execDevOperationComplete d s = .next ((s.modDev d (·.shifted r)).devBad d o e) := by
  unfold execDevOperationComplete
  dsimp only
  rw [hq, he]
  dsimp only
  rw [if_neg hst]
  rfl

end

/-! ### Spills (R288, R289) -/

/-- One spill fewer is under way. -/
def Sq.spillDone (q : Sq) : Sq := { q with spilling := q.spilling - 1 }

section
variable {s : State} {d i ord : Nat} {o : DevOp} {e : DevEnd} (huse : o.use = .spill i ord)
include huse

theorem State.devGood_spill : s.devGood d o e = (s.setSq o.ward i Sq.spillDone).noteRead o.ward i := by
  unfold State.devGood
  rw [huse]
  rfl

/-- A failed spill write of a pre-empted sequence marks the sequence (R289). -/
theorem State.devBad_spill (hst : ((s.ward o.ward).seqs.get i).st = .preempted) (hfail : ((s.ward o.ward).seqs.get i).spillFail = false) :
    s.devBad d o e = ((((((s.devFail d o e 1 0).countTier o.ward .tierFail).setSq o.ward i fun q => { q with spillFail := true }).markSeq
      o.ward i .tierFail 4 true).setSq o.ward i Sq.spillDone).noteRead o.ward i) := by
  unfold State.devBad
  rw [huse]
  dsimp only
  rw [if_pos ⟨hst, by simp [hfail]⟩]
  rfl

end

/-- The adapter that was loading is loaded. -/
def RegEnt.loadDone (e : RegEnt) : RegEnt := if e.hot = .loading then { e with loaded := true } else e

theorem State.devGood_load {s : State} {d c : Nat} {o : DevOp} {e : DevEnd} (huse : o.use = .load c) :
    s.devGood d o e = (s.writeList o.ward c ((s.ward o.ward).registry.get c).liveCopy).setReg o.ward c RegEnt.loadDone := by
  unfold State.devGood
  rw [huse]
  rfl

theorem State.setReg_registry (s : State) (w c : Nat) (f : RegEnt → RegEnt) :
    ((s.setReg w c f).ward w).registry = (s.ward w).registry.modify c f := congrArg Ward.registry (State.setReg_wardBut s w c f)

/-- The record of a failure changes the developer's fault registers only. -/
theorem State.devFail_wards (s : State) (d : Nat) (o : DevOp) (e : DevEnd) (scope entry : Nat) : (s.devFail d o e scope entry).wards = s.wards := by
  unfold State.devFail
  rw [State.wards_of_still (State.report_still _ _)]
  rfl

theorem State.devFail_dev_same (s : State) (d : Nat) (o : DevOp) (e : DevEnd) (scope entry : Nat) : (s.devFail d o e scope entry).dev d =
    { s.dev d with faultValid := true, faultStatus := e.status.code, faultCause := BitVec.ofNat 8 e.cause, faultCtx := BitVec.ofNat 16 o.ctx,
                   faultFrame := BitVec.ofNat 16 e.frame, fails := incSat (s.dev d).fails } :=
  (dev_of_units (units_of_offStack (State.report_offStack _ _)) d).trans (State.modDev_dev_same _ _ _)

theorem State.devFail_dev_other (s : State) (d : Nat) (o : DevOp) (e : DevEnd) (scope entry : Nat) {k : Nat} (hk : k ≠ d) :
    (s.devFail d o e scope entry).dev k = s.dev k :=
  (dev_of_units (units_of_offStack (State.report_offStack _ _)) k).trans (State.modDev_dev_other _ _ _ _ hk)

section
variable {s : State} {d : Nat} {o : DevOp} {r : List DevOp} {e : DevEnd} (hq : (s.dev d).queue = o :: r) (he : (s.dev d).ended = some e)
include hq he

theorem completes_spill {i ord : Nat} (huse : o.use = .spill i ord) (hst : e.status = .ok) : Answers (.devOperationComplete d) s fun t =>
    t.dev d = (s.dev d).shifted r ∧ (∀ k, k ≠ d → t.dev k = s.dev k) ∧ t.tiles = s.tiles ∧
    ((t.ward o.ward).seqs.get i).spilling = ((s.ward o.ward).seqs.get i).spilling - 1 ∧
    ((t.ward o.ward).seqs.get i).mark = ((s.ward o.ward).seqs.get i).mark ∧
    (∀ k, k ≠ i → (t.ward o.ward).seqs.get k = (s.ward o.ward).seqs.get k) ∧ ∀ v, v ≠ o.ward → t.ward v = s.ward v := by
  refine ⟨_, execDevOperationComplete_good hq he hst, ?_⟩
  rw [State.devGood_spill huse]
  have hunits := State.noteRead_units ((s.modDev d (·.shifted r)).setSq o.ward i Sq.spillDone) o.ward i
  have htab := State.noteRead_offTables ((s.modDev d (·.shifted r)).setSq o.ward i Sq.spillDone) o.ward i
  have hseqs : ((((s.modDev d (·.shifted r)).setSq o.ward i Sq.spillDone).noteRead o.ward i).ward o.ward).seqs =
      (s.ward o.ward).seqs.modify i Sq.spillDone := (seqs_of_offTables htab).trans (by simp [State.setSq])
  refine ⟨(dev_of_units hunits d).trans (State.modDev_dev_same s d (·.shifted r)),
    fun k hk => (dev_of_units hunits k).trans (State.modDev_dev_other s d (·.shifted r) k hk), congrArg (·.1) hunits, ?_, ?_, fun k hk => ?_,
    fun v hv => (ward_other_of_offTables htab hv).trans (State.modWard_ward_other _ _ _ v hv)⟩
  · rw [hseqs, Tab.get_modify_same]
    rfl
  · rw [hseqs, Tab.get_modify_same]
    rfl
  · rw [hseqs, Tab.get_modify_other _ _ _ _ hk]

theorem completes_load {c : Nat} (huse : o.use = .load c) (hst : e.status = .ok) (hload : ((s.ward o.ward).registry.get c).hot = .loading) :
    Answers (.devOperationComplete d) s fun t =>
    t.dev d = (s.dev d).shifted r ∧ (∀ k, k ≠ d → t.dev k = s.dev k) ∧ ((t.ward o.ward).registry.get c).loaded = true ∧
    (∀ k, k ≠ c → (t.ward o.ward).registry.get k = (s.ward o.ward).registry.get k) ∧ ∀ v, v ≠ o.ward → t.ward v = s.ward v := by
  refine ⟨_, execDevOperationComplete_good hq he hst, ?_⟩
  rw [State.devGood_load huse]
  set s1 := s.modDev d (·.shifted r)
  set u := s1.writeList o.ward c ((s1.ward o.ward).registry.get c).liveCopy
  have hwards : u.wards = s.wards := State.writeVa_wards _ _ _ _ _
  have hward (v : Nat) : u.ward v = s.ward v := congrArg (Tab.get · v) hwards
  have hdevs : (u.setReg o.ward c RegEnt.loadDone).devs = s1.devs :=
    (OffWards.sameDevs s1).setReg ((OffWards.sameDevs s1).writeVa rfl o.ward c _ _) o.ward c _
  have hdev (k : Nat) : (u.setReg o.ward c RegEnt.loadDone).dev k = s1.dev k := congrArg (Tab.get · k) hdevs
  have hreg : ((u.setReg o.ward c RegEnt.loadDone).ward o.ward).registry = (s.ward o.ward).registry.modify c RegEnt.loadDone := by
    rw [State.setReg_registry, hward]
  refine ⟨(hdev d).trans (State.modDev_dev_same s d _), fun k hk => (hdev k).trans (State.modDev_dev_other s d _ k hk), ?_, fun k hk => ?_,
    fun v hv => (State.setReg_ward_other _ _ _ _ v hv).trans (hward v)⟩
  · rw [hreg, Tab.get_modify_same, RegEnt.loadDone, if_pos hload]
  · rw [hreg, Tab.get_modify_other _ _ _ _ hk]

/-- The failure of a spill of a pre-empted sequence (R289). -/
theorem fails_spill {i ord : Nat} (huse : o.use = .spill i ord) (hst : e.status ≠ .ok)
    (hpre : ((s.ward o.ward).seqs.get i).st = .preempted) (hfail : ((s.ward o.ward).seqs.get i).spillFail = false)
    (hmark : ((s.ward o.ward).seqs.get i).mark = none) : Answers (.devOperationComplete d) s fun t =>
    (t.dev d).queue = r ∧ (t.dev d).ended = none ∧ (t.dev d).faultValid = true ∧ (t.dev d).faultStatus = e.status.code ∧
    (t.dev d).fails = incSat (s.dev d).fails ∧ (∀ k, k ≠ d → t.dev k = s.dev k) ∧ (∀ v, v ≠ o.ward → t.ward v = s.ward v) ∧
    (t.ward o.ward).tieFail = incSat (s.ward o.ward).tieFail ∧ ((t.ward o.ward).seqs.get i).spillFail = true ∧
    ((t.ward o.ward).seqs.get i).mark = some (.tierFail, 4) ∧
    ((t.ward o.ward).seqs.get i).spilling = ((s.ward o.ward).seqs.get i).spilling - 1 := by
  refine ⟨_, execDevOperationComplete_bad hq he hst, ?_⟩
  rw [State.devBad_spill (s := s.modDev d (·.shifted r)) huse hpre hfail]
  set s1 := s.modDev d (·.shifted r)
  set s2 := s1.devFail d o e 1 0
  set u := (((s2.countTier o.ward .tierFail).setSq o.ward i fun q => { q with spillFail := true }).markSeq o.ward i .tierFail 4 true).setSq
    o.ward i Sq.spillDone
  have hunits := State.noteRead_units u o.ward i
  have htab := State.noteRead_offTables u o.ward i
  have hdevs : u.devs = s2.devs := by simp [u, State.setSq, State.markSeq, State.countTier]
  have hdev (k : Nat) : (u.noteRead o.ward i).dev k = s2.dev k := (dev_of_units hunits k).trans (congrArg (Tab.get · k) hdevs)
  have hward (v : Nat) : s2.ward v = s.ward v := congrArg (Tab.get · v) (State.devFail_wards s1 d o e 1 0)
  have htie : (u.ward o.ward).tieFail = incSat (s.ward o.ward).tieFail := by
    simp [u, State.setSq, State.markSeq, State.countTier, hward]
  have hsq : (u.ward o.ward).seqs.get i =
      { (s.ward o.ward).seqs.get i with spillFail := true, mark := some (.tierFail, 4), inStep := false,
                                        spilling := ((s.ward o.ward).seqs.get i).spilling - 1 } := by
    simp [u, State.setSq, State.markSeq, State.countTier, hward, hpre, hmark, Sq.spillDone]
  rw [hdev d, State.devFail_dev_same, State.modDev_dev_same, tieFail_of_offTables htab, seqs_of_offTables htab, htie, hsq]
  refine ⟨rfl, rfl, rfl, rfl, rfl, fun k hk => ?_, fun v hv => ?_, rfl, rfl, rfl, rfl⟩
  · exact (hdev k).trans ((State.devFail_dev_other s1 d o e 1 0 hk).trans (State.modDev_dev_other s d _ k hk))
  · rw [ward_other_of_offTables htab hv, ← hward v]
    simp [u, State.setSq, State.markSeq, State.countTier, hv]

end

/-! ### Reads of a lower tier that get no data (R260) -/

section
variable {s : State} {d : Nat} {va : Addr} {k : LocKind} {seen : List (Nat × Byte)}

theorem State.devTimeout_idle (hcopies : (s.dev d).copies = []) (h : (s.dev d).queue = [] ∨ (s.dev d).ended ≠ none) :
    s.devTimeout d va k seen = s := by
  unfold State.devTimeout
  extract_lets dev
  have hdev : dev = none := by
    unfold dev
    cases hq : (s.dev d).queue with
    | nil => rfl
    | cons o r =>
      cases he : (s.dev d).ended with
      | none => exact (h.elim (fun h0 => by simp [hq] at h0) (· he)).elim
      | some e => rfl
  rw [hdev, hcopies]

variable {o : DevOp} {r : List DevOp} (hq : (s.dev d).queue = o :: r) (he : (s.dev d).ended = none)
include hq he

theorem State.devTimeout_elsewhere (hwaits : s.waits o.ward o.ctx va k none = false) (hcopies : (s.dev d).copies = []) :
    s.devTimeout d va k seen = s := by
  unfold State.devTimeout
  rw [hq, he]
  dsimp only
  rw [hwaits, hcopies]
  rfl

/-- The operation ends where its access gets no data. -/
theorem State.devTimeout_ends (hwaits : s.waits o.ward o.ctx va k none = true) {t : State}
    (ht : s.runDev d o seen [] (some va.toNat) = t) (hlost : (t.dev d).ended.any (·.lost) = true) : s.devTimeout d va k seen = t := by
  unfold State.devTimeout
  rw [hq, he]
  dsimp only
  rw [if_pos hwaits, ht, if_pos hlost]

end

/-- An encoding whose read of the units gets no data ends with cause 0x48. -/
theorem State.devTimeout_encode {s : State} {d : Nat} {va : Addr} {k : LocKind} {o : DevOp} {r : List DevOp} (hq : (s.dev d).queue = o :: r)
    (he : (s.dev d).ended = none) (hwaits : s.waits o.ward o.ctx va k none = true) (hkind : o.kind = .encode) (hover : s.spillOver o = false)
    (hbad : s.spansBad o.ward o.ctx ((s.ward o.ward).srcSpans o.plateSrc 0 (o.count * devUnit o.pkind o.pfmt)) false (some va.toNat) =
      some { st := .tierFail, lost := true }) :
    s.devTimeout d va k [] = s.devEnd d { status := .tierFail, cause := 0x48, lost := true } := by
  refine State.devTimeout_ends hq he hwaits ?_ ?_
  · rw [State.runDev_bare, State.runKind, hkind]
    exact State.runEncode_source (g := { lost := some va.toNat }) hover hbad
  · rw [State.devEnd, State.modDev_dev_same]
    rfl

/-! ### The package reader (R325) -/

theorem State.mcPump_wards (n : Nat) (s : State) : (State.mcPump n s).wards = s.wards := by
  induction n generalizing s with
  | zero => rfl
  | succ n ih =>
    unfold State.mcPump
    split
    · rfl
    · rename_i ports f p r _
      refine ite_fixes State.wards (fun _ => (ih _).trans ?_) fun _ => rfl
      exact forEach_fixes State.wards _ (fun t k => State.wards_of_still (t.enqueue_still k f p)) _ { s with mcWait := r }

theorem State.mcSend_wards (s : State) (ports : List Nat) (f : Flit) (p : List Byte) : (s.mcSend ports f p).wards = s.wards :=
  State.mcPump_wards _ { s with mcWait := s.mcWait ++ [(ports, f, p)] }

theorem State.sendShard_wards (s : State) (w k : Nat) (dest : W64) (alt : Bool) : (s.sendShard w k dest alt).wards = s.wards := by
  unfold State.sendShard
  split
  · rfl
  · extract_lets s1 bs
    split
    · unfold State.nextXid
      dsimp only
      exact forEach_fixes State.wards _ (fun t x => State.mcSend_wards t _ _ _) _ _
    · refine forEach_fixes State.wards _ (fun t a => ?_) _ s1
      exact State.wards_of_still (State.sendXfer_still _ _ 1 1 bs)

theorem State.sendPass_wards (s : State) (w : Nat) : (s.sendPass w).wards = s.wards := by
  unfold State.sendPass
  split
  · rfl
  · exact ite_fixes State.wards (fun _ => forEach_fixes State.wards _ (fun t x => State.sendShard_wards t w _ _ _) _ s) fun _ => rfl

/-- Ward `w` distributes nothing, after `n` distributions that failed. -/
def State.DistOver (s : State) (w : Nat) (n : W16) : Prop := (s.ward w).dist = none ∧ (s.ward w).distFailed = n

section
variable {s : State} {w : Nat} {n : W16} (h : s.DistOver w n)
include h

theorem State.DistOver.of_wards {t : State} (ht : t.wards = s.wards) : t.DistOver w n := by
  have hward : t.ward w = s.ward w := congrArg (Tab.get · w) ht
  unfold State.DistOver
  rw [hward]
  exact h

theorem State.DistOver.modWard (f : Ward → Ward) (hd : ∀ x, (f x).dist = x.dist) (hf : ∀ x, (f x).distFailed = x.distFailed) :
    (s.modWard w f).DistOver w n := by
  unfold State.DistOver
  rw [State.modWard_ward_same, hd, hf]
  exact h

theorem State.DistOver.complete (j : Nat) (st : St) (x : W32) : (s.complete j st x).DistOver w n :=
  h.of_wards (State.complete_wards s j st x)

theorem State.DistOver.setReg (c : Nat) (f : RegEnt → RegEnt) : (s.setReg w c f).DistOver w n := by
  have hbut := State.setReg_wardBut s w c f
  exact ⟨(congrArg Ward.dist hbut).trans h.1, (congrArg Ward.distFailed hbut).trans h.2⟩

theorem State.DistOver.clearDist (st : St) : s.clearDist w st = s := by
  unfold State.clearDist
  rw [h.1]

theorem State.DistOver.devDrop (p : DevOp → Bool) : (s.devDrop w p).DistOver w n :=
  h.of_wards (forEach_fixes State.wards _ (by intros; rfl) _ s)

theorem State.DistOver.freeCopy (c k : Nat) : (s.freeCopy w c k).DistOver w n := by
  unfold State.freeCopy State.freeHotList
  extract_lets e
  refine State.DistOver.setReg ?_ c _
  exact h.modWard _ (fun _ => rfl) fun _ => rfl

theorem State.DistOver.dropBase (st : St) : (s.dropBase w st).DistOver w n := by
  unfold State.dropBase
  rw [h.clearDist, ite_self]
  extract_lets u0 x u
  have hu : u.DistOver w n := h.modWard _ (fun _ => rfl) fun _ => rfl
  split
  · exact hu.complete _ _ _
  · exact hu

theorem State.DistOver.dropBuild (c : Nat) (st : St) : (s.dropBuild w c st).DistOver w n := by
  unfold State.dropBuild
  rw [h.clearDist, ite_self]
  extract_lets e u0 u1 u2 u3
  have h2 : u2.DistOver w n := by
    refine iteInduction (motive := (State.DistOver · w n)) (fun _ => ?_) fun _ => h.devDrop _
    exact (h.devDrop _).freeCopy c _
  have h3 : u3.DistOver w n := h2.setReg c _
  refine iteInduction (motive := (State.DistOver · w n)) (fun _ => h) fun _ => ?_
  split
  · exact h3.complete _ _ _
  · exact h3

end

/-- The distribution in progress is over. -/
theorem State.clearDist_over {s : State} {w : Nat} {x : Dist} (h : (s.ward w).dist = some x) (st : St) (detail : W32) :
    (s.clearDist w st detail).DistOver w (s.ward w).distFailed := by
  have hover : (s.modWard w fun x => { x with dist := none }).DistOver w (s.ward w).distFailed := by
    unfold State.DistOver
    rw [State.modWard_ward_same]
    exact ⟨rfl, rfl⟩
  unfold State.clearDist
  rw [h]
  refine State.DistOver.complete ?_ _ _ _
  exact hover.of_wards rfl

theorem State.endDist_over {s : State} {w : Nat} {x : Dist} (h : (s.ward w).dist = some x) {st : St} (hst : st ≠ .ok) (detail : W32) :
    (s.endDist w st detail).DistOver w (s.ward w).distFailed := by
  have hover := State.clearDist_over h st detail
  unfold State.endDist
  rw [h]
  dsimp only
  rw [if_neg hst]
  exact iteInduction (motive := (State.DistOver · w _)) (fun _ => hover.dropBase st) fun _ => hover.dropBuild _ st

theorem State.failDist_over {s : State} {w : Nat} {x : Dist} (h : (s.ward w).dist = some x) :
    (s.failDist w).DistOver w (incSat (s.ward w).distFailed) := by
  have hdetail : (s.distDetail x).2.wards = s.wards := by
    unfold State.distDetail
    split <;> rfl
  have hward : (s.distDetail x).2.ward w = s.ward w := congrArg (Tab.get · w) hdetail
  set u := (s.distDetail x).2.modWard w fun y => { y with distFailed := incSat y.distFailed }
  have hu : u.ward w = { s.ward w with distFailed := incSat (s.ward w).distFailed } := by
    rw [State.modWard_ward_same, hward]
  have hover := State.endDist_over (s := u) (x := x) (by rw [hu]; exact h) (st := .shardBad) (by decide) (s.distDetail x).1
  unfold State.failDist
  rw [h]
  rw [hu] at hover
  exact hover

section
variable {s : State} {w : Nat} {x : Dist} (h : (s.ward w).dist = some x)
include h

theorem State.readerTimeout_idle (hidle : s.live = false ∨ x.reader = false ∨ x.held = true) : s.readerTimeout w = s := by
  unfold State.readerTimeout
  rw [h]
  exact if_pos (by simpa using hidle)

variable (hrun : ¬(s.live = false ∨ x.reader = false ∨ x.held = true))
include hrun

theorem State.readerTimeout_second (halt : x.alt ≠ 0) (hon : x.onAlt = false) :
    s.readerTimeout w = (s.modWard w fun y => { y with dist := some { x with onAlt := true } }).sendPass w := by
  unfold State.readerTimeout
  rw [h]
  dsimp only
  rw [if_neg (by simpa using hrun), if_pos ⟨halt, hon⟩]

theorem State.readerTimeout_fails (hlast : x.alt = 0 ∨ x.onAlt = true) : s.readerTimeout w = s.failDist w := by
  unfold State.readerTimeout
  rw [h]
  dsimp only
  rw [if_neg (by simpa using hrun), if_neg fun hboth => by rcases hlast with h0 | h0 <;> simp_all]

end

/-- The parts of O45 about a package reader. -/
theorem readerTimeouts (s : State) (w : Nat) (va : Addr) (seen : List (Nat × Byte)) (x : Dist) (h : (s.ward w).dist = some x) :
    (s.live = false ∨ x.reader = false ∨ x.held = true → exec (.hostCompletionTimeout (.reader w) ⟨va, seen⟩) s = .next s) ∧
    (s.live = true → x.reader = true → x.held = false →
      (x.alt ≠ 0 → x.onAlt = false → Answers (.hostCompletionTimeout (.reader w) ⟨va, seen⟩) s fun t =>
        (t.ward w).dist = some { x with onAlt := true }) ∧
      (x.alt = 0 ∨ x.onAlt = true → Answers (.hostCompletionTimeout (.reader w) ⟨va, seen⟩) s fun t =>
        (t.ward w).distFailed = incSat (s.ward w).distFailed ∧ (t.ward w).dist = none)) := by
  have hexec : exec (.hostCompletionTimeout (.reader w) ⟨va, seen⟩) s = .next (s.readerTimeout w) := rfl
  refine ⟨fun hidle => hexec.trans (congrArg _ (State.readerTimeout_idle h hidle)), fun hlive hreader hheld => ?_⟩
  have hrun : ¬(s.live = false ∨ x.reader = false ∨ x.held = true) := by simp [hlive, hreader, hheld]
  refine ⟨fun halt hon => ⟨_, hexec.trans (congrArg _ (State.readerTimeout_second h hrun halt hon)), ?_⟩,
    fun hlast => ⟨_, hexec.trans (congrArg _ (State.readerTimeout_fails h hrun hlast)), ?_⟩⟩
  · refine (congrArg (fun t : Tab Ward => (t.get w).dist) (State.sendPass_wards _ w)).trans ?_
    exact congrArg Ward.dist (State.modWard_ward_same s w _)
  · obtain ⟨hdist, hfailed⟩ := State.failDist_over h
    exact ⟨hfailed, hdist⟩

/-- Settles O45: what a finished operation leaves, and the timeouts. The model's choices: the chunk list that a good load writes
ahead of the copy (log entry 174), of which the statement says nothing, and one event for every host read without data (185). -/
theorem developerResultsAndTimeouts : Obligations.DeveloperResultsAndTimeouts := by
  unfold Obligations.DeveloperResultsAndTimeouts
  refine ⟨?_, fun s d he => execDevOperationComplete_none he, ?_, ?_, fun s w va seen => ⟨rfl, fun hd => ?_, readerTimeouts s w va seen⟩⟩
  · rintro s d x o r e rfl hq he
    exact ⟨fun i ord => completes_spill hq he, fun c => completes_load hq he, fun i ord => fails_spill hq he⟩
  · intro s va seen d o k c hc
    have hexec : exec c s = .next (s.devTimeout d va k seen) := by
      rcases hc with ⟨rfl, rfl⟩ | ⟨rfl, rfl⟩ <;> rfl
    refine ⟨fun hcopies hidle => hexec.trans (congrArg _ (State.devTimeout_idle hcopies hidle)), fun r hq he =>
      ⟨fun hwaits hcopies => hexec.trans (congrArg _ (State.devTimeout_elsewhere hq he hwaits hcopies)), ?_⟩⟩
    rintro hwaits hkind hover rfl n u sp rfl rfl rfl hbad
    exact ⟨_, hexec.trans (congrArg _ (State.devTimeout_encode hq he hwaits hkind hover hbad)), State.modDev_only s d _⟩
  · rintro s c va seen w z hw rfl
    have hpeer (c : Nat) : exec (.peerTimeout (.chan c) ⟨va, seen⟩) s = s.chanTimeout c va .peer seen := rfl
    have hhost (c : Nat) : exec (.hostCompletionTimeout (.chan c) ⟨va, seen⟩) s = s.chanTimeout c va .host seen := rfl
    refine ⟨fun c' hnone => ?_, ?_, ?_⟩
    · rw [hpeer, hhost, State.chanTimeout, State.chanTimeout, hnone]
      exact ⟨rfl, rfl⟩
    · rw [hpeer, State.chanTimeout, hw]
      rfl
    · rw [hhost, State.chanTimeout, hw]
      rfl
  · show Host.Outcome.next (s.readerTimeout w) = .next s
    rw [State.readerTimeout, hd]

end Sys2Proof.Machine
end

section
/-! What a developer's operation leaves of the developers and of the tiles, and its data effect by kind: one lemma per end
(R277 to R279, R343). -/

namespace Sys2Proof.Machine
open Sys2Proof

/-! ### The developer and the tiles -/

/-- From `s` on, of all developers only `d` has changed: it is `y`; the tiles stay where no tile store holds an uncorrectable word. -/
structure DevIs (s t : State) (d : Nat) (y : Dev) : Prop where
  dev : t.dev d = y
  others : ∀ k, k ≠ d → t.dev k = s.dev k
  tiles : s.sound → t.tiles = s.tiles

theorem DevIs.refl (s : State) (d : Nat) : DevIs s s d (s.dev d) := ⟨rfl, fun _ _ => rfl, fun _ => rfl⟩

section
variable {s t : State} {d : Nat} {y : Dev}

theorem DevIs.of_units {u : State} (h : DevIs s t d y) (hu : u.devs = t.devs) (ht : s.sound → u.tiles = t.tiles) : DevIs s u d y := by
  have hdev (k : Nat) : u.dev k = t.dev k := congrArg (Tab.get · k) hu
  exact ⟨(hdev d).trans h.dev, fun k hk => (hdev k).trans (h.others k hk), fun hs => (ht hs).trans (h.tiles hs)⟩

theorem DevIs.offWards (s : State) (d : Nat) (y : Dev) : OffWards (DevIs s · d y) where
  stack t u hu h := by
    have hunits := units_of_offStack hu
    exact h.of_units (congrArg (·.2.2.2.1) hunits) fun _ => congrArg (·.1) hunits
  mend t i off n h := by
    refine h.of_units ?_ fun hs => congrArg State.tiles (if_pos (hs.of_tiles (h.tiles hs) i))
    obtain ⟨x, hx⟩ := t.mendStore_frame i off n
    rw [hx]
  ward _ _ _ h := h.of_units rfl fun _ => rfl
  site _ _ _ h := h.of_units rfl fun _ => rfl

theorem DevIs.offAccess (s : State) (d : Nat) (y : Dev) : OffAccess (DevIs s · d y) := (DevIs.offWards s d y).toAccess

theorem DevIs.modDev (h : DevIs s t d y) (f : Dev → Dev) : DevIs s (t.modDev d f) d (f y) := by
  refine ⟨?_, fun k hk => (State.modDev_dev_other t d f k hk).trans (h.others k hk), h.tiles⟩
  rw [State.modDev_dev_same, h.dev]

theorem DevIs.devEnd (h : DevIs s t d y) (e : DevEnd) : DevIs s (t.devEnd d e) d { y with ended := some e } :=
  h.modDev fun y => { y with ended := some e }

/-- Bytes out, and poison noted in the banks written. -/
theorem DevIs.devWrite (h : DevIs s t d y) (w c : Nat) (ws : List (List (Nat × Nat) × List Byte × Bool)) :
    DevIs s (t.devWrite d w c ws) d { y with outBytes := y.outBytes + (ws.map fun e => e.2.1.length).sum } := by
  unfold State.devWrite
  extract_lets t1 t2 banks
  have h1 : DevIs s t1 d y := foldl_keeps (DevIs s · d y) _ (fun _ e hu => (DevIs.offAccess s d y).writeSpans hu w c e.1 e.2.1) ws t h
  have h2 : DevIs s t2 d _ := h1.modDev _
  exact forEach_keeps (DevIs s · d _) banks _ (fun _ e hu => (DevIs.offWards s d _).notePoison hu e.1 e.2 5 0) t2 h2

/-- A publication copies the working image (R343). -/
theorem DevIs.publishCopy (h : DevIs s t d y) (w c : Nat) (o : DevOp) :
    ∃ n, DevIs s (t.publishCopy d w c o) d { y with outBytes := y.outBytes + n } := by
  unfold State.publishCopy
  dsimp only
  refine ⟨_, DevIs.modDev ?_ _⟩
  refine foldl_keeps (fun p : State × Nat => DevIs s p.1 d y) _ (fun p k hp => ?_) _ _ h
  exact (DevIs.offAccess s d y).writeSpans ((DevIs.offAccess s d y).readSpans hp w c _ []) w c _ _

end

/-- What the end of an operation leaves: the queue, the other developers and, without an uncorrectable word, the tiles. -/
def DevKept (s t : State) (d : Nat) : Prop :=
  (t.dev d).queue = (s.dev d).queue ∧ (∀ k, k ≠ d → t.dev k = s.dev k) ∧ ((∀ i, (s.tile i).badWords = []) → t.tiles = s.tiles)

theorem DevIs.kept {s t : State} {d : Nat} {y : Dev} (h : DevIs s t d y) (hq : y.queue = (s.dev d).queue) : DevKept s t d :=
  ⟨h.dev ▸ hq, h.others, h.tiles⟩

/-- An operation of ward `w` that ends with a failed access (R270, R278). -/
def DevFailed (s t : State) (d w : Nat) (f : AccFail) : Prop :=
  t.dev d = { s.dev d with ended := some { status := f.st, cause := 0x48, lost := f.lost } } ∧ DevKept s t d ∧ t.mem = s.mem ∧
  (t.ward w).xlatFaults = if f.refused then incSat (s.ward w).xlatFaults else (s.ward w).xlatFaults

theorem State.devFails_failed (s : State) (d w : Nat) (f : AccFail) : DevFailed s (s.devFails d w f) d w f := by
  unfold State.devFails
  by_cases hf : f.refused = true
  · rw [if_pos hf]
    have hend : DevIs s ((s.countFault w).devEnd d { status := f.st, cause := 0x48, lost := f.lost }) d _ :=
      ((DevIs.offWards s d _).countFault (DevIs.refl s d) w).devEnd _
    refine ⟨hend.dev, hend.kept rfl, rfl, ?_⟩
    rw [if_pos hf]
    have hward : (s.countFault w).ward w = { s.ward w with xlatFaults := incSat (s.ward w).xlatFaults } := State.modWard_ward_same s w _
    exact congrArg Ward.xlatFaults hward
  · rw [if_neg hf]
    have hend : DevIs s (s.devEnd d { status := f.st, cause := 0x48, lost := f.lost }) d _ := (DevIs.refl s d).devEnd _
    refine ⟨hend.dev, hend.kept rfl, rfl, ?_⟩
    rw [if_neg hf]
    rfl

/-! ### MOVE (R277) -/

theorem findSome?_eq_none_of {α β γ : Type} {g : α → Option β} {f : β → Option γ} {xs : List α}
    (h : ∀ k ∈ xs, ∀ b, g k = some b → f b = none) : (xs.filterMap g).findSome? f = none := by
  rw [List.findSome?_eq_none_iff]
  intro b hb
  obtain ⟨k, hk, hg⟩ := List.mem_filterMap.mp hb
  exact h k hk b hg

section
variable {s : State} {d : Nat} {o : DevOp} {g : DevIn} (huse : ∀ c, o.use ≠ .build c)
include huse

theorem State.runMove_source {f : AccFail}
    (h : s.spansBad o.ward o.ctx ((s.ward o.ward).srcSpans o.plateSrc 0 (o.count * devUnit o.pkind o.pfmt)) false g.lost = some f) :
    s.runMove d o g = s.devFails d o.ward f := by
  unfold State.runMove
  split
  · rename_i c hc
    exact absurd hc (huse c)
  · simp only [DevOp.plateSrc_ward, DevOp.plateSrc_ctx, DevOp.plateSrc_count, DevOp.plateSrc_pkind, DevOp.plateSrc_pfmt, h]

theorem State.runMove_writes
    (hsrc : s.spansBad o.ward o.ctx ((s.ward o.ward).srcSpans o.plateSrc 0 (o.count * devUnit o.pkind o.pfmt)) false g.lost = none)
    (hdst : ∀ k < o.count, ∀ sp, o.plateSrc.unitSpans (s.ward o.ward) (decide (o.pkind < 2)) k (devUnit o.pkind o.pfmt) = some sp →
      s.spansBad o.ward o.ctx sp true = none) :
    ∃ ws, s.runMove d o g = ((s.readUnits o.plateSrc g.un o.count (devUnit o.pkind o.pfmt)).1.devWrite d o.ward o.ctx ws).devEnd d
      { poison := (s.readUnits o.plateSrc g.un o.count (devUnit o.pkind o.pfmt)).2.2 } := by
  have hfind := findSome?_eq_none_of (xs := List.range o.count) (f := fun sp => s.spansBad o.ward o.ctx sp true)
    (fun k hk => hdst k (List.mem_range.mp hk))
  unfold State.runMove
  split
  · rename_i c hc
    exact absurd hc (huse c)
  · simp only [DevOp.plateSrc_ward, DevOp.plateSrc_ctx, DevOp.plateSrc_count, DevOp.plateSrc_pkind, DevOp.plateSrc_pfmt, hsrc, hfind]
    exact ⟨_, rfl⟩

end

theorem State.runMove_publishes (s : State) (d : Nat) {o : DevOp} (g : DevIn) {c : Nat} (huse : o.use = .build c) :
    s.runMove d o g = (s.publishCopy d o.ward c o).devEnd d {} := by
  unfold State.runMove
  rw [huse]

/-! ### QUANT (R277) -/

/-- The spans that a QUANT writes: one run, or plate by plate. -/
def DevOp.quantSpans (o : DevOp) (x : Ward) : List (List (Nat × Nat)) :=
  if (o.skew && !(cwOf o.cw).square && (cwOf o.cw).fmt == .b8 && decide (2 * o.count ≤ 7455)) = true then
    [x.dstSpans (o.plateDst true) 0 (272 * (2 * o.count + 255))]
  else (List.range o.count).filterMap fun k => o.unitSpans x true k (plateSize (cwOf o.cw).square (cwOf o.cw).fmt)

/-- The spans that a QUANT reads. -/
def DevOp.quantSource (o : DevOp) (x : Ward) : List (Nat × Nat) :=
  x.srcSpans o 0 ((if o.bf16 then 2 else 4) * (if (cwOf o.cw).square then 1024 else 512) * o.count)

section
variable {s : State} {d : Nat} {o : DevOp} {g : DevIn}

theorem State.runQuant_source {f : AccFail} (h : s.spansBad o.ward o.ctx (o.quantSource (s.ward o.ward)) false g.lost = some f) :
    s.runQuant d o g = s.devFails d o.ward f := by
  unfold DevOp.quantSource at h
  unfold State.runQuant
  dsimp only
  rw [h]

theorem State.runQuant_writes (hsrc : s.spansBad o.ward o.ctx (o.quantSource (s.ward o.ward)) false g.lost = none)
    (hdst : ∀ sp ∈ o.quantSpans (s.ward o.ward), s.spansBad o.ward o.ctx sp true = none) :
    ∃ ws delta gen, s.runQuant d o g = ((((s.quantPlates d o g.un).1.devWrite d o.ward o.ctx ws).addSite d (cwOf o.cw).site delta).modDev d
      fun y => { y with gen := gen, counted := 0 }).devEnd d {} := by
  have hfind : (o.quantSpans (s.ward o.ward)).findSome? (fun sp => s.spansBad o.ward o.ctx sp true) = none :=
    List.findSome?_eq_none_iff.mpr hdst
  unfold DevOp.quantSource at hsrc
  unfold DevOp.quantSpans at hfind
  unfold State.runQuant
  dsimp only
  rw [hsrc, hfind]
  exact ⟨_, _, _, rfl⟩

end

end Sys2Proof.Machine
end

section
/-! The developer's operations, continued: encoding with the notes of a spill (R279, R288), and developing a negative (R278). -/

namespace Sys2Proof.Machine
open Sys2Proof

/-! ### Where the negative of a spill goes (R288) -/

theorem OffAccess.sameSeqs (w : Nat) (q : Tab Sq) : OffAccess fun t => (t.ward w).seqs = q where
  stack _ _ hu h := (congrArg (fun x : Tab Ward => (x.get w).seqs) (wards_of_offStack hu)).trans h
  mend t i off n h := by
    obtain ⟨x, hx⟩ := t.mendStore_frame i off n
    rw [hx]
    exact h
  charge t v c va n wr h := by
    unfold State.charge
    split
    · exact h
    · by_cases hv : w = v
      · subst hv
        rw [State.modWard_ward_same]
        exact h
      · rw [State.modWard_ward_other _ _ _ _ hv]
        exact h

theorem State.spillDst_op (s : State) (o : DevOp) (n : Nat) :
    (s.spillDst o n).2 = { o with dst := (s.spillDst o n).2.dst, dstChunks := (s.spillDst o n).2.dstChunks } := by
  unfold State.spillDst
  split <;> rfl

theorem DevIs.spillDst {s t : State} {d : Nat} {y : Dev} (h : DevIs s t d y) (o : DevOp) (n : Nat) : DevIs s (t.spillDst o n).1 d y := by
  unfold State.spillDst
  split
  · exact (DevIs.offWards s d y).ward t _ _ h
  · exact (DevIs.offWards s d y).ward t _ _ h
  · exact h

theorem State.spillDst_seqs (s : State) (o : DevOp) (n : Nat) : (((s.spillDst o n).1).ward o.ward).seqs = (s.ward o.ward).seqs := by
  unfold State.spillDst
  dsimp only
  split
  · simp only [State.modWard_ward_same]
  · simp only [State.modWard_ward_same]
  · rfl

theorem DevIs.spillNote {s t : State} {d : Nat} {y : Dev} (h : DevIs s t d y) (o : DevOp) (n : Nat) : DevIs s (t.spillNote d o n) d y := by
  unfold State.spillNote
  split
  · exact (DevIs.offWards s d y).setSq h _ _ _
  · exact (DevIs.offWards s d y).ward t _ _ h
  · exact h

/-- The sequence of a spill once its negative of `n` bytes for die `d`, ordinal `k`, is written. -/
def Sq.spilled (q : Sq) (d k : Nat) (o : DevOp) (n : Nat) : Sq :=
  { q with chunks := o.dstChunks, spillPtr := o.dst.toNat + n, negs := q.negs ++ [{ die := d, ord := k, at' := o.dst.toNat, len := n }] }

theorem State.spillNote_seq {s : State} {d i k : Nat} {o : DevOp} (huse : o.use = .spill i k) (n : Nat) :
    ((s.spillNote d o n).ward o.ward).seqs.get i = ((s.ward o.ward).seqs.get i).spilled d k o n := by
  unfold State.spillNote
  rw [huse]
  simp [State.setSq, Sq.spilled]

/-! ### ENCODE (R279) -/

section
variable {s s1 s2 s3 : State} {d off tv : Nat} {o o' : DevOp} {us : List (List Byte)} {p good : Bool} {tb : RdOut} {bs : List Byte}
  (hover : s.spillOver o = false) (htv : tv = (s.ward o.ward).reg oEncTbl + 512 * o.tbl)
  (hsrc : s.spansBad o.ward o.ctx ((s.ward o.ward).srcSpans o.plateSrc 0 (o.count * devUnit o.pkind o.pfmt)) false = none)
  (htbl : s.spansBad o.ward o.ctx [(tv, 512)] false = none)
  (hread : s.readUnits o.plateSrc [] o.count (devUnit o.pkind o.pfmt) = (s1, us, p)) (htab : s1.readVa o.ward o.ctx tv 512 = (s2, tb))
  (henc : encodeNeg o.pkind o.pfmt tb.bytes us = (off, bs, good)) (hdst : s2.spillDst o.plateSrc (off + bs.length) = (s3, o'))
  (hroom : (∃ i k, o.use = .spill i k ∨ o.use = .swapOut i k) → o'.dst.toNat + off + bs.length ≤ o'.dstChunks.length * chunkBytes)
  (hok : s3.spansBad o.ward o.ctx ((s3.ward o.ward).dstSpans o' off bs.length) true = none)
include hdst

theorem State.spillDst_is : o'.use = o.use ∧ o'.ward = o.ward ∧ o'.ctx = o.ctx := by
  have hop := s2.spillDst_op o.plateSrc (off + bs.length)
  rw [hdst] at hop
  dsimp only at hop
  rw [hop]
  simp

include hover htv hsrc htbl hread htab henc hroom hok

theorem State.runEncode_writes : s.runEncode d o {} =
    (((s3.writeSpans o.ward o.ctx ((s3.ward o.ward).dstSpans o' off bs.length) bs).modDev d fun y =>
      { y with outBytes := y.outBytes + bs.length }).spillNote d o' (off + bs.length)).devEnd d
        (if good then { poison := p } else { status := .tierFail, cause := 0x40, poison := p }) := by
  obtain ⟨huse, -, hctx⟩ := State.spillDst_is (o := o) hdst
  unfold State.runEncode
  rw [if_neg (by simp [hover])]
  simp only [DevOp.plateSrc_ward, DevOp.plateSrc_ctx, DevOp.plateSrc_count, DevOp.plateSrc_pkind, DevOp.plateSrc_pfmt, DevOp.plateSrc_tbl,
    ← htv, hsrc, htbl, hread, htab, henc, hdst, hctx]
  rw [if_neg, hok]
  split
  · rename_i i k hspill
    simpa using hroom ⟨i, k, .inl (huse ▸ hspill)⟩
  · rename_i i k hswap
    simpa using hroom ⟨i, k, .inr (huse ▸ hswap)⟩
  · simp

theorem State.runEncode_dev : DevIs s (s.runEncode d o {}) d
    { s.dev d with ended := some (if good then { poison := p } else { status := .tierFail, cause := 0x40, poison := p }),
                   outBytes := (s.dev d).outBytes + bs.length } := by
  have hP := DevIs.offAccess s d (s.dev d)
  have h1 := hP.readUnits (DevIs.refl s d) o.plateSrc [] o.count (devUnit o.pkind o.pfmt)
  rw [hread] at h1
  have h2 := hP.readVa h1 o.ward o.ctx tv 512 []
  rw [htab] at h2
  have h3 := DevIs.spillDst h2 o.plateSrc (off + bs.length)
  rw [hdst] at h3
  rw [State.runEncode_writes hover htv hsrc htbl hread htab henc hdst hroom hok]
  exact (((hP.writeSpans h3 o.ward o.ctx _ bs).modDev fun y => { y with outBytes := y.outBytes + bs.length }).spillNote o' _).devEnd _

theorem State.runEncode_seq {i k : Nat} (hspill : o.use = .spill i k) :
    ((s.runEncode d o {}).ward o.ward).seqs.get i = ((s.ward o.ward).seqs.get i).spilled d k o' (off + bs.length) := by
  obtain ⟨huse, hward, -⟩ := State.spillDst_is (o := o) hdst
  have hP := OffAccess.sameSeqs o.ward (s.ward o.ward).seqs
  have h1 := hP.readUnits (s := s) rfl o.plateSrc [] o.count (devUnit o.pkind o.pfmt)
  rw [hread] at h1
  have h2 := hP.readVa h1 o.ward o.ctx tv 512 []
  rw [htab] at h2
  have h3 : (s3.ward o.ward).seqs = (s.ward o.ward).seqs := by
    have hkept := s2.spillDst_seqs o.plateSrc (off + bs.length)
    rw [hdst, DevOp.plateSrc_ward] at hkept
    exact hkept.trans h2
  have h4 := hP.writeSpans h3 o.ward o.ctx ((s3.ward o.ward).dstSpans o' off bs.length) bs
  rw [State.runEncode_writes hover htv hsrc htbl hread htab henc hdst hroom hok, ← h4]
  have hnote := State.spillNote_seq (s := (s3.writeSpans o.ward o.ctx ((s3.ward o.ward).dstSpans o' off bs.length) bs).modDev d fun y =>
    { y with outBytes := y.outBytes + bs.length }) (d := d) (huse.trans hspill) (off + bs.length)
  rw [hward] at hnote
  exact hnote

end

theorem State.runEncode_over {s : State} {o : DevOp} (d : Nat) (g : DevIn) (h : s.spillOver o = true) : s.runEncode d o g = s.devEnd d {} :=
  if_pos h

/-! ### DEVELOP (R278) -/

theorem State.devSource_ward (s : State) (d : Nat) (o : DevOp) : (s.devSource d o).ward = o.ward := by
  unfold State.devSource
  dsimp only
  split
  · split <;> rfl
  · split <;> rfl
  · rfl

section
variable {s : State} {d : Nat} {o o' : DevOp} {g : DevIn} (ho : o' = s.devSource d o)
include ho

theorem State.runDevelop_source {f : AccFail} (h : s.spansBad o'.ward o'.ctx ((s.ward o'.ward).srcSpans o' 0 576) false g.lost = some f) :
    s.runDevelop d o g = s.devFails d o'.ward f := by
  subst ho
  unfold State.runDevelop
  dsimp only
  rw [h]

variable {s1 : State} {b : RdOut} (hsrc : s.spansBad o'.ward o'.ctx ((s.ward o'.ward).srcSpans o' 0 576) false g.lost = none)
  (hread : s.readSpans o'.ward o'.ctx ((s.ward o'.ward).srcSpans o' 0 576) g.un = (s1, b))
include hsrc hread

theorem State.runDevelop_poison (hbad : b.bad.any id = true) :
    s.runDevelop d o g = s1.devEnd d { status := .poison, cause := 0x48, poison := true } := by
  subst ho
  unfold State.runDevelop
  dsimp only
  rw [hsrc]
  dsimp only
  rw [hread]
  exact if_pos hbad

variable (hgood : b.bad.any id = false)
include hgood

theorem State.runDevelop_magic (hneg : negOf b.bytes = none) : s.runDevelop d o g = s1.devEnd d { status := .tierFail, cause := 0x40 } := by
  subst ho
  unfold State.runDevelop
  dsimp only
  rw [hsrc]
  dsimp only
  rw [hread]
  dsimp only
  rw [hgood, if_neg (by simp), hneg]

/-- A negative of a single frame goes on to that frame. -/
theorem State.runDevelop_single {h : Neg} {s2 : State} {e : RdOut} {off : Nat} (hneg : negOf b.bytes = some h) (hframes : h.frames = 1)
    (hdir : s1.spansBad o'.ward o'.ctx ((s1.ward o'.ward).srcSpans o' h.dirOff 8) false g.lost = none)
    (hentry : s1.readSpans o'.ward o'.ctx ((s1.ward o'.ward).srcSpans o' h.dirOff 8) g.un = (s2, e)) (hclean : e.bad.any id = false)
    (hoff : h.frameAt (sliceNat e.bytes 0 8) = some off) : s.runDevelop d o g = State.developFrames d o' h g [(0, off)] s2 := by
  subst ho
  unfold State.runDevelop
  dsimp only
  rw [hsrc]
  dsimp only
  rw [hread]
  dsimp only
  rw [hgood, if_neg (by simp), hneg]
  dsimp only
  rw [hframes, Nat.mul_one, hdir]
  dsimp only
  rw [hentry]
  dsimp only
  rw [hclean, if_neg (by simp)]
  simp [hoff, List.range_succ]

end

section
variable {s s1 s2 : State} {d off n : Nat} {o : DevOp} {h : Neg} {g : DevIn} {hd b : RdOut}
  (hhead : s.spansBad o.ward o.ctx ((s.ward o.ward).srcSpans o off 16) false g.lost = none)
  (hread : s.readSpans o.ward o.ctx ((s.ward o.ward).srcSpans o off 16) g.un = (s1, hd))
  (hn : n = max 16 (min (leNat (hd.bytes.take 4)) (h.length - off)))
  (hbody : s1.spansBad o.ward o.ctx ((s.ward o.ward).srcSpans o off n) false g.lost = none)
  (hframe : s1.readSpans o.ward o.ctx ((s.ward o.ward).srcSpans o off n) g.un = (s2, b)) (hclean : b.bad.any id = false)
include hhead hread hn hbody hframe hclean

theorem State.developFrames_error {c : Nat} (herr : h.frame b.bytes 0 off = .error c) : State.developFrames d o h g [(0, off)] s =
    s2.devEnd d { status := if c = 0x44 then .scaleSkew else .tierFail, cause := c } := by
  unfold State.developFrames
  dsimp only
  rw [hhead]
  dsimp only
  rw [hread]
  dsimp only
  rw [← hn, hbody]
  dsimp only
  rw [hframe]
  dsimp only
  rw [hclean, if_neg (by simp), herr]

theorem State.developFrames_writes {us : List (List Byte)} (hus : h.frame b.bytes 0 off = .ok us)
    (hdst : ∀ e ∈ frameWrites (s.ward o.ward) o h 0 us, s2.spansBad o.ward o.ctx e.1 true = none) :
    State.developFrames d o h g [(0, off)] s = (s2.devWrite d o.ward o.ctx (frameWrites (s.ward o.ward) o h 0 us)).devEnd d {} := by
  have hfind : (frameWrites (s.ward o.ward) o h 0 us).findSome? (fun y => s2.spansBad o.ward o.ctx y.1 true) = none :=
    List.findSome?_eq_none_iff.mpr hdst
  unfold State.developFrames
  dsimp only
  rw [hhead]
  dsimp only
  rw [hread]
  dsimp only
  rw [← hn, hbody]
  dsimp only
  rw [hframe]
  dsimp only
  rw [hclean, if_neg (by simp), hus]
  dsimp only
  rw [hfind]
  rfl

end

end Sys2Proof.Machine
end

section
/-! DEVELOP, QUANT, MOVE and ENCODE (R270, R273, R276 to R279, R286, R288, R289, R294, R295). -/

namespace Sys2Proof.Machine
open Sys2Proof

/-! ### The four commands: the operation at the front, or none -/

section
variable {s : State} {d : Nat} {o : DevOp} (seen : List (Nat × Byte)) (reports : List HbmRep)

theorem execDevelop_front (h : s.devHead d .develop = some o) : execDevelop d seen reports s = .next (s.runDev d o seen reports none) := by
  unfold execDevelop
  rw [h]

theorem execQuant_front (h : s.devHead d .quant = some o) : execQuant d ⟨seen, reports⟩ s = .next (s.runDev d o seen reports none) := by
  unfold execQuant
  rw [h]

theorem execEncode_front (h : s.devHead d .encode = some o) : execEncode d ⟨seen, reports⟩ s = .next (s.runDev d o seen reports none) := by
  unfold execEncode
  rw [h]

theorem execMove_front (h : s.devHead d .move = some o) : execMove d ⟨seen, reports⟩ s = .next (s.runDev d o seen reports none) := by
  unfold execMove
  rw [h]

theorem execDevelop_idle (h : s.devHead d .develop = none) : execDevelop d seen reports s = .next s := by
  unfold execDevelop
  rw [h]

theorem execQuant_idle (h : s.devHead d .quant = none) : execQuant d ⟨seen, reports⟩ s = .next s := by
  unfold execQuant
  rw [h]

theorem execEncode_idle (h : s.devHead d .encode = none) : execEncode d ⟨seen, reports⟩ s = .next s := by
  unfold execEncode
  rw [h]

theorem execMove_idle (h : s.devHead d .move = none) (hcopies : (s.dev d).copies = []) : execMove d ⟨seen, reports⟩ s = .next s := by
  unfold execMove
  rw [h, hcopies]

end

/-- The command that works on an operation of kind `k`. -/
def devCmd (k : DevKind) (d : Nat) (seen : List (Nat × Byte)) (reports : List HbmRep) : Instr :=
  match k with
  | .develop => .develop d seen reports
  | .quant => .quant d ⟨seen, reports⟩
  | .move => .move d ⟨seen, reports⟩
  | .encode => .encode d ⟨seen, reports⟩

/-! ### Resets by poison (R250, R416) -/

/-- A reset of a ward that runs a job faults the job; the developers stay. -/
theorem State.resetByPoison_runs {s : State} {w : Nat} (hst : (s.ward w).st = .running) (hjob : (s.ward w).job.isSome = true) :
    ((s.resetByPoison w).ward w).st = .resetting ∧ ((s.resetByPoison w).ward w).resetStatus = St.poison.code ∧
    (s.resetByPoison w).devs = s.devs := by
  have hreset : s.resetByPoison w =
      (s.modWard w fun y => { y with st := .resetting, resetStatus := St.poison.code, resetJseq := none }).jobFault w .poison := by
    unfold State.resetByPoison
    dsimp only
    rw [if_pos (.inr hst), State.startReset]
    exact if_pos hjob
  rw [hreset, State.jobFault_eq, State.modWard_ward_same, State.modWard_ward_same]
  exact ⟨rfl, rfl, rfl⟩

/-- An uncorrectable read of the ward's control structures resets the ward. -/
theorem State.ctrlError_resets {s : State} {w : Nat} {reports : List HbmRep}
    (h : ∃ r ∈ reports, r.uncorr = true ∧ s.ctrlSector w r.sector = true) (hst : (s.ward w).st = .running)
    (hjob : (s.ward w).job.isSome = true) : ∃ t, s.ctrlError w reports = some t ∧ (t.ward w).st = .resetting ∧
      (t.ward w).resetStatus = St.poison.code ∧ t.devs = s.devs := by
  obtain ⟨r, hr, hun, hctrl⟩ := h
  unfold State.ctrlError
  cases hf : reports.filter fun r => r.uncorr && s.ctrlSector w r.sector with
  | nil => exact absurd (List.filter_eq_nil_iff.mp hf r hr) (by simp [hun, hctrl])
  | cons q qs =>
    dsimp only
    have hread : (forEach (q :: qs) s fun (t : State) (r : HbmRep) =>
        (t.readTag r.sector (t.secTags.get r.sector).key w 0 true).1).offStack = s.offStack :=
      forEach_fixes State.offStack _ (fun _ _ => State.readTag_offStack _ _ _ _ _ _) (q :: qs) s
    have hward := congrArg (Tab.get · w) (wards_of_offStack hread)
    obtain ⟨hres, hcode, hdevs⟩ := State.resetByPoison_runs (w := w) ((congrArg Ward.st hward).trans hst)
      ((congrArg (fun y : Ward => y.job.isSome) hward).trans hjob)
    exact ⟨_, rfl, hres, hcode, hdevs.trans (congrArg (·.2.2.2.1) (units_of_offStack hread))⟩

/-! ### What arrives with a command -/

section
variable {s : State} {d : Nat} {o : DevOp} {rest : List DevOp} (hq : (s.dev d).queue = o :: rest) (he : (s.dev d).ended = none)
  (seen : List (Nat × Byte)) {reports : List HbmRep}
include hq he

theorem exec_devCmd (reports : List HbmRep) : exec (devCmd o.kind d seen reports) s = .next (s.runDev d o seen reports none) := by
  have hhead := State.devHead_front hq he
  cases hkind : o.kind <;> rw [hkind] at hhead
  case develop => exact execDevelop_front seen reports hhead
  case quant => exact execQuant_front seen reports hhead
  case move => exact execMove_front seen reports hhead
  case encode => exact execEncode_front seen reports hhead

/-- With nothing else arriving, the operation's data effect is that of its kind. -/
theorem exec_devCmd_bare : exec (devCmd o.kind d [] []) s = .next (s.runKind d o {}) := by
  rw [exec_devCmd hq he, State.runDev_bare]

/-- Bytes and sound reports that come with the command are noted before the operation works. -/
theorem exec_devCmd_arrived (h : ∀ r ∈ reports, r.uncorr = false) :
    exec (devCmd o.kind d seen reports) s = exec (devCmd o.kind d [] []) ((s.seen seen).hbmReports reports) := by
  have hdev : ((s.seen seen).hbmReports reports).dev d = s.dev d := dev_of_units (units_of_offStack (s.arrived_offStack seen reports)) d
  rw [exec_devCmd hq he, exec_devCmd_bare (hdev ▸ hq) (hdev ▸ he), State.runDev_of_sound _ _ _ _ _ h]

/-- An uncorrectable read of the ward's control structures ends the operation poisoned and resets the ward (R250, R286). -/
theorem exec_devCmd_poisoned (h : ∃ r ∈ reports, r.uncorr = true ∧ s.ctrlSector o.ward r.sector = true)
    (hst : (s.ward o.ward).st = .running) (hjob : (s.ward o.ward).job.isSome = true) :
    Answers (devCmd o.kind d seen reports) s fun t => (t.ward o.ward).st = .resetting ∧ (t.ward o.ward).resetStatus = St.poison.code ∧
      (t.dev d).ended = some { status := .poison, cause := 0x48 } ∧ (t.dev d).queue = (s.dev d).queue := by
  have harr := s.arrived_offStack seen reports
  set u := (s.seen seen).hbmReports reports
  have hwards : u.wards = s.wards := wards_of_offStack harr
  have hward : (u.devEnd d { status := .poison, cause := 0x48 }).ward o.ward = s.ward o.ward := congrArg (Tab.get · o.ward) hwards
  have hctrl (k : Nat) : (u.devEnd d { status := .poison, cause := 0x48 }).ctrlSector o.ward k = s.ctrlSector o.ward k :=
    congrArg (State.ctrlSector · o.ward k) (a₁ := u.offStack) (a₂ := s.offStack) harr
  obtain ⟨t, ht, hres, hcode, hdevs⟩ := State.ctrlError_resets (s := u.devEnd d { status := .poison, cause := 0x48 }) (w := o.ward)
    (reports := reports) (by simpa only [hctrl] using h) (by rw [hward]; exact hst) (by rw [hward]; exact hjob)
  have hrun : s.runDev d o seen reports none = t := by
    unfold State.runDev
    dsimp only
    rw [ht]
  have hdev : t.dev d = { s.dev d with ended := some { status := .poison, cause := 0x48 } } := by
    have hu : u.dev d = s.dev d := dev_of_units (units_of_offStack harr) d
    refine (congrArg (Tab.get · d) hdevs).trans ((State.modDev_dev_same u d _).trans ?_)
    rw [hu]
  exact ⟨t, (exec_devCmd hq he seen reports).trans (congrArg _ hrun), hres, hcode, by rw [hdev], by rw [hdev]⟩

end

/-! ### RAW copies of the schedule (R280) -/

section
variable {P : State → Prop} (hP : OffWards P) {s : State} (h : P s)
include hP h

theorem OffWards.pfDone (w k : Nat) : P (s.pfDone w k) := hP.ward s w _ h

theorem OffWards.pfLost (w d : Nat) (p : PfRun) (st : St) : P (s.pfLost w d p st) := by
  unfold State.pfLost
  extract_lets u
  have hu : P u := hP.ward _ _ _ (hP.ward s w _ h)
  split
  · exact hP.ward u _ _ hu
  · exact hu

theorem OffWards.copyFails (d : Nat) (o : DevOp) (f : AccFail) : P (s.copyFails d o f) := by
  unfold State.copyFails
  extract_lets u
  have hu : P u := by
    refine iteInduction (motive := P) (fun _ => hP.countFault h _) fun _ => h
  split
  · split
    · exact hu
    · rename_i p _
      refine hP.pfDone ?_ _ _
      have hrec : P (u.pfRecord o.ward d p f.st 0x38) := hP.report hu _
      exact iteInduction (motive := P) (fun _ => hP.jobFault hrec _ _) fun _ => hP.pfLost hrec _ d p _
  · exact hu

/-- A copy whose source holds no uncorrectable word of a tile store. -/
theorem OffWards.runCopy (d : Nat) (o : DevOp) (un : List Nat)
    (hsoft : s.softAt o.ward o.ctx ((s.ward o.ward).srcSpans o 0 o.count) = none) : P (s.runCopy d o un) := by
  unfold State.runCopy
  extract_lets w
  split
  · exact hP.copyFails h d o _
  · rename_i i k _ hsome
    exact absurd (hsoft.symm.trans hsome) (by simp)
  · have hread := hP.toAccess.readSpans h w o.ctx ((s.ward w).srcSpans o 0 o.count) un
    split
    rename_i u r heq
    rw [heq] at hread
    extract_lets ws t
    refine iteInduction (motive := P) (fun _ => hP.copyFails hread d o _) fun _ => ?_
    have ht : P t := hP.dmaWrites hread w o.ctx false [] (coalesce ws)
    split
    · exact hP.pfDone ht _ _
    · exact ht

end

/-- The oldest RAW copy of the die is made where no MOVE runs. -/
theorem execMove_copies {s : State} {d : Nat} {c : DevOp} {cr : List DevOp} (hhead : s.devHead d .move = none)
    (hcopies : (s.dev d).copies = c :: cr) (hsoft : s.softAt c.ward c.ctx ((s.ward c.ward).srcSpans c 0 c.count) = none) :
    Answers (.move d {}) s fun t => t.dev d = { s.dev d with copies := cr } ∧ DevKept s t d := by
  have hexec : execMove d {} s = .next ((s.modDev d fun y => { y with copies := cr }).runCopy d c []) := by
    unfold execMove
    rw [hhead, hcopies]
    rfl
  have hcopy : DevIs s ((s.modDev d fun y => { y with copies := cr }).runCopy d c []) d { s.dev d with copies := cr } :=
    (DevIs.offWards s d _).runCopy ((DevIs.refl s d).modDev fun y => { y with copies := cr }) d c [] hsoft
  exact ⟨_, hexec, hcopy.dev, hcopy.kept rfl⟩

/-! ### The ends of an operation, by kind -/

section
variable {s : State} {d : Nat} {o : DevOp} {rest : List DevOp} (hq : (s.dev d).queue = o :: rest) (he : (s.dev d).ended = none)
include hq he

/-- The command of the front's kind, with nothing arriving, leaves what the operation does. -/
theorem answers_devCmd {c : Instr} {P : State → Prop} (hc : c = devCmd o.kind d [] []) (h : P (s.runKind d o {})) : Answers c s P :=
  ⟨_, hc ▸ exec_devCmd_bare hq he, h⟩

theorem moves (hkind : o.kind = .move) (huse : ∀ c, o.use ≠ .build c) :
    (∀ f, s.spansBad o.ward o.ctx ((s.ward o.ward).srcSpans o.plateSrc 0 (o.count * devUnit o.pkind o.pfmt)) false = some f →
      Answers (.move d {}) s fun t => DevFailed s t d o.ward f) ∧
    (s.spansBad o.ward o.ctx ((s.ward o.ward).srcSpans o.plateSrc 0 (o.count * devUnit o.pkind o.pfmt)) false = none →
      (∀ k < o.count, ∀ sp, o.plateSrc.unitSpans (s.ward o.ward) (decide (o.pkind < 2)) k (devUnit o.pkind o.pfmt) = some sp →
        s.spansBad o.ward o.ctx sp true = none) →
      Answers (.move d {}) s fun t =>
        (t.dev d).ended = some { poison := (s.readUnits o.plateSrc [] o.count (devUnit o.pkind o.pfmt)).2.2 } ∧ DevKept s t d) := by
  have hrun : s.runKind d o {} = s.runMove d o {} := by rw [State.runKind, hkind]
  refine ⟨fun f hsrc => answers_devCmd hq he (hkind ▸ rfl) ?_, fun hsrc hdst => answers_devCmd hq he (hkind ▸ rfl) ?_⟩
  · rw [hrun, State.runMove_source huse hsrc]
    exact State.devFails_failed s d o.ward f
  · obtain ⟨ws, hws⟩ := State.runMove_writes (d := d) (g := {}) huse hsrc hdst
    rw [hrun, hws]
    have hread := (DevIs.offAccess s d (s.dev d)).readUnits (DevIs.refl s d) o.plateSrc [] o.count (devUnit o.pkind o.pfmt)
    have hend := (DevIs.devWrite hread o.ward o.ctx ws).devEnd { poison := (s.readUnits o.plateSrc [] o.count (devUnit o.pkind o.pfmt)).2.2 }
    exact ⟨congrArg Dev.ended hend.dev, hend.kept rfl⟩

theorem moves_build (hkind : o.kind = .move) (huse : ∃ c, o.use = .build c) :
    Answers (.move d {}) s fun t => (t.dev d).ended = some {} ∧ DevKept s t d := by
  obtain ⟨c, huse⟩ := huse
  refine answers_devCmd hq he (hkind ▸ rfl) ?_
  obtain ⟨n, hcopy⟩ := (DevIs.refl s d).publishCopy o.ward c o
  rw [State.runKind, hkind]
  dsimp only
  rw [State.runMove_publishes s d {} huse]
  have hend := hcopy.devEnd {}
  exact ⟨congrArg Dev.ended hend.dev, hend.kept rfl⟩

theorem quantizes (hkind : o.kind = .quant) :
    (∀ f, s.spansBad o.ward o.ctx (o.quantSource (s.ward o.ward)) false = some f → Answers (.quant d {}) s fun t => DevFailed s t d o.ward f) ∧
    (s.spansBad o.ward o.ctx (o.quantSource (s.ward o.ward)) false = none →
      (∀ sp ∈ o.quantSpans (s.ward o.ward), s.spansBad o.ward o.ctx sp true = none) →
      Answers (.quant d {}) s fun t => (t.dev d).ended = some {} ∧ (t.dev d).counted = 0 ∧ DevKept s t d) := by
  have hrun : s.runKind d o {} = s.runQuant d o {} := by rw [State.runKind, hkind]
  refine ⟨fun f hsrc => answers_devCmd hq he (hkind ▸ rfl) ?_, fun hsrc hdst => answers_devCmd hq he (hkind ▸ rfl) ?_⟩
  · rw [hrun, State.runQuant_source hsrc]
    exact State.devFails_failed s d o.ward f
  · obtain ⟨ws, delta, gen, hws⟩ := State.runQuant_writes (d := d) (g := {}) hsrc hdst
    rw [hrun, hws]
    have hread := (DevIs.offAccess s d (s.dev d)).quantPlates (DevIs.refl s d) d o []
    have hsite := (DevIs.offWards s d _).addSite (DevIs.devWrite hread o.ward o.ctx ws) d (cwOf o.cw).site delta
    have hend := (DevIs.modDev hsite fun y => { y with gen := gen, counted := 0 }).devEnd {}
    exact ⟨congrArg Dev.ended hend.dev, congrArg Dev.counted hend.dev, hend.kept rfl⟩

theorem encodes_over (hkind : o.kind = .encode) (hover : s.spillOver o = true) :
    Answers (.encode d {}) s fun t => OnlyDev s t d { s.dev d with ended := some {} } := by
  refine answers_devCmd hq he (hkind ▸ rfl) ?_
  rw [State.runKind, hkind]
  dsimp only
  rw [State.runEncode_over d {} hover]
  exact State.modDev_only s d _

theorem encodes_source (hkind : o.kind = .encode) (hover : s.spillOver o = false) {f : AccFail}
    (hsrc : s.spansBad o.ward o.ctx ((s.ward o.ward).srcSpans o.plateSrc 0 (o.count * devUnit o.pkind o.pfmt)) false = some f) :
    Answers (.encode d {}) s fun t => DevFailed s t d o.ward f := by
  refine answers_devCmd hq he (hkind ▸ rfl) ?_
  rw [State.runKind, hkind]
  dsimp only
  rw [State.runEncode_source hover hsrc]
  exact State.devFails_failed s d o.ward f

section
variable {s1 s2 s3 : State} {off tv : Nat} {o' : DevOp} {us : List (List Byte)} {p good : Bool} {tb : RdOut} {bs : List Byte}
  (hkind : o.kind = .encode) (hover : s.spillOver o = false) (htv : tv = (s.ward o.ward).reg oEncTbl + 512 * o.tbl)
  (hsrc : s.spansBad o.ward o.ctx ((s.ward o.ward).srcSpans o.plateSrc 0 (o.count * devUnit o.pkind o.pfmt)) false = none)
  (htbl : s.spansBad o.ward o.ctx [(tv, 512)] false = none)
  (hread : s.readUnits o.plateSrc [] o.count (devUnit o.pkind o.pfmt) = (s1, us, p)) (htab : s1.readVa o.ward o.ctx tv 512 = (s2, tb))
  (henc : encodeNeg o.pkind o.pfmt tb.bytes us = (off, bs, good)) (hdst : s2.spillDst o.plateSrc (off + bs.length) = (s3, o'))
  (hroom : (∃ i k, o.use = .spill i k ∨ o.use = .swapOut i k) → o'.dst.toNat + off + bs.length ≤ o'.dstChunks.length * chunkBytes)
  (hok : s3.spansBad o.ward o.ctx ((s3.ward o.ward).dstSpans o' off bs.length) true = none)
include hkind hover htv hsrc htbl hread htab henc hdst hroom hok

/-- An encoding that is written; that of a spill is noted with its sequence. -/
theorem encodes_writes : Answers (.encode d {}) s fun t => DevKept s t d ∧
    t.dev d = { s.dev d with ended := some (if good then { poison := p } else { status := .tierFail, cause := 0x40, poison := p }),
                             outBytes := (s.dev d).outBytes + bs.length } ∧
    ∀ i k, o.use = .spill i k → (t.ward o.ward).seqs.get i = ((s.ward o.ward).seqs.get i).spilled d k o' (off + bs.length) := by
  refine answers_devCmd hq he (hkind ▸ rfl) ?_
  rw [State.runKind, hkind]
  have hdev := State.runEncode_dev (d := d) hover htv hsrc htbl hread htab henc hdst hroom hok
  exact ⟨hdev.kept rfl, hdev.dev, fun i k => State.runEncode_seq hover htv hsrc htbl hread htab henc hdst hroom hok⟩

end

/-- The spans of a negative's header fail. -/
theorem develops_source (hkind : o.kind = .develop) {o' : DevOp} (ho : o' = s.devSource d o) {f : AccFail}
    (hsrc : s.spansBad o'.ward o'.ctx ((s.ward o.ward).srcSpans o' 0 576) false = some f) :
    Answers (.develop d [] []) s fun t => DevFailed s t d o.ward f := by
  have hward : o'.ward = o.ward := ho ▸ s.devSource_ward d o
  rw [← hward] at hsrc ⊢
  refine answers_devCmd hq he (hkind ▸ rfl) ?_
  rw [State.runKind, hkind]
  dsimp only
  rw [State.runDevelop_source ho hsrc]
  exact State.devFails_failed s d o'.ward f

section
variable {o' : DevOp} {s1 : State} {b : RdOut} (hkind : o.kind = .develop) (ho : o' = s.devSource d o)
  (hsrc : s.spansBad o'.ward o'.ctx ((s.ward o.ward).srcSpans o' 0 576) false = none)
  (hread : s.readSpans o'.ward o'.ctx ((s.ward o.ward).srcSpans o' 0 576) [] = (s1, b))
include hread

omit hq he in
theorem develops_header_dev : DevIs s s1 d (s.dev d) := by
  have h1 := (DevIs.offAccess s d (s.dev d)).readSpans (DevIs.refl s d) o'.ward o'.ctx ((s.ward o.ward).srcSpans o' 0 576) []
  rw [hread] at h1
  exact h1

include hkind ho hsrc

theorem develops_poison (hbad : b.bad.any id = true) : Answers (.develop d [] []) s fun t =>
    (t.dev d).ended = some { status := .poison, cause := 0x48, poison := true } ∧ DevKept s t d := by
  have hend := (develops_header_dev (d := d) hread).devEnd { status := .poison, cause := 0x48, poison := true }
  rw [← (ho ▸ s.devSource_ward d o : o'.ward = o.ward)] at hsrc hread
  refine answers_devCmd hq he (hkind ▸ rfl) ?_
  rw [State.runKind, hkind]
  dsimp only
  rw [State.runDevelop_poison (g := {}) ho hsrc hread hbad]
  exact ⟨congrArg Dev.ended hend.dev, hend.kept rfl⟩

variable (hgood : b.bad.any id = false)
include hgood

theorem develops_magic (hneg : negOf b.bytes = none) : Answers (.develop d [] []) s fun t =>
    (t.dev d).ended = some { status := .tierFail, cause := 0x40 } ∧ DevKept s t d := by
  have hend := (develops_header_dev (d := d) hread).devEnd { status := .tierFail, cause := 0x40 }
  rw [← (ho ▸ s.devSource_ward d o : o'.ward = o.ward)] at hsrc hread
  refine answers_devCmd hq he (hkind ▸ rfl) ?_
  rw [State.runKind, hkind]
  dsimp only
  rw [State.runDevelop_magic (g := {}) ho hsrc hread hgood hneg]
  exact ⟨congrArg Dev.ended hend.dev, hend.kept rfl⟩

variable {h : Neg} {s2 : State} {e : RdOut} {off : Nat} (hneg : negOf b.bytes = some h) (hframes : h.frames = 1)
  (hdir : s1.spansBad o'.ward o'.ctx ((s1.ward o'.ward).srcSpans o' h.dirOff 8) false = none)
  (hentry : s1.readSpans o'.ward o'.ctx ((s1.ward o'.ward).srcSpans o' h.dirOff 8) [] = (s2, e)) (hclean : e.bad.any id = false)
  (hoff : h.frameAt (sliceNat e.bytes 0 8) = some off)
include hneg hframes hdir hentry hclean hoff

omit hq he in
/-- A negative of one frame: the header and the directory are read, the frame is next. -/
theorem develops_single : s.runKind d o {} = State.developFrames d o' h {} [(0, off)] s2 ∧ DevIs s s2 d (s.dev d) := by
  have h2 := (DevIs.offAccess s d (s.dev d)).readSpans (develops_header_dev (d := d) hread) o'.ward o'.ctx
    ((s1.ward o'.ward).srcSpans o' h.dirOff 8) []
  rw [hentry] at h2
  rw [← (ho ▸ s.devSource_ward d o : o'.ward = o.ward)] at hsrc hread
  refine ⟨?_, h2⟩
  rw [State.runKind, hkind]
  exact State.runDevelop_single (g := {}) ho hsrc hread hgood hneg hframes hdir hentry hclean hoff

end

section
variable {o' : DevOp} {h : Neg} {off m : Nat} {t s3 s4 : State} {hd fb : RdOut} (hkind : o.kind = .develop)
  (hrun : s.runKind d o {} = State.developFrames d o' h {} [(0, off)] t) (ht : DevIs s t d (s.dev d))
  (hhead : t.spansBad o'.ward o'.ctx ((t.ward o'.ward).srcSpans o' off 16) false = none)
  (hheadread : t.readSpans o'.ward o'.ctx ((t.ward o'.ward).srcSpans o' off 16) [] = (s3, hd))
  (hm : m = max 16 (min (leNat (hd.bytes.take 4)) (h.length - off)))
  (hbody : s3.spansBad o'.ward o'.ctx ((t.ward o'.ward).srcSpans o' off m) false = none)
  (hbodyread : s3.readSpans o'.ward o'.ctx ((t.ward o'.ward).srcSpans o' off m) [] = (s4, fb)) (hfine : fb.bad.any id = false)
include ht hheadread hbodyread

omit hq he in
theorem develops_frame_dev : DevIs s s4 d (s.dev d) := by
  have hP := DevIs.offAccess s d (s.dev d)
  have h3 := hP.readSpans ht o'.ward o'.ctx ((t.ward o'.ward).srcSpans o' off 16) []
  rw [hheadread] at h3
  have h4 := hP.readSpans h3 o'.ward o'.ctx ((t.ward o'.ward).srcSpans o' off m) []
  rw [hbodyread] at h4
  exact h4

include hkind hrun hhead hm hbody hfine

theorem develops_error {c : Nat} (herr : h.frame fb.bytes 0 off = .error c) : Answers (.develop d [] []) s fun t =>
    (t.dev d).ended = some { status := if c = 0x44 then .scaleSkew else .tierFail, cause := c } ∧ DevKept s t d := by
  refine answers_devCmd hq he (hkind ▸ rfl) ?_
  rw [hrun, State.developFrames_error (g := {}) hhead hheadread hm hbody hbodyread hfine herr]
  have hend := (develops_frame_dev ht hheadread hbodyread).devEnd { status := if c = 0x44 then .scaleSkew else .tierFail, cause := c }
  exact ⟨congrArg Dev.ended hend.dev, hend.kept rfl⟩

theorem develops_writes {us : List (List Byte)} (hus : h.frame fb.bytes 0 off = .ok us)
    (hdst : ∀ e ∈ frameWrites (t.ward o'.ward) o' h 0 us, s4.spansBad o'.ward o'.ctx e.1 true = none) :
    Answers (.develop d [] []) s fun u => (u.dev d).ended = some {} ∧ DevKept s u d ∧
      (u.dev d).outBytes = (s.dev d).outBytes + ((frameWrites (t.ward o'.ward) o' h 0 us).map fun e => e.2.1.length).sum := by
  refine answers_devCmd hq he (hkind ▸ rfl) ?_
  rw [hrun, State.developFrames_writes (g := {}) hhead hheadread hm hbody hbodyread hfine hus hdst]
  have hend := ((develops_frame_dev ht hheadread hbodyread).devWrite o'.ward o'.ctx (frameWrites (t.ward o'.ward) o' h 0 us)).devEnd {}
  exact ⟨congrArg Dev.ended hend.dev, hend.kept rfl, congrArg Dev.outBytes hend.dev⟩

end

end

/-- Settles O44: one lemma per kind and end. The model's choices: what a QUANT takes as its source (log entry 52), and that MOVE
makes the RAW copies of the schedule while no MOVE heads the queue (log entry 53). -/
theorem developerOperationsEnd : Obligations.DeveloperOperationsEnd := by
  unfold Obligations.DeveloperOperationsEnd
  refine ⟨?_, fun s d seen reports hq => ?_⟩
  · rintro s d x o o1 rest n u y rfl hq rfl rfl rfl rfl
    intro cmd same fails
    have hcmd (seen : List (Nat × Byte)) (reports : List HbmRep) : cmd seen reports = devCmd o.kind d seen reports := rfl
    refine ⟨fun he => ⟨fun seen reports h => ?_, fun seen reports h hst hjob => ?_⟩, fun he hkind huse => moves hq he hkind huse,
      fun he hkind huse => moves_build hq he hkind huse, ?_, ?_, ?_, fun hidle => ⟨fun hcopies seen reports => ?_, fun c cr hcopies hsoft => ?_⟩,
      fun seen reports => ⟨fun hidle => ?_, fun hidle => ?_, fun hidle => ?_⟩⟩
    · rw [hcmd, hcmd]
      exact exec_devCmd_arrived hq he seen h
    · rw [hcmd]
      exact exec_devCmd_poisoned hq he seen h hst hjob
    · rintro he hkind c dst rfl rfl
      exact quantizes hq he hkind
    · refine fun he hkind => ⟨encodes_over hq he hkind, fun hover tv htv => ⟨fun f => encodes_source hq he hkind hover, ?_⟩⟩
      intro hsrc htbl s1 us p s2 tb off bs good s3 o' hread htab henc hdst hroom hok
      refine (encodes_writes hq he hkind hover htv hsrc htbl hread htab henc hdst hroom hok).imp ?_
      rintro t ⟨hkept, hdev, hseq⟩
      refine ⟨hkept, hdev, fun i k hspill => ?_⟩
      rw [hseq i k hspill]
      exact ⟨rfl, rfl, rfl⟩
    · rintro he hkind o' ho sp rfl
      refine ⟨fun f => develops_source hq he hkind ho, fun hsrc s1 b hread =>
        ⟨develops_poison hq he hkind ho hsrc hread, develops_magic hq he hkind ho hsrc hread, ?_⟩⟩
      intro hgood h s2 e off hneg hframes hdir hentry hclean hoff z hz hhead s3 hd m hheadread hm hbody s4 fb hbodyread hfine
      subst hz
      obtain ⟨hrun, ht⟩ := develops_single hkind ho hsrc hread hgood hneg hframes hdir hentry hclean hoff
      refine ⟨fun c => develops_error hq he hkind hrun ht hhead hheadread hm hbody hbodyread hfine, ?_⟩
      rintro us ws hus rfl hdst
      exact develops_writes hq he hkind hrun ht hhead hheadread hm hbody hbodyread hfine hus hdst
    · exact execMove_idle seen reports (State.devHead_none hq hidle) hcopies
    · exact execMove_copies (State.devHead_none hq hidle) hcopies hsoft
    · exact execQuant_idle seen reports (State.devHead_none hq hidle)
    · exact execEncode_idle seen reports (State.devHead_none hq hidle)
    · exact execDevelop_idle seen reports (State.devHead_none hq hidle)
  · exact ⟨execDevelop_idle seen reports (State.devHead_empty hq _), execQuant_idle seen reports (State.devHead_empty hq _),
      execEncode_idle seen reports (State.devHead_empty hq _), fun hcopies => execMove_idle seen reports (State.devHead_empty hq _) hcopies⟩

end Sys2Proof.Machine
end
